-- ==== Sys2Proof/Word.lean ====
section
/-! DEFINITION. The word types of the model: bytes, the widths the spec names, and identifiers (R8). -/

namespace Sys2Proof

abbrev Byte := BitVec 8
abbrev W16 := BitVec 16
abbrev W32 := BitVec 32
abbrev W64 := BitVec 64

/-- A core ID, (row << 6) | column (R8). -/
abbrev CoreId := BitVec 11

/-- A Guyline port, 0 to 11 (R8). -/
abbrev Port := Fin 12

/-- A local address of 42 bits (R9). -/
abbrev LAddr := BitVec 42

end Sys2Proof
end

