-- ==== Sys2Proof/Syntax.lean ====
section
/-! DEFINITION. The commands of the block: one constructor per row of spec/opcode_table.json, in the table's order, and
the operand types they carry. -/

namespace Sys2Proof

/-- The parcel of R37: 32 data bytes (byte i in bits [8i+7:8i]) with the sideband fields CHECK, POISON and CCLASS. -/
structure Parcel where
  data : BitVec 256 := 0
  check : W16 := 0
  poison : Bool := false
  cclass : BitVec 3 := 0
  deriving DecidableEq, Repr

/-- The scalar form of R177: RD, RA, RB, IMM, VAR and IMM32. -/
structure Scalar where
  rd : BitVec 4
  ra : BitVec 4
  rb : BitVec 4
  imm : Bool
  var : Bool
  imm32 : W32
  deriving DecidableEq, Repr

/-- The operand fields of PASS (R177), with its two indirect flags (R174). -/
structure PassF where
  ia : Bool
  ib : Bool
  shape : BitVec 2
  tcode : BitVec 2
  piece : BitVec 2
  part : Bool
  grp : BitVec 3
  cplx : Bool
  astride : BitVec 10
  block : BitVec 18
  deriving DecidableEq, Repr

/-- The operand fields of DRAIN (R177); the MODE is the row of the table. -/
structure DrainF where
  bm : Bool
  ia : Bool
  ib : Bool
  cfg : BitVec 4
  grp : BitVec 3
  nrowsM1 : BitVec 6
  tagreg : BitVec 4
  dest : BitVec 18
  deriving DecidableEq, Repr

/-- The vector form of R177; FORM is the row of the table. -/
structure VecF where
  ia : Bool
  ib : Bool
  grp : BitVec 3
  vpr : BitVec 18
  deriving DecidableEq, Repr

/-- The sender of a datagram, to whom the reply goes (R406): address, port and MAC. -/
structure Peer where
  ip : BitVec 128
  port : W16
  mac : BitVec 48
  deriving DecidableEq, Repr

/-- One operation of the Parameter Protocol (R408) as its session sends it: TYPE, subindex, OFFSET and DATA. The entry's
index is an operand of its own where the row does not fix it. -/
structure OpReq where
  sid : W32
  enc : Bool
  typ : Byte
  sub : Byte
  offset : W64
  data : List Byte
  deriving DecidableEq, Repr

/-- What the hold-up check of R396 measures: the drop on the test draw in µV, the bank voltage and the input in mV. -/
structure Holdup where
  dvUv : Nat
  vbMv : Nat
  inMv : Nat
  deriving DecidableEq, Repr

/-- The straps as the tray ties them (R492). -/
structure Straps where
  mstrSel : Bool
  helrun : Bool
  traySlot : BitVec 6
  deriving DecidableEq, Repr

/-- What a flash block's write goes by: the hold-up bank as its check finds it (R396), and the straps as the reset after the last block
samples them (R455, R459, R492). -/
structure FlashTry where
  h : Holdup
  straps : Straps
  deriving DecidableEq, Repr

/-- A burst of a channel on its way in: the bits of the parcel and its CHECK and MCHK that are damaged on the way (R281, R290). -/
structure BurstIn where
  ch : Byte
  flip : BitVec 288
  deriving DecidableEq, Repr

/-- What the training of a port finds: the round trip in ps, the lanes whose polarity is inverted, and a reversed lane order (R322, R323). -/
structure LinkFound where
  rttPs : Nat
  inverted : BitVec 4
  reversed : Bool
  deriving DecidableEq, Repr

/-- A split-node flit at a port, with what the sending module knows of its sums and the header does not carry: their form and their
saturation (R128, R352; log 19). -/
structure NodeIn where
  p : Port
  integer : Bool
  sat : Bool
  deriving DecidableEq, Repr

/-- One reading round of the coolant loop (R391): the 64 on-die sensors in 1/16 °C, uncorrected, and the three tray sensors,
none where a sensor gave no answer (R495). -/
structure CoolReading where
  dies : List Int
  inlet : Option Int
  outlet : Option Int
  flow : Option Nat
  deriving DecidableEq, Repr

/-- A parcel block of Guyline (R324): its control byte and its payload. -/
structure PBlock where
  ctl : Byte
  data : BitVec 256
  deriving DecidableEq, Repr

/-- What caused a restart of Ranger (R404). -/
inductive RestartCause where
  | watchdog | sram | romParity
  deriving DecidableEq, Repr

/-- The commands. The comment over a group names its chapter; each row's rule stands at its meaning. -/
inductive Instr where
  -- sequencer instructions (06)
  | nop (c : CoreId) (w : W64)
  | add (c : CoreId) (f : Scalar)
  | sub (c : CoreId) (f : Scalar)
  | mul (c : CoreId) (f : Scalar)
  | and (c : CoreId) (f : Scalar)
  | or (c : CoreId) (f : Scalar)
  | shl (c : CoreId) (f : Scalar)
  | shr (c : CoreId) (f : Scalar)
  | ldi (c : CoreId) (f : Scalar)
  | lds (c : CoreId) (f : Scalar)
  | sts (c : CoreId) (bm : Bool) (f : Scalar)
  | wld (c : CoreId) (ia : Bool) (tile : BitVec 18)
  | pass (c : CoreId) (f : PassF)
  | aclr (c : CoreId) (ia : Bool) (base depthM1 : BitVec 3) (integer : Bool)
  | drain (c : CoreId) (f : DrainF)
  | drainSplitNode (c : CoreId) (f : DrainF)
  | mvd (c : CoreId) (f : VecF)
  | mvsRow (c : CoreId) (f : VecF)
  | mvsGather (c : CoreId) (f : VecF)
  | isxDot (c : CoreId) (f : VecF)
  | isxSampled (c : CoreId) (f : VecF)
  | mrg (c : CoreId) (f : VecF)
  | sct (c : CoreId) (f : VecF)
  | arm (c : CoreId) (bm ia : Bool) (eng : BitVec 3) (list : LAddr)
  | waits (c : CoreId) (mask : Byte)
  | waitany (c : CoreId) (rd : BitVec 4) (mask : Byte)
  | dpkOut (c : CoreId) (bm ia : Bool) (lenM1 : BitVec 3) (areg : BitVec 4) (loc : BitVec 18)
  | dpkIn (c : CoreId) (ia : Bool) (lenM1 : BitVec 3) (areg : BitVec 4) (loc : BitVec 18)
  | cbar (c : CoreId) (ch : BitVec 4)
  | csig (c : CoreId) (ch : BitVec 4)
  | bopen (c : CoreId) (pwp : Bool) (ch : BitVec 4)
  | bcommit (c : CoreId) (rd : BitVec 4)
  | babort (c : CoreId) (rd : BitVec 4)
  | tkt (c : CoreId) (rd : BitVec 4) (ia : Bool) (ctr : BitVec 6)
  | tktset (c : CoreId) (ra : BitVec 4) (clr ia : Bool) (ctr : BitVec 6)
  | loop (c : CoreId) (lc : BitVec 2) (ia : Bool) (endIdx : BitVec 12) (count : BitVec 24)
  | endl (c : CoreId) (lc : BitVec 2) (body : BitVec 12)
  | br (c : CoreId) (cond ra : BitVec 4) (ia : Bool) (target : BitVec 12)
  | bkt (c : CoreId) (rd ra : BitVec 4) (src : Bool) (btab : Byte)
  | halt (c : CoreId)
  | chain (c : CoreId) (ia : Bool) (cfg : BitVec 4) (rec : BitVec 18)
  | stepCtr (c : CoreId) (rd : BitVec 4)
  | instructionFetch (c : CoreId)
  -- matrix array and accumulator (03, 04), drain chain (06, 02)
  | feederFillStart (c : CoreId)
  | feederFillDone (c : CoreId) (second : Bool)
  | feederRelease (c : CoreId)
  | cellTokenStart (c : CoreId) (r j : BitVec 6)
  | cellStep (c : CoreId) (r j : BitVec 6)
  | tokenSlotEnd (c : CoreId) (r j : BitVec 6)
  | rowLoadRead (c : CoreId)
  | shadowCopy (c : CoreId) (r j : BitVec 6)
  | bottomStage (c : CoreId) (r j : BitVec 6)
  | accCombine (c : CoreId) (base : BitVec 3) (e : BitVec 12)
  | aclrTakeEffect (c : CoreId)
  | drainRowRead (c : CoreId)
  | splitNodeArrival (c : CoreId)
  | chainStage (c : CoreId) (k : Nat)
  | packerEmit (c : CoreId)
  -- vector path (05), work counters (06)
  | vecFillStart (c : CoreId)
  | vecFillDone (c : CoreId) (second : Bool)
  | vecBand (c : CoreId)
  | vecLeafEntry (c : CoreId)
  | intersectStep (c : CoreId)
  | sctSelectDone (c : CoreId)
  | tktServe (ctr : BitVec 6)
  | tktsetServe (ctr : BitVec 6)
  -- streams (07)
  | queuedArmStart (c : CoreId) (e : BitVec 3)
  | bundledArmStart (c : CoreId) (e : BitVec 3)
  | descEntry (c : CoreId) (e : BitVec 3)
  | rawEntry (c : CoreId) (e : BitVec 3)
  | listChain (c : CoreId) (e : BitVec 3)
  | streamElementRead (c : CoreId) (e : BitVec 3)
  | streamElementWrite (c : CoreId) (e : BitVec 3)
  | streamReadTimeout (c : CoreId) (e : BitVec 3)
  | streamWriteTimeout (c : CoreId) (e : BitVec 3)
  | portDelivery (c : CoreId) (e : BitVec 3)
  | armComplete (c : CoreId) (e : BitVec 3)
  | listHoldApply
  | regulatorWindow
  | regulatorGrant (ch : Byte)
  | daypackStep (plane : BitVec 2) (router : CoreId) (out : BitVec 3)
  | daypackLand (c : CoreId) (k : Nat)
  -- networks and slices (08)
  | trailSlot (plane : BitVec 2) (router : CoreId) (out : BitVec 3)
  | phaseTablesStart
  | whistleFlitHop (k : Nat)
  | remoteArm (c : CoreId)
  | errorNotice
  | controlBlockWrite (c : CoreId)
  | cairnBarrierComplete (ch : BitVec 4)
  | cairnTimeout (ch : BitVec 4)
  | bundleVoteComplete (ch : BitVec 4)
  | bundleWritesLanded (ch : BitVec 4)
  | sliceStep (k : Byte)
  | sliceLineFill (k : Byte)
  -- main memory (09)
  | lpddr6Read (ch : Byte) (bad : Nat)
  | lpddr6Write (w : BurstIn)
  | refresh (ch : Byte) (band : BitVec 2)
  | patrolScrub (ch : Byte) (bad : Nat)
  | lpddr6Training (ch : Byte) (seedsOk defaultOk : Bool)
  -- Guyline (11)
  | portStart (p : Port)
  | portTrainingDone (p : Port) (locked : Bool) (found : LinkFound)
  | portTrainRetry (p : Port)
  | portFail (p : Port) (lostLock : Bool)
  | flitTransmit (p : Port)
  | flitReceive (p : Port) (codewordOk : Bool) (fixed : Nat) (header : BitVec 256) (blocks : List PBlock)
  | ack (p : Port) (payload : BitVec 256)
  | nak (p : Port) (payload : BitVec 256)
  | flitEdgeDeliver (p : Port) (past : Nat)
  | readReq (p : Port)
  | readData (p : Port)
  | write (p : Port)
  | writeDone (p : Port)
  | node (n : NodeIn)
  | service (p : Port)
  | symbolResend (p : Port)
  | arrive (p : Port) (payload : BitVec 256)
  | release (p : Port) (payload : BitVec 256)
  | moduleWideComplete (ch : BitVec 4)
  | moduleWideTimeout (ch : BitVec 4)
  | ready (p : Port) (payload : BitVec 256)
  | start (p : Port) (payload : BitVec 256)
  | startRelease
  | timeSend (p : Port) (frac : BitVec 6)
  | time (p : Port) (payload : BitVec 256) (t4 : W64) (t4frac : BitVec 6)
  | syncLock
  | rateReq (p : Port) (payload : BitVec 256)
  | rateSet (p : Port) (payload : BitVec 256)
  | rateSetApply
  | refinLoss
  -- pacing, power domains and cooling (13)
  | stepPermit (late : Bool)
  | damperInterval (slack : List Nat)
  | loweringApply
  | thermalCheck
  | rateRestore
  | stepTargetApply
  | powerWindowEnd (meanW : Nat)
  | loopPeriodEnd (r : CoolReading)
  | thermalTrip
  | domainTransition
  -- Basecamp, Ranger and the protocol (14, 15)
  | basecampHeartbeatMiss
  | rangerRestart (cause : RestartCause)
  | parameterStoreDone (h : Holdup)
  | request (peer : Peer) (bytes : List Byte) (h : Holdup)
  | read (index : W16) (o : OpReq)
  | segmentRead (index : W16) (o : OpReq)
  | registerWrite (index : W16) (o : OpReq) (h : Holdup)
  | openSession (peer : Peer) (bytes : List Byte)
  | confirm (peer : Peer) (bytes : List Byte)
  | close (peer : Peer) (bytes : List Byte)
  | sessionIdleTimeout (sid : W32)
  -- service and Logbook (14, 12)
  | submit (peer : Peer) (bytes : List Byte)
  | submitFragmentTimeout (sid : W32) (reqId : W64)
  | admission (ch : BitVec 4)
  | epochRollover (h : Holdup)
  | outputHeaderPoll (ch : BitVec 4)
  | recordSign
  | fetch (peer : Peer) (bytes : List Byte)
  | fetchWindowExpiry (sid : W32) (reqId : W64)
  -- packs, resets, firmware, images and calibration (10, 15, 16, 17)
  | packImage (o : OpReq)
  | packInstall (o : OpReq)
  | packCheckComplete
  | packStart (o : OpReq) (h : Holdup)
  | packHalt (o : OpReq)
  | packFatalHalt
  | fabricReset (o : OpReq)
  | fabricResetComplete (seedsOk defaultOk : Bool)
  | paramDefaults (o : OpReq) (h : Holdup)
  | fwImage (o : OpReq)
  | fwInstall (o : OpReq) (h : Holdup)
  | fwBlockWrite (w : FlashTry)
  | fwBlockRetry (w : FlashTry)
  | wimgManifest (o : OpReq)
  | wimgData (o : OpReq)
  | wimgLoad (o : OpReq)
  | wimgHashComplete
  | calStore (o : OpReq) (h : Holdup)
  | selfCal (o : OpReq)
  | selfCalDone (h : Holdup)
  | arrayDiag (o : OpReq)
  | arrayDiagDone (fails : List (Nat × Nat))
  -- dictionary writes with rows of their own (15)
  | bwOpen (o : OpReq)
  | bwCommit (o : OpReq) (h : Holdup)
  | bwAbort (o : OpReq)
  | attestChallenge (o : OpReq)
  | ownerEnrol (o : OpReq) (h : Holdup)
  | logFetch (o : OpReq)
  | stepTarget (o : OpReq) (h : Holdup)
  | powerCap (o : OpReq) (h : Holdup)
  | regulatorSplit (o : OpReq)
  | slicePartition (o : OpReq)
  | domainRequest (o : OpReq)
  | logbookMode (o : OpReq) (h : Holdup)
  | valveOwner (o : OpReq) (h : Holdup)
  | maintenance (o : OpReq)
  | arrayRepairMap (o : OpReq) (h : Holdup)
  | coreRepairMap (o : OpReq) (h : Holdup)
  | glRouteTable (o : OpReq) (h : Holdup)
  | scoutThreshold (o : OpReq)
  | scoutDisable (o : OpReq)
  | coreCtrl (o : OpReq)
  | coreSelect (o : OpReq)
  | moduleId (o : OpReq) (h : Holdup)
  | vendorConsent (o : OpReq) (h : Holdup)
  | calibrationEntry (index : W16) (o : OpReq)
  | recoveryData (peer : Peer) (bytes : List Byte) (w : FlashTry)
  | recoveryQuery (peer : Peer) (bytes : List Byte)
  -- power pins, start-up and resets (17, 19)
  | pwrEnRise
  | pwrGoodRetry
  | pwrGoodRise (straps : Straps)
  | firmwareBootCheck
  | domainRamp (d : Fin 44)
  | fullParameterService
  | basecampReady
  | pwrEnFall
  | undervoltageTrip
  | overvoltageTrip
  | powerDownHoldEnd
  | modResetNFall (straps : Straps)
  | modResetNRise
  -- test port and management port (14, 18, 19)
  | extest
  | idcode
  | samplePreload (cells : BitVec 22)
  | clamp
  | trace
  | bypass
  | traceEnWrite (v : Byte)
  | mgmtLinkUp (cr : Bool)
  | mgmtLinkDown
  | arpRequest (peer : Peer) (target : W32)
  | echoRequest (peer : Peer) (v6 : Bool) (target : BitVec 128) (data : List Byte)
  | neighbourSolicitation (peer : Peer) (target : BitVec 128)
  | refinReturn
  | inputInRange
  | rangerRestartDone
  | testLogicReset
  | channelSyncLoss (ch : Byte)
  | observerAccessStart
  deriving DecidableEq, Repr

end Sys2Proof
end

