-- ==== Sys2Proof/Decode.lean ====
section
/-! DEFINITION. The 64-bit sequencer words of R174 and R177, read and written, and the host's entry over the table's bits:
spec/opcode_table.json gives no row any bits, so no word of its numbering spells a command. -/

namespace Sys2Proof

/-- The field of n bits at bit lo of a word. -/
def fld (w : W64) (lo n : Nat) : BitVec n := w.extractLsb' lo n

/-- A one-bit field as a flag. -/
def flag (w : W64) (i : Nat) : Bool := fld w i 1 = 1

/-- Are these fields, given as (lowest bit, width), all zero? Reserved fields must be (R174). -/
def zeros (w : W64) : List (Nat × Nat) → Bool
  | [] => true
  | (lo, n) :: r => fld w lo n = 0 && zeros w r

/-- The scalar form (R177); VAR is reserved unless allowed (R174). -/
def scalarOf (w : W64) (varOk : Bool) : Option Scalar :=
  if zeros w [(32, 2)] && (varOk || zeros w [(34, 1)]) then
    some { rd := fld w 44 4, ra := fld w 40 4, rb := fld w 36 4, imm := flag w 35, var := flag w 34, imm32 := fld w 0 32 }
  else none

/-- A scalar-form instruction without flags. -/
def plainScalar (w : W64) (varOk : Bool) : Option Scalar :=
  if zeros w [(48, 8)] then scalarOf w varOk else none

/-- The vector form (R177); MRG and SCT have GRP and IA reserved. -/
def vecOf (w : W64) (hasGrp : Bool) : Option VecF :=
  if zeros w [(48, 5), (55, 1), (41, 7), (18, 18)] && (hasGrp || zeros w [(38, 3), (54, 1)]) then
    some { ia := flag w 54, ib := flag w 53, grp := fld w 38 3, vpr := fld w 0 18 }
  else none

/-- DRAIN's fields (R177). -/
def drainOf (w : W64) : Option DrainF :=
  if zeros w [(48, 5), (45, 3), (18, 8)] then
    some { bm := flag w 55, ia := flag w 54, ib := flag w 53, cfg := fld w 41 4, grp := fld w 38 3, nrowsM1 := fld w 32 6,
           tagreg := fld w 26 4, dest := fld w 0 18 }
  else none

/-- The instruction that a word spells for core c, none for an illegal word (R174, R176, R177). -/
def decodeWord (c : CoreId) (w : W64) : Option Instr :=
  match (fld w 56 8).toNat with
  | 0x00 => if w = 0 then some (.nop c w) else none
  | 0x01 => (plainScalar w false).map (.add c)
  | 0x02 => (plainScalar w false).map (.sub c)
  | 0x03 => (plainScalar w false).map (.mul c)
  | 0x04 => (plainScalar w false).map (.and c)
  | 0x05 => (plainScalar w false).map (.or c)
  | 0x06 => (plainScalar w false).map (.shl c)
  | 0x07 => (plainScalar w true).map (.shr c)
  | 0x08 => (plainScalar w true).map (.ldi c)
  | 0x09 => (plainScalar w false).map (.lds c)
  | 0x0A => if zeros w [(48, 7)] then (scalarOf w false).map (.sts c (flag w 55)) else none
  | 0x10 => if zeros w [(48, 6), (55, 1), (18, 30)] then some (.wld c (flag w 54) (fld w 0 18)) else none
  | 0x11 =>
    if zeros w [(48, 5), (55, 1), (36, 1), (18, 8)] then
      some (.pass c { ia := flag w 54, ib := flag w 53, shape := fld w 46 2, tcode := fld w 44 2, piece := fld w 42 2,
                      part := flag w 41, grp := fld w 38 3, cplx := flag w 37, astride := fld w 26 10, block := fld w 0 18 })
    else none
  | 0x12 =>
    if zeros w [(48, 6), (55, 1), (41, 7), (0, 34)] then
      some (.aclr c (flag w 54) (fld w 38 3) (fld w 35 3) (flag w 34))
    else none
  | 0x13 =>
    if (fld w 30 2).toNat = 0 then (drainOf w).map (.drain c)
    else if (fld w 30 2).toNat = 1 ∧ zeros w [(55, 1)] then (drainOf w).map (.drainSplitNode c)
    else none
  | 0x18 => if (fld w 36 2).toNat = 0 then (vecOf w true).map (.mvd c) else none
  | 0x19 =>
    if (fld w 36 2).toNat = 0 then (vecOf w true).map (.mvsRow c)
    else if (fld w 36 2).toNat = 1 then (vecOf w true).map (.mvsGather c) else none
  | 0x1A =>
    if (fld w 36 2).toNat = 0 then (vecOf w true).map (.isxDot c)
    else if (fld w 36 2).toNat = 1 then (vecOf w true).map (.isxSampled c) else none
  | 0x1B => if (fld w 36 2).toNat = 0 then (vecOf w false).map (.mrg c) else none
  | 0x1C => if (fld w 36 2).toNat = 0 then (vecOf w false).map (.sct c) else none
  | 0x20 => if zeros w [(48, 6), (45, 3)] then some (.arm c (flag w 55) (flag w 54) (fld w 42 3) (fld w 0 42)) else none
  | 0x21 => if zeros w [(8, 48)] then some (.waits c (fld w 0 8)) else none
  | 0x22 => if zeros w [(48, 8), (8, 36)] then some (.waitany c (fld w 44 4) (fld w 0 8)) else none
  | 0x23 =>
    if zeros w [(48, 6), (45, 3), (18, 19)] then
      if flag w 44 then
        if zeros w [(55, 1)] then some (.dpkIn c (flag w 54) (fld w 41 3) (fld w 37 4) (fld w 0 18)) else none
      else some (.dpkOut c (flag w 55) (flag w 54) (fld w 41 3) (fld w 37 4) (fld w 0 18))
    else none
  | 0x30 => if zeros w [(4, 52)] then some (.cbar c (fld w 0 4)) else none
  | 0x31 => if zeros w [(4, 52)] then some (.csig c (fld w 0 4)) else none
  | 0x38 => if zeros w [(5, 51)] then some (.bopen c (flag w 4) (fld w 0 4)) else none
  | 0x39 => if zeros w [(48, 8), (0, 44)] then some (.bcommit c (fld w 44 4)) else none
  | 0x3A => if zeros w [(48, 8), (0, 44)] then some (.babort c (fld w 44 4)) else none
  | 0x40 => if zeros w [(48, 6), (55, 1), (6, 38)] then some (.tkt c (fld w 44 4) (flag w 54) (fld w 0 6)) else none
  | 0x41 =>
    if zeros w [(48, 6), (55, 1), (44, 4), (7, 33)] then
      some (.tktset c (fld w 40 4) (flag w 6) (flag w 54) (fld w 0 6))
    else none
  | 0x48 =>
    if zeros w [(48, 6), (55, 1), (36, 10)] then
      some (.loop c (fld w 46 2) (flag w 54) (fld w 24 12) (fld w 0 24))
    else none
  | 0x49 => if zeros w [(48, 8), (12, 34)] then some (.endl c (fld w 46 2) (fld w 0 12)) else none
  | 0x4A =>
    if zeros w [(48, 6), (55, 1), (12, 28)] ∧ (fld w 44 4).toNat ≤ 4 then
      some (.br c (fld w 44 4) (fld w 40 4) (flag w 54) (fld w 0 12))
    else none
  | 0x4B =>
    if zeros w [(48, 8), (20, 19), (0, 12)] then some (.bkt c (fld w 44 4) (fld w 40 4) (flag w 39) (fld w 12 8)) else none
  | 0x4F => if zeros w [(0, 56)] then some (.halt c) else none
  | 0x50 =>
    if zeros w [(48, 6), (55, 1), (45, 3), (18, 23)] then some (.chain c (flag w 54) (fld w 41 4) (fld w 0 18)) else none
  | 0x51 => if zeros w [(48, 8), (0, 44)] then some (.stepCtr c (fld w 44 4)) else none
  | _ => none

/-- A flag as one bit. -/
def bit (b : Bool) : BitVec 1 := if b then 1 else 0

/-- The word of the scalar form (R177). -/
def scalarWord (op : Byte) (bm : Bool) (f : Scalar) : W64 :=
  op ++ bit bm ++ (0 : BitVec 7) ++ f.rd ++ f.ra ++ f.rb ++ bit f.imm ++ bit f.var ++ (0 : BitVec 2) ++ f.imm32

/-- The word of the vector form (R177). -/
def vecWord (op : Byte) (form : BitVec 2) (f : VecF) : W64 :=
  op ++ (0 : BitVec 1) ++ bit f.ia ++ bit f.ib ++ (0 : BitVec 12) ++ f.grp ++ form ++ (0 : BitVec 18) ++ f.vpr

/-- The word of DRAIN (R177). -/
def drainWord (mode : BitVec 2) (f : DrainF) : W64 :=
  (0x13 : Byte) ++ bit f.bm ++ bit f.ia ++ bit f.ib ++ (0 : BitVec 8) ++ f.cfg ++ f.grp ++ f.nrowsM1 ++ mode ++ f.tagreg ++
    (0 : BitVec 8) ++ f.dest

/-- The word of a sequencer instruction (R177); none for any other command. -/
def encodeWord : Instr → Option W64
  | .nop _ w => some w
  | .add _ f => some (scalarWord 0x01 false f)
  | .sub _ f => some (scalarWord 0x02 false f)
  | .mul _ f => some (scalarWord 0x03 false f)
  | .and _ f => some (scalarWord 0x04 false f)
  | .or _ f => some (scalarWord 0x05 false f)
  | .shl _ f => some (scalarWord 0x06 false f)
  | .shr _ f => some (scalarWord 0x07 false f)
  | .ldi _ f => some (scalarWord 0x08 false f)
  | .lds _ f => some (scalarWord 0x09 false f)
  | .sts _ bm f => some (scalarWord 0x0A bm f)
  | .wld _ ia tile => some ((0x10 : Byte) ++ (0 : BitVec 1) ++ bit ia ++ (0 : BitVec 36) ++ tile)
  | .pass _ f => some ((0x11 : Byte) ++ (0 : BitVec 1) ++ bit f.ia ++ bit f.ib ++ (0 : BitVec 5) ++ f.shape ++ f.tcode ++
      f.piece ++ bit f.part ++ f.grp ++ bit f.cplx ++ (0 : BitVec 1) ++ f.astride ++ (0 : BitVec 8) ++ f.block)
  | .aclr _ ia base d int => some ((0x12 : Byte) ++ (0 : BitVec 1) ++ bit ia ++ (0 : BitVec 13) ++ base ++ d ++ bit int ++
      (0 : BitVec 34))
  | .drain _ f => some (drainWord 0 f)
  | .drainSplitNode _ f => some (drainWord 1 f)
  | .mvd _ f => some (vecWord 0x18 0 f)
  | .mvsRow _ f => some (vecWord 0x19 0 f)
  | .mvsGather _ f => some (vecWord 0x19 1 f)
  | .isxDot _ f => some (vecWord 0x1A 0 f)
  | .isxSampled _ f => some (vecWord 0x1A 1 f)
  | .mrg _ f => some (vecWord 0x1B 0 f)
  | .sct _ f => some (vecWord 0x1C 0 f)
  | .arm _ bm ia eng list => some ((0x20 : Byte) ++ bit bm ++ bit ia ++ (0 : BitVec 9) ++ eng ++ list)
  | .waits _ m => some ((0x21 : Byte) ++ (0 : BitVec 48) ++ m)
  | .waitany _ rd m => some ((0x22 : Byte) ++ (0 : BitVec 8) ++ rd ++ (0 : BitVec 36) ++ m)
  | .dpkOut _ bm ia len areg loc => some ((0x23 : Byte) ++ bit bm ++ bit ia ++ (0 : BitVec 9) ++ (0 : BitVec 1) ++ len ++
      areg ++ (0 : BitVec 19) ++ loc)
  | .dpkIn _ ia len areg loc => some ((0x23 : Byte) ++ (0 : BitVec 1) ++ bit ia ++ (0 : BitVec 9) ++ (1 : BitVec 1) ++ len ++
      areg ++ (0 : BitVec 19) ++ loc)
  | .cbar _ ch => some ((0x30 : Byte) ++ (0 : BitVec 52) ++ ch)
  | .csig _ ch => some ((0x31 : Byte) ++ (0 : BitVec 52) ++ ch)
  | .bopen _ pwp ch => some ((0x38 : Byte) ++ (0 : BitVec 51) ++ bit pwp ++ ch)
  | .bcommit _ rd => some ((0x39 : Byte) ++ (0 : BitVec 8) ++ rd ++ (0 : BitVec 44))
  | .babort _ rd => some ((0x3A : Byte) ++ (0 : BitVec 8) ++ rd ++ (0 : BitVec 44))
  | .tkt _ rd ia ctr => some ((0x40 : Byte) ++ (0 : BitVec 1) ++ bit ia ++ (0 : BitVec 6) ++ rd ++ (0 : BitVec 38) ++ ctr)
  | .tktset _ ra clr ia ctr => some ((0x41 : Byte) ++ (0 : BitVec 1) ++ bit ia ++ (0 : BitVec 10) ++ ra ++ (0 : BitVec 33) ++
      bit clr ++ ctr)
  | .loop _ lc ia e n => some ((0x48 : Byte) ++ (0 : BitVec 1) ++ bit ia ++ (0 : BitVec 6) ++ lc ++ (0 : BitVec 10) ++ e ++ n)
  | .endl _ lc body => some ((0x49 : Byte) ++ (0 : BitVec 8) ++ lc ++ (0 : BitVec 34) ++ body)
  | .br _ cond ra ia target => some ((0x4A : Byte) ++ (0 : BitVec 1) ++ bit ia ++ (0 : BitVec 6) ++ cond ++ ra ++
      (0 : BitVec 28) ++ target)
  | .bkt _ rd ra src btab => some ((0x4B : Byte) ++ (0 : BitVec 8) ++ rd ++ ra ++ bit src ++ (0 : BitVec 19) ++ btab ++
      (0 : BitVec 12))
  | .halt _ => some 0x4F00000000000000
  | .chain _ ia cfg rec => some ((0x50 : Byte) ++ (0 : BitVec 1) ++ bit ia ++ (0 : BitVec 9) ++ cfg ++ (0 : BitVec 23) ++ rec)
  | .stepCtr _ rd => some ((0x51 : Byte) ++ (0 : BitVec 8) ++ rd ++ (0 : BitVec 44))
  | _ => none

/-- The command that a word of the table's numbering spells: the table gives no row any bits, so none (log 9). -/
def decodeTableWord (_nbits _w : Nat) : Option Instr := none

end Sys2Proof
end

