-- ==== Sys2Proof/Machine/Bits.lean ====
section
/-! DEFINITION. Bytes, words and check values: little-endian packing (R11), the CRC-16 of R39, MCHK (R281) and the CRC-32
that R325 takes from IEEE 802.3. -/

namespace Sys2Proof.Machine

/-- The little-endian number that a list of bytes spells (R11). -/
def leNat : List Byte → Nat
  | [] => 0
  | b :: r => b.toNat + 256 * leNat r

/-- The first n bytes of a number, least significant first (R11). -/
def leBytes : Nat → Nat → List Byte
  | 0, _ => []
  | n + 1, x => BitVec.ofNat 8 x :: leBytes n (x / 256)

/-- The big-endian number that a list of bytes spells (signatures and keys, R443). -/
def beNat (bs : List Byte) : Nat := bs.foldl (fun a b => 256 * a + b.toNat) 0

/-- A number as n bytes, most significant first. -/
def beBytes (n x : Nat) : List Byte := (leBytes n x).reverse

/-- Bytes off to off + n - 1 of a list; bytes that are not there read as zero. -/
def slice (bs : List Byte) (off n : Nat) : List Byte :=
  let r := (bs.drop off).take n
  r ++ List.replicate (n - r.length) 0

/-- The little-endian field of n bytes at offset off. -/
def fieldAt (bs : List Byte) (off n : Nat) : Nat := leNat (slice bs off n)

/-- Bits [hi:lo] of a number. -/
def bitsOf (x hi lo : Nat) : Nat := (x >>> lo) % 2 ^ (hi + 1 - lo)

/-- One bit of a number. -/
def bitOf (x i : Nat) : Bool := Nat.testBit x i

/-- A two's-complement field of n bits as an integer. -/
def signedOf (n x : Nat) : Int := if x < 2 ^ (n - 1) then x else (x : Int) - 2 ^ n

/-- An integer as a two's-complement field of n bits. -/
def unsignedOf (n : Nat) (x : Int) : Nat := (x % (2 ^ n : Int)).toNat

/-- The 32 bytes of a parcel's data. -/
def parcelBytes (d : BitVec 256) : List Byte := leBytes 32 d.toNat

/-- The parcel data that 32 bytes spell. -/
def bytesParcel (bs : List Byte) : BitVec 256 := BitVec.ofNat 256 (leNat (bs.take 32))

/-- One bit of the CRC-16 of R39: polynomial 0x1021, most significant bit first. -/
def crc16Bit (c : W16) : W16 := if c.msb then (c <<< 1) ^^^ 0x1021 else c <<< 1

/-- One byte of the CRC-16 of R39. -/
def crc16Byte (c : W16) (b : Byte) : W16 :=
  (List.range 8).foldl (fun c _ => crc16Bit c) (c ^^^ (b.zeroExtend 16 <<< 8))

/-- The CRC-16 of R39: initial value 0xFFFF, no reflection, no final XOR. -/
def crc16 (bs : List Byte) : W16 := bs.foldl crc16Byte 0xFFFF

/-- CHECK of a parcel at an address (R39): over the 32 data bytes and the byte that holds address bits [7:5]. -/
def checkOf (data : BitVec 256) (addr : Nat) : W16 :=
  crc16 (parcelBytes data ++ [BitVec.ofNat 8 ((addr >>> 5) % 8)])

/-- MCHK of a burst (R281): bits [11:0] of the CRC over sideband bits [19:0] and local address bits [41:8]. -/
def mchkOf (p : Parcel) (addr : Nat) : BitVec 12 :=
  let side := p.check.toNat + 65536 * (if p.poison then 1 else 0) + 131072 * p.cclass.toNat
  (crc16 (leBytes 3 side ++ leBytes 5 (addr >>> 8))).truncate 12

/-- One byte of the CRC-32 of IEEE 802.3 (R325; PRESUMED, log 22): reflected polynomial 0xEDB88320. -/
def crc32Byte (c : W32) (b : Byte) : W32 :=
  (List.range 8).foldl (fun c _ => if c.getLsbD 0 then (c >>> 1) ^^^ 0xEDB88320 else c >>> 1)
    (c ^^^ b.zeroExtend 32)

/-- The CRC-32 of IEEE 802.3 (R325; PRESUMED, log 22). -/
def crc32 (bs : List Byte) : W32 := ~~~ (bs.foldl crc32Byte 0xFFFFFFFF)

/-- A parcel of valid data with its check value made at an address (R40). -/
def madeParcel (data : BitVec 256) (cclass : BitVec 3) (addr : Nat) : Parcel :=
  { data, check := checkOf data addr, poison := false, cclass }

/-- A poisoned parcel at an address (R43): zero payload, CHECK over it, so that it verifies. -/
def poisonedParcel (addr : Nat) : Parcel :=
  { data := 0, check := checkOf 0 addr, poison := true, cclass := 0 }

/-- Does CHECK agree with the data and the address (R41)? -/
def verifies (p : Parcel) (addr : Nat) : Bool := p.check = checkOf p.data addr

/-- The bytes of a list cut into parcels' data, the last one filled with zeros. -/
def toParcels (bs : List Byte) : List (BitVec 256) :=
  (List.range ((bs.length + 31) / 32)).map fun i => bytesParcel (slice bs (32 * i) 32)

/-- A counter that saturates at its largest value (R200). -/
def satAdd (width n k : Nat) : Nat := min (n + k) (2 ^ width - 1)

end Sys2Proof.Machine
end

