-- ==== Sys2Proof/Machine/Numbers.lean ====
section
/-! DEFINITION. Number formats and exact arithmetic (01): decoding (R12), alignment (R16 to R18), conversion of a column sum
(R22, R26), the double-word operator (R23), saturation (R27), pieces (R28, R29), QUANT (R34, R35) and FP32 operations. -/

namespace Sys2Proof

/-- A decoded element (R12): (−1)^neg × m × 2^q, an infinity or a NaN. -/
inductive Num where
  | fin (neg : Bool) (m : Nat) (q : Int)
  | inf (neg : Bool)
  | nan
  deriving DecidableEq, Repr

namespace Machine

/-- Number of bits of m; 0 for 0 (R16). -/
def bitLen (m : Nat) : Nat := if m = 0 then 0 else Nat.log2 m + 1

/-- Is the element zero? -/
def Num.isZero : Num → Bool
  | .fin _ m _ => m = 0
  | _ => false

/-- Is the element a NaN or an infinity? -/
def Num.isNonFin : Num → Bool
  | .fin .. => false
  | _ => true

/-- The alignment exponent of R16; none for zero and for non-finite operands. -/
def Num.eps : Num → Option Int
  | .fin _ m q => if m = 0 then none else some (q + bitLen m)
  | _ => none

/-- A floating format with e exponent bits, f fraction bits and a bias (R12). -/
def decodeFp (e f bias x : Nat) : Num :=
  let neg := bitOf x (e + f)
  let ex := bitsOf x (e + f - 1) f
  let fr := bitsOf x (f - 1) 0
  if ex = 2 ^ e - 1 then (if fr = 0 then .inf neg else .nan)
  else if ex = 0 then .fin neg fr (1 - (bias : Int) - f)
  else .fin neg (2 ^ f + fr) ((ex : Int) - bias - f)

/-- FP8 E4M3: no infinity, one NaN code per sign (R12). -/
def decodeE4M3 (x : Nat) : Num :=
  let neg := bitOf x 7
  let ex := bitsOf x 6 3
  let fr := bitsOf x 2 0
  if ex = 15 ∧ fr = 7 then .nan
  else if ex = 0 then .fin neg fr (-9)
  else .fin neg (8 + fr) ((ex : Int) - 10)

/-- A two's-complement integer of n bits (R12). -/
def decodeInt (n x : Nat) : Num :=
  let v := signedOf n (x % 2 ^ n)
  .fin (decide (v < 0)) v.natAbs 0

/-- Bits of one element of a type (R10); BYTE and reserved codes have 8. -/
def elemBits (et : Nat) : Nat :=
  match et with
  | 1 | 5 => 4
  | 3 | 8 | 9 => 16
  | 4 | 10 => 32
  | 11 => 64
  | _ => 8

/-- Decoding of an element by its type code (R10, R12). An L4 code has its magnitude 2^(−k) here; the column scale of R13 or
R65 is added by the reader. -/
def decodeNum (et x : Nat) : Num :=
  match et with
  | 1 => decodeInt 4 x
  | 2 => decodeInt 8 x
  | 3 => decodeInt 16 x
  | 4 => decodeInt 32 x
  | 5 => .fin (bitOf x 3) 1 (-(bitsOf x 2 0 : Int))
  | 6 => decodeE4M3 (x % 256)
  | 7 => decodeFp 5 2 15 (x % 256)
  | 8 => decodeFp 8 7 127 (x % 65536)
  | 9 => decodeFp 5 10 15 (x % 65536)
  | 10 => decodeFp 8 23 127 (x % 2 ^ 32)
  | _ => .fin false (x % 256) 0

/-- The same number with its exponent moved by c: an exact multiplication by 2^c (R13, R65). -/
def Num.scale (c : Int) : Num → Num
  | .fin n m q => .fin n m (q + c)
  | x => x

/-- Is the type one of the integer operand types of R25? -/
def isIntType (et : Nat) : Bool := et = 1 || et = 2 || et = 3

/-- Is the weight type stored in slot pairs (R29)? -/
def is16Bit (et : Nat) : Bool := et = 3 || et = 8 || et = 9

/-! ## Rounding -/

/-- m / 2^k to nearest, ties to even. -/
def rneShift (m k : Nat) : Nat :=
  if k = 0 then m
  else
    let q := m >>> k
    let r := m % 2 ^ k
    let h := 2 ^ (k - 1)
    if r > h ∨ (r = h ∧ q % 2 = 1) then q + 1 else q

/-- m × 2^q rounded to p significant bits with no exponent below qmin: nearest, ties to even. -/
def roundMQ (p : Nat) (qmin : Int) (m : Nat) (q : Int) : Nat × Int :=
  let q' := max (q + bitLen m - p) qmin
  if q' ≤ q then (m <<< (q - q').toNat, q') else
    let m' := rneShift m (q' - q).toNat
    if m' ≥ 2 ^ p then (m' / 2, q' + 1) else (m', q')

/-- The code of a rounded magnitude in a format of e exponent bits, f fraction bits and a bias, without its sign. -/
def encodeMag (f bias m : Nat) (q : Int) : Nat :=
  if m < 2 ^ f then m else ((q + bias + f).toNat <<< f) + (m - 2 ^ f)

/-- The canonical NaN (R21, R33). -/
def canonNaN : W32 := 0x7FC00000

/-- RN of (−1)^neg × m × 2^q: binary32, nearest, ties to even, subnormals kept (R22). -/
def rn (neg : Bool) (m : Nat) (q : Int) : W32 :=
  let s : W32 := if neg then 0x80000000 else 0
  if m = 0 then s else
    let (m', q') := roundMQ 24 (-149) m q
    let mag := encodeMag 23 127 m' q'
    if mag ≥ 0x7F800000 then s ||| 0x7F800000 else s ||| BitVec.ofNat 32 mag

/-- RN of x × 2^q for an integer x; zero is +0. -/
def rnInt (x q : Int) : W32 := rn (decide (x < 0)) x.natAbs q

def fp32 (w : W32) : Num := decodeNum 10 w.toNat

def fp32IsNaN (w : W32) : Bool := (w &&& 0x7FFFFFFF).toNat > 0x7F800000

def fp32IsInf (w : W32) : Bool := (w &&& 0x7FFFFFFF) = 0x7F800000

/-- The signed integer that m × 2^q is at the grid 2^g, for g ≤ q. -/
def onGrid (neg : Bool) (m : Nat) (q g : Int) : Int :=
  let v : Int := (m <<< (q - g).toNat : Nat)
  if neg then -v else v

/-- One binary32 addition under R33: any NaN result is the canonical NaN. -/
def fAdd (a b : W32) : W32 :=
  match fp32 a, fp32 b with
  | .nan, _ => canonNaN
  | _, .nan => canonNaN
  | .inf s, .inf t => if s = t then a else canonNaN
  | .inf _, _ => a
  | _, .inf _ => b
  | .fin s m q, .fin t n r =>
    if m = 0 ∧ n = 0 then rn (s && t) 0 0
    else
      let g := min q r
      rnInt (onGrid s m q g + onGrid t n r g) g

/-- Negation of an FP32 value. -/
def fNeg (a : W32) : W32 := a ^^^ 0x80000000

/-- One binary32 subtraction under R33. -/
def fSub (a b : W32) : W32 := if fp32IsNaN b then canonNaN else fAdd a (fNeg b)

/-- One binary32 multiplication under R33. -/
def fMul (a b : W32) : W32 :=
  match fp32 a, fp32 b with
  | .nan, _ => canonNaN
  | _, .nan => canonNaN
  | .inf s, .inf t => if s = t then 0x7F800000 else 0xFF800000
  | .inf s, .fin t n _ => if n = 0 then canonNaN else if s = t then 0x7F800000 else 0xFF800000
  | .fin s m _, .inf t => if m = 0 then canonNaN else if s = t then 0x7F800000 else 0xFF800000
  | .fin s m q, .fin t n r => rn (s != t) (m * n) (q + r)

/-- An order on FP32 values that are no NaN, with −0 below +0 (R192). -/
def fKey (a : W32) : Int :=
  let mag : Int := ((a &&& 0x7FFFFFFF).toNat : Nat)
  if a.msb then -mag - 1 else mag

/-- An FP32 order with −0 equal to +0 (R159). -/
def fNumKey (a : W32) : Int :=
  let mag : Int := ((a &&& 0x7FFFFFFF).toNat : Nat)
  if a.msb then -mag else mag

/-! ## The double word (R22 to R24) -/

/-- A double-word value, or an INT32 in hi for an integer element. -/
structure DW where
  hi : W32 := 0
  lo : W32 := 0
  deriving DecidableEq, Repr

def twoSum (a b : W32) : W32 × W32 :=
  let s := fAdd a b
  let bb := fSub s a
  (s, fAdd (fSub a (fSub s bb)) (fSub b bb))

def fastTwoSum (a b : W32) : W32 × W32 :=
  let s := fAdd a b
  (s, fSub b (fSub s a))

/-- combine of R23, as its code computes it: a NaN that only the low words bring gives NaN in both words (DEDUCED, log 71). -/
def combine (a b : DW) : DW :=
  let (s, e) := twoSum a.hi b.hi
  if fp32IsNaN s then { hi := canonNaN, lo := 0 }
  else if fp32IsInf s then { hi := s, lo := 0 }
  else
    let t := fAdd a.lo b.lo
    let (hi, lo) := fastTwoSum s (fAdd e t)
    { hi, lo }

/-- RN(hi + lo) of R24. -/
def dwRound (d : DW) : W32 := fAdd d.hi d.lo

/-- The double word of x × 2^q: hi = RN(V), lo = RN(V − hi), lo = +0 when hi is infinite (R22). -/
def toDW (x q : Int) : DW :=
  let hi := rnInt x q
  match fp32 hi with
  | .fin s m r =>
    let g := min q r
    { hi, lo := rnInt (onGrid (decide (x < 0)) x.natAbs q g - onGrid s m r g) g }
  | _ => { hi, lo := 0 }

/-- Clamping to INT32 with the saturation mark (R27). -/
def clamp32 (x : Int) : W32 × Bool :=
  if x > 2147483647 then (0x7FFFFFFF, true)
  else if x < -2147483648 then (0x80000000, true)
  else (BitVec.ofInt 32 x, false)

/-- The integer combination of R27. -/
def addSat32 (a b : W32) : W32 × Bool := clamp32 (a.toInt + b.toInt)

/-- The combination of two elements in the form of their group (R114), with the saturation mark. -/
def combineElem (integer : Bool) (a b : DW) : DW × Bool :=
  if integer then
    let (v, s) := addSat32 a.hi b.hi
    ({ hi := v, lo := 0 }, s)
  else (combine a b, false)

/-! ## Products (R18, R25) -/

/-- The aligned product of R18 in floating mode with exponent E, or the exact integer product of R25. -/
def alignedProduct (integer : Bool) (e : Int) (a w : Num) : Int :=
  match a, w with
  | .fin sa ma qa, .fin sw mw qw =>
    let p : Int := (ma * mw : Nat)
    let p := if sa != sw then -p else p
    let shift := if integer then qa + qw else qa + qw - (e - 46)
    if shift ≥ 0 then p * 2 ^ shift.toNat else p >>> (-shift).toNat
  | _, _ => 0

/-- The value of a column or chunk register (R22, R26): the sum R with exponent E and scale c, with the saturation mark. -/
def convertSum (integer : Bool) (sum e c : Int) : DW × Bool :=
  if integer then
    let v := if c ≥ 0 then sum * 2 ^ c.toNat else sum >>> (-c).toNat
    let (w, s) := clamp32 v
    ({ hi := w, lo := 0 }, s)
  else (toDW sum (e - 46 + c), false)

/-- Bits [hi:lo] of a significand as a piece of weight 2^lo (R28, R29). -/
def pieceBits (hi lo : Nat) : Num → Num
  | .fin n m q => .fin n (bitsOf m hi lo) (q + lo)
  | x => x

/-- Pieces of an activation type (R28). -/
def pieceCount (et : Nat) : Nat := match et with | 9 | 3 => 2 | 10 => 3 | _ => 1

/-- Activation piece k of an operand (R28). -/
def actPiece (et k : Nat) (x : Num) : Num :=
  match et with
  | 9 => if k = 0 then pieceBits 10 8 x else pieceBits 7 0 x
  | 3 => if k = 0 then pieceBits 15 8 x else pieceBits 7 0 x
  | 10 => if k = 0 then pieceBits 23 16 x else if k = 1 then pieceBits 15 8 x else pieceBits 7 0 x
  | _ => x

/-- The significand piece of a 16-bit weight that a step of its slot pair uses (R29). -/
def weightPiece (et : Nat) (odd : Bool) (x : Num) : Num :=
  match et with
  | 9 => if odd then pieceBits 7 0 x else pieceBits 10 8 x
  | 8 => if odd then pieceBits 3 0 x else pieceBits 7 4 x
  | 3 => if odd then pieceBits 7 0 x else pieceBits 15 8 x
  | _ => x

/-! ## QUANT (R34, R35) -/

/-- One element of the drain chain: its bits at the current width, absent for a zero L4, its poison mark. -/
structure CElem where
  bits : W32 := 0
  absent : Bool := false
  poison : Bool := false
  deriving DecidableEq, Repr

/-- A finite magnitude rounded into a floating target whose largest finite code is maxMag; the second part says whether the
rounded value is above it (R34). A value below the target's normal range is rounded once, on the grid of its subnormals (DEDUCED,
log 72). -/
def quantFp (p f bias : Nat) (qmin : Int) (maxMag m : Nat) (q : Int) : Nat × Bool :=
  let (m', q') := roundMQ p qmin m q
  let mag := encodeMag f bias m' q'
  if m' = 0 then (0, false) else if mag > maxMag then (maxMag, true) else (mag, false)

/-- QUANT of one FP32 value (R34, R35): the code, whether the element is absent, and whether QSAT_CNT counts it. A NaN is
counted for every target (DEDUCED, log 23). -/
def quant (qt : Nat) (cs : Int) (x : W32) : W32 × Bool × Bool :=
  match qt, fp32 x with
  | 8, .nan => (0x7FC0, false, true)
  | 8, .inf n => (if n then 0xFF80 else 0x7F80, false, false)
  | 8, .fin n m q =>
    let (c, ovf) := quantFp 8 7 127 (-133) 0x7F7F m q
    let c := if ovf then 0x7F80 else c
    (BitVec.ofNat 32 (c + (if n then 0x8000 else 0)), false, ovf)
  | 6, .nan => (0x7F, false, true)
  | 6, .inf n => (if n then 0xFE else 0x7E, false, true)
  | 6, .fin n m q =>
    let (c, ovf) := quantFp 4 3 7 (-9) 0x7E m q
    (BitVec.ofNat 32 (c + (if n then 0x80 else 0)), false, ovf)
  | 7, .nan => (0x7F, false, true)
  | 7, .inf n => (if n then 0xFB else 0x7B, false, true)
  | 7, .fin n m q =>
    let (c, ovf) := quantFp 3 2 15 (-16) 0x7B m q
    (BitVec.ofNat 32 (c + (if n then 0x80 else 0)), false, ovf)
  | 2, .nan => (0, false, true)
  | 2, .inf n => (if n then 0x80 else 0x7F, false, true)
  | 2, .fin n m q =>
    let a : Nat := if q ≥ 0 then m <<< q.toNat else rneShift m (-q).toNat
    let v : Int := if n then -(a : Int) else a
    if v > 127 then ((0x7F : W32), false, true) else if v < -128 then (0x80, false, true)
    else (BitVec.ofNat 32 (unsignedOf 8 v), false, false)
  | 5, .nan => (0, true, true)
  | 5, .inf n => (if n then 8 else 0, false, true)
  | 5, .fin n m q =>
    if m = 0 ∨ q + bitLen m - 1 < cs - 8 then (0, true, false)
    else
      let j := q + bitLen m - 1
      let up : Bool := 2 * m ≥ 3 * 2 ^ (bitLen m - 1)
      let k := cs - (if up then j + 1 else j)
      let kc := min (max k 0) 7
      (BitVec.ofNat 32 (kc.toNat + (if n then 8 else 0)), false, decide (k < 0))
  | _, _ => (x, false, false)

/-- The FP32 value of an element of a residual or gather type: exact, or RN for INT32 (R191). -/
def toFp32 (x : Num) : W32 :=
  match x with
  | .nan => canonNaN
  | .inf n => if n then 0xFF800000 else 0x7F800000
  | .fin n m q => rn n m q

end Machine
end Sys2Proof
end

