-- ==== Sys2Proof/Machine/Sparse.lean ====
section
/-! DEFINITION. Sparse maps in one canonical form: keys strictly rising, no entry equal to the default that an unlisted key
reads as. Memory, the cells of an array, the cores and every numbered resource are held so. -/

namespace Sys2Proof

/-- A sparse map from natural numbers. -/
abbrev SMap (α : Type) := List (Nat × α)

namespace Sparse

/-- The value at k; d where k is not listed. -/
def get {α : Type} (d : α) : SMap α → Nat → α
  | [], _ => d
  | (k, v) :: r, i => if k = i then v else get d r i

/-- Insertion before the first larger key. -/
def insert {α : Type} (i : Nat) (x : α) : SMap α → SMap α
  | [] => [(i, x)]
  | (k, v) :: r => if i < k then (i, x) :: (k, v) :: r else (k, v) :: insert i x r

/-- Removal of every entry at i. -/
def erase {α : Type} (i : Nat) : SMap α → SMap α
  | [] => []
  | (k, v) :: r => if k = i then erase i r else (k, v) :: erase i r

/-- The map with x at i: an entry only where x differs from the default. -/
def set {α : Type} [DecidableEq α] (d : α) (m : SMap α) (i : Nat) (x : α) : SMap α :=
  if x = d then erase i m else insert i x (erase i m)

/-- The map with the entries of a list written in order. -/
def setAll {α : Type} [DecidableEq α] (d : α) (m : SMap α) : List (Nat × α) → SMap α
  | [] => m
  | (i, x) :: r => setAll d (set d m i x) r

/-- The map with every key from lo to hi - 1 back at the default. -/
def clear {α : Type} (m : SMap α) (lo hi : Nat) : SMap α :=
  m.filter fun p => p.1 < lo || hi ≤ p.1

/-- Every key of the map is above the bound. -/
def above {α : Type} (b : Nat) : SMap α → Bool
  | [] => true
  | (k, _) :: r => b < k && above b r

/-- The canonical form: keys strictly rising and no entry equal to the default. -/
def wf {α : Type} [DecidableEq α] (d : α) : SMap α → Bool
  | [] => true
  | (k, v) :: r => v ≠ d && above k r && wf d r

end Sparse
end Sys2Proof
end

