-- ==== Sys2Proof/Machine/State.lean ====
section
/-! DEFINITION. The state of the module, every piece of it that the spec names, as plain data, and the state after reset. Numbered resources are
sparse maps; a key is the resource's number. Times in steps are on the module step counter (R377), times in ms on Ranger's
time base (R388). -/

namespace Sys2Proof.Machine

/-! ## The sequencer (06) -/

/-- What a sequencer waits for after an instruction has been handed over. -/
inductive Wait where
  | none
  | barrier (ch : BitVec 4)
  | vote (ch : BitVec 4) (rd : BitVec 4)
  | landed (ch : BitVec 4) (rd : BitVec 4)
  | ticket (rd : BitVec 4)
  | aclr (base depthM1 : BitVec 3) (integer : Bool)
  deriving DecidableEq, Repr

/-- One entry of a bucket table (R320). -/
structure Bucket where
  size : W16
  entry : BitVec 12
  valid : Bool
  deriving DecidableEq, Repr

/-- A core's sequencer (R170), its control bits and its first-fault registers (R200, R138). -/
structure Seq where
  sreg : Vector W64 16
  lc : Vector (BitVec 24) 4
  bk : W16
  pc : BitVec 12
  bufBase : Nat
  buf : List W64
  /-- First step at which the next instruction may issue (R172, R173). -/
  nextIssue : Nat
  wait : Wait
  /-- CORE_STAT.STATE (R200). -/
  st : BitVec 3
  stop : Bool
  isolate : Bool
  fCount : Nat
  fPc : BitVec 12
  fValid : Bool
  fCode : BitVec 4
  aCount : Nat
  aPass : Byte
  aSlot : BitVec 3
  aValid : Bool
  aCode : BitVec 4
  inPack : Bool
  count : Nat
  bkts : SMap (List Bucket)
  deriving DecidableEq, Repr

def Seq.reset : Seq :=
  { sreg := Vector.replicate 16 0, lc := Vector.replicate 4 0, bk := 0, pc := 0, bufBase := 0, buf := [],
    nextIssue := 0, wait := .none, st := 0, stop := false, isolate := false,
    fCount := 0, fPc := 0, fValid := false, fCode := 0, aCount := 0, aPass := 0, aSlot := 0, aValid := false,
    aCode := 0, inPack := false, count := 0, bkts := [] }

/-! ## The matrix array (03) -/

/-- One slot of a cell set: value, slot code (SV and POS) and poison mark (R76). -/
structure Slot where
  val : Byte
  code : BitVec 4
  poison : Bool
  deriving DecidableEq, Repr

/-- A cell's active or shadow set with its attributes; tid is the WLD that loaded it, 0 for the EMPTY set of R89. -/
structure CellSet where
  tid : Nat
  form : BitVec 4
  etype : BitVec 4
  slots : List Slot
  deriving DecidableEq, Repr

/-- An entry of a row register (R76). -/
structure Entry where
  v : Num
  poison : Bool
  deriving DecidableEq, Repr

/-- Whose token a slot carries: the pass, the token row, and whether it is the pass's last. -/
structure Tok where
  pass : Nat
  t : Nat
  last : Bool
  deriving DecidableEq, Repr

/-- A window on its way along a row: entries, E, the valid bit (tok), the swap marker (lead or trail), the slot length n, the
shape and the step stamp of R82. -/
structure RowReg where
  entries : List Entry
  e : Int
  tok : Option Tok
  lead : Bool
  trail : Bool
  n : Nat
  shape : BitVec 2
  integer : Bool
  tid : Nat
  stamp : Nat
  deriving DecidableEq, Repr

/-- A partial sum on its way down a column: 48-bit sum, residue mod 7, E, the token it belongs to and its marks (R76). -/
structure PSum where
  sum : BitVec 48
  res : Nat
  e : Int
  tok : Option Tok
  poison : Bool
  nonfin : Bool
  n : Nat
  shape : BitVec 2
  integer : Bool
  tid : Nat
  stamp : Nat
  deriving DecidableEq, Repr

/-- A cell (R76). busy counts the steps done of the token slot in progress; start and done are the stamps of R82. -/
structure Cell where
  active : CellSet
  shadow : CellSet
  hasShadow : Bool
  /-- First step at which the shadow set may be swapped in, or, without one, copied into. -/
  shReady : Nat
  marker : Bool
  row : Option RowReg
  ps : Option PSum
  busy : Option Nat
  start : Nat
  done : Nat
  readyAt : Nat
  inRow : List RowReg
  inPs : List PSum
  deriving DecidableEq, Repr

def CellSet.empty : CellSet := { tid := 0, form := 0, etype := 0, slots := [] }

def Cell.reset : Cell :=
  { active := .empty, shadow := .empty, hasShadow := false, shReady := 0, marker := false, row := none, ps := none, busy := none,
    start := 0, done := 0, readyAt := 0, inRow := [], inPs := [] }

/-- A WC tile that a WLD has taken: its address and header (R47), its column scales with their marks, and whether a header
fault (R49), a slot fault (R55) or the EMPTY form applies. -/
structure Tile where
  tid : Nat
  addr : Nat
  form : BitVec 4
  etype : BitVec 4
  wexp : Int
  whalf : Bool
  scales : List Int
  scalePoison : List Bool
  empty : Bool
  bad : Bool
  slotFault : Bool
  /-- Has a PASS named it? -/
  used : Bool
  deriving DecidableEq, Repr

/-- A row load register: the sets of a row's 64 cells and the columns that have copied (R86). -/
structure RowLoad where
  tid : Nat
  sets : List CellSet
  copied : List Nat
  deriving DecidableEq, Repr

/-- The stationary load engine: the tile it reads, the next row, and its account of the core-store port (R86). -/
structure Load where
  tid : Nat
  nextRow : Nat
  /-- The step whose port grants the engine is using, and the parcels it has read in it, at most four (R86). -/
  step : Nat
  used : Nat
  deriving DecidableEq, Repr

/-- A pass from its issue on. no is its pass number in its group (R113). -/
structure Pass where
  id : Nat
  pc : BitVec 12
  shape : BitVec 2
  toks : Nat
  piece : Nat
  part : Bool
  cplx : Bool
  astride : Nat
  block : Nat
  grp : Nat
  gen : Nat
  no : Nat
  tid : Nat
  etype : Nat
  integer : Bool
  /-- Tokens released so far, and columns that the last token has left. -/
  next : Nat
  outs : Nat
  deriving DecidableEq, Repr

/-- An element as decoded from a tile, with its mark (R45). -/
structure Elem where
  v : Num
  poison : Bool
  deriving DecidableEq, Repr

def Elem.zero : Elem := { v := .fin false 0 0, poison := false }

/-- An activation block in a feeder buffer (R79, R80): the elements by (sub-array, token, stored position). -/
structure Block where
  addr : Nat
  astride : Nat
  shape : BitVec 2
  toks : Nat
  cplx : Bool
  due : Nat
  filled : Bool
  etype : Nat
  pass : Nat
  elems : SMap Elem
  deriving DecidableEq, Repr

/-- The array of a core with its feeder, load engine, counters and repair. -/
structure Arr where
  nextTid : Nat
  lastTid : Nat
  nextPass : Nat
  tiles : List Tile
  load : Option Load
  rows : SMap (Option RowLoad)
  /-- First step at which each row load register is empty again (R86). -/
  rowFree : SMap Nat
  passes : List Pass
  live : List Pass
  bufA : Option Block
  bufB : Option Block
  /-- First step at which each buffer is free for a fill (R80). -/
  freeA : Nat
  freeB : Nat
  lane : Nat
  runShape : Option (BitVec 2)
  lastExit : Nat
  markTid : Nat
  cells : SMap Cell
  bottoms : SMap (List PSum)
  exits : SMap Nat
  errCount : Nat
  errSeen : Bool
  errCol : BitVec 6
  repair : W16
  deriving DecidableEq, Repr

def Arr.reset : Arr :=
  { nextTid := 1, lastTid := 0, nextPass := 1, tiles := [], load := none, rows := [], rowFree := [], passes := [], live := [],
    bufA := none, bufB := none, freeA := 0, freeB := 0, lane := 0, runShape := none, lastExit := 0, markTid := 0, cells := [],
    bottoms := [], exits := [], errCount := 0, errSeen := false, errCol := 0, repair := 0 }

/-! ## The accumulator (04) -/

/-- A node of a group's stack: its slot and the passes it covers (R114). -/
structure SNode where
  slot : Nat
  first : Nat
  last : Nat
  deriving DecidableEq, Repr

/-- A pass that is entering: its landing slot, the combines it triggers (older, newer) and the elements still to finish. -/
structure Landing where
  no : Nat
  gen : Nat
  /-- Is it a leaf of the vector path? -/
  vec : Bool
  slot : Nat
  chain : List (Nat × Nat)
  left : Nat
  deriving DecidableEq, Repr

/-- The combines still to do at one element for one pass, and the step at which the next completes (R118). -/
structure Work where
  no : Nat
  gen : Nat
  e : Nat
  chain : List (Nat × Nat)
  due : Nat
  deriving DecidableEq, Repr

/-- A split node in a receive group: the DRAIN it is for (by the drains issued before it), its slot, level, first index, the beats it
holds and how many have joined (R127, R132). -/
structure WNode where
  gen : Nat
  slot : Nat
  level : Nat
  first : Nat
  logS : Nat
  beats : List Nat
  joined : Nat
  deriving DecidableEq, Repr

/-- An open slot group (R109). nextNo numbers passes at issue, gen the drains issued to it; inflight holds the gen of every pass
in flight (R131). A DRAIN may take rows from step quietAt on, a pass enter from step emptyAt on; a leaf of the vector path may enter from
step lastIn on, beat b of a node from step beatIn b on (R119). -/
structure Group where
  base : Nat
  depth : Nat
  integer : Bool
  /-- Does the manifest declare it a split-receive group (R127, R308)? -/
  recv : Bool
  faulted : Bool
  aclrPc : BitVec 12
  nextNo : Nat
  gen : Nat
  /-- Newest node first. -/
  stack : List SNode
  freed : List Nat
  landing : List Landing
  work : List Work
  inflight : List Nat
  nodes : List WNode
  quietAt : Nat
  emptyAt : Nat
  lastIn : Nat
  beatIn : SMap Nat
  deriving DecidableEq, Repr

structure Acc where
  slots : Nat
  /-- The split-receive groups that the manifest declares: base, depth and form (R127, R308). -/
  recv : List (Nat × Nat × Bool)
  groups : List Group
  /-- Poison marks by slot × 4,096 + element (R107). -/
  marks : SMap Bool
  sat : Byte
  drained : Nat
  deriving DecidableEq, Repr

def Acc.reset : Acc := { slots := 8, recv := [], groups := [], marks := [], sat := 0, drained := 0 }

/-! ## The drain chain (06, 02) -/

/-- A loaded chain configuration with its vectors (R188). -/
structure Cfg where
  enable : Byte
  actFn : Byte
  qtype : BitVec 4
  dense : Bool
  residEng : BitVec 3
  residType : BitVec 4
  digestCh : BitVec 4
  rstat : Nat
  scale : List (W32 × Bool)
  bias : List (W32 × Bool)
  qscale : List (Int × Bool)
  poisoned : Bool
  refused : Bool
  deriving DecidableEq, Repr

def Cfg.empty : Cfg :=
  { enable := 0, actFn := 0, qtype := 0, dense := false, residEng := 0, residType := 0, digestCh := 0, rstat := 0,
    scale := [], bias := [], qscale := [], poisoned := false, refused := false }

/-- A DRAIN from its issue to its last output parcel. -/
structure DrainRec where
  id : Nat
  pc : BitVec 12
  split : Bool
  tag : W64
  cfg : Cfg
  cfgNo : Nat
  grp : Nat
  gen : Nat
  rows : Nat
  dest : Nat
  next : Nat
  readDone : Bool
  outRows : Nat
  integer : Bool
  satur : Bool
  /-- Had split nodes been scheduled to its group when it was issued (R132)? -/
  await : Bool
  /-- Has its residual stream ended early (R191)? -/
  short : Bool
  issued : Nat
  bundled : Bool
  emitted : List Parcel
  deriving DecidableEq, Repr

/-- A row in the chain: the stage it enters next and the first step at which it may. -/
structure CRow where
  id : Nat
  t : Nat
  stage : Nat
  due : Nat
  vals : List CElem
  deriving DecidableEq, Repr

/-- A Packer tile buffer (R74): the rows taken, and, once the last is in, the parcels still to emit. -/
structure PkTile where
  id : Nat
  rows : List (List CElem)
  full : Bool
  due : Nat
  out : List Parcel
  addr : Nat
  deriving DecidableEq, Repr

/-- Bytes that a unit writes inside one parcel, with the mark of the parcel they make. -/
structure Chunk where
  addr : Nat
  bytes : List Byte
  poison : Bool
  cclass : BitVec 3
  deriving DecidableEq, Repr

/-- The drain chain of a core: its DRAINs, the rows in the chain, the step from which its first stage is free, the 16
configurations, the Packer's buffers, and the RESID input with the engines whose stream has ended (R191). -/
structure Drn where
  nextId : Nat
  q : List DrainRec
  rows : List CRow
  cfgs : SMap Cfg
  pk : List PkTile
  free : Nat
  resid : SMap (List Parcel)
  residEnd : List Nat
  deriving DecidableEq, Repr

def Drn.reset : Drn :=
  { nextId := 0, q := [], rows := [], cfgs := [], pk := [], free := 0, resid := [], residEnd := [] }

/-! ## The vector path (05) -/

inductive VKind where
  | mvd | mvsRow | mvsGather | isxDot | isxSampled | mrg | sct
  deriving DecidableEq, Repr

/-- A vector parameter record (R177). -/
structure VParam where
  block : Nat := 0
  astride : Nat := 0
  t : Nat := 0
  etype : Nat := 0
  k : Nat := 0
  n : Nat := 0
  waddr : Nat := 0
  wstride : Nat := 0
  capA : Nat := 0
  capB : Nat := 0
  outA : Nat := 0
  outB : Nat := 0
  elem : Nat := 0
  scale : Nat := 0
  layer : Nat := 0
  bmax : Nat := 0
  g : Nat := 0
  rank : Nat := 0
  block2 : Nat := 0
  deriving DecidableEq, Repr

/-- An activation bank (R141): the block it holds, by row × 65,536 + position; feature-major in the sampled form. -/
structure Bank where
  addr : Nat
  t : Nat
  k : Nat
  etype : Nat
  sampled : Bool
  /-- The ASTRIDE of the instruction that its fill started for. -/
  astride : Nat
  due : Nat
  filled : Bool
  elems : SMap Elem
  deriving DecidableEq, Repr

/-- A result element of the vector path: a double word or INT32 and its mark. -/
structure VRes where
  v : DW
  poison : Bool
  deriving DecidableEq, Repr

def VRes.zero : VRes := { v := {}, poison := false }

/-- A leaf on its way into a group (R152). -/
structure VLeaf where
  instr : Nat
  no : Nat
  due : Nat
  sat : Bool
  vals : SMap VRes
  deriving DecidableEq, Repr

/-- A full index of a CS16 stream with its value's raw bits and type (R67). -/
structure CSItem where
  idx : Nat
  val : Nat
  etype : Nat
  deriving DecidableEq, Repr

/-- A vector instruction from its issue on: its record as snapshotted, its leaves' numbering, its progress and its results. bank is
1 for the first bank, 2 for the second, 0 before one is given; band counts bands, chunks or mask entries done, sub the decode slots
of the chunk; due is the first step of its next work. -/
structure VInstr where
  id : Nat
  kind : VKind
  pc : BitVec 12
  grp : Nat
  gen : Nat
  firstNo : Nat
  integer : Bool
  vp : VParam
  scalar : W32
  /-- SCT: the threshold of its layer, and whether its layer is disabled, as its request was admitted (R164). -/
  thr : W32
  dis : Bool
  bank : Nat
  bankB : Nat
  begun : Bool
  band : Nat
  sub : Nat
  poisonAll : Bool
  sat : Bool
  ia : List CSItem
  ib : List CSItem
  pairs : List (CSItem × CSItem)
  out : List (Nat × DW)
  sweep : SMap VRes
  fold : List (SMap VRes)
  hid : SMap VRes
  due : Nat
  sweepAt : Nat
  workDone : Bool
  deriving DecidableEq, Repr

/-- The vector path of a core; free is the step from which the next instruction may work. -/
structure Vec where
  nextId : Nat
  q : List VInstr
  bankA : Option Bank
  bankB : Option Bank
  leaves : List VLeaf
  wport : List Parcel
  free : Nat
  drop : Nat
  capViol : Nat
  resErr : Nat
  deriving DecidableEq, Repr

def Vec.reset : Vec :=
  { nextId := 1, q := [], bankA := none, bankB := none, leaves := [], wport := [], free := 0, drop := 0, capViol := 0,
    resErr := 0 }

/-! ## Bundles (06) and per-core counters -/

/-- An action of a bundle with what it holds (R194). -/
inductive BAct where
  | sts (addr : Nat) (data : W64)
  | drain (id : Nat) (outs : List Chunk) (finished : Bool) (leafCh : Option (BitVec 4)) (leaf : List Parcel)
  | dpk (gaddr loc : Nat) (ps : List Parcel)
  /-- held: the bundle holds the engine's queue place; not so where the arm was turned away (R228). -/
  | arm (eng : Nat) (held : Bool)
  deriving DecidableEq, Repr

structure Bnd where
  isOpen : Bool
  ch : BitVec 4
  pwp : Bool
  acts : List BAct
  /-- Daypack transfers of a committed bundle that wait for a place in the queue: address, offset and parcels (R239). -/
  late : List (Nat × Nat × List Parcel)
  parcels : Nat
  cause : W16
  /-- The status that RD receives once the second barrier completes (R198). -/
  status : W16
  aborts : Nat
  commits : Nat
  lastCause : BitVec 4
  pcommit : Bool
  stray : Bool
  deriving DecidableEq, Repr

def Bnd.reset : Bnd :=
  { isOpen := false, ch := 0, pwp := false, acts := [], late := [], parcels := 0, cause := 0, status := 0, aborts := 0, commits := 0,
    lastCause := 0, pcommit := false, stray := false }

/-- The event counters of R200, as they count; the register shows them saturated. -/
structure Cnt where
  /-- Number of the core's next Daypack transfer. -/
  dpkNo : Nat := 0
  qsat : Nat := 0
  nonfin : Nat := 0
  tdc : Nat := 0
  dup : Nat := 0
  poison : Nat := 0
  deriving DecidableEq, Repr

/-! ## What a packet on the networks is for (08, 11) -/

/-- The fields of a flit header (R325). -/
structure FHead where
  ftype : Nat
  vmask : Nat
  dmod : Nat
  smod : Nat
  addr : Nat
  core : Nat := 0
  eng : Nat := 0
  dpk : Bool := false
  beat : Nat := 0
  deriving DecidableEq, Repr

/-- Who asked for an access: an engine for its elements, for a merge, for its lists, descriptors and tables, or to write; a Daypack
transfer for its parcel i; a module whose READ_REQ has this header; a WRITE flit by its number; the service path; or nobody. An engine's
reads and writes are numbered. -/
inductive Requester where
  | engine (c e rid : Nat)
  | merge (c e rid : Nat)
  | ctl (c e rid : Nat)
  | writer (c e wid : Nat)
  | daypack (c id i : Nat)
  | remote (h : FHead)
  | remoteW (id : Nat)
  /-- The service path writes a parcel of a channel's input slot (R419, R421). -/
  | slotW (ch : Nat)
  /-- The service path reads parcel i of a channel's output slot for the result of a SEQ: 0 is the header (R419, R422). -/
  | slotR (ch i seq : Nat)
  | nobody
  deriving DecidableEq, Repr

/-- A request of one parcel: a read, or a write of the nibbles of a mask. check is what a whole parcel carries (R40); sees is the step at
which the arm that reads was accepted, none for a reader that sees every held write (R227); src is where the requester's beats wait,
none for one that is not on the Trail (R277); ord orders the requests of a slice: arrival step, plane and parcel position (R276). -/
structure SReq where
  wr : Bool
  addr : Nat
  mask : Nat
  data : Nat
  poison : Bool
  cclass : BitVec 3
  check : Option W16
  who : Requester
  sees : Option Nat := none
  src : Option Nat := none
  ord : Nat := 0
  deriving DecidableEq, Repr

/-- A request at a channel: its class (0 Read, 1 Write, 2 Remote), the local address of its first parcel and how many it moves, half a line
or one; the channel and the slice it comes from; the parcels to write, or those read so far; whether it has met a closed bank (R293). A slice with no
cache ways asks for single parcels: req is then its request. -/
structure MReq where
  cls : Nat
  wr : Bool
  addr : Nat
  n : Nat
  ch : Nat
  slice : Nat
  req : Option SReq
  ps : List Parcel
  hit : Bool := false
  deriving DecidableEq, Repr

/-- What a parcel or request on the Trail is: a request at a slice, a core or this module's memory; the answer to one; a request of a slice
at a channel, or what the channel answers; or part of a flit for another module, with its header. -/
inductive Flow where
  | request (r : SReq)
  | answer (r : SReq)
  | toChan (m : MReq)
  | fromChan (m : MReq)
  | away (h : FHead)
  deriving DecidableEq, Repr

/-- One parcel's worth of a beat. -/
structure Pkt where
  flow : Flow
  addr : Nat
  parcel : Parcel
  deriving DecidableEq, Repr

/-! ## Streams (07) -/

/-- A tensor descriptor as read (R201, R202). -/
structure Desc where
  etype : Nat
  rank : Nat
  isLocal : Bool
  module : Nat
  base : Nat
  size : List Nat
  perm : List Nat
  stride : List Int
  gen : Bool
  gdim : Nat
  idxAddr : Nat
  ownEn : Bool
  ownAddr : Nat
  deriving DecidableEq, Repr

/-- The part of an element that lies in one parcel: the parcel's module and address, the first nibble there and how many (R204). undec marks
one that the ownership table leaves undecoded; its address is then the untranslated offset's (R209, R349). -/
structure Spot where
  undec : Bool
  module : Nat
  addr : Nat
  lo : Nat
  n : Nat
  deriving DecidableEq, Repr

/-- A source parcel that an element needs: its read's number and step, and the parcel once it has come. -/
structure Part where
  module : Nat
  addr : Nat
  rid : Nat
  asked : Nat
  got : Option Parcel
  deriving DecidableEq, Repr

/-- Where an element goes: memory, or a port of the core (R233). -/
inductive Dst where
  | mem (spots : List Spot)
  | port (n : Nat)
  deriving DecidableEq, Repr

/-- A parcel of a list, a descriptor table, an index tensor or an ownership table that an engine has asked for: its read's number and step,
and the parcel once it has come. -/
structure Ctl where
  rid : Nat
  asked : Nat
  got : Option Parcel
  deriving DecidableEq, Repr

/-- An element (or a whole parcel of a RAW entry) in an engine between its read and its write: the entry it belongs to, the source
parcels it needs, the nibble it starts at in the first, widths in nibbles, the mark of its index (R215), its destination, whether it
is combined (R214), the element type of its destination, whether it is the last of its entry, and, in TILE mode, its place in the
transposition tile's column order (R221). -/
structure Flight where
  entry : Nat
  srcs : List Part
  lo : Nat
  srcNibs : Nat
  mark : Bool
  dst : Dst
  dstNibs : Nat
  add : Bool
  etype : Nat
  last : Bool
  col : Nat
  deriving DecidableEq, Repr

/-- What an entry has written so far of a destination parcel (R216, R218), by nibbles: data, poison, the destination's own parcel as
read for a merge, the number and step of that read, and whether something here for another module has not yet been sent. -/
structure Cov where
  mask : Nat
  data : Nat
  poison : Bool
  cclass : BitVec 3
  old : Option Parcel
  asked : Option (Nat × Nat)
  dirty : Bool
  deriving DecidableEq, Repr

def Cov.reset : Cov := { mask := 0, data := 0, poison := false, cclass := 0, old := none, asked := none, dirty := false }

/-- The modes of R220. -/
inductive TMode where
  | run | tile | element
  deriving DecidableEq, Repr

/-- The entry an arm is working through: no is its place in the arm's walk, idx the number of its next read, used what the engine's rate has
left of the step slotAt, lastRd the last parcel read (as module × 2^42 + address), tiled whether it goes through the transposition
tile (R221), sown and down the ownership blocks that its source and destination are in, with their entries (R349). -/
structure Run where
  no : Nat
  raw : Bool
  src : Option Desc
  dst : Option Desc
  port : Option Nat
  add : Bool
  ext : List Nat
  total : Nat
  idx : Nat
  sorg : List Int
  dorg : List Int
  saddr : Nat
  daddr : Nat
  readyAt : Nat
  mode : TMode
  slotAt : Nat
  used : Nat
  lastRd : Option Nat
  tiled : Bool
  sown : Option (Nat × Option Nat)
  down : Option (Nat × Option Nat)
  deriving DecidableEq, Repr

/-- An accepted arm: the step of its acceptance (R227, R228), its list, the index of its next entry, the entries left in the list (R225),
whether its walk has ended, the entries taken so far, the entry in progress, whether it names the RESID port, and whether it was
bundled (R229). -/
structure Arm where
  at_ : Nat
  list : Nat
  next : Nat
  left : Nat
  ended : Bool
  taken : Nat
  run : Option Run
  resid : Bool
  bundled : Bool
  deriving DecidableEq, Repr

structure Eng where
  active : Option Arm
  queued : Option Arm
  /-- A bundle holds the queue place; the arm accepted for it (R229). -/
  reserved : Option Arm
  /-- The next number of a read or a write. -/
  nextRid : Nat
  /-- The parcels of lists, descriptors, index tensors and ownership tables asked for, by local address. -/
  ctl : SMap (Option Ctl)
  /-- The half of the transposition tile that fills (R221). -/
  tile : List Flight
  flight : List Flight
  /-- The entry being written, and its coverage by module × 2^42 + parcel address. -/
  covEntry : Nat
  cov : SMap Cov
  /-- Writes sent and not yet landed: step, module × 2^42 + parcel address, and number (R217, R230, R245, R334). -/
  sent : List (Nat × Nat × Nat)
  /-- Nibbles on their way to a port: how many, their value and mark; and the parcels ready for a port (R233). -/
  portN : Nat
  portData : Nat
  portMark : Bool
  portOut : List (Nat × Parcel)
  poisoned : Nat
  undec : Nat
  rejects : Nat
  last : BitVec 4
  sat : Bool
  deriving DecidableEq, Repr

def Eng.reset : Eng :=
  { active := none, queued := none, reserved := none, nextRid := 0, ctl := [], tile := [], flight := [], covEntry := 0, cov := [], sent := [],
    portN := 0, portData := 0, portMark := false, portOut := [], poisoned := 0, undec := 0, rejects := 0, last := 0, sat := false }

/-- A Daypack transfer of a core's queue (R238, R239): got holds its parcels by position, landed how many have landed, back the positions
for which another module's answer has come. -/
structure Dpk where
  out : Bool
  loc : Nat
  gaddr : Nat
  len : Nat
  issued : Nat
  id : Nat
  got : List (Nat × Parcel)
  landed : Nat
  back : List Nat
  deriving DecidableEq, Repr

/-- A held write of R227 into a list range: its step, and who writes. -/
structure Held where
  at_ : Nat
  addr : Nat
  parcel : Parcel
  who : Requester
  deriving DecidableEq, Repr

structure WorkCtr where
  next : W32 := 0
  limit : W32 := 0
  hwm : W32 := 0
  deriving DecidableEq, Repr

/-! ## Networks and slices (08) -/

/-- A Trail beat: KIND, VMASK, the 58 header bits and four parcels (R251). integer and sat are what a split-node beat carries beside them
(R125, R128; log 19), pkts what the parcels of a data beat or the requests of a read request are for, dst the router × 8 + output at
which it leaves the network. -/
structure Beat where
  kind : BitVec 2
  vmask : BitVec 4
  hdr : BitVec 58
  ps : List Parcel
  integer : Bool
  sat : Bool
  pkts : List Pkt
  dst : Nat
  deriving DecidableEq, Repr

/-- A beat at a router input: the step at which it may be forwarded and whether an entry has taken it in that step. -/
structure QBeat where
  avail : Nat
  taken : Bool
  beat : Beat
  deriving DecidableEq, Repr

/-- A Daypack parcel under way: its destination address (module × 2^42 + local address), whether it is on its way into the core that
asked for it, the transfer it belongs to and its position there, and the step from which it may be forwarded. -/
structure DpkParcel where
  dest : Nat
  into : Bool
  core : Nat
  id : Nat
  i : Nat
  avail : Nat
  /-- A request that asks for the parcel, on its way to where it lies. -/
  ask : Bool
  /-- The header of the flit that it came in or makes, where another module sends it or has asked for it (R334). -/
  head : Option FHead := none
  parcel : Parcel
  deriving DecidableEq, Repr

structure Trail where
  beats : SMap (List QBeat)
  /-- Beats at their sources by router × 8 + input, waiting for a scheduled slot (R253). -/
  srcq : SMap (List QBeat)
  /-- The beat that a device's input last gave on a plane, with its step + 1: every entry that names the input gets it (R257). -/
  given : SMap (Option (Nat × Beat))
  /-- Beats under way by the uniform schedule: plane and the step at which each leaves the network (R261). -/
  transit : List (Nat × Nat × Beat)
  /-- EDGE-sourced slots that have passed empty, by route (R331). -/
  missed : SMap Bool
  tables : SMap (List W16)
  sets : List Nat
  phases : List Nat
  loopIdx : Nat
  phase : Nat
  curSet : Nat
  phaseBase : Nat
  holdUntil : Option Nat
  nextSet : Nat
  dpk : SMap (List DpkParcel)
  outDone : SMap Nat
  inbox : SMap (List Beat)
  drop : Nat
  comb : Nat
  dpkHoldMax : Nat
  deriving DecidableEq, Repr

def Trail.reset : Trail :=
  { beats := [], srcq := [], given := [], transit := [], missed := [], tables := [], sets := [0], phases := [], loopIdx := 0, phase := 0, curSet := 0, phaseBase := 0,
    holdUntil := none, nextSet := 0, dpk := [], outDone := [], inbox := [], drop := 0, comb := 0, dpkHoldMax := 0 }

/-- A Whistle message (R266); bridge marks the management bridge as its destination, at_ is the step of its delivery. -/
structure WMsg where
  typ : BitVec 5
  src : CoreId
  dst : CoreId
  bridge : Bool
  body : List W32
  at_ : Nat := 0
  deriving DecidableEq, Repr

structure WFlit where
  msg : WMsg
  last : Bool
  pos : CoreId
  inp : Nat
  avail : Nat
  deriving DecidableEq, Repr

structure Whistle where
  flits : List WFlit
  box : SMap (List WMsg)
  bridge : List WMsg
  drop : Nat
  /-- The step + 1 in which an output last sent, by router × 8 + output. -/
  done : SMap Nat
  deriving DecidableEq, Repr

def Whistle.reset : Whistle := { flits := [], box := [], bridge := [], drop := 0, done := [] }

/-- An arrival on a Cairn channel: the core, the step, the PC of the instruction that arrives, whether it is a CSIG, whether a
CBAR, and its marks (R180, R184, R198). -/
structure Arrival where
  core : Nat
  at_ : Nat
  pc : BitVec 12
  csig : Bool
  cbar : Bool
  fault : Bool
  stop : Bool
  abort : Bool
  deriving DecidableEq, Repr

/-- A Cairn channel (R268, R269) with its module-wide state (R338 to R340): what the pack configures, the arrivals of the current
barrier with the marks so far, and the arrivals that belong to the next one. due is the completion step once it is known, dead that
the barrier has completed with a mark before every participant arrived, timedOut that it did so by its timeout. -/
structure CairnCh where
  parts : List Nat
  timeout : Nat
  phase : Bool
  mw : W64
  arrived : List Arrival
  early : List Arrival
  first : Option Nat
  due : Option Nat
  fault : Bool
  stop : Bool
  abort : Bool
  dead : Bool
  timedOut : Bool
  gen : W16
  childArr : List Nat
  /-- Arrivals of children for the next generation: port, FAULT, ABORT. -/
  childEarly : List (Nat × Bool × Bool)
  sentUp : Bool
  release : Option Nat
  deriving DecidableEq, Repr

def CairnCh.reset : CairnCh :=
  { parts := [], timeout := 0, phase := false, mw := 0, arrived := [], early := [], first := none, due := none,
    fault := false, stop := false, abort := false, dead := false, timedOut := false, gen := 0, childArr := [], childEarly := [], sentUp := false,
    release := none }

/-- A cache line (R274, R275): its line number, dirty mark, eight parcels (none: the way is invalid) and its last use. -/
structure Line where
  tag : Nat
  dirty : Bool
  ps : List Parcel
  used : Nat
  deriving DecidableEq, Repr

def Line.invalid : Line := { tag := 0, dirty := false, ps := [], used := 0 }

structure Slice where
  lines : SMap Line
  inq : List SReq
  /-- The lines asked for, the requests that wait for them, and the halves of lines and the single parcels that have come (R277). -/
  missq : List Nat
  waiting : List SReq
  filled : List MReq
  /-- Write-backs and uncached writes that have not yet been written to their channel (R274, R275). -/
  wb : List MReq
  clock : Nat
  deriving DecidableEq, Repr

def Slice.reset : Slice := { lines := [], inq := [], missq := [], waiting := [], filled := [], wb := [], clock := 0 }

/-! ## Main memory (09, 07) -/

/-- A channel: what each class has used of its window, the requests that wait and those granted, the uncorrectable reads in a row, its
state, the refresh's next bank and band, the bank that a refresh has closed and the step until which, the next line of the scrub, and
the number of its training's results (R235, R291 to R295). -/
structure Chan where
  used : List Nat
  wait : List MReq
  granted : List MReq
  badRun : Nat
  failed : Bool
  trained : Bool
  bank : Nat
  band : BitVec 2
  closed : Nat
  openAt : Nat
  scrub : Nat
  seeds : Nat
  deriving DecidableEq, Repr

def Chan.reset : Chan :=
  { used := [0, 0, 0], wait := [], granted := [], badRun := 0, failed := false, trained := false, bank := 0,
    band := 0, closed := 0, openAt := 0, scrub := 0, seeds := 0 }

/-- The sideband of a parcel in memory (R37): none for CHECK means the value that R39 gives for the stored bytes. An LPDDR6 burst also holds
MCHK (R281): none means the value that R281 gives for the sideband at the parcel's place under the map in force. -/
structure Side where
  poison : Bool
  cclass : BitVec 3
  check : Option W16
  mchk : Option (BitVec 12) := none
  deriving DecidableEq, Repr

def Side.clean : Side := { poison := false, cclass := 0, check := none }

/-- Memory: bytes of the local address space (R9) in canonical form, and the sideband of the parcels by address / 32. An
LPDDR6 byte is held at channel × 2^31 + channel offset (R285, R286), so a change of the map moves nothing. -/
structure Memory where
  bytes : List Host.Cell
  side : SMap Side
  deriving DecidableEq, Repr

/-- The canonical form of memory. -/
def Memory.wf (m : Memory) : Bool := Sparse.wf (0 : Byte) m.bytes && Sparse.wf Side.clean m.side

/-- Main memory's controllers, the regulator and the counters of R296. -/
structure MainMem where
  map : Bool
  total : Nat
  budget : List Nat
  winStart : Nat
  chans : SMap Chan
  retry : Nat
  uncorr : Nat
  collide : Nat
  bandMax : Nat
  failMap : BitVec 256
  deriving DecidableEq, Repr

/-! ## Guyline (11) -/

structure Flit where
  header : BitVec 256
  blocks : List PBlock
  deriving DecidableEq, Repr

/-- A symbol kept until it is acknowledged (R337): its SSEQ, STYPE and fields, and the number of the block position it was last sent in; none
while it has still to be sent. -/
structure SentSym where
  sseq : Byte
  stype : Nat
  fields : Nat
  sentAt : Option Nat
  deriving DecidableEq, Repr

/-- A port: its state; its block stream: the position within its group of 40, the blocks sent so far, the blocks still to go of a
scheduled and of a Daypack flit, the flits of either kind that wait and the ACK, NAK and TIME symbols that wait (R324, R336); credits,
sequence numbers and buffers (R328, R329); symbols (R337); what training found of its lanes (R322) and the number of its results; and what
it knows of its partner. -/
structure GPort where
  state : Nat
  misses : Nat
  retryAt : Nat
  inverted : BitVec 4
  reversed : Bool
  seeds : Nat
  pos : Nat
  blockNo : Nat
  cur : List PBlock
  curDpk : List PBlock
  txq : List Flit
  dpkTxq : List Flit
  ctlq : List (Nat × Nat)
  credits : Nat
  seq : BitVec 12
  replay : List Flit
  resend : List Flit
  replays : Nat
  rxExp : BitVec 12
  rxq : List Flit
  /-- A NAK is out: how far past the flit it names the discarded ones have come (R329; log 86). -/
  nakOut : Option Nat
  edge : List Flit
  /-- The beat that reached the port last, with its step, its plane and the flit that it makes: it may still pair with one of the other plane
  in the same step (R326). -/
  lastEdge : Option (Nat × Nat × FHead × List Parcel)
  sseq : Byte
  syms : List SentSym
  rxSseq : Byte
  seenSyms : List Byte
  child : Bool
  ready : Bool
  /-- The newest TIME of the partner: the master it names, its T1, and when it arrived, both in 1/64 steps (R341, R344). -/
  master : W16
  peerT1 : Nat
  peerAt : Nat
  delay : W32
  lastTime : Nat
  deriving DecidableEq, Repr

def GPort.reset : GPort :=
  { state := 0, misses := 0, retryAt := 0, inverted := 0, reversed := false, seeds := 0, pos := 0, blockNo := 0, cur := [], curDpk := [], txq := [],
    dpkTxq := [], ctlq := [], credits := 128, seq := 0, replay := [], resend := [],
    replays := 0, rxExp := 0, rxq := [], nakOut := none, edge := [], lastEdge := none, sseq := 0, syms := [], rxSseq := 0, seenSyms := [],
    child := false, ready := false, master := 0xFFFF, peerT1 := 0, peerAt := 0, delay := 0, lastTime := 0 }

/-- A WRITE flit whose parcels are being written (R334): its number, its header, the port it came by, how many of its parcels have landed or
been dropped, and how many are still to land. -/
structure RWrite where
  id : Nat
  head : FHead
  port : Nat
  done : Nat
  left : Nat
  deriving DecidableEq, Repr

structure Guyline where
  ports : SMap GPort
  writes : List RWrite
  nextWrite : Nat
  sync : BitVec 3
  /-- Rates that RATE_SET has set, the steps at which they apply and whether each is a decrement (R343), and when a RATE_REQ last came, in
  ms. -/
  rateSets : List (Nat × Nat × Bool)
  rateReqAt : Nat
  placed : Bool
  usesGl : Bool
  usedPorts : List Nat
  sentReady : Bool
  tStart : Option Nat
  startLate : Bool
  refLost : Bool
  retry : Nat
  fec : Nat
  unroutable : Nat
  lateRelease : Nat
  lateFlit : Nat
  portFail : BitVec 12
  deriving DecidableEq, Repr

def Guyline.reset : Guyline :=
  { ports := [], writes := [], nextWrite := 0, sync := 0, rateSets := [], rateReqAt := 0,
    placed := false, usesGl := false, usedPorts := [], sentReady := false, tStart := none, startLate := false, refLost := false,
    retry := 0, fec := 0, unroutable := 0, lateRelease := 0, lateFlit := 0, portFail := 0 }

/-! ## Pacing, power and cooling (13, 19) -/

/-- One entry of DAMP_LOG (R385). -/
structure DampEntry where
  step : W64
  level : Byte
  cause : Byte
  hotspot : W16
  deriving DecidableEq, Repr

/-- A core block's voltage control (R380, R381): its code, how many intervals in a row the slack was high, whether a lowering
is pending for it, and how many intervals in a row it overran at the floor (R387). -/
structure VBlock where
  code : Nat
  high : Nat
  pending : Bool
  floorRun : Nat
  deriving DecidableEq, Repr

structure Pace where
  step : Nat
  frac : BitVec 6
  running : Bool
  target : Nat
  level : Nat
  cause : Byte
  log : List DampEntry
  blocks : List VBlock
  /-- The Damper interval in progress, and the lowerings decided, with their steps S and causes (R380, R384). -/
  interval : Nat
  lowerings : List (Nat × Byte)
  targetAt : Option (Nat × Nat)
  lastThermal : Nat
  lastRestore : Nat
  overruns : Nat
  floorHits : Nat
  devCount : Nat
  deriving DecidableEq, Repr

def Pace.reset : Pace :=
  { step := 0, frac := 0, running := false, target := 1000000, level := 0, cause := 0, log := [],
    blocks := List.replicate 32 { code := 104, high := 0, pending := false, floorRun := 0 }, interval := 0,
    lowerings := [], targetAt := none, lastThermal := 0, lastRestore := 0, overruns := 0,
    floorHits := 0, devCount := 0 }

/-- The phases of power sequencing (R490, R491). -/
inductive PwrPhase where
  | off | charging | good | down
  deriving DecidableEq, Repr

structure Power where
  phase : PwrPhase
  inRange : Bool
  pwrEn : Bool
  modResetLow : Bool
  downAt : Nat
  chargeAt : Nat
  goodAt : Nat
  /-- THERMTRIP_N is asserted; MOD_RESET_N has fallen since the last trip; a sensor was at 100 °C or above when last seen (R395). -/
  thermTrip : Bool
  tripReset : Bool
  warm : Bool
  straps : Straps
  domains : List Nat
  domReq : Option (List Nat × Nat)
  inputW : Nat
  /-- The means of the last 10 power windows, the end of the last, and the cap in force (R388). -/
  windows : List Nat
  winEnd : Nat
  cap : Nat
  trips : Nat
  deriving DecidableEq, Repr

def Power.reset : Power :=
  { phase := .off, inRange := false, pwrEn := false, modResetLow := false, downAt := 0, chargeAt := 0,
    goodAt := 0, thermTrip := false, tripReset := false, warm := false, straps := { mstrSel := true, helrun := true, traySlot := 0x3F },
    domains := List.replicate 44 0, domReq := none, inputW := 0, windows := [], winEnd := 0, cap := 2800, trips := 0 }

/-- The coolant loop (R391 to R394). Duties are in thousandths of a percent, u in 1/32 %, temperatures in
1/16 °C. -/
structure Cool where
  hotspot : Int
  inlet : Int
  outlet : Int
  flow : Nat
  u : Int
  duty : Int
  e : Option Int
  owner : Nat
  alert : BitVec 3
  absent : List Nat
  missed : List Nat
  first : Bool
  deriving DecidableEq, Repr

def Cool.reset : Cool :=
  { hotspot := 0, inlet := 0, outlet := 0, flow := 0, u := 3200, duty := 100000, e := none, owner := 0, alert := 0,
    absent := [0, 0, 0], missed := [0, 0, 0], first := true }

/-! ## Ranger, sessions and the dictionary (14, 15) -/

inductive Role where
  | observer | operator | owner | vendor
  deriving DecidableEq, Repr

/-- A held bundle write (R439): its members by entry key, and whether it has failed. -/
structure BWrite where
  members : List (Nat × List Byte)
  failed : Bool
  deriving DecidableEq, Repr

/-- A session (R413 to R415). rx holds, for each of the two ports, the highest MSEQ accepted and those seen below it. -/
structure Session where
  sid : W32
  role : Role
  keyId : BitVec 256
  peer : Peer
  confirmed : Bool
  transcript : List Byte
  keys : BitVec 1024
  rxHigh : Nat
  rxSeen : List Nat
  svcHigh : Nat
  svcSeen : List Nat
  svcTx : Nat
  /-- Did the last accepted message set ENC? Messages to the client then set it too (log 15). -/
  enc : Bool
  last : Nat
  bw : Option BWrite
  bwResult : W32
  deriving DecidableEq, Repr

/-- What Ranger waits for before it can answer: a flash store, and what it does once it is done (R430); or the registers of a core's control
block, n bytes of each, that a READ still has to fetch over the Whistle, those that have come, and a segment's offset (R266, R435). -/
inductive StoreJob where
  | entry (key : Nat) (bytes : List Byte)
  | defaults
  | bundle (sid : W32) (members : List (Nat × List Byte))
  | enrol (keyId : BitVec 256)
  | epochStart
  | epochRoll
  | cal
  | coreRead (core : CoreId) (left : List Nat) (got : List Byte) (n : Nat) (seg : Option Nat)
  deriving DecidableEq, Repr

/-- An operation of a REQUEST as parsed (R408). -/
structure Op where
  op : Byte
  index : W16
  o : OpReq
  deriving DecidableEq, Repr

/-- The message Ranger is at (R410): the operations not yet begun and the results so far. -/
structure Cur where
  peer : Peer
  session : W32
  mseq : W32
  enc : Bool
  ops : List Op
  results : List Byte
  deriving DecidableEq, Repr

/-- What waits at Ranger while a flash store is in progress (R410, R483): a datagram, or an operation given alone. -/
inductive Rx where
  | msg (peer : Peer) (bytes : List Byte)
  | op (x : Op)
  deriving DecidableEq, Repr

/-- Who is answered when a store is done. -/
inductive StoreFor where
  | message
  | single (x : Op)
  | nobody
  deriving DecidableEq, Repr

/-- Sources of ALERT_N. -/
inductive AlertSrc where
  | cool | packFatal | moduleFatal | degraded | floorHit | rangerRestarts | refin | fwAbandoned | epochWait | epochEnd
  deriving DecidableEq, Repr

/-- Causes of the module-fatal response (R470). -/
inductive Fatal where
  | channel | permit | thermal | ranger
  deriving DecidableEq, Repr

inductive Boot where
  | unpowered | rom | recovery | running | held
  deriving DecidableEq, Repr

structure Ranger where
  boot : Boot
  /-- 0 every datagram dropped, 1 identity reads, 2 full parameter service (R416). -/
  level : Nat
  baseReady : Bool
  restarting : Bool
  restarts : List Nat
  restartCount : Nat
  baseRestarts : Nat
  sessions : List Session
  cur : Option Cur
  store : Option (StoreJob × StoreFor)
  rxq : List Rx
  /-- Every session closes once the response in hand has been sent (R448). -/
  closeDue : Bool
  alerts : List AlertSrc
  degraded : Bool
  fatals : List (Fatal × Nat)
  authFail : Nat
  holdRefusals : Nat
  holdE : Nat
  holdC : Nat
  fabReset : Bool
  packFatalAt : Option Nat
  mgmtLink : Byte
  /-- The IPv4 and IPv6 addresses in use, which a write changes once its response has been sent (R406). -/
  ipv4 : List Byte
  ipv6 : List Byte
  deriving DecidableEq, Repr

def Ranger.reset : Ranger :=
  { boot := .unpowered, level := 0, baseReady := false, restarting := false, restarts := [],
    restartCount := 0, baseRestarts := 0, sessions := [], cur := none, store := none, rxq := [],
    closeDue := false, alerts := [],
    degraded := false, fatals := [], authFail := 0, holdRefusals := 0, holdE := 0, holdC := 0, fabReset := false,
    packFatalAt := none, mgmtLink := 0, ipv4 := List.replicate 4 0, ipv6 := List.replicate 16 0 }

/-- The object dictionary's values (15): of RW and RWS entries those in force and those stored, by index × 256 + subindex;
an empty list stands for the entry's default. The calibration set in force is cal, the staged one staged, the stored one
calStored. -/
structure Dict where
  val : SMap (List Byte)
  stored : SMap (List Byte)
  cal : SMap (List Byte)
  staged : SMap (List Byte)
  calStored : SMap (List Byte)
  calOrigin : Bool
  coreSelect : W16
  diag : Option Nat
  diagResult : List Byte
  selfCal : Option Byte
  ownerKey : BitVec 256
  report : List Byte
  lastChallenge : Option Nat
  deriving DecidableEq, Repr

def Dict.reset : Dict :=
  { val := [], stored := [], cal := [], staged := [], calStored := [], calOrigin := false, coreSelect := 0, diag := none,
    diagResult := [], selfCal := none, ownerKey := 0, report := [], lastChallenge := none }

/-! ## Packs, images and firmware (10, 15, 16) -/

inductive PackState where
  | none | checking | installed | running | halted
  deriving DecidableEq, Repr

structure Pack where
  image : List Byte
  installed : List Byte
  state : PackState
  result : W16
  detail : W64
  hash : BitVec 256
  /-- The compatibility bit in force (R359) and the strict mode in force (R182). -/
  compat : Bool
  strict : Bool
  descTable : Nat
  ranges : List (Nat × Nat)
  deriving DecidableEq, Repr

/-- The weight image (R434, R450): the manifest as received for the next image, the one that the image in progress or installed was
checked under, and the image bytes. -/
structure Wimg where
  manifest : List Byte
  cur : List Byte
  data : List Byte
  state : Byte
  result : W16
  hash : BitVec 256
  mapLoaded : Bool
  deriving DecidableEq, Repr

structure Fw where
  staging : List Byte
  state : Byte
  flash : SMap (List Byte)
  block : Nat
  refused : Nat
  retryAt : Nat
  counter : Nat
  recBlock : Nat
  recBuf : List Byte
  recZero : List Byte
  version : List Byte
  deriving DecidableEq, Repr

/-! ## The Logbook and the service (12, 14) -/

/-- A leaf of R369. -/
structure Leaf where
  core : Nat
  no : Nat
  hash : BitVec 256
  poison : Bool
  /-- The step at which it reached its channel (R368). -/
  at_ : Nat
  deriving DecidableEq, Repr

/-- A request of the service protocol, gathered or waiting. -/
structure Req where
  sid : W32
  peer : Peer
  reqId : W64
  svc : Byte
  total : Nat
  data : List Byte
  origin : BitVec 14
  since : Nat
  deriving DecidableEq, Repr

/-- A request whose fragments are still arriving: what has come, by offset (R421). -/
structure Gather where
  req : Req
  got : List (Nat × List Byte)
  deriving DecidableEq, Repr

/-- An open result (R368): its request, SEQ, admission step, what the record keeps, and the deviation counters then. -/
structure OpenRes where
  req : Req
  seq : W64
  admitted : Nat
  settings : BitVec 256
  train : BitVec 256
  input : BitVec 256
  devs : List Nat
  /-- The Logbook mode of its admission (R366). -/
  mode : Nat
  /-- The Scout thresholds and disable bits in force at its admission (R164, R165). -/
  scout : SMap (List Byte)
  scoutDis : BitVec 256
  deriving DecidableEq, Repr

/-- A closed result as kept for FETCH (R422). -/
structure Kept where
  req : Req
  seq : W64
  status : W16
  data : List Byte
  record : List Byte
  closed : Nat
  deriving DecidableEq, Repr

/-- A record waiting for its signature (R375). -/
structure Unsigned where
  record : List Byte
  kept : Kept
  deriving DecidableEq, Repr

structure Logbook where
  epoch : Nat
  count : Nat
  lastSeq : W64
  train : BitVec 256
  trainLeaves : List Leaf
  leaves : SMap (List Leaf)
  open_ : SMap (Option OpenRes)
  ring : List (List Byte)
  signq : List Unsigned
  orphan : Nat
  /-- Leaves that reached a result channel with no open result in the latest step that one did: they are of a span that begins in that step
  (R368). -/
  early : SMap (List Leaf)
  /-- The counters of R364 as this step began: a change in the close step belongs to the next span (R368). -/
  stepDevs : List Nat
  /-- When an admission that waits for a new epoch may try again (R367). -/
  retryAt : Nat
  deriving DecidableEq, Repr

/-- A service record of R417. -/
structure SvcRec where
  ch : BitVec 4
  input : Nat
  output : Nat
  inMax : Nat
  outMax : Nat
  deriving DecidableEq, Repr

/-- A request that a channel is admitting (R421): the input slot, how many data parcels are still to land, and the SEQ of its header once
that is on its way. -/
structure Adm where
  ch : BitVec 4
  req : Req
  slot : Nat
  left : Nat
  seq : Option W64
  deriving DecidableEq, Repr

/-- A closed result whose data is being read (R422): its channel and Logbook mode, the output slot, the bytes to read, and the parcels
that have come. -/
structure Taking where
  ch : BitVec 4
  mode : Nat
  slot : Nat
  len : Nat
  got : List (Nat × Parcel)
  kept : Kept
  deriving DecidableEq, Repr

structure Svc where
  table : SMap (Option SvcRec)
  frags : List Gather
  waiting : List Req
  /-- Requests forwarded to other modules, each with whether its result is still to come (R423). -/
  fwd : List (Req × Bool)
  kept : List Kept
  adm : List Adm
  taking : List Taking
  scout : SMap (List Byte)
  scoutDis : BitVec 256
  deriving DecidableEq, Repr

/-! ## The test port and the fuses (18, 19) -/

structure TestPort where
  ir : Byte
  boundary : BitVec 22
  traceEn : Bool
  active : Bool
  denied : Bool
  deriving DecidableEq, Repr

/-- What is fixed at manufacture (log 8). -/
structure Fuses where
  gradeL : Bool
  serial : List Byte
  mac : BitVec 48
  arrayRepair : SMap Byte
  coreRepair : SMap Byte
  identity : BitVec 256
  deriving DecidableEq, Repr

/-- What the module sends. -/
inductive Out where
  /-- A message of R407 from a UDP port: its header, its body as sent, and its trailer (R414). -/
  | kpp (peer : Peer) (port : W16) (header body trailer : List Byte)
  | result (o : OpReq) (status : W16) (retryAfter : W16) (data : List Byte)
  | recovery (peer : Peer) (body : List Byte)
  | arp (peer : Peer)
  | echo (peer : Peer) (data : List Byte)
  | neighbour (peer : Peer)
  | block (p : Port) (b : PBlock)
  deriving DecidableEq, Repr

/-! ## The whole -/

/-- The units that every core has, by core ID (engines by core ID × 8 + engine). -/
structure Cores where
  seq : SMap Seq
  arr : SMap Arr
  acc : SMap Acc
  drn : SMap Drn
  vec : SMap Vec
  bnd : SMap Bnd
  cnt : SMap Cnt
  eng : SMap Eng
  dpk : SMap (List Dpk)
  deriving DecidableEq, Repr

/-- Module sums of R435, which do not saturate. -/
structure Sums where
  tdc : Nat := 0
  poison : Nat := 0
  qsat : Nat := 0
  nonfin : Nat := 0
  dup : Nat := 0
  reserr : Nat := 0
  accFault : Nat := 0
  bundleAbort : Nat := 0
  deriving DecidableEq, Repr

structure State where
  pending : List Instr
  cores : Cores
  mem : Memory
  ctrs : SMap WorkCtr
  holdq : List Held
  trail : Trail
  whistle : Whistle
  cairn : SMap CairnCh
  slices : SMap Slice
  cacheWays : Nat
  pinWays : Nat
  sliceMiss : Nat
  sliceWb : Nat
  mm : MainMem
  gl : Guyline
  pace : Pace
  pwr : Power
  cool : Cool
  rng : Ranger
  dict : Dict
  sums : Sums
  pack : Pack
  wimg : Wimg
  fw : Fw
  log : Logbook
  svc : Svc
  tap : TestPort
  fuses : Fuses
  out : List Out
  nowMs : Nat
  free : Nat
  deriving DecidableEq, Repr

/-- The module before its first power-up (log 13). -/
def State.reset : State :=
  { pending := [],
    cores := { seq := [], arr := [], acc := [], drn := [], vec := [], bnd := [], cnt := [], eng := [], dpk := [] },
    mem := { bytes := [], side := [] }, ctrs := [], holdq := [], trail := .reset,
    whistle := .reset, cairn := [], slices := [], cacheWays := 8, pinWays := 4,
    sliceMiss := 0, sliceWb := 0,
    mm := { map := false, total := 5376, budget := [3696, 1008, 672], winStart := 0, chans := [], retry := 0, uncorr := 0,
            collide := 0, bandMax := 0, failMap := 0 },
    gl := .reset, pace := .reset, pwr := .reset, cool := .reset, rng := .reset, dict := .reset, sums := {},
    pack := { image := [], installed := [], state := .none, result := 0, detail := 0xFFFF00000000, hash := 0, compat := false, strict := true,
              descTable := 0, ranges := [] },
    wimg := { manifest := [], cur := [], data := [], state := 0, result := 0, hash := 0, mapLoaded := false },
    fw := { staging := [], state := 0, flash := [], block := 0, refused := 0, retryAt := 0, counter := 0, recBlock := 0,
            recBuf := [], recZero := [], version := [] },
    log := { epoch := 0, count := 0, lastSeq := 0, train := 0, trainLeaves := [], leaves := [], open_ := [], ring := [],
             signq := [], orphan := 0, early := [], stepDevs := List.replicate 8 0, retryAt := 0 },
    svc := { table := [], frags := [], waiting := [], fwd := [], kept := [], adm := [], taking := [], scout := [], scoutDis := 0 },
    tap := { ir := 0x01, boundary := 0, traceEn := false, active := false, denied := false },
    fuses := { gradeL := false, serial := List.replicate 16 0x30, mac := 0, arrayRepair := [], coreRepair := [],
               identity := 0 },
    out := [], nowMs := 0, free := 0 }

/-- Stops of the block. -/
inductive Fault where
  /-- A command whose operands name nothing the table's row can mean (WellFormed says which): raised by the meaning of the
  row. Safe: the model stops where no such step exists. -/
  | illFormed
  deriving DecidableEq, Repr

inductive Refusal where
  /-- A command without a meaning yet, by its mnemonic. Safe: the model stops. -/
  | notModelled (mnemonic : String)
  /-- A command on an entry of the vendor range in a Vendor session: the spec publishes no such entry (R442). Raised by the
  operations on entries. Safe: the model stops. -/
  | vendorRange
  deriving DecidableEq, Repr

end Sys2Proof.Machine
end

