-- ==== Sys2Proof/Machine/Ops.lean ====
section
/-! DEFINITION. The named operations over the state: units by number, memory with its sideband, scalar registers, the fault
registers, counters, Whistle messages, and the issue of a sequencer instruction. -/

namespace Sys2Proof.Machine

/-! ## Units by number -/

namespace State

/-- The module step counter (R377). -/
def now (s : State) : Nat := s.pace.step

def seq (s : State) (c : Nat) : Seq := Sparse.get Seq.reset s.cores.seq c
def arr (s : State) (c : Nat) : Arr := Sparse.get Arr.reset s.cores.arr c
def acc (s : State) (c : Nat) : Acc := Sparse.get Acc.reset s.cores.acc c
def drn (s : State) (c : Nat) : Drn := Sparse.get Drn.reset s.cores.drn c
def vec (s : State) (c : Nat) : Vec := Sparse.get Vec.reset s.cores.vec c
def bnd (s : State) (c : Nat) : Bnd := Sparse.get Bnd.reset s.cores.bnd c
def cnt (s : State) (c : Nat) : Cnt := Sparse.get {} s.cores.cnt c
/-- Stream engine e of core c. -/
def eng (s : State) (c e : Nat) : Eng := Sparse.get Eng.reset s.cores.eng (8 * c + e)
def dpkq (s : State) (c : Nat) : List Dpk := Sparse.get [] s.cores.dpk c
def ctr (s : State) (k : Nat) : WorkCtr := Sparse.get {} s.ctrs k
def cairnCh (s : State) (k : Nat) : CairnCh := Sparse.get CairnCh.reset s.cairn k
def sliceAt (s : State) (k : Nat) : Slice := Sparse.get Slice.reset s.slices k
def chan (s : State) (k : Nat) : Chan := Sparse.get Chan.reset s.mm.chans k
def gport (s : State) (p : Nat) : GPort := Sparse.get GPort.reset s.gl.ports p

def setSeq (s : State) (c : Nat) (q : Seq) : State :=
  { s with cores := { s.cores with seq := Sparse.set Seq.reset s.cores.seq c q } }
def setArr (s : State) (c : Nat) (q : Arr) : State :=
  { s with cores := { s.cores with arr := Sparse.set Arr.reset s.cores.arr c q } }
def setAcc (s : State) (c : Nat) (q : Acc) : State :=
  { s with cores := { s.cores with acc := Sparse.set Acc.reset s.cores.acc c q } }
def setDrn (s : State) (c : Nat) (q : Drn) : State :=
  { s with cores := { s.cores with drn := Sparse.set Drn.reset s.cores.drn c q } }
def setVec (s : State) (c : Nat) (q : Vec) : State :=
  { s with cores := { s.cores with vec := Sparse.set Vec.reset s.cores.vec c q } }
def setBnd (s : State) (c : Nat) (q : Bnd) : State :=
  { s with cores := { s.cores with bnd := Sparse.set Bnd.reset s.cores.bnd c q } }
def setCnt (s : State) (c : Nat) (q : Cnt) : State :=
  { s with cores := { s.cores with cnt := Sparse.set {} s.cores.cnt c q } }
def setEng (s : State) (c e : Nat) (q : Eng) : State :=
  { s with cores := { s.cores with eng := Sparse.set Eng.reset s.cores.eng (8 * c + e) q } }
def setDpkq (s : State) (c : Nat) (q : List Dpk) : State :=
  { s with cores := { s.cores with dpk := Sparse.set [] s.cores.dpk c q } }
def setCtr (s : State) (k : Nat) (w : WorkCtr) : State := { s with ctrs := Sparse.set {} s.ctrs k w }
def setCairn (s : State) (k : Nat) (ch : CairnCh) : State := { s with cairn := Sparse.set CairnCh.reset s.cairn k ch }
def setSlice (s : State) (k : Nat) (v : Slice) : State := { s with slices := Sparse.set Slice.reset s.slices k v }
def setChan (s : State) (k : Nat) (v : Chan) : State :=
  { s with mm := { s.mm with chans := Sparse.set Chan.reset s.mm.chans k v } }
def setPort (s : State) (p : Nat) (v : GPort) : State :=
  { s with gl := { s.gl with ports := Sparse.set GPort.reset s.gl.ports p v } }
def setMem (s : State) (m : Memory) : State := { s with mem := m }

/-- One tick of Ranger's millisecond time base, while D0 is powered (R388, log 1). -/
def tick (s : State) : State :=
  match s.pwr.phase with
  | .off => s
  | _ => { s with nowMs := s.nowMs + 1 }

/-- One free value drawn: the counter steps on (log 5). -/
def draw (s : State) : State := { s with free := s.free + 1 }

end State

/-! ## Values of the object dictionary in force and stored -/

/-- A dictionary value in force by entry key (index × 256 + subindex); its default where the state holds none. -/
def State.dictVal (s : State) (key : Nat) (dflt : List Byte) : List Byte :=
  match Sparse.get [] s.dict.val key with
  | [] => dflt
  | v => v

/-- The stored value of an entry; its default where none has been stored. -/
def State.dictStored (s : State) (key : Nat) (dflt : List Byte) : List Byte :=
  match Sparse.get [] s.dict.stored key with
  | [] => dflt
  | v => v

/-- The module ID in force (R347). -/
def State.ownId (s : State) : Nat := leNat (s.dictVal 0x100006 [0, 0])

/-! ## Scalar registers (R170) -/

def Seq.reg (q : Seq) (r : BitVec 4) : W64 := q.sreg[r.toNat]

def Seq.setReg (q : Seq) (r : BitVec 4) (v : W64) : Seq := { q with sreg := q.sreg.set r.toNat v }

def State.reg (s : State) (c : Nat) (r : BitVec 4) : W64 := (s.seq c).reg r

def State.setReg (s : State) (c : Nat) (r : BitVec 4) (v : W64) : State := s.setSeq c ((s.seq c).setReg r v)

/-! ## The address space (R9) -/

/-- Local address of an offset in a core store. -/
def coreAddr (c off : Nat) : Nat := 0x020000000000 + c * 0x40000 + off % 0x40000

/-- Local address of an offset in an accumulator memory. -/
def accAddr (c off : Nat) : Nat := 0x021000000000 + c * 0x40000 + off % 0x40000

/-- Channel and offset of an LPDDR6 address under the map in force (R285, R286), none where it is undecoded. -/
def lpddrAt (channelLocal : Bool) (a : Nat) : Option (Nat × Nat) :=
  if channelLocal then
    if a < 0x8000000000 ∧ a % 0x80000000 < 0x7C000000 then some (a / 0x80000000, a % 0x80000000) else none
  else if a < 0x7C00000000 then
    let l := a >>> 8
    some ((l % 256) ^^^ (bitsOf l 18 11) ^^^ (bitsOf l 26 19) ^^^ (bitsOf l 30 27), (l >>> 8) * 256 + a % 256)
  else none

/-- Where a local address is stored: its key in memory, none for an undecoded address (R208) and for control space. Cache
ways of a slice are undecoded (R273). -/
def State.keyOf (s : State) (a : Nat) : Option Nat :=
  if a < 0x8000000000 then (lpddrAt s.mm.map a).map fun p => p.1 * 0x80000000 + p.2
  else if 0x010000000000 ≤ a ∧ a < 0x010040000000 then
    if bitsOf a 21 18 < s.cacheWays then none else some a
  else if 0x020000000000 ≤ a ∧ a < 0x020020000000 then some a
  else if 0x021000000000 ≤ a ∧ a < 0x021020000000 then some a
  else none

/-- Is the address in LPDDR6 (R9)? -/
def isLpddr (a : Nat) : Bool := a < 0x8000000000

/-- The core in whose store the address lies. -/
def coreOfAddr (a : Nat) : Option Nat :=
  if 0x020000000000 ≤ a ∧ a < 0x020020000000 then some ((a - 0x020000000000) / 0x40000) else none

/-- Does the address lie in an instruction region (R171)? -/
def inInstrRegion (a : Nat) : Bool := (coreOfAddr a).isSome && decide ((a - 0x020000000000) % 0x40000 < 0x8000)

/-- Home slice of an LPDDR6 line (R274). -/
def homeSlice (l : Nat) : Nat := (l % 256) ^^^ (bitsOf l 15 8) ^^^ (bitsOf l 23 16) ^^^ (bitsOf l 30 24)

/-- Set of an LPDDR6 line (R274). -/
def homeSet (l : Nat) : Nat := (bitsOf l 17 8) ^^^ (bitsOf l 27 18) ^^^ (bitsOf l 30 28)

/-! ## Memory -/

namespace Memory

def byte (m : Memory) (k : Nat) : Byte := Sparse.get 0 m.bytes k

def bytesAt (m : Memory) (k n : Nat) : List Byte := (List.range n).map fun i => m.byte (k + i)

def sideAt (m : Memory) (k : Nat) : Side := Sparse.get Side.clean m.side (k / 32)

/-- The parcel stored at a key, read at a local address: a poisoned one has a zero payload (R43). -/
def parcel (m : Memory) (k addr : Nat) : Parcel :=
  let d := bytesParcel (m.bytesAt k 32)
  let sd := m.sideAt k
  if sd.poison then { poisonedParcel addr with cclass := sd.cclass }
  else { data := d, check := sd.check.getD (checkOf d addr), poison := false, cclass := sd.cclass }

/-- Bytes from a key on. -/
def setBytes (m : Memory) (k : Nat) (bs : List Byte) : Memory :=
  { m with bytes := Sparse.setAll 0 m.bytes ((List.range bs.length).map fun i => (k + i, bs.getD i 0)) }

def setSide (m : Memory) (k : Nat) (sd : Side) : Memory := { m with side := Sparse.set Side.clean m.side (k / 32) sd }

/-- A whole parcel stored at a key as it is (R40); a poisoned one has a zero payload (R43). -/
def setParcel (m : Memory) (k addr : Nat) (p : Parcel) : Memory :=
  (m.setBytes k (parcelBytes (if p.poison then 0 else p.data))).setSide k
    { poison := p.poison, cclass := p.cclass, check := if p.poison || verifies p addr then none else some p.check }

/-- Bytes inside one parcel stored with the parcel's check value made over the result; a poisoned parcel stays poisoned, with its zero
payload (R43, log 14). -/
def patch (m : Memory) (k : Nat) (bs : List Byte) : Memory :=
  if (m.sideAt k).poison then m else (m.setBytes k bs).setSide k { (m.sideAt k) with check := none }

/-- Every byte and sideband from key lo to key hi - 1 back at what unwritten memory reads as. -/
def wipe (m : Memory) (lo hi : Nat) : Memory :=
  { bytes := Sparse.clear m.bytes lo hi, side := Sparse.clear m.side (lo / 32) (hi / 32) }

end Memory

/-- A parcel as its consumer takes it (R41, R42): a parcel that does not verify becomes poisoned; the second part says that a
poisoned error arises here. -/
def consume (p : Parcel) (addr : Nat) : Parcel × Bool :=
  if verifies p addr then (p, false) else (poisonedParcel addr, true)

/-- A parcel that keeps its check value where its place within a 256-byte group stays, and gets a new one where that changes, since the old
one would fail there (R39, R40; log 14). -/
def movedParcel (p : Parcel) (src dst : Nat) : Parcel :=
  if src / 32 % 8 = dst / 32 % 8 then p
  else if p.poison then { poisonedParcel dst with cclass := p.cclass }
  else madeParcel p.data p.cclass dst

/-! ## Shared slices (R272 to R275) -/

/-- Is the address reached through a shared slice (R9, R274)? -/
def isSliced (a : Nat) : Bool := a < 0x8000000000 || decide (0x010000000000 ≤ a ∧ a < 0x010040000000)

/-- The slice that an address is reached through. -/
def sliceOf (a : Nat) : Nat := if a < 0x8000000000 then homeSlice (a >>> 8) else (a - 0x010000000000) / 0x400000

/-- The bits that a mask of nibbles covers. -/
def nibBits (mask : Nat) : Nat := ((List.range 64).map fun i => if mask.testBit i then 15 * 16 ^ i else 0).sum

/-- Every nibble of a parcel. -/
def fullMask : Nat := 2 ^ 64 - 1

/-- A parcel at an address after a write of the nibbles of a mask. A whole parcel replaces it, with the check value that it carries; none
stands for one made here (R40). A part is merged into what is there, which is verified first (R41, R218): poison in what is written
poisons the whole, and so does poison already there or a parcel that does not verify. A merge makes CHECK over the new bytes (DEDUCED,
log 82). -/
def maskMerge (old : Parcel) (a mask data : Nat) (poison : Bool) (cclass : BitVec 3) (check : Option W16) : Parcel :=
  if mask = fullMask then
    if poison then { poisonedParcel a with cclass }
    else
      let d := BitVec.ofNat 256 data
      { data := d, check := check.getD (checkOf d a), poison := false, cclass }
  else
    let old := (consume old a).1
    if poison || old.poison then poisonedParcel a
    else
      let m := BitVec.ofNat 256 (nibBits mask)
      madeParcel ((old.data &&& ~~~m) ||| (BitVec.ofNat 256 data &&& m)) old.cclass a

/-- Does a merge into this parcel meet a check value that fails (R41, R42)? -/
def mergeFails (old : Parcel) (a mask : Nat) : Bool := mask ≠ fullMask && !verifies old a

/-- A write request applied to a parcel. -/
def SReq.apply (r : SReq) (p : Parcel) : Parcel := maskMerge p r.addr r.mask r.data r.poison r.cclass r.check

/-- A slice's queue with one request more: ordered by arrival step, plane and position, first come first among equals (R276). -/
def insertReq (r : SReq) : List SReq → List SReq
  | [] => [r]
  | x :: q => if r.ord < x.ord then r :: x :: q else x :: insertReq r q

/-- A parcel at an address after a request of a slice at a channel that writes. -/
def MReq.patch (m : MReq) (a : Nat) (p : Parcel) : Parcel :=
  if !m.wr then p
  else match m.req with
    | some r => if r.addr = a then r.apply p else p
    | none => if m.addr ≤ a ∧ a < m.addr + 32 * m.n then m.ps.getD ((a - m.addr) / 32) {} else p

/-- The way of a slice that holds an LPDDR6 line, as the key of its line (R274, R275). -/
def Slice.find (sl : Slice) (ways line : Nat) : Option Nat :=
  ((List.range ways).map fun w => homeSet line * 16 + w).find? fun k =>
    let x := Sparse.get Line.invalid sl.lines k
    !x.ps.isEmpty && x.tag = line

/-- Core, slot element and mark number of an accumulator address (R106). -/
def accAt (a : Nat) : Option (Nat × Nat) :=
  if 0x021000000000 ≤ a ∧ a < 0x021020000000 then
    some ((a - 0x021000000000) / 0x40000, (a - 0x021000000000) % 0x40000 / 8)
  else none

/-- Does a reader see a held write: an arm those made in a step before its acceptance, and the reads of its elements those that its
own engine made; any other reader all (R217, R227)? -/
def Held.seenBy (h : Held) (sees : Option Nat) (who : Requester) : Bool :=
  (sees.elim true fun t => decide (h.at_ < t)) ||
    (match who, h.who with
     | .engine c e _, .writer c' e' _ => c = c' && e = e'
     | _, _ => false)

namespace State

/-- Does a list range of the pack hold the parcel (R226)? -/
def inListRange (s : State) (a : Nat) : Bool := s.pack.ranges.any fun r => decide (r.1 ≤ a ∧ a < r.1 + r.2)

/-- The newest held write of a parcel that a reader sees (R227). -/
def heldAt (s : State) (sees : Option Nat) (a : Nat) (who : Requester := .nobody) : Option Parcel :=
  (s.holdq.filter fun h => decide (h.addr = a) && h.seenBy sees who).getLast?.map (·.parcel)

/-- The channel of an LPDDR6 address, 0 where it is undecoded. -/
def chanOf (s : State) (a : Nat) : Nat := ((lpddrAt s.mm.map a).map (·.1)).getD 0

/-- The parcel of an address reached through a slice, with every write that the slice has taken (R274 to R276): the line in the cache,
else memory with the writes that the slice has sent on; then the writes that wait at the slice. -/
def viewSliced (s : State) (k a : Nat) : Parcel :=
  let sl := s.sliceAt (sliceOf a)
  let base :=
    if !isLpddr a then s.mem.parcel k a
    else match sl.find s.cacheWays (a >>> 8) with
      | some w => (Sparse.get Line.invalid sl.lines w).ps.getD (a / 32 % 8) {}
      | none => sl.wb.foldl (fun p m => m.patch a p) (s.mem.parcel k a)
  ((sl.waiting ++ sl.inq).filter fun r => r.wr && r.addr = a).foldl (fun p r => r.apply p) base

/-- The order of a request that reaches a slice by no plane of the Trail: after those of its step that do (log 10). -/
def offTrail (s : State) : Nat := s.now * 64 + 63

/-- A request joins the queue of the slice that its address is reached through, in the slice's order (R276). -/
def sliceReq (s : State) (r : SReq) : State :=
  let k := sliceOf r.addr
  let sl := s.sliceAt k
  s.setSlice k { sl with inq := insertReq r sl.inq }

/-- Does an open group of integer form own the slot (R107)? -/
def slotInteger (s : State) (c slot : Nat) : Bool :=
  (s.acc c).groups.any fun g => g.integer && decide (g.base ≤ slot ∧ slot < g.base + g.depth)

/-- The stored words of an accumulator parcel: bytes 4 to 7 of an integer element read as zero (R107). -/
def accWords (integer : Bool) (a : Nat) (p : Parcel) : Parcel :=
  let d := p.data &&& 0x00000000FFFFFFFF00000000FFFFFFFF00000000FFFFFFFF00000000FFFFFFFF
  if !integer || d = p.data then p else madeParcel d p.cclass a

/-- The parcel at a 32-byte-aligned local address as a reader sees it; none where undecoded. An accumulator parcel is returned poisoned when
an element of it is marked (R108). -/
def parcelFor (s : State) (sees : Option Nat) (a : Nat) (who : Requester := .nobody) : Option Parcel :=
  match s.keyOf a with
  | none => none
  | some k =>
    match s.heldAt sees a who with
    | some p => some (if p.poison then poisonedParcel a else p)
    | none =>
      match accAt a with
      | none => some (if isSliced a then s.viewSliced k a else s.mem.parcel k a)
      | some (c, e) =>
        if (List.range 4).any fun i => Sparse.get false (s.acc c).marks (e + i) then some (poisonedParcel a)
        else some (accWords (s.slotInteger c (e / 4096)) a (s.mem.parcel k a))

/-- The parcel at a local address as a reader other than an arm sees it, held writes among them. -/
def parcelAt (s : State) (a : Nat) : Option Parcel := s.parcelFor none (a / 32 * 32)

/-- Is a write to the address decoded (R208)? -/
def writable (s : State) (a : Nat) : Bool := (s.keyOf a).isSome && !inInstrRegion a

/-- The words of an accumulator parcel written by address set or clear the marks of its elements (R108). -/
def markAcc (s : State) (a : Nat) (poison : Bool) : State :=
  match accAt a with
  | none => s
  | some (c, e) =>
    let q := s.acc c
    s.setAcc c { q with marks := Sparse.setAll false q.marks ((List.range 4).map fun i => (e + i, poison)) }

/-- A parcel stored at a decoded address for one who writes it: through its slice, or at once. -/
def storeParcel (s : State) (who : Requester) (k a : Nat) (p : Parcel) : State :=
  if isSliced a then
    s.sliceReq { wr := true, addr := a, mask := fullMask, data := p.data.toNat, poison := p.poison, cclass := p.cclass,
                 check := some p.check, who, ord := s.offTrail }
  else (s.setMem (s.mem.setParcel k a p)).markAcc a p.poison

/-- A write is taken into the list hold (R227). -/
def hold (s : State) (who : Requester) (a : Nat) (p : Parcel) : State :=
  { s with holdq := s.holdq ++ [{ at_ := s.now, addr := a, parcel := p, who }] }

/-- A parcel written at a decoded local address for one who writes it: into the list hold when a list range holds the address (R227), else
into memory. An undecoded write is dropped (R208). -/
def putParcelFor (s : State) (who : Requester) (a : Nat) (p : Parcel) : State :=
  let a := a / 32 * 32
  match s.keyOf a with
  | none => s
  | some k => if s.inListRange a then s.hold who a p else s.storeParcel who k a p

def putParcel (s : State) (a : Nat) (p : Parcel) : State := s.putParcelFor .nobody a p

/-- Must a writer into this address stall because the list hold is full (R227)? -/
def holdFull (s : State) (a : Nat) : Bool := s.inListRange (a / 32 * 32) && decide (1024 ≤ s.holdq.length)

/-- The parcel that results from writing bytes at offset off of a parcel: the rest is kept, and verified first (R41). A marked element, or
a mark the parcel already has, poisons the whole (R218, log 14). -/
def mergeParcel (old : Parcel) (a off : Nat) (bs : List Byte) (poison : Bool) : Parcel :=
  let old := if bs.length < 32 then (consume old a).1 else old
  if poison || (old.poison && bs.length < 32) then poisonedParcel a
  else
    let o := parcelBytes old.data
    let d := bytesParcel (o.take off ++ bs ++ o.drop (off + bs.length))
    { data := d, check := checkOf d a, poison := false, cclass := old.cclass }

/-- The 8 bytes at a core-store offset that is a multiple of 8, as LDS reads them; a poisoned parcel has a zero payload (R43, log 61). -/
def loadWord (s : State) (c off : Nat) : W64 :=
  let a := coreAddr c off
  match s.heldAt none (a / 32 * 32) with
  | some p => if p.poison then 0 else BitVec.ofNat 64 (p.data.toNat >>> (8 * (a % 32)))
  | none => if (s.mem.sideAt a).poison then 0 else BitVec.ofNat 64 (leNat (s.mem.bytesAt a 8))

/-- The 8 bytes that STS stores at a core-store offset that is a multiple of 8. -/
def storeWord (s : State) (c off : Nat) (v : W64) : State :=
  let a := coreAddr c off
  let pa := a / 32 * 32
  if s.inListRange pa then
    let old := (s.heldAt none pa).getD (s.mem.parcel pa pa)
    let o := parcelBytes old.data
    let d := bytesParcel (o.take (a % 32) ++ leBytes 8 v.toNat ++ o.drop (a % 32 + 8))
    let p := if old.poison then poisonedParcel pa else { old with data := d, check := checkOf d pa }
    s.hold .nobody pa p
  else s.setMem (s.mem.patch a (leBytes 8 v.toNat))

/-- The bytes from a local address on, across parcels; undecoded bytes read as zero. -/
def bytesFrom (s : State) (a n : Nat) : List Byte :=
  let first := a / 32
  let ps := (List.range ((a % 32 + n + 31) / 32)).map fun i => (s.parcelAt (32 * (first + i))).getD {}
  ((ps.map fun p => parcelBytes p.data).flatten.drop (a % 32)).take n

end State

/-! ## Counters and faults (R200) -/

namespace State

/-- Poisoned errors counted at a core (R42, R43). -/
def countPoison (s : State) (c n : Nat) : State :=
  let k := s.cnt c
  { s.setCnt c { k with poison := k.poison + n } with sums := { s.sums with poison := s.sums.poison + n } }

/-- QUANT saturations counted at a core (R34). -/
def countQsat (s : State) (c n : Nat) : State :=
  let k := s.cnt c
  { s.setCnt c { k with qsat := k.qsat + n } with sums := { s.sums with qsat := s.sums.qsat + n } }

/-- Non-finite operand results counted at a core (R21). -/
def countNonfin (s : State) (c n : Nat) : State :=
  let k := s.cnt c
  { s.setCnt c { k with nonfin := k.nonfin + n } with sums := { s.sums with nonfin := s.sums.nonfin + n } }

/-- Timing-dependent choices counted at a core (R182). -/
def countTdc (s : State) (c : Nat) : State :=
  let k := s.cnt c
  { s.setCnt c { k with tdc := k.tdc + 1 } with sums := { s.sums with tdc := s.sums.tdc + 1 } }

/-- Duplicate tickets counted at a core (R186). -/
def countDup (s : State) (c : Nat) : State :=
  let k := s.cnt c
  { s.setCnt c { k with dup := k.dup + 1 } with sums := { s.sums with dup := s.sums.dup + 1 } }

/-- A Whistle message of n flits leaves its source (R266). -/
def whistleSend (s : State) (n : Nat) (m : WMsg) : State :=
  let new := (List.range n).map fun i =>
    ({ msg := m, last := decide (i + 1 = n), pos := m.src, inp := if m.typ = 6 ∨ m.typ = 7 then 7 else 4, avail := s.now } : WFlit)
  { s with whistle := { s.whistle with flits := s.whistle.flits ++ new } }

/-- A control-block read leaves the management bridge: the offset is the first body word (R266, R435; log 31). -/
def askCore (s : State) (c : CoreId) (off : Nat) : State :=
  s.whistleSend 2 { typ := 6, src := 0, dst := c, bridge := false, body := [BitVec.ofNat 32 off, 0] }

/-- The error notice of a core to the management bridge (R266, R472). -/
def errorNoticeMsg (c : Nat) (code : BitVec 4) (acc : Bool) (pc : BitVec 12) : WMsg :=
  { typ := 0x05, src := BitVec.ofNat 11 c, dst := 0, bridge := true,
    body := [BitVec.ofNat 32 (c + 2048 * code.toNat + if acc then 32768 else 0), pc.zeroExtend 32] }

/-- A fault is recorded in CORE_FAULT and an error notice goes to Ranger (R184, R200, R472). -/
def coreFault (s : State) (c : Nat) (code : BitVec 4) (pc : BitVec 12) : State :=
  let q := s.seq c
  let q' := { q with
    fCount := min (q.fCount + 1) 255, fValid := true,
    fPc := if q.fValid then q.fPc else pc, fCode := if q.fValid then q.fCode else code }
  (s.setSeq c q').whistleSend 2 (errorNoticeMsg c code (code = 1) pc)

/-- The state CORE_STAT.STATE shows (R200). -/
def setSt (s : State) (c : Nat) (st : BitVec 3) : State := s.setSeq c { (s.seq c) with st := st }

/-- The PC of a core. -/
def pcOf (s : State) (c : Nat) : BitVec 12 := (s.seq c).pc

end State

end Sys2Proof.Machine
end

