-- ==== Sys2Proof/Machine/AccOps.lean ====
section
/-! DEFINITION. The accumulator memory (04): its elements (R106, R107), faults (R137, R138), the stack rule (R114), entries and
combines (R118, R124, R129), and the fold (R133). -/

namespace Sys2Proof.Machine

def Acc.group (a : Acc) (base : Nat) : Option Group := a.groups.find? fun g => g.base = base

def Acc.setGroup (a : Acc) (g : Group) : Acc :=
  { a with groups := a.groups.map fun x => if x.base = g.base then g else x }

/-- n elements of a landing have finished at step d; with the last, the in-flight count falls (R131). -/
def Group.finish (g : Group) (no gen n d : Nat) : Group :=
  let l := g.landing.map fun x => if x.no = no ∧ x.gen = gen then { x with left := x.left - n } else x
  let gone := (l.filter fun x => x.left = 0).map (·.gen)
  { g with
    landing := l.filter fun x => x.left ≠ 0, inflight := gone.foldl (fun f x => f.erase x) g.inflight,
    quietAt := max g.quietAt (d + 1) }

/-- A group that a fault has marked (R137): nothing it holds is combined any more. Its passes in flight stay counted until their last
entries have come and been discarded (R110, R131). -/
def Group.fault (g : Group) (d : Nat) : Group :=
  g.work.foldl (fun g w => g.finish w.no w.gen 1 d) { g with faulted := true, work := [] }

namespace State

def group (s : State) (c base : Nat) : Option Group := (s.acc c).group base

def setGroup (s : State) (c : Nat) (g : Group) : State := s.setAcc c ((s.acc c).setGroup g)

/-! ## Elements (R106, R107) -/

/-- Local address of an element of a slot. -/
def elemAddr (c slot e : Nat) : Nat := accAddr c (slot * 32768 + e * 8)

/-- The words of an element. -/
def elemDW (s : State) (c slot e : Nat) : DW :=
  let x := leNat (s.mem.bytesAt (elemAddr c slot e) 8)
  { hi := BitVec.ofNat 32 x, lo := BitVec.ofNat 32 (x / 2 ^ 32) }

/-- The poison mark of an element. -/
def elemMark (s : State) (c slot e : Nat) : Bool := Sparse.get false (s.acc c).marks (slot * 4096 + e)

/-- The saturation flag of a slot. -/
def slotSat (s : State) (c slot : Nat) : Bool := (s.acc c).sat.getLsbD slot

/-- An element with its mark. -/
def elem (s : State) (c slot e : Nat) : VRes := { v := s.elemDW c slot e, poison := s.elemMark c slot e }

/-- An element written with its mark; an integer element's bytes 4 to 7 are zero. -/
def setElem (s : State) (c slot e : Nat) (x : VRes) : State :=
  let a := elemAddr c slot e
  let s := s.setMem ((s.mem.setBytes a (leBytes 4 x.v.hi.toNat ++ leBytes 4 x.v.lo.toNat)).setSide a Side.clean)
  let q := s.acc c
  s.setAcc c { q with marks := Sparse.set false q.marks (slot * 4096 + e) x.poison }

/-- A slot's saturation flag set (R129). -/
def markSat (s : State) (c slot : Nat) (b : Bool) : State :=
  let q := s.acc c
  if b then s.setAcc c { q with sat := q.sat ||| (1#8 <<< slot) } else s

/-- A slot cleared (R111). -/
def clearSlot (s : State) (c slot : Nat) : State :=
  let a := elemAddr c slot 0
  let s := s.setMem (s.mem.wipe a (a + 32768))
  let q := s.acc c
  s.setAcc c { q with
    marks := Sparse.clear q.marks (slot * 4096) (slot * 4096 + 4096), sat := q.sat &&& ~~~(1#8 <<< slot) }

/-- Every slot of a group cleared (R111). -/
def clearGroup (s : State) (c : Nat) (g : Group) : State :=
  (List.range g.depth).foldl (fun s i => s.clearSlot c (g.base + i)) s

/-! ## Faults (R137, R138) -/

/-- An accumulator fault: ACC_FAULT keeps the first, CORE_FAULT records code 1, and the group named is marked faulted. -/
def accFault (s : State) (c : Nat) (code : BitVec 4) (base no : Nat) (pc : BitVec 12) : State :=
  let q := s.seq c
  let q' := { q with
    aCount := min (q.aCount + 1) 255, aValid := true,
    aPass := if q.aValid then q.aPass else BitVec.ofNat 8 no,
    aSlot := if q.aValid then q.aSlot else BitVec.ofNat 3 base,
    aCode := if q.aValid then q.aCode else code }
  let s := { s.setSeq c q' with sums := { s.sums with accFault := s.sums.accFault + 1 } }
  let s := s.coreFault c 1 pc
  if code = 1 then s else
    match s.group c base with
    | none => s
    | some g => s.setGroup c (g.fault s.now)

/-- The group that an instruction names by its base; the fault where there is none (R137). Such a fault has no pass number, and PASSNO is
recorded as 0 (DESIGN CHOICE, log 73). -/
def namedGroup (s : State) (c v : Nat) : State × Option Group :=
  if (s.acc c).slots ≤ v then (s.accFault c 1 v 0 (s.pcOf c), none)
  else
    match s.group c v with
    | none => (s.accFault c 2 v 0 (s.pcOf c), none)
    | some g => (s, some g)

/-- Is a DRAIN of the group, among those issued before generation gen, still reading it (R134)? -/
def drainReads (s : State) (c base gen : Nat) : Bool :=
  (s.drn c).q.any fun d => d.grp = base && !d.readDone && decide (d.gen < gen)

end State

/-! ## The stack rule (R114) -/

/-- The combines after a push: while the count is even, the two newest nodes join into the older one's slot. The stack is newest
first; the combines come in order, as (older slot, newer slot). -/
def joinNodes : Nat → Nat → List SNode → List SNode × List (Nat × Nat)
  | 0, _, st => (st, [])
  | fuel + 1, c, st =>
    if c % 2 = 0 then
      match st with
      | n2 :: n1 :: r =>
        let x := joinNodes fuel (c / 2) ({ slot := n1.slot, first := n1.first, last := n2.last } :: r)
        (x.1, (n1.slot, n2.slot) :: x.2)
      | _ => (st, [])
    else (st, [])

/-- The landing slot of a group (R114, R115); none is a stack overflow. -/
def Group.landingSlot (g : Group) : Option Nat :=
  ((List.range g.depth).map (g.base + ·)).find? fun x => !(g.stack.any fun n => n.slot = x) && !g.freed.contains x

/-- The group with pass no landed in a slot: its node on the stack and the combines it triggers. -/
def Group.push (g : Group) (no gen : Nat) (vec : Bool) (slot : Nat) : Group :=
  let x := joinNodes 16 (no + 1) ({ slot, first := no, last := no } :: g.stack)
  { g with stack := x.1, freed := x.2.map (·.2), landing := g.landing ++ [{ no, gen, vec, slot, chain := x.2, left := 4096 }] }

/-- With the compatibility bit the pass goes into the base slot, into what is there (R124). -/
def Group.pushSeq (g : Group) (no gen : Nat) (vec : Bool) : Group :=
  { g with
    stack := [{ slot := g.base, first := 0, last := no }],
    landing := g.landing ++ [{ no, gen, vec, slot := g.base, chain := [], left := 4096 }] }

/-- Elements in one beat of a node and beats in a whole node: DW elements, or INT32 elements of four bytes (R10, R125). -/
def nodeElems (integer : Bool) : Nat := if integer then 32 else 16
def nodeBeats (integer : Bool) : Nat := if integer then 128 else 256

/-- Is the level-log2(s) node of a split-receive group complete (R127)? -/
def Group.nodeDone (g : Group) (gen : Nat) : Bool :=
  g.nodes.any fun n => n.gen ≤ gen && n.level = n.logS && n.beats.length = nodeBeats g.integer

/-- Is no node of the group, up to those for DRAIN number gen, short of its last join (R131)? -/
def Group.nodesQuiet (g : Group) (gen : Nat) : Bool :=
  g.nodes.all fun n => gen < n.gen || (n.level = n.logS && n.beats.length = nodeBeats g.integer)

/-- A landing slot cleared before its pass's first entry (R111, R114). Elements whose combines still read the slot are not taken yet and
keep their words (R116), and its saturation flag has gone to the slot that those combines write (R129). -/
def State.clearLanding (s : State) (c : Nat) (g : Group) (slot : Nat) : State :=
  let reads := g.work.filter fun w => w.chain.any fun x => x.1 = slot || x.2 = slot
  let kept := reads.map fun w => (w.e, s.elem c slot w.e)
  let into := (reads.flatMap (·.chain)).filter fun x => x.2 = slot
  let s := into.foldl (fun s x => s.markSat c x.1 (g.integer && s.slotSat c slot)) s
  kept.foldl (fun s x => s.setElem c slot x.1 x.2) (s.clearSlot c slot)

/-- A landing of a faulted group: its entries come and are discarded (R137). -/
def Group.discard (g : Group) (no gen : Nat) (vec : Bool) : Group :=
  { g with landing := g.landing ++ [{ no, gen, vec, slot := g.base, chain := [], left := 4096 }] }

/-- Pass no of a group lands if it has not (R114). -/
def State.land (s : State) (c base no gen : Nat) (vec : Bool) (pc : BitVec 12) : State :=
  match s.group c base with
  | none => s
  | some g =>
    if g.landing.any fun x => x.no = no && x.gen = gen then s
    else if g.faulted then s.setGroup c (g.discard no gen vec)
    else if s.pack.compat then
      (if no = 0 then s.clearSlot c g.base else s).setGroup c (g.pushSeq no gen vec)
    else
      match g.landingSlot with
      | none => (s.accFault c 3 base no pc).setGroup c ((g.fault s.now).discard no gen vec)
      | some slot => (s.clearLanding c g slot).setGroup c (g.push no gen vec slot)

/-- An entry at one element at step d: the value goes into the landing slot, and the pass's combines there are to come, the
first two steps on (R118, R129). In a faulted group it is discarded (R137). -/
def State.enterElem (s : State) (c base no gen e : Nat) (x : VRes) (sat : Bool) (d : Nat) : State :=
  match s.group c base with
  | none => s
  | some g =>
    let g := { g with lastIn := max g.lastIn (d + 16) }
    match g.landing.find? fun l => l.no = no && l.gen = gen with
    | none => s
    | some l =>
      if g.faulted then s.setGroup c (g.finish no gen 1 d)
      else if s.pack.compat ∧ no ≠ 0 then
        let old := s.elem c l.slot e
        let r := combineElem g.integer old.v x.v
        let s := (s.setElem c l.slot e { v := r.1, poison := old.poison || x.poison }).markSat c l.slot (sat || r.2)
        s.setGroup c (g.finish no gen 1 d)
      else
        let s := (s.setElem c l.slot e x).markSat c l.slot sat
        match l.chain with
        | [] => s.setGroup c (g.finish no gen 1 d)
        | ch => s.setGroup c { g with work := g.work ++ [{ no, gen, e, chain := ch, due := d + 2 }] }

/-- One combine at an element: the older slot takes the join of both (R114, R129). -/
def State.combineAt (s : State) (c : Nat) (integer : Bool) (s1 s2 e : Nat) : State :=
  let x := s.elem c s1 e
  let y := s.elem c s2 e
  let r := combineElem integer x.v y.v
  let sat := integer && (s.slotSat c s2 || r.2)
  (s.setElem c s1 e { v := r.1, poison := x.poison || y.poison }).markSat c s1 sat

/-- The next combine at an element that is due by step lim, if any (R118). -/
def State.combineNext (s : State) (c base e lim : Nat) : State :=
  match s.group c base with
  | none => s
  | some g =>
    match g.work.find? fun w => w.e = e with
    | none => s
    | some w =>
      match w.chain with
      | [] => s
      | (s1, s2) :: rest =>
        if lim < w.due then s
        else
          let s := s.combineAt c g.integer s1 s2 e
          match rest with
          | [] =>
            let others := (g.work.erase w).map fun x =>
              if x.e = e then { x with due := max x.due (w.due + 2) } else x
            s.setGroup c ({ g with work := others }.finish w.no w.gen 1 w.due)
          | _ =>
            s.setGroup c { g with work := g.work.map fun x => if x = w then { w with chain := rest, due := w.due + 2 } else x }

/-- A leaf of the vector path enters at step d: value and mark by element, zero where the map has none. -/
def State.enterLeaf (s : State) (c base no gen : Nat) (vals : SMap VRes) (sat : Bool) (d : Nat) (pc : BitVec 12) : State :=
  (List.range 4096).foldl (fun s e => s.enterElem c base no gen e (Sparse.get VRes.zero vals e) sat d)
    (s.land c base no gen true pc)

/-- The leaf of a pass that takes no array steps enters at step d (R49, R60); its combines follow (R118, R120). -/
def State.enterEmpty (s : State) (c base no gen : Nat) (marked : Bool) (d : Nat) (pc : BitVec 12) : State :=
  let x : VRes := { v := {}, poison := marked }
  (List.range 4096).foldl (fun s e => s.enterElem c base no gen e x false d) (s.land c base no gen false pc)

/-- Steps that the combines of pass no take at an element, two each (R118). -/
def chainSteps (no : Nat) : Nat := 2 * (joinNodes 16 (no + 1) (List.replicate 9 { slot := 0, first := 0, last := 0 })).2.length

/-- The folded value of a group at an element, with the saturation flag it carries (R114, R129, R133): a split-receive group's is
its complete node. -/
def State.foldAt (s : State) (c : Nat) (g : Group) (gen e : Nat) : VRes × Bool :=
  let slots :=
    if g.recv then (g.nodes.filter fun n => n.gen ≤ gen && n.level = n.logS).map (·.slot) else g.stack.map (·.slot)
  match slots with
  | [] => (VRes.zero, false)
  | x :: r =>
    r.foldl (fun a y =>
      let b := s.elem c y e
      let z := combineElem g.integer b.v a.1.v
      ({ v := z.1, poison := a.1.poison || b.poison }, g.integer && (a.2 || s.slotSat c y || z.2)))
      (s.elem c x e, g.integer && s.slotSat c x)

/-- The group emptied as DRAIN number gen of it ends; it stays open (R134). Nodes scheduled after that DRAIN stay (R132). -/
def State.emptyGroup (s : State) (c : Nat) (g : Group) (gen d : Nat) : State :=
  let later := g.nodes.filter fun n => gen < n.gen
  let slots := ((List.range g.depth).map (g.base + ·)).filter fun x => !(later.any fun n => n.slot = x)
  (slots.foldl (fun s x => s.clearSlot c x) s).setGroup c { g with stack := [], freed := [], nodes := later, emptyAt := d + 1 }

/-- Is a split-node beat for the group in a router of this module, or at the core and not yet taken? Such a node counts at its destination
(R131; DEDUCED, log 74). -/
def State.nodeUnderWay (s : State) (c base : Nat) : Bool :=
  let mine := fun (b : Beat) =>
    let x := b.hdr.toNat
    b.kind = 2 && bitsOf x 32 22 = c && bitsOf x 35 33 = base && bitsOf x 21 8 = leNat (Sparse.get [] s.dict.val 0x100006)
  (s.trail.beats.any fun p => p.2.any fun q => mine q.beat) || (Sparse.get [] s.trail.inbox c).any mine

/-- The split nodes scheduled to a group up to DRAIN number gen are still in flight (R131). -/
def State.nodesInFlight (s : State) (c : Nat) (g : Group) : Bool :=
  g.recv && (s.nodeUnderWay c g.base || g.nodes.any fun n => !(n.level = n.logS && n.beats.length = nodeBeats g.integer))

/-- An ACLR may take effect: nothing of an overlapping group is in flight or being read (R110). -/
def State.aclrReady (s : State) (c base depth : Nat) : Bool :=
  (s.acc c).groups.all fun g =>
    decide (g.base + g.depth ≤ base ∨ base + depth ≤ g.base) ||
      (g.inflight.isEmpty && !s.nodesInFlight c g && !(s.drn c).q.any fun d => d.grp = g.base && !d.readDone)

/-- The group that an ACLR opens, empty (R110, R111). It receives split nodes where the manifest declares a split-receive group of its base,
depth and form (R127, R308). -/
def newGroup (a : Acc) (base depth : Nat) (integer : Bool) (pc : BitVec 12) : Group :=
  { base, depth, integer, recv := a.recv.contains (base, depth, integer), faulted := false, aclrPc := pc, nextNo := 0, gen := 0,
    stack := [], freed := [], landing := [], work := [], inflight := [], nodes := [], quietAt := 0, emptyAt := 0, lastIn := 0,
    beatIn := [] }

/-- An ACLR takes effect: it closes every overlapping group and opens its own (R110). -/
def State.openGroup (s : State) (c base depth : Nat) (integer : Bool) : State :=
  let a := s.acc c
  let g := newGroup a base depth integer (s.pcOf c)
  let kept := a.groups.filter fun x => decide (x.base + x.depth ≤ base ∨ base + depth ≤ x.base)
  (s.setAcc c { a with groups := kept ++ [g] }).clearGroup c g

end Sys2Proof.Machine
end

