-- ==== Sys2Proof/Config.lean ====
section
/-! DEFINITION. What an implementation fixes or a standard defines and the spec does not: uninterpreted constants. No
proof can see a value of any of them (log 5, 6, 7). -/

namespace Sys2Proof.Config

/-- A free byte, drawn with the state's counter of free values (log 5). -/
opaque freeByte : Nat → Byte

/-- A free 64-bit value, drawn with the state's counter of free values (log 5). -/
opaque freeWord : Nat → W64

/-- Fresh random bytes of Ranger (nonces, ephemeral keys, session numbers): free values (log 5). -/
opaque freeBytes : Nat → Nat → List Byte

/-- SM3, named by the spec and not defined in it (R443; log 6). -/
opaque sm3 : List Byte → BitVec 256

/-- Verification of an SM2 signature (r, s) by the key that a KEY_ID names (R443; log 6). -/
opaque sm2Verify : (keyId : BitVec 256) → (msg : List Byte) → (sig : BitVec 512) → Bool

/-- An SM2 signature by a device key: 0 the identity key, 1 the attestation key (R444; log 6). The last argument stands
for the signature's own random value. -/
opaque sm2Sign : (key : Nat) → (msg : List Byte) → (fresh : Nat) → BitVec 512

/-- Session keys of R413: 128 bytes of the SM2 key derivation over the shared point and both nonces (log 6). -/
opaque sm2Kdf : (ownFresh : Nat) → (peerKey : BitVec 512) → (nonces : BitVec 512) → BitVec 1024

/-- HMAC-SM3 (R414; log 6). -/
opaque hmacSm3 : (key : BitVec 256) → (msg : List Byte) → BitVec 256

/-- Opening of an SM4-GCM message (R414; log 6). -/
opaque sm4Open : (key : BitVec 128) → (nonce : BitVec 96) → (aad ct : List Byte) → (tag : BitVec 128) → Option (List Byte)

/-- Sealing of an SM4-GCM message (R414; log 6). -/
opaque sm4Seal : (key : BitVec 128) → (nonce : BitVec 96) → (aad pt : List Byte) → List Byte × BitVec 128

/-- KEY_ID of the firmware signing key in Ranger's ROM (R452; log 8). -/
opaque firmwareSigner : BitVec 256

/-- KEY_ID of the vendor key in Ranger's ROM (R452; log 8). -/
opaque vendorKeyId : BitVec 256

/-- The certificate chain of R445 (log 8). -/
opaque deviceCert : List Byte

/-- The math ROM of R190: lower breakpoint of segment i of function f; slope; offset (log 7). -/
opaque actBreak : (f : Byte) → (i : Nat) → W32
opaque actSlope : (f : Byte) → (i : Nat) → W32
opaque actOffset : (f : Byte) → (i : Nat) → W32

/-- The two limit values of an ACT function, for −infinity and +infinity (R190; log 7). -/
opaque actLimit : (f : Byte) → (positive : Bool) → W32

/-- The uniform schedule built into every router (R261; log 20), in rotations of 512 steps. The steps at which a core has its slots to the
slices: number 2k for its reads of slice k, 2k + 1 for its writes. -/
opaque uniformCore : (core : Nat) → Equiv.Perm (Fin 512)

/-- The steps at which a slice has its slots to the channels: number 2k for its requests to channel k, 2k + 1 for its write-backs (R261). -/
opaque uniformSlice : (slice : Nat) → Equiv.Perm (Fin 512)

/-- The steps at which a channel has its fill slots to the slices: numbers 2k and 2k + 1 for slice k (R261). -/
opaque uniformFill : (channel : Nat) → Equiv.Perm (Fin 512)

/-- The step at which a slice has its return slot to a core, and the plane of their traffic (R261). -/
opaque uniformReturn : (slice core : Nat) → Fin 512
opaque uniformPlane : (core slice : Nat) → Fin 4

/-- The entries of table set 0 for every other route (R261; log 20). -/
opaque uniformEntry : (router plane out index : Nat) → W16

/-- The training results held in an LPDDR6 controller, and those of a Guyline lane (R295, R323, R438; log 21). -/
opaque lpddrTrained : (channel : Nat) → (fresh : Nat) → List Byte
opaque guylineTrained : (lane : Nat) → (fresh : Nat) → List Byte

/-- The valve curve between two of its 101 points: the duty in thousandths of a percent at num / 32 of the way (R392; log 34). -/
opaque valveBetween : (lo hi : W32) → (num : Nat) → Nat

/-- The factory calibration set: the bytes of an entry (0xA001 to 0xA006) and subindex (log 8). -/
opaque factoryCal : (index sub : Nat) → List Byte

end Sys2Proof.Config
end

