-- ==== Sys2Proof/Machine/Message.lean ====
section
/-! DEFINITION. Messages that the module sends on its management port: header (R407), session keys (R413), trailer and
encryption (R414), sequence numbers (R415), and the service messages of R420. -/

namespace Sys2Proof.Machine

/-- UDP ports (R406). -/
def portKpp : W16 := 48230
def portService : W16 := 48231
def portRecovery : W16 := 48232

/-- ROLE codes (R407). -/
def Role.code : Role → Nat
  | .observer => 0
  | .operator => 1
  | .owner => 2
  | .vendor => 3

/-- The 16-byte message header (R407). -/
def msgHeader (typ : Byte) (enc : Bool) (role : Role) (len : Nat) (sid mseq : W32) : List Byte :=
  [0x50, 0x4B, 0x01, typ, if enc then 1 else 0, BitVec.ofNat 8 role.code] ++ leBytes 2 len ++ leBytes 4 sid.toNat ++
    leBytes 4 mseq.toNat

/-- The keys of a session in the order of R413. -/
def Session.key (k : Session) (off n : Nat) : Nat := beNat (slice (beBytes 128 k.keys.toNat) off n)

def Session.macIn (k : Session) : BitVec 256 := BitVec.ofNat 256 (k.key 0 32)
def Session.macOut (k : Session) : BitVec 256 := BitVec.ofNat 256 (k.key 32 32)
def Session.sm4In (k : Session) : BitVec 128 := BitVec.ofNat 128 (k.key 64 16)
def Session.sm4Out (k : Session) : BitVec 128 := BitVec.ofNat 128 (k.key 80 16)

/-- The SM4-GCM nonce of R414: SESSION, MSEQ, 0. -/
def gcmNonce (sid mseq : W32) : BitVec 96 := BitVec.ofNat 96 (beNat (leBytes 4 sid.toNat ++ leBytes 4 mseq.toNat ++ leBytes 4 0))

/-- A message of an open session as it goes out: body and trailer (R414). -/
def sealBody (k : Session) (header body : List Byte) (enc : Bool) (mseq : W32) : List Byte × List Byte :=
  if enc then
    let r := Config.sm4Seal k.sm4Out (gcmNonce k.sid mseq) header body
    (r.1, beBytes 16 r.2.toNat)
  else (body, beBytes 32 (Config.hmacSm3 k.macOut (header ++ body)).toNat)

namespace State

/-- 0x1014.00 MGMT_ENC_REQUIRED in force (R406). -/
def encRequired (s : State) : Bool := (Sparse.get [] s.dict.val 0x101400).any fun b => decide (b ≠ 0)

def sessionOf (s : State) (sid : W32) : Option Session := s.rng.sessions.find? fun k => k.sid = sid

def setSession (s : State) (k : Session) : State :=
  { s with rng := { s.rng with sessions := s.rng.sessions.map fun x => if x.sid = k.sid then k else x } }

/-- The module sends. -/
def emit (s : State) (o : Out) : State := { s with out := s.out ++ [o] }

/-- A message without a session, to an address (R413). -/
def sendPlain (s : State) (peer : Peer) (port : W16) (typ : Byte) (mseq : W32) (body : List Byte) : State :=
  s.emit (.kpp peer port (msgHeader typ false .observer body.length 0 mseq) body [])

/-- A message of an open session with a given MSEQ (R411, R414). -/
def sendAs (s : State) (k : Session) (peer : Peer) (port : W16) (typ : Byte) (mseq : W32) (body : List Byte) : State :=
  let enc := k.enc || s.encRequired
  let h := msgHeader typ enc k.role body.length k.sid mseq
  let r := sealBody k h body enc mseq
  s.emit (.kpp peer port h r.1 r.2)

/-- A service message of the module's own, with the session's next MSEQ on port 48231 (R415, R420); none for a session that has
closed. -/
def sendService (s : State) (sid : W32) (peer : Peer) (typ : Byte) (body : List Byte) : State :=
  match s.sessionOf sid with
  | none => s
  | some k =>
    let n := k.svcTx + 1
    (s.setSession { k with svcTx := n }).sendAs k peer portService typ (BitVec.ofNat 32 n) body

end State

/-- Body of SUBMIT_REPLY (R420): REQ_ID, status and SEQ, with RETRY_AFTER where the status has one (R411, log 16). -/
def submitReplyBody (reqId : W64) (status : W16) (seq : W64) (retry : Nat) : List Byte :=
  leBytes 8 reqId.toNat ++ leBytes 2 status.toNat ++ leBytes 8 seq.toNat ++ leBytes 2 retry

/-- Body of RESULT (R420). -/
def resultBody (reqId seq : W64) (status : W16) (total off : Nat) (frag : List Byte) : List Byte :=
  leBytes 8 reqId.toNat ++ leBytes 8 seq.toNat ++ leBytes 2 status.toNat ++ leBytes 4 total ++ leBytes 4 off ++ frag

end Sys2Proof.Machine
end

