-- ==== Sys2Proof/Machine/Links.lean ====
section
/-! DEFINITION. What leaves for other modules: the route table (R333), flit headers (R325) and the
SERVICE flits of R423. -/

namespace Sys2Proof.Machine

/-- The route-table entry for a module (R333): nibble m; this module's own entry reads as 0xF. -/
def State.routeNibble (s : State) (m : Nat) : Nat :=
  if m = s.ownId then 0xF
  else
    let b := (s.dictVal 0x501000 (List.replicate 8192 0xEE)).getD (m / 2) 0
    if m % 2 = 0 then b.toNat % 16 else b.toNat / 16

/-- The port a flit for a module leaves by, none where it is unreachable or its port is disabled or failed (R333). -/
def State.routePort (s : State) (m : Nat) : Option Nat :=
  let e := s.routeNibble m
  if e < 12 then
    let st := (s.gport e).state
    if st = 0 ∨ st = 4 then none else some e
  else none

/-- The header block of R325; SEQ and FCRC are put in when it is sent (R328). -/
def FHead.bits (h : FHead) : BitVec 256 :=
  BitVec.ofNat 256 (h.ftype % 16 * 2 ^ 252 + h.vmask % 256 * 2 ^ 232 + h.dmod % 16384 * 2 ^ 218 + h.smod % 16384 * 2 ^ 204 +
    h.addr % 2 ^ 42 * 2 ^ 162 + h.core % 2048 * 2 ^ 151 + h.eng % 8 * 2 ^ 148 + (if h.dpk then 2 ^ 147 else 0) +
    h.beat % 256 * 2 ^ 139)

/-- The header fields of a received flit (R325). -/
def FHead.ofBits (b : BitVec 256) : FHead :=
  let x := b.toNat
  { ftype := bitsOf x 255 252, vmask := bitsOf x 239 232, dmod := bitsOf x 231 218, smod := bitsOf x 217 204,
    addr := bitsOf x 203 162, core := bitsOf x 161 151, eng := bitsOf x 150 148, dpk := bitOf x 147, beat := bitsOf x 146 139 }

/-- A parcel as its block crosses Guyline (R324, R327): its poison mark and CCLASS in the control byte. -/
def parcelBlock (p : Parcel) : PBlock :=
  { ctl := BitVec.ofNat 8 (64 + (if p.poison then 32 else 0) + p.cclass.toNat * 4), data := p.data }

/-- The parcel that a received block makes at an address: a new check value, poison from the mark (R327, R44). -/
def blockParcel (b : PBlock) (addr : Nat) : Parcel :=
  if b.ctl.getLsbD 5 then poisonedParcel addr
  else madeParcel b.data (BitVec.ofNat 3 (bitsOf b.ctl.toNat 4 2)) addr

/-- One poisoned error that arises at no core of this module (R43, R470). -/
def State.countEdgePoison (s : State) : State := { s with sums := { s.sums with poison := s.sums.poison + 1 } }

/-- The address under which parcel i of a flit verifies: its place at the destination, or in a node's tile (R325, R352). A SERVICE flit's
parcels have no place. -/
def FHead.at_ (h : FHead) (i : Nat) : Nat :=
  if h.ftype = 4 then 128 * h.beat + 32 * i else if h.ftype = 6 then 0 else (h.addr + 32 * i) % 2 ^ 42

/-- The transmitting edge router verifies the parcels of a flit; one that fails is poisoned and counted (R41, R44, R327). -/
def State.verifyFlit (s : State) (h : FHead) (ps : List Parcel) : State × List Parcel :=
  let idx := (List.range 8).filter fun i => bitOf h.vmask i
  (idx.zip ps).foldl (fun (x : State × List Parcel) y =>
    let r := consume y.2 (h.at_ y.1)
    (if r.2 then x.1.countEdgePoison else x.1, x.2 ++ [r.1])) (s, [])

/-- A flit joins a queue of its port; Daypack flits have one of their own (R324). -/
def State.queueFlit (s : State) (p : Nat) (h : FHead) (ps : List Parcel) : State :=
  let r := s.verifyFlit h ps
  let f : Flit := { header := h.bits, blocks := r.2.map parcelBlock }
  let g := r.1.gport p
  r.1.setPort p (if h.dpk then { g with dpkTxq := g.dpkTxq ++ [f] } else { g with txq := g.txq ++ [f] })

/-- The beat that reached a port last becomes a flit of its own (R326). -/
def State.flushEdge (s : State) (p : Nat) : State :=
  match (s.gport p).lastEdge with
  | some (_, _, h, ps) => (s.setPort p { s.gport p with lastEdge := none }).queueFlit p h ps
  | none => s

/-- Is a port disabled or failed, so that what is for it is dropped (R333)? -/
def State.portDead (s : State) (p : Nat) : Bool := decide ((s.gport p).state = 0 ∨ (s.gport p).state = 4)

/-- What a flit cannot reach is dropped and counted in GL_UNROUTABLE (R333). -/
def State.countUnroutable (s : State) : State := { s with gl := { s.gl with unroutable := s.gl.unroutable + 1 } }

/-- A flit waits at a port, behind the beats that reached it before; one for a disabled or failed port is dropped and counted (R333). -/
def State.portFlit (s : State) (p : Nat) (h : FHead) (ps : List Parcel) : State :=
  if s.portDead p then s.countUnroutable else (s.flushEdge p).queueFlit p h ps

/-- The flit of 8 parcels that a beat of plane 2 and one of plane 3 of the same step form: data beats of four parcels each at addresses 128
bytes apart that differ in nothing else, or split-node beats of one tag with an even beat number and the next (R326). -/
def joinFlits (lo hi : FHead × List Parcel) : Option (FHead × List Parcel) :=
  let a := lo.1
  let b := hi.1
  if (a.ftype = 1 ∨ a.ftype = 3) ∧ a.vmask = 15 ∧ { a with addr := b.addr } = b ∧ b.addr = (a.addr + 128) % 2 ^ 42 then
    some ({ a with vmask := 255 }, lo.2 ++ hi.2)
  else if a.ftype = 4 ∧ a.beat % 2 = 0 ∧ b.beat = a.beat + 1 ∧ { a with beat := b.beat, vmask := b.vmask } = b then
    some ({ a with vmask := a.vmask % 16 + 16 * (b.vmask % 16) }, lo.2 ++ hi.2)
  else none

/-- A beat reaches a port on a plane: it forms a flit with the beat of the other plane in the same step, or waits until the step is over
(R326). -/
def State.portBeat (s : State) (p plane : Nat) (h : FHead) (ps : List Parcel) : State :=
  if s.portDead p then s.countUnroutable
  else
    let pair := match (s.gport p).lastEdge with
      | some (at_, pl, k, qs) =>
        if at_ = s.now ∧ pl ≠ plane then (if plane = 2 then joinFlits (h, ps) (k, qs) else joinFlits (k, qs) (h, ps)) else none
      | none => none
    match pair with
    | some f => (s.setPort p { s.gport p with lastEdge := none }).queueFlit p f.1 f.2
    | none =>
      let s := s.flushEdge p
      s.setPort p { s.gport p with lastEdge := some (s.now, plane, h, ps) }

/-- A flit for another module waits at the port its route names, or is dropped and counted (R333). -/
def State.sendFlit (s : State) (h : FHead) (ps : List Parcel) : State :=
  match s.routePort h.dmod with
  | none => s.countUnroutable
  | some p => s.portFlit p h ps

/-- The header parcel of a SERVICE flit (R423): its fields in the order the rule lists them (log 17). -/
def serviceHead (kind : Nat) (reqId : W64) (origin : Nat) (svc : Byte) (total off : Nat) (seq : W64) (status : W16) :
    List Byte :=
  leBytes 1 kind ++ leBytes 8 reqId.toNat ++ leBytes 2 origin ++ [svc] ++ leBytes 4 total ++ leBytes 4 off ++
    leBytes 8 seq.toNat ++ leBytes 2 status.toNat

/-- SERVICE flits that carry bytes from an offset on: each a header parcel and up to seven data parcels (R423). -/
def State.sendServicePieces (s : State) (dmod kind : Nat) (reqId : W64) (origin : Nat) (svc : Byte) (seq : W64) (status : W16)
    (total off : Nat) (data : List Byte) : State :=
  (List.range (max 1 ((data.length + 223) / 224))).foldl (fun s i =>
    let frag := (data.drop (224 * i)).take 224
    let head := serviceHead kind reqId origin svc total (off + 224 * i) seq status
    let ps := (bytesParcel (slice head 0 32) :: toParcels frag).map fun d => madeParcel d 0 0
    s.sendFlit { ftype := 6, vmask := 2 ^ ps.length - 1, dmod := dmod, smod := s.ownId, addr := 0 } ps) s

/-- SERVICE flits of a whole message to another module: its data, and behind them, from offset TOTAL_LEN on, the record of a result (R420,
R423). -/
def State.sendServiceFlits (s : State) (dmod kind : Nat) (reqId : W64) (origin : Nat) (svc : Byte) (seq : W64)
    (status : W16) (data record : List Byte) : State :=
  let s := s.sendServicePieces dmod kind reqId origin svc seq status data.length 0 data
  if record = [] then s else s.sendServicePieces dmod kind reqId origin svc seq status data.length data.length record

/-! ## Symbols (R335) -/

/-- The payload of a symbol block: STYPE, SSEQ, its fields, given in place, and SCRC over bytes 0 to 29 from bit 255 downward. -/
def symPayload (stype sseq fields : Nat) : BitVec 256 :=
  let x := (stype % 256 * 2 ^ 248 + sseq % 256 * 2 ^ 240 + fields % 2 ^ 240) / 65536 * 65536
  BitVec.ofNat 256 (x + (crc16 (beBytes 30 (x / 65536))).toNat)

/-- A symbol other than ACK, NAK and TIME takes the port's next SSEQ, is sent at the next block boundary and kept until it is acknowledged
(R336, R337). -/
def State.sendSym (s : State) (p stype fields : Nat) : State :=
  let g := s.gport p
  s.setPort p { g with sseq := g.sseq + 1, syms := g.syms ++ [{ sseq := g.sseq, stype, fields, sentAt := none }] }

/-- ACK, NAK and TIME wait for positions 38 and 39 and are not kept (R336, R337). -/
def State.sendSymOnce (s : State) (p stype fields : Nat) : State :=
  let g := s.gport p
  s.setPort p { g with ctlq := g.ctlq ++ [(stype, fields)] }

end Sys2Proof.Machine
end

