-- ==== Sys2Proof/Machine/Halt.lean ====
section
/-! DEFINITION. The end of a pack's run: replies and results to requesters (R420, R423), the discarding of open results
(R368, R476), and the halting of cores (R306). -/

namespace Sys2Proof.Machine

namespace State

/-- ALERT_N is asserted from a source (R394 and the rules of each source). -/
def alert (s : State) (a : AlertSrc) : State :=
  if s.rng.alerts.contains a then s else { s with rng := { s.rng with alerts := s.rng.alerts ++ [a] } }

/-- A source of ALERT_N is gone. -/
def unalert (s : State) (a : AlertSrc) : State := { s with rng := { s.rng with alerts := s.rng.alerts.filter (· ≠ a) } }

/-- SUBMIT_REPLY to a request's client, or to its origin module (R420, R423). -/
def replyTo (s : State) (r : Req) (status : W16) (seq : W64) (retry : Nat) : State :=
  if r.origin.toNat = s.ownId then s.sendService r.sid r.peer 0x21 (submitReplyBody r.reqId status seq retry)
  else s.sendServiceFlits r.origin.toNat 3 r.reqId r.origin.toNat r.svc seq status [] []

/-- RESULT to a request's client in fragments of at most 1,024 bytes, the last followed by the record (R420), or to its origin
module (R423). -/
def resultTo (s : State) (r : Req) (seq : W64) (status : W16) (data record : List Byte) : State :=
  if r.origin.toNat = s.ownId then
    let n := max 1 ((data.length + 1023) / 1024)
    (List.range n).foldl (fun s i =>
      let frag := (data.drop (1024 * i)).take 1024
      s.sendService r.sid r.peer 0x22
        (resultBody r.reqId seq status data.length (1024 * i) (if i + 1 = n then frag ++ record else frag))) s
  else s.sendServiceFlits r.origin.toNat 2 r.reqId r.origin.toNat r.svc seq status data record

/-- Every open result is discarded, and so is one whose data has not been read whole (log 99): its requester gets a RESULT with no data and
STATUS 0x0602, and each request that is not admitted a SUBMIT_REPLY with 0x0303 (R368, R476). -/
def discardOpen (s : State) : State :=
  let s := s.log.open_.foldl (fun s p =>
    match p.2 with
    | some o => s.resultTo o.req o.seq 0x0602 [] []
    | none => s) s
  let s := s.svc.waiting.foldl (fun s r => s.replyTo r 0x0303 0 0) s
  let s := s.svc.adm.foldl (fun s a => s.replyTo a.req 0x0303 0 0) s
  let s := s.svc.taking.foldl (fun s t => s.resultTo t.kept.req t.kept.seq 0x0602 [] []) s
  { s with log := { s.log with open_ := [], leaves := [] }, svc := { s.svc with waiting := [], adm := [], taking := [], table := [] } }

/-- Every open result is lost and nothing is sent, as at a Basecamp restart (R476); a later FETCH returns 0x0303. -/
def loseOpen (s : State) : State :=
  { s with
    log := { s.log with open_ := [], leaves := [] },
    svc := { s.svc with waiting := [], adm := [], taking := [], table := [], frags := [], fwd := [], kept := [] } }

/-- Have all cores of the pack halted (R306)? -/
def allHalted (s : State) : Bool :=
  s.cores.seq.all fun p => !p.2.inPack || p.2.st = 3 || p.2.st = 4 || p.2.st = 5

/-- PACK_STATE becomes HALTED once every core of the pack has halted, and open results are discarded (R306, R368). -/
def checkAllHalted (s : State) : State :=
  if s.pack.state = .running && s.allHalted then
    ({ s with pack := { s.pack with state := .halted } }).discardOpen
  else s

/-- A core halts in CORE_STAT.STATE 3 or 4 (R177, R184). -/
def haltCore (s : State) (c : Nat) (st : BitVec 3) : State :=
  (s.setSeq c { (s.seq c) with st := st, wait := .none }).checkAllHalted

end State

end Sys2Proof.Machine
end

