-- ==== Sys2Proof/Machine/Operands.lean ====
section
/-! DEFINITION. The operand forms of sequencer instructions: the scalar form (R177), indirect fields (R175), the core-local
space (R179) and the bundle a BM instruction joins (R194, R199). -/

namespace Sys2Proof.Machine

/-- Operand B of the scalar form: RB, or IMM32 sign-extended (R177). -/
def operandB (q : Seq) (f : Scalar) : W64 := if f.imm then f.imm32.signExtend 64 else q.reg f.rb

/-- Operand RA of the scalar form. -/
def operandA (q : Seq) (f : Scalar) : W64 := q.reg f.ra

/-- A field that may be indirect: the field, or the whole register that its bits [3:0] name (R175). -/
def fieldOr (q : Seq) (ind : Bool) {n : Nat} (field : BitVec n) : Nat :=
  if ind then (q.reg (field.setWidth 4)).toNat else field.toNat

/-- A field that may be indirect, taken modulo 2 to a width: offsets, counts, counter numbers and indices (R175). -/
def fieldMod (q : Seq) (ind : Bool) {n : Nat} (field : BitVec n) (width : Nat) : Nat := fieldOr q ind field % 2 ^ width

/-- The core-local address of LDS and STS: RA + IMM32 modulo 2^19, rounded down to a multiple of 8 (R179). -/
def localAddr (q : Seq) (f : Scalar) : Nat :=
  (q.reg f.ra + f.imm32.signExtend 64).toNat % 2 ^ 19 / 8 * 8

/-! ## Bundle causes (R197): cause 0x0600 + k is bit k of the mask -/

def causePoison : W16 := 0x0002
def causeFault : W16 := 0x0004
def causeOverflow : W16 := 0x0008
def causeArmFull : W16 := 0x0010
def causeExplicit : W16 := 0x0020
def causeTimeout : W16 := 0x0040
def causeNested : W16 := 0x0080
def causeRemote : W16 := 0x0200

/-- The status of the lowest cause in a mask (R198); none where the mask is empty. -/
def lowestCause (m : W16) : Option W16 :=
  ((List.range 16).find? fun k => m.getLsbD k).map fun k => BitVec.ofNat 16 (0x0600 + k)

namespace State

/-- A cause is recorded against the open bundle of a core (R197). -/
def bundleCause (s : State) (c : Nat) (m : W16) : State :=
  let b := s.bnd c
  if b.isOpen then s.setBnd c { b with cause := b.cause ||| m } else s

/-- An action joins the open bundle with the parcels it buffers; past 64 actions or 512 parcels the bundle overflows (R194). -/
def addAction (s : State) (c : Nat) (act : BAct) (parcels : Nat) : State :=
  let b := s.bnd c
  let b' := { b with acts := b.acts ++ [act], parcels := b.parcels + parcels }
  s.setBnd c { b' with
    cause := if 64 < b'.acts.length ∨ 512 < b'.parcels then b'.cause ||| causeOverflow else b'.cause }

/-- A BM instruction with no bundle open does not execute: STRAY is set and fault 4 raised (R199). -/
def stray (s : State) (c : Nat) : State :=
  (s.setBnd c { (s.bnd c) with stray := true }).coreFault c 4 (s.pcOf c)

/-- What LDS reads at a core-local address, given what the control block reads as (R179). -/
def loadLocal (s : State) (c a : Nat) (control : Nat → Nat) : W64 :=
  if a < 0x40000 then s.loadWord c a
  else if a < 0x41000 then BitVec.ofNat 64 (control (a - 0x40000))
  else 0

/-- What STS does at a core-local address: the instruction region drops the write and counts one poisoned error, the control
block and unlisted addresses ignore it (R179). -/
def storeLocal (s : State) (c a : Nat) (v : W64) : State :=
  if a < 0x8000 then s.countPoison c 1
  else if a < 0x40000 then s.storeWord c a v
  else s

/-- Must an STS to this core-local address stall for the list hold (R227)? -/
def storeStalls (s : State) (c a : Nat) : Bool := decide (0x8000 ≤ a ∧ a < 0x40000) && s.holdFull (coreAddr c a)

end State

end Sys2Proof.Machine
end

