-- ==== Sys2Proof/Machine/Issue.lean ====
section
/-! DEFINITION. The issue of a sequencer instruction (R171 to R173). -/

namespace Sys2Proof.Machine

namespace State

/-- The instruction word at PC, if the buffer holds it (R173). -/
def wordAt (s : State) (c : Nat) : Option W64 :=
  let q := s.seq c
  if q.bufBase ≤ q.pc.toNat then q.buf[q.pc.toNat - q.bufBase]? else none

/-- The instruction that a word is taken as: an illegal word is taken as NOP (R176). -/
def instrOf (c : CoreId) (w : W64) : Instr := (decodeWord c w).getD (.nop c w)

/-- May this instruction issue next at its core, but for its own wait? The core runs, nothing issued before holds it, and its
word stands at PC in the buffer (R172, R173). -/
def canIssue (s : State) (c : CoreId) (i : Instr) : Bool :=
  let q := s.seq c.toNat
  (q.st = 1 || q.st = 2) && q.wait = .none && decide (q.nextIssue ≤ s.now) && (s.wordAt c.toNat).map (instrOf c) = some i

/-- PC to index t; the next issue is `steps` steps on. An index past 4,095 is fault 7 and halts at once (R171). An index outside
the buffer empties it (R173). -/
def goTo (s : State) (c t steps : Nat) : State :=
  let q := s.seq c
  if t < 4096 then
    let held := decide (q.bufBase ≤ t ∧ t < q.bufBase + q.buf.length)
    let seqOn := decide (t = q.pc.toNat + 1)
    s.setSeq c { q with
      pc := BitVec.ofNat 12 t, st := 1, nextIssue := s.now + steps,
      bufBase := if held || seqOn then q.bufBase else t, buf := if held || seqOn then q.buf else [] }
  else (s.coreFault c 7 4095).haltCore c 4

/-- PC to the next instruction, which may issue in the next step (R172). -/
def advance (s : State) (c : Nat) : State := s.goTo c ((s.seq c).pc.toNat + 1) 1

/-- The issue of an instruction that continues in order: when it may issue and its wait is met, its effect and then the next
instruction; while its wait is not met, the core waits at issue (R172). -/
def issue (s : State) (c : CoreId) (i : Instr) (ready : Bool) (effect : State) : Host.Outcome State Fault Refusal :=
  if s.canIssue c i then
    if ready then .next (effect.advance c.toNat) else .next (s.setSt c.toNat 2)
  else .next s

/-- The issue of an instruction whose effect says where it continues. -/
def issueTo (s : State) (c : CoreId) (i : Instr) (ready : Bool) (effect : State) : Host.Outcome State Fault Refusal :=
  if s.canIssue c i then
    if ready then .next effect else .next (s.setSt c.toNat 2)
  else .next s

end State

end Sys2Proof.Machine
end

