-- ==== Sys2Proof/Machine/Accum.lean ====
section
/-! DEFINITION. The accumulator's commands (04): ACLR, combines, and split nodes that arrive. -/

namespace Sys2Proof.Machine

/-- ACLR opens a group once the overlapping groups are idle and undrained; until then it waits at issue (R110). A group that
reaches ACC_SLOTS is accumulator fault 1 and opens nothing (R137). -/
def execAclr (c : CoreId) (ia : Bool) (base depthM1 : BitVec 3) (integer : Bool) (s : State) :
    Host.Outcome State Fault Refusal :=
  let q := s.seq c.toNat
  let b := fieldOr q ia base
  let d := depthM1.toNat + 1
  let i := Instr.aclr c ia base depthM1 integer
  if (s.acc c.toNat).slots < b + d then s.issue c i true (s.accFault c.toNat 1 b 0 q.pc)
  else if s.aclrReady c.toNat b d then s.issue c i true (s.openGroup c.toNat b d integer)
  else
    s.issueTo c i true
      (s.setSeq c.toNat { q with wait := .aclr (BitVec.ofNat 3 b) depthM1 integer, st := 2 })

/-- An ACLR that was waiting takes effect, and the sequencer goes on (R110, R172). -/
def execAclrTakeEffect (c : CoreId) (s : State) : Host.Outcome State Fault Refusal :=
  let q := s.seq c.toNat
  match q.wait with
  | .aclr base depthM1 integer =>
    let d := depthM1.toNat + 1
    if s.aclrReady c.toNat base.toNat d then
      .next (((s.setSeq c.toNat { q with wait := .none }).openGroup c.toNat base.toNat d integer).advance c.toNat)
    else .next s
  | _ => .next s

/-- The next combine of the canonical tree at an element completes (R118). -/
def execAccCombine (c : CoreId) (base : BitVec 3) (e : BitVec 12) (s : State) : Host.Outcome State Fault Refusal :=
  .next (s.combineNext c.toNat base.toNat e.toNat s.now)

/-! ## Split nodes (R125 to R128) -/

/-- The fields of a split-node beat's header (R251). -/
structure NodeTag where
  logS : Nat
  level : Nat
  first : Nat
  base : Nat
  core : Nat
  module : Nat
  beat : Nat
  deriving DecidableEq, Repr

def NodeTag.ofBits (h : BitVec 58) : NodeTag :=
  let x := h.toNat
  { logS := bitsOf x 57 54, level := bitsOf x 53 50, first := bitsOf x 49 36, base := bitsOf x 35 33, core := bitsOf x 32 22,
    module := bitsOf x 21 8, beat := bitsOf x 7 0 }

def NodeTag.bits (t : NodeTag) : BitVec 58 :=
  BitVec.ofNat 58 (t.logS * 2 ^ 54 + t.level * 2 ^ 50 + t.first * 2 ^ 36 + t.base * 2 ^ 33 + t.core * 2 ^ 22 +
    t.module * 256 + t.beat)

/-- The elements of a split-node beat, marked where their parcel is poisoned (R45, R125). -/
def beatElems (integer : Bool) (b : Beat) : List VRes :=
  (b.ps.map fun p =>
    let x := p.data.toNat
    if integer then
      (List.range 8).map fun i => ({ v := { hi := BitVec.ofNat 32 (x >>> (32 * i)), lo := 0 }, poison := p.poison } : VRes)
    else
      (List.range 4).map fun i =>
        ({ v := { hi := BitVec.ofNat 32 (x >>> (64 * i)), lo := BitVec.ofNat 32 (x >>> (64 * i + 32)) },
           poison := p.poison } : VRes)).flatten

/-- The parcels of a split-node beat that carry elements; a marked element poisons its parcel (R43, R45). -/
def beatParcels (integer : Bool) (addr : Nat) (es : List VRes) : List Parcel :=
  let per := if integer then 8 else 4
  (List.range 4).map fun i =>
    let g := (es.drop (per * i)).take per
    let a := addr + 32 * i
    if g.any (·.poison) then poisonedParcel a
    else madeParcel (bytesParcel (g.flatMap fun x =>
      leBytes 4 x.v.hi.toNat ++ if integer then [] else leBytes 4 x.v.lo.toNat)) 0 a

/-- The node of a group at a level and first index, among those for one DRAIN. -/
def Group.node (g : Group) (gen level first : Nat) : Option WNode :=
  g.nodes.find? fun n => n.gen = gen && n.level = level && n.first = first

/-- May two nodes join (R126): the same split, the same level, and first indices a and a + 2^level with a a multiple of 2^(level + 1)? -/
def mayJoin (a b : WNode) : Bool :=
  a.gen = b.gen && a.logS = b.logS && a.level = b.level && b.first = a.first + 2 ^ a.level && a.first % 2 ^ (a.level + 1) = 0 &&
    decide (a.level < a.logS)

/-- The joins that a beat at (level, first) allows, beat by beat, up to the complete node (R121, R126, R127). -/
def State.joinBeat (s : State) (c base gen beat : Nat) : Nat → Nat → Nat → State
  | 0, _, _ => s
  | fuel + 1, level, first =>
    match s.group c base with
    | none => s
    | some g =>
      let lo := first / 2 ^ (level + 1) * 2 ^ (level + 1)
      match g.node gen level lo, g.node gen level (lo + 2 ^ level) with
      | some a, some b =>
        if mayJoin a b ∧ a.beats.contains beat ∧ b.beats.contains beat then
          let n := nodeElems g.integer
          let s := (List.range n).foldl (fun s i => s.combineAt c g.integer a.slot b.slot (beat * n + i)) s
          let drop := fun (x : WNode) => { x with beats := x.beats.erase beat, joined := x.joined + 1 }
          let ns := (g.nodes.map fun x => if x = a ∨ x = b then drop x else x).filter fun x => x.joined < nodeBeats g.integer
          let up := fun (x : WNode) => decide (x.gen = gen ∧ x.level = level + 1 ∧ x.first = lo)
          let ns :=
            if ns.any up then ns.map fun x => if up x then { x with beats := beat :: x.beats } else x
            else ns ++ [{ gen, slot := a.slot, level := level + 1, first := lo, logS := a.logS, beats := [beat], joined := 0 }]
          State.joinBeat (s.setGroup c { g with nodes := ns, quietAt := max g.quietAt (s.now + 1) }) c base gen beat fuel (level + 1) lo
        else s
      | _, _ => s

/-- The DRAIN that an arriving node is for: the one that waits for nodes and has not got all of its own, else the next one (R132; log 74). -/
def State.nodeGen (s : State) (c : Nat) (g : Group) : Nat :=
  match (s.drn c).q.find? fun d => d.grp = g.base && !d.readDone && d.await && !(g.nodeDone d.gen && g.nodesQuiet d.gen) with
  | some d => d.gen
  | none => g.gen

/-- A split-node beat lands in its receive group and joins its sibling where that is present (R127, R128). Without a free slot it is
accumulator fault 3; a beat for no open group, or a faulted one, is discarded (R137, log 19). A beat that its group still holds, one for a
group that a DRAIN issued before it is still to read, and one within 16 steps of the beat before it at its elements wait (R119, R132,
R134). -/
def State.nodeArrives (s : State) (c : Nat) (b : Beat) : Option State :=
  let t := NodeTag.ofBits b.hdr
  match s.group c t.base with
  | none => some s
  | some g =>
    let gen := s.nodeGen c g
    let same := fun (x : WNode) => decide (x.gen = gen ∧ x.level = t.level ∧ x.first = t.first ∧ x.logS = t.logS)
    let holds := g.nodes.any fun x => same x && x.beats.contains t.beat
    let read := (s.drn c).q.any fun d => d.grp = g.base && !d.readDone && decide (d.gen < gen)
    if g.faulted then some s
    else if holds || read || decide (s.now < Sparse.get 0 g.beatIn t.beat) then none
    else
      let slot :=
        match g.nodes.find? same with
        | some x => some x.slot
        | none => ((List.range g.depth).map (g.base + ·)).find? fun x => !(g.nodes.any fun n => n.slot = x)
      match slot with
      | none => some (s.accFault c 3 t.base t.first g.aclrPc)
      | some slot =>
        let n := nodeElems g.integer
        let es := beatElems g.integer b
        let known := g.nodes.any same
        let s := if known then s else s.clearSlot c slot
        let s := (List.range n).foldl (fun s i => s.setElem c slot (t.beat * n + i) (es.getD i VRes.zero)) s
        let s := s.markSat c slot (g.integer && b.sat)
        let ns :=
          if known then g.nodes.map fun x => if same x then { x with beats := t.beat :: x.beats } else x
          else g.nodes ++ [{ gen, slot, level := t.level, first := t.first, logS := t.logS, beats := [t.beat], joined := 0 }]
        let g := { g with nodes := ns, quietAt := max g.quietAt (s.now + 1), beatIn := Sparse.set 0 g.beatIn t.beat (s.now + 16) }
        some ((s.setGroup c g).joinBeat c t.base gen t.beat 15 t.level t.first)

/-- The first split-node beat in a core's inbox arrives (R127). -/
def execSplitNodeArrival (c : CoreId) (s : State) : Host.Outcome State Fault Refusal :=
  let box := Sparse.get [] s.trail.inbox c.toNat
  match box.find? fun b => b.kind = 2 with
  | none => .next s
  | some b =>
    match s.nodeArrives c.toNat b with
    | none => .next s
    | some s' => .next { s' with trail := { s'.trail with inbox := Sparse.set [] s'.trail.inbox c.toNat (box.erase b) } }

end Sys2Proof.Machine
end

