-- ==== Sys2Proof/Machine/Tiles.lean ====
section
/-! DEFINITION. Compressed tiles (02): the header and its faults (R47 to R49), the rows of WC tiles (R51 to R55) and the elements of
activation tiles (R62 to R66), with the marks of R50. -/

namespace Sys2Proof.Machine

/-- The header fields of R47. -/
structure THead where
  tlen : Nat
  wexp : Int
  vrows : Nat
  whalf : Bool
  etype : Nat
  tform : Nat
  /-- Are bits [47:40], [27:22] and [15:9] zero? -/
  clean : Bool
  deriving DecidableEq, Repr

/-- The header word of a tile (R47). -/
def tileHead (w : Nat) : THead :=
  { tlen := bitsOf w 63 48, wexp := signedOf 12 (bitsOf w 39 28), vrows := bitsOf w 21 16, whalf := bitOf w 8,
    etype := bitsOf w 7 4, tform := bitsOf w 3 0,
    clean := bitsOf w 47 40 = 0 && bitsOf w 27 22 = 0 && bitsOf w 15 9 = 0 }

/-- Steps per window of a WC form (R48). -/
def tileSteps (form : Nat) : Nat := match form with | 1 => 1 | 2 => 2 | 3 => 4 | 4 => 8 | 5 => 1 | _ => 0

/-- Is the element type legal for a WC form (R48)? -/
def wcTypeOk (form et : Nat) : Bool :=
  let narrow := et = 1 || et = 2 || et = 6 || et = 7
  match form with
  | 0 => 1 ≤ et && et ≤ 10
  | 1 => narrow || et = 5
  | 2 | 3 | 4 => narrow || et = 5 || is16Bit et
  | 5 => narrow
  | _ => false

/-- Bytes of the slot codes, or of the occupancy of an L4 WCD tile (R51). -/
def wcCodeBytes (form et : Nat) : Nat :=
  match form with
  | 1 | 2 | 3 => 2048 * tileSteps form
  | 4 => if et = 5 then 4096 else 0
  | _ => 0

/-- Size of a WC tile in bytes (R51). -/
def wcSize (form et : Nat) : Nat :=
  if form = 0 then 8
  else 72 + wcCodeBytes form et + 4096 * tileSteps form * (if elemBits et = 4 then 4 else 8) / 8

/-- Parcels that hold n bytes. -/
def parcelsOf (n : Nat) : Nat := (n + 31) / 32

/-- A header fault of a tile in the WC role (R49). -/
def wcBad (h : THead) : Bool :=
  !h.clean || h.vrows ≠ 0 || h.tform > 5 || !wcTypeOk h.tform h.etype || h.tlen ≠ parcelsOf (wcSize h.tform h.etype) ||
    (h.whalf && (!is16Bit h.etype || h.tform = 5)) || (h.tform = 0 && h.wexp ≠ 0)

/-- A fault that the header of a tile in the activation role shows, but for its length (R49). -/
def actBad (h : THead) : Bool :=
  !h.clean || (h.whalf && !(h.tform = 0 && is16Bit h.etype)) || h.wexp ≠ 0 || !(1 ≤ h.etype && h.etype ≤ 10) ||
    !(h.tform = 8 || h.tform = 9 || (h.tform = 0 && h.vrows = 0 && h.tlen = 1))

/-- A byte and whether its parcel is poisoned. -/
abbrev MByte := Byte × Bool

namespace State

/-- The parcels first to first + n - 1 of a tile at a core-store offset, as their consumer takes them, with the number of
poisoned errors that arise (R41, R42). -/
def tileParcels (s : State) (c addr first n : Nat) : List Parcel × Nat :=
  let r := (List.range n).map fun i =>
    let a := coreAddr c (addr + 32 * (first + i))
    consume ((s.parcelAt a).getD {}) a
  (r.map (·.1), (r.filter (·.2)).length)

/-- Bytes lo to lo + n - 1 of a tile with the marks of their parcels. -/
def tileBytes (s : State) (c addr lo n : Nat) : List MByte :=
  let ps := (s.tileParcels c addr (lo / 32) ((lo % 32 + n + 31) / 32)).1
  ((ps.map fun p => (parcelBytes p.data).map fun b => (b, p.poison)).flatten.drop (lo % 32)).take n

end State

/-- The nibbles of marked bytes, low nibble first (R11). -/
def nibbles (bs : List MByte) : List (Nat × Bool) :=
  bs.flatMap fun b => [(b.1.toNat % 16, b.2), (b.1.toNat / 16, b.2)]

/-- The stored values of marked bytes at 4 or 8 bits. -/
def valuesOf (four : Bool) (bs : List MByte) : List (Nat × Bool) :=
  if four then nibbles bs else bs.map fun b => (b.1.toNat, b.2)

/-! ## WC rows -/

/-- Slot i of a cell of a dense form: position i, or for 16-bit types the pair's position (R54, R55); an L4 slot is valid where
its occupancy bit is 1. -/
def denseSlot (form et : Nat) (whalf : Bool) (occ : MByte) (i : Nat) (v : Nat × Bool) : Slot :=
  let pos := if form = 5 then 0 else if is16Bit et then (if whalf then 4 else 0) + i / 2 else i
  let l4 := form = 4 && et = 5
  let valid := !l4 || occ.1.getLsbD i
  { val := BitVec.ofNat 8 v.1, code := BitVec.ofNat 4 ((if valid then 8 else 0) + pos), poison := v.2 || (l4 && occ.2) }

/-- The slots of one row of a WC tile: 64 cells of n slots, from the row's codes or occupancy and its values (R53 to R55). -/
def rowSlots (form et : Nat) (whalf : Bool) (codes vals : List MByte) : List (List Slot) :=
  let n := tileSteps form
  let cs := nibbles codes
  let vs := valuesOf (elemBits et = 4) vals
  (List.range 64).map fun j =>
    (List.range n).map fun i =>
      let v := vs.getD (j * n + i) (0, false)
      if form = 4 ∨ form = 5 then denseSlot form et whalf (codes.getD j (0, false)) i v
      else
        let k := cs.getD (j * n + i) (0, false)
        { val := BitVec.ofNat 8 v.1, code := BitVec.ofNat 4 k.1, poison := v.2 || k.2 }

/-- Does a sparse 16-bit cell break a slot rule (R55)? A position counts where its slot is valid (DEDUCED, log 24). -/
def pairFault (whalf : Bool) : List Slot → Bool
  | a :: b :: r =>
    a.code ≠ b.code || (a.code.getLsbD 3 && (a.code.getLsbD 2 != whalf)) || pairFault whalf r
  | _ => false

namespace State

/-- The bytes of row r of a WC tile: its codes or occupancy, and its values (R86). -/
def rowBytes (s : State) (c : Nat) (t : Tile) (r : Nat) : List MByte × List MByte :=
  let form := t.form.toNat
  let et := t.etype.toNat
  let cb := wcCodeBytes form et
  let vb := 64 * tileSteps form * (if elemBits et = 4 then 4 else 8) / 8
  (s.tileBytes c t.addr (72 + r * (cb / 64)) (cb / 64), s.tileBytes c t.addr (72 + cb + r * vb) vb)

/-- The slots of row r of a WC tile; those of a column whose scale byte is poisoned are marked (R50). -/
def tileRow (s : State) (c : Nat) (t : Tile) (r : Nat) : List (List Slot) :=
  let b := s.rowBytes c t r
  let cells := rowSlots t.form.toNat t.etype.toNat t.whalf b.1 b.2
  if t.scalePoison.any id then
    (cells.zip (List.range 64)).map fun x =>
      if t.scalePoison.getD x.2 false then x.1.map fun y => { y with poison := true } else x.1
  else cells

/-- Parcel numbers of a tile that row r touches first: those before none of whose bytes an earlier row lies, counting the three
of header and scales as read (R86). -/
def rowParcels (t : Tile) (r : Nat) : List Nat :=
  let form := t.form.toNat
  let et := t.etype.toNat
  let cb := wcCodeBytes form et / 64
  let vb := 64 * tileSteps form * (if elemBits et = 4 then 4 else 8) / 8
  let touched := fun (base len r : Nat) =>
    if len = 0 then [] else (List.range ((base + (r + 1) * len - 1) / 32 + 1)).filter fun k => decide ((base + r * len) / 32 ≤ k)
  let at_ := fun r => touched 72 cb r ++ touched (72 + 64 * cb) vb r
  let before := (List.range r).flatMap at_
  ((at_ r).filter fun k => decide (2 < k) && !before.contains k).eraseDups

end State

/-! ## Activation tiles -/

/-- An activation tile as read: its type, the elements of its present rows, what every other element is, its parcels and
the poisoned errors that arise. -/
structure ActTile where
  etype : Nat
  rows : List (List Elem)
  rest : Elem
  parcels : Nat
  errors : Nat
  deriving DecidableEq, Repr

/-- Element (t, f). -/
def ActTile.at_ (a : ActTile) (t f : Nat) : Elem := ((a.rows.getD t []).getD f a.rest)

def Elem.marked : Elem := { v := .fin false 0 0, poison := true }

/-- Is a stored code zero (R66)? L4 has no zero code. -/
def codeZero (et x : Nat) : Bool := et ≠ 5 && Num.isZero (decodeNum et x)

/-- An element from its bits: zero has one form; an L4 value carries its column scale (R65). -/
def elemOf (et : Nat) (cs : Int) (x : Nat) (poison : Bool) : Elem :=
  if poison then Elem.marked
  else if codeZero et x then Elem.zero
  else { v := if et = 5 then Num.scale cs (decodeNum et x) else decodeNum et x, poison := false }

/-- Value i of packed values of a width (R11), with its mark. -/
def packedAt (bits : Nat) (bs : List MByte) (i : Nat) : Nat × Bool :=
  if bits = 4 then (nibbles [bs.getD (i / 2) (0, false)]).getD (i % 2) (0, false)
  else
    let part := (bs.drop (i * (bits / 8))).take (bits / 8)
    (leNat (part.map (·.1)), part.any (·.2))

/-- A present row of an ADENSE tile (R63). -/
def denseRow (et : Nat) (scales occ vals : List MByte) : List Elem :=
  (List.range 64).map fun f =>
    let v := packedAt (elemBits et) vals f
    if et = 5 then
      let o := occ.getD (f / 8) (0, false)
      let sc := scales.getD f (0, false)
      if v.2 || o.2 || sc.2 then Elem.marked
      else if o.1.getLsbD (f % 8) then elemOf 5 sc.1.toInt v.1 false else Elem.zero
    else elemOf et 0 v.1 v.2

/-- The rows of an ABT64 tile from the bytes after its scales, with the bytes left over (R64). -/
def bitmapRows (et : Nat) (scales : List MByte) : Nat → List MByte → List (List Elem) × List MByte
  | 0, bs => ([], bs)
  | n + 1, bs =>
    let mask := leNat ((bs.take 8).map (·.1))
    let vals := bs.drop 8
    let row := (List.range 64).map fun f =>
      if bitOf mask f then
        let i := ((List.range f).filter (bitOf mask)).length
        elemOf et ((scales.getD f (0, false)).1.toInt) (packedAt (elemBits et) vals i).1 false
      else Elem.zero
    let nz := ((List.range 64).filter (bitOf mask)).length
    let r := bitmapRows et scales n (vals.drop ((nz * elemBits et + 7) / 8))
    (row :: r.1, r.2)

/-- Bytes of an ABT64 tile's rows as its masks give them (R64). -/
def bitmapSize (et : Nat) : Nat → List MByte → Nat
  | 0, _ => 0
  | n + 1, bs =>
    let mask := leNat ((bs.take 8).map (·.1))
    let sz := 8 + (((List.range 64).filter (bitOf mask)).length * elemBits et + 7) / 8
    sz + bitmapSize et n (bs.drop sz)

/-- Every element marked, with the poisoned errors counted (R49, R50). -/
def ActTile.allMarked (parcels errors : Nat) : ActTile :=
  { etype := 0, rows := [], rest := .marked, parcels, errors }

/-- The activation tile at a core-store offset (R49, R50, R62 to R66). -/
def State.actTile (s : State) (c addr : Nat) : ActTile :=
  let h0 := s.tileParcels c addr 0 1
  let hp := h0.1.getD 0 {}
  let h := tileHead (hp.data.toNat % 2 ^ 64)
  if hp.poison then ActTile.allMarked 1 h0.2
  else if actBad h then ActTile.allMarked 1 1
  else if h.tform = 0 then { etype := h.etype, rows := [], rest := .zero, parcels := 1, errors := 0 }
  else
    let l4 := h.etype = 5
    let nrows := h.vrows + 1
    let extra := if l4 then 64 else 0
    if h.tform = 8 then
      let size := 8 + extra + nrows * 8 * elemBits h.etype + (if l4 then 8 * nrows else 0)
      if h.tlen ≠ parcelsOf size then ActTile.allMarked 1 1
      else
        let errs := (s.tileParcels c addr 0 h.tlen).2
        let bs := s.tileBytes c addr 0 size
        let scales := (bs.drop 8).take extra
        let occ := (bs.drop 72).take (if l4 then 8 * nrows else 0)
        let vals := bs.drop (8 + extra + (if l4 then 8 * nrows else 0))
        let rb := 8 * elemBits h.etype
        { etype := h.etype, rest := .zero, parcels := h.tlen, errors := errs,
          rows := (List.range nrows).map fun t =>
            denseRow h.etype scales ((occ.drop (8 * t)).take 8) ((vals.drop (rb * t)).take rb) }
    else
      let n := min h.tlen 531
      let ps := s.tileParcels c addr 0 n
      if ps.1.any (·.poison) then ActTile.allMarked h.tlen ps.2
      else
        let bs := s.tileBytes c addr 0 (32 * n)
        let body := bs.drop (8 + extra)
        if h.tlen ≠ parcelsOf (8 + extra + bitmapSize h.etype nrows body) then ActTile.allMarked h.tlen 1
        else
          { etype := h.etype, rest := .zero, parcels := h.tlen, errors := 0,
            rows := (bitmapRows h.etype ((bs.drop 8).take extra) nrows body).1 }

end Sys2Proof.Machine
end

