-- ==== Sys2Proof/Machine/Array.lean ====
section
/-! DEFINITION. The matrix array (03): WLD and the stationary load engine (R86 to R89), PASS, the feeder (R79 to R83, R90, R99 to R102),
the cells (R76 to R78, R87, R88, R93, R95, R503) and the bottom stages (R92, R94, R98, R502). -/

namespace Sys2Proof.Machine

/-! ## Shapes (R96, R98) -/

/-- Rows, and columns, of a sub-array. -/
def shapeH (shape : BitVec 2) : Nat := match shape.toNat with | 2 => 32 | 3 => 16 | _ => 64

/-- Window of a cell. -/
def shapeWin (shape : BitVec 2) : Nat := if shape = 1 then 1 else 8

/-- Reduction per pass. -/
def shapeExt (shape : BitVec 2) : Nat := shapeH shape * shapeWin shape

/-- Sub-arrays in a row of the array, and in a column. -/
def shapeSide (shape : BitVec 2) : Nat := 64 / shapeH shape

/-- Activation tiles per sub-array (R102, R177). -/
def tilesPer (shape : BitVec 2) (cplx : Bool) : Nat := shapeExt shape / 64 * (if cplx then 2 else 1)

/-- A forced lane bubble (R99). -/
def laneBubble (shape : BitVec 2) (lane : Nat) : Bool :=
  (shape = 2 && lane % 32 = 31) || (shape = 3 && 14 ≤ lane % 16)

/-! ## The array by parts -/

def Arr.cell (a : Arr) (r j : Nat) : Cell := Sparse.get Cell.reset a.cells (64 * r + j)

def Arr.setCell (a : Arr) (r j : Nat) (x : Cell) : Arr :=
  { a with cells := Sparse.set Cell.reset a.cells (64 * r + j) x }

def Arr.tile (a : Arr) (tid : Nat) : Option Tile := a.tiles.find? fun t => t.tid = tid

/-- Was the tile superseded: does a later WLD exist and no PASS that names it (R87)? -/
def Arr.superseded (a : Arr) (tid : Nat) : Bool :=
  tid ≠ a.lastTid && match a.tile tid with | some t => !t.used | none => true

/-! ## WLD and the load engine -/

/-- The WC tile at a core-store offset as WLD takes it: header, column scales and slot faults, with the poisoned errors that
arise (R42, R49, R50, R55, R86). -/
def State.takeTile (s : State) (c tid addr : Nat) : Tile × Nat :=
  let h0 := s.tileParcels c addr 0 1
  let hp := h0.1.getD 0 {}
  let h := tileHead (hp.data.toNat % 2 ^ 64)
  let t : Tile :=
    { tid, addr, form := BitVec.ofNat 4 h.tform, etype := BitVec.ofNat 4 h.etype, wexp := h.wexp, whalf := h.whalf, scales := [],
      scalePoison := [], empty := false, bad := false, slotFault := false, used := false }
  if hp.poison then ({ t with bad := true }, h0.2)
  else if wcBad h then ({ t with bad := true }, 1)
  else if h.tform = 0 then ({ t with empty := true }, 0)
  else
    let errs := (s.tileParcels c addr 1 2).2
    let sc := s.tileBytes c addr 8 64
    let fault := is16Bit h.etype && h.tform ≤ 3 &&
      (List.range 64).any fun r => (s.tileRow c t r).any (pairFault h.whalf)
    ({ t with scales := sc.map fun b => b.1.toInt, scalePoison := sc.map (·.2), slotFault := fault },
      errs + if fault then 1 else 0)

/-- WLD hands a WC tile to the load engine when the engine is free (R86). An EMPTY tile and one with a header fault change no cell
(R49, R89). -/
def execWld (c : CoreId) (ia : Bool) (tile : BitVec 18) (s : State) : Host.Outcome State Fault Refusal :=
  let a := s.arr c.toNat
  let r := s.takeTile c.toNat a.nextTid (fieldMod (s.seq c.toNat) ia tile 18)
  let t := r.1
  let a' := { a with
    nextTid := a.nextTid + 1, lastTid := a.nextTid, tiles := a.tiles ++ [t],
    load := if t.bad || t.empty then none else some { tid := t.tid, nextRow := 0, step := s.now, used := 3 } }
  s.issue c (.wld c ia tile) a.load.isNone ((s.setArr c.toNat a').countPoison c.toNat r.2)

/-- The engine's port account after n more parcels, from the step at which the row load register is empty on: four parcels a step
(R86). -/
def Load.read (l : Load) (free n : Nat) : Load :=
  let l := if l.step < free then { l with step := free, used := 0 } else l
  { l with step := l.step + (l.used + n) / 4, used := (l.used + n) % 4 }

/-- The engine reads the next row of its tile once that row's load register is empty, at up to four parcels a step (R86). -/
def execRowLoadRead (c : CoreId) (s : State) : Host.Outcome State Fault Refusal :=
  let a := s.arr c.toNat
  match a.load with
  | none => .next s
  | some l =>
    match a.tile l.tid, Sparse.get none a.rows l.nextRow with
    | some t, none =>
      let r := l.nextRow
      let ks := State.rowParcels t r
      let l' := l.read (Sparse.get 0 a.rowFree r) ks.length
      if s.now + 1 < l'.step + (if l'.used = 0 then 0 else 1) then .next s
      else
        let sets := (s.tileRow c.toNat t r).map fun ss => ({ tid := t.tid, form := t.form, etype := t.etype, slots := ss } : CellSet)
        let errs := (ks.map fun k => (s.tileParcels c.toNat t.addr k 1).2).sum
        let a' := { a with
          rows := Sparse.set none a.rows r (some { tid := t.tid, sets, copied := [] }),
          load := if r = 63 then none else some { l' with nextRow := r + 1 } }
        .next ((s.setArr c.toNat a').countPoison c.toNat errs)
    | _, _ => .next s

/-- The swap: the shadow set becomes the active set, and the shadow set is free from the next step on (R87). -/
def Cell.swap (x : Cell) (at_ : Nat) : Cell :=
  { x with active := x.shadow, shadow := .empty, hasShadow := false, shReady := at_ + 1, marker := false, readyAt := max x.readyAt x.shReady }

/-- A cell copies its part from the row load register once its shadow set is free; a cell that holds the marker then swaps
(R86 to R88). -/
def execShadowCopy (c : CoreId) (r j : BitVec 6) (s : State) : Host.Outcome State Fault Refusal :=
  let a := s.arr c.toNat
  let x := a.cell r.toNat j.toNat
  match Sparse.get none a.rows r.toNat with
  | none => .next s
  | some reg =>
    let free := (!x.hasShadow && decide (x.shReady ≤ s.now)) || (x.hasShadow && a.superseded x.shadow.tid)
    if free ∧ !reg.copied.contains j.toNat then
      let x := { x with shadow := reg.sets.getD j.toNat .empty, hasShadow := true, shReady := s.now + 1 }
      let x := if x.marker && !a.superseded reg.tid then x.swap s.now else x
      let reg := { reg with copied := j.toNat :: reg.copied }
      let a := (a.setCell r.toNat j.toNat x)
      let all := reg.copied.length = 64
      .next (s.setArr c.toNat { a with
        rows := Sparse.set none a.rows r.toNat (if all then none else some reg),
        rowFree := if all then Sparse.set 0 a.rowFree r.toNat (s.now + 1) else a.rowFree })
    else .next s

/-! ## PASS -/

/-- Is an earlier vector instruction to the group still entering (R149)? -/
def State.vecEntering (s : State) (c base : Nat) : Bool :=
  ((s.vec c).q.any fun v => v.grp = base) ||
    match s.group c base with
    | none => false
    | some g => g.landing.any (·.vec)

/-- Integer mode of R25; where no format pair is known, the form of the group (log 24). -/
def passInteger (act : Option Nat) (tile : Option Tile) (g : Bool) : Bool :=
  match act, tile with
  | some et, some t => if t.bad then g else isIntType et && isIntType t.etype.toNat
  | _, _ => g

/-- Does a shape not run a tile of a form: WCD1 runs under F64W1 alone, and F64W1 runs only WCD1 (R96)? -/
def formBad (t : Tile) (shape : BitVec 2) : Bool := !t.empty && !t.bad && decide (t.form = 5) != decide (shape = 1)

/-- PASS (R83, R89, R101): the pass becomes pending at the feeder. With an EMPTY tile, no tile, or a header fault, its leaf enters at
once and the sequencer goes on when its combines are done (R49, R60, R120). So it is with a tile that the shape does not run: the
pass takes it as a malformed tile (DESIGN CHOICE, log 89: R96 gives no effect). -/
def execPass (c : CoreId) (f : PassF) (s : State) : Host.Outcome State Fault Refusal :=
  let k := c.toNat
  let q := s.seq k
  let a := s.arr k
  let base := fieldOr q f.ia f.grp
  let block := fieldMod q f.ib f.block 18
  let hp := (s.tileParcels k block 0 1).1.getD 0 {}
  let h := tileHead (hp.data.toNat % 2 ^ 64)
  let act := if hp.poison || actBad h then none else some h.etype
  let tile := a.tile a.lastTid
  let integer := passInteger act tile (((s.acc k).group base).elim false (·.integer))
  let wrong := tile.elim false fun t => formBad t f.shape
  let leafOnly := match tile with | some t => t.empty || t.bad || wrong | none => true
  let n := s.namedGroup k base
  let mode := match n.2 with | some g => g.integer != integer | none => false
  let s' := match n.2 with
    | some g =>
      if mode then n.1.accFault k 4 base g.nextNo q.pc
      else n.1.setGroup k { g with nextNo := g.nextNo + 1, inflight := g.inflight ++ [g.gen] }
    | none => n.1
  let no := n.2.elim 0 (·.nextNo)
  let gen := n.2.elim 0 (·.gen)
  let grp := if n.2.isSome && !mode then base else 8
  let fresh : Arr → Arr := fun a =>
    { a with tiles := a.tiles.map fun t => if t.tid = a.lastTid then { t with used := true } else t }
  if leafOnly then
    let ready := decide (a.passes.length < 4) && !s.vecEntering k base && match (s.acc k).group base with
      | some g => g.inflight.isEmpty && !s.drainReads k base g.gen && decide (g.emptyAt ≤ s.now)
      | none => true
    let marked := match tile with | some t => t.bad || wrong | none => false
    let s' := (s'.setArr k (fresh (s'.arr k))).countPoison k (if wrong then 1 else 0)
    s.issueTo c (.pass c f) ready
      ((s'.enterEmpty k grp no gen marked s.now q.pc).goTo k (q.pc.toNat + 1) (1 + if grp = 8 then 0 else chainSteps no))
  else
    let p : Pass :=
      { id := a.nextPass, pc := q.pc, shape := f.shape, toks := 16 * (f.tcode.toNat + 1), piece := f.piece.toNat, part := f.part,
        cplx := f.cplx, astride := f.astride.toNat, block, grp, gen, no, tid := a.lastTid, etype := h.etype, integer,
        next := 0, outs := 0 }
    let a' := { fresh a with nextPass := a.nextPass + 1, passes := a.passes ++ [p] }
    s.issue c (.pass c f) (decide (a.passes.length < 4) && !s.vecEntering k base) (s'.setArr k a')

/-! ## The feeder -/

/-- Does the block in a buffer hold what a pass names (R80)? Extent covers the stride, the shape and CPLX besides T (DEDUCED, log 76). -/
def Block.serves (b : Block) (p : Pass) : Bool :=
  b.addr = p.block && b.shape = p.shape && b.toks = p.toks && b.cplx = p.cplx && b.astride = p.astride

/-- Do two passes name the same block? -/
def Pass.sameBlock (p q : Pass) : Bool :=
  p.block = q.block && p.shape = q.shape && p.toks = q.toks && p.cplx = q.cplx && p.astride = q.astride

/-- The pending passes that open a new block: the first, and each that names another block than the one before it. -/
def newBlocks : List Pass → List Pass
  | [] => []
  | [p] => [p]
  | p :: q :: r => p :: (if p.sameBlock q then (newBlocks (q :: r)).drop 1 else newBlocks (q :: r))

def Arr.bufs (a : Arr) : List Block := [a.bufA, a.bufB].filterMap id

/-- Is the block of a pending pass in a buffer? The first pass may use the block of those before it. -/
def Arr.hasBlock (a : Arr) (p : Pass) : Bool :=
  a.bufs.any fun b => b.serves p && (b.pass = p.id || (a.passes.head?.map (·.id) = some p.id && decide (b.pass ≤ p.id)))

/-- Addresses of the activation tiles of a block by sub-array and tile (R177). -/
def tileAddr (p : Block) (q u : Nat) : Nat := p.addr + (q * tilesPer p.shape p.cplx + u) * p.astride * 32

/-- Every (sub-array, tile) of a block. -/
def blockTiles (b : Block) : List (Nat × Nat) :=
  (List.range (shapeSide b.shape * shapeSide b.shape)).flatMap fun q =>
    (List.range (tilesPer b.shape b.cplx)).map fun u => (q, u)

/-- A block fill starts once a PASS has named the block and a buffer is free; a fill of p parcels takes ⌈p / 4⌉ + 4 steps (R80). -/
def execFeederFillStart (c : CoreId) (s : State) : Host.Outcome State Fault Refusal :=
  let a := s.arr c.toNat
  match (newBlocks a.passes).find? fun p => !a.hasBlock p with
  | none => .next s
  | some p =>
    let b : Block :=
      { addr := p.block, astride := p.astride, shape := p.shape, toks := p.toks, cplx := p.cplx, due := 0, filled := false,
        etype := p.etype, pass := p.id, elems := [] }
    let n := ((blockTiles b).map fun x => (s.actTile c.toNat (tileAddr b x.1 x.2)).parcels).sum
    let b := { b with due := s.now + (n + 3) / 4 + 4 }
    if a.bufA.isNone ∧ a.freeA ≤ s.now then .next (s.setArr c.toNat { a with bufA := some b })
    else if a.bufB.isNone ∧ a.freeB ≤ s.now then .next (s.setArr c.toNat { a with bufB := some b })
    else .next s

/-- Key of an element of a block: sub-array, token and stored position. -/
def elemKey (q t pos : Nat) : Nat := (q * 64 + t) * 1024 + pos

/-- The elements of a block as decoded, with the poisoned errors that arise (R62 to R66, R79). -/
def State.readBlock (s : State) (c : Nat) (b : Block) : SMap Elem × Nat :=
  let tiles := (List.range (shapeSide b.shape * shapeSide b.shape)).map fun q =>
    (List.range (tilesPer b.shape b.cplx)).map fun u => s.actTile c (tileAddr b q u)
  let elems := ((List.range tiles.length).zip tiles).flatMap fun x =>
    (List.range (min b.toks 64)).flatMap fun t =>
      ((List.range x.2.length).zip x.2).flatMap fun y =>
        (List.range 64).filterMap fun f =>
          let e := y.2.at_ t f
          if e = Elem.zero then none else some (elemKey x.1 t (64 * y.1 + f), e)
  (elems, (tiles.map fun l => (l.map (·.errors)).sum).sum)

/-- The block fill completes, and the block's elements are ready (R80). -/
def execFeederFillDone (c : CoreId) (second : Bool) (s : State) : Host.Outcome State Fault Refusal :=
  let a := s.arr c.toNat
  match (if second then a.bufB else a.bufA) with
  | none => .next s
  | some b =>
    if b.filled ∨ s.now < b.due then .next s
    else
      let r := s.readBlock c.toNat b
      let b' := some { b with filled := true, elems := r.1 }
      let a' := if second then { a with bufB := b' } else { a with bufA := b' }
      .next ((s.setArr c.toNat a').countPoison c.toNat r.2)

/-- An activation operand of a pass: its part and piece (R28, R101, R102). -/
def passEntry (b : Block) (p : Pass) (q t pos : Nat) : Entry :=
  let e := Sparse.get Elem.zero b.elems (elemKey q t (if p.cplx then 2 * pos + (if p.part then 1 else 0) else pos))
  { v := if p.piece < pieceCount p.etype then actPiece p.etype p.piece e.v else .fin false 0 0, poison := e.poison }

/-- The largest ε among a token's operands in a pass, none where all are zero (R17). -/
def tokenA (es : List Entry) : Option Int :=
  es.foldl (fun m x =>
    match m, Num.eps x.v with
    | none, y => y
    | some a, some b => some (max a b)
    | m, none => m) none

/-- E = A + WEXP as carried in 12 bits (R17, R81); it has no effect where every operand is zero (R20). -/
def tokenE (a : Option Int) (wexp : Int) : Int := signedOf 12 (unsignedOf 12 (a.getD 0 + wexp))

/-- The windows of one token slot, one for each left cell of each sub-array: (row, column, window) (R81, R98). -/
def slotWindows (b : Option Block) (p : Pass) (t : Option Nat) (wexp : Int) (n feed : Nat) (lead trail : Bool) :
    List (Nat × Nat × RowReg) :=
  let h := shapeH p.shape
  let side := shapeSide p.shape
  let w := shapeWin p.shape
  (List.range (side * side)).flatMap fun q =>
    let es := match b, t with
      | some b, some t => (List.range (shapeExt p.shape)).map fun pos => passEntry b p q t pos
      | _, _ => []
    let e := tokenE (tokenA es) wexp
    (List.range h).map fun r =>
      (h * (q / side) + r, h * (q % side),
        { entries := (es.drop (w * r)).take w, e,
          tok := t.map fun t => { pass := p.id, t, last := decide (t + 1 = p.toks) },
          lead, trail, n, shape := p.shape, integer := p.integer, tid := p.tid, stamp := feed })

/-- The windows handed to the staggering registers (R81). -/
def Arr.feed (a : Arr) (ws : List (Nat × Nat × RowReg)) : Arr :=
  ws.foldl (fun a x =>
    let y := a.cell x.1 x.2.1
    a.setCell x.1 x.2.1 { y with inRow := y.inRow ++ [x.2.2] }) a

/-- The tile that follows tile tid in the cells: the next one loaded that is neither EMPTY nor bad nor superseded (R87, R89). -/
def Arr.nextTile (a : Arr) (tid : Nat) : Option Nat :=
  (a.tiles.find? fun t => tid < t.tid && !t.empty && !t.bad && !a.superseded t.tid).map (·.tid)

/-- The tile that a marker behind the last token of pass p leads to, where its WLD has been issued and no pending pass uses the old tile
any more (R87). -/
def Arr.trails (a : Arr) (p : Pass) : Option Nat :=
  if a.passes.any fun x => x.tid = p.tid && x.id ≠ p.id then none else a.nextTile p.tid

/-- The block a released token comes from. -/
def Arr.blockFor (a : Arr) (p : Pass) : Option Block := a.bufs.find? fun b => b.serves p && decide (b.pass ≤ p.id)

/-- The buffers after the last token of pass p has been released at step d: its block's is free from the step after, unless the next pass
names the same block (R80). -/
def Arr.freeBlock (a : Arr) (p : Pass) (d : Nat) : Arr :=
  match a.passes.tail.head? with
  | some q => if p.sameBlock q then a else drop a
  | none => drop a
where
  drop (a : Arr) : Arr :=
    match a.blockFor p with
    | none => a
    | some b => if a.bufA = some b then { a with bufA := none, freeA := d + 1 } else { a with bufB := none, freeB := d + 1 }

/-- Is the group of a pass still being read by a DRAIN issued before it (R90, R134)? -/
def State.slotDraining (s : State) (c : Nat) (p : Pass) : Bool :=
  s.drainReads c p.grp p.gen ||
    match s.group c p.grp with
    | some g => decide (s.now < g.emptyAt)
    | none => false

/-- The feeder releases a token slot when cell (0, 0) can take it: the next token of the first pending pass, or a bubble (R83, R90,
R99, R100). A pass that takes no array steps begins no shape run (DEDUCED, log 77). -/
def execFeederRelease (c : CoreId) (s : State) : Host.Outcome State Fault Refusal :=
  let k := c.toNat
  let a := s.arr k
  match a.passes with
  | [] => .next s
  | p :: rest =>
    let x := a.cell 0 0
    let newShape := a.runShape ≠ some p.shape
    if x.busy.isSome || !x.inRow.isEmpty || decide (s.now < x.done) then .next s
    else if newShape && a.runShape.isSome && (!a.live.isEmpty || decide (s.now < a.lastExit)) then .next s
    else
      let lane := if newShape then 0 else a.lane
      let b := a.blockFor p
      let bubble := laneBubble p.shape lane || !(b.elim false (·.filled)) || s.slotDraining k p
      let t := a.tile p.tid
      let n := t.elim 1 fun t => tileSteps t.form.toNat
      let a := { a with lane := lane + 1, runShape := some p.shape }
      if bubble then .next (s.setArr k (a.feed (slotWindows none p none 0 n s.now false false)))
      else
        let last := decide (p.next + 1 = p.toks)
        let lead := p.next = 0 && a.markTid ≠ p.tid
        let trail := if last then a.trails p else none
        let ws := slotWindows b p (some p.next) (t.elim 0 (·.wexp)) n s.now lead trail.isSome
        let p' := { p with next := p.next + 1 }
        let a := { a with
          markTid := trail.getD p.tid,
          live := if p.next = 0 then a.live ++ [p'] else a.live }
        let a := a.feed ws
        if last then .next (s.setArr k { (a.freeBlock p s.now) with passes := rest })
        else .next (s.setArr k { a with passes := p' :: rest })

/-! ## Cells -/

/-- Is the cell's row the top row of its sub-array (R98)? -/
def topRow (shape : BitVec 2) (r : Nat) : Bool := r % shapeH shape = 0

/-- A cell starts a token slot once its window and its partial sum are there and, for a token, its active set is the token's
tile (R82, R88). A cell whose tile is not there holds the marker. -/
def execCellTokenStart (c : CoreId) (r j : BitVec 6) (s : State) : Host.Outcome State Fault Refusal :=
  let a := s.arr c.toNat
  let x := a.cell r.toNat j.toNat
  match x.busy, x.inRow with
  | none, w :: ws =>
    let top := topRow w.shape r.toNat
    if !top && x.inPs.isEmpty then .next s
    else
      let zero : PSum :=
        { sum := 0, res := 0, e := w.e, tok := w.tok, poison := false, nonfin := false, n := w.n, shape := w.shape,
          integer := w.integer, tid := w.tid, stamp := 0 }
      let ps := if top then zero else x.inPs.headD zero
      let wrong := w.tok.isSome && x.active.tid ≠ w.tid
      let x := if wrong && x.hasShadow && x.shadow.tid = w.tid then x.swap (max x.done w.stamp) else x
      if w.tok.isSome && x.active.tid ≠ w.tid then
        .next (s.setArr c.toNat (a.setCell r.toNat j.toNat { x with marker := true }))
      else
        let start := max (max x.done w.stamp) (max ps.stamp (if w.tok.isSome then x.readyAt else 0))
        if s.now < start then .next s
        else
          .next (s.setArr c.toNat (a.setCell r.toNat j.toNat
            { x with row := some w, ps := some ps, busy := some 0, start, inRow := ws,
                     inPs := if top then x.inPs else x.inPs.tail }))
  | _, _ => .next s

/-- The weight that slot i of a set holds: for 16-bit types the piece of the pair that the step uses (R29, R55, R78); zero where the element
is marked (R45). The second part is the whole operand, for the non-finite mark. -/
def slotWeight (cs : CellSet) (i : Nat) : Num × Num :=
  let et := cs.etype.toNat
  let zero : Num := .fin false 0 0
  let v := fun k => ((cs.slots[k]?).elim (0 : Byte) (·.val)).toNat
  let marked := fun k => (cs.slots[k]?).elim false (·.poison)
  if is16Bit et then
    if marked (i / 2 * 2) || marked (i / 2 * 2 + 1) then (zero, zero)
    else
      let x := decodeNum et (v (i / 2 * 2) * 256 + v (i / 2 * 2 + 1))
      (weightPiece et (i % 2 = 1) x, x)
  else if marked i then (zero, zero)
  else
    let x := decodeNum et (v i)
    (x, x)

/-- One step of a cell: the product of slot i and the entry it selects is added with its residue, and the marks are set (R77, R93, R95,
R503). -/
def cellProduct (cs : CellSet) (w : RowReg) (ps : PSum) (i : Nat) : PSum :=
  match w.tok with
  | none => ps
  | some _ =>
    let sl := (cs.slots[i]?).getD { val := 0, code := 0, poison := false }
    let even := if is16Bit cs.etype.toNat then (cs.slots[i / 2 * 2]?).getD sl else sl
    let valid := even.code.getLsbD 3
    let pos := if w.shape = 1 then 0 else even.code.toNat % 8
    let en := (w.entries[pos]?).getD { v := .fin false 0 0, poison := false }
    let wt := slotWeight cs i
    let poison := ps.poison || sl.poison || (valid && en.poison)
    if !valid || Num.isZero en.v then { ps with poison }
    else if Num.isNonFin en.v || Num.isNonFin wt.2 then { ps with poison, nonfin := true }
    else
      let p := alignedProduct w.integer ps.e en.v wt.1
      { ps with poison, sum := ps.sum + BitVec.ofInt 48 p, res := (ps.res + (p % 7).toNat) % 7 }

/-- A cell's next step (R77, R78). -/
def execCellStep (c : CoreId) (r j : BitVec 6) (s : State) : Host.Outcome State Fault Refusal :=
  let a := s.arr c.toNat
  let x := a.cell r.toNat j.toNat
  match x.busy, x.row, x.ps with
  | some i, some w, some ps =>
    if i < w.n ∧ x.start + i ≤ s.now then
      .next (s.setArr c.toNat (a.setCell r.toNat j.toNat
        { x with busy := some (i + 1), ps := some (cellProduct x.active w ps i) }))
    else .next s
  | _, _, _ => .next s

/-- The end of a token slot: the window moves right within its sub-array, the sum moves down or to the bottom, and the cell swaps
as a trailing marker leaves (R78, R87, R98). -/
def execTokenSlotEnd (c : CoreId) (r j : BitVec 6) (s : State) : Host.Outcome State Fault Refusal :=
  let a := s.arr c.toNat
  let x := a.cell r.toNat j.toNat
  match x.busy, x.row, x.ps with
  | some i, some w, some ps =>
    let done := x.start + w.n
    if i = w.n ∧ done ≤ s.now + 1 then
      let h := shapeH w.shape
      let y := { x with busy := none, row := none, ps := none, done }
      let y :=
        if !w.trail then y
        else if y.hasShadow && !a.superseded y.shadow.tid then y.swap (done - 1)
        else { y with marker := true }
      let a := a.setCell r.toNat j.toNat y
      let a :=
        if (j.toNat + 1) % h = 0 then a
        else
          let z := a.cell r.toNat (j.toNat + 1)
          a.setCell r.toNat (j.toNat + 1) { z with inRow := z.inRow ++ [{ w with stamp := done }] }
      let ps := { ps with stamp := done }
      let a :=
        if (r.toNat + 1) % h = 0 then
          let k := 64 * r.toNat + j.toNat
          { a with bottoms := Sparse.set [] a.bottoms k (Sparse.get [] a.bottoms k ++ [ps]) }
        else
          let z := a.cell (r.toNat + 1) j.toNat
          a.setCell (r.toNat + 1) j.toNat { z with inPs := z.inPs ++ [ps] }
      .next (s.setArr c.toNat a)
    else .next s
  | _, _, _ => .next s

/-! ## The bottom of the column -/

/-- The result of a column sum: its double word or INT32 with its mark, the saturation mark, whether the residue differs, and whether a
non-finite operand took part (R21, R22, R26, R92, R94, R95). -/
def columnResult (t : Option Tile) (j : Nat) (ps : PSum) : VRes × Bool × Bool × Bool :=
  let mark := ps.poison || t.elim false fun t => t.slotFault || t.scalePoison.getD j false
  if ps.nonfin then ({ v := { hi := canonNaN, lo := 0 }, poison := mark }, false, false, true)
  else if (ps.sum.toInt % 7).toNat ≠ ps.res then ({ v := {}, poison := true }, false, true, false)
  else
    let r := convertSum ps.integer ps.sum.toInt ps.e (t.elim 0 fun t => t.scales.getD j 0)
    ({ v := r.1, poison := mark }, r.2, false, false)

/-- A residue mismatch at a column (R94). -/
def State.residueError (s : State) (c j : Nat) : State :=
  let a := s.arr c
  let s := (s.setArr c { a with errCount := a.errCount + 1, errSeen := true, errCol := BitVec.ofNat 6 j }).countPoison c 1
  { s with sums := { s.sums with reserr := s.sums.reserr + 1 } }

/-- The bottom of column j of the sub-arrays whose last row is r: it checks the residue, converts the sum and enters the result; with a
pass's last token the rows that no token reaches get zero leaves (R82, R92, R98, R502). -/
def execBottomStage (c : CoreId) (r j : BitVec 6) (s : State) : Host.Outcome State Fault Refusal :=
  let k := c.toNat
  let a := s.arr k
  let key := 64 * r.toNat + j.toNat
  match Sparse.get [] a.bottoms key with
  | [] => .next s
  | ps :: rest =>
    let exit := max ps.stamp (Sparse.get 0 a.exits key) + ps.n
    if s.now + 1 < exit then .next s
    else
      let a := { a with bottoms := Sparse.set [] a.bottoms key rest, exits := Sparse.set 0 a.exits key exit,
                        lastExit := max a.lastExit exit }
      let s := s.setArr k a
      match ps.tok, a.live.find? fun p => some p.id = ps.tok.map (·.pass) with
      | some tk, some p =>
        let h := shapeH ps.shape
        let row := r.toNat + 1 - h
        let x := columnResult (a.tile ps.tid) j.toNat ps
        let s := if x.2.2.1 then s.residueError k j.toNat else s
        let s := if x.2.2.2 then s.countNonfin k 1 else s
        let s := s.land k p.grp p.no p.gen false p.pc
        let s := if tk.t < h then s.enterElem k p.grp p.no p.gen ((row + tk.t) * 64 + j.toNat) x.1 x.2.1 exit else s
        if tk.last then
          let s := (List.range (h - p.toks)).foldl (fun s i =>
            s.enterElem k p.grp p.no p.gen ((row + p.toks + i) * 64 + j.toNat) VRes.zero false exit) s
          let a := s.arr k
          let p' := { p with outs := p.outs + 1 }
          let live :=
            if p'.outs = 64 * shapeSide p.shape then a.live.filter fun y => y.id ≠ p.id
            else a.live.map fun y => if y.id = p.id then p' else y
          .next (s.setArr k { a with live := live })
        else .next s
      | _, _ => .next s

end Sys2Proof.Machine
end

