-- ==== Sys2Proof/Machine/Packs.lean ====
section
/-! DEFINITION. The pack image as it is read: header, directory and sections (R298 to R300), the trailer (R301), the resource manifest (R308)
and its records, and the program and store contents that a pack gives a core. -/

namespace Sys2Proof.Machine

/-! ## Header and directory -/

/-- TOTAL_LEN of a pack image (R298). -/
def packTotal (p : List Byte) : Nat := fieldAt p 0x10 8

/-- A directory entry (R299). -/
structure Sect where
  typ : Nat
  records : Nat
  off : Nat
  len : Nat
  deriving DecidableEq, Repr

def packSects (p : List Byte) : List Sect :=
  (List.range (fieldAt p 0x0C 4)).map fun e =>
    let o := 0x100 + 32 * e
    { typ := fieldAt p o 2, records := fieldAt p (o + 4) 4, off := fieldAt p (o + 8) 8, len := fieldAt p (o + 16) 8 }

/-- The section of a type, none where the pack has none. -/
def packSect (p : List Byte) (typ : Nat) : Option Sect := (packSects p).find? fun x => x.typ = typ

def sectBytes (p : List Byte) (typ : Nat) : List Byte :=
  match packSect p typ with
  | some x => slice p x.off x.len
  | none => []

/-- Number of records that the directory gives a section. -/
def sectCount (p : List Byte) (typ : Nat) : Nat := ((packSect p typ).map (·.records)).getD 0

/-- A multiple of 8 that is not smaller. -/
def pad8 (n : Nat) : Nat := (n + 7) / 8 * 8

/-- Bytes of the record of a section type that a list of bytes begins with (R255, R271, R300, R314, R315, R320, R350). -/
def recordLen (typ : Nat) (b : List Byte) : Nat :=
  match typ with
  | 0x0002 => 8 + 8 * bitsOf (fieldAt b 0 8) 28 16
  | 0x0003 => 8 + bitsOf (fieldAt b 0 8) 47 29
  | 0x0004 => 16 + fieldAt b 8 4
  | 0x0005 => 8 + 2 * bitsOf (fieldAt b 0 8) 42 32
  | 0x0006 => 4 + fieldAt b 0 2
  | 0x0007 => 288
  | 0x0008 => 16
  | 0x0009 => 32 + 16 * (b.getD 1 0).toNat
  | 0x000A => 40
  | 0x000B => 64
  | _ => b.length

/-- The distance to the next record: records start at multiples of 8 bytes, route cards of 32 (R300, R315). -/
def recordStep (typ n : Nat) : Nat := if typ = 0x0009 then (n + 31) / 32 * 32 else pad8 n

/-- A number of records cut from a section's bytes; none where one does not lie inside. -/
def cutRecords (typ : Nat) : Nat → List Byte → Option (List (List Byte))
  | 0, _ => some []
  | n + 1, b =>
    let l := recordLen typ b
    if b.length < l ∨ b = [] then none
    else (cutRecords typ n (b.drop (recordStep typ l))).map fun r => b.take l :: r

/-- The records of a section, [] where they do not fit it. -/
def packRecords (p : List Byte) (typ : Nat) : List (List Byte) :=
  (cutRecords typ (sectCount p typ) (sectBytes p typ)).getD []

/-! ## Programs and store contents (R300) -/

/-- Core and words of each INSTR record. -/
def instrRecords (p : List Byte) : List (Nat × List W64) :=
  (packRecords p 2).map fun b =>
    (bitsOf (fieldAt b 0 8) 10 0,
     (List.range (bitsOf (fieldAt b 0 8) 28 16)).map fun i => BitVec.ofNat 64 (fieldAt b (8 + 8 * i) 8))

/-- The cores of the pack, in ascending order. -/
def packCores (p : List Byte) : List Nat :=
  let named := (instrRecords p).map (·.1)
  (List.range 2048).filter fun c => named.contains c

/-- The words of a core's instruction list. -/
def packWords (p : List Byte) (c : Nat) : List W64 := (((instrRecords p).find? fun x => x.1 = c).map (·.2)).getD []

/-- The instruction list of a core as decoded; none for an illegal word. -/
def packProg (p : List Byte) (c : Nat) : List (Option Instr) := (packWords p c).map (decodeWord (BitVec.ofNat 11 c))

/-- Core, offset and bytes of each CORE_DATA record. -/
def coreData (p : List Byte) : List (Nat × Nat × List Byte) :=
  (packRecords p 3).map fun b =>
    let h := fieldAt b 0 8
    (bitsOf h 10 0, bitsOf h 28 11, b.drop 8)

/-- Address and bytes of each MEM_DATA record. -/
def memData (p : List Byte) : List (Nat × List Byte) :=
  (packRecords p 4).map fun b => (fieldAt b 0 8 % 2 ^ 42, b.drop 16)

/-! ## Route cards (R315, R316) -/

structure RLoop where
  count : Nat
  serp : Bool
  stepA : Int
  stepB : Int
  deriving DecidableEq, Repr

structure RCard where
  level : Nat
  nloops : Nat
  len : Nat
  smod : Nat
  dmod : Nat
  baseA : Nat
  baseB : Nat
  out : Nat
  loops : List RLoop
  deriving DecidableEq, Repr

/-- The card that a ROUTE record holds (R315). -/
def routeCard (b : List Byte) : RCard :=
  { level := fieldAt b 0 1, nloops := fieldAt b 1 1, len := fieldAt b 2 2, smod := fieldAt b 4 2 % 16384, dmod := fieldAt b 6 2 % 16384,
    baseA := fieldAt b 8 8 % 2 ^ 42, baseB := fieldAt b 0x10 8 % 2 ^ 42, out := fieldAt b 0x18 8 % 2 ^ 42,
    loops := (List.range (fieldAt b 1 1)).map fun m =>
      let o := 0x20 + 16 * m
      { count := fieldAt b o 3, serp := bitOf (fieldAt b (o + 3) 1) 0, stepA := signedOf 48 (fieldAt b (o + 4) 6),
        stepB := signedOf 48 (fieldAt b (o + 10) 6) } }

/-- Number of entries of an expansion, and their size. -/
def RCard.entries (r : RCard) : Nat := (r.loops.map (·.count)).foldl (· * ·) 1
def RCard.entryBytes (r : RCard) : Nat := if r.level = 3 then 8 else 16
def RCard.bytes (r : RCard) : Nat := r.entries * r.entryBytes

/-- The loop indices of entry n, the last loop fastest (R316). -/
def loopIndices : List RLoop → Nat → List Nat
  | [], _ => []
  | l :: r, n =>
    let inner := (r.map (·.count)).foldl (· * ·) 1
    n / inner % l.count :: loopIndices r n

/-- The address sums of an entry: each loop's turn, reversed on odd outer turns where it is serpentine (R316). -/
def walkLoops : List RLoop → List Nat → Option Nat → Int × Int
  | l :: ls, e :: es, outer =>
    let turn := if l.serp ∧ (outer.map (· % 2)) = some 1 then l.count - 1 - e else e
    let r := walkLoops ls es (some e)
    ((turn : Int) * l.stepA + r.1, (turn : Int) * l.stepB + r.2)
  | _, _, _ => (0, 0)

/-- Entry n of the expansion (R316). -/
def RCard.entry (r : RCard) (n : Nat) : List Byte :=
  let w := walkLoops r.loops (loopIndices r.loops n) none
  let a := unsignedOf 42 ((r.baseA : Int) + w.1)
  let b := unsignedOf 42 ((r.baseB : Int) + w.2)
  if r.level = 3 then leBytes 8 (a % 2 ^ 18 + b % 2 ^ 18 * 2 ^ 18)
  else
    let last := if n + 1 = r.entries then 16 else 0
    leBytes 16 (1 + last + r.len % 2048 * 32 + (r.smod * 2 ^ 42 + a) * 2 ^ 16 + (r.dmod * 2 ^ 42 + b) * 2 ^ 72)

/-- The bytes of an expansion (R316). -/
def RCard.expand (r : RCard) : List Byte := (List.range r.entries).flatMap r.entry

/-- The route cards of a pack, in card order. -/
def routeCards (p : List Byte) : List RCard := (packRecords p 9).map routeCard

/-- The byte that a route-card expansion places at a local address: that of the last card that covers it (R305). -/
def cardByte (p : List Byte) (a : Nat) : Option Byte :=
  ((routeCards p).filterMap fun r =>
    if r.out ≤ a ∧ a < r.out + r.bytes then (r.entry ((a - r.out) / r.entryBytes))[(a - r.out) % r.entryBytes]? else none).getLast?

/-- The byte that a pack places at an offset of a core store: an expansion's, else that of the last CORE_DATA record that covers it
(R305). -/
def coreByte (p : List Byte) (c off : Nat) : Option Byte :=
  cardByte p (coreAddr c off) <|> ((coreData p).filterMap fun x =>
    if x.1 = c ∧ x.2.1 ≤ off ∧ off < x.2.1 + x.2.2.length then x.2.2[off - x.2.1]? else none).getLast?

/-- Bytes that a pack places in a core store; zero where it places none. -/
def coreBytes (p : List Byte) (c off n : Nat) : List Byte := (List.range n).map fun i => (coreByte p c (off + i)).getD 0

/-- The byte that a pack places at a local address, by an expansion, else by MEM_DATA or, in a core store, by CORE_DATA (R305). -/
def placedByte (p : List Byte) (a : Nat) : Option Byte :=
  match coreOfAddr a with
  | some c => coreByte p c ((a - 0x020000000000) % 0x40000)
  | none => cardByte p a <|> ((memData p).filterMap fun x => if x.1 ≤ a ∧ a < x.1 + x.2.length then x.2[a - x.1]? else none).getLast?

def placedBytes (p : List Byte) (a n : Nat) : List Byte := (List.range n).map fun i => (placedByte p (a + i)).getD 0

/-- The header parcel of a WC tile of a core (R47), [] where the pack does not place it. -/
def coreTile (p : List Byte) (c off : Nat) : List Byte :=
  if (coreByte p c off).isSome then coreBytes p c off 32 else []

/-- The vector parameter record that a direct VPR names (R177). -/
def coreVpr (p : List Byte) (c : Nat) (vpr : BitVec 18) : List Byte := coreBytes p c (vpr.toNat / 64 * 64) 64

/-! ## The manifest (R308) -/

def maniAccSlots (m : List Byte) : Nat := fieldAt m 0 1
def maniMap (m : List Byte) : Nat := fieldAt m 1 1
def maniNRanges (m : List Byte) : Nat := fieldAt m 2 1
def maniSplit (m : List Byte) : Nat := fieldAt m 4 4
def maniPartition (m : List Byte) : Nat := fieldAt m 8 4
def maniDescCount (m : List Byte) : Nat := fieldAt m 12 4
def maniDescTable (m : List Byte) : Nat := fieldAt m 16 8 % 2 ^ 42

/-- Start and length of the list ranges in use (R226). -/
def maniRanges (m : List Byte) : List (Nat × Nat) :=
  (List.range (maniNRanges m)).map fun i => (fieldAt m (0x40 + 16 * i) 8 % 2 ^ 42, fieldAt m (0x48 + 16 * i) 8)

/-- STAGE_SIZE and LARDER_SIZE of a core in bytes (R241). -/
def maniStage (m : List Byte) (c : Nat) : Nat := fieldAt m (0x140 + 4 * c) 1 * 16384
def maniLarder (m : List Byte) (c : Nat) : Nat := fieldAt m (0x141 + 4 * c) 1 * 16384

/-- Bytes of an entry of a manifest record kind; 0 for a reserved kind. -/
def kindSize (k : Nat) : Nat := if k = 1 ∨ k = 3 ∨ k = 4 then 8 else if k = 2 then 16 else 0

/-- The sub-records from a point of the manifest to its end: kind, reserved head bits and body; none where a head is faulty (R308). The
first argument bounds their number. -/
def cutSubs : Nat → List Byte → Option (List (Nat × List Byte))
  | 0, b => if b = [] then some [] else none
  | n + 1, b =>
    if b = [] then some []
    else
      let k := fieldAt b 0 1
      let l := fieldAt b 4 4
      if b.length < 8 ∨ kindSize k = 0 ∨ fieldAt b 1 3 ≠ 0 ∨ l < 8 ∨ (l - 8) % kindSize k ≠ 0 ∨ b.length < l then none
      else (cutSubs n (b.drop l)).map fun r => (k, slice b 8 (l - 8)) :: r

/-- Bytes of the fixed part. -/
def maniFixed : Nat := 0x140 + 8192

def maniSubs (m : List Byte) : Option (List (Nat × List Byte)) := cutSubs m.length (m.drop maniFixed)

/-- The entries of a kind, in order. -/
def maniEntries (m : List Byte) (k : Nat) : List (List Byte) :=
  ((maniSubs m).getD []).flatMap fun x =>
    if x.1 = k then (List.range (x.2.length / kindSize k)).map fun i => slice x.2 (kindSize k * i) (kindSize k) else []

/-- A group declaration. -/
structure GroupDecl where
  core : Nat
  base : Nat
  depth : Nat
  integer : Bool
  recv : Bool
  splitEq : Bool
  count : Nat
  deriving DecidableEq, Repr

def groupDecls (m : List Byte) : List GroupDecl :=
  (maniEntries m 1).map fun b =>
    let x := fieldAt b 0 8
    { core := bitsOf x 10 0, base := bitsOf x 13 11, depth := bitsOf x 16 14 + 1, integer := bitOf x 17, recv := bitOf x 18,
      splitEq := bitOf x 19, count := bitsOf x 47 32 }

/-- A buffer declaration. -/
structure BufDecl where
  addr : Nat
  use : Nat
  len : Nat
  deriving DecidableEq, Repr

def bufDecls (m : List Byte) : List BufDecl :=
  (maniEntries m 2).map fun b =>
    { addr := fieldAt b 0 8 % 2 ^ 42, use := bitsOf (fieldAt b 0 8) 49 42, len := fieldAt b 8 4 }

/-- Layer, GROUP_PARCELS and default threshold of each Scout layer. -/
def scoutLayers (m : List Byte) : List (Nat × Nat × W32) :=
  (maniEntries m 3).map fun b => (fieldAt b 0 1, fieldAt b 1 3, BitVec.ofNat 32 (fieldAt b 4 4))

/-- Descriptors of W and Wᵀ of each trainable tensor. -/
def trainables (m : List Byte) : List (Nat × Nat) := (maniEntries m 4).map fun b => (fieldAt b 0 2, fieldAt b 2 2)

/-! ## What other rules ask of a pack -/

/-- 0x6006.00 SPLIT_REPORT for an installed pack; 0 with none (R362). -/
def splitReport (p : List Byte) : Nat :=
  let gs := (groupDecls (sectBytes p 1)).filter (·.recv)
  gs.length % 65536 + (gs.filter (·.splitEq)).length % 65536 * 65536

/-- Layer, B_max and G of every SCT with a direct VPR (R165, R166), with its core and instruction index. -/
def sctLayers (p : List Byte) : List (Nat × Nat × Nat × Nat × Nat) :=
  (packCores p).flatMap fun c =>
    ((packProg p c).zip (List.range 4096)).filterMap fun x =>
      match x.1 with
      | some (.sct _ f) =>
        if f.ib then none
        else
          let v := coreVpr p c f.vpr
          some (c, x.2, fieldAt v 0x2B 1, fieldAt v 0x2C 2, fieldAt v 0x2E 2)
      | _ => none

/-- Does a set of SCOUT_DISABLE bits disable a layer whose B_max is less than G (R165)? -/
def disablesShort (p : List Byte) (bits : Nat) : Bool :=
  (sctLayers p).any fun x => bitOf bits x.2.2.1 && decide (x.2.2.2.1 < x.2.2.2.2)

end Sys2Proof.Machine
end

