-- ==== Sys2Proof/Machine/TrailOps.lean ====
section
/-! DEFINITION. The Trail as its devices use it: where they attach (R250), the mesh and its latencies (R251, R252), the beats that their
parcels and requests make (R251), the slot tables (R254 to R258) and the uniform schedule (R261). -/

namespace Sys2Proof.Machine

/-! ## Places on the grid (R250, R251) -/

/-- Router of a shared slice. -/
def sliceRouter (s : Nat) : Nat := s / 8 * 64 + (8 * (s % 8) + 4)

/-- The slice that a router with a SLICE output hosts. -/
def sliceAtRouter (r : Nat) : Nat := r / 64 * 8 + r % 64 / 8

/-- Router of a Guyline port. -/
def portRouter (p : Nat) : Nat := ([2, 7, 12, 19, 24, 29].getD (p % 6) 2) * 64 + (if p < 6 then 0 else 63)

/-- The port at a router, if any. -/
def portAtRouter (r : Nat) : Option Nat := (List.range 12).find? fun p => portRouter p = r

/-- Router and plane of an LPDDR6 channel. -/
def chanRouter (ch : Nat) : Nat := if ch < 128 then ch / 2 else 31 * 64 + (ch - 128) / 2
def chanPlane (ch : Nat) : Nat := ch % 2

/-- The channel at a router's EDGE on a plane. -/
def chanAtRouter (r plane : Nat) : Nat := if r / 64 = 0 then 2 * r + plane else 128 + 2 * (r % 64) + plane

/-- The exit by which what the service path has read leaves the network: the EDGE output of Guyline port 0's router (R419). -/
def slotExit : Nat := portRouter 0 * 8 + 6

/-- The key of a router's input or output on a plane. -/
def planeKey (plane router n : Nat) : Nat := (plane * 2048 + router) * 8 + n

/-- A place in the system: module × 2^42 + local address. -/
def globalKey (module addr : Nat) : Nat := module * 2 ^ 42 + addr

/-- Does a router have this output on this plane: 0 N, 1 E, 2 S, 3 W, 4 CORE, 5 SLICE, 6 EDGE? Channels attach to planes 0 and 1, ports to
planes 2 and 3. -/
def hasOutput (plane router out : Nat) : Bool :=
  let row := router / 64
  let col := router % 64
  match out with
  | 0 => row ≠ 0
  | 1 => col ≠ 63
  | 2 => row ≠ 31
  | 3 => col ≠ 0
  | 4 => true
  | 5 => col % 8 = 4
  | 6 => if plane < 2 then row = 0 || row = 31 else (portAtRouter router).isSome
  | _ => false

/-- The router that a mesh output leads to, the input it arrives at, and the steps it takes: 2, and 16 more over a die boundary (R252). -/
def hop (router out : Nat) : Nat × Nat × Nat :=
  let row := router / 64
  let col := router % 64
  match out with
  | 0 => (router - 64, 2, if row = 16 then 18 else 2)
  | 1 => (router + 1, 3, if col = 31 then 18 else 2)
  | 2 => (router + 64, 0, if row = 15 then 18 else 2)
  | _ => (router - 1, 1, if col = 32 then 18 else 2)

/-- The output of dimension order toward a router and its exit: along the row first, then along the column (R260). -/
def dimOrder (router target exit : Nat) : Nat :=
  if router % 64 < target % 64 then 1
  else if target % 64 < router % 64 then 3
  else if router / 64 < target / 64 then 2
  else if target / 64 < router / 64 then 0
  else exit

/-- Steps of a one-way path: 2 for each hop and 16 for each die crossing (R252). -/
def pathSteps (a b : Nat) : Nat :=
  let dr := (a / 64 - b / 64) + (b / 64 - a / 64)
  let dc := (a % 64 - b % 64) + (b % 64 - a % 64)
  2 * (dr + dc) + 16 * ((if a / 64 / 16 = b / 64 / 16 then 0 else 1) + if a % 64 / 32 = b % 64 / 32 then 0 else 1)

/-! ## Beats (R251) -/

/-- Is a packet a request that carries no parcel (KIND 1)? -/
def Pkt.isRead (p : Pkt) : Bool :=
  match p.flow with
  | .request r => !r.wr
  | .toChan m => !m.wr
  | .away h => h.ftype = 2
  | _ => false

/-- Core and engine that a request names in its header (R251): those of its requester. -/
def Pkt.asker (p : Pkt) : Nat × Nat :=
  match p.flow with
  | .request r => match r.who with
    | .engine c e _ | .merge c e _ | .ctl c e _ | .writer c e _ => (c, e)
    | .daypack c _ _ => (c, 0)
    | .remote h => (h.core, h.eng)
    | _ => (0, 0)
  | .away h => (h.core, h.eng)
  | _ => (0, 0)

/-- A data beat or a read request of packets at ascending parcel addresses (R251). A part of a line takes one packet with its own
parcels. -/
def mkBeat (dst : Nat) (pkts : List Pkt) : Beat :=
  let ps := pkts.flatMap fun p => match p.flow with
    | .toChan m | .fromChan m => m.ps
    | .away h => if h.ftype = 5 then [] else [p.parcel]
    | _ => [p.parcel]
  let addr := (pkts.head?.elim 0 (·.addr)) % 2 ^ 42
  if pkts.any Pkt.isRead then
    let n := match pkts.head?.map (·.flow) with
      | some (.toChan m) => m.n
      | _ => pkts.length
    let who := pkts.head?.elim (0, 0) Pkt.asker
    { kind := 1, vmask := BitVec.ofNat 4 ((n - 1) * 4), hdr := BitVec.ofNat 58 (who.2 * 2 ^ 55 + who.1 * 2 ^ 44 + addr), ps := [],
      integer := false, sat := false, pkts, dst }
  else
    { kind := 0, vmask := BitVec.ofNat 4 (2 ^ ps.length - 1), hdr := BitVec.ofNat 58 addr, ps, integer := false, sat := false, pkts, dst }

/-- May two packets share a beat: the same kind of traffic for the same requester? -/
def Pkt.joins (a b : Pkt) : Bool :=
  match a.flow, b.flow with
  | .request r, .request q => r.wr = q.wr && a.asker = b.asker
  | .answer _, .answer _ => true
  | .away h, .away k => decide ({ h with addr := 0 } = { k with addr := 0 }) && h.ftype ≠ 5
  | _, _ => false

/-- What the first packet of a beat is. -/
def Beat.flow (b : Beat) : Option Flow := b.pkts.head?.map (·.flow)

/-- The channel that a slice's beat is for. -/
def Beat.chan (b : Beat) : Option Nat :=
  match b.flow with
  | some (Flow.toChan m) => some m.ch
  | _ => none

namespace State

/-! ## Where a packet leaves the network -/

/-- Router × 8 + output at which this module's memory at a local address is reached: its slice, or the core that holds it. -/
def placeExit (a : Nat) : Option Nat :=
  match coreOfAddr a, accAt a with
  | some c, _ => some (c * 8 + 4)
  | none, some (c, _) => some (c * 8 + 4)
  | none, none => if isSliced a then some (sliceRouter (sliceOf a) * 8 + 5) else none

/-- The port's exit that a flit for a module takes. -/
def awayExit (s : State) (module : Nat) : Option Nat := (s.routePort module).map fun p => portRouter p * 8 + 6

/-- The exit of a packet; none where this module neither decodes its address nor knows a route. -/
def pktExit (s : State) (p : Pkt) : Option Nat :=
  match p.flow with
  | .request r => placeExit r.addr
  | .answer r => match r.who with
    | .engine c _ _ | .merge c _ _ | .ctl c _ _ => some (c * 8 + 4)
    | .slotR _ _ _ => some slotExit
    | _ => none
  | .toChan m => some (chanRouter m.ch * 8 + 6)
  | .fromChan m => some (sliceRouter m.slice * 8 + 5)
  | .away h => if h.dmod = s.ownId then some (h.core * 8 + 4) else s.awayExit h.dmod

/-! ## Beats at their sources (R253) -/

/-- Where the beats of a device wait: the core's and the slice's for all planes, an edge's for one. -/
def sourceKey (plane router src : Nat) : Nat := if src = 6 then planeKey plane router 6 else planeKey 0 router src

def srcAt (s : State) (k : Nat) : List QBeat := Sparse.get [] s.trail.srcq k

/-- A beat waits at a source for a slot of its route, from a step on. -/
def putBeat (s : State) (k avail : Nat) (b : Beat) : State :=
  { s with trail := { s.trail with
      srcq := Sparse.set [] s.trail.srcq k (s.srcAt k ++ [{ avail, taken := false, beat := b }]) } }

/-- A packet waits at a source; one for a module without a route is dropped and counted (R333). -/
def putPkt (s : State) (k avail : Nat) (p : Pkt) : State :=
  match s.pktExit p with
  | some d => s.putBeat k avail (mkBeat d [p])
  | none => s.countUnroutable

/-- A request that its slice has not taken is back at its requester, ahead of those behind it, for the next request slot (R277). -/
def putBack (s : State) (k : Nat) (r : SReq) : State :=
  match placeExit r.addr with
  | some d => { s with trail := { s.trail with
      srcq := Sparse.set [] s.trail.srcq k
        ({ avail := s.now, taken := false, beat := mkBeat d [{ flow := .request r, addr := r.addr, parcel := {} }] } :: s.srcAt k) } }
  | none => s

/-! ## Slot tables (R254 to R258, R261) -/

/-- The key of a router output's table in a set. -/
def tableKey (set plane router out : Nat) : Nat := ((set * 4 + plane) * 2048 + router) * 8 + out

/-- Non-Daypack steps below a step (R256). -/
def slotsBefore (n : Nat) : Nat := n - n / 16

/-- The number j of a step's slot since its phase began (R256). -/
def slotNo (s : State) (step : Nat) : Nat := slotsBefore step - slotsBefore s.trail.phaseBase

/-- The entry that a router output runs in a step under the tables in force (R256, R258, R261). -/
def slotEntryAt (s : State) (step plane router out : Nat) : Nat :=
  let t := s.trail
  let j := s.slotNo step
  if t.curSet = 0 then (Config.uniformEntry router plane out (j % 512)).toNat
  else
    let tab := Sparse.get [] t.tables (tableKey t.curSet plane router out)
    (tab.getD (j % tab.length) 0).toNat

/-- Does an entry take what an input gives: a FWD or COMB that names it (R254)? -/
def entryTakes (e input : Nat) : Bool :=
  (bitsOf e 15 14 = 1 || bitsOf e 15 14 = 2) && bitsOf e 13 11 = input || (bitsOf e 15 14 = 2 && bitsOf e 10 8 = input)

/-- The exits at which what an input gives in a step leaves by the tables: the routes that the step's slot belongs to (R253). -/
def routeExits (s : State) : Nat → Nat → Nat → Nat → Nat → List Nat
  | 0, _, _, _, _ => []
  | fuel + 1, plane, router, input, step =>
    if step % 16 = 15 then []
    else (List.range 7).flatMap fun o =>
      if hasOutput plane router o && entryTakes (s.slotEntryAt step plane router o) input then
        if o < 4 then
          let h := hop router o
          routeExits s fuel plane h.1 h.2.1 (step + h.2.2)
        else [router * 8 + o]
      else []

/-- The slots that the uniform schedule gives a beat of a device: its plane, and its steps within a rotation; none for a route that R261
gives none to by name. -/
def uniformSlots (router input : Nat) (b : Beat) : Option (Nat × List Nat) :=
  let r := b.dst / 8
  let out := b.dst % 8
  let at_ := fun (x : Equiv.Perm (Fin 512)) (i : Nat) => (x (Fin.ofNat 512 i)).val
  if input = 4 ∧ out = 5 then
    let k := sliceAtRouter r
    some ((Config.uniformPlane router k).val, [at_ (Config.uniformCore router) (2 * k + if b.kind = 1 then 0 else 1)])
  else if input = 5 ∧ out = 4 then
    let k := sliceAtRouter router
    some ((Config.uniformPlane r k).val, [(Config.uniformReturn k r).val])
  else match b.flow with
    | some (Flow.toChan m) => some (chanPlane m.ch, [at_ (Config.uniformSlice m.slice) (2 * m.ch + if m.wr then 1 else 0)])
    | some (Flow.fromChan m) =>
      some (chanPlane m.ch, [at_ (Config.uniformFill m.ch) (2 * m.slice), at_ (Config.uniformFill m.ch) (2 * m.slice + 1)])
    | _ => none

/-! ## Taking a beat from a device -/

/-- A waiting beat of a device and those behind it that one slot carries together: up to four parcels at consecutive addresses for the same
requester (R251), and, by a multicast, the answers of the same parcel for the other exits of its route (R257, R276). -/
def gather (exits : List Nat) (now : Nat) (first : Beat) (rest : List QBeat) : Beat × List QBeat :=
  if first.kind = 2 then (first, rest)
  else
    let next := fun (x : List Pkt × List QBeat) (q : QBeat) =>
      match x.1.head?, x.1.getLast?, q.beat.pkts with
      | some a, some z, [p] =>
        if q.avail ≤ now && q.beat.dst = first.dst && a.joins p && decide (p.addr = z.addr + 32) && decide (x.1.length < 4) then
          (x.1 ++ [p], x.2)
        else (x.1, x.2 ++ [q])
      | _, _, _ => (x.1, x.2 ++ [q])
    let own := rest.foldl next (first.pkts, [])
    let b := mkBeat first.dst own.1
    let isAnswer := match first.flow with | some (Flow.answer _) => true | _ => false
    let also := own.2.filter fun q =>
      isAnswer && decide (q.avail ≤ now) && q.beat.dst ≠ first.dst && exits.contains q.beat.dst &&
        q.beat.pkts.all fun p => own.1.any fun x => x.addr = p.addr
    ({ b with pkts := b.pkts ++ also.flatMap fun q => q.beat.pkts }, own.2.filter fun q => !also.contains q)

/-- Does an earlier beat of a slice for the same channel hold this one back: a slice's requests reach a channel in the slice's order
(R274)? -/
def barred (before : List QBeat) (b : Beat) : Bool :=
  match b.chan with
  | some ch => before.any fun q => q.beat.chan = some ch
  | none => false

/-- The first waiting beat of a queue that may go, with those before it and those behind it. -/
def firstReady (now : Nat) (ok : Beat → Bool) : List QBeat → List QBeat → Option (List QBeat × Beat × List QBeat)
  | _, [] => none
  | before, q :: rest =>
    if decide (q.avail ≤ now) && ok q.beat && !barred before q.beat then some (before, q.beat, rest)
    else firstReady now ok (before ++ [q]) rest

/-- A device's next beat for a slot leaves its queue; exits are those of the slot's route. -/
def takeSource (s : State) (k : Nat) (exits : List Nat) (ok : Beat → Bool) : Option (State × Beat) :=
  (firstReady s.now ok [] (s.srcAt k)).map fun x =>
    let g := gather exits s.now x.2.1 x.2.2
    ({ s with trail := { s.trail with srcq := Sparse.set [] s.trail.srcq k (x.1 ++ g.2) } }, g.1)

end State

end Sys2Proof.Machine
end

