-- ==== Sys2Proof/Machine/Admit.lean ====
section
/-! DEFINITION. Admission as the service path does it (R164, R165, R364, R366 to R368, R371, R373, R419, R421): a request's parcels go to its
input slot through the edge router of Guyline port 0, its header last, and it is admitted in the step in which the header lands. -/

namespace Sys2Proof.Machine

/-- The end of the counter of R367. -/
def countEnd : Nat := 2 ^ 40

/-- The last epoch (R367). -/
def epochLast : Nat := 0xFFFFFF

/-- INPUT_DIGEST of a request's bytes (R371). -/
def inputDigest (data : List Byte) : BitVec 256 :=
  Config.sm3 (leBytes 8 data.length ++ slice data 0 ((data.length + 31) / 32 * 32))

/-- Where the parcels and reads of the service path wait: at the edge router of Guyline port 0, behind received flits (R419). -/
def slotKey : Nat := planeKey 2 (portRouter 0) 7

/-- The header of an input slot (R418). -/
def inputHeader (seq : W64) (r : Req) : BitVec 256 :=
  bytesParcel (slice (leBytes 8 seq.toNat ++ leBytes 4 r.data.length ++ leBytes 2 r.origin.toNat) 0 32)

namespace State

/-- LOGBOOK_MODE (R366). -/
def logMode (s : State) : Nat := leNat (Sparse.get [] s.dict.val 0x602000)

/-- The counters whose advance ends TCLEAN (R364, R374). -/
def deviations (s : State) : List Nat :=
  [s.sums.tdc, s.pace.devCount, s.mm.retry, s.mm.uncorr, s.mm.collide, s.gl.retry, s.gl.lateRelease, s.gl.lateFlit]

/-- The Scout threshold of a layer in force: 0 for a layer that the pack does not gate (R164, R373). -/
def thresholdOf (s : State) (l : Nat) : List Byte :=
  if (scoutLayers (sectBytes s.pack.installed 1)).any fun x => x.1 = l then s.dictVal (0x303000 + l) (leBytes 4 0) else leBytes 4 0

/-- 0x3031.00 SCOUT_DISABLE (R165). -/
def scoutBits (s : State) : List Byte := s.dictVal 0x303100 (List.replicate 32 0)

/-- SETTINGS_HASH (R373). -/
def settingsHash (s : State) : BitVec 256 :=
  Config.sm3 (((List.range 255).flatMap fun i => s.thresholdOf (i + 1)) ++ s.scoutBits)

/-- The admission step: the header with this SEQ has landed. The mode, the Scout settings, TRAIN_STATE and the counters of the result are
those of this step, whose leaves are the span's, and SUBMIT_REPLY goes out (R164 to R166, R366 to R368, R370, R374, R421). -/
def admitReq (s : State) (a : Adm) (seq : W64) : State :=
  let scout := (scoutLayers (sectBytes s.pack.installed 1)).foldl (fun m l => Sparse.set [] m l.1 (s.thresholdOf l.1)) ([] : SMap (List Byte))
  let scoutDis := BitVec.ofNat 256 (leNat s.scoutBits)
  let o : OpenRes :=
    { req := a.req, seq, admitted := s.now, settings := s.settingsHash, train := s.log.train, input := inputDigest a.req.data,
      devs := s.log.stepDevs, mode := s.logMode, scout, scoutDis }
  let early := (Sparse.get [] s.log.early a.ch.toNat).filter fun l => l.at_ = s.now
  let s := { s with
    log := { s.log with
      lastSeq := seq, open_ := Sparse.set none s.log.open_ a.ch.toNat (some o), orphan := s.log.orphan - early.length,
      leaves := Sparse.set [] s.log.leaves a.ch.toNat (if s.logMode = 0 then [] else early),
      early := Sparse.set [] s.log.early a.ch.toNat [] },
    svc := { s.svc with adm := s.svc.adm.filter fun (x : Adm) => x.ch ≠ a.ch, scout, scoutDis } }
  s.replyTo a.req 0 seq 0

/-- A parcel for a channel's input slot, its check value made as it enters (R40): it waits at the edge router for an EDGE slot of its route.
One for an undecoded place is dropped and counted (R208), and one in a list range goes into the hold as a remote write (R227); the second
part says whether it has landed already. -/
def slotPut (s : State) (ch : BitVec 4) (a : Nat) (d : BitVec 256) : State × Bool :=
  let p := madeParcel d 0 a
  if !s.writable a then (s.countEdgePoison, true)
  else if s.inListRange a then (s.putParcelFor (.remote { ftype := 1, vmask := 1, dmod := s.ownId, smod := s.ownId, addr := a }) a p, true)
  else
    let r : SReq := { wr := true, addr := a, mask := fullMask, data := d.toNat, poison := false, cclass := 0, check := some p.check,
                      who := .slotW ch.toNat, sees := none, src := some slotKey }
    (s.putPkt slotKey s.now { flow := .request r, addr := a, parcel := p }, false)

/-- The service path asks for parcel i of the output slot at an address, for the result of a SEQ (R419, R422). -/
def slotAsk (s : State) (ch : BitVec 4) (i : Nat) (seq : W64) (a : Nat) : State :=
  let r : SReq := { wr := false, addr := a, mask := 0, data := 0, poison := false, cclass := 0, check := none,
                    who := .slotR ch.toNat i seq.toNat, sees := none, src := some slotKey }
  s.putPkt slotKey s.now { flow := .request r, addr := a, parcel := {} }

/-- The input header of a request all of whose data has landed is written, with a new SEQ; past the counter's end it waits for a new epoch
(R367, R421). -/
def sendHeader (s : State) (a : Adm) : State :=
  if countEnd ≤ s.log.count then s
  else
    let seq : W64 := BitVec.ofNat 64 (s.log.epoch * 2 ^ 40 + s.log.count)
    let count := s.log.count + 1
    let a := { a with seq := some seq }
    let s := { s with
      log := { s.log with count },
      svc := { s.svc with adm := s.svc.adm.map fun (x : Adm) => if x.ch = a.ch then a else x } }
    let s := if countEnd ≤ count ∧ epochLast ≤ s.log.epoch then s.alert .epochEnd else s
    let q := s.slotPut a.ch a.slot (inputHeader seq a.req)
    if q.2 then q.1.admitReq a seq else q.1

/-- A parcel of a channel's input slot has landed: after the last data parcel the header is written, and with the header the request is
admitted (R421). -/
def slotLanded (s : State) (ch : Nat) : State :=
  match s.svc.adm.find? fun a => a.ch.toNat = ch with
  | none => s
  | some a => match a.seq with
    | some seq => s.admitReq a seq
    | none =>
      let a := { a with left := a.left - 1 }
      let s := { s with svc := { s.svc with adm := s.svc.adm.map fun (x : Adm) => if x.ch = a.ch then a else x } }
      if a.left = 0 then s.sendHeader a else s

/-- A channel begins to admit a request: its data parcels are on their way to the input slot (R421). -/
def beginAdmission (s : State) (r : Req) (v : SvcRec) : State :=
  let ps := (List.range ((r.data.length + 31) / 32)).zip (toParcels r.data)
  let x := ps.foldl (fun (x : State × Nat) p =>
    let q := x.1.slotPut v.ch (v.input + 32 + 32 * p.1) p.2
    (q.1, if q.2 then x.2 else x.2 + 1)) (s, 0)
  let a : Adm := { ch := v.ch, req := r, slot := v.input, left := x.2, seq := none }
  let s := { x.1 with svc := { x.1.svc with waiting := x.1.svc.waiting.erase r, adm := x.1.svc.adm ++ [a] } }
  if a.left = 0 then s.sendHeader a else s

end State

end Sys2Proof.Machine
end

