-- ==== Sys2Proof/Machine/Drain.lean ====
section
/-! DEFINITION. The drain chain (06), its stages (R33 to R35, R189 to R192), split nodes sent (R125), the Packer (R70 to R75) and the leaves of
the Logbook (R369). -/

namespace Sys2Proof.Machine

namespace State

/-- The bytes at a core-store offset with the marks of their parcels, and the poisoned errors that arise. -/
def coreBytes (s : State) (c off n : Nat) : List MByte × Nat :=
  (s.tileBytes c (off / 32 * 32) (off % 32) n, (s.tileParcels c (off / 32 * 32) 0 ((off % 32 + n + 31) / 32)).2)

/-! ## Output -/

/-- The chunks of bytes written from a core-store offset on, cut at parcels; mark i is that of byte i (R45). -/
def chunksOf (c off : Nat) (bs : List Byte) (marks : List Bool) (cclass : BitVec 3) : List Chunk :=
  let first := off / 32
  (List.range ((off % 32 + bs.length + 31) / 32)).map fun i =>
    let lo := if i = 0 then off else 32 * (first + i)
    let n := 32 * (first + i + 1) - lo
    let part := (bs.drop (lo - off)).take n
    { addr := coreAddr c lo, bytes := part, poison := ((marks.drop (lo - off)).take n).any id, cclass }

/-- The parcel that a chunk makes of what is stored. -/
def chunkParcel (s : State) (k : Chunk) : Parcel :=
  let a := k.addr / 32 * 32
  if k.bytes.length = 32 then
    if k.poison then { poisonedParcel a with cclass := k.cclass } else madeParcel (bytesParcel k.bytes) k.cclass a
  else mergeParcel ((s.parcelAt a).getD (madeParcel 0 0 a)) a (k.addr % 32) k.bytes k.poison

/-- A chunk written; into the instruction region the write is dropped and counts one poisoned error at the core (R179, R208). A parcel that
does not verify as a part of it is replaced counts one too (R41, R42). -/
def writeChunk (s : State) (c : Nat) (k : Chunk) : State :=
  if s.writable k.addr then
    let a := k.addr / 32 * 32
    let fails := decide (k.bytes.length < 32) && !verifies ((s.parcelAt a).getD (madeParcel 0 0 a)) a
    (s.putParcel k.addr (s.chunkParcel k)).countPoison c (if fails then 1 else 0)
  else s.countPoison c 1

def writeChunks (s : State) (c : Nat) (ks : List Chunk) : State := ks.foldl (fun s k => s.writeChunk c k) s

/-- Must a writer of these chunks stall (R227)? -/
def chunksStall (s : State) (ks : List Chunk) : Bool := ks.any fun k => s.holdFull k.addr

/-! ## Leaves (R369) -/

/-- A leaf reaches its channel: discarded in Logbook mode 0, which for a result is that of its admission (R366, R481; log 69), and counted
where a result channel has no open result, in every mode (R368); a span that begins in the same step takes it after all. -/
def makeLeaf (s : State) (c : Nat) (ch : BitVec 4) (ps : List Parcel) : State :=
  let k := ch.toNat
  let old := if k = 15 then s.log.trainLeaves
    else if (Sparse.get none s.log.open_ k).isSome then Sparse.get [] s.log.leaves k
    else (Sparse.get [] s.log.early k).filter fun l => l.at_ = s.now
  let no := (old.filter fun l => l.core = c).length
  let msg := leBytes 2 c ++ leBytes 4 no ++ leBytes 4 ps.length ++
    ps.flatMap fun p => parcelBytes p.data ++ [if p.poison then 1 else 0]
  let leaf : Leaf := { core := c, no, hash := Config.sm3 msg, poison := ps.any (·.poison), at_ := s.now }
  if k = 15 then if s.logMode = 0 then s else { s with log := { s.log with trainLeaves := old ++ [leaf] } }
  else
    match Sparse.get none s.log.open_ k with
    | some o => if o.mode = 0 then s else { s with log := { s.log with leaves := Sparse.set [] s.log.leaves k (old ++ [leaf]) } }
    | none => { s with log := { s.log with orphan := s.log.orphan + 1, early := Sparse.set [] s.log.early k (old ++ [leaf]) } }

end State

/-! ## Chain configurations (R188) -/

/-- Is stage i enabled? -/
def Cfg.on (g : Cfg) (i : Nat) : Bool := g.enable.getLsbD i

/-- Is QUANT enabled with a target (R34)? -/
def Cfg.quantOn (g : Cfg) : Bool :=
  g.on 5 && (g.qtype = 2 || g.qtype = 5 || g.qtype = 6 || g.qtype = 7 || g.qtype = 8)

/-- Does the configuration hold what the loader would refuse (R188)? -/
def Cfg.refusable (g : Cfg) : Bool :=
  decide (9 < g.actFn.toNat) || (g.on 5 && !g.quantOn) || (g.on 3 && g.residType = 5) ||
    (g.on 5 && g.qtype = 5 && !g.on 6)

/-- The configuration that CHAIN loads from a record, with the poisoned errors that arise (R188). -/
def State.loadCfg (s : State) (c rec : Nat) : Cfg × Nat :=
  let r := s.coreBytes c rec 32
  let b := r.1.map (·.1)
  if r.1.any (·.2) then ({ Cfg.empty with poisoned := true }, r.2)
  else
    let at_ := fun o => fieldAt b o 4 % 2 ^ 18
    let byte := fun i => b.getD i 0
    let g : Cfg :=
      { Cfg.empty with
        enable := byte 0, actFn := byte 1, qtype := (byte 2).truncate 4, dense := (byte 3).getLsbD 0,
        residEng := (byte 4).truncate 3, residType := (byte 4 >>> 4).truncate 4, digestCh := (byte 5).truncate 4, rstat := at_ 16 }
    let vec := fun o => s.coreBytes c (at_ o) 256
    let words := fun (v : List MByte) => (List.range 64).map fun j =>
      let w := (v.drop (4 * j)).take 4
      ((BitVec.ofNat 32 (leNat (w.map (·.1))) : W32), w.any (·.2))
    let sc := vec 8
    let bi := vec 12
    let qs := s.coreBytes c (at_ 20) 64
    let l4 := g.quantOn && g.qtype = 5
    ({ g with
        scale := if g.on 0 then words sc.1 else [], bias := if g.on 1 then words bi.1 else [],
        qscale := if l4 then qs.1.map fun x => (x.1.toInt, x.2) else [], refused := g.refusable },
      r.2 + (if g.on 0 then sc.2 else 0) + (if g.on 1 then bi.2 else 0) + if l4 then qs.2 else 0)

/-- CHAIN loads a configuration and its parameter vectors, once no DRAIN that uses it is in the chain (R172, R188). -/
def execChain (c : CoreId) (ia : Bool) (cfg : BitVec 4) (rec : BitVec 18) (s : State) : Host.Outcome State Fault Refusal :=
  let d := s.drn c.toNat
  let r := s.loadCfg c.toNat (fieldMod (s.seq c.toNat) ia rec 18)
  s.issue c (.chain c ia cfg rec) (d.q.all fun x => x.cfgNo ≠ cfg.toNat)
    ((s.setDrn c.toNat { d with cfgs := Sparse.set Cfg.empty d.cfgs cfg.toNat r.1 }).countPoison c.toNat r.2)

/-! ## DRAIN -/

/-- The DRAINs of a core still reading their group. -/
def Drn.reading (d : Drn) : Nat := (d.q.filter fun x => !x.readDone).length

/-- A DRAIN joins the queue: passes issued after it are numbered afresh and held until it has read (R113, R132, R134). It waits for split
nodes where some are scheduled to its group (R131, R132; log 74). -/
def State.addDrain (s : State) (c : Nat) (f : DrainF) (g : Group) (split : Bool) : State :=
  let q := s.seq c
  let d := s.drn c
  let rec_ : DrainRec :=
    { id := d.nextId, pc := q.pc, split, tag := q.reg f.tagreg,
      cfg := if split then Cfg.empty else Sparse.get Cfg.empty d.cfgs f.cfg.toNat, cfgNo := if split then 16 else f.cfg.toNat,
      grp := g.base, gen := g.gen, rows := f.nrowsM1.toNat + 1, dest := fieldMod q f.ib f.dest 18, next := 0, readDone := false,
      outRows := 0, integer := g.integer, satur := false,
      await := s.nodesInFlight c g && !(d.q.any fun x => x.grp = g.base && !x.readDone && x.await), short := false, issued := s.now, bundled := f.bm, emitted := [] }
  (s.setDrn c { d with nextId := d.nextId + 1, q := d.q ++ [rec_] }).setGroup c { g with gen := g.gen + 1, nextNo := 0 }

/-- DRAIN in MODE 0 (R132, R137, R194, R199). -/
def execDrain (c : CoreId) (f : DrainF) (s : State) : Host.Outcome State Fault Refusal :=
  let k := c.toNat
  let n := s.namedGroup k (fieldOr (s.seq k) f.ia f.grp)
  let effect :=
    if f.bm && !(s.bnd k).isOpen then s.stray k
    else match n.2 with
      | none => n.1
      | some g =>
        let s' := n.1.addDrain k f g false
        if f.bm then s'.addAction k (.drain (s.drn k).nextId [] false none []) 0 else s'
  s.issue c (.drain c f) (decide ((s.drn k).reading < 2)) effect

/-- DRAIN in MODE 1 sends the folded value as a split node (R125). -/
def execDrainSplitNode (c : CoreId) (f : DrainF) (s : State) : Host.Outcome State Fault Refusal :=
  let k := c.toNat
  let n := s.namedGroup k (fieldOr (s.seq k) f.ia f.grp)
  let effect := match n.2 with
    | none => n.1
    | some g => n.1.addDrain k f g true
  s.issue c (.drainSplitNode c f) (decide ((s.drn k).reading < 2)) effect

/-- A bundled DRAIN among the actions gets chunks, its end, and its leaf (R194). -/
def drainAct (acts : List BAct) (id : Nat) (ks : List Chunk) (fin : Bool) (ch : Option (BitVec 4)) (leaf : List Parcel) : List BAct :=
  acts.map fun x =>
    match x with
    | .drain i o f l ps => if i = id then .drain i (o ++ ks) (f || fin) (l.or ch) (ps ++ leaf) else .drain i o f l ps
    | y => y

/-! ## Rows (R133 to R135) -/

/-- Latency of the enabled stages before PACK (R189). -/
def Cfg.latency (g : Cfg) : Nat := 2 * ((List.range 6).filter g.on).length

/-- The next enabled stage at or after k; 8 is the output. -/
def Cfg.nextStage (g : Cfg) (k : Nat) : Nat := (((List.range 8).drop k).find? g.on).getD 8

/-- The step at which a row may go through its next stage, from the step it left the one before: PACK is entered at once, every
other stage takes 2 steps. -/
def stageDue (stage d : Nat) : Nat := if stage = 6 ∨ stage = 8 then d else d + 2

/-- Does an integer group's value stay INT32 (R189)? -/
def DrainRec.rawInt (d : DrainRec) : Bool := d.integer && (List.range 6).all fun i => !d.cfg.on i

/-- The element type at the output (R188, R189). -/
def DrainRec.outType (d : DrainRec) : Nat := if d.cfg.quantOn then d.cfg.qtype.toNat else if d.rawInt then 4 else 10

/-- An element as the chain's first stage takes it (R24, R33). -/
def firstElem (d : DrainRec) (x : VRes) : CElem :=
  { bits := if d.integer then (if d.rawInt then x.v.hi else rnInt x.v.hi.toInt 0) else dwRound x.v,
    poison := x.poison || d.cfg.poisoned || d.cfg.refused }

/-- Parcels of one row of the residual's type (R191). -/
def residParcels (et : Nat) : Nat := 2 * elemBits et / 8

/-- Parcels of the RESID input that rows already in the chain will take. -/
def Drn.residNeed (d : Drn) (eng : BitVec 3) : Nat :=
  ((d.rows.filter fun r => r.stage ≤ 3).map fun r =>
    match d.q.find? fun x => x.id = r.id with
    | some x => if x.cfg.on 3 ∧ x.cfg.residEng = eng then residParcels x.cfg.residType.toNat else 0
    | none => 0).sum

/-- May the first stage take a row of this DRAIN now: a Packer buffer will be free when a tile's first row reaches PACK (R74), and
the row's residual has arrived or its stream has ended (R191)? -/
def Drn.takes (d : Drn) (x : DrainRec) (now : Nat) : Bool :=
  let free := fun (t : PkTile) => t.full && decide (t.due + (t.out.length + 3) / 4 ≤ now + x.cfg.latency)
  let pack := !(x.cfg.on 6 && x.next = 0) || decide ((d.pk.filter fun t => !free t).length < 2)
  let e := x.cfg.residEng.toNat
  let have_ := (Sparse.get [] d.resid e).length
  let res := !x.cfg.on 3 || d.residEnd.contains e ||
    decide (d.residNeed x.cfg.residEng + residParcels x.cfg.residType.toNat ≤ have_)
  pack && res

/-- A split-node beat waits at a source for its route; one for a module without a route is dropped and counted (R265, R333). -/
def State.putNode (s : State) (k : Nat) (b : Beat) : State :=
  let t := NodeTag.ofBits b.hdr
  match (if t.module = s.ownId then some (t.core * 8 + 4) else s.awayExit t.module) with
  | some d => s.putBeat k s.now { b with dst := d }
  | none => { s with gl := { s.gl with unroutable := s.gl.unroutable + 1 } }

/-- The beats of one row of a split node, to the source queue of the core's router (R125, R265). -/
def State.sendNodeRow (s : State) (c : Nat) (d : DrainRec) (t : Nat) (es : List VRes) (sat : Bool) : State :=
  let w := d.tag.toNat
  let n := nodeElems d.integer
  (List.range (64 / n)).foldl (fun s i =>
    let b := t * (64 / n) + i
    s.putNode (State.sourceKey 0 c 4)
      { kind := 2, vmask := 15,
        hdr := NodeTag.bits { logS := bitsOf w 35 32, level := bitsOf w 31 28, first := bitsOf w 27 14, base := bitsOf w 38 36,
                              core := bitsOf w 49 39, module := bitsOf w 63 50, beat := b },
        ps := beatParcels d.integer (128 * b) ((es.drop (n * i)).take n), integer := d.integer, sat, pkts := [], dst := 0 }) s

/-- A DRAIN reads one folded row once nothing issued before it is in flight, earlier DRAINs have read, and the chain takes the row; with
the last row its group is empty (R132 to R135). A faulted group is not read and nothing of it is emitted (R137). Of a split node, the rows
from N on are sent as zeros (R125; DESIGN CHOICE, log 75). -/
def execDrainRowRead (c : CoreId) (s : State) : Host.Outcome State Fault Refusal :=
  let k := c.toNat
  let dn := s.drn k
  match dn.q.find? fun x => !x.readDone with
  | none => .next s
  | some d =>
    match s.group k d.grp with
    | none => .next s
    | some g =>
      if g.faulted then
        let s := s.setDrn k { dn with
          q := dn.q.filter fun x => x.id ≠ d.id, rows := dn.rows.filter fun r => r.id ≠ d.id, pk := dn.pk.filter fun t => t.id ≠ d.id }
        let b := s.bnd k
        .next (s.setBnd k { b with acts := drainAct b.acts d.id [] true none [] })
      else
        let folds := if g.recv then 0 else g.stack.length - 1
        let first := max (max (d.issued + 1) g.quietAt) dn.free + if d.next = 0 then 2 * folds else 0
        let ready := (g.inflight.all fun x => d.gen < x) && (!d.await || (g.nodeDone d.gen && g.nodesQuiet d.gen)) && decide (first ≤ s.now) &&
          dn.takes d s.now
        if !ready then .next s
        else
          let t := d.next
          let row := (List.range 64).map fun j => s.foldAt k g d.gen (64 * t + j)
          let sat := row.any (·.2)
          let last := t + 1 = d.rows
          let d' := { d with next := t + 1, readDone := last, satur := d.satur || sat }
          let s := if t = 0 && d.cfg.refused then s.countPoison k 1 else s
          let es := row.map (·.1)
          let s :=
            if d.split then
              let s := s.sendNodeRow k d t es sat
              if last then
                (List.range (64 - d.rows)).foldl (fun s i =>
                  s.sendNodeRow k d (d.rows + i) (List.replicate 64 VRes.zero) d'.satur) s
              else s
            else s
          let st := d.cfg.nextStage 0
          let rows := if d.split then dn.rows else
            dn.rows ++ [{ id := d.id, t, stage := st, due := stageDue st s.now, vals := es.map (firstElem d) }]
          let pk := if d.cfg.on 6 && t = 0 then
            dn.pk ++ [{ id := d.id, rows := [], full := false, due := 0, out := [], addr := d.dest }] else dn.pk
          let q := if d.split && last then dn.q.filter fun x => x.id ≠ d.id
            else dn.q.map fun x => if x.id = d.id then d' else x
          let s := s.setDrn k { dn with q := q, rows := rows, pk := pk, free := s.now + 1 }
          let a := s.acc k
          let s := if last && d'.satur then s.setAcc k { a with drained := a.drained + 1 } else s
          .next (if last then s.emptyGroup k g d.gen s.now else s)

/-! ## Stages (R189 to R192) -/

/-- The ROM segment of a finite value (R190). -/
def actSegment (f : Byte) (x : W32) : Nat :=
  (((List.range 1024).filter fun i => decide (fNumKey (Config.actBreak f i) ≤ fNumKey x)).getLast?).getD 0

/-- ACT (R190). -/
def actValue (f : Byte) (x : W32) : W32 :=
  if fp32IsNaN x then canonNaN
  else if fp32IsInf x then Config.actLimit f (!x.msb)
  else
    let i := actSegment f x
    fAdd (fMul (Config.actSlope f i) x) (Config.actOffset f i)

/-- The pairwise sum over columns, lower column first (R192). -/
def pairSum : Nat → List W32 → W32
  | 0, xs => xs.headD 0
  | n + 1, xs => fAdd (pairSum n (xs.take (2 ^ n))) (pairSum n (xs.drop (2 ^ n)))

/-- The maximum of a row (R192). -/
def rowMax (xs : List W32) : W32 :=
  if xs.any fp32IsNaN then canonNaN
  else (xs.drop 1).foldl (fun m x => if fKey m < fKey x then x else m) (xs.headD 0)

/-- One element of the residual as FP32 (R191). -/
def residElem (et : Nat) (bs : List MByte) (j : Nat) : W32 × Bool :=
  let v := packedAt (elemBits et) bs j
  let x := if et = 11 then dwRound { hi := BitVec.ofNat 32 v.1, lo := BitVec.ofNat 32 (v.1 / 2 ^ 32) } else toFp32 (decodeNum et v.1)
  (if v.2 then 0 else x, v.2)

/-- The arithmetic of stages SCALE, BIAS, ACT and RESID on one element. -/
def stageElem (g : Cfg) (stage : Nat) (resid : List MByte) (j : Nat) (x : CElem) : CElem :=
  match stage with
  | 0 => let v := g.scale.getD j (0, false); { x with bits := fMul x.bits v.1, poison := x.poison || v.2 }
  | 1 => let v := g.bias.getD j (0, false); { x with bits := fAdd x.bits v.1, poison := x.poison || v.2 }
  | 2 => { x with bits := actValue g.actFn x.bits }
  | 3 => let v := residElem g.residType.toNat resid j; { x with bits := fAdd x.bits v.1, poison := x.poison || v.2 }
  | _ => x

/-- QUANT on one element, and whether QSAT_CNT counts it (R34, R35, R188). -/
def quantElem (g : Cfg) (j : Nat) (x : CElem) : CElem × Bool :=
  let cs := g.qscale.getD j (0, false)
  let r := quant g.qtype.toNat cs.1 x.bits
  ({ bits := r.1, absent := r.2.1, poison := x.poison || (g.qtype = 5 && cs.2) }, r.2.2)

def enumFrom0 {α : Type} (l : List α) : List (Nat × α) := (List.range l.length).zip l

/-- The bytes of a row at the output type, with the mark of each byte (R11, R189). -/
def rowBytesOut (et : Nat) (vals : List CElem) : List Byte × List Bool :=
  let b := elemBits et
  if b = 4 then
    let pair := fun i =>
      let x := vals.getD (2 * i) {}
      let y := vals.getD (2 * i + 1) {}
      (BitVec.ofNat 8 (x.bits.toNat % 16 + 16 * (y.bits.toNat % 16)), x.poison || y.poison)
    (((List.range 32).map pair).map (·.1), ((List.range 32).map pair).map (·.2))
  else (vals.flatMap fun x => leBytes (b / 8) x.bits.toNat, vals.flatMap fun x => List.replicate (b / 8) x.poison)

/-- Chunks leave a DRAIN: written, or held in its bundle (R194, R196). The parcels that the chain emits, but not row
statistics, count for the bundle and the digest. -/
def State.drainOut (s : State) (c : Nat) (d : DrainRec) (ks : List Chunk) (counted : Bool) : State :=
  if d.bundled then
    let b := s.bnd c
    let b := { b with
      acts := drainAct b.acts d.id ks false none [],
      parcels := b.parcels + if counted then ks.length else 0 }
    let cause := (if 512 < b.parcels then causeOverflow else 0) ||| if ks.any (·.poison) then causePoison else 0
    s.setBnd c { b with cause := b.cause ||| cause }
  else s.writeChunks c ks

/-- The last output of a DRAIN has left: it leaves the chain, and its leaf is made, or kept until commit (R369). -/
def State.drainDone (s : State) (c : Nat) (d : DrainRec) : State :=
  let dn := s.drn c
  let s := s.setDrn c { dn with q := dn.q.filter fun x => x.id ≠ d.id }
  if d.bundled then
    let b := s.bnd c
    s.setBnd c { b with acts := drainAct b.acts d.id [] true (if d.cfg.on 7 then some d.cfg.digestCh else none) d.emitted }
  else if d.cfg.on 7 then s.makeLeaf c d.cfg.digestCh d.emitted
  else s

/-- What a chunk gives the DIGEST stage: its parcel, filled with zeros, with the check value that the chain makes for it (R40), which the
stage verifies (R41). -/
def chunkLeaf (k : Chunk) : Parcel :=
  let a := k.addr / 32 * 32
  (consume (if k.poison then poisonedParcel a else madeParcel (bytesParcel (slice k.bytes 0 32)) k.cclass a) a).1

/-! ## The Packer (R70 to R75) -/

/-- An element as the Packer takes it: marked and zero elements have the code 0 (R66, R73). -/
def packZero (et : Nat) (x : CElem) : Bool := x.poison || if et = 5 then x.absent else Num.isZero (decodeNum et x.bits.toNat)

/-- Values packed under R11. -/
def packVals (bits : Nat) (vs : List Nat) : List Byte :=
  if bits = 4 then
    (List.range ((vs.length + 1) / 2)).map fun i => BitVec.ofNat 8 (vs.getD (2 * i) 0 % 16 + 16 * (vs.getD (2 * i + 1) 0 % 16))
  else vs.flatMap fun v => leBytes (bits / 8) v

/-- The tile that the Packer makes of its rows: its bytes, and CCLASS (R70, R72, R75). -/
def packTile (et : Nat) (dense : Bool) (scales : List Int) (rows : List (List CElem)) : List Byte × BitVec 3 :=
  let bits := elemBits et
  let l4 := et = 5
  let extra := if l4 then 64 else 0
  let nz := rows.map fun r => r.filter fun x => !packZero et x
  let masks := rows.map fun r => leBytes 8 ((enumFrom0 r).map fun x => if packZero et x.2 then 0 else 2 ^ x.1).sum
  let bt := 8 + extra + (nz.map fun r => 8 + (r.length * bits + 7) / 8).sum
  let dn := 8 + extra + rows.length * 8 * bits + if l4 then 8 * rows.length else 0
  let sc := if l4 then scales.map fun x => BitVec.ofInt 8 x else []
  let head := fun (size vrows form : Nat) => leBytes 8 (parcelsOf size * 2 ^ 48 + vrows * 65536 + et * 16 + form)
  let out := fun (size : Nat) (bs : List Byte) => slice bs 0 (32 * parcelsOf size)
  if !dense && nz.all List.isEmpty then (out 8 (head 8 0 0), 2)
  else if dense || dn ≤ bt then
    let vals := rows.flatMap fun r => packVals bits (r.map fun x => if packZero et x then 0 else x.bits.toNat)
    (out dn (head dn (rows.length - 1) 8 ++ sc ++ (if l4 then masks.flatten else []) ++ vals), 1)
  else
    let body := (masks.zip nz).flatMap fun x => x.1 ++ packVals bits (x.2.map fun y => y.bits.toNat)
    (out bt (head bt (rows.length - 1) 9 ++ sc ++ body), 2)

/-- The parcels that the Packer emits for a tile; all are poisoned where any element is marked (R73). -/
def packParcels (et : Nat) (g : Cfg) (rows : List (List CElem)) : List Parcel :=
  let p := packTile et g.dense (g.qscale.map (·.1)) rows
  let bad := rows.any fun r => r.any (·.poison)
  (toParcels p.1).map fun d => { data := if bad then 0 else d, check := 0, poison := bad, cclass := p.2 }

/-! ## The chain's commands -/

/-- Row k of those in the chain passes its next stage, in order (R189). Without PACK the row leaves after its last stage. -/
def execChainStage (c : CoreId) (k : Nat) (s : State) : Host.Outcome State Fault Refusal :=
  let cc := c.toNat
  let dn := s.drn cc
  match dn.rows[k]? with
  | none => .next s
  | some r =>
    match dn.q.find? fun x => x.id = r.id with
    | none => .next s
    | some d =>
      let blocked := ((dn.rows.take k).any fun x => x.stage ≤ r.stage) || decide (s.now < r.due)
      if blocked then .next s
      else
        let g := d.cfg
        let step := fun (s : State) (vals : List CElem) =>
          let dn := s.drn cc
          let st := g.nextStage (r.stage + 1)
          s.setDrn cc { dn with rows := dn.rows.set k { r with vals := vals, stage := st, due := stageDue st r.due } }
        match r.stage with
        | 3 =>
          let e := g.residEng.toNat
          let et := g.residType.toNat
          let n := residParcels et
          let q := Sparse.get [] dn.resid e
          let got := q.take n
          let short := got.length < n
          if short && !dn.residEnd.contains e then .next s
          else
            let bs := (got.flatMap fun p => (parcelBytes p.data).map fun b => (b, p.poison)) ++
              List.replicate (32 * (n - got.length)) ((0 : Byte), true)
            let lastRow := r.t + 1 = d.rows
            let dn := { dn with
              q := dn.q.map fun x => if x.id = d.id then { d with short := d.short || short } else x,
              resid := Sparse.set [] dn.resid e (q.drop n),
              residEnd := if lastRow && (q.drop n).isEmpty then dn.residEnd.filter (· ≠ e) else dn.residEnd }
            let s := s.setDrn cc dn
            let s := if short && !d.short then s.countPoison cc 1 else s
            .next (step s ((enumFrom0 r.vals).map fun x => stageElem g 3 bs x.1 x.2))
        | 4 =>
          let bits := r.vals.map (·.bits)
          let mark := r.vals.any (·.poison)
          let bs := leBytes 4 (pairSum 6 bits).toNat ++ leBytes 4 (rowMax bits).toNat
          let ks := State.chunksOf cc (g.rstat + 8 * r.t) bs (List.replicate 8 mark) 0
          if !d.bundled && s.chunksStall ks then .next s
          else .next (step (s.drainOut cc d ks false) r.vals)
        | 5 =>
          let vs := (enumFrom0 r.vals).map fun x => if g.quantOn then quantElem g x.1 x.2 else (x.2, false)
          .next (step (s.countQsat cc (vs.filter (·.2)).length) (vs.map (·.1)))
        | 6 =>
          let last := r.t + 1 = d.rows
          let pk := dn.pk.map fun t =>
            if t.id = d.id then
              let rows := t.rows ++ [r.vals]
              { t with rows, full := last, due := r.due + 8, out := if last then packParcels d.outType g rows else [] }
            else t
          .next (s.setDrn cc { dn with rows := dn.rows.eraseIdx k, pk := pk })
        | 8 =>
          let et := d.outType
          let b := rowBytesOut et r.vals
          let ks := State.chunksOf cc (d.dest + r.t * (8 * elemBits et)) b.1 b.2 0
          if !d.bundled && s.chunksStall ks then .next s
          else
            let d' := { d with outRows := d.outRows + 1, emitted := if g.on 7 then d.emitted ++ ks.map chunkLeaf else d.emitted }
            let dn := { dn with rows := dn.rows.eraseIdx k, q := dn.q.map fun x => if x.id = d.id then d' else x }
            let s := (s.setDrn cc dn).drainOut cc d ks true
            .next (if d'.outRows = d.rows then s.drainDone cc d' else s)
        | st => .next (step s ((enumFrom0 r.vals).map fun x => stageElem g st [] x.1 x.2))

/-- The Packer emits the next four parcels of its oldest tile, from 8 steps after the tile's last row on; DIGEST adds its two
steps (R74, R189). -/
def execPackerEmit (c : CoreId) (s : State) : Host.Outcome State Fault Refusal :=
  let cc := c.toNat
  let dn := s.drn cc
  match dn.pk with
  | [] => .next s
  | t :: ts =>
    match dn.q.find? fun x => x.id = t.id with
    | none => .next s
    | some d =>
      if !t.full || decide (s.now < t.due + if d.cfg.on 7 then 2 else 0) then .next s
      else
        let now := t.out.take 4
        let rest := t.out.drop 4
        let ks := (enumFrom0 now).flatMap fun x =>
          State.chunksOf cc (t.addr + 32 * x.1) (parcelBytes x.2.data) (List.replicate 32 x.2.poison) x.2.cclass
        if !d.bundled && s.chunksStall ks then .next s
        else
          let d' := { d with emitted := if d.cfg.on 7 then d.emitted ++ ks.map chunkLeaf else d.emitted }
          let pk := if rest.isEmpty then ts else { t with out := rest, addr := t.addr + 128, due := t.due + 1 } :: ts
          let dn := { dn with pk := pk, q := dn.q.map fun x => if x.id = d.id then d' else x }
          let s := (s.setDrn cc dn).drainOut cc d ks true
          .next (if rest.isEmpty then s.drainDone cc d' else s)

end Sys2Proof.Machine
end

