-- ==== Sys2Proof/Machine/SliceOps.lean ====
section
/-! DEFINITION. Requests for memory over the networks: Daypack parcels on their way (R238, R260), the requests of engines and of other modules
and their answers (R251 to R253, R277, R334), and what a landed write or an answered read does at the one who asked for it. -/

namespace Sys2Proof.Machine

/-- The core that a poisoned error of an access is counted at (R42, R289); none for another module's. -/
def Requester.core : Requester → Option Nat
  | .engine c _ _ => some c
  | .merge c _ _ => some c
  | .ctl c _ _ => some c
  | .writer c _ _ => some c
  | .daypack c _ _ => some c
  | _ => none

namespace State

/-- A poisoned error that arises in an access is counted at its requester's core, or at none (R42). -/
def countFor (s : State) (who : Requester) : State :=
  match who.core with
  | some c => s.countPoison c 1
  | none => s.countEdgePoison

/-- A parcel as an engine of core c consumes it: one that does not verify is poisoned and counted there (R41, R42). -/
def consumeAt (s : State) (c : Nat) (p : Parcel) (a : Nat) : State × Parcel :=
  let r := consume p a
  (if r.2 then s.countPoison c 1 else s, r.1)

/-! ## The Daypack path (R238, R260) -/

/-- Router and output that a Daypack parcel for a place leaves the network at; none where this module neither decodes the address nor
knows a route. -/
def dpkExit (s : State) (dest : Nat) : Option (Nat × Nat) :=
  (if dest / 2 ^ 42 ≠ s.ownId then s.awayExit (dest / 2 ^ 42) else placeExit (dest % 2 ^ 42)).map fun x => (x / 8, x % 8)

/-- A Daypack parcel joins an input of a router. -/
def injectDpk (s : State) (plane router input : Nat) (q : DpkParcel) : State :=
  let k := planeKey plane router input
  { s with trail := { s.trail with dpk := Sparse.set [] s.trail.dpk k (Sparse.get [] s.trail.dpk k ++ [q]) } }

/-- The plane that parcel i of a transfer takes: any within the module, planes 2 and 3 to a Guyline port (R250; log 29). -/
def dpkPlane (s : State) (dest i : Nat) : Nat := if dest / 2 ^ 42 = s.ownId then i % 4 else 2 + i % 2

/-- Parcels of a transfer have landed, or have been dropped (R239). -/
def dpkLanded (s : State) (c id n : Nat) : State :=
  s.setDpkq c ((s.dpkq c).map fun d => if d.id = id then { d with landed := d.landed + n } else d)

/-- A parcel of a transfer into its core has landed. -/
def dpkTaken (s : State) (c id i : Nat) (p : Parcel) : State :=
  s.setDpkq c ((s.dpkq c).map fun d => if d.id = id then { d with landed := d.landed + 1, got := d.got ++ [(i, p)] } else d)

/-- A parcel that a Daypack transfer has read starts toward its core, from a router's input and a step on (R238, R252). A transfer that is
no longer outstanding discards it (R245). -/
def dpkFetched (s : State) (c id i src router input avail : Nat) (p : Parcel) : State :=
  match (s.dpkq c).find? fun d => d.id = id with
  | none => s
  | some d =>
    let r := s.consumeAt c p src
    let a := coreAddr c ((d.loc + 32 * i) % 0x40000)
    r.1.injectDpk (if input = 6 then 2 + i % 2 else i % 4) router input
      { dest := globalKey s.ownId a, into := true, core := c, id, i, avail, ask := false, parcel := movedParcel r.2 src a }

/-- Parcel i of a transfer into a core is asked for where it lies: over the Daypack path, or, undecoded, at once poisoned (R208, R238). -/
def dpkAsk (s : State) (c : Nat) (d : Dpk) (i : Nat) : State :=
  let a := (d.gaddr % 2 ^ 42 + 32 * i) % 2 ^ 42
  let module := d.gaddr / 2 ^ 42
  let dest := globalKey module a
  if module = s.ownId && (s.keyOf a).isNone then (s.countPoison c 1).dpkFetched c d.id i a c 4 s.now (poisonedParcel a)
  else match s.dpkExit dest with
    | none => s.countUnroutable
    | some _ => s.injectDpk (s.dpkPlane dest i) c 4
        { dest, into := false, core := c, id := d.id, i, avail := s.now, ask := true, parcel := {} }

/-- Parcel i of a transfer out of a core starts toward its destination; one for an undecoded address is dropped and counted (R208, R238). -/
def dpkPut (s : State) (c : Nat) (d : Dpk) (i : Nat) (p : Parcel) : State :=
  let a := (d.gaddr % 2 ^ 42 + 32 * i) % 2 ^ 42
  let module := d.gaddr / 2 ^ 42
  let dest := globalKey module a
  match s.dpkExit dest with
  | none =>
    if module = s.ownId then (s.countPoison c 1).dpkLanded c d.id 1
    else s.countUnroutable
  | some _ => s.injectDpk (s.dpkPlane dest i) c 4
      { dest, into := false, core := c, id := d.id, i, avail := s.now, ask := false, parcel := movedParcel p (coreAddr c ((d.loc + 32 * i) % 0x40000)) a }

/-- A transfer enters its core's queue and its parcels start (R238, R239). -/
def dpkStart (s : State) (c : Nat) (d : Dpk) : State :=
  let id := (s.cnt c).dpkNo
  let d := { d with id, issued := s.now }
  let s := (s.setCnt c { (s.cnt c) with dpkNo := id + 1 }).setDpkq c (s.dpkq c ++ [d])
  if d.out then d.got.foldl (fun s x => s.dpkPut c d x.1 x.2) s
  else (List.range d.len).foldl (fun s i => s.dpkAsk c d i) s

/-- Another module's answer for a place reaches the oldest transfer of a core that asked for it and has not had it (R238). -/
def dpkAnswer (s : State) (c key router : Nat) (p : Parcel) : State :=
  let pos := fun (d : Dpk) => (List.range d.len).find? fun i =>
    globalKey (d.gaddr / 2 ^ 42) ((d.gaddr % 2 ^ 42 + 32 * i) % 2 ^ 42) = key && !d.back.contains i
  match (s.dpkq c).find? fun d => !d.out && (pos d).isSome with
  | none => s
  | some d =>
    let i := (pos d).getD 0
    let s := s.setDpkq c ((s.dpkq c).map fun x => if x.id = d.id then { x with back := x.back ++ [i] } else x)
    s.dpkFetched c d.id i (key % 2 ^ 42) router 6 s.now p

/-! ## What an access does at the one who asked for it -/

/-- LAST after a parcel has reached an engine: a poisoned one is recorded (R244). -/
def lastAfter (last : BitVec 4) (p : Parcel) : BitVec 4 := if p.poison then 5 else last

/-- The read of an engine has come: every source parcel that waits for it receives it (R211, R244). -/
def engineGot (s : State) (c e rid : Nat) (p : Parcel) : State :=
  let g := s.eng c e
  let fill := fun (f : Flight) =>
    { f with srcs := f.srcs.map fun x => if x.got.isNone && x.rid = rid then { x with got := some p } else x }
  s.setEng c e { g with flight := g.flight.map fill, tile := g.tile.map fill, last := lastAfter g.last p }

/-- A merge of an engine receives the destination's own parcel (R218). -/
def mergeGot (s : State) (c e rid : Nat) (p : Parcel) : State :=
  let g := s.eng c e
  s.setEng c e { g with
    last := lastAfter g.last p,
    cov := g.cov.map fun x =>
      if x.2.old.isNone && x.2.asked.any (fun y => y.1 = rid) then (x.1, { x.2 with old := some p }) else x }

/-- A parcel of a list, a descriptor, an index tensor or an ownership table has come to its engine. -/
def ctlGot (s : State) (c e rid : Nat) (p : Parcel) : State :=
  let g := s.eng c e
  s.setEng c e { g with
    last := lastAfter g.last p,
    ctl := g.ctl.map fun x =>
      (x.1, x.2.map fun y => if y.rid = rid && y.got.isNone then { y with got := some p } else y) }

/-- Does the engine still wait for this read? A reply that it no longer waits for is discarded (R245). -/
def awaits (s : State) : Requester → Bool
  | .engine c e rid => ((s.eng c e).flight ++ (s.eng c e).tile).any fun f => f.srcs.any fun x => x.got.isNone && x.rid = rid
  | .merge c e rid => (s.eng c e).cov.any fun x => x.2.old.isNone && x.2.asked.any fun y => y.1 = rid
  | .ctl c e rid => (s.eng c e).ctl.any fun x => x.2.any fun y => y.rid = rid && y.got.isNone
  | _ => false

/-- An answer within the module reaches the engine that asked, which verifies it (R41, R211). -/
def answerCame (s : State) (r : SReq) (p : Parcel) : State :=
  if !s.awaits r.who then s
  else match r.who with
    | .engine c e rid => let q := s.consumeAt c p r.addr; q.1.engineGot c e rid q.2
    | .merge c e rid => let q := s.consumeAt c p r.addr; q.1.mergeGot c e rid q.2
    | .ctl c e rid => let q := s.consumeAt c p r.addr; q.1.ctlGot c e rid q.2
    | _ => s

/-- READ_DATA reaches an engine: the oldest read of the place that waits takes it, else a merge that waits (R334; log 83). -/
def answeredAway (s : State) (c e key : Nat) (p : Parcel) : State :=
  let g := s.eng c e
  let part := ((g.flight ++ g.tile).flatMap (·.srcs)).find? fun x => x.got.isNone && globalKey x.module x.addr = key
  let q := s.consumeAt c p (key % 2 ^ 42)
  match part with
  | some x => q.1.engineGot c e x.rid q.2
  | none =>
    match g.cov.find? fun x => x.1 = key && x.2.old.isNone && x.2.asked.isSome with
    | some x => q.1.mergeGot c e ((x.2.asked.getD (0, 0)).1) q.2
    | none => s

/-- A packet for another module, or one that crosses this one, leaves from a port's edge router: by that port itself, or over the Trail to
the port of its route, as a transit beat (R333). -/
def fromEdge (s : State) (port plane : Nat) (p : Pkt) : State :=
  match p.flow with
  | .away h =>
    if s.routePort h.dmod = some port then s.portFlit port h (if h.ftype = 2 ∨ h.ftype = 5 then [] else [p.parcel])
    else s.putPkt (planeKey plane (portRouter port) 6) s.now p
  | _ => s.putPkt (planeKey plane (portRouter port) 6) s.now p

/-- A packet for another module leaves a device: Daypack traffic over the Daypack path, the rest over the Trail (R238, R334). -/
def sendAway (s : State) (plane router input avail : Nat) (h : FHead) (p : Parcel) : State :=
  if h.dpk then
    let dest := globalKey h.dmod h.addr
    match s.dpkExit dest with
    | none => s.countUnroutable
    | some _ => s.injectDpk plane router input { dest, into := false, core := h.core, id := 0, i := 0, avail, ask := false, head := some h, parcel := p }
  else if input = 6 then
    match portAtRouter router with
    | some port => s.fromEdge port plane { flow := .away h, addr := h.addr, parcel := p }
    | none => s
  else s.putPkt (sourceKey plane router input) avail { flow := .away h, addr := h.addr, parcel := p }

/-- A write has landed or been dropped: an engine's is pending no longer (R217, R230), and a Daypack transfer counts it (R239); the last parcel of a WRITE flit sends one WRITE_DONE
with their number (R334); a parcel of an input slot goes toward its admission (R421). -/
def wrote (s : State) (who : Requester) : State :=
  match who with
  | .writer c e wid =>
    let g := s.eng c e
    s.setEng c e { g with sent := g.sent.filter fun x => x.2.2 ≠ wid }
  | .daypack c id _ => s.dpkLanded c id 1
  | .slotW ch => s.slotLanded ch
  | .remoteW id =>
    match s.gl.writes.find? fun w => w.id = id with
    | none => s
    | some w =>
      if w.left ≤ 1 then
        let s := { s with gl := { s.gl with writes := s.gl.writes.filter fun x => x.id ≠ id } }
        s.sendAway 2 (portRouter w.port) 6 s.now
          { w.head with ftype := 5, vmask := w.done + 1, dmod := w.head.smod, smod := s.ownId } {}
      else { s with gl := { s.gl with writes := s.gl.writes.map fun x =>
          if x.id = id then { x with done := x.done + 1, left := x.left - 1 } else x } }
  | _ => s

/-- The header of a parcel that answers a READ_REQ (R334). -/
def readData (own : Nat) (h : FHead) (a : Nat) : FHead := { h with ftype := 3, vmask := 1, dmod := h.smod, smod := own, addr := a }

/-- The answer to a read leaves a device's input from a step on; the reader sees the held writes that it may (R227, R252, R277). -/
def answer (s : State) (router input avail : Nat) (r : SReq) (p : Parcel) : State :=
  let p := (s.heldAt r.sees r.addr r.who).getD p
  let k := sourceKey 0 router input
  match r.who with
  | .engine _ _ _ | .merge _ _ _ | .ctl _ _ _ | .slotR _ _ _ => s.putPkt k avail { flow := .answer r, addr := r.addr, parcel := p }
  | .daypack c id i => s.dpkFetched c id i r.addr router input avail p
  | .remote h => s.sendAway (2 + r.addr / 32 % 2) router input avail (readData s.ownId h r.addr) p
  | _ => s

/-- A request reaches a core's store or accumulator memory: a read is answered, a write is merged there (R106, R218, R251). -/
def coreRequest (s : State) (router : Nat) (r : SReq) : State :=
  match s.keyOf r.addr with
  | none => s
  | some k =>
    let old := (s.parcelFor r.sees r.addr r.who).getD {}
    if r.wr then
      let s := if mergeFails old r.addr r.mask then s.countFor r.who else s
      (s.storeParcel r.who k r.addr (r.apply old)).wrote r.who
    else s.answer router 4 s.now r old

/-- A parcel that another module or a Daypack transfer writes, at the device that holds the place: undecoded it is dropped and counted
(R208), in a list range it goes into the hold as a remote write (R227, R334), through a slice it lands there. -/
def writeIn (s : State) (who : Requester) (a : Nat) (p : Parcel) : State :=
  let head : Requester := match who with
    | .remoteW id => (s.gl.writes.find? fun w => w.id = id).elim .nobody fun w => .remote w.head
    | _ => .nobody
  if !s.writable a then (s.countFor who).wrote who
  else if s.inListRange a then (s.putParcelFor head a p).wrote who
  else if isSliced a then s.putParcelFor who a p
  else (s.putParcelFor who a p).wrote who

/-! ## Requests -/

/-- A read request. -/
def readReq (a : Nat) (who : Requester) (sees src : Option Nat) : SReq :=
  { wr := false, addr := a, mask := 0, data := 0, poison := false, cclass := 0, check := none, who, sees, src }

/-- A core's engine asks for a parcel of this module over the Trail (R251, R253). -/
def askFor (s : State) (c a : Nat) (who : Requester) (sees : Option Nat) : State :=
  let k := sourceKey 0 c 4
  s.putPkt k s.now { flow := .request (readReq a who sees (some k)), addr := a, parcel := {} }

/-- A core's engine asks another module for a parcel (R334). -/
def askAway (s : State) (c e module a : Nat) : State :=
  s.putPkt (sourceKey 0 c 4) s.now
    { flow := .away { ftype := 2, vmask := 1, dmod := module, smod := s.ownId, addr := a, core := c, eng := e }, addr := a, parcel := {} }

/-- Two writes of one engine to the same parcel that both still wait at their source, as one: the later nibbles win (R216). -/
def joinWrites (old new : SReq) : SReq :=
  let keep := BitVec.ofNat 256 old.data &&& ~~~(BitVec.ofNat 256 (nibBits new.mask))
  { old with
    mask := old.mask ||| new.mask, data := (keep ||| (BitVec.ofNat 256 new.data &&& BitVec.ofNat 256 (nibBits new.mask))).toNat,
    poison := old.poison || new.poison, cclass := new.cclass, check := if new.mask = fullMask then new.check else none }

/-- Is a waiting beat a write of an engine to a parcel? -/
def writesTo (c e a : Nat) (q : QBeat) : Bool :=
  match q.beat.pkts with
  | [p] => match p.flow with
    | .request r => r.wr && r.addr = a && (match r.who with | .writer c' e' _ => c' = c && e' = e | _ => false)
    | _ => false
  | _ => false

/-- A packet for a write request. -/
def writePkt (r : SReq) : Pkt :=
  { flow := .request r, addr := r.addr,
    parcel := { data := BitVec.ofNat 256 r.data, check := r.check.getD (checkOf (BitVec.ofNat 256 r.data) r.addr), poison := r.poison,
                cclass := r.cclass } }

/-- An engine writes nibbles of a parcel of this module over the Trail, merged where it lies; the write is pending until it lands (R217,
R218). One to a parcel for which an earlier write of the engine still waits at the source goes with it. -/
def writeFor (s : State) (c e a mask data : Nat) (poison : Bool) (cclass : BitVec 3) : State :=
  let k := sourceKey 0 c 4
  let g := s.eng c e
  let r : SReq := { wr := true, addr := a, mask, data, poison, cclass, check := none, who := .writer c e g.nextRid, src := some k }
  if (s.srcAt k).any (writesTo c e a) then
    { s with trail := { s.trail with srcq := Sparse.set [] s.trail.srcq k ((s.srcAt k).map fun q =>
        if writesTo c e a q then
          match q.beat.pkts with
          | [p] => match p.flow with
            | .request o => { q with beat := mkBeat q.beat.dst [writePkt (joinWrites o r)] }
            | _ => q
          | _ => q
        else q) } }
  else
    (s.setEng c e { g with nextRid := g.nextRid + 1, sent := g.sent ++ [(s.now, globalKey s.ownId a, g.nextRid)] }).putPkt k s.now (writePkt r)

end State

end Sys2Proof.Machine
end

