-- ==== Sys2Proof/Machine/Cairn.lean ====
section
/-! DEFINITION. The Cairn network: arrivals, marks, completion and timeouts of barriers (R184, R268, R269), their module-wide form (R339,
R340), what a completed barrier does to those who wait on it, and the closing of a bundle (R197, R198). -/

namespace Sys2Proof.Machine

/-! ## Leaves in order (R369) -/

/-- A leaf put before the first one that follows it in ascending core ID, then leaf number. -/
def insertLeaf (l : Leaf) : List Leaf → List Leaf
  | [] => [l]
  | x :: r => if l.core < x.core ∨ (l.core = x.core ∧ l.no < x.no) then l :: x :: r else x :: insertLeaf l r

/-- OUTPUT_DIGEST of leaves (R369). -/
def outputDigest (ls : List Leaf) : BitVec 256 :=
  Config.sm3 ((ls.foldr insertLeaf []).flatMap fun l => beBytes 32 l.hash.toNat)

/-! ## Halting with a bundle open -/

/-- What remains of a bundle once it is closed: its counters and sticky bits. -/
def Bnd.closed (b : Bnd) : Bnd :=
  { b with isOpen := false, acts := [], parcels := 0, cause := 0 }

namespace State

/-- The engines whose queue place a bundle's actions hold. -/
def bundleEngines (b : Bnd) : List Nat := b.acts.filterMap fun a => match a with | .arm e true => some e | _ => none

/-- The queue places of a bundle are free again (R229). -/
def freeReserved (s : State) (c : Nat) : State :=
  (bundleEngines (s.bnd c)).foldl (fun s e => s.setEng c e { (s.eng c e) with reserved := none }) s

/-- A core halts in state 4; a bundle left open takes no effect (R184, R196). -/
def haltMarked (s : State) (c : Nat) : State :=
  let s := s.freeReserved c
  (s.setBnd c (s.bnd c).closed).haltCore c 4

/-! ## The fence (R180) -/

/-- Have all WLD, PASS, DRAIN, vector, CHAIN, DPK and STS that this core has issued completed, with their output written (R180)? -/
def fenced (s : State) (c : Nat) : Bool :=
  let a := s.arr c
  let v := s.vec c
  a.load.isNone && a.rows.isEmpty && a.passes.isEmpty && a.live.isEmpty &&
    ((s.acc c).groups.all fun g => g.landing.isEmpty && g.work.isEmpty) &&
    (s.drn c).q.isEmpty && v.q.isEmpty && v.leaves.isEmpty && (s.dpkq c).isEmpty && (s.bnd c).late.isEmpty

/-! ## What a bundle does at its vote (R194, R197, R198) -/

/-- 0x6030.00 BUNDLE_POISON_COMMIT. -/
def poisonCommit (s : State) : Bool := (s.dictVal 0x603000 [0]).any fun b => decide (b ≠ 0)

/-- An engine starts the arm in its reserved place, or queues it there behind its predecessor; the bundle holds the place no longer (R229,
R232). -/
def releaseArm (s : State) (c e : Nat) : State :=
  let g := s.eng c e
  match g.reserved with
  | none => s
  | some a =>
    if g.active.isNone then s.setEng c e { g with active := some a, reserved := none }
    else s.setEng c e { g with queued := some { a with bundled := true }, reserved := none }

/-- A transfer out of a core with the parcels it has read (R238). -/
def outDpk (s : State) (gaddr loc : Nat) (ps : List Parcel) : Dpk :=
  { out := true, loc, gaddr, len := ps.length, issued := s.now, id := 0, got := enumFrom0 ps, landed := 0, back := [] }

/-- A committed transfer enters the Daypack queue, or waits for a place in it (R198, R239). -/
def lateDpk (s : State) (c gaddr loc : Nat) (ps : List Parcel) : State :=
  let b := s.bnd c
  if (s.dpkq c).length < 32 && b.late.isEmpty then s.dpkStart c (s.outDpk gaddr loc ps)
  else s.setBnd c { b with late := b.late ++ [(gaddr, loc, ps)] }

/-- One action takes effect at commit (R198 step 4). -/
def applyAct (s : State) (c : Nat) (a : BAct) : State :=
  match a with
  | .sts addr v => s.storeLocal c addr v
  | .drain _ outs _ leafCh leaf =>
    let s := s.writeChunks c outs
    match leafCh with
    | some ch => s.makeLeaf c ch leaf
    | none => s
  | .dpk gaddr loc ps => s.lateDpk c gaddr loc ps
  | .arm e held => if held then s.releaseArm c e else s

/-- The bundle of a core is decided: on commit its actions apply in program order; on abort nothing does (R196, R198). The status is
kept for the second barrier, and the counters of BND_STAT take it. -/
def decideBundle (s : State) (c : Nat) (commit poisoned timedOut : Bool) : State :=
  let b := s.bnd c
  let cause := (if timedOut then b.cause ||| causeTimeout else b.cause)
  let cause := if poisoned then cause &&& ~~~causePoison else cause
  let status : W16 := if commit then (if poisoned then 0x0600 else 0) else (lowestCause cause).getD 0x0609
  let s := if commit then b.acts.foldl (fun s a => s.applyAct c a) s
    else { s.freeReserved c with sums := { s.sums with bundleAbort := s.sums.bundleAbort + 1 } }
  s.setBnd c { (s.bnd c) with
    acts := [], parcels := 0, status,
    commits := if commit then b.commits + 1 else b.commits,
    aborts := if commit then b.aborts else b.aborts + 1,
    lastCause := if status = 0 then b.lastCause else status.truncate 4,
    pcommit := b.pcommit || (commit && poisoned) }

/-- RD receives the status and the bundle is closed (R198 step 6). -/
def closeBundle (s : State) (c : Nat) (rd : BitVec 4) : State :=
  let s := s.setReg c rd ((s.bnd c).status.zeroExtend 64)
  s.setBnd c (s.bnd c).closed

/-! ## Completion -/

/-- A core goes on at the instruction after the one that waited, which issues in this step (R268). -/
def resume (s : State) (c : Nat) : State :=
  let s := s.setSeq c { (s.seq c) with wait := .none }
  s.goTo c ((s.seq c).pc.toNat + 1) 0

/-- A core halts at a completion with a mark; a timeout is fault 6 at the instruction that arrived (R184, R200, R269). -/
def haltAtBarrier (s : State) (c : Nat) (pc : BitVec 12) (timedOut : Bool) : State :=
  (if timedOut then s.coreFault c 6 pc else s).haltMarked c

/-- May these votes commit (R197)? Of the poison of the voters here, all must have opened with PWP and the policy must allow it. -/
def voteCommits (s : State) (voters : List Nat) (marked : Bool) : Bool × Bool :=
  let poisoned := voters.any fun c => (s.bnd c).cause &&& causePoison ≠ 0
  let allowed := s.poisonCommit && voters.all fun c => (s.bnd c).pwp
  (!marked && (!poisoned || allowed) && voters.all (fun c => (s.bnd c).cause &&& ~~~causePoison = 0), poisoned && allowed)

/-- Does a core wait in the vote of this channel? -/
def votes (s : State) (ch : BitVec 4) (c : Nat) : Bool :=
  match (s.seq c).wait with
  | .vote k _ => k = ch
  | _ => false

/-- Does a core wait for the second barrier of a bundle on this channel? -/
def lands (s : State) (ch : BitVec 4) (c : Nat) : Bool :=
  match (s.seq c).wait with
  | .landed k _ => k = ch
  | _ => false

/-- A participant that has arrived meets the completion: CBAR goes on, a vote is decided and then waits for the second barrier, and that
one gives RD its status; with a mark every one of them halts, one that arrived by CSIG included (R184, R198, R268). A core that arrived by
CSIG and now waits in a vote on the channel votes in the next barrier, not in this one (R180, R198). -/
def completeOne (s : State) (ch : BitVec 4) (halting timedOut : Bool) (vote : Bool × Bool) (a : Arrival) : State :=
  let c := a.core
  match (s.seq c).wait with
  | .barrier k =>
    if k = ch then (if halting then s.haltAtBarrier c a.pc timedOut else s.resume c)
    else if halting then s.haltAtBarrier c a.pc timedOut else s
  | .vote k rd =>
    if k = ch ∧ a.csig = false then
      let s := s.decideBundle c vote.1 vote.2 timedOut
      if halting then (s.closeBundle c rd).haltAtBarrier c a.pc timedOut
      else s.setSeq c { (s.seq c) with wait := .landed ch rd }
    else if halting then s.haltAtBarrier c a.pc timedOut else s
  | .landed k rd =>
    if k = ch ∧ a.csig = false then
      if halting then (s.closeBundle c rd).haltAtBarrier c a.pc timedOut else (s.closeBundle c rd).resume c
    else if halting then s.haltAtBarrier c a.pc timedOut else s
  | _ => if halting && ((s.seq c).st = 1 || (s.seq c).st = 2) then s.haltAtBarrier c a.pc timedOut else s

/-- A barrier on the phase channel completes: the next phase's tables start 256 steps on (R258), and channel 15 closes into TRAIN_STATE,
which stays while the Logbook is off (R370, R481). -/
def phaseBarrier (s : State) : State :=
  let t := s.trail
  let n := if t.phase + 1 < t.phases.length then t.phase + 1 else t.loopIdx
  let trail := if t.phases.isEmpty then t else
    { t with phase := n, nextSet := t.phases.getD n 0, holdUntil := some (s.now + 256) }
  let log := s.log
  let train := if log.trainLeaves.isEmpty || s.logMode = 0 then log.train
    else Config.sm3 (beBytes 32 log.train.toNat ++ beBytes 32 (outputDigest log.trainLeaves).toNat)
  { s with trail, log := { log with train, trainLeaves := [] } }

/-! ## Arrivals -/

/-- Is this the root of a module-wide channel, and which ports lead to its children (R338)? -/
def mwOn (k : CairnCh) : Bool := k.mw.getLsbD 0
def mwParent (k : CairnCh) : Option Nat := let p := bitsOf k.mw.toNat 15 12; if p = 15 then none else some p
def mwChildren (k : CairnCh) : List Nat := (List.range 12).filter fun p => bitOf k.mw.toNat (16 + p)
def mwLead (k : CairnCh) : Nat := bitsOf k.mw.toNat 63 32

/-- The fields of ARRIVE and RELEASE (R335); a stop mark crosses as FAULT (log 27). -/
def barrierFields (ch : BitVec 4) (fault abort : Bool) (gen : W16) (step : Nat) : Nat :=
  ch.toNat * 2 ^ 236 + (if fault then 2 ^ 235 else 0) + (if abort then 2 ^ 234 else 0) + gen.toNat * 2 ^ 218 + step % 2 ^ 64 * 2 ^ 154

/-- ARRIVE to the parent, RELEASE to every child (R339, R340). -/
def sendArrive (s : State) (ch : BitVec 4) (k : CairnCh) : State :=
  match mwParent k with
  | none => s
  | some p => s.sendSym p 0x10 (barrierFields ch (k.fault || k.stop) k.abort k.gen 0)

def sendRelease (s : State) (ch : BitVec 4) (k : CairnCh) (step : Nat) : State :=
  (mwChildren k).foldl (fun s p => s.sendSym p 0x11 (barrierFields ch (k.fault || k.stop) k.abort k.gen step)) s

/-- Have all participants arrived? -/
def allArrived (k : CairnCh) : Bool := k.parts.all fun c => k.arrived.any fun a => a.core = c

/-- A module-wide barrier whose local participants and children have all arrived goes up, or, at the root, is released at its step
counter + LEAD (R339 steps 1 and 2). -/
def mwProgress (s : State) (ch : BitVec 4) : State :=
  let k := s.cairnCh ch.toNat
  if mwOn k && !k.sentUp && k.release.isNone && k.due.isNone && allArrived k &&
      (mwChildren k).all (fun p => k.childArr.contains p) && (k.first.isSome || k.parts.isEmpty) then
    match mwParent k with
    | none =>
      let at_ := s.now + mwLead k
      (s.setCairn ch.toNat { k with sentUp := true, release := some at_ }).sendRelease ch k at_
    | some _ => (s.setCairn ch.toNat { k with sentUp := true }).sendArrive ch k
  else s

/-- An arrival joins the current barrier, or, from a participant that is already on it, the next one, except for a CBAR after its own CSIG
and for marks, which act at once (R180, R184, R268; log 27). -/
def joinBarrier (s : State) (ch : BitVec 4) (a : Arrival) : State :=
  let k := s.cairnCh ch.toNat
  let marked := a.fault || a.stop
  let on := k.arrived.any fun x => x.core = a.core
  if on && !marked && !a.cbar then s.setCairn ch.toNat { k with early := k.early ++ [a] }
  else
    let k := { k with
      fault := k.fault || a.fault, stop := k.stop || a.stop, abort := k.abort || a.abort,
      arrived := if on then k.arrived else k.arrived ++ [a],
      first := some (k.first.getD a.at_) }
    let k := { k with
      due := if k.due.isSome then k.due
             else if marked || (!mwOn k && allArrived k) then some (a.at_ + 48) else none }
    (s.setCairn ch.toNat k).mwProgress ch

/-- An ARRIVE of a child joins the current barrier; its fault mark makes the module complete at once (R339, R340). -/
def childMark (s : State) (ch : BitVec 4) (p : Nat) (fault abort : Bool) : State :=
  let k := s.cairnCh ch.toNat
  (s.setCairn ch.toNat { k with
    childArr := if k.childArr.contains p then k.childArr else k.childArr ++ [p],
    fault := k.fault || fault, abort := k.abort || abort,
    due := if fault then some s.now else k.due }).mwProgress ch

/-- The barrier of a channel completes with its marks at every participant that has arrived; one that has not completes at once when it
arrives, if there is a halting mark. Arrivals for the next barrier then join it (R184, R268, R269). -/
def completeBarrier (s : State) (ch : BitVec 4) (timedOut : Bool) : State :=
  let k := s.cairnCh ch.toNat
  let halting := k.fault || k.stop || timedOut
  let s := s.setCairn ch.toNat { CairnCh.reset with
    parts := k.parts, timeout := k.timeout, phase := k.phase, mw := k.mw, gen := k.gen + 1,
    fault := halting && k.fault, stop := halting && k.stop, dead := halting && !allArrived k, timedOut := timedOut }
  let voters := ((k.arrived.filter fun a => !a.csig).map (·.core)).filter (s.votes ch)
  let vote := s.voteCommits voters (halting || k.abort)
  let s := k.arrived.foldl (fun s a => s.completeOne ch halting timedOut vote
    a) s
  let s := if k.phase then s.phaseBarrier else s
  let s := k.childEarly.foldl (fun s x => s.childMark ch x.1 x.2.1 x.2.2) s
  let joined := if halting then [] else k.early
  joined.foldl (fun s a => s.joinBarrier ch a) s

/-- Has every participant arrived, and every child? -/
def complete (k : CairnCh) : Bool := allArrived k && (!mwOn k || (mwChildren k).all fun p => k.childArr.contains p)

/-- Has the Cairn counter of the current barrier reached TIMEOUT with the barrier still open: no completion step is fixed, or a mark has
fixed one after TIMEOUT while participants are missing (R268, R269)? -/
def timeoutDue (s : State) (ch : BitVec 4) : Bool :=
  let k := s.cairnCh ch.toNat
  match k.first with
  | none => false
  | some f =>
    decide (k.timeout ≠ 0 ∧ f + k.timeout ≤ s.now) && k.release.isNone &&
      k.due.elim true fun d => !complete k && decide (f + k.timeout < d)

/-- The barrier completes by its timeout; a module-wide one sends the fault up and down (R269, R340). -/
def timeoutBarrier (s : State) (ch : BitVec 4) : State :=
  let k := { (s.cairnCh ch.toNat) with fault := true }
  let s := s.setCairn ch.toNat k
  let s := if mwOn k then (s.sendArrive ch k).sendRelease ch k s.now else s
  s.completeBarrier ch true

/-- A core arrives on a channel. An arrival at or after first arrival + TIMEOUT is late, and one on a channel that completed with a mark
completes at once with it and halts (R184, R269). -/
def arrive (s : State) (ch : BitVec 4) (a : Arrival) : State :=
  let s := if s.timeoutDue ch && !((s.cairnCh ch.toNat).arrived.any fun x => x.core = a.core) then s.timeoutBarrier ch else s
  let k := s.cairnCh ch.toNat
  if k.dead then s.completeOne ch true k.timedOut (false, false) a else s.joinBarrier ch a

/-- A core in the second barrier of its bundle arrives once every remote write it commits has landed (R198 step 5). -/
def landArrive (s : State) (c : Nat) : State :=
  match (s.seq c).wait with
  | .landed ch _ =>
    if (s.dpkq c).any (·.out) || !(s.bnd c).late.isEmpty || ((s.cairnCh ch.toNat).arrived.any fun x => x.core = c) then s
    else s.arrive ch { core := c, at_ := s.now, pc := s.pcOf c, csig := false, cbar := false, fault := false, stop := false, abort := false }
  | _ => s

/-- The landing arrivals of the cores that have just applied or aborted their bundles. -/
def landAll (s : State) (cs : List Nat) : State := cs.foldl (fun s c => s.landArrive c) s

end State

/-- Is the barrier of a channel due: the 48 steps of R268, or the release step of R339? -/
def State.barrierDue (s : State) (ch : BitVec 4) : Bool :=
  let k := s.cairnCh ch.toNat
  let at_ := if State.mwOn k then k.release else k.due
  match at_ with
  | some t => decide (t ≤ s.now)
  | none => false

/-- Do participants of the current barrier wait in a vote, or for the second barrier? -/
def State.anyVotes (s : State) (ch : BitVec 4) : Bool := (s.cairnCh ch.toNat).arrived.any fun a => !a.csig && s.votes ch a.core
def State.anyLands (s : State) (ch : BitVec 4) : Bool := (s.cairnCh ch.toNat).arrived.any fun a => !a.csig && s.lands ch a.core

/-- The completion of a barrier, and then the arrivals of those whose bundle writes have landed already. -/
def State.finishBarrier (s : State) (ch : BitVec 4) : State :=
  let cs := (s.cairnCh ch.toNat).arrived.map (·.core)
  (s.completeBarrier ch false).landAll cs

/-! ## Rows -/

/-- A local barrier with no bundle in it completes (R268). -/
def execCairnBarrierComplete (ch : BitVec 4) (s : State) : Host.Outcome State Fault Refusal :=
  if !State.mwOn (s.cairnCh ch.toNat) && s.barrierDue ch && !s.anyVotes ch && !s.anyLands ch then .next (s.finishBarrier ch)
  else .next s

/-- A channel's Cairn counter reaches TIMEOUT (R269). -/
def execCairnTimeout (ch : BitVec 4) (s : State) : Host.Outcome State Fault Refusal :=
  if !State.mwOn (s.cairnCh ch.toNat) && s.timeoutDue ch then .next (s.timeoutBarrier ch) else .next s

/-- The vote barrier of a bundle completes, and on commit each participant applies its actions (R198 steps 3 and 4). -/
def execBundleVoteComplete (ch : BitVec 4) (s : State) : Host.Outcome State Fault Refusal :=
  if s.barrierDue ch && s.anyVotes ch then .next (s.finishBarrier ch) else .next s

/-- The second barrier of a bundle completes and RD receives the status (R198 steps 5 and 6). -/
def execBundleWritesLanded (ch : BitVec 4) (s : State) : Host.Outcome State Fault Refusal :=
  if s.barrierDue ch && s.anyLands ch && !s.anyVotes ch then .next (s.finishBarrier ch) else .next s

/-- A module-wide barrier completes at its release step (R339). -/
def execModuleWideComplete (ch : BitVec 4) (s : State) : Host.Outcome State Fault Refusal :=
  if State.mwOn (s.cairnCh ch.toNat) && s.barrierDue ch && !s.anyVotes ch && !s.anyLands ch then .next (s.finishBarrier ch)
  else .next s

/-- A module-wide barrier times out, or 48 steps have passed since a marked arrival: it completes locally with the marks, which go up and
down (R340). -/
def execModuleWideTimeout (ch : BitVec 4) (s : State) : Host.Outcome State Fault Refusal :=
  let k := s.cairnCh ch.toNat
  if !State.mwOn k then .next s
  else if s.timeoutDue ch then .next (s.timeoutBarrier ch)
  else
    match k.due with
    | some t => if t ≤ s.now then .next (((s.sendArrive ch k).sendRelease ch k s.now).completeBarrier ch false) else .next s
    | none => .next s

/-! ## The instructions -/

/-- The arrival of a core's current instruction, with the marks of R184. -/
def State.arrival (s : State) (c : Nat) (csig cbar abort : Bool) : Arrival :=
  let q := s.seq c
  { core := c, at_ := s.now, pc := q.pc, csig, cbar, fault := q.fValid, stop := q.stop, abort }

/-- A CBAR or CSIG on the channel of an open bundle is cause NESTED (R197). -/
def State.nestedOn (s : State) (c : Nat) (ch : BitVec 4) : State :=
  if (s.bnd c).isOpen && (s.bnd c).ch = ch then s.bundleCause c causeNested else s

/-- CBAR: fences, arrives unless its own CSIG has, and waits for the barrier (R180). -/
def execCbar (c : CoreId) (ch : BitVec 4) (s : State) : Host.Outcome State Fault Refusal :=
  let k := c.toNat
  let t := s.nestedOn k ch
  let t := t.setSeq k { (t.seq k) with wait := .barrier ch, st := 2 }
  s.issueTo c (.cbar c ch) (s.fenced k) (t.arrive ch (s.arrival k false true false))

/-- CSIG: fences, arrives and continues at once; with a mark the core halts there (R180, R184). -/
def execCsig (c : CoreId) (ch : BitVec 4) (s : State) : Host.Outcome State Fault Refusal :=
  let k := c.toNat
  let a := s.arrival k true false false
  let t := s.nestedOn k ch
  let marked := a.fault || a.stop
  let t := if marked then t.setSeq k { (t.seq k) with wait := .barrier ch, st := 2 } else t.advance k
  s.issueTo c (.csig c ch) (s.fenced k) (t.arrive ch a)

/-- BOPEN opens a bundle; with one open it is cause NESTED (R194, R197). -/
def execBopen (c : CoreId) (pwp : Bool) (ch : BitVec 4) (s : State) : Host.Outcome State Fault Refusal :=
  let k := c.toNat
  let b := s.bnd k
  let t := if b.isOpen then s.bundleCause k causeNested
    else s.setBnd k { b with isOpen := true, ch, pwp, acts := [], parcels := 0, cause := 0, status := 0 }
  s.issue c (.bopen c pwp ch) true t

/-- Has every bundled DRAIN emitted its last parcel (R198 step 1)? -/
def Bnd.drained (b : Bnd) : Bool := b.acts.all fun a => match a with | .drain _ _ fin _ _ => fin | _ => true

/-- The vote of BCOMMIT and BABORT. With no bundle open RD receives 0x0608, and a core with a recorded fault or stopped halts (R184,
R198). -/
def State.closeVote (s : State) (c : CoreId) (i : Instr) (rd : BitVec 4) (explicit : W16) : Host.Outcome State Fault Refusal :=
  let k := c.toNat
  let q := s.seq k
  let b := s.bnd k
  if b.isOpen then
    let cause := b.cause ||| explicit ||| if q.fValid then causeFault else 0
    let own := cause &&& ~~~causePoison ≠ 0 || (cause &&& causePoison ≠ 0 && !(b.pwp && s.poisonCommit))
    let t := s.setBnd k { b with cause }
    let t := t.setSeq k { q with wait := .vote b.ch rd, st := 2 }
    s.issueTo c i b.drained (t.arrive b.ch (s.arrival k false false own))
  else
    let t := (s.setReg k rd 0x0608).setBnd k { b with lastCause := 8 }
    s.issueTo c i true (if q.fValid || q.stop then t.haltMarked k else t.advance k)

/-- BCOMMIT (R198). -/
def execBcommit (c : CoreId) (rd : BitVec 4) (s : State) : Host.Outcome State Fault Refusal := s.closeVote c (.bcommit c rd) rd 0

/-- BABORT (R198). -/
def execBabort (c : CoreId) (rd : BitVec 4) (s : State) : Host.Outcome State Fault Refusal :=
  s.closeVote c (.babort c rd) rd causeExplicit

end Sys2Proof.Machine
end

