-- ==== Sys2Proof/Machine/PackHalt.lean ====
section
/-! DEFINITION. The module pack halt (R231, R306), the writing back of the slices (R278), the loss of the fabric's state at a reset (R469)
and the response to a module-fatal error (R474, R475). -/

namespace Sys2Proof.Machine

namespace State

/-! ## Writing back (R278) -/

/-- A parcel stored at an address as its LPDDR6 controller stores it, with MCHK (R281), or in a slice's scratch. flip names the bits of the
288-bit burst that are damaged on the way in (R290): data, then sideband, then MCHK. -/
def chanStore (s : State) (k a : Nat) (p : Parcel) (flip : BitVec 288) : State :=
  let d := (if p.poison then 0 else p.data) ^^^ flip.truncate 256
  let side := (p.check.toNat + 65536 * (if p.poison then 1 else 0) + 131072 * p.cclass.toNat) ^^^ bitsOf flip.toNat 275 256
  let sd : Side :=
    { poison := bitOf side 16, cclass := BitVec.ofNat 3 (bitsOf side 19 17), check := some (BitVec.ofNat 16 side),
      mchk := if isLpddr a then some (mchkOf p a ^^^ BitVec.ofNat 12 (bitsOf flip.toNat 287 276)) else none }
  s.setMem ((s.mem.setBytes k (parcelBytes d)).setSide k sd)

/-- A write of a slice that has reached its channel goes into memory as it stands. -/
def storeReq (s : State) (m : MReq) : State :=
  if !m.wr then s
  else match m.req with
    | some r => match s.keyOf r.addr with
      | some k => s.chanStore k r.addr (r.apply (s.mem.parcel k r.addr)) 0
      | none => s
    | none => (enumFrom0 m.ps).foldl (fun s p =>
        let a := m.addr + 32 * p.1
        match s.keyOf a with
        | some k => s.chanStore k a p.2 0
        | none => s) s

/-- A slice's write-backs on their way, then its dirty lines, and then the writes that wait at it, reach memory; its lines stay, clean
(R278). -/
def flushSlice (s : State) (k : Nat) : State :=
  let sl := s.sliceAt k
  let s := sl.wb.foldl (fun s m => s.storeReq m) s
  let dirty := sl.lines.filter fun x => x.2.dirty
  let s := dirty.foldl (fun s x => (enumFrom0 x.2.ps).foldl (fun s p =>
    let a := x.2.tag * 256 + 32 * p.1
    match s.keyOf a with
    | some key => s.chanStore key a p.2 0
    | none => s) s) s
  let s := (sl.waiting ++ sl.inq).foldl (fun s r =>
    if !r.wr then s
    else match s.keyOf r.addr with
      | some key => (s.chanStore key r.addr (r.apply (s.mem.parcel key r.addr)) 0).wrote r.who
      | none => s.wrote r.who) s
  let s := { s with sliceWb := s.sliceWb + dirty.length }
  s.setSlice k { sl with
    lines := sl.lines.map fun x => (x.1, { x.2 with dirty := false }), wb := [],
    inq := sl.inq.filter fun r => !r.wr, waiting := sl.waiting.filter fun r => !r.wr }

/-- Is a beat a write of a slice on its way to a channel? -/
def isWriteBack (b : Beat) : Bool := b.pkts.any fun p => match p.flow with | .toChan m => m.wr | _ => false

/-- Every dirty slice line is written back, with the write-backs on their way and at the channels (R278). -/
def flushSlices (s : State) : State :=
  let s := s.slices.foldl (fun s x => s.flushSlice x.1) s
  let keep := fun (q : List QBeat) => q.filter fun x => !isWriteBack x.beat
  { s with
    mm := { s.mm with chans := s.mm.chans.map fun x =>
      (x.1, { x.2 with wait := x.2.wait.filter fun m => !m.wr, granted := x.2.granted.filter fun m => !m.wr }) },
    trail := { s.trail with
      srcq := s.trail.srcq.map fun x => (x.1, keep x.2), beats := s.trail.beats.map fun x => (x.1, keep x.2),
      transit := s.trail.transit.filter fun x => !isWriteBack x.2.2 } }

/-! ## Pack halt -/

/-- Every engine stops at the end of its current entry; queued arms are discarded (R231). -/
def Eng.stopAtEntry (g : Eng) : Eng :=
  { g with queued := none, reserved := none, active := g.active.map fun a => { a with ended := true } }

/-- Every core of the pack that runs or waits at issue shows state 4, with its bundle gone; the engines stop (R200, R231). -/
def stopCores (s : State) : State :=
  let s := s.cores.seq.foldl (fun s x =>
    if x.2.st = 1 ∨ x.2.st = 2 then
      let b := s.bnd x.1
      (s.setBnd x.1 b.closed).setSeq x.1 { x.2 with st := 4, wait := .none }
    else s) s
  s.cores.eng.foldl (fun s x => s.setEng (x.1 / 8) (x.1 % 8) (Eng.stopAtEntry x.2)) s

/-- What a port remembers of a start: none of its children is ready for the next one (R345). -/
def unready (s : State) : State :=
  { s with gl := { s.gl with ports := s.gl.ports.map fun x => (x.1, { x.2 with ready := false }) } }

/-- A pack halt: the cores and engines stop, dirty lines are written back, open results are discarded, PACK_STATE is HALTED (R231,
R278, R306, R368). -/
def haltPack (s : State) : State :=
  let s := ((s.stopCores).flushSlices).unready
  ({ s with pack := { s.pack with state := .halted }, rng := { s.rng with packFatalAt := none } }).discardOpen

/-! ## Reset of the fabric -/

/-- The Whistle after its state is lost: Basecamp sends a control-block read that has not been answered once more (DESIGN CHOICE, log 98). -/
def reask (s : State) : State :=
  match s.rng.store with
  | some (.coreRead c (off :: _) _ _ _, _) => s.askCore c off
  | _ => s

/-- The state of domains D2 to D41 is lost: cores, networks, Cairn, work counters, slices, on-chip memory, and the counters that a fabric
reset clears. Flits in flight are discarded; ports stay up (R323, R469). -/
def fabricLost (s : State) : State :=
  reask { s with
    cores := { seq := s.cores.seq.filterMap fun x =>
                 if x.2.isolate || decide (x.2.st = (5 : BitVec 3)) then some (x.1, { Seq.reset with isolate := x.2.isolate, st := if x.2.st = (5 : BitVec 3) then 5 else 0 })
                 else none,
               arr := [], acc := [], drn := [], vec := [], bnd := [], cnt := [], eng := [], dpk := [] },
    ctrs := [], holdq := [], trail := .reset, whistle := .reset, cairn := [],
    slices := [], sliceMiss := 0, sliceWb := 0, sums := {},
    mem := s.mem.wipe 0x010000000000 0x021020000000,
    mm := { s.mm with chans := s.mm.chans.map fun x => (x.1, { x.2 with used := [0, 0, 0], wait := [], granted := [] }) },
    gl := { s.gl with
      writes := [], ports := s.gl.ports.map fun x =>
        (x.1, { x.2 with txq := [], dpkTxq := [], cur := [], curDpk := [], rxq := [], edge := [], lastEdge := none, ready := false }) } }

/-- Domains lo to hi are put in a state: 0 off, 1 retention, 2 on (R390). -/
def setDomains (s : State) (lo hi v : Nat) : State :=
  { s with pwr := { s.pwr with domains := (enumFrom0 s.pwr.domains).map fun x => if lo ≤ x.1 ∧ x.1 ≤ hi then v else x.2 } }

/-- The module is degraded: D2 to D41 stay off, with the LPDDR6 contents lost, and ALERT_N is asserted (R475). -/
def degrade (s : State) : State :=
  let s := (s.setDomains 2 41 0).alert .degraded
  { s with
    mem := s.mem.wipe 0 0x8000000000, wimg := { s.wimg with hash := 0, state := 0 }, rng := { s.rng with degraded := true, fabReset := false } }

/-- A module-fatal error: the fabric stops with nothing written back, open results are discarded, and the fabric is reset; a second one
of the same cause within 600 s leaves the module degraded (R474, R475, R476). A thermal trip follows R395 in its own command. -/
def moduleFatal (s : State) (cause : Fatal) : State :=
  let again := s.rng.fatals.any fun x => x.1 = cause && decide (s.nowMs < x.2 + 600000)
  let s := ((s.discardOpen).fabricLost).alert .moduleFatal
  let s := { s with
    pack := { s.pack with state := if s.pack.state = PackState.running then PackState.halted else s.pack.state },
    rng := { s.rng with fatals := s.rng.fatals ++ [(cause, s.nowMs)], packFatalAt := none } }
  if again || s.rng.degraded then s.degrade
  else
    let s := (s.setDomains 2 37 0).setDomains 38 41 1
    { s with rng := { s.rng with fabReset := true } }

/-- A channel has failed: its bit is set and the error is module-fatal (R291). -/
def failChannel (s : State) (ch : Nat) : State :=
  let c := s.chan ch
  let s := s.setChan ch { c with failed := true, badRun := 0 }
  ({ s with mm := { s.mm with failMap := s.mm.failMap ||| (1 : BitVec 256) <<< ch } }).moduleFatal .channel

/-- A pack-fatal error reaches Ranger: on the first notice ALERT_N is asserted, and the halt is due 1,048,576 steps later, or at once where
every core has halted already (R472). -/
def packFatalNotice (s : State) : State :=
  let due := if s.pack.state = .halted then s.now else s.now + 1048576
  if s.pack.state = .running || (s.pack.state = .halted && !s.rng.alerts.contains .packFatal) then
    let s := s.alert .packFatal
    if s.rng.packFatalAt.isSome then s else { s with rng := { s.rng with packFatalAt := some due } }
  else s

end State

end Sys2Proof.Machine
end

