-- ==== Sys2Proof/Machine/Slices.lean ====
section
/-! DEFINITION. The shared slices (R274 to R277), the bandwidth regulator (R234 to R237) and the LPDDR6 channels with their organisation,
errors, refresh, scrub and training (R280 to R282, R288 to R295). -/

namespace Sys2Proof.Machine

/-- RATE of R382, in kstep/s. -/
def rateOf (target d : Nat) : Nat := max 400000 (target * (50 - d) / 50)

/-- RATE in force. -/
def State.rate (s : State) : Nat := rateOf s.pace.target s.pace.level

/-! ## Slices -/

/-- The regulator's class of a request (R234): remote requests and those of the service path (R419) are Remote, other writes Write and other reads Read. -/
def Requester.cls (w : Requester) (wr : Bool) : Nat :=
  match w with
  | .remote _ => 2
  | .remoteW _ => 2
  | .slotW _ => 2
  | .slotR _ _ _ => 2
  | _ => if wr then 1 else 0

namespace State

/-- A request of a slice goes to its channel, after those before it; a write is kept until it has been written (R274, R275). -/
def chanReq (s : State) (m : MReq) : State :=
  let sl := s.sliceAt m.slice
  let s := if m.wr then s.setSlice m.slice { sl with wb := sl.wb ++ [m] } else s
  s.putPkt (sourceKey 0 (sliceRouter m.slice) 5) s.now { flow := .toChan m, addr := m.addr, parcel := {} }

/-- Both halves of a line are asked for, or written back. -/
def chanLine (s : State) (k line cls : Nat) (wr : Bool) (ps : List Parcel) : State :=
  let half := fun (h : Nat) =>
    ({ cls, wr, addr := line * 256 + 128 * h, n := 4, ch := s.chanOf (line * 256), slice := k, req := none,
       ps := (ps.drop (4 * h)).take 4 } : MReq)
  (s.chanReq (half 0)).chanReq (half 1)

/-- A way of the set of a line is made free for it: an invalid way, else the least recently used, whose line is written back when it is
dirty (R275). -/
def allocLine (s : State) (k line : Nat) (ps : List Parcel) : State :=
  let sl := s.sliceAt k
  let keys := (List.range s.cacheWays).map fun w => homeSet line * 16 + w
  let at_ := fun i => Sparse.get Line.invalid sl.lines i
  let victim := keys.foldl (fun (b : Nat) i =>
    if (at_ b).ps.isEmpty then b
    else if (at_ i).ps.isEmpty || decide ((at_ i).used < (at_ b).used) then i else b) (homeSet line * 16)
  let old := at_ victim
  let s := if old.dirty then ({ s with sliceWb := s.sliceWb + 1 }).chanLine k old.tag 1 true old.ps else s
  let sl := s.sliceAt k
  s.setSlice k { sl with
    clock := sl.clock + 1,
    lines := Sparse.set Line.invalid sl.lines victim { tag := line, dirty := false, ps, used := sl.clock + 1 } }

/-- A write that a slice takes: a merge into a parcel that does not verify counts, and the writer learns that it has landed (R41, R218,
R230). -/
def wroteAt (s : State) (r : SReq) (old : Parcel) : State :=
  (if mergeFails old r.addr r.mask then s.countFor r.who else s).wrote r.who

/-- A request at a line that the cache holds: a write changes it, a read is answered from a step on; either is its latest use (R252, R275,
R276). -/
def serveLine (s : State) (k w avail : Nat) (r : SReq) : State :=
  let sl := s.sliceAt k
  let x := Sparse.get Line.invalid sl.lines w
  let i := r.addr / 32 % 8
  let p := x.ps.getD i {}
  let x := { x with used := sl.clock + 1, dirty := x.dirty || r.wr, ps := if r.wr then x.ps.set i (r.apply p) else x.ps }
  let s := s.setSlice k { sl with clock := sl.clock + 1, lines := Sparse.set Line.invalid sl.lines w x }
  if r.wr then s.wroteAt r p else s.answer (sliceRouter k) 5 avail r p

/-- One request in a slice step: a read's data is available 10 steps later (R252). The result says whether the slice took it: one that
finds the miss queue full is not taken (R277). wholes are the lines all of whose parcels this step writes (R275). -/
def sliceOne (s : State) (k : Nat) (wholes : List Nat) (r : SReq) : State × Bool :=
  let line := r.addr >>> 8
  match s.keyOf r.addr with
  | none => (s.wrote r.who, true)
  | some key =>
    if !isLpddr r.addr then
      let old := s.mem.parcel key r.addr
      (if r.wr then (s.setMem (s.mem.setParcel key r.addr (r.apply old))).wroteAt r old
       else s.answer (sliceRouter k) 5 (s.now + 10) r old, true)
    else if s.cacheWays = 0 then
      let s := s.chanReq
        { cls := r.who.cls r.wr, wr := r.wr, addr := r.addr, n := 1, ch := s.chanOf r.addr, slice := k, req := some r, ps := [] }
      (if r.wr then s.wrote r.who else s, true)
    else
      let sl := s.sliceAt k
      match sl.find s.cacheWays line with
      | some w => (s.serveLine k w (s.now + 10) r, true)
      | none =>
        if sl.missq.contains line then (s.setSlice k { sl with waiting := sl.waiting ++ [r] }, true)
        else if r.wr && wholes.contains line then
          let s := ({ s with sliceMiss := s.sliceMiss + 1 }).allocLine k line (List.replicate 8 {})
          match (s.sliceAt k).find s.cacheWays line with
          | some w => (s.serveLine k w (s.now + 10) r, true)
          | none => (s, true)
        else if sl.missq.length < 64 then
          let s := s.setSlice k { sl with missq := sl.missq ++ [line], waiting := sl.waiting ++ [r] }
          (({ s with sliceMiss := s.sliceMiss + 1 }).chanLine k line (r.who.cls false) false [], true)
        else (s, false)

/-- The lines all eight parcels of which the writes of a queue replace whole (R275). -/
def wholeLines (q : List SReq) : List Nat :=
  let ws := q.filter fun r => r.wr && r.mask = fullMask
  (ws.map fun r => r.addr >>> 8).filter fun l => (List.range 8).all fun i => ws.any fun r => r.addr = l * 256 + 32 * i

/-- A request that the slice has not taken goes back to where it came from; one from no place on the Trail stays (R277). -/
def notTaken (s : State) (k : Nat) (r : SReq) : State :=
  match r.src with
  | some src => s.putBack src r
  | none =>
    let sl := s.sliceAt k
    s.setSlice k { sl with inq := insertReq r sl.inq }

end State

/-- A slice step: every write, then every read, in order of arrival, plane and position; requests that find the miss queue full are not
taken (R276, R277). -/
def execSliceStep (k : Byte) (s : State) : Host.Outcome State Fault Refusal :=
  let n := k.toNat
  let q := (s.sliceAt n).inq
  let wholes := State.wholeLines q
  let s := s.setSlice n { (s.sliceAt n) with inq := [] }
  let go := fun (x : State × List SReq) r => let y := x.1.sliceOne n wholes r; (y.1, if y.2 then x.2 else r :: x.2)
  let w := (q.filter (·.wr)).foldl go (s, [])
  let r := (q.filter fun r => !r.wr).foldl go (w.1, w.2)
  .next (r.2.foldl (fun s x => s.notTaken n x) r.1)

/-- A missed line has come from LPDDR6, both its halves: it goes into the cache, and the requests that wait for it are served in order,
each reply in the next return slot of its route. With no cache ways a parcel goes on to the one who asked (R274, R277). -/
def execSliceLineFill (k : Byte) (s : State) : Host.Outcome State Fault Refusal :=
  let n := k.toNat
  let sl := s.sliceAt n
  match sl.filled.find? fun m => m.req.isSome with
  | some m =>
    let s := s.setSlice n { sl with filled := sl.filled.erase m }
    match m.req with
    | some r => .next (s.answer (sliceRouter n) 5 s.now r (m.ps.getD 0 {}))
    | none => .next s
  | none =>
    let other := fun (m : MReq) => sl.filled.find? fun x => x.addr = m.addr + 128
    match sl.filled.find? fun m => m.addr % 256 = 0 && (other m).isSome with
    | none => .next s
    | some lo =>
      match other lo with
      | none => .next s
      | some hi =>
        let line := lo.addr / 256
        let s := s.setSlice n { sl with filled := (sl.filled.erase lo).erase hi }
        let s := s.allocLine n line (lo.ps ++ hi.ps)
        let sl := s.sliceAt n
        let served := sl.waiting.filter fun r => r.addr >>> 8 = line
        let s := s.setSlice n { sl with
          missq := sl.missq.filter (· ≠ line), waiting := sl.waiting.filter fun r => r.addr >>> 8 ≠ line }
        .next (served.foldl (fun s r =>
          match (s.sliceAt n).find s.cacheWays line with
          | some w => s.serveLine n w s.now r
          | none => s) s)

/-! ## The regulator -/

/-- 0x2001.00 STEP_TARGET in force, in kstep/s. -/
def State.stepTarget (s : State) : Nat := s.pace.target

/-- 0x4010.00 REGULATOR_SPLIT in force (R237). -/
def State.split (s : State) : Nat := leNat (s.dictVal 0x401000 [0x3B, 0x02, 0, 0])

/-- TOTAL and the class budgets (R236). -/
def budgets (target split : Nat) : Nat × List Nat :=
  let total := 4096 * 1312500 / max 1 target
  (total, [total * (split % 16) / 16, total * (split / 16 % 16) / 16, total * (split / 256 % 16) / 16])

/-- A new window of 4,096 steps: every class has its budget again, computed from the STEP_TARGET and split of now (R235, R236). -/
def execRegulatorWindow (s : State) : Host.Outcome State Fault Refusal :=
  let w := s.now / 4096 * 4096
  if s.mm.winStart = w then .next s
  else
    let b := budgets s.stepTarget s.split
    .next { s with mm := { s.mm with
      winStart := w, total := b.1, budget := b.2, chans := s.mm.chans.map fun x => (x.1, { x.2 with used := [0, 0, 0] }) } }

/-- Do two requests meet in one half of a line? Those keep their order. -/
def MReq.meets (a b : MReq) : Bool := a.addr / 128 = b.addr / 128

/-- The first request of a list that its class budget has room for and that no earlier request for the same place bars. -/
def grantable (used budget : List Nat) : List MReq → List MReq → Option MReq
  | _, [] => none
  | before, m :: r =>
    if used.getD m.cls 0 + m.n ≤ budget.getD m.cls 0 && before.all fun b => !b.meets m then some m
    else grantable used budget (before ++ [m]) r

/-- A channel grants the first waiting request that its class budget of the window has room for (R235). -/
def execRegulatorGrant (ch : Byte) (s : State) : Host.Outcome State Fault Refusal :=
  let n := ch.toNat
  let c := s.chan n
  if s.mm.winStart ≠ s.now / 4096 * 4096 then .next s
  else
    match grantable c.used s.mm.budget [] c.wait with
    | none => .next s
    | some m =>
      .next (s.setChan n { c with
        wait := c.wait.erase m, granted := c.granted ++ [m], used := c.used.set m.cls (c.used.getD m.cls 0 + m.n) })

/-! ## The organisation of a channel (R280, R282) -/

/-- Package, die and channel of the die that a memory channel is (R280). -/
def chanPackage (ch : Nat) : Nat := ch / 8
def chanDie (ch : Nat) : Nat := ch / 2 % 4
def chanOfDie (ch : Nat) : Nat := ch % 2

/-- Where a channel offset lies in its dies (R282): row, line within the row, bank, burst of the line, sub-channel (0 A, 1 B), byte. -/
structure DramPlace where
  row : Nat
  line : Nat
  bank : Nat
  burst : Nat
  sub : Nat
  byte : Nat
  deriving DecidableEq, Repr

def dramPlace (o : Nat) : DramPlace :=
  { row := bitsOf o 30 16, line := bitsOf o 15 12, bank := bitsOf o 11 8 ^^^ bitsOf o 19 16, burst := bitsOf o 7 6, sub := bitsOf o 5 5,
    byte := bitsOf o 4 0 }

/-- Bank of a channel offset (R282). -/
def bankOf (o : Nat) : Nat := (dramPlace o).bank

/-! ## The channels -/

/-- The local address of the next parcel of a request. -/
def MReq.nextAddr (m : MReq) : Nat := if m.wr then m.addr else m.addr + 32 * m.ps.length

namespace State

/-- The bank of a local address. -/
def bankAt (s : State) (a : Nat) : Nat := ((lpddrAt s.mm.map a).map fun p => bankOf p.2).getD 0

/-- Is a bank closed for refresh (R292)? -/
def bankClosed (s : State) (c : Chan) (a : Nat) : Bool := decide (s.now < c.openAt) && s.bankAt a = c.closed

/-- The core that a read of a channel serves (R289): that of the request, or of the first that waits for the line. -/
def readerOf (s : State) (m : MReq) : Option Nat :=
  match m.req with
  | some r => r.who.core
  | none => ((s.sliceAt m.slice).waiting.filter fun r => r.addr >>> 8 = m.addr >>> 8).findSome? fun r => r.who.core

/-- The first granted request of a kind whose bank is open and that no earlier granted one for the same place bars. -/
def firstGranted (s : State) (c : Chan) (wr : Bool) : List MReq → List MReq → Option MReq
  | _, [] => none
  | before, m :: r =>
    if m.wr = wr && !s.bankClosed c m.nextAddr && before.all (fun b => !b.meets m) then some m
    else firstGranted s c wr (before ++ [m]) r

/-- The first granted request that meets the closed bank collides, once for each refresh (R293). -/
def collide (s : State) (n : Nat) : State :=
  let c := s.chan n
  match c.granted.find? fun m => s.bankClosed c m.nextAddr with
  | some m =>
    if m.hit then s
    else
      let s := s.setChan n { c with granted := c.granted.map fun x => if x = m then { m with hit := true } else x }
      { s with mm := { s.mm with collide := s.mm.collide + 1 } }
  | none => s

/-- Does a stored burst pass both its checks at an address: CHECK, and MCHK (R39, R281, R288)? -/
def burstOk (s : State) (k a : Nat) : Bool :=
  let sd := s.mem.sideAt k
  let d := bytesParcel (s.mem.bytesAt k 32)
  let p : Parcel := { data := d, check := sd.check.getD (checkOf d a), poison := sd.poison, cclass := sd.cclass }
  verifies p a && sd.mchk.all fun x => x = mchkOf p a

/-- Is a channel at work: powered, trained, not failed, and not in the self-refresh of a fabric reset (R292, R294)? -/
def chanLive (s : State) (n : Nat) : Bool :=
  s.pwr.phase = .good && (s.chan n).trained && !(s.chan n).failed && s.pwr.domains.getD (38 + n / 64) 0 = 2

end State

/-- The controller reads the next parcel of the first granted read. `bad` is how many attempts failed on the way; a stored burst that fails
either check does so on all four. A read that passes on a retry counts in MEM_RETRY; one that fails four times is poisoned and counted,
and the sixteenth in a row fails the channel (R281, R288 to R291). A request that has all its parcels goes back to its slice (R253). A
request at a closed bank waits and counts (R293). -/
def execLpddr6Read (ch : Byte) (bad : Nat) (s : State) : Host.Outcome State Fault Refusal :=
  let n := ch.toNat
  let s := s.collide n
  let c := s.chan n
  match s.firstGranted c false [] c.granted with
  | none => .next s
  | some m =>
    let a := m.nextAddr
    let k := (s.keyOf a).getD 0
    let fails := if s.burstOk k a then bad else 4
    let lost := decide (4 ≤ fails)
    let p := if lost then poisonedParcel a else s.mem.parcel k a
    let run := if lost then c.badRun + 1 else 0
    let m' := { m with ps := m.ps ++ [p], hit := false }
    let done := decide (m'.ps.length = m'.n)
    let s := s.setChan n { c with
      badRun := run, granted := if done then c.granted.erase m else c.granted.map fun x => if x = m then m' else x }
    let s := { s with mm := { s.mm with
      retry := if 0 < fails ∧ !lost then s.mm.retry + 1 else s.mm.retry, uncorr := if lost then s.mm.uncorr + 1 else s.mm.uncorr } }
    let s := match lost, s.readerOf m with
      | true, some k => s.countPoison k 1
      | true, none => s.countEdgePoison
      | _, _ => s
    let s := if done then
        s.putPkt (planeKey (chanPlane n) (chanRouter n) 6) s.now { flow := .fromChan m', addr := m'.addr, parcel := {} }
      else s
    .next (if 16 ≤ run then s.failChannel n else s)

/-- The controller writes the next parcel of the first granted write, with MCHK; writes are not read back, and a burst that is damaged on
its way in, in the bits `w.flip`, is stored as damaged (R281, R290). -/
def execLpddr6Write (w : BurstIn) (s : State) : Host.Outcome State Fault Refusal :=
  let n := w.ch.toNat
  let s := s.collide n
  let c := s.chan n
  match s.firstGranted c true [] c.granted with
  | none => .next s
  | some m =>
    let a := m.addr
    let k := (s.keyOf a).getD 0
    let old := s.mem.parcel k a
    let p := match m.req with | some r => r.apply old | none => m.ps.getD 0 {}
    let fails := match m.req with | some r => mergeFails old a r.mask | none => false
    let rest := { m with addr := m.addr + 32, n := m.n - 1, ps := m.ps.drop 1, hit := false }
    let done := decide (m.n ≤ 1)
    let s := s.setChan n { c with
      granted := if done then c.granted.erase m else c.granted.map fun x => if x = m then rest else x }
    let s := match m.req with | some r => (if fails then s.countFor r.who else s) | none => s
    let s := if (s.keyOf a).isSome then s.chanStore k a p w.flip else s
    let sl := s.sliceAt m.slice
    .next (if done then s.setSlice m.slice { sl with wb := sl.wb.eraseP fun x => x.meets m && x.req = m.req } else s)

/-- The steps that a refresh keeps its bank closed: 140 ns at the rate in force (R292). -/
def refreshSteps (rate : Nat) : Nat := (140 * rate + 999999) / 1000000

/-- A per-bank refresh: the next bank closes to requests for 140 ns. The band is taken from the die's report at bank 0. A channel without
power or training, or in a fabric reset, is not refreshed by its controller (R292 to R294). -/
def execRefresh (ch : Byte) (band : BitVec 2) (s : State) : Host.Outcome State Fault Refusal :=
  if band = 3 then .fault .illFormed
  else
    let n := ch.toNat
    let c := s.chan n
    if !s.chanLive n then .next s
    else
      let b := if c.bank = 0 then band else c.band
      let s := s.setChan n { c with
        bank := (c.bank + 1) % 16, band := b, closed := c.bank, openAt := s.now + refreshSteps s.rate,
        granted := c.granted.map fun m => { m with hit := false } }
      .next ({ s with mm := { s.mm with bandMax := max s.mm.bandMax b.toNat } }.collide n)

/-- The key in memory of parcel i of a channel's line. -/
def chanKey (ch line i : Nat) : Nat := ch * 0x80000000 + line * 256 + 32 * i

/-- The local address that channel offset o of a channel has under the map in force: the inverse of R285 and R286. -/
def chanLocal (channelLocal : Bool) (ch o : Nat) : Nat :=
  if channelLocal then ch * 0x80000000 + o
  else
    let hi := o / 256
    let l0 := hi * 256
    let h := bitsOf l0 18 11 ^^^ bitsOf l0 26 19 ^^^ bitsOf l0 30 27
    (l0 + (ch ^^^ h) % 256) * 256 + o % 256

/-- While no pack runs, the patrol scrub reads the next line of a live channel, parcel by parcel, under R288 to R291; it rewrites nothing
(R294). `bad` is the failed attempts at its first parcel. -/
def execPatrolScrub (ch : Byte) (bad : Nat) (s : State) : Host.Outcome State Fault Refusal :=
  let n := ch.toNat
  let c := s.chan n
  if s.pack.state = .running || !s.chanLive n then .next s
  else
    let fails := fun (i : Nat) =>
      if s.burstOk (chanKey n c.scrub i) (chanLocal s.mm.map n (c.scrub * 256) + 32 * i) then (if i = 0 then bad else 0) else 4
    let lost := ((List.range 8).filter fun i => 4 ≤ fails i).length
    let run := (List.range 8).foldl (fun (x : Nat × Bool) i =>
      let r := if 4 ≤ fails i then x.1 + 1 else 0
      (r, x.2 || decide (16 ≤ r))) (c.badRun, false)
    let s := s.setChan n { c with scrub := (c.scrub + 1) % 0x800000, badRun := run.1 }
    let s := { s with mm := { s.mm with
      retry := if 0 < fails 0 ∧ fails 0 < 4 then s.mm.retry + 1 else s.mm.retry, uncorr := s.mm.uncorr + lost } }
    .next (if run.2 then s.failChannel n else s)

/-- A channel trains, from its seeds and, on failure, from default seeds; the results are kept in the controller under the number of the
free value that they are (R295). A default-seed training does not keep the contents, and WIMG_HASH and WIMG_STATE become zero (R466); a
channel that fails both is failed and the module is degraded (R295, R475). The training window opens 400 ms after PWR_GOOD (R462). -/
def execLpddr6Training (ch : Byte) (seedsOk defaultOk : Bool) (s : State) : Host.Outcome State Fault Refusal :=
  let n := ch.toNat
  let c := s.chan n
  let trained := fun (s : State) => (s.setChan n { c with trained := true, seeds := s.free }).draw
  if s.pwr.phase ≠ .good || c.trained || c.failed || s.pwr.domains.getD (38 + n / 64) 0 ≠ 2 || decide (s.nowMs < s.pwr.goodAt + 400) then
    .next s
  else if seedsOk then .next (trained s)
  else
    let s := { s with mem := s.mem.wipe (n * 0x80000000) ((n + 1) * 0x80000000),
                      wimg := { s.wimg with hash := 0, state := 0 } }
    if defaultOk then .next (trained s)
    else
      let s := s.setChan n { c with failed := true }
      .next ({ s with mm := { s.mm with failMap := s.mm.failMap ||| (1 : BitVec 256) <<< n } }).degrade

/-- A channel loses synchronisation with its die and is failed (R291). -/
def execChannelSyncLoss (ch : Byte) (s : State) : Host.Outcome State Fault Refusal :=
  if s.pwr.phase = .good then .next (s.failChannel ch.toNat) else .next s

end Sys2Proof.Machine
end

