-- ==== Sys2Proof/Machine/StreamOps.lean ====
section
/-! DEFINITION. Tensor descriptors (R201, R202), element addresses (R203 to R206), gather indices (R210, R215), ownership tables (R209,
R348, R349), transfer modes (R220) and the acceptance of arms (R226, R228, R229). -/

namespace Sys2Proof.Machine

/-! ## Descriptors -/

/-- A descriptor as its 64 bytes spell it, each field read without a check (R201, R202). -/
def parseDesc (bs : List Byte) : Desc :=
  let w0 := fieldAt bs 0 8
  let sizes := fieldAt bs 0x08 15
  let perm := fieldAt bs 0x17 2
  let strides := fieldAt bs 0x19 25
  let ga := fieldAt bs 0x32 6
  let ow := fieldAt bs 0x38 6
  let rank := bitsOf w0 59 57
  { etype := bitsOf w0 63 60, rank := if rank = 0 then 1 else min rank 5, isLocal := bitOf w0 56, module := bitsOf w0 55 42,
    base := bitsOf w0 41 0,
    size := (List.range 5).map fun d => bitsOf sizes (24 * d + 23) (24 * d),
    perm := (List.range 5).map fun m => bitsOf perm (3 * m + 2) (3 * m),
    stride := (List.range 5).map fun d => signedOf 40 (bitsOf strides (40 * d + 39) (40 * d)),
    gen := bitOf ga 45, gdim := bitsOf ga 44 42, idxAddr := bitsOf ga 41 0, ownEn := bitOf ow 42, ownAddr := bitsOf ow 41 0 }

/-- Is the tensor empty: a SIZE of 0 below RANK (R202)? -/
def Desc.isEmpty (d : Desc) : Bool := (d.size.take d.rank).any fun n => n = 0

/-- The tensor dimension that iteration dimension m walks, if any (R206). -/
def Desc.walks (d : Desc) (m : Nat) : Option Nat :=
  let t := d.perm.getD m 7
  if m < d.rank ∧ t ≤ 4 then some t else none

/-- The iteration extents that the extent descriptor gives (R203). -/
def Desc.extents (d : Desc) : List Nat :=
  (List.range 5).map fun m =>
    match d.walks m with
    | some t => d.size.getD t 0
    | none => 1

/-- The iteration vector of element number idx, dimension 0 fastest. -/
def iterVec : List Nat → Nat → List Nat
  | [], _ => []
  | e :: r, i => i % max 1 e :: iterVec r (i / max 1 e)

/-! ## What an engine looks up (R201, R210, R223, R349) -/

/-- The addresses of the parcels that n bytes from a local address on lie in. -/
def byteParcels (a n : Nat) : List Nat := (List.range ((a % 32 + n + 31) / 32)).map fun i => (a / 32 + i) * 32 % 2 ^ 42

/-- n bytes from a local address on, out of parcels that have come, and whether one of these is poisoned. -/
def lookBytes (look : Nat → Option Parcel) (a n : Nat) : List Byte × Bool :=
  let ps := (byteParcels a n).map fun p => (look p).getD {}
  (((ps.map fun p => parcelBytes p.data).flatten.drop (a % 32)).take n, ps.any (·.poison))

/-- Which of these parcels have not come. -/
def lacking (look : Nat → Option Parcel) (ps : List Nat) : List Nat := ps.filter fun p => (look p).isNone

/-- Where an element lies (R204): the parts of it in each parcel; whether an index of it comes from a poisoned parcel (R215); whether an index
was clamped (R205); the ownership block it is in, with that block's entry (R349); the parcels of index tensors that it read, and those of
the ownership table that it read on entering a block; and the parcels that must come before all this is known. -/
structure Place where
  spots : List Spot
  mark : Bool
  clamped : Bool
  own : Option (Nat × Option Nat)
  index : List Nat
  table : List Nat
  lack : List Nat
  deriving DecidableEq, Repr

/-- The parcel pieces of n nibbles from a byte and nibble on: address, first nibble there, and how many. -/
def nibPieces (a : Nat) (hi : Bool) (n : Nat) : List (Nat × Nat × Nat) :=
  let lo := 2 * (a % 32) + if hi then 1 else 0
  if lo + n ≤ 64 then [(a / 32 * 32, lo, n)] else [(a / 32 * 32, lo, 64 - lo), ((a / 32 * 32 + 32) % 2 ^ 42, 0, lo + n - 64)]

/-- The place of an ownership entry for an offset in its block: none where it leaves it undecoded, for a write also where it is read-only
(R209, R348). -/
def entryPlace (w : Nat) (rem : Nat) (write : Bool) : Option (Nat × Nat) :=
  if !bitOf w 56 || (write && bitOf w 57) then none else some (bitsOf w 55 42, (bitsOf w 41 5 * 32 + rem) % 2 ^ 42)

/-- One piece of an element of a distributed tensor: the parcel's offset is divided by the block size, and the entry of its block is read
whenever a transfer enters a new one (R209, R348, R349). A poisoned entry or header makes the block undecoded. -/
def ownPiece (look : Nat → Option Parcel) (d : Desc) (write : Bool) (pl : Place) (y : Nat × Nat × Nat) : Place :=
  let table := d.ownAddr / 32 * 32
  let h := lookBytes look table 8
  let log2 := min 30 (max 16 (fieldAt h.1 0 1))
  let n := y.1 / 2 ^ log2
  let at_ := (table + 32 + 8 * n) % 2 ^ 42
  let known := pl.own.any fun o => o.1 = n
  let out := h.2 || decide (fieldAt h.1 4 4 ≤ n)
  let e := lookBytes look at_ 8
  let entry := if known then pl.own.bind (·.2) else if out || e.2 then none else some (leNat e.1)
  let spot := fun (x : Option (Nat × Nat)) => match x with
    | some t => ({ undec := false, module := t.1, addr := t.2, lo := y.2.1, n := y.2.2 } : Spot)
    | none => { undec := true, module := 0, addr := y.1, lo := y.2.1, n := y.2.2 }
  { pl with
    spots := pl.spots ++ [spot (entry.bind fun w => entryPlace w (y.1 % 2 ^ log2) write)],
    own := some (n, entry),
    table := if known || out then pl.table else pl.table ++ byteParcels at_ 8,
    lack := if known || out then pl.lack else pl.lack ++ lacking look (byteParcels at_ 8) }

/-- element_address of R204 for an element of n nibbles, as far as the parcels that have come show it. -/
def elementAt (look : Nat → Option Parcel) (ownId : Nat) (d : Desc) (k : List Nat) (o : List Int) (n : Nat) (write : Bool)
    (own : Option (Nat × Option Nat)) : Place :=
  let dims := (List.range d.rank).filterMap fun m => (d.walks m).map fun t => (m, t)
  let entries := dims.filterMap fun x =>
    if d.gen && x.2 = d.gdim then some ((d.idxAddr + 4 * k.getD x.1 0) % 2 ^ 42) else none
  let index := entries.flatMap fun a => byteParcels a 4
  let idx := entries.map fun a =>
    let r := lookBytes look a 4
    ((if r.2 then 0 else signedOf 32 (leNat r.1) : Int), r.2)
  let plain := dims.filter fun x => !(d.gen && x.2 = d.gdim)
  let i := (List.range 5).map fun t =>
    o.getD t 0 + ((plain.filter fun x => x.2 = t).map fun x => (k.getD x.1 0 : Int)).sum +
      (if d.gen && t = d.gdim then (idx.map (·.1)).sum else 0)
  let c := (List.range d.rank).map fun t => min (max (i.getD t 0) 0) ((d.size.getD t 0 : Int) - 1)
  let off := ((List.range d.rank).map fun t => c.getD t 0 * d.stride.getD t 0).sum
  let four := elemBits d.etype = 4
  let byte := if four then off / 2 else off * (elemBits d.etype / 8 : Nat)
  let pieces := nibPieces (unsignedOf 42 ((d.base : Int) + byte)) (four && decide (off % 2 = 1)) n
  let pl : Place :=
    { spots := [], mark := idx.any (·.2), clamped := (List.range d.rank).any fun t => c.getD t 0 ≠ i.getD t 0, own, index, table := [],
      lack := lacking look index }
  let head := lacking look (byteParcels (d.ownAddr / 32 * 32) 8)
  if pl.lack ≠ [] then pl
  else if !d.ownEn then
    { pl with spots := pieces.map fun y =>
        { undec := false, module := if d.isLocal then ownId else d.module, addr := y.1, lo := y.2.1, n := y.2.2 } }
  else if head ≠ [] then { pl with lack := head }
  else pieces.foldl (ownPiece look d write) pl

/-- The key of the parcel of a place, apart from those that an ownership table leaves undecoded. -/
def spotKey (p : Spot) : Nat := if p.undec then 2 ^ 60 + p.addr else globalKey p.module p.addr

namespace State

/-! ## Status (R232) -/

/-- An undecoded access of an engine: UNDEC, LAST and one poisoned error at the core (R208). -/
def engUndec (s : State) (c e : Nat) : State :=
  let g := s.eng c e
  (s.setEng c e { g with undec := g.undec + 1, last := 3 }).countPoison c 1

/-- An arm is turned away (R226, R228, R232). -/
def engReject (s : State) (c e : Nat) (status : BitVec 4) : State :=
  let g := s.eng c e
  s.setEng c e { g with rejects := g.rejects + 1, last := status }

/-! ## Looking up -/

/-- The parcel that an engine has looked up at a local address, if it has come. -/
def ctlLook (s : State) (c e a : Nat) : Option Parcel := (Sparse.get none (s.eng c e).ctl a).bind (·.got)

/-- An engine asks for a parcel of a list, a descriptor, an index tensor or an ownership table, as an arm accepted at a step sees it: at once
in its own core, else over the Trail (R208, R210, R227, R349). -/
def ctlAsk (s : State) (c e sees a : Nat) : State :=
  let g := s.eng c e
  let rid := g.nextRid
  let t := s.setEng c e { g with nextRid := rid + 1, ctl := Sparse.set none g.ctl a (some { rid, asked := s.now, got := none }) }
  if (s.keyOf a).isNone then (t.ctlGot c e rid (poisonedParcel a)).engUndec c e
  else if placeExit a = some (c * 8 + 4) then
    let q := t.consumeAt c ((s.parcelFor (some sees) a).getD {}) a
    q.1.ctlGot c e rid q.2
  else t.askFor c a (.ctl c e rid) (some sees)

/-- An engine asks for what it lacks, and, where that comes at once, for what it then lacks. -/
def ctlFetch (c e sees : Nat) (want : (Nat → Option Parcel) → List Nat) : Nat → State → State
  | 0, s => s
  | n + 1, s =>
    match (want (s.ctlLook c e)).filter fun a => (Sparse.get none (s.eng c e).ctl a).isNone with
    | [] => s
    | new => ctlFetch c e sees want n (new.foldl (fun s a => s.ctlAsk c e sees a) s)

/-- What an engine has looked up is used up. -/
def ctlDrop (s : State) (c e : Nat) (ps : List Nat) : State :=
  let g := s.eng c e
  s.setEng c e { g with ctl := ps.foldl (fun m a => Sparse.set none m a none) g.ctl }

/-! ## What an arm names, as memory holds it -/

/-- n bytes from a local address on, as an arm accepted at a step would read them (R227); undecoded bytes read as zero. -/
def armBytes (s : State) (sees a n : Nat) : List Byte :=
  (((byteParcels a n).map fun p => parcelBytes ((s.parcelFor (some sees) p).getD {}).data).flatten.drop (a % 32)).take n

/-- Address of descriptor n (R201). -/
def descAddr (s : State) (n : Nat) : Nat := (s.pack.descTable + 64 * n) % 2 ^ 42

/-- Descriptor n of the table (R201). -/
def readDesc (s : State) (sees n : Nat) : Desc := parseDesc (s.armBytes sees (s.descAddr n) 64)

end State

/-! ## Modes (R220) -/

/-- Does the descriptor have stride 1 on the dimension that iteration dimension m walks? -/
def Desc.unit (d : Desc) (m : Nat) : Bool := (d.walks m).elim false fun t => d.stride.getD t 0 = 1

/-- Does it map iteration dimension 0 to its GEN dimension? -/
def Desc.gen0 (d : Desc) : Bool := d.gen && (d.walks 0) = some d.gdim

/-- Each stride in iteration order, over extents above 1, is at least the one before times its extent. -/
def nestedStrides (d : Desc) (ext : List Nat) : Bool :=
  let xs := ((List.range 5).filter fun m => 1 < ext.getD m 1).map fun m =>
    (((d.walks m).elim 0 fun t => (d.stride.getD t 0).natAbs), ext.getD m 1)
  (xs.zip (xs.drop 1)).all fun y => y.1.1 * y.1.2 ≤ y.2.1

/-- The mode of a DESC entry: the first of R220 whose conditions hold. -/
def modeOf (src dst : Option Desc) (port : Bool) (ext : List Nat) (dorg : List Int) : TMode :=
  match src with
  | none => .element
  | some sd =>
    let dOk := match dst with | some d => !d.gen0 && d.unit 0 | none => port
    if !sd.gen0 && sd.unit 0 && dOk then .run
    else match dst with
      | none => .element
      | some d =>
        if elemBits sd.etype ≤ 16 && elemBits d.etype ≤ 16 && !sd.gen && !d.gen && dorg.all (· = 0) && sd.unit 1 && d.unit 0 &&
            nestedStrides d ext then .tile
        else .element

/-! ## The transposition tile (R221) -/

/-- The bytes that a transfer can touch through a descriptor without ownership table or index: first, and past the last. -/
def Desc.span (d : Desc) : Int × Int :=
  let bits : Int := elemBits d.etype
  let ends := (List.range d.rank).map fun t => ((d.size.getD t 0 : Int) - 1) * d.stride.getD t 0
  let lo := (ends.map fun x => min x 0).sum
  let hi := (ends.map fun x => max x 0).sum
  ((d.base : Int) + lo * bits / 8, (d.base : Int) + (hi * bits + bits + 7) / 8)

/-- Do two descriptors touch no parcel in common, so that the order of reads and writes between them does not matter? -/
def apart (ownId : Nat) (a b : Desc) : Bool :=
  let module := fun (d : Desc) => if d.isLocal then ownId else d.module
  let x := a.span
  let y := b.span
  let inside := fun (z : Int × Int) => decide (0 ≤ z.1 ∧ z.2 ≤ 2 ^ 42)
  !a.ownEn && !b.ownEn &&
    (module a ≠ module b || (inside x && inside y && decide (x.2 ≤ y.1 / 32 * 32 ∨ y.2 ≤ x.1 / 32 * 32)))

/-- The iteration vector of read number t through the tile, the place of its element in the columns of its block, and whether it is the
block's last: blocks of 32 values of k[0] by 32 of k[1], each read by rows, one run along k[1] after the other (R221; log 84). -/
def tileVec (ext : List Nat) (t : Nat) : List Nat × Nat × Bool :=
  let e0 := max 1 (ext.getD 0 1)
  let e1 := max 1 (ext.getD 1 1)
  let q := t % (e0 * e1)
  let b1 := q / (32 * e0)
  let h := min 32 (e1 - 32 * b1)
  let q1 := q % (32 * e0)
  let b0 := q1 / (32 * h)
  let w := min 32 (e0 - 32 * b0)
  let q2 := q1 % (32 * h)
  ((32 * b0 + q2 / h) :: (32 * b1 + q2 % h) :: iterVec (ext.drop 2) (t / (e0 * e1)), q2 % h * w + q2 / h, decide (q2 + 1 = w * h))

/-- A flight put before the first one of a later column place. -/
def insertCol (f : Flight) : List Flight → List Flight
  | [] => [f]
  | x :: r => if f.col < x.col then f :: x :: r else x :: insertCol f r

namespace State

/-! ## Acceptance (R226, R228, R229) -/

/-- A fresh arm of a list: it sees the writes to list ranges made before its acceptance (R227). -/
def newArm (s : State) (list : Nat) : Arm :=
  { at_ := s.now, list := list / 16 * 16, next := 0, left := 65535, ended := false, taken := 0, run := none, resid := false,
    bundled := false }

/-- An arm of engine e: started, queued, or rejected (R226, R228). -/
def acceptArm (s : State) (c e list : Nat) : State :=
  let g := s.eng c e
  let a := s.newArm list
  if !s.inListRange (list / 16 * 16) then s.engReject c e 2
  else if g.active.isNone && g.queued.isNone then s.setEng c e { g with active := some a }
  else if g.queued.isNone && g.reserved.isNone then s.setEng c e { g with queued := some a }
  else s.engReject c e 1

/-- A bundled arm takes the queue place of its engine, if that is free (R194, R229); a full one is cause ARM_FULL (R197). -/
def reserveArm (s : State) (c e list : Nat) : State :=
  let g := s.eng c e
  if !s.inListRange (list / 16 * 16) then (s.addAction c (.arm e false) 0).engReject c e 2
  else if g.queued.isNone && g.reserved.isNone then
    (s.addAction c (.arm e true) 0).setEng c e { g with reserved := some (s.newArm list) }
  else ((s.addAction c (.arm e false) 0).engReject c e 1).bundleCause c causeArmFull

end State

end Sys2Proof.Machine
end

