-- ==== Sys2Proof/Machine/Streams.lean ====
section
/-! DEFINITION. The stream engines (R217 to R233, R245): arming, the walk of a block list, reads, writes in element order, ports,
completion, timeouts and the list hold. -/

namespace Sys2Proof.Machine

/-! ## Arming -/

/-- Do n bytes from address a on meet the list of an SCT that is still at work (R161)? -/
def State.sctWrites (s : State) (c a n : Nat) : Bool := (s.vec c).q.any fun v =>
  v.kind = .sct && decide (a < coreAddr c (v.vp.outA + 4 * v.vp.bmax) ∧ coreAddr c v.vp.outA < a + n)

/-- Does an entry that an arm accepted at a step may still take pass a test, from entry i of a list on, in it or in a list that it chains to?
The test is of an entry's address and bits; seen holds the lists walked. -/
def State.walkAny (s : State) (sees : Nat) (test : Nat → Nat → Bool) : Nat → Nat → Nat → List Nat → Bool
  | 0, _, _, _ => true
  | fuel + 1, list, i, seen =>
    let at_ := (list + 16 * i) % 2 ^ 42
    let v := leNat (s.armBytes sees at_ 16)
    let l := bitsOf v 57 20 * 16
    test at_ v ||
      (if v % 16 ≤ 1 then !bitOf v 4 && decide (i < 65534) && s.walkAny sees test fuel list (i + 1) seen
       else if v % 16 = 2 then !seen.contains l && s.inListRange l && s.walkAny sees test fuel l 0 (l :: seen)
       else false)

/-- The descriptors that a DESC entry names. -/
def State.entryDescs (s : State) (sees v : Nat) : List (Nat × Desc) :=
  if v % 16 ≠ 0 then []
  else ([bitsOf v 31 16, bitsOf v 47 32].filter (· < 0xFFF0)).map fun n => (s.descAddr n, s.readDesc sees n)

/-- The bytes of a descriptor's index tensor that a transfer may read: first and how many. -/
def Desc.indexBytes (d : Desc) : Nat × Nat := (d.idxAddr, 4 * max 1 (d.extents.foldl max 1))

/-- Does a block list name the list of an SCT at work, as its own place or as an index tensor of a descriptor of an entry (R161; log 30)? -/
def State.namesSct (s : State) (c list : Nat) : Bool :=
  s.walkAny s.now (fun at_ v => s.sctWrites c at_ 16 ||
    (s.entryDescs s.now v).any fun x => x.2.gen && s.sctWrites c x.2.indexBytes.1 x.2.indexBytes.2) 4294967296 list 0 [list]

/-- ARM: the engine gets the list, or the open bundle reserves a queue place for it (R194, R228, R229). It waits for an SCT whose list it
names (R161; log 30). -/
def execArm (c : CoreId) (bm ia : Bool) (eng : BitVec 3) (list : LAddr) (s : State) : Host.Outcome State Fault Refusal :=
  let k := c.toNat
  let l := fieldOr (s.seq k) ia list % 2 ^ 42
  let ready := ((s.vec k).q.all fun v => v.kind ≠ .sct) || !s.namesSct k (l / 16 * 16)
  let effect :=
    if bm then (if (s.bnd k).isOpen then s.reserveArm k eng.toNat l else s.stray k)
    else s.acceptArm k eng.toNat l
  s.issue c (.arm c bm ia eng list) ready effect

/-- The queued arm of an idle engine becomes the active one, if it is of this kind. -/
def State.startQueued (s : State) (c e : Nat) (bundled : Bool) : State :=
  let g := s.eng c e
  match g.queued with
  | some a => if g.active.isNone && a.bundled = bundled then s.setEng c e { g with active := some a, queued := none } else s
  | none => s

/-- A queued arm starts at the step its predecessor completes (R228). -/
def execQueuedArmStart (c : CoreId) (e : BitVec 3) (s : State) : Host.Outcome State Fault Refusal :=
  .next (s.startQueued c.toNat e.toNat false)

/-- The arm of a committed bundle starts once its predecessor is complete (R229). -/
def execBundledArmStart (c : CoreId) (e : BitVec 3) (s : State) : Host.Outcome State Fault Refusal :=
  .next (s.startQueued c.toNat e.toNat true)

/-! ## The walk of a list (R222 to R226) -/

/-- The local address of an arm's next entry. -/
def Arm.at (a : Arm) : Nat := (a.list + 16 * a.next) % 2 ^ 42

/-- The next entry of an arm's walk out of what has come, and whether its parcel is poisoned. -/
def State.listEntry (s : State) (c e : Nat) (a : Arm) : Nat × Bool :=
  let r := lookBytes (s.ctlLook c e) a.at 16
  (leNat r.1, r.2)

/-- The parcels that an arm needs to take its next entry: the entry's own, and a DESC entry's descriptors (R222, R223). -/
def entryNeeds (descAddr : Nat → Nat) (a : Arm) (look : Nat → Option Parcel) : List Nat :=
  let own := lacking look (byteParcels a.at 16)
  let r := lookBytes look a.at 16
  let v := leNat r.1
  let desc := fun (n : Nat) => if n < 0xFFF0 then lacking look (byteParcels (descAddr n) 64) else []
  if own ≠ [] then own
  else if r.2 || v % 16 ≠ 0 then []
  else desc (bitsOf v 31 16) ++ desc (bitsOf v 47 32)

/-- The arm after it has taken a DESC or RAW entry (R225). -/
def Arm.took (a : Arm) (last : Bool) (run : Option Run) : Arm :=
  { a with next := a.next + 1, left := a.left - 1, ended := last || decide (a.left ≤ 1), taken := a.taken + 1, run }

namespace State

/-- Does an arm take its next entry now: it is active, has not ended, and the reads of its last entry have been issued? -/
def walking (s : State) (c e : Nat) : Option Arm :=
  match (s.eng c e).active with
  | some a => if a.ended || a.run.isSome then none else some a
  | none => none

/-- The engine fetches what its next entry needs (R222, R227). -/
def fetchEntry (s : State) (c e : Nat) (a : Arm) : State := ctlFetch c e a.at_ (entryNeeds s.descAddr a) 3 s

/-- Has everything come that an arm needs to take its next entry? -/
def entryHere (s : State) (c e : Nat) (a : Arm) : Bool := entryNeeds s.descAddr a (s.ctlLook c e) = []

/-- The arm goes on to another entry: what it has looked up for the one before is gone. -/
def setArm (s : State) (c e : Nat) (a : Arm) : State := s.setEng c e { (s.eng c e) with active := some a, ctl := [] }

/-- An entry that ends the arm with STRM_BADLIST (R223, R226). -/
def badList (s : State) (c e : Nat) (a : Arm) : State :=
  let s := s.setArm c e { a with ended := true }
  s.setEng c e { (s.eng c e) with last := 2 }

/-- The five signed bytes of an origin. -/
def origin (v lo : Nat) : List Int := (List.range 5).map fun d => signedOf 8 (bitsOf v (lo + 8 * d + 7) (lo + 8 * d))

/-- A DESC entry starts, its descriptors being there: its first element may be read 8 steps on (R203, R220, R222). One whose descriptor is
read from a poisoned parcel ends the arm (R223). -/
def startDesc (s : State) (c e : Nat) (a : Arm) (v : Nat) : State :=
  let srcN := bitsOf v 31 16
  let dstN := bitsOf v 47 32
  let read := fun (n : Nat) => if n < 0xFFF0 then some (lookBytes (s.ctlLook c e) (s.descAddr n) 64) else none
  let src := read srcN
  let dst := read dstN
  if [src, dst].any fun r => r.any fun x => x.2 then s.badList c e a
  else
    let sd := src.map fun x => parseDesc x.1
    let dd := dst.map fun x => parseDesc x.1
    let ext := match dd with
      | some d => if d.gen then sd.map Desc.extents else some d.extents
      | none => sd.map Desc.extents
    let nothing := ext.isNone || (sd.elim false Desc.isEmpty) || (dd.elim false Desc.isEmpty)
    let ext := ext.getD []
    let total := if nothing then 0 else ext.foldl (· * ·) 1
    let dorg := origin v 88
    let mode := modeOf sd dd dd.isNone ext dorg
    let run : Run :=
      { no := a.taken, raw := false, src := sd, dst := dd, port := if dstN < 0xFFF0 then none else some dstN, add := bitOf v 5, ext,
        total, idx := 0, sorg := origin v 48, dorg, saddr := 0, daddr := 0, readyAt := s.now + 8, mode, slotAt := 0, used := 0,
        lastRd := none, tiled := mode = .tile && (sd.bind fun x => dd.map fun y => apart s.ownId x y) = some true, sown := none, down := none }
    let s := if sd.isNone then s.engUndec c e else s
    let a := a.took (bitOf v 4) (if total = 0 then none else some run)
    s.setArm c e { a with resid := a.resid || decide (dstN = 0xFFFE) }

/-- A RAW entry starts: whole parcels in ascending address order, the first read in the next step (R222, R224). -/
def startRaw (s : State) (c e : Nat) (a : Arm) (v : Nat) : State :=
  let run : Run :=
    { no := a.taken, raw := true, src := none, dst := none, port := none, add := false, ext := [], total := bitsOf v 15 5 + 1, idx := 0,
      sorg := [], dorg := [], saddr := globalKey (bitsOf v 71 58) (bitsOf v 57 21 * 32),
      daddr := globalKey (bitsOf v 127 114) (bitsOf v 113 77 * 32), readyAt := s.now + 1, mode := .run, slotAt := 0, used := 0,
      lastRd := none, tiled := false, sown := none, down := none }
  s.setArm c e (a.took (bitOf v 4) (some run))

end State

/-- The engine takes the next entry of its arm, once that has come: by what `take` makes of one of its kind. An entry of reserved KIND, or from
a poisoned parcel, ends the arm (R222, R223). -/
def State.takeEntry (s : State) (c e kind : Nat) (take : State → Arm → Nat → State) : State :=
  match s.walking c e with
  | none => s
  | some a =>
    let s := s.fetchEntry c e a
    let x := s.listEntry c e a
    if !s.entryHere c e a then s
    else if x.2 || decide (2 < x.1 % 16) then s.badList c e a
    else if x.1 % 16 = kind then take s a x.1
    else s

/-- The engine takes a DESC entry (R222, R223). -/
def execDescEntry (c : CoreId) (e : BitVec 3) (s : State) : Host.Outcome State Fault Refusal :=
  .next (s.takeEntry c.toNat e.toNat 0 fun s a v => s.startDesc c.toNat e.toNat a v)

/-- The engine takes a RAW entry (R224). -/
def execRawEntry (c : CoreId) (e : BitVec 3) (s : State) : Host.Outcome State Fault Refusal :=
  .next (s.takeEntry c.toNat e.toNat 1 fun s a v => s.startRaw c.toNat e.toNat a v)

/-- A CHAIN entry moves the walk to entry 0 of the list at NEXT, which must lie in a list range (R225, R226). -/
def State.chainTo (s : State) (c e : Nat) (a : Arm) (v : Nat) : State :=
  let l := bitsOf v 57 20 * 16
  if s.inListRange l then s.setArm c e { a with list := l, next := 0, left := 65535 } else s.badList c e a

/-- The engine takes a CHAIN entry. -/
def execListChain (c : CoreId) (e : BitVec 3) (s : State) : Host.Outcome State Fault Refusal :=
  .next (s.takeEntry c.toNat e.toNat 2 fun s a v => s.chainTo c.toNat e.toNat a v)

/-! ## Reads (R211, R217, R220) -/

/-- What the next read of a run touches: the source's parcels and its nibbles, none for an undecoded source; the destination; marks; the
ownership blocks that the two are then in; what was looked up for it, and what has still to come; and, in the transposition tile, the
element's place in its block's columns, and whether it is the block's last. -/
structure Next where
  srcs : List Spot
  srcNibs : Nat
  dst : Dst
  dstNibs : Nat
  etype : Nat
  mark : Bool
  clamped : Bool
  sown : Option (Nat × Option Nat)
  down : Option (Nat × Option Nat)
  table : List Nat
  lack : List Nat
  col : Nat
  ends : Bool
  deriving DecidableEq, Repr

namespace State

/-- Nibbles of an element type; a reserved code is BYTE. -/
def nibs (et : Nat) : Nat := elemBits et / 4

/-- The next element or parcel of a run (R204, R207, R221, R224), as far as what has been looked up shows it. -/
def nextOf (look : Nat → Option Parcel) (ownId : Nat) (r : Run) : Next :=
  if r.raw then
    let at_ := fun (k : Nat) =>
      [({ undec := false, module := k / 2 ^ 42, addr := (k % 2 ^ 42 + 32 * r.idx) % 2 ^ 42, lo := 0, n := 64 } : Spot)]
    { srcs := at_ r.saddr, srcNibs := 64, dst := .mem (at_ r.daddr), dstNibs := 64, etype := 0, mark := false, clamped := false,
      sown := none, down := none, table := [], lack := [], col := 0, ends := true }
  else
    let x := if r.tiled then tileVec r.ext r.idx else (iterVec r.ext r.idx, 0, true)
    let sn := (r.src.map fun d => nibs d.etype).getD 0
    let det := (r.dst.map (·.etype)).getD 0
    let sx := r.src.map fun d => elementAt look ownId d x.1 r.sorg sn false r.sown
    let dx := r.dst.map fun d => elementAt look ownId d x.1 r.dorg (nibs det) true r.down
    { srcs := sx.elim [] (·.spots), srcNibs := sn,
      dst := match dx with | some x => .mem x.spots | none => .port (r.port.getD 0),
      dstNibs := if r.dst.isSome then nibs det else if r.src.isSome then sn else 2, etype := det,
      mark := sx.elim true (·.mark) || dx.elim false (·.mark),
      clamped := sx.elim false (·.clamped) || dx.elim false (·.clamped),
      sown := sx.elim none (·.own), down := dx.elim none (·.own),
      table := sx.elim [] (·.table) ++ dx.elim [] (·.table), lack := sx.elim [] (·.lack) ++ dx.elim [] (·.lack),
      col := x.2.1, ends := x.2.2 }

/-- The keys of the parcels a flight writes. -/
def Flight.writes (f : Flight) : List Nat :=
  match f.dst with
  | .mem ps => ps.map spotKey
  | .port _ => []

/-- The parcels of the writes that have not landed, apart from those still in the half of the tile that fills (R217, log 84). -/
def pendingWrites (g : Eng) : List Nat :=
  (g.flight.flatMap Flight.writes) ++ (g.cov.filter fun x => x.2.dirty).map (·.1) ++ g.sent.map (·.2.1)

/-- Has an earlier element's write to a parcel not landed (R217)? -/
def unlanded (g : Eng) (key : Nat) : Bool := (pendingWrites g ++ g.tile.flatMap Flight.writes).contains key

/-- Must a read of these parcels wait: an earlier element's write to one has not landed, or 64 write parcels are pending (R217)? -/
def readWaits (g : Eng) (keys : List Nat) : Bool :=
  (keys.any fun k => unlanded g k) || decide (64 ≤ (pendingWrites g).dedup.length)

/-- The look-ups of the next element that may be asked for now: one outside the list ranges waits for an earlier write of the arm to its
parcel (R217, R227). -/
def lookNeeds (s : State) (c e : Nat) (r : Run) (look : Nat → Option Parcel) : List Nat :=
  (nextOf look s.ownId r).lack.filter fun a => s.inListRange a || !unlanded (s.eng c e) (globalKey s.ownId a)

/-- What a read takes of the engine's rate of its step, in 128ths (R220, R222). -/
def rateCost (r : Run) (key : Option Nat) (now : Nat) : Nat :=
  match r.mode with
  | .element => 128
  | .tile => 4
  | .run => if r.lastRd = key && r.slotAt = now then 0 else 32

/-- May the run read now, within its rate? A run in RUN mode ends at ext[0] (R220). -/
def rateAllows (r : Run) (key : Option Nat) (now : Nat) : Bool :=
  let used := if r.slotAt = now then r.used else 0
  let newRow := r.mode = .run && !r.raw && r.idx ≠ 0 && r.idx % max 1 (r.ext.headD 1) = 0
  used + rateCost r key now ≤ 128 && !(newRow && 0 < used)

/-- One source parcel of a flight: read at once in the engine's own core, else asked for over the Trail, unless the engine already waits for
it (R208, R211, R253). fresh says that the engine's last read was of another parcel. -/
def fetchPart (s : State) (c e sees : Nat) (p : Spot) (fresh : Bool) : State × Part :=
  let g := s.eng c e
  let part : Part := { module := p.module, addr := p.addr, rid := g.nextRid, asked := s.now, got := none }
  if p.undec || (p.module = s.ownId && (s.keyOf p.addr).isNone) then
    (if fresh then s.engUndec c e else s, { part with got := some (poisonedParcel p.addr) })
  else if p.module = s.ownId && placeExit p.addr = some (c * 8 + 4) then
    let r := consume ((s.parcelFor (some sees) p.addr (.engine c e 0)).getD {}) p.addr
    let s := if r.2 && fresh then s.countPoison c 1 else s
    (s.setEng c e { (s.eng c e) with last := lastAfter (s.eng c e).last r.1 }, { part with got := some r.1 })
  else
    match ((g.flight ++ g.tile).flatMap (·.srcs)).find? fun x => x.got.isNone && x.module = p.module && x.addr = p.addr with
    | some x => (s, x)
    | none =>
      let s := s.setEng c e { g with nextRid := g.nextRid + 1 }
      (if p.module = s.ownId then s.askFor c p.addr (.engine c e g.nextRid) (some sees) else s.askAway c e p.module p.addr, part)

/-- All source parcels of a flight; last is the key of the engine's last read. -/
def fetchParts (s : State) (c e sees : Nat) (last : Option Nat) (ps : List Spot) : State × List Part :=
  ps.foldl (fun y p =>
    let f := y.1.fetchPart c e sees p (last ≠ some (spotKey p))
    (f.1, y.2 ++ [f.2])) (s, [])

end State

/-- A flight joins those on their way; in TILE mode a block leaves the tile by columns once its last element is in (R221). -/
def Eng.addFlight (g : Eng) (tiled ends : Bool) (f : Flight) : Eng :=
  if !tiled then { g with flight := g.flight ++ [f] }
  else if ends then { g with flight := g.flight ++ (g.tile ++ [f]).foldr insertCol [], tile := [] }
  else { g with tile := g.tile ++ [f] }

/-- The engine issues the read of its next element or parcel (R217, R220, R221, R252). -/
def execStreamElementRead (c : CoreId) (e : BitVec 3) (s : State) : Host.Outcome State Fault Refusal :=
  let k := c.toNat
  let n := e.toNat
  match (s.eng k n).active.bind fun a => a.run.map fun r => (a, r) with
  | none => .next s
  | some (a, r) =>
    let s := State.ctlFetch k n a.at_ (fun look => s.lookNeeds k n r look) 4 s
    let g := s.eng k n
    let x := State.nextOf (s.ctlLook k n) s.ownId r
    let keys := x.srcs.map spotKey
    if x.lack ≠ [] ∨ s.now < r.readyAt ∨ (r.port.isSome ∧ 16 ≤ g.portOut.length) ∨ State.readWaits g keys = true ∨
        State.rateAllows r keys.head? s.now = false ∨ (r.tiled ∧ x.ends ∧ g.flight.any fun f => f.entry = r.no) then .next s
    else
      let got := s.fetchParts k n a.at_ r.lastRd x.srcs
      let used := (if r.slotAt = s.now then r.used else 0) + State.rateCost r keys.head? s.now
      let last := decide (r.idx + 1 = r.total)
      let f : Flight :=
        { entry := r.no, srcs := got.2, lo := x.srcs.head?.elim 0 (·.lo), srcNibs := x.srcNibs, mark := x.mark, dst := x.dst,
          dstNibs := x.dstNibs, add := r.add, etype := x.etype, last, col := x.col }
      let r := { r with
        idx := r.idx + 1, slotAt := s.now, used := if x.clamped && r.mode = .run then 128 else used, lastRd := keys.getLast?,
        sown := x.sown, down := x.down }
      let old := ((State.Flight.writes f).filter fun y => y / 2 ^ 42 = s.ownId && !s.inListRange (y % 2 ^ 42)).map (· % 2 ^ 42)
      let s := got.1.ctlDrop k n (x.table ++ old)
      .next (s.setEng k n { (s.eng k n).addFlight r.tiled x.ends f with
        active := some { a with run := if last then none else some r } })

/-! ## Writes (R213 to R218) -/

namespace State

/-- The value of a flight, once every source parcel has come: its nibbles and its mark (R45, R207). -/
def Flight.value (f : Flight) : Option (Nat × Bool × BitVec 3) :=
  let ps := f.srcs.filterMap (·.got)
  if ps.length = f.srcs.length then
    let d := (ps.zip (List.range ps.length)).foldl (fun v x => v + x.1.data.toNat * 2 ^ (256 * x.2)) 0
    let v := d >>> (4 * f.lo) % 16 ^ f.srcNibs % 16 ^ f.dstNibs
    let poison := f.mark || ps.any (·.poison)
    some (if ps.any (·.poison) || f.srcs.isEmpty then 0 else v, poison, (ps.head?.elim 0 (·.cclass)))
  else none

/-- combine(destination, source) of ADD, and whether an INT32 sum was clamped (R214). -/
def addValue (et cur v : Nat) : Nat × Bool :=
  if et = 11 then
    let r := combine { hi := BitVec.ofNat 32 cur, lo := BitVec.ofNat 32 (cur / 2 ^ 32) }
      { hi := BitVec.ofNat 32 v, lo := BitVec.ofNat 32 (v / 2 ^ 32) }
    (r.hi.toNat + r.lo.toNat * 2 ^ 32, false)
  else if et = 10 then ((dwRound (combine { hi := BitVec.ofNat 32 cur } { hi := BitVec.ofNat 32 v })).toNat, false)
  else let r := addSat32 (BitVec.ofNat 32 cur) (BitVec.ofNat 32 v); (r.1.toNat, r.2)

/-- The types that ADD combines (R214). -/
def addsType (et : Nat) : Bool := et = 11 || et = 10 || et = 4

/-- Does an engine of core c reach the place itself: in its own core, or in a list range, whose writes go into the hold (R227)? -/
def near (s : State) (c : Nat) (p : Spot) : Bool :=
  p.module = s.ownId && (placeExit p.addr = some (c * 8 + 4) || s.inListRange p.addr)

/-- What is at n nibbles of a destination parcel now: from what the entry has written, else from the parcel itself (R214, R217); none
where it has still to be read. -/
def currentOf (s : State) (c e : Nat) (p : Spot) : Option (Nat × Bool) :=
  let v := Sparse.get Cov.reset (s.eng c e).cov (spotKey p)
  let m := (2 ^ p.n - 1) <<< p.lo
  let take := fun (q : Nat) (poison : Bool) => some (q >>> (4 * p.lo) % 16 ^ p.n, poison)
  if v.poison then some (0, true)
  else if v.mask &&& m = m then take v.data false
  else
    let base := if s.near c p then s.parcelAt p.addr else v.old
    base.bind fun q =>
      if q.poison then some (0, true)
      else take ((maskMerge q p.addr v.mask v.data false 0 none).data.toNat) false

/-- A merge of an engine asks for the destination's own parcel, once its earlier writes to it have landed (R217, R218). -/
def askOld (s : State) (c e : Nat) (p : Spot) : State :=
  let g := s.eng c e
  let key := spotKey p
  let v := Sparse.get Cov.reset g.cov key
  if v.asked.isSome || g.sent.any fun x => x.2.1 = key then s
  else
    let s := s.setEng c e { g with
      nextRid := g.nextRid + 1, cov := Sparse.set Cov.reset g.cov key { v with asked := some (g.nextRid, s.now) } }
    if p.module = s.ownId then s.askFor c p.addr (.merge c e g.nextRid) none else s.askAway c e p.module p.addr

/-- A whole parcel goes to another module and is pending until its WRITE_DONE (R334). -/
def writeRemote (s : State) (c e key : Nat) (q : Parcel) : State :=
  let g := s.eng c e
  let v := Sparse.get Cov.reset g.cov key
  let s := s.setEng c e { g with
    cov := Sparse.set Cov.reset g.cov key { v with dirty := false }, nextRid := g.nextRid + 1, sent := g.sent ++ [(s.now, key, g.nextRid)] }
  s.putPkt (sourceKey 0 c 4) s.now
    { flow := .away { ftype := 1, vmask := 1, dmod := key / 2 ^ 42, smod := s.ownId, addr := key % 2 ^ 42, core := c, eng := e },
      addr := key % 2 ^ 42, parcel := q }

/-- Is the write of a piece dropped: undecoded here (R208), or by its ownership table (R349)? -/
def pieceDropped (s : State) (p : Spot) : Bool := p.undec || (p.module = s.ownId && !s.writable p.addr)

/-- A parcel that an engine writes itself: into the hold or its own core, a part merged with what is there, which is verified first (R41,
R218, R227). -/
def mergeNear (s : State) (c e : Nat) (p : Spot) (m : Nat) (w : Cov) : State :=
  let whole := w.poison || decide (w.mask = fullMask)
  let old := (s.parcelAt p.addr).getD {}
  let s := if !whole && mergeFails old p.addr m then s.countPoison c 1 else s
  let q :=
    if w.poison then poisonedParcel p.addr
    else if whole then madeParcel (BitVec.ofNat 256 w.data) w.cclass p.addr
    else maskMerge old p.addr m w.data false 0 none
  let g := s.eng c e
  (s.setEng c e { g with nextRid := g.nextRid + 1 }).putParcelFor (.writer c e g.nextRid) p.addr q

/-- One piece of an element lands (R216, R218): what the entry has covered of the parcel is kept, and the parcel is written merged, whole
once all of it is covered, and poisoned once an element in it is marked. Dropped writes count once for each parcel (R208). -/
def landPiece (s : State) (c e : Nat) (p : Spot) (v : Nat) (poison : Bool) (cclass : BitVec 3) : State :=
  let key := spotKey p
  let g := s.eng c e
  let o := Sparse.get Cov.reset g.cov key
  if s.pieceDropped p then
    if o.mask ≠ 0 then s
    else (s.setEng c e { g with cov := Sparse.set Cov.reset g.cov key { o with mask := fullMask } }).engUndec c e
  else
    let m := (2 ^ p.n - 1) <<< p.lo
    let keep := o.data - (o.data >>> (4 * p.lo) % 16 ^ p.n) <<< (4 * p.lo)
    let w := { o with
      mask := o.mask ||| m, data := keep + v <<< (4 * p.lo), poison := o.poison || poison, cclass, dirty := p.module ≠ s.ownId }
    let s := s.setEng c e { g with
      cov := Sparse.set Cov.reset g.cov key w, poisoned := if poison && !o.poison then g.poisoned + 1 else g.poisoned }
    if p.module ≠ s.ownId then
      if w.mask = fullMask then
        s.writeRemote c e key (if w.poison then poisonedParcel p.addr else madeParcel (BitVec.ofNat 256 w.data) w.cclass p.addr)
      else s
    else if s.near c p then s.mergeNear c e p m w
    else s.writeFor c e p.addr (if w.mask = fullMask then fullMask else m) w.data w.poison w.cclass

/-- The pieces of a value, lowest nibbles first. -/
def splitValue (ps : List Spot) (v : Nat) : List (Spot × Nat) :=
  match ps with
  | [] => []
  | p :: r => (p, v % 16 ^ p.n) :: r.map fun y => (y, v / 16 ^ p.n % 16 ^ y.n)

/-- A value lands at a place in memory; ADD combines it first. none: a parcel has still to be read (R214). -/
def landMem (s : State) (c e : Nat) (f : Flight) (ps : List Spot) (v : Nat) (poison : Bool) (cclass : BitVec 3) : Option State :=
  let write := fun (s : State) (v : Nat) (poison : Bool) =>
    (splitValue ps v).foldl (fun s y => s.landPiece c e y.1 y.2 poison cclass) s
  if f.add && addsType f.etype && !(ps.any fun p => s.pieceDropped p) then
    let cur := ps.map fun p => s.currentOf c e p
    if cur.all (·.isSome) then
      let old := (ps.zip (cur.filterMap id)).foldl (fun (a : Nat × Nat × Bool) y =>
        (a.1 + y.2.1 * 16 ^ a.2.1, a.2.1 + y.1.n, a.2.2 || y.2.2)) (0, 0, false)
      let r := addValue f.etype old.1 v
      let s := if r.2 then s.setEng c e { (s.eng c e) with sat := true } else s
      some (write s r.1 (poison || old.2.2))
    else none
  else
    let s := if f.add && !addsType f.etype then s.setEng c e { (s.eng c e) with last := 6 } else s
    some (write s v poison)

/-- A value goes to a port, packed under R11; a parcel leaves when it is full, or at the end of the entry (R233). -/
def landPort (s : State) (c e : Nat) (f : Flight) (n v : Nat) (poison : Bool) : State :=
  let g := s.eng c e
  let total := g.portN + f.dstNibs
  let data := g.portData + v <<< (4 * g.portN)
  let mark := g.portMark || poison
  let out := fun (d : Nat) (m : Bool) => if m then poisonedParcel 0 else madeParcel (BitVec.ofNat 256 d) 0 0
  if 64 ≤ total then
    let more := if f.last && 64 < total then [(n, out (data >>> 256) mark)] else []
    s.setEng c e { g with
      portOut := g.portOut ++ [(n, out (data % 2 ^ 256) mark)] ++ more, portN := if f.last then 0 else total - 64,
      portData := if f.last then 0 else data >>> 256, portMark := !f.last && mark && decide (64 < total) }
  else if f.last then
    s.setEng c e { g with portOut := g.portOut ++ [(n, out data mark)], portN := 0, portData := 0, portMark := false }
  else s.setEng c e { g with portN := total, portData := data, portMark := mark }

/-- A parcel for another module that the entry covers in part: it is asked for, and then written merged (R218; DEDUCED, log 82). -/
def flushRemote (s : State) (c e : Nat) : State :=
  match (s.eng c e).cov.find? fun x => x.2.dirty with
  | none => s
  | some (key, v) =>
    let a := key % 2 ^ 42
    if v.poison then s.writeRemote c e key (poisonedParcel a)
    else match v.old with
      | some q => s.writeRemote c e key (maskMerge q a v.mask v.data false v.cclass none)
      | none => s.askOld c e { undec := false, module := key / 2 ^ 42, addr := a, lo := 0, n := 64 }

/-- A place whose list-range hold has no room makes the writer stall (R227). -/
def landStalls (s : State) (f : Flight) : Bool :=
  match f.dst with
  | .mem ps => ps.any fun p => p.module = s.ownId && s.holdFull p.addr
  | .port _ => false

end State

/-- The engine's oldest element lands, in element order, once its value has come; else a parcel for another module that has only been
covered in part is merged and sent (R213 to R218, R233). -/
def execStreamElementWrite (c : CoreId) (e : BitVec 3) (s : State) : Host.Outcome State Fault Refusal :=
  let k := c.toNat
  let n := e.toNat
  let g := s.eng k n
  match g.flight with
  | [] => .next (s.flushRemote k n)
  | f :: rest =>
    let dirty := g.cov.any fun x => x.2.dirty
    match State.Flight.value f with
    | none => .next (s.flushRemote k n)
    | some v =>
      if f.entry ≠ g.covEntry && dirty then .next (s.flushRemote k n)
      else if s.landStalls f then .next s
      else
        let g := if f.entry ≠ g.covEntry then { g with covEntry := f.entry, cov := [] } else g
        let s := s.setEng k n { g with flight := rest }
        match f.dst with
        | .port p => .next (s.landPort k n f p v.1 v.2.1)
        | .mem p =>
          match s.landMem k n f p v.1 v.2.1 v.2.2 with
          | some t => .next t
          | none =>
            let s := s.setEng k n { (s.eng k n) with flight := f :: rest }
            .next (p.foldl (fun s x => if (s.currentOf k n x).isNone then s.askOld k n x else s) s)

/-! ## Ports, completion and timeouts -/

/-- A port takes a parcel by handshake: RESID while a DRAIN reads this engine, the weight input while a gather runs; any other port
drops it as undecoded (R191, R156, R233). -/
def execPortDelivery (c : CoreId) (e : BitVec 3) (s : State) : Host.Outcome State Fault Refusal :=
  let k := c.toNat
  let n := e.toNat
  let g := s.eng k n
  match g.portOut with
  | [] => .next s
  | (port, p) :: rest =>
    let q := s.consumeAt k p 0
    let taken := q.1.setEng k n { (q.1.eng k n) with portOut := rest, poisoned := if q.2.poison then g.poisoned + 1 else g.poisoned }
    if port = 0xFFFE then
      let d := s.drn k
      if d.q.any fun x => x.cfg.on 3 && x.cfg.residEng = e then
        .next (taken.setDrn k { d with resid := Sparse.set [] d.resid n (Sparse.get [] d.resid n ++ [q.2]) })
      else .next s
    else if port = 0xFFFD then
      let v := s.vec k
      if v.q.any fun x => x.kind = .mvsGather then .next (taken.setVec k { v with wport := v.wport ++ [q.2] }) else .next s
    else .next ((s.setEng k n { g with portOut := rest }).engUndec k n)

/-- An arm is complete once its walk has ended, every element has landed, every remote write has been answered and every port delivery
taken (R230); then its RESID stream, if it had one, has ended (R191). -/
def execArmComplete (c : CoreId) (e : BitVec 3) (s : State) : Host.Outcome State Fault Refusal :=
  let k := c.toNat
  let n := e.toNat
  let g := s.eng k n
  match g.active with
  | none => .next s
  | some a =>
    if a.ended && a.run.isNone && g.flight.isEmpty && g.tile.isEmpty && g.sent.isEmpty && g.portOut.isEmpty &&
        !(g.cov.any fun x => x.2.dirty) then
      let s := s.setEng k n { g with active := none, ctl := [], cov := [], covEntry := 0, portN := 0, portData := 0, portMark := false }
      let d := s.drn k
      .next (if a.resid && !d.residEnd.contains n then s.setDrn k { d with residEnd := d.residEnd ++ [n] } else s)
    else .next s

/-- The oldest reads of an engine that have not returned after 1,048,576 steps, as those who wait for them (R245). -/
def State.overdue (s : State) (c e : Nat) : List (Requester × Nat) :=
  let g := s.eng c e
  let late := fun (t : Nat) => decide (t + 1048576 ≤ s.now)
  (((g.flight ++ g.tile).flatMap (·.srcs)).filter fun x => x.got.isNone && late x.asked).map (fun x => (.engine c e x.rid, x.addr)) ++
    (g.cov.filterMap fun x => x.2.asked.bind fun y =>
      if x.2.old.isNone && late y.2 then some (.merge c e y.1, x.1 % 2 ^ 42) else none) ++
    (g.ctl.filterMap fun x => x.2.bind fun y => if y.got.isNone && late y.asked then some (.ctl c e y.rid, x.1) else none)

/-- A read that has not returned 1,048,576 steps after it was issued yields a poisoned parcel (R245). -/
def execStreamReadTimeout (c : CoreId) (e : BitVec 3) (s : State) : Host.Outcome State Fault Refusal :=
  let k := c.toNat
  let n := e.toNat
  match s.overdue k n with
  | [] => .next s
  | (who, a) :: _ =>
    let p := poisonedParcel a
    let t := match who with
      | .engine _ _ rid => s.engineGot k n rid p
      | .merge _ _ rid => s.mergeGot k n rid p
      | .ctl _ _ rid => s.ctlGot k n rid p
      | _ => s
    .next ((t.setEng k n { (t.eng k n) with last := 4 }).countPoison k 1)

/-- A write that has not landed within 1,048,576 steps counts as landed, with one poisoned error (R245). -/
def execStreamWriteTimeout (c : CoreId) (e : BitVec 3) (s : State) : Host.Outcome State Fault Refusal :=
  let k := c.toNat
  let n := e.toNat
  let g := s.eng k n
  match g.sent.find? fun x => decide (x.1 + 1048576 ≤ s.now) with
  | some x => .next ((s.setEng k n { g with sent := g.sent.erase x, last := 4 }).countPoison k 1)
  | none => .next s

/-! ## The list hold (R227) -/

/-- Do n bytes from a local address on meet a parcel? -/
def runMeets (a n p : Nat) : Bool := decide (a < p + 32 ∧ p < a + n) || decide (2 ^ 42 < a + n)

/-- May a transfer read a parcel by a descriptor: its index tensor, its ownership table, or, as source, its elements (R210, R349)? -/
def State.descReads (s : State) (sees p : Nat) (d : Desc) (source : Bool) : Bool :=
  let table := d.ownAddr / 32 * 32
  (d.gen && runMeets d.indexBytes.1 d.indexBytes.2 p) ||
    (d.ownEn && (source || runMeets table (32 + 8 * fieldAt (s.armBytes sees table 8) 4 4) p)) ||
    (source && !d.ownEn && (d.isLocal || decide (d.module = s.ownId)) &&
      (decide (d.span.1 < 0 ∨ 2 ^ 42 < d.span.2) || decide (d.span.1 < p + 32 ∧ (p : Int) < d.span.2)))

/-- May an arm still read a parcel as it was: as part of a list or a descriptor, through a descriptor, or as a source (R227)? -/
def State.armReads (s : State) (p : Nat) (a : Arm) : Bool :=
  let run := fun (r : Run) =>
    (r.raw && decide (r.saddr / 2 ^ 42 = s.ownId) && runMeets (r.saddr % 2 ^ 42) (32 * r.total) p) ||
      r.src.any (fun d => s.descReads a.at_ p d true) || r.dst.any fun d => s.descReads a.at_ p d false
  a.run.any run ||
    (!a.ended && s.walkAny a.at_ (fun at_ v => runMeets at_ 16 p ||
      (v % 16 = 1 && decide (bitsOf v 71 58 = s.ownId) && runMeets (bitsOf v 57 21 * 32) (32 * (bitsOf v 15 5 + 1)) p) ||
      (s.entryDescs a.at_ v).any fun x => runMeets x.1 64 p || s.descReads a.at_ p x.2 true) 4294967296 a.list a.next [a.list])

/-- Has an engine asked for a parcel that has not come? -/
def Eng.asks (g : Eng) (ownId p : Nat) : Bool :=
  ((g.flight ++ g.tile).any fun f => f.srcs.any fun x => x.got.isNone && x.module = ownId && x.addr = p) ||
    g.ctl.any fun x => x.1 = p && x.2.any fun y => y.got.isNone

/-- May an arm accepted in the step of a held write or before still read the parcel as it was before it (R227)? -/
def State.mayRead (s : State) (h : Held) (g : Eng) : Bool :=
  (g.active.any fun a => decide (a.at_ ≤ h.at_) && (g.asks s.ownId h.addr || s.armReads h.addr a)) ||
    [g.queued, g.reserved].any fun q => q.any fun a => decide (a.at_ ≤ h.at_) && s.armReads h.addr a

/-- The oldest held write that may be is applied to memory: one whose parcel every arm accepted before it has finished reading (R227). -/
def execListHoldApply (s : State) : Host.Outcome State Fault Refusal :=
  match s.holdq.find? fun h => !(s.cores.eng.any fun x => s.mayRead h x.2) with
  | none => .next s
  | some h =>
    let s := { s with holdq := s.holdq.erase h }
    match s.keyOf h.addr with
    | some k => .next (s.storeParcel h.who k h.addr h.parcel)
    | none => .next s

end Sys2Proof.Machine
end

