-- ==== Sys2Proof/Machine/Daypack.lean ====
section
/-! DEFINITION. The Daypack path (R238 to R240, R256, R260): the DPK instructions, the Daypack steps of the routers and the landing of a
transfer. -/

namespace Sys2Proof.Machine

/-- The transfer that AREG names: module and local address, bits [4:0] ignored (R238). -/
def dpkAddr (q : Seq) (areg : BitVec 4) : Nat :=
  let v := (q.reg areg).toNat
  globalKey (bitsOf v 55 42) (bitsOf v 41 5 * 32)

/-- The core-store offset that LOCAL names, bits [4:0] ignored (R175, R238). -/
def dpkLocal (q : Seq) (ia : Bool) (loc : BitVec 18) : Nat := fieldMod q ia loc 18 / 32 * 32

/-- The local parcels of a transfer, as the core consumes them (R41, R238). -/
def State.dpkRead (s : State) (c off n : Nat) : State × List Parcel :=
  (List.range n).foldl (fun (x : State × List Parcel) i =>
    let a := coreAddr c ((off + 32 * i) % 0x40000)
    let r := x.1.consumeAt c ((x.1.parcelAt a).getD {}) a
    (r.1, x.2 ++ [r.2])) (s, [])

/-- Does the core's Daypack queue hold 32 transfers (R239)? -/
def State.dpkFull (s : State) (c : Nat) : Bool := decide (32 ≤ (s.dpkq c).length)

/-- DPK with DIR 0: the local parcels are read and go to the destination, or are held in the bundle; with the queue full it does not
execute and counts one poisoned error (R194, R238 to R240). -/
def execDpkOut (c : CoreId) (bm ia : Bool) (lenM1 : BitVec 3) (areg : BitVec 4) (loc : BitVec 18) (s : State) :
    Host.Outcome State Fault Refusal :=
  let k := c.toNat
  let q := s.seq k
  let n := lenM1.toNat + 1
  let i := Instr.dpkOut c bm ia lenM1 areg loc
  if bm && !(s.bnd k).isOpen then s.issue c i true (s.stray k)
  else if !bm && s.dpkFull k then s.issue c i true (s.countPoison k 1)
  else
    let r := s.dpkRead k (dpkLocal q ia loc) n
    let t := r.1
    if bm then
      let t := t.addAction k (.dpk (dpkAddr q areg) (dpkLocal q ia loc) r.2) n
      s.issue c i true (if r.2.any (·.poison) then t.bundleCause k causePoison else t)
    else
      s.issue c i true (t.dpkStart k (s.outDpk (dpkAddr q areg) (dpkLocal q ia loc) r.2))

/-- A parcel of a transfer is written where it arrived, as it is (R40): an address that does not decode drops it and counts one poisoned
error (R208). The second part says whether it has landed; one on its way through a slice lands there. -/
def State.dpkStore (s : State) (c id i a : Nat) (p : Parcel) : State × Bool :=
  if !s.writable a then (s.countPoison c 1, true)
  else if s.inListRange a || !isSliced a then (s.putParcel a p, true)
  else (s.putParcelFor (.daypack c id i) a p, false)

/-- DPK with DIR 1: the remote parcels are read and written at LOCAL; with the queue full it does not execute, LOCAL is written poisoned and
one poisoned error counted (R238 to R240). -/
def execDpkIn (c : CoreId) (ia : Bool) (lenM1 : BitVec 3) (areg : BitVec 4) (loc : BitVec 18) (s : State) :
    Host.Outcome State Fault Refusal :=
  let k := c.toNat
  let q := s.seq k
  let n := lenM1.toNat + 1
  let off := dpkLocal q ia loc
  let i := Instr.dpkIn c ia lenM1 areg loc
  if s.dpkFull k then
    s.issue c i true ((List.range n).foldl (fun s j =>
      let a := coreAddr k ((off + 32 * j) % 0x40000)
      if s.writable a then s.putParcel a (poisonedParcel a) else s) (s.countPoison k 1))
  else
    s.issue c i true (s.dpkStart k
      { out := false, loc := off, gaddr := dpkAddr q areg, len := n, issued := s.now, id := 0, got := [], landed := 0, back := [] })

/-! ## The routers (R250, R251, R260) -/

/-- The fixed input order of an output: CORE, W, E, N, S, SLICE, EDGE (R260). -/
def inputOrder : List Nat := [4, 3, 1, 0, 2, 5, 6]

namespace State

/-- The queue of Daypack parcels at a router's input. -/
def dpkAt (s : State) (plane router input : Nat) : List DpkParcel := Sparse.get [] s.trail.dpk (planeKey plane router input)

/-- Has the output done its work for this step? -/
def outDone (s : State) (plane router out : Nat) : Bool := Sparse.get 0 s.trail.outDone (planeKey plane router out) = s.now + 1

def markOut (s : State) (plane router out : Nat) : State :=
  { s with trail := { s.trail with outDone := Sparse.set 0 s.trail.outDone (planeKey plane router out) (s.now + 1) } }

/-- The output that a Daypack parcel wants at a router; none where its destination is gone. -/
def dpkWants (s : State) (router : Nat) (q : DpkParcel) : Option Nat := (s.dpkExit q.dest).map fun x => dimOrder router x.1 x.2

/-- The flit that a Daypack parcel makes at a port: its own header where it has one, else that of its transfer (R325, R334). -/
def dpkFlit (s : State) (q : DpkParcel) : FHead :=
  q.head.getD { ftype := if q.ask then 2 else 1, vmask := 1, dmod := q.dest / 2 ^ 42, smod := s.ownId, addr := q.dest % 2 ^ 42, core := q.core,
                dpk := true }

/-- A request for a parcel is served where it lies: for a transfer of this module, or for another module (R238, R334). -/
def dpkServe (s : State) (q : DpkParcel) (router out : Nat) : State :=
  let a := q.dest % 2 ^ 42
  let who : Requester := match q.head with | some h => .remote h | none => .daypack q.core q.id q.i
  if out = 5 then s.sliceReq { readReq a who none none with ord := s.offTrail }
  else s.answer router 4 s.now (readReq a who none none) ((s.parcelFor none a).getD {})

/-- A Daypack parcel is written where it lies, for a transfer of this module or for another module's WRITE flit (R238, R334). -/
def dpkWrite (s : State) (q : DpkParcel) : State :=
  let a := q.dest % 2 ^ 42
  match q.head with
  | some _ => s.writeIn (.remoteW q.id) a q.parcel
  | none =>
    let r := s.dpkStore q.core q.id q.i a q.parcel
    if r.2 then r.1.dpkLanded q.core q.id 1 else r.1

/-- A Daypack parcel leaves the network at a router's output: into a core store, through a slice, or as a flit. A read that is no longer waited
for is discarded (R238, R245, R260). -/
def dpkArrive (s : State) (q : DpkParcel) (router out : Nat) : State :=
  if out = 6 then
    let h := s.dpkFlit q
    s.portFlit ((portAtRouter router).getD 0) h (if h.ftype = 2 ∨ h.ftype = 5 then [] else [q.parcel])
  else if q.ask then s.dpkServe q router out
  else if q.into then
    if (s.dpkq q.core).any fun d => d.id = q.id && !d.out then
      (s.dpkStore q.core q.id q.i (q.dest % 2 ^ 42) q.parcel).1.dpkTaken q.core q.id q.i q.parcel
    else s
  else s.dpkWrite q

/-- May a Daypack parcel go through this output now: there is room in the next router's 4-parcel buffer, or in the list hold? -/
def dpkRoom (s : State) (plane router out : Nat) (q : DpkParcel) : Bool :=
  if out < 4 then
    let h := hop router out
    decide ((s.dpkAt plane h.1 h.2.1).length < 4)
  else out = 6 || q.ask || !s.holdFull (q.dest % 2 ^ 42)

end State

/-- In a Daypack step a router output forwards one parcel, from the first input of the fixed order whose oldest parcel wants it (R256,
R260). -/
def execDaypackStep (plane : BitVec 2) (router : CoreId) (out : BitVec 3) (s : State) : Host.Outcome State Fault Refusal :=
  let p := plane.toNat
  let r := router.toNat
  let o := out.toNat
  if o = 7 then .fault .illFormed
  else if s.now % 16 ≠ 15 ∨ hasOutput p r o = false ∨ s.outDone p r o = true then .next s
  else
    let pick := inputOrder.findSome? fun i =>
      match s.dpkAt p r i with
      | q :: rest =>
        if q.avail ≤ s.now ∧ s.dpkWants r q = some o ∧ s.dpkRoom p r o q = true then some (i, q, rest) else none
      | [] => none
    match pick with
    | none => .next s
    | some (i, q, rest) =>
      let t := s.trail
      let s := { s with trail := { t with
        dpk := Sparse.set [] t.dpk (planeKey p r i) rest, dpkHoldMax := max t.dpkHoldMax ((s.now - q.avail) / 16) } }
      let s := s.markOut p r o
      if o < 4 then
        let h := hop r o
        .next (s.injectDpk p h.1 h.2.1 { q with avail := s.now + h.2.2 })
      else .next (s.dpkArrive q r o)

/-- A transfer leaves its core's queue, and the first bundled one that waits for a place takes it (R198, R239). -/
def State.dpkDone (s : State) (c k : Nat) : State :=
  let s := s.setDpkq c ((s.dpkq c).eraseIdx k)
  match (s.bnd c).late with
  | [] => s
  | (gaddr, loc, ps) :: rest =>
    if s.dpkFull c then s else (s.setBnd c { (s.bnd c) with late := rest }).dpkStart c (s.outDpk gaddr loc ps)

/-- A transfer of a core leaves its queue once its last parcel has landed, or 1,048,576 steps after its issue: then the parcels of a read
that has not returned are written poisoned, and each missing parcel counts one poisoned error (R239, R245). -/
def execDaypackLand (c : CoreId) (k : Nat) (s : State) : Host.Outcome State Fault Refusal :=
  let cc := c.toNat
  match (s.dpkq cc)[k]? with
  | none => .next s
  | some d =>
    if d.len ≤ d.landed then .next ((s.dpkDone cc k).landArrive cc)
    else if d.issued + 1048576 ≤ s.now then
      let missing := (List.range d.len).filter fun i => !d.got.any fun x => x.1 = i
      let s := s.countPoison cc (d.len - d.landed)
      let s := if d.out then s else missing.foldl (fun s i =>
        let a := coreAddr cc ((d.loc + 32 * i) % 0x40000)
        if s.writable a then s.putParcel a (poisonedParcel a) else s) s
      .next ((s.dpkDone cc k).landArrive cc)
    else .next s

end Sys2Proof.Machine
end

