-- ==== Sys2Proof/Machine/PaceOps.lean ====
section
/-! DEFINITION. The rate in force (R382), the system master and the start tree (R341, R342), and the deciding and applying of lowerings
(R383 to R387, R343). -/

namespace Sys2Proof.Machine

/-- May d rise from this level (R382)? -/
def canLower (target d : Nat) : Bool := decide (400000 ≤ target * (50 - (d + 1)) / 50)

namespace State

/-! ## The system (R341, R342) -/

/-- Is this module the system master (R341)? -/
def isMaster (s : State) : Bool := s.pwr.straps.mstrSel && decide (leNat (s.dictVal 0x500200 [0]) ≠ 0)

/-- The port toward the master (R342, R353). -/
def upstream (s : State) : Option Nat :=
  let p := leNat (s.dictVal 0x501100 [0xFF])
  if p < 12 then some p else none

/-- Is a port up? -/
def portUp (s : State) (p : Nat) : Bool := (s.gport p).state = 3

/-- The master IDs that the ports see (R341). -/
def mastersSeen (s : State) : List Nat :=
  ((List.range 12).filter fun p => s.portUp p && decide ((s.gport p).master ≠ 0xFFFF)).map fun p => (s.gport p).master.toNat

/-- Two different master IDs, or at a master another's (R341)? -/
def masterConflict (s : State) : Bool :=
  match s.mastersSeen with
  | [] => false
  | m :: r => r.any (· ≠ m) || (s.isMaster && decide (m ≠ s.ownId))

/-- 0x5004.00 GL_SYNC_STATE: 0 free-running, 1 locking, 2 locked, 3 master, 4 conflict. -/
def syncState (s : State) : Nat := if s.masterConflict then 4 else if s.isMaster then 3 else s.gl.sync.toNat

/-- 0x5005.00 GL_MASTER_ID. -/
def masterId (s : State) : Nat := if s.isMaster then s.ownId else s.mastersSeen.headD 0xFFFF

/-- The children in the start tree (R342). -/
def startChildren (s : State) : List Nat := (List.range 12).filter fun p => s.portUp p && (s.gport p).child

/-- The reference of a non-master follows its upstream port: it begins to lock when the port is up and is lost with it (R342). -/
def resync (s : State) : State :=
  let on := match s.upstream with | some p => s.portUp p | none => false
  { s with gl := { s.gl with sync := if !on then 0 else if s.gl.sync = 0 then 1 else s.gl.sync } }

/-- The fields of a symbol as its block starts: ACK and NAK name what is expected then, TIME and START carry the counter of then, and TIME's
HOLD runs to then; the fields of a TIME bring how far into its step its block starts (R335, R344). -/
def symFields (s : State) (p stype fields : Nat) : Nat :=
  let g := s.gport p
  let now := s.now % 2 ^ 64 * 64 + s.pace.frac.toNat
  if stype = 0x01 then g.rxExp.toNat * 2 ^ 228 + fields % 256 * 2 ^ 220 + g.rxSseq.toNat * 2 ^ 212
  else if stype = 0x02 then g.rxExp.toNat * 2 ^ 228
  else if stype = 0x30 then
    let now := (now + fields / 2 ^ 170 % 64) % 2 ^ 70
    now * 2 ^ 170 + g.peerT1 % 2 ^ 70 * 2 ^ 100 + (if g.peerAt = 0 then 0 else (now + 2 ^ 70 - g.peerAt) % 2 ^ 32) * 2 ^ 68 +
      fields % 2 ^ 68
  else if stype = 0x21 then fields + now * 2 ^ 106
  else fields

/-- Does a pack that uses Guyline run? -/
def glRun (s : State) : Bool := s.gl.usesGl && decide (s.pack.state = .running)

/-! ## Lowerings -/

/-- A lowering takes effect: RATE, RATE_DEV_COUNT, DAMP_CAUSE and DAMP_LOG (R384, R385). -/
def applyLowering (s : State) (cause : Byte) : State :=
  let p := s.pace
  let e : DampEntry :=
    { step := BitVec.ofNat 64 s.now, level := BitVec.ofNat 8 (p.level + 1), cause, hotspot := BitVec.ofInt 16 s.cool.hotspot }
  let log := p.log ++ [e]
  { s with pace := { p with
      level := p.level + 1, cause := cause.toNat, devCount := p.devCount + 1, log := log.drop (log.length - 64),
      blocks := p.blocks.map fun b => { b with pending := false } } }

/-- A lowering that d has no room for: counted, alerted, not applied (R387). -/
def floorHit (s : State) : State :=
  ({ s with pace := { s.pace with floorHits := s.pace.floorHits + 1 } }).alert .floorHit

/-- The first step of the Damper interval after the next one (R384, R387). -/
def dampStep (s : State) : Nat := (s.now / 16384 + 2) * 16384

/-- RATE_SET to every child (R343). -/
def sendRateSet (s : State) (rate step : Nat) : State :=
  s.startChildren.foldl (fun s p => s.sendSym p 0x41 (rate % 2 ^ 21 * 2 ^ 219 + step % 2 ^ 64 * 2 ^ 155)) s

/-- The step target and d that a rate of RATE_SET leaves: one level down or up where it is that level's rate, else a step target, which
keeps d (R343, R386, R387; log 32). -/
def rateLeaves (t : Nat × Nat) (rate : Nat) : Nat × Nat :=
  if rate < rateOf t.1 t.2 ∧ rate = rateOf t.1 (t.2 + 1) then (t.1, t.2 + 1)
  else if 0 < t.2 ∧ rate = rateOf t.1 (t.2 - 1) then (t.1, t.2 - 1)
  else (rate, t.2)

/-- The step target and d once every rate already sent has taken effect. -/
def rateAhead (s : State) : Nat × Nat := s.gl.rateSets.foldl (fun t x => rateLeaves t x.1) (s.pace.target, s.pace.level)

/-- The master sets a rate 16,384 steps on; the mark says whether it is the decrement of a RATE_REQ (R343). -/
def masterSet (s : State) (rate : Nat) (decrement : Bool) : State :=
  let at_ := s.now + 16384
  ({ s with gl := { s.gl with rateSets := s.gl.rateSets ++ [(rate, at_, decrement)] } }).sendRateSet rate at_

/-- A request at the master: one decrement from the rate that the sets already sent leave, into which later requests merge until it
applies (R343). -/
def masterRequest (s : State) : State :=
  let s := { s with gl := { s.gl with rateReqAt := s.nowMs } }
  let t := s.rateAhead
  if s.gl.rateSets.any fun x => x.2.2 then s
  else if canLower t.1 t.2 then s.masterSet (rateOf t.1 (t.2 + 1)) true
  else s.floorHit

/-- A cause decides a lowering: at step S, or, while a pack that uses Guyline runs, by a request to the master (R343, R384, R387). -/
def decideLowering (s : State) (cause : Byte) : State :=
  if s.glRun then
    if s.isMaster then s.masterRequest
    else if canLower s.pace.target s.pace.level then
      match s.upstream with
      | some p => s.sendSym p 0x40 (s.ownId % 16384 * 2 ^ 226)
      | none => s
    else s.floorHit
  else if canLower s.pace.target (s.pace.level + s.pace.lowerings.length) then
    { s with pace := { s.pace with lowerings := s.pace.lowerings ++ [(s.dampStep, cause)] } }
  else s.floorHit

/-- A rate that a RATE_SET gives: one level down or up where it is that level's rate, else a step target, which keeps d (R343, R386,
R387; log 32). -/
def applyRate (s : State) (rate : Nat) : State :=
  let p := s.pace
  if rate < s.rate ∧ rate = rateOf p.target (p.level + 1) then s.applyLowering 4
  else if 0 < p.level ∧ rate = rateOf p.target (p.level - 1) then
    ({ s with pace := { p with level := p.level - 1 } }).unalert .floorHit
  else { s with pace := { p with target := rate } }

end State

end Sys2Proof.Machine
end

