-- ==== Sys2Proof/Machine/Domains.lean ====
section
/-! DEFINITION. Power domains (R389, R390): what a domain loses with its power, and how its state changes. -/

namespace Sys2Proof.Machine

namespace State

/-- Is a Guyline port enabled (R353)? -/
def portEnabled (s : State) (p : Nat) : Bool := bitOf (leNat (s.dictVal 0x501200 [0xFF, 0x0F])) p

/-- A Guyline port goes dark, to electrical idle, or disabled (R323). -/
def portIdle (s : State) (p : Nat) : State :=
  let g := s.gport p
  s.setPort p { GPort.reset with state := if s.portEnabled p then 1 else 0, delay := g.delay }

/-- The core block of a core. -/
def blockOf (c : Nat) : Nat := c / 64 / 8 * 8 + c % 64 / 8

/-- The cores of a block lose their state, their stores and their accumulator memories; repairs and isolation stay (R104, R249). -/
def blockLost (s : State) (b : Nat) : State :=
  let keep := fun (c : Nat) => decide (blockOf c ≠ b)
  let k := s.cores
  let mem := ((List.range 2048).filter fun c => blockOf c = b).foldl (fun (m : Memory) c =>
    (m.wipe (coreAddr c 0) (coreAddr c 0 + 0x40000)).wipe (accAddr c 0) (accAddr c 0 + 0x40000)) s.mem
  { s with
    mem,
    cores := { k with
      seq := k.seq.filterMap fun x => if keep x.1 then some x else if x.2.st = 5 then some (x.1, { Seq.reset with st := 5 }) else none,
      arr := k.arr.map fun x => if keep x.1 then x else (x.1, { Arr.reset with repair := x.2.repair }), acc := k.acc.filter fun x => keep x.1,
      drn := k.drn.filter fun x => keep x.1, vec := k.vec.filter fun x => keep x.1, bnd := k.bnd.filter fun x => keep x.1,
      cnt := k.cnt.filter fun x => keep x.1, eng := k.eng.filter fun x => keep (x.1 / 8), dpk := k.dpk.filter fun x => keep x.1 } }

/-- What a domain holds is lost (*Table: Power domains*). -/
def domainLost (s : State) (d : Nat) : State :=
  if d = 1 then ({ s with rng := { s.rng with baseReady := false } }).loseOpen
  else if 2 ≤ d ∧ d ≤ 33 then s.blockLost (d - 2)
  else if 34 ≤ d ∧ d ≤ 37 then
    let lo := 64 * (d - 34)
    { s with slices := Sparse.clear s.slices lo (lo + 64),
             mem := s.mem.wipe (0x010000000000 + lo * 0x400000) (0x010000000000 + (lo + 64) * 0x400000) }
  else if 38 ≤ d ∧ d ≤ 41 then
    let lo := 64 * (d - 38)
    { s with mem := s.mem.wipe (lo * 0x80000000) ((lo + 64) * 0x80000000),
             mm := { s.mm with chans := s.mm.chans.map fun x =>
               if lo ≤ x.1 ∧ x.1 < lo + 64 then (x.1, { Chan.reset with failed := x.2.failed, band := x.2.band }) else x },
             wimg := { s.wimg with hash := 0, state := 0, mapLoaded := false } }
  else s

/-- A Guyline domain that is not on leaves its ports idle and the lock lost; one that comes on lets them start again (R323, R390). -/
def linksChange (s : State) (d : Nat) : State :=
  ((List.range 6).foldl (fun s i => s.portIdle (6 * (d - 42) + i)) s).resync

/-- A domain changes its state: 0 off, 1 retention, 2 on (R389, R390). -/
def toDomain (s : State) (d v : Nat) : State :=
  if s.pwr.domains.getD d 0 = v then s
  else
    let s := s.setDomains d d v
    let s := if v = 0 then s.domainLost d else s
    let s := if d = 1 ∧ v = 1 then ({ s with rng := { s.rng with baseReady := false } }).loseOpen else s
    if 42 ≤ d then s.linksChange d else s

end State

end Sys2Proof.Machine
end

