-- ==== Sys2Proof/Machine/Control.lean ====
section
/-! DEFINITION. The control block of a core (R200): what each offset reads as, and what a write to CORE_CTRL does. -/

namespace Sys2Proof.Machine

/-- A flag as 0 or 1. -/
def bn (b : Bool) : Nat := if b then 1 else 0

/-- CORE_CTRL (R200). -/
def Seq.ctrlReg (q : Seq) : Nat := 2 * bn q.isolate + bn q.stop

/-- CORE_STAT (R200). -/
def coreStat (q : Seq) (bundle compat strict : Bool) : Nat :=
  q.pc.toNat * 65536 + bn bundle * 128 + bn compat * 64 + bn strict * 32 + q.st.toNat

/-- CORE_FAULT (R200). -/
def Seq.faultReg (q : Seq) : Nat := q.fCount * 2 ^ 24 + q.fPc.toNat * 4096 + bn q.fValid * 256 + q.fCode.toNat

/-- ACC_FAULT (R138). -/
def Seq.accFaultReg (q : Seq) : Nat :=
  q.aCount * 2 ^ 24 + q.aPass.toNat * 65536 + q.aSlot.toNat * 512 + bn q.aValid * 256 + q.aCode.toNat

/-- ARR_RESERR (R94). -/
def Arr.resErrReg (a : Arr) : Nat := min a.errCount 0xFFFF * 65536 + bn a.errSeen * 64 + a.errCol.toNat

/-- ACC_SAT (R130). -/
def Acc.satReg (a : Acc) : Nat := min a.drained 0xFFFF * 65536 + a.sat.toNat

/-- VEC_STAT. -/
def Vec.statReg (v : Vec) : Nat := min v.drop 0xFFFF * 65536 + min v.capViol 0xFF * 256 + min v.resErr 0xFF

/-- BND_STAT (R200). -/
def Bnd.statReg (b : Bnd) : Nat :=
  min b.aborts 0xFFF * 2 ^ 20 + min b.commits 0xFFF * 256 + b.lastCause.toNat * 16 + bn b.pcommit * 8 + bn b.stray * 4

/-- STRM_STAT (R232). -/
def Eng.statReg (e : Eng) : Nat :=
  min e.poisoned 0xFF * 2 ^ 24 + min e.undec 0xFF * 65536 + min e.rejects 0xFF * 256 + e.last.toNat * 16 + bn e.sat * 8 +
    bn e.reserved.isSome * 4 + bn e.queued.isSome * 2 + bn e.active.isSome

/-- The scalar register that SREG_VIEW shows while the core is halted, 0 otherwise (R200). -/
def Seq.view (q : Seq) (i : Nat) : Nat := if q.st = 3 || q.st = 4 then (q.reg (BitVec.ofNat 4 i)).toNat else 0

/-- A management write of a control block: only CORE_CTRL takes one (R200). -/
def State.controlWrite (s : State) (c off v : Nat) : State :=
  if off = 0 then s.setSeq c { (s.seq c) with isolate := bitOf v 1, stop := bitOf v 0 } else s

end Sys2Proof.Machine
end

