-- ==== Sys2Proof/Machine/Pacing.lean ====
section
/-! DEFINITION. Step permits (R377 to R379), the Damper (R380, R381), the applying and restoring of rates (R384 to R387), the power cap (R388),
power domains (R390), the coolant loop (R391 to R394) and the thermal trip (R395). -/

namespace Sys2Proof.Machine

/-- The pacers release one step permit; one whose handshake has not completed is a permit overrun (R377, R379). -/
def execStepPermit (late : Bool) (s : State) : Host.Outcome State Fault Refusal :=
  if s.pace.running then
    .next { s with
      pace := { s.pace with
        step := (s.pace.step + 1) % 2 ^ 64, overruns := if late then s.pace.overruns + 1 else s.pace.overruns },
      log := { s.log with stepDevs := s.deviations } }
  else .next s

/-- The Damper's action on a block for the smallest slack of an interval, in 1/64 step: the block after it, and whether it asks for a
lowering (R380, R381, R383). atFloor: no lowering is left, so the block keeps the reserve while it needs it (log 33). -/
def damp (atFloor : Bool) (rate slack : Nat) (b : VBlock) : VBlock × Bool :=
  let asks := decide (slack < 6 ∧ 114 ≤ b.code) && !b.pending
  let pending := if atFloor then decide (slack < 6 ∧ 114 ≤ b.code) else b.pending || asks
  let top := if pending then 120 else 114
  let run := if rate = 400000 ∧ b.code = 120 ∧ slack < 2 then b.floorRun + 1 else 0
  let high := if 14 < slack then min 4 (b.high + 1) else 0
  let code :=
    if b.code > 114 ∧ !pending then b.code - 1
    else if slack < 2 then max b.code (min top (b.code + 4))
    else if slack < 6 then max b.code (min top (b.code + 1))
    else if high = 4 then b.code - 1
    else b.code
  ({ code, high, pending, floorRun := run }, asks)

/-- The end of a Damper interval: every block's voltage code, a voltage lowering if a block asks for one, and the failure of R387. -/
def execDamperInterval (slack : List Nat) (s : State) : Host.Outcome State Fault Refusal :=
  if slack.length ≠ 32 then .fault .illFormed
  else
    let n := s.now / 16384
    if !s.pace.running || n ≤ s.pace.interval then .next s
    else
      let atFloor := !canLower s.pace.target s.pace.level
      let r := (s.pace.blocks.zip slack).map fun x => damp atFloor s.rate x.2 x.1
      let blocks := r.map (·.1)
      let s := { s with pace := { s.pace with interval := n, blocks } }
      let s := if r.any (·.2) then s.decideLowering 1 else s
      .next (if blocks.any fun b => b.floorRun = 1024 then s.moduleFatal .permit else s)

/-- A decided lowering takes effect at its step S (R384, R385). -/
def execLoweringApply (s : State) : Host.Outcome State Fault Refusal :=
  match s.pace.lowerings with
  | (at_, cause) :: rest =>
    if at_ ≤ s.now then .next (({ s with pace := { s.pace with lowerings := rest } }).applyLowering cause) else .next s
  | [] => .next s

/-- Does the tray own the valve (R393)? -/
def State.trayValve (s : State) : Bool := s.cool.owner = 1

/-- Once a second: a hotspot above 95 °C with the valve at 100 % duty, or under tray ownership, decides a lowering (R383). -/
def execThermalCheck (s : State) : Host.Outcome State Fault Refusal :=
  if s.nowMs < s.pace.lastThermal + 1000 || !s.pace.running || s.rng.restarting then .next s
  else
    let hot := decide (1520 < s.cool.hotspot) && (s.trayValve || decide (s.cool.duty = 100000))
    let s := { s with pace := { s.pace with lastThermal := s.nowMs } }
    .next (if hot then s.decideLowering 2 else s)

/-- Do the conditions of R386 for a restore hold? -/
def State.mayRestore (s : State) : Bool :=
  0 < s.pace.level && (s.pace.blocks.all fun b => decide (b.code ≤ 104)) && decide (s.cool.hotspot ≤ 1440) &&
    s.pwr.windows.length = 10 && decide (s.pwr.windows.sum * 100 ≤ 95 * s.pwr.cap * 10)

/-- Every 100 ms d falls by one level if the conditions hold; in a system the master restores, 1 s after the last RATE_REQ (R386). -/
def execRateRestore (s : State) : Host.Outcome State Fault Refusal :=
  if s.nowMs < s.pace.lastRestore + 100 || !s.mayRestore then .next s
  else
    let s := { s with pace := { s.pace with lastRestore := s.nowMs } }
    if s.glRun then
      if s.isMaster && s.gl.rateSets.isEmpty && decide (s.gl.rateReqAt + 1000 ≤ s.nowMs) then
        .next (s.masterSet (rateOf s.pace.target (s.pace.level - 1)) false)
      else .next s
    else .next (({ s with pace := { s.pace with level := s.pace.level - 1 } }).unalert .floorHit)

/-- A written step target takes effect at its step, and d stays (R387). -/
def execStepTargetApply (s : State) : Host.Outcome State Fault Refusal :=
  match s.pace.targetAt with
  | some (at_, target) =>
    if at_ ≤ s.now then .next { s with pace := { s.pace with targetAt := none, target } } else .next s
  | none => .next s

/-- The end of a power window: its mean power, and a lowering where it exceeds the cap in force (R388). While Ranger restarts no window is
evaluated (R404). -/
def execPowerWindowEnd (meanW : Nat) (s : State) : Host.Outcome State Fault Refusal :=
  if s.nowMs < s.pwr.winEnd + 10 || s.pwr.phase ≠ .good then .next s
  else
    let cap := s.pwr.cap
    let s := { s with pwr := { s.pwr with winEnd := s.nowMs / 10 * 10, cap := leNat (s.dictVal 0x200200 (leBytes 4 2800)) } }
    if s.rng.restarting then .next s
    else
      let ws := s.pwr.windows ++ [meanW]
      let s := { s with pwr := { s.pwr with inputW := meanW, windows := ws.drop (ws.length - 10) } }
      .next (if cap < meanW ∧ s.pace.running = true then s.decideLowering 3 else s)

/-! ## The coolant loop (R391 to R394) -/

/-- THERMAL_TARGET in °C. -/
def State.thermalTarget (s : State) : Int := leNat (s.dictVal 0x201100 [85])

/-- An F32 duty in percent, in thousandths of a percent. -/
def dutyOf (w : W32) : Nat :=
  match fp32 w with
  | .fin false m q => if 0 ≤ q then 1000 * m * 2 ^ q.toNat else 1000 * m / 2 ^ (-q).toNat
  | _ => 0

/-- A value of the calibration set in force, the factory's where it has not been replaced (R437). -/
def State.calValue (s : State) (index sub : Nat) : List Byte :=
  match Sparse.get [] s.dict.cal (index * 256 + sub) with
  | [] => Config.factoryCal index sub
  | v => v

/-- valve_curve of R392 at u in 1/32 %: a point of the calibrated curve, or a value between two. -/
def State.valveDuty (s : State) (u : Int) : Int :=
  let curve := s.calValue 0xA006 0
  let k := u.toNat / 32
  let at_ := fun (i : Nat) => BitVec.ofNat 32 (fieldAt curve (4 * i) 4)
  min 100000 (if u.toNat % 32 = 0 then dutyOf (at_ k) else Config.valveBetween (at_ k) (at_ (k + 1)) (u.toNat % 32))

/-- A count of periods for an alert bit: `now` tells whether its condition holds; the bit is set at `limit` periods with it and clears
after 10 without it (R394). -/
def alertBit (bit present : Bool) (quiet : Nat) : Bool × Nat :=
  if present then (true, 0) else (bit && decide (quiet + 1 < 10), quiet + 1)

/-- u of R392, in 1/32 %, from the errors of this period and the one before, in 1/16 °C. -/
def loopLaw (uPrev e ePrev : Int) : Int := min (max (uPrev + 8 * (e - ePrev) + e) 0) 3200

/-- The comparators of D0 at readings of the 64 sensors: THERMTRIP_N is released when each is below 100 °C and MOD_RESET_N has fallen since the
trip, whatever the firmware does (R395; log 70). -/
def State.comparators (s : State) (dies : List Int) : State :=
  let warm := dies.any fun x => decide (1600 ≤ x)
  { s with pwr := { s.pwr with warm, thermTrip := s.pwr.thermTrip && !(s.pwr.tripReset && !warm) } }

/-- The end of a loop period: the sensors are read, the hotspot and the alerts follow, and the valve's duty (R391 to R394). A change of
VALVE_OWNER takes effect here: back to the Sorul it starts at 100 % duty, and a trace that holds AUX0 stops (R393, R484).
The comparators see the sensors even while Ranger does not run the loop; a trip does not stop the loop, which is Ranger's (R395; log 70). -/
def execLoopPeriodEnd (r : CoolReading) (s : State) : Host.Outcome State Fault Refusal :=
  if r.dies.length ≠ 64 then .fault .illFormed
  else if s.pwr.phase ≠ .good then .next s
  else if s.rng.boot = .held || s.rng.restarting || s.nowMs < s.pwr.goodAt + 100 then .next (s.comparators r.dies)
  else
    let s := s.comparators r.dies
    let c := s.cool
    let read := (enumFrom0 r.dies).map fun x => x.2 + signedOf 32 (leNat (s.calValue 0xA001 (x.1 + 1)))
    let hot := read.foldl max (read.headD 0)
    let e := hot - 16 * s.thermalTarget
    let missed := [if r.inlet.isNone then c.missed.getD 0 0 + 1 else 0, if r.outlet.isNone then c.missed.getD 1 0 + 1 else 0,
                   if r.flow.isNone then c.missed.getD 2 0 + 1 else 0]
    let silent := missed.any fun n => decide (3 ≤ n)
    let inlet := r.inlet.getD c.inlet
    let flow := r.flow.getD c.flow
    let b0 := alertBit (c.alert.getLsbD 0) (decide (flow < 4000)) (c.absent.getD 0 0)
    let b1 := alertBit (c.alert.getLsbD 1) (decide (720 < inlet ∨ inlet < 272)) (c.absent.getD 1 0)
    let b2 := alertBit (c.alert.getLsbD 2) silent (c.absent.getD 2 0)
    let alert := BitVec.ofNat 3 ((if b0.1 then 1 else 0) + (if b1.1 then 2 else 0) + if b2.1 then 4 else 0)
    let owner := leNat (s.dictVal 0x201000 [0])
    let back := c.owner = 1 ∧ owner ≠ 1
    let uPrev := if c.first ∨ back then 3200 else c.u
    let dPrev := if c.first ∨ back then 100000 else c.duty
    let ePrev := if c.first then e else c.e.getD e
    let u := if owner = 1 then uPrev else loopLaw uPrev e ePrev
    let duty := if silent then 100000 else min (max (s.valveDuty u) (dPrev - 1000)) (dPrev + 1000)
    let cool := { c with
      hotspot := hot, inlet, outlet := r.outlet.getD c.outlet, flow, u, duty := if owner = 1 then dPrev else duty, e := some e, owner,
      alert, absent := [b0.2, b1.2, b2.2], missed, first := false }
    let tap := if back ∧ s.tap.active = true then { s.tap with active := false, denied := true } else s.tap
    let tap := if owner = 1 ∧ s.tap.traceEn = true then { tap with active := true } else tap
    let s := { s with cool, tap }
    .next (if alert = 0 then s.unalert .cool else s.alert .cool)

/-! ## Domains and trips -/

/-- Requested domain states take effect (R390), but not during a fabric reset, and after a thermal trip only once a module reset has ended it
(R395). -/
def execDomainTransition (s : State) : Host.Outcome State Fault Refusal :=
  match s.pwr.domReq with
  | none => .next s
  | some (want, _) =>
    if s.pwr.thermTrip || s.rng.fabReset then .next s
    else
    let s := { s with pwr := { s.pwr with domReq := none } }
    .next ((enumFrom0 want).foldl (fun s x =>
      if x.1 = 0 ∨ (s.rng.degraded = true ∧ 2 ≤ x.1 ∧ x.1 ≤ 41) then s else s.toDomain x.1 x.2) s)

/-- A thermal trip: D1 to D43 lose power and contents, THERMTRIP_N is asserted, and only a module reset ends it (R395, R474); a
second one within 600 s leaves the module degraded too (R475). Open results are lost without a RESULT (R476). -/
def execThermalTrip (s : State) : Host.Outcome State Fault Refusal :=
  if s.pwr.phase ≠ .good || s.pwr.thermTrip then .next s
  else
    let again := s.rng.fatals.any fun x => x.1 = .thermal && decide (s.nowMs < x.2 + 600000)
    let s := s.loseOpen
    let s := if again then ({ s with rng := { s.rng with degraded := true } }).alert .degraded else s
    let s := (List.range 43).foldl (fun s i => s.toDomain (i + 1) 0) s
    .next { s with
      pwr := { s.pwr with thermTrip := true, tripReset := s.pwr.modResetLow, warm := true, trips := s.pwr.trips + 1 },
      pace := { s.pace with running := false },
      pack := { s.pack with state := if s.pack.state = PackState.running then PackState.halted else s.pack.state },
      rng := { s.rng with packFatalAt := none, fabReset := false, fatals := s.rng.fatals ++ [(.thermal, s.nowMs)] } }

end Sys2Proof.Machine
end

