-- ==== Sys2Proof/Machine/Dict.lean ====
section
/-! DEFINITION. The object dictionary (15): the entries with type, size, access and roles (R424 to R427, R433), what each reads as, the
checks of state and value that each entry's own rules make, and what an accepted write does. Keys are index × 256 + subindex. -/

namespace Sys2Proof.Machine

/-! ## Entries -/

inductive Access where
  | ro | rw | wo | rws | cmd
  deriving DecidableEq, Repr

/-- An entry: TYPE code (0 for a command without argument), size in bytes (none where it varies), access, and the roles that may read and
write it by their codes (R425 to R427). -/
structure DEntry where
  typ : Byte
  size : Option Nat
  acc : Access
  rd : Nat
  wr : Nat
  deriving DecidableEq, Repr

/-- An RO entry for a role. -/
def roE (typ : Byte) (size : Option Nat) (role : Nat) : DEntry := { typ, size, acc := .ro, rd := min role 1, wr := role }

/-- A writable or commandable entry for a role: read by the lower of that role and Operator (R427). -/
def wrE (typ : Byte) (size : Option Nat) (acc : Access) (role : Nat) : DEntry := { typ, size, acc, rd := min role 1, wr := role }

def tBool : Byte := 0x01
def tU8 : Byte := 0x02
def tU16 : Byte := 0x03
def tU32 : Byte := 0x04
def tU64 : Byte := 0x05
def tS32 : Byte := 0x06
def tF32 : Byte := 0x07
def tStr : Byte := 0x08
def tBlob : Byte := 0x09
def tDigest : Byte := 0x0A

/-- The entries of the 0x1000 and 0x2000 ranges. -/
def entry12 (key : Nat) : Option DEntry :=
  match key with
  | 0x100000 => some (roE tU8 (some 1) 0)
  | 0x100001 | 0x100002 | 0x100005 => some (roE tStr none 0)
  | 0x100003 | 0x100004 | 0x100100 => some (roE tU8 (some 1) 0)
  | 0x100006 => some { typ := tU16, size := some 2, acc := .rws, rd := 0, wr := 2 }
  | 0x100200 => some (roE tU64 (some 8) 0)
  | 0x101000 => some (roE tBlob (some 6) 0)
  | 0x101100 => some (wrE tU32 (some 4) .rws 2)
  | 0x101200 => some (wrE tBlob (some 16) .rws 2)
  | 0x101300 => some (roE tU8 (some 1) 0)
  | 0x101400 => some (wrE tBool (some 1) .rws 2)
  | 0x102000 => some (wrE 0 (some 0) .cmd 2)
  | 0x200100 | 0x200200 => some (wrE tU32 (some 4) .rws 1)
  | 0x200300 | 0x200700 | 0x202000 | 0x202100 => some (roE tU32 (some 4) 0)
  | 0x200400 | 0x200500 | 0x201500 => some (roE tU8 (some 1) 0)
  | 0x200600 => some (roE tBlob (some 32) 0)
  | 0x201000 | 0x201100 => some (wrE tU8 (some 1) .rws 2)
  | 0x201200 | 0x201400 => some (roE tU16 (some 2) 0)
  | 0x201300 => some (roE tBlob (some 8) 0)
  | 0x203000 => some (roE tBlob (some 44) 0)
  | 0x203100 => some (wrE tBlob (some 44) .rw 2)
  | _ => none

/-- The entries of the 0x3000 to 0x6000 ranges. -/
def entry36 (key : Nat) : Option DEntry :=
  match key with
  | 0x300100 => some (wrE 0 (some 0) .cmd 2)
  | 0x300200 => some (wrE tBool (some 1) .rw 2)
  | 0x301000 => some (wrE tU32 (some 4) .rw 2)
  | 0x302000 => some (wrE tBlob (some 4096) .rws 2)
  | 0x302100 => some (wrE tBlob (some 64) .rws 2)
  | 0x302200 => some (roE tBlob (some 4160) 1)
  | 0x303100 => some (wrE tBlob (some 32) .rw 1)
  | 0x400100 => some (roE tU32 (some 4) 0)
  | 0x400200 => some (roE tU64 (some 8) 0)
  | 0x401000 => some (wrE tU32 (some 4) .rw 2)
  | 0x500100 => some (roE tBool (some 1) 0)
  | 0x500200 => some (wrE tBool (some 1) .rws 2)
  | 0x500300 | 0x501100 => some (wrE tU8 (some 1) .rws 2)
  | 0x500400 => some (roE tU8 (some 1) 0)
  | 0x500500 => some (roE tU16 (some 2) 0)
  | 0x501000 => some (wrE tBlob (some 8192) .rws 2)
  | 0x501200 => some (wrE tU16 (some 2) .rws 2)
  | 0x600100 => some (roE tU16 (some 2) 0)
  | 0x600200 | 0x601000 | 0x603000 => some (wrE tBool (some 1) .rws 2)
  | 0x600300 | 0x600400 => some (roE tU64 (some 8) 0)
  | 0x600600 => some (roE tU32 (some 4) 1)
  | 0x601100 => some (roE tBool (some 1) 0)
  | 0x602000 => some (wrE tU8 (some 1) .rws 2)
  | 0x602100 => some (roE tU32 (some 4) 0)
  | 0x602200 => some (roE tU64 (some 8) 1)
  | 0x602400 => some (roE tDigest (some 32) 1)
  | 0x604100 => some (wrE tBlob (some 8) .rw 1)
  | _ =>
    if key = 0x303000 ∨ key = 0x502000 ∨ key = 0x503000 then some (roE tU8 (some 1) 0)
    else if 0x303001 ≤ key ∧ key ≤ 0x3030FF then some (wrE tF32 (some 4) .rw 1)
    else if 0x502001 ≤ key ∧ key ≤ 0x50200C then some (roE tU32 (some 4) 0)
    else if 0x503001 ≤ key ∧ key ≤ 0x50300C then some (roE tU8 (some 1) 0)
    else none

/-- The entries of the 0x7000 and 0x8000 ranges; owned says whether an owner is enrolled (0x7003.00). -/
def entry78 (owned : Bool) (key : Nat) : Option DEntry :=
  match key with
  | 0x700100 => some (roE tBlob none 0)
  | 0x700200 => some (roE tDigest (some 32) 0)
  | 0x700300 => some { typ := tBlob, size := some 288, acc := .wo, rd := 0, wr := if owned then 2 else 0 }
  | 0x701000 => some (roE tU8 (some 1) 0)
  | 0x702000 => some (wrE tBool (some 1) .rws 2)
  | 0x703000 => some (roE tU64 (some 8) 0)
  | 0x703100 => some (roE tStr none 0)
  | 0x704000 => some (wrE tBlob (some 32) .wo 1)
  | 0x704100 => some (roE tBlob none 1)
  | 0x705000 | 0x800000 | 0x801100 | 0x801200 => some (wrE tBlob none .wo 2)
  | 0x705100 | 0x800100 | 0x801300 => some (wrE 0 (some 0) .cmd 2)
  | 0x705200 | 0x800200 | 0x801400 => some (roE tU8 (some 1) 0)
  | 0x800300 | 0x801500 => some (roE tU16 (some 2) 1)
  | 0x800400 => some (roE tU64 (some 8) 1)
  | 0x800500 | 0x801000 => some (roE tDigest (some 32) 0)
  | 0x800600 | 0x800700 => some (wrE 0 (some 0) .cmd 1)
  | _ => if 0x701001 ≤ key ∧ key ≤ 0x701008 then some (wrE tDigest (some 32) .rws 2) else none

/-- The entries of the 0x9000 range. -/
def entry9 (key : Nat) : Option DEntry :=
  match key with
  | 0x900100 => some (wrE tU16 (some 2) .rw 1)
  | 0x900200 => some (roE tBlob (some 1024) 1)
  | 0x900300 => some (wrE tU32 (some 4) .rw 2)
  | 0x901000 | 0x902000 | 0x902100 | 0x902200 | 0x902300 | 0x902400 | 0x902500 | 0x902600 | 0x903000 | 0x903100 | 0x903200
  | 0x903300 | 0x903400 | 0x904000 | 0x904100 | 0x904200 | 0x905000 | 0x905100 | 0x905200 | 0x905300 | 0x905400 | 0x906000
  | 0x907100 => some (roE tU64 (some 8) 0)
  | 0x901200 => some (roE tBlob (some 768) 1)
  | 0x901300 | 0x901400 | 0x901500 | 0x903500 | 0x907000 | 0x907200 => some (roE tU32 (some 4) 0)
  | 0x904300 => some (roE tU8 (some 1) 0)
  | 0x904400 => some (roE tBlob (some 32) 0)
  | 0x905500 => some (roE tU16 (some 2) 0)
  | 0x905600 => some (roE tBool (some 1) 0)
  | 0x909000 => some (wrE tU16 (some 2) .cmd 1)
  | 0x909100 => some (roE tBlob (some 16) 1)
  | _ => none

/-- The entries of the 0xA000 and 0xB000 ranges. -/
def entryAB (key : Nat) : Option DEntry :=
  match key with
  | 0xA00100 => some (roE tU8 (some 1) 0)
  | 0xA00200 => some (wrE tBlob (some 256) .rw 2)
  | 0xA00300 => some (wrE tU32 (some 4) .rw 2)
  | 0xA00400 => some (wrE tBlob (some 65536) .rw 2)
  | 0xA00500 => some (wrE tBlob (some 3072) .rw 2)
  | 0xA00600 => some (wrE tBlob (some 404) .rw 2)
  | 0xA01000 | 0xA01100 => some (wrE tU8 (some 1) .cmd 2)
  | 0xA01200 => some (roE tU8 (some 1) 0)
  | 0xB00100 | 0xB00200 | 0xB00300 => some (wrE 0 (some 0) .cmd 1)
  | 0xB00400 => some (roE tU8 (some 1) 1)
  | 0xB00500 => some (roE tU32 (some 4) 1)
  | _ => if 0xA00101 ≤ key ∧ key ≤ 0xA00140 then some (wrE tS32 (some 4) .rw 2) else none

/-- The entry of a key, none where no table names it (R433). -/
def entryAt (owned : Bool) (key : Nat) : Option DEntry :=
  if key < 0x300000 then entry12 key
  else if key < 0x700000 then entry36 key
  else if key < 0x900000 then entry78 owned key
  else if key < 0xA00000 then entry9 key
  else entryAB key

/-- The image entries, which take segments only (R409). -/
def isImageKey (key : Nat) : Bool := [0x705000, 0x800000, 0x801100, 0x801200].contains key

/-- The calibration entries (R437). -/
def isCalKey (key : Nat) : Bool := decide (0xA00101 ≤ key ∧ key ≤ 0xA00140) || [0xA00200, 0xA00300, 0xA00400, 0xA00500, 0xA00600].contains key

/-- Sensor offsets and the other calibration entries, in index order (R460). -/
def calKeys : List Nat := ((List.range 64).map fun i => 0xA00101 + i) ++ [0xA00200, 0xA00300, 0xA00400, 0xA00500, 0xA00600]

/-- Every RWS entry. -/
def rwsKeys : List Nat :=
  [0x100006, 0x101100, 0x101200, 0x101400, 0x200100, 0x200200, 0x201000, 0x201100, 0x302000, 0x302100, 0x500200, 0x500300,
   0x501000, 0x501100, 0x501200, 0x600200, 0x601000, 0x602000, 0x603000] ++
    ((List.range 8).map fun i => 0x701001 + i) ++ [0x702000]

/-- The text of an STR entry. -/
def text (t : String) : List Byte := t.toList.map fun c => BitVec.ofNat 8 c.toNat

namespace State

/-- Is an owner enrolled (R447)? -/
def owned (s : State) : Bool := s.dict.ownerKey ≠ 0

def entry (s : State) (key : Nat) : Option DEntry := entryAt s.owned key

/-- Is a firmware update in progress (R454)? -/
def fwBusy (s : State) : Bool := s.fw.state = 3 || s.fw.state = 4

/-- The default of an RW or RWS entry. -/
def entryDefault (s : State) (key : Nat) : List Byte :=
  match key with
  | 0x200100 => leBytes 4 (if s.fuses.gradeL then 850000 else 1000000)
  | 0x200200 => leBytes 4 2800
  | 0x201100 => [85]
  | 0x203100 => List.replicate 44 2
  | 0x301000 => leBytes 4 0x408
  | 0x401000 => leBytes 4 0x23B
  | 0x501000 => List.replicate 8192 0xEE
  | 0x501100 => [0xFF]
  | 0x501200 => leBytes 2 0x0FFF
  | 0x600200 => [1]
  | _ => List.replicate (((s.entry key).bind (·.size)).getD 0) 0

/-- The value in force of an RW or RWS entry. -/
def valueOf (s : State) (key : Nat) : List Byte := s.dictVal key (s.entryDefault key)

/-- The stored value of an RWS entry. -/
def storedOf (s : State) (key : Nat) : List Byte := s.dictStored key (s.entryDefault key)

/-- A calibration value in force at its full size (R437). -/
def calOf (s : State) (key : Nat) : List Byte :=
  slice (s.calValue (key / 256) (key % 256)) 0 (((s.entry key).bind (·.size)).getD 0)

/-- A calibration value of the staged set. -/
def stagedOf (s : State) (key : Nat) : List Byte :=
  match Sparse.get [] s.dict.staged key with
  | [] => s.calOf key
  | v => v

/-! ## What an entry reads as -/

/-- A counter of n bytes, saturating. -/
def ctrBytes (n x : Nat) : List Byte := leBytes n (min x (2 ^ (8 * n) - 1))

/-- HELRUN_COMPAT or 0x6010.00 COMPAT (R359). -/
def compatAsked (s : State) : Bool := s.pwr.straps.helrun || decide (leNat (s.valueOf 0x601000) ≠ 0)

/-- 0x6011.00: the bit kept with the installed pack; with none, what an install would take (R359). -/
def compatShown (s : State) : Bool :=
  if s.pack.state = .installed ∨ s.pack.state = .running ∨ s.pack.state = .halted then s.pack.compat else s.compatAsked

/-- The register at an offset of a core's control block that is a multiple of 8; offsets not listed read as zero (R200). -/
def controlReg (s : State) (c off : Nat) : Nat :=
  let q := s.seq c
  match off with
  | 0x000 => q.ctrlReg
  | 0x008 => coreStat q (s.bnd c).isOpen s.compatShown s.pack.strict
  | 0x010 => q.faultReg
  | 0x018 => (s.arr c).resErrReg
  | 0x020 => (s.arr c).repair.toNat
  | 0x028 => (s.acc c).satReg
  | 0x030 => q.accFaultReg
  | 0x038 => (s.vec c).statReg
  | 0x040 => (s.bnd c).statReg
  | 0x048 => min (s.cnt c).qsat (2 ^ 32 - 1)
  | 0x050 => min (s.cnt c).nonfin (2 ^ 32 - 1)
  | 0x058 => min (s.cnt c).tdc (2 ^ 64 - 1)
  | 0x060 => min (s.cnt c).dup (2 ^ 32 - 1)
  | 0x068 => min (s.cnt c).poison (2 ^ 32 - 1)
  | _ =>
    if 0x100 ≤ off ∧ off < 0x140 ∧ off % 8 = 0 then (s.eng c ((off - 0x100) / 8)).statReg
    else if 0x200 ≤ off ∧ off < 0x280 ∧ off % 8 = 0 then q.view ((off - 0x200) / 8)
    else 0

def packCode (s : State) : Nat :=
  match s.pack.state with
  | .none => 0
  | .checking => 1
  | .installed => 2
  | .running => 3
  | .halted => 4

/-- FUSE_REPAIR. -/
def fuseRepair (s : State) : List Byte :=
  ((List.range 4096).map fun i => Sparse.get 0 s.fuses.arrayRepair i) ++ ((List.range 64).map fun i => Sparse.get 0 s.fuses.coreRepair i)

/-- One entry of DAMP_LOG (R385). -/
def dampBytes (e : DampEntry) : List Byte := leBytes 8 e.step.toNat ++ [e.level, e.cause] ++ leBytes 2 e.hotspot.toNat

/-- REPRO_CLASS (R354). -/
def reproClass : Nat := 0x0A13

/-- The part's name; the pool of 0x1000 and 0x2000 entries that are read only. -/
def read12 (s : State) (key : Nat) : List Byte :=
  match key with
  | 0x100000 => [6]
  | 0x100001 => text "Thozavan"
  | 0x100002 => text (if s.fuses.gradeL then "TZK-SOR-A1-L" else "TZK-SOR-A1-P")
  | 0x100003 => [0x0A]
  | 0x100004 => [if s.fuses.gradeL then 0x4C else 0x50]
  | 0x100005 => s.fuses.serial
  | 0x100100 => [s.pwr.straps.traySlot.zeroExtend 8]
  | 0x100200 => leBytes 8 (s.nowMs - s.pwr.goodAt)
  | 0x101000 => beBytes 6 s.fuses.mac.toNat
  | 0x101300 => [s.rng.mgmtLink]
  | 0x200300 => leBytes 4 s.rate
  | 0x200400 => [BitVec.ofNat 8 s.pace.level]
  | 0x200500 => [s.pace.cause]
  | 0x200600 => s.pace.blocks.map fun b => BitVec.ofNat 8 b.code
  | 0x200700 => leBytes 4 s.pwr.inputW
  | 0x201200 => leBytes 2 (unsignedOf 16 s.cool.hotspot)
  | 0x201300 => leBytes 2 (unsignedOf 16 s.cool.inlet) ++ leBytes 2 (unsignedOf 16 s.cool.outlet) ++ leBytes 4 s.cool.flow
  | 0x201400 => leBytes 2 (if s.cool.owner = 1 then 0xFFFF else (s.cool.duty / 100).toNat)
  | 0x201500 => [s.cool.alert.zeroExtend 8]
  | 0x202000 => leBytes 4 s.rng.holdE
  | 0x202100 => leBytes 4 s.rng.holdC
  | 0x203000 => s.pwr.domains.map fun d => BitVec.ofNat 8 d
  | _ => s.valueOf key

/-- The route table as it reads: the entry for the module's own ID is 0xF, whatever it holds (R333). -/
def routesRead (s : State) : List Byte :=
  let v := s.valueOf 0x501000
  let i := s.ownId / 2
  let b := (v.getD i 0).toNat
  v.set i (BitVec.ofNat 8 (if s.ownId % 2 = 0 then b / 16 * 16 + 15 else 240 + b % 16))

/-- The entries of the 0x3000 to 0x6000 ranges that do not read as their value. -/
def read36 (s : State) (key : Nat) : List Byte :=
  match key with
  | 0x501000 => s.routesRead
  | 0x302200 => s.fuseRepair
  | 0x303000 => [255]
  | 0x400100 => leBytes 4 (bn s.mm.map)
  | 0x400200 => leBytes 8 532575944704
  | 0x500100 => [if s.pwr.straps.mstrSel then 1 else 0]
  | 0x500400 => [BitVec.ofNat 8 s.syncState]
  | 0x500500 => leBytes 2 s.masterId
  | 0x502000 | 0x503000 => [12]
  | 0x600100 => leBytes 2 reproClass
  | 0x600300 => ctrBytes 8 s.sums.tdc
  | 0x600400 => ctrBytes 8 s.pace.devCount
  | 0x600600 => leBytes 4 (if s.pack.installed = [] then 0 else splitReport s.pack.installed)
  | 0x601100 => [if s.compatShown then 1 else 0]
  | 0x602100 => leBytes 4 s.log.epoch
  | 0x602200 => leBytes 8 s.log.lastSeq.toNat
  | 0x602400 => beBytes 32 s.log.train.toNat
  | _ =>
    if 0x502001 ≤ key ∧ key ≤ 0x50200C then leBytes 4 (s.gport (key - 0x502001)).delay.toNat
    else if 0x503001 ≤ key ∧ key ≤ 0x50300C then [BitVec.ofNat 8 (s.gport (key - 0x503001)).state]
    else s.valueOf key

/-- The entries of the 0x7000 and 0x8000 ranges that are read only. -/
def read78 (s : State) (key : Nat) : List Byte :=
  match key with
  | 0x700100 => Config.deviceCert
  | 0x700200 => beBytes 32 s.dict.ownerKey.toNat
  | 0x701000 => [8]
  | 0x703000 => leBytes 8 s.fw.counter
  | 0x703100 => s.fw.version.filter (· ≠ 0)
  | 0x704100 => s.dict.report
  | 0x705200 => [s.fw.state]
  | 0x800200 => [BitVec.ofNat 8 s.packCode]
  | 0x800300 => leBytes 2 s.pack.result.toNat
  | 0x800400 => leBytes 8 s.pack.detail.toNat
  | 0x800500 => beBytes 32 s.pack.hash.toNat
  | 0x801000 => beBytes 32 s.wimg.hash.toNat
  | 0x801400 => [s.wimg.state]
  | 0x801500 => leBytes 2 s.wimg.result.toNat
  | _ => s.valueOf key

/-- The control block of the selected core (R435). -/
def coreBlock (s : State) : List Byte :=
  (List.range 128).flatMap fun i => leBytes 8 (s.controlReg s.dict.coreSelect.toNat (8 * i))

/-- The entries of the 0x9000 range. -/
def read9 (s : State) (key : Nat) : List Byte :=
  match key with
  | 0x900100 => leBytes 2 s.dict.coreSelect.toNat
  | 0x900200 => s.coreBlock
  | 0x900300 => leBytes 4 (s.controlReg s.dict.coreSelect.toNat 0)
  | 0x901000 => ctrBytes 8 s.pace.overruns
  | 0x901200 => slice (s.pace.log.flatMap dampBytes) 0 768
  | 0x901300 => ctrBytes 4 s.pace.floorHits
  | 0x901400 => ctrBytes 4 s.pwr.trips
  | 0x901500 => ctrBytes 4 s.rng.holdRefusals
  | 0x902000 => ctrBytes 8 s.sums.poison
  | 0x902100 => ctrBytes 8 s.sums.qsat
  | 0x902200 => ctrBytes 8 s.sums.nonfin
  | 0x902300 => ctrBytes 8 s.sums.dup
  | 0x902400 => ctrBytes 8 s.sums.reserr
  | 0x902500 => ctrBytes 8 s.sums.accFault
  | 0x902600 => ctrBytes 8 s.sums.bundleAbort
  | 0x903000 => ctrBytes 8 s.trail.drop
  | 0x903100 => ctrBytes 8 s.trail.comb
  | 0x903200 => ctrBytes 8 s.whistle.drop
  | 0x903300 => ctrBytes 8 s.sliceMiss
  | 0x903400 => ctrBytes 8 s.sliceWb
  | 0x903500 => ctrBytes 4 s.trail.dpkHoldMax
  | 0x904000 => ctrBytes 8 s.mm.retry
  | 0x904100 => ctrBytes 8 s.mm.uncorr
  | 0x904200 => ctrBytes 8 s.mm.collide
  | 0x904300 => [BitVec.ofNat 8 s.mm.bandMax]
  | 0x904400 => leBytes 32 s.mm.failMap.toNat
  | 0x905000 => ctrBytes 8 s.gl.retry
  | 0x905100 => ctrBytes 8 s.gl.fec
  | 0x905200 => ctrBytes 8 s.gl.unroutable
  | 0x905300 => ctrBytes 8 s.gl.lateRelease
  | 0x905400 => ctrBytes 8 s.gl.lateFlit
  | 0x905500 => leBytes 2 s.gl.portFail.toNat
  | 0x905600 => [if s.gl.startLate then 1 else 0]
  | 0x906000 => ctrBytes 8 s.log.orphan
  | 0x907000 => ctrBytes 4 s.rng.restartCount
  | 0x907100 => ctrBytes 8 s.rng.authFail
  | 0x907200 => ctrBytes 4 s.rng.baseRestarts
  | 0x909100 => slice s.dict.diagResult 0 16
  | _ => []

/-- BW_STATE and BW_RESULT of a session (R439). -/
def readB (s : State) (sid : W32) (key : Nat) : List Byte :=
  match s.sessionOf sid with
  | some k =>
    match key with
    | 0xB00400 => [match k.bw with | none => 0 | some b => if b.failed then 2 else 1]
    | 0xB00500 => leBytes 4 k.bwResult.toNat
    | _ => []
  | none => []

/-- A record of the Logbook ring (R375). -/
def ringRecord (s : State) (seq : Nat) : Option (List Byte) := s.log.ring.find? fun r => fieldAt r 0 8 = seq

/-- The value in force of an entry as a session reads it (R428). -/
def readEntry (s : State) (sid : W32) (key : Nat) : List Byte :=
  if key = 0x604100 then (s.ringRecord (leNat (s.valueOf key))).getD []
  else if isCalKey key then s.calOf key
  else if key = 0xA00100 then [64]
  else if key = 0xA01200 then [if s.dict.calOrigin then 1 else 0]
  else if key < 0x300000 then s.read12 key
  else if key < 0x700000 then s.read36 key
  else if key < 0x900000 then s.read78 key
  else if key < 0xA00000 then s.read9 key
  else s.readB sid key

/-! ## Checks of an entry's own rules -/

def isRunning (s : State) : Bool := s.pack.state = .running

/-- A write that turns the Logbook on (R367). -/
def turnsLogOn (s : State) (v : List Byte) : Bool := leNat (s.valueOf 0x602000) = 0 && decide (leNat v ≠ 0)

/-- The state check of a write, by code; none passes (R428 step 7). -/
def stateCheck (s : State) (key : Nat) (v : List Byte) : Option W16 :=
  match key with
  | 0x100006 | 0x203100 | 0x700300 | 0x801100 | 0x801200 => if s.isRunning then some 0x0305 else none
  | 0x200100 => if s.glRun && !s.isMaster then some 0x0307 else none
  | 0x300200 => if s.isRunning && decide (leNat v = 1) then some 0x0305 else none
  | 0x301000 =>
    if s.isRunning then some 0x0305 else if s.pack.state = .installed ∨ s.pack.state = .halted then some 0x0306 else none
  | 0x602000 =>
    if s.turnsLogOn v then
      if s.isRunning && !(trainables (sectBytes s.pack.installed 1)).isEmpty then some 0x0305
      else if 0xFFFFFF ≤ s.log.epoch then some 0x030A else none
    else none
  | 0x704000 =>
    match s.dict.lastChallenge with
    | some t => if s.nowMs < t + 10 then some 0x030A else none
    | none => none
  | _ => none

/-- The regulator shares of a split keep R237. -/
def splitOk (x : Nat) : Bool :=
  let sh := [bitsOf x 3 0, bitsOf x 7 4, bitsOf x 11 8]
  (sh.all fun n => decide (1 ≤ n ∧ n ≤ 14)) && sh.sum = 16 && decide (x < 4096)

/-- A slice partition keeps R272. -/
def partitionOk (x : Nat) : Bool :=
  bitsOf x 7 5 = 0 && bitsOf x 31 13 = 0 && decide (bitsOf x 4 0 + bitsOf x 12 8 ≤ 16)

/-- The code that a repair map is refused with: a reserved bit, or a spare that the fuses use (R104, R248). -/
def repairCheck (v : List Byte) (reserved : Byte) (fuse : SMap Byte) : Option W16 :=
  let xs := v.zip (List.range v.length)
  if xs.any fun x => x.1 &&& reserved ≠ 0 then some 0x0206
  else if xs.any fun x => x.1.getLsbD 7 && (Sparse.get 0 fuse x.2).getLsbD 7 then some 0x0207
  else none

/-- A route table that places 0xC or 0xD, or 0xF for another ID (R333). -/
def routesBad (own : Nat) (v : List Byte) : Bool :=
  (v.zip (List.range v.length)).any fun x =>
    [(x.1.toNat % 16, 2 * x.2), (x.1.toNat / 16, 2 * x.2 + 1)].any fun e =>
      e.1 = 12 || e.1 = 13 || (e.1 = 15 && decide (e.2 ≠ own))

/-- An F32 duty that VALVE_CURVE refuses: a NaN, or outside 0 to 100 (*Table: Calibration entries*). -/
def dutyBad (w : W32) : Bool := fp32IsNaN w || decide (fNumKey w < 0) || decide (fNumKey 0x42C80000 < fNumKey w)

/-- The value check of a write, by code; none passes (R428 step 8). -/
def valueCheck (s : State) (key : Nat) (v : List Byte) : Option W16 :=
  let x := leNat v
  match key with
  | 0x100006 => if 16383 < x then some 0x0205 else none
  | 0x200100 => if 400000 ≤ x ∧ x ≤ (if s.fuses.gradeL then 850000 else 1100000) then none else some 0x0205
  | 0x200200 => if 1200 ≤ x ∧ x ≤ 2800 then none else some 0x0205
  | 0x201000 | 0x500300 => if 1 < x then some 0x0205 else none
  | 0x201100 => if 60 ≤ x ∧ x ≤ 95 then none else some 0x0205
  | 0x203100 => if v.headD 0 ≠ 2 ∨ (v.any fun b => decide (2 < b.toNat)) then some 0x0206 else none
  | 0x301000 => if partitionOk x then none else some 0x0206
  | 0x302000 => repairCheck v 0x40 s.fuses.arrayRepair
  | 0x302100 => repairCheck v 0x60 s.fuses.coreRepair
  | 0x303100 => if disablesShort s.pack.installed x then some 0x0206 else none
  | 0x401000 => if splitOk x then none else some 0x0206
  | 0x501000 => if routesBad s.ownId v then some 0x0206 else none
  | 0x501100 => if x < 12 ∨ x = 255 then none else some 0x0205
  | 0x501200 => if 0x0FFF < x then some 0x0206 else none
  | 0x602000 => if 2 < x then some 0x0205 else none
  | 0x604100 => if (s.ringRecord x).isSome then none else some 0x0205
  | 0x900100 => if 2047 < x then some 0x0205 else none
  | 0x900300 => if 3 < x then some 0x0206 else none
  | 0xA00600 => if (List.range 101).any fun i => dutyBad (BitVec.ofNat 32 (fieldAt v (4 * i) 4)) then some 0x0206 else none
  | _ =>
    match s.entry key with
    | some e =>
      if e.typ = tBool ∧ 1 < x then some 0x0206
      else if e.typ = tF32 ∧ fp32IsNaN (BitVec.ofNat 32 x) = true then some 0x0206
      else none
    | none => none

/-! ## What an accepted write does -/

/-- A value put in force. -/
def putVal (s : State) (key : Nat) (v : List Byte) : State :=
  { s with dict := { s.dict with val := Sparse.set [] s.dict.val key v } }

/-- Every Vendor session closes (R427). -/
def closeVendor (s : State) : State :=
  { s with rng := { s.rng with sessions := s.rng.sessions.filter fun k => k.role ≠ .vendor } }

/-- A new epoch: the counter at 0 (R367). -/
def newEpoch (s : State) : State := { s with log := { s.log with epoch := s.log.epoch + 1, count := 0 } }

/-- A written step target: at the Damper interval after the next, or by RATE_SET in a system (R343, R387). -/
def retarget (s : State) (x : Nat) : State :=
  if s.glRun then s.masterSet x false
  else if s.pace.running then { s with pace := { s.pace with targetAt := some (s.dampStep, x) } }
  else { s with pace := { s.pace with target := x, targetAt := none } }

/-- Ports whose enable bit changes go dark or to electrical idle (R323). -/
def enablePorts (s : State) (old new : Nat) : State :=
  ((List.range 12).foldl (fun s p => if bitOf old p = bitOf new p then s else s.portIdle p) s).resync

/-- CORE_CTRL of the selected core, in one management write over the Whistle network (R267, R435). -/
def writeCoreCtrl (s : State) (x : Nat) : State :=
  s.whistleSend 4 { typ := 7, src := 0, dst := BitVec.ofNat 11 s.dict.coreSelect.toNat, bridge := false,
                    body := [0, BitVec.ofNat 32 x, 0] }

/-- A partition in force with no pack installed: dirty lines are written back and the ways begin empty (R272; DESIGN CHOICE, log 97). -/
def setPartition (s : State) (x : Nat) : State :=
  let s := s.flushSlices
  { s with slices := s.slices.map fun y => (y.1, { y.2 with lines := [] }), cacheWays := x % 32, pinWays := bitsOf x 12 8 }

/-- An accepted write takes effect. MODULE_ID waits for the next module reset, the repair maps for the next fabric reset (R104, R248,
R347), and a new epoch is part of the store (R367); calibration entries change the staged set (R437). -/
def applyWrite (s : State) (key : Nat) (v : List Byte) : State :=
  let x := leNat v
  match key with
  | 0x100006 | 0x302000 | 0x302100 => s
  | 0x200100 => (s.putVal key v).retarget x
  | 0x301000 => (s.putVal key v).setPartition x
  | 0x203100 =>
    let s := s.putVal key v
    { s with pwr := { s.pwr with domReq := some (v.map (·.toNat), s.nowMs) } }
  | 0x500200 | 0x501100 => (s.putVal key v).resync
  | 0x501200 => (s.putVal key v).enablePorts (leNat (s.valueOf key)) x
  | 0x702000 => if x = 0 then (s.putVal key v).closeVendor else s.putVal key v
  | 0x900100 => { s with dict := { s.dict with coreSelect := BitVec.ofNat 16 x } }
  | 0x900300 => s.writeCoreCtrl x
  | _ =>
    if isCalKey key then { s with dict := { s.dict with staged := Sparse.set [] s.dict.staged key v } }
    else s.putVal key v

/-- A value stored in flash (R430). -/
def putStored (s : State) (key : Nat) (v : List Byte) : State :=
  { s with dict := { s.dict with stored := Sparse.set [] s.dict.stored key v } }

/-- Every RWS entry of 0x1000 to 0x6000 and 0x8000 to 0x9000 at its default, each taking effect as a write of it (R432). -/
def restoreDefaults (s : State) : State :=
  (rwsKeys.filter fun k => k < 0x700000).foldl (fun s k =>
    let v := s.entryDefault k
    if s.storedOf k = v then s else (s.putStored k v).applyWrite k v) s

end State

end Sys2Proof.Machine
end

