-- ==== Sys2Proof/Machine/Results.lean ====
section
/-! DEFINITION. Results of the service protocol (R368, R374, R375, R418, R422): their records, their closing, and the reading of their output
slots over the service path. -/

namespace Sys2Proof.Machine

namespace State

/-- MODES of a record (R374). -/
def recordModes (s : State) : Byte := BitVec.ofNat 8 (bn s.pack.compat + 2 * bn s.pack.strict)

/-- Bytes 0x000 to 0x0CF of a record (R374). -/
def recordHead (s : State) (o : OpenRes) (ch : BitVec 4) (ls : List Leaf) : List Byte :=
  let hash := fun (x : BitVec 256) => beBytes 32 x.toNat
  leBytes 8 o.seq.toNat ++ leBytes 2 reproClass ++ [ch.zeroExtend 8, s.recordModes] ++ leBytes 4 ls.length ++ hash s.pack.hash ++
    hash s.wimg.hash ++ hash o.settings ++ hash o.train ++ hash o.input ++ hash (outputDigest ls)

/-- The record of a result that closes now, its SIG zero (R374). -/
def recordOf (s : State) (o : OpenRes) (ch : BitVec 4) (ls : List Leaf) : List Byte :=
  let head := s.recordHead o ch ls
  let tflags := bn (decide (s.log.stepDevs = o.devs)) + 2 * bn (ls.any (·.poison))
  head ++ beBytes 32 (Config.sm3 head).toNat ++ leBytes 8 o.admitted ++ leBytes 4 (min (s.now - o.admitted) 0xFFFFFFFF) ++
    [BitVec.ofNat 8 tflags, 0, 0, 0] ++ List.replicate 64 0

/-- A closed result is sent, kept for FETCH, and its record kept in the ring (R375, R422). -/
def sendResult (s : State) (k : Kept) : State :=
  let s := s.resultTo k.req k.seq k.status k.data k.record
  let ring := if k.record = [] then s.log.ring else s.log.ring ++ [k.record]
  { s with
    log := { s.log with ring := ring.drop (ring.length - 65536) },
    svc := { s.svc with kept := if k.req.origin.toNat = s.ownId then s.svc.kept ++ [k] else s.svc.kept } }

/-- The data of a closed result has been read: data of poisoned parcels is zeros, with STATUS 0x0600; in mode 2 the record waits for its
signature first (R375, R422). -/
def finishTaking (s : State) (t : Taking) : State :=
  let bytes := (List.range ((t.len + 31) / 32)).flatMap fun i =>
    match t.got.find? fun x => x.1 = i + 1 with
    | some x => if x.2.poison then List.replicate 32 0 else parcelBytes x.2.data
    | none => List.replicate 32 0
  let k := { t.kept with
    status := if t.got.any (fun x => x.2.poison) then 0x0600 else t.kept.status, data := bytes.take t.len }
  let s := { s with svc := { s.svc with taking := s.svc.taking.filter fun x => !(x.ch = t.ch && x.kept.seq = t.kept.seq) } }
  if t.mode = 2 then { s with log := { s.log with signq := s.log.signq ++ [{ record := k.record, kept := k }] } } else s.sendResult k

/-- A result closes, with a status and the number of its data bytes: its span ends before this step, whose leaves no open result has any more, and its
record is made; then its data is read (R368, R374, R422). -/
def closeResult (s : State) (ch : BitVec 4) (o : OpenRes) (status : W16) (slot len : Nat) : State :=
  let all := Sparse.get [] s.log.leaves ch.toNat
  let ls := all.filter fun l => l.at_ < s.now
  let record := if o.mode = 0 then [] else s.recordOf o ch ls
  let t : Taking := { ch, mode := o.mode, slot, len, got := [],
                      kept := { req := o.req, seq := o.seq, status, data := [], record, closed := s.nowMs } }
  let s := { s with
    log := { s.log with
      open_ := Sparse.set none s.log.open_ ch.toNat none, leaves := Sparse.set [] s.log.leaves ch.toNat [],
      orphan := s.log.orphan + (all.length - ls.length) },
    svc := { s.svc with taking := s.svc.taking ++ [t] } }
  if len = 0 then s.finishTaking t
  else (List.range ((len + 31) / 32)).foldl (fun s i => s.slotAsk ch (i + 1) o.seq (slot + 32 + 32 * i)) s

/-- The service of a number, none where the table has none or no pack runs (R417). -/
def serviceAt (s : State) (n : Byte) : Option SvcRec := if s.isRunning ∧ n < 16 then Sparse.get none s.svc.table n.toNat else none

/-- An output header has come: a poisoned one closes its open result with 0x0601 and no data; one with the result's SEQ closes it with the
header's STATUS and min(LEN, OUTPUT_MAX) bytes of data (R418, R422). -/
def headerGot (s : State) (ch : BitVec 4) (seq : Nat) (p : Parcel) : State :=
  match Sparse.get none s.log.open_ ch.toNat with
  | none => s
  | some o =>
    match s.serviceAt o.req.svc with
    | none => s
    | some v =>
      let b := parcelBytes p.data
      if o.seq.toNat ≠ seq then s
      else if p.poison then s.closeResult ch o 0x0601 v.output 0
      else if fieldAt b 0 8 ≠ seq then s
      else s.closeResult ch o (BitVec.ofNat 16 (fieldAt b 8 2)) v.output (min (fieldAt b 10 4) v.outMax)

/-- Data parcel i of a closed result has come; with the last one the result is complete (R422). -/
def dataGot (s : State) (ch : BitVec 4) (i seq : Nat) (p : Parcel) : State :=
  match s.svc.taking.find? fun t => t.ch = ch && decide (t.kept.seq.toNat = seq) with
  | none => s
  | some t =>
    let t' := { t with got := t.got ++ [(i, p)] }
    let s := { s with svc := { s.svc with taking := s.svc.taking.map fun x => if x = t then t' else x } }
    if (t.len + 31) / 32 ≤ t'.got.length then s.finishTaking t' else s

/-- What the service path has read leaves by the edge router of port 0, verified there (R41, R44, R419, R422). -/
def slotGot (s : State) (r : SReq) (p : Parcel) : State :=
  match r.who with
  | .slotR ch i seq =>
    let q := consume p r.addr
    let s := if q.2 then s.countEdgePoison else s
    if i = 0 then s.headerGot (BitVec.ofNat 4 ch) seq q.1 else s.dataGot (BitVec.ofNat 4 ch) i seq q.1
  | _ => s

end State

end Sys2Proof.Machine
end

