-- ==== Sys2Proof/Machine/Flags.lean ====
section
/-! DEFINITION. The block has no arithmetic flags; what stands for them are the conditions of BR (R177) and the sticky marks:
the scalar results below set none. -/

namespace Sys2Proof.Machine

/-- The condition of BR on RA (R177); reserved codes are illegal words and never reach it. -/
def brTaken (cond : BitVec 4) (ra : W64) : Bool :=
  match cond.toNat with
  | 0 => true
  | 1 => ra = 0
  | 2 => ra ≠ 0
  | 3 => ra.msb
  | 4 => !ra.msb
  | _ => false

/-- SHR: logical, or arithmetic when VAR = 1; the count is B mod 64 (R177). -/
def shrResult (var : Bool) (a b : W64) : W64 :=
  if var then a.sshiftRight (b.toNat % 64) else a >>> (b.toNat % 64)

/-- LDI: IMM32 sign-extended, or into the upper half with the lower half kept (R177). -/
def ldiResult (var : Bool) (old : W64) (imm : W32) : W64 :=
  if var then imm ++ old.truncate 32 else imm.signExtend 64

end Sys2Proof.Machine
end

