-- ==== Sys2Proof/Machine/Sequencer.lean ====
section
/-! DEFINITION. Control flow, waits on engines, tickets, HALT, STEP and the fetch buffer (R171 to R178, R182, R183, R186,
R187). -/

namespace Sys2Proof.Machine

/-- The state after issuing an instruction that goes on at index t, `steps` steps later (R172). -/
def State.issueAt (s : State) (c : CoreId) (i : Instr) (effect : State) (t steps : Nat) : Host.Outcome State Fault Refusal :=
  s.issueTo c i true (effect.goTo c.toNat t steps)

/-- LOOP: lcLC = COUNT; when COUNT = 0, continues at END + 1 after a further step (R172, R177). -/
def execLoop (c : CoreId) (lc : BitVec 2) (ia : Bool) (endIdx : BitVec 12) (count : BitVec 24) (s : State) :
    Host.Outcome State Fault Refusal :=
  let q := s.seq c.toNat
  let n := fieldMod q ia count 24
  let s' := s.setSeq c.toNat { q with lc := q.lc.set lc.toNat (BitVec.ofNat 24 n) }
  if n = 0 then s.issueAt c (.loop c lc ia endIdx count) s' (endIdx.toNat + 1) 2
  else s.issueAt c (.loop c lc ia endIdx count) s' (q.pc.toNat + 1) 1

/-- ENDL: decrements lcLC; while the result is non-zero, continues at BODY after a further step (R172, R177). -/
def execEndl (c : CoreId) (lc : BitVec 2) (body : BitVec 12) (s : State) : Host.Outcome State Fault Refusal :=
  let q := s.seq c.toNat
  let n := q.lc[lc.toNat] - 1
  let s' := s.setSeq c.toNat { q with lc := q.lc.set lc.toNat n }
  if n = 0 then s.issueAt c (.endl c lc body) s' (q.pc.toNat + 1) 1
  else s.issueAt c (.endl c lc body) s' body.toNat 2

/-- BR: continues at TARGET when COND holds, after a further step (R172, R177). -/
def execBr (c : CoreId) (cond ra : BitVec 4) (ia : Bool) (target : BitVec 12) (s : State) :
    Host.Outcome State Fault Refusal :=
  let q := s.seq c.toNat
  if brTaken cond (q.reg ra) then s.issueAt c (.br c cond ra ia target) s (fieldMod q ia target 12) 2
  else s.issueAt c (.br c cond ra ia target) s (q.pc.toNat + 1) 1

/-- The smallest valid bucket whose size is at least v (R178, R320). -/
def pickBucket (t : List Bucket) (v : Nat) : Option Bucket :=
  (t.filter fun b => b.valid && decide (v ≤ b.size.toNat)).foldl (fun best b =>
    match best with
    | none => some b
    | some x => if b.size.toNat < x.size.toNat then some b else some x) none

/-- BKT: waits for every SCT issued before it; writes the size of the bucket it picks into RD and continues at the variant's entry.
A value above the largest bucket is fault 3 (R161, R172, R178). -/
def execBkt (c : CoreId) (rd ra : BitVec 4) (src : Bool) (btab : Byte) (s : State) : Host.Outcome State Fault Refusal :=
  let q := s.seq c.toNat
  let v := if src then (q.reg ra).toNat else q.bk.toNat
  let ready := (s.vec c.toNat).q.all fun v => v.kind ≠ .sct
  let effect :=
    match pickBucket (Sparse.get [] q.bkts btab.toNat) v with
    | some b => (s.setReg c.toNat rd (b.size.zeroExtend 64)).goTo c.toNat b.entry.toNat 2
    | none => (s.coreFault c.toNat 3 q.pc).goTo c.toNat (q.pc.toNat + 1) 2
  s.issueTo c (.bkt c rd ra src btab) ready effect

/-- HALT stops issuing (R177); PACK_STATE follows when it was the last core (R306). -/
def execHalt (c : CoreId) (s : State) : Host.Outcome State Fault Refusal :=
  s.issueTo c (.halt c) true (s.haltCore c.toNat 3)

/-- STEP: RD = the module step counter (R177, R183). -/
def execStepCtr (c : CoreId) (rd : BitVec 4) (s : State) : Host.Outcome State Fault Refusal :=
  s.issue c (.stepCtr c rd) true (s.setReg c.toNat rd (BitVec.ofNat 64 s.now))

/-- Does engine e of a core hold an arm, from acceptance to completion (R229, R230)? -/
def State.engBusy (s : State) (c e : Nat) : Bool :=
  let g := s.eng c e
  g.active.isSome || g.queued.isSome || g.reserved.isSome

/-- The engines a mask names. -/
def maskEngines (m : Byte) : List Nat := (List.range 8).filter fun e => m.getLsbD e

/-- WAITS: waits until no engine in MASK holds an arm (R177, R230). -/
def execWaits (c : CoreId) (mask : Byte) (s : State) : Host.Outcome State Fault Refusal :=
  s.issue c (.waits c mask) ((maskEngines mask).all fun e => !s.engBusy c.toNat e) s

/-- WAITANY: in strict mode fault 2; in relaxed mode waits until an engine in MASK holds no arm, RD = the lowest such, all ones
for an empty mask, and counts a timing-dependent choice (R177, R182). -/
def execWaitany (c : CoreId) (rd : BitVec 4) (mask : Byte) (s : State) : Host.Outcome State Fault Refusal :=
  let i := Instr.waitany c rd mask
  if s.pack.strict then s.issue c i true (s.coreFault c.toNat 2 (s.pcOf c.toNat))
  else if mask = 0 then s.issue c i true ((s.setReg c.toNat rd (BitVec.allOnes 64)).countTdc c.toNat)
  else
    match (maskEngines mask).find? fun e => !s.engBusy c.toNat e with
    | some e => s.issue c i true ((s.setReg c.toNat rd (BitVec.ofNat 64 e)).countTdc c.toNat)
    | none => s.issue c i false s

/-- The core whose router hosts slice 4k, the home of work counter k (R185, R250, R266). -/
def counterHome (k : Nat) : CoreId := BitVec.ofNat 11 ((4 * k / 8) * 64 + (8 * (4 * k % 8) + 4))

/-- TKT: in strict mode fault 2; in relaxed mode a request goes to the counter's home and the core waits for the ticket (R172,
R182, R186, R266). -/
def execTkt (c : CoreId) (rd : BitVec 4) (ia : Bool) (ctr : BitVec 6) (s : State) : Host.Outcome State Fault Refusal :=
  let q := s.seq c.toNat
  let k := fieldMod q ia ctr 6
  let i := Instr.tkt c rd ia ctr
  if s.pack.strict then s.issue c i true (s.coreFault c.toNat 2 q.pc)
  else
    let s' := s.countTdc c.toNat
    let s' := s'.setSeq c.toNat { (s'.seq c.toNat) with wait := .ticket rd, st := 2 }
    s.issueTo c i true (s'.whistleSend 1
      { typ := 0x02, src := c, dst := counterHome k, bridge := false, body := [BitVec.ofNat 32 (k + 64 * c.toNat)] })

/-- TKTSET: the new values go to the counter's home (R187, R266). -/
def execTktset (c : CoreId) (ra : BitVec 4) (clr ia : Bool) (ctr : BitVec 6) (s : State) :
    Host.Outcome State Fault Refusal :=
  let q := s.seq c.toNat
  let k := fieldMod q ia ctr 6
  let v := q.reg ra
  s.issue c (.tktset c ra clr ia ctr) true (s.whistleSend 3
    { typ := 0x04, src := c, dst := counterHome k, bridge := false,
      body := [BitVec.ofNat 32 (k + (if clr then 64 else 0) + 128 * c.toNat), v.truncate 32, (v >>> 32).truncate 32] })

/-- The next 16 instructions come into the buffer when 16 of its 32 entries are free; an entry is free once its instruction has
issued. A PC the buffer did not hold issues 3 steps later (R173; log 18). -/
def execInstructionFetch (c : CoreId) (s : State) : Host.Outcome State Fault Refusal :=
  let q := s.seq c.toNat
  let hi := q.bufBase + q.buf.length
  if (q.st = 1 ∨ q.st = 2) ∧ hi < 4096 ∧ hi ≤ max q.pc.toNat q.bufBase + 16 then
    let n := min 16 (4096 - hi)
    let a := coreAddr c.toNat (8 * hi)
    let new := (List.range n).map fun i => BitVec.ofNat 64 (leNat (s.mem.bytesAt (a + 8 * i) 8))
    let buf := q.buf ++ new
    let drop := buf.length - 32
    .next (s.setSeq c.toNat { q with
      bufBase := q.bufBase + drop, buf := buf.drop drop,
      nextIssue := if hi ≤ q.pc.toNat then max q.nextIssue (s.now + 3) else q.nextIssue })
  else .next s

end Sys2Proof.Machine
end

