-- ==== Sys2Proof/Machine/Networks.lean ====
section
/-! DEFINITION. The Trail's scheduled steps (R251 to R265), the Whistle network (R266, R267) and those it serves: work counters (R186,
R187), remote arms, error notices and control blocks. -/

namespace Sys2Proof.Machine

/-! ## Joining split nodes (R263, R264) -/

/-- The operands of a join: the beats with first indices a and a + 2^k, in this order, whichever input gave which (R263). -/
def joinPair (a b : Beat) : Beat × Beat := if (NodeTag.ofBits b.hdr).first < (NodeTag.ofBits a.hdr).first then (b, a) else (a, b)

/-- Joins the beats at a COMB entry's inputs where R263 allows it; an element that saturates sets the beat's flag (R128). Its parcels
get their CHECK here (DEDUCED, log 82). -/
def joinBeats (p q : Beat) : Option Beat :=
  let a := (joinPair p q).1
  let b := (joinPair p q).2
  let x := NodeTag.ofBits a.hdr
  let y := NodeTag.ofBits b.hdr
  if a.kind = 2 ∧ b.kind = 2 ∧ { x with first := 0 } = { y with first := 0 } ∧ a.vmask = b.vmask ∧ a.integer = b.integer ∧
      y.first = x.first + 2 ^ x.level ∧ x.first % 2 ^ (x.level + 1) = 0 then
    let es := ((beatElems a.integer a).zip (beatElems b.integer b)).map fun p =>
      let c := combineElem a.integer p.1.v p.2.v
      (({ v := c.1, poison := p.1.poison || p.2.poison } : VRes), c.2)
    some { a with
      hdr := NodeTag.bits { x with level := x.level + 1 },
      ps := beatParcels a.integer (128 * x.beat) (es.map (·.1)),
      sat := a.sat || b.sat || es.any (·.2) }
  else none

/-- The beat at SRC of a refused join: poisoned, one level up (R264). -/
def refusedJoin (a : Beat) : Beat :=
  let x := NodeTag.ofBits a.hdr
  { a with hdr := NodeTag.bits { x with level := x.level + 1 },
           ps := (List.range a.ps.length).map fun i => poisonedParcel (128 * x.beat + 32 * i) }

/-- The flit header of a split-node beat (R325). -/
def nodeHead (own : Nat) (t : NodeTag) (vmask : Nat) : FHead :=
  { ftype := 4, vmask, dmod := t.module, smod := own, beat := t.beat,
    addr := t.core * 2 ^ 31 + t.base * 2 ^ 28 + t.logS * 2 ^ 24 + t.level * 2 ^ 20 + t.first * 2 ^ 6 }

namespace State

/-! ## What a router's inputs give (R253, R257) -/

/-- Beats at a router's mesh inputs whose step has passed are gone; those that no entry took are counted (R257). -/
def dropStale (s : State) (plane router : Nat) : State :=
  [0, 1, 2, 3].foldl (fun s i =>
    let k := planeKey plane router i
    let q := Sparse.get [] s.trail.beats k
    let old := q.filter fun b => decide (b.avail < s.now)
    if old.isEmpty then s
    else { s with trail := { s.trail with
      beats := Sparse.set [] s.trail.beats k (q.filter fun b => decide (s.now ≤ b.avail)),
      drop := s.trail.drop + (old.filter fun b => !b.taken).length } }) s

/-- The key of the slots that lead from a port's input on a plane to an exit (R331). -/
def routeKey (plane router exit : Nat) : Nat := planeKey plane router 6 * 16384 + exit

/-- An EDGE-sourced slot of a port passes empty: a flit that comes later for one of its exits is late (R331; log 85). -/
def missSlot (s : State) (plane router : Nat) (exits : List Nat) : State :=
  if (portAtRouter router).isNone then s
  else { s with trail := { s.trail with
    missed := exits.foldl (fun m x => Sparse.set false m (routeKey plane router x) true) s.trail.missed } }

/-- A device's next beat for a slot: the one that the device has given already in this step, else the first that waits for a slot of this
route; while the phase changes, none (R253, R257, R258). An EDGE slot of port 0's router that no received flit takes is the service path's
(R419). -/
def takeDevice (s : State) (plane router src : Nat) : State × Option Beat :=
  let k := planeKey plane router src
  match Sparse.get none s.trail.given k with
  | some (at_, b) => if at_ = s.now + 1 then (s, some b) else fresh k
  | none => fresh k
where
  fresh (k : Nat) : State × Option Beat :=
    if s.trail.holdUntil.isSome then (s, none)
    else
      let exits := s.routeExits 256 plane router src s.now
      let ok := fun (b : Beat) => exits.contains b.dst && (s.trail.curSet ≠ 0 || (uniformSlots router src b).isNone)
      match s.takeSource (sourceKey plane router src) exits ok with
      | some (t, b) => ({ t with trail := { t.trail with given := Sparse.set none t.trail.given k (some (s.now + 1, b)) } }, some b)
      | none =>
        let s := if src = 6 then s.missSlot plane router exits else s
        if src = 6 ∧ router = portRouter 0 ∧ 2 ≤ plane then
          match s.takeSource slotKey exits ok with
          | some (t, b) => ({ t with trail := { t.trail with given := Sparse.set none t.trail.given k (some (s.now + 1, b)) } }, some b)
          | none => (s, none)
        else (s, none)

/-- The beat that an entry's input gives in this step: at a mesh input the one present, from a device the one that its slot takes. Every
entry of the step that names the input gets the same beat (R257). -/
def takeInput (s : State) (plane router src : Nat) : State × Option Beat :=
  if src < 4 then
    let k := planeKey plane router src
    let q := Sparse.get [] s.trail.beats k
    match q.find? fun b => b.avail = s.now with
    | none => (s, none)
    | some b =>
      ({ s with trail := { s.trail with
          beats := Sparse.set [] s.trail.beats k (q.map fun x => if x = b then { x with taken := true } else x) } }, some b.beat)
  else s.takeDevice plane router src

/-! ## What leaves the network (R250, R251, R326) -/

/-- A packet that has reached its exit does there what it is for: a request at its slice or core, an answer at the engine or the service path that waits, a
request of a slice at its channel, what a channel answers at its slice, or another module's answer at its core. -/
def deliver (s : State) (router out ord : Nat) (p : Pkt) : State :=
  match p.flow with
  | .request r =>
    if placeExit r.addr ≠ some (router * 8 + out) then s
    else if out = 5 then s.sliceReq { r with ord } else s.coreRequest router r
  | .answer r => if out = 4 then s.answerCame r p.parcel else if out = 6 then s.slotGot r p.parcel else s
  | .toChan m => if out = 6 then s.setChan m.ch { (s.chan m.ch) with wait := (s.chan m.ch).wait ++ [m] } else s
  | .fromChan m => if out = 5 then s.setSlice m.slice { (s.sliceAt m.slice) with filled := (s.sliceAt m.slice).filled ++ [m] } else s
  | .away h => if out = 4 ∧ h.ftype = 3 then s.answeredAway router h.eng (globalKey h.smod p.addr) p.parcel else s

/-- The flit that a beat for another module makes: its packets lie at consecutive addresses (R325, R326). -/
def awayFlit (h : FHead) (b : Beat) : FHead × List Parcel :=
  let n := b.pkts.length
  ({ h with vmask := if h.ftype = 5 then h.vmask else 2 ^ n - 1, addr := b.pkts.head?.elim h.addr (·.addr) },
   if h.ftype = 2 ∨ h.ftype = 5 then [] else b.pkts.map (·.parcel))

/-- A beat leaves the network at a device, which it reaches in a step: a core, a slice, a channel or a Guyline port. A beat that no device
is for is dropped and counted. -/
def exitBeat (s : State) (plane router out at_ : Nat) (b : Beat) : State :=
  let port := portAtRouter router
  let lost : State := { s with trail := { s.trail with drop := s.trail.drop + 1 } }
  if b.kind = 2 then
    if out = 4 then
      { s with trail := { s.trail with inbox := Sparse.set [] s.trail.inbox router (Sparse.get [] s.trail.inbox router ++ [b]) } }
    else match out, port with
      | 6, some p => s.portBeat p plane (nodeHead s.ownId (NodeTag.ofBits b.hdr) b.vmask.toNat) b.ps
      | _, _ => lost
  else match b.flow, out, port with
    | some (.away h), 6, some p => let f := awayFlit h b; s.portBeat p plane f.1 f.2
    | some _, _, _ => (enumFrom0 b.pkts).foldl (fun s x => s.deliver router out (64 * at_ + 16 * plane + x.1) x.2) s
    | none, _, _ => lost

/-- A beat leaves a router by an output (R251, R252). -/
def beatOut (s : State) (plane router out : Nat) (b : Beat) : State :=
  if out < 4 then
    let h := hop router out
    let k := planeKey plane h.1 h.2.1
    { s with trail := { s.trail with
        beats := Sparse.set [] s.trail.beats k
          (Sparse.get [] s.trail.beats k ++ [{ avail := s.now + h.2.2, taken := false, beat := b }]) } }
  else s.exitBeat plane router out s.now b

/-! ## The uniform schedule (R261) -/

/-- Under the uniform schedule, what reaches a device's output in this step, or has reached it since the last, leaves the network there. -/
def uniformArrive (s : State) (plane router out : Nat) : State :=
  let here := fun (x : Nat × Nat × Beat) => x.1 = plane && decide (x.2.1 ≤ s.now) && x.2.2.dst = router * 8 + out
  (s.trail.transit.filter here).foldl (fun s x => s.exitBeat plane router out x.2.1 x.2.2)
    { s with trail := { s.trail with transit := s.trail.transit.filter fun x => !here x } }

/-- Under the uniform schedule a device puts the first beat that waits for this slot of its rotation on the network; it is there after the
latency of its path (R252, R253, R261). -/
def uniformDepart (s : State) (plane router input : Nat) : State :=
  if s.trail.curSet ≠ 0 || s.trail.holdUntil.isSome then s
  else
    let j := s.slotNo s.now % 512
    let k := sourceKey plane router input
    let ok := fun (b : Beat) => (uniformSlots router input b).any fun x => x.1 = plane && x.2.contains j
    match firstReady s.now ok [] (s.srcAt k) with
    | none => s
    | some (before, b, rest) =>
      { s with trail := { s.trail with
          srcq := Sparse.set [] s.trail.srcq k (before ++ rest),
          transit := s.trail.transit ++ [(plane, s.now + pathSteps router (b.dst / 8), b)] } }

/-- What a router's output does in a step besides its entry: at a device, the slots of the uniform schedule. -/
def uniformStep (s : State) (plane router out : Nat) : State :=
  if out < 4 then s else (s.uniformArrive plane router out).uniformDepart plane router out

end State

/-- A router output runs the entry of this step: FWD, COMB or IDLE (R254, R256, R257, R263, R264). -/
def execTrailSlot (plane : BitVec 2) (router : CoreId) (out : BitVec 3) (s : State) : Host.Outcome State Fault Refusal :=
  let p := plane.toNat
  let r := router.toNat
  let o := out.toNat
  if o = 7 then .fault .illFormed
  else
    let s := s.dropStale p r
    if s.now % 16 = 15 ∨ hasOutput p r o = false ∨ s.outDone p r o = true then .next s
    else
      let e := s.slotEntryAt s.now p r o
      let s := (s.markOut p r o).uniformStep p r o
      match bitsOf e 15 14 with
      | 1 =>
        let x := s.takeInput p r (bitsOf e 13 11)
        match x.2 with
        | some b => .next (x.1.beatOut p r o b)
        | none => .next x.1
      | 2 =>
        let x := s.takeInput p r (bitsOf e 13 11)
        let y := x.1.takeInput p r (bitsOf e 10 8)
        match x.2, y.2 with
        | some a, some b =>
          match joinBeats a b with
          | some j => .next (y.1.beatOut p r o j)
          | none =>
            let t := y.1.trail
            .next (({ y.1 with trail := { t with comb := t.comb + 1 } }).beatOut p r o (refusedJoin a))
        | some a, none => .next (y.1.beatOut p r o a)
        | none, some b => .next (y.1.beatOut p r o b)
        | none, none => .next y.1
      | _ => .next s

/-- The tables of the next phase start at every router (R258). -/
def execPhaseTablesStart (s : State) : Host.Outcome State Fault Refusal :=
  match s.trail.holdUntil with
  | some t =>
    if t ≤ s.now then
      .next { s with trail := { s.trail with curSet := s.trail.nextSet, phaseBase := t, holdUntil := none, missed := [] } }
    else .next s
  | none => .next s

/-! ## The Whistle network (R266, R267) -/

/-- The class of a message type: 0 management, 1 work counters, 2 program (R267). -/
def wClass (typ : BitVec 5) : Nat :=
  if 5 ≤ typ.toNat ∧ typ.toNat ≤ 8 then 0 else if 2 ≤ typ.toNat ∧ typ.toNat ≤ 4 then 1 else 2

/-- The class that a step belongs to (R267). -/
def stepClass (step : Nat) : Nat := if step % 16 = 0 then 0 else if step % 16 = 8 then 1 else 2

/-- How many steps of a class lie below a step, and the step of a class by its number from 0. -/
def classCount (cls n : Nat) : Nat :=
  match cls with
  | 0 => (n + 15) / 16
  | 1 => (n + 7) / 16
  | _ => n - (n + 15) / 16 - (n + 7) / 16

def classStep (cls k : Nat) : Nat :=
  match cls with
  | 0 => 16 * k
  | 1 => 16 * k + 8
  | _ => k / 14 * 16 + if k % 14 < 7 then k % 14 + 1 else k % 14 + 2

/-- Is the TYPE reserved (R266)? -/
def wReserved (typ : BitVec 5) : Bool := typ = 0 || decide (9 ≤ typ.toNat)

/-- The output that a flit wants: 7 is the bridge's. -/
def WFlit.out (f : WFlit) : Nat :=
  if f.msg.bridge then dimOrder f.pos.toNat 0 7 else dimOrder f.pos.toNat f.msg.dst.toNat 4

/-- May the flit go on in this step, apart from the others? Delivery takes two steps of the class (R267). -/
def WFlit.ready (f : WFlit) (now : Nat) : Bool :=
  let cls := wClass f.msg.typ
  stepClass now = cls && decide (f.avail ≤ now) &&
    (f.out < 4 || decide (classCount cls f.avail + 2 ≤ classCount cls (now + 1)))

/-- The fixed input order of R267; the bridge's own input, 7, comes last (log 11). -/
def whistleOrder : List Nat := [4, 3, 1, 0, 2, 7]

namespace State

/-- The flit that a router's output takes next in a class: of the oldest at each input, the first in the order that wants it. -/
def whistlePick (s : State) (router out cls : Nat) : Option Nat :=
  let fs := enumFrom0 s.whistle.flits
  whistleOrder.findSome? fun i =>
    match fs.find? fun x => x.2.pos.toNat = router && x.2.inp = i && wClass x.2.msg.typ = cls with
    | some x => if x.2.out = out ∧ x.2.ready s.now = true then some x.1 else none
    | none => none

/-- The messages of a core's box. -/
def boxOf (s : State) (c : Nat) : List WMsg := Sparse.get [] s.whistle.box c

/-- A message leaves a core's box. -/
def unbox (s : State) (c : Nat) (m : WMsg) : State :=
  { s with whistle := { s.whistle with box := Sparse.set [] s.whistle.box c ((s.boxOf c).erase m) } }

/-- A management write of a core's box is done (R200, R266). -/
def boxWrite (s : State) (c : Nat) (m : WMsg) : State :=
  (s.unbox c m).controlWrite c (m.body.getD 0 0).toNat ((m.body.getD 1 0).toNat + (m.body.getD 2 0).toNat * 2 ^ 32)

/-- A control-block read is answered to the bridge with the register whole, after the writes that came before it: offset, low and high word
(R200, R266, R435; log 31). -/
def answerCore (s : State) (c : Nat) (m : WMsg) : State :=
  let s := ((s.boxOf c).filter fun x => x.typ = 7).foldl (fun s x => s.boxWrite c x) s
  let off := m.body.getD 0 0
  let v := s.controlReg c off.toNat
  s.whistleSend 3 { typ := 8, src := BitVec.ofNat 11 c, dst := 0, bridge := true, body := [off, BitVec.ofNat 32 v, BitVec.ofNat 32 (v / 2 ^ 32)] }

/-- A whole message is delivered: a ticket goes to RD of the core that waits for it, and a control-block read is answered; the bridge and
the other cores keep theirs until they act on it (R172, R266). -/
def whistleDeliver (s : State) (m : WMsg) : State :=
  let m := { m with at_ := s.now }
  if m.bridge then { s with whistle := { s.whistle with bridge := s.whistle.bridge ++ [m] } }
  else if m.typ = 6 then s.answerCore m.dst.toNat m
  else
    let c := m.dst.toNat
    if m.typ = 3 then
      match (s.seq c).wait with
      | .ticket rd =>
        let v := (m.body.getD 0 0).toNat + (m.body.getD 1 0).toNat * 2 ^ 32
        let s := s.setReg c rd (BitVec.ofNat 64 v)
        (s.setSeq c { (s.seq c) with wait := .none }).advance c
      | _ => s
    else { s with whistle := { s.whistle with box := Sparse.set [] s.whistle.box c (Sparse.get [] s.whistle.box c ++ [m]) } }

end State

/-- A flit advances one hop in a step of its class, or is delivered; one of reserved TYPE is dropped and counted (R266, R267). -/
def execWhistleFlitHop (k : Nat) (s : State) : Host.Outcome State Fault Refusal :=
  match s.whistle.flits[k]? with
  | none => .next s
  | some f =>
    let w := s.whistle
    let cls := wClass f.msg.typ
    let r := f.pos.toNat
    let o := f.out
    if wReserved f.msg.typ then .next { s with whistle := { w with flits := w.flits.eraseIdx k, drop := w.drop + 1 } }
    else if !f.ready s.now || s.whistlePick r o cls ≠ some k || Sparse.get 0 w.done (8 * r + o) = s.now + 1 then .next s
    else
      let done := Sparse.set 0 w.done (8 * r + o) (s.now + 1)
      if o < 4 then
        let h := hop r o
        let avail := classStep cls (classCount cls s.now + if h.2.2 = 18 then 8 else 1)
        let f' : WFlit := { f with pos := BitVec.ofNat 11 h.1, inp := h.2.1, avail }
        .next { s with whistle := { w with flits := w.flits.eraseIdx k ++ [f'], done } }
      else
        let s := { s with whistle := { w with flits := w.flits.eraseIdx k, done } }
        .next (if f.last then s.whistleDeliver f.msg else s)

/-- An arm message starts or queues an arm at its engine (R228, R266): list address and engine in the body's 64 bits (log 31). -/
def execRemoteArm (c : CoreId) (s : State) : Host.Outcome State Fault Refusal :=
  let k := c.toNat
  match (s.boxOf k).find? fun m => m.typ = 1 with
  | none => .next s
  | some m =>
    let v := (m.body.getD 0 0).toNat + (m.body.getD 1 0).toNat * 2 ^ 32
    .next ((s.unbox k m).acceptArm k (bitsOf v 44 42) (bitsOf v 41 0))

/-- Ranger receives an error notice (R472). -/
def execErrorNotice (s : State) : Host.Outcome State Fault Refusal :=
  if s.rng.restarting then .next s
  else
    match s.whistle.bridge.find? fun m => m.typ = 5 with
    | none => .next s
    | some m => .next ({ s with whistle := { s.whistle with bridge := s.whistle.bridge.erase m } }).packFatalNotice

/-- A management write reaches a core's control block (R200, R266). -/
def execControlBlockWrite (c : CoreId) (s : State) : Host.Outcome State Fault Refusal :=
  let k := c.toNat
  match (s.boxOf k).find? fun m => m.typ = 7 with
  | none => .next s
  | some m => .next (s.boxWrite k m)

/-! ## Work counters (R185 to R187) -/

/-- The counter that a message is for. -/
def WMsg.ctr (m : WMsg) : Nat := (m.body.getD 0 0).toNat % 64

/-- The order in which a home serves: by arrival step, a step's TKTs before its TKTSETs, each in ascending core ID (R186, R187). -/
def WMsg.order (m : WMsg) : Nat := (m.at_ * 2 + if m.typ = 4 then 1 else 0) * 2048 + m.src.toNat

/-- The first message of a list by that order. -/
def firstServed : List WMsg → Option WMsg
  | [] => none
  | m :: r =>
    match firstServed r with
    | none => some m
    | some x => if x.order < m.order then some x else some m

/-- The message that a counter's home serves next: one that arrived in an earlier step. -/
def State.nextServed (s : State) (ctr : BitVec 6) : Option WMsg :=
  firstServed ((s.boxOf (counterHome ctr.toNat).toNat).filter fun m =>
    (m.typ = 2 || m.typ = 4) && m.ctr = ctr.toNat && decide (m.at_ < s.now))

/-- The home serves a TKT: below LIMIT the next ticket, else all ones; one below HWM is a duplicate (R186). -/
def execTktServe (ctr : BitVec 6) (s : State) : Host.Outcome State Fault Refusal :=
  match s.nextServed ctr with
  | none => .next s
  | some m =>
    if m.typ ≠ 2 then .next s
    else
      let home := counterHome ctr.toNat
      let s := s.unbox home.toNat m
      let w := s.ctr ctr.toNat
      let reply := fun (s : State) (lo hi : W32) => s.whistleSend 2
        { typ := 3, src := home, dst := m.src, bridge := false, body := [lo, hi] }
      if w.next < w.limit then
        let s := if w.next < w.hwm then s.countDup m.src.toNat else s
        let v := w.next
        .next (reply (s.setCtr ctr.toNat { w with next := v + 1, hwm := if w.hwm ≤ v then v + 1 else w.hwm }) v 0)
      else .next (reply s 0xFFFFFFFF 0xFFFFFFFF)

/-- The home applies a TKTSET after the TKTs of its step (R187). -/
def execTktsetServe (ctr : BitVec 6) (s : State) : Host.Outcome State Fault Refusal :=
  match s.nextServed ctr with
  | none => .next s
  | some m =>
    if m.typ ≠ 4 then .next s
    else
      let s := s.unbox (counterHome ctr.toNat).toNat m
      let w := s.ctr ctr.toNat
      .next (s.setCtr ctr.toNat
        { next := m.body.getD 1 0, limit := m.body.getD 2 0, hwm := if (m.body.getD 0 0).getLsbD 6 then 0 else w.hwm })

end Sys2Proof.Machine
end

