-- ==== Sys2Proof/Machine/GuylineOps.lean ====
section
/-! DEFINITION. Guyline's shared operations: the flit check and sequence numbers (R325, R328, R329), symbols that are acted on once (R335,
R337), the taking of delivered flits (R334), and the start of a pack in step (R305, R345). -/

namespace Sys2Proof.Machine

/-! ## Flits -/

/-- A header with its SEQ and FCRC (R325; the byte order is log 22). -/
def flitCrc (header : BitVec 256) (blocks : List PBlock) : W32 :=
  crc32 ((0 : Byte) :: beBytes 32 (header.toNat / 2 ^ 32 * 2 ^ 32) ++ blocks.flatMap fun b => b.ctl :: parcelBytes b.data)

def Flit.sealed (f : Flit) (seq : BitVec 12) : Flit :=
  let h := f.header.toNat % 2 ^ 240 / 2 ^ 32 * 2 ^ 32 + f.header.toNat / 2 ^ 252 * 2 ^ 252 + seq.toNat * 2 ^ 240
  { f with header := BitVec.ofNat 256 (h + (flitCrc (BitVec.ofNat 256 h) f.blocks).toNat) }

def Flit.seq (f : Flit) : Nat := bitsOf f.header.toNat 251 240

/-- Does the flit pass its check: FCRC, and a parcel block for each bit of VMASK where its type carries parcels (R325, R329)? -/
def Flit.ok (f : Flit) : Bool :=
  let h := FHead.ofBits f.header
  let n := if h.ftype = 2 ∨ h.ftype = 5 then 0 else ((List.range 8).filter fun i => bitOf h.vmask i).length
  decide (f.blocks.length = n) && decide (bitsOf f.header.toNat 31 0 = (flitCrc f.header f.blocks).toNat)

/-- The parcels of a flit with their indices and addresses (R325, R327). -/
def flitParcels (h : FHead) (bs : List PBlock) : List (Nat × Nat × Parcel) :=
  (((List.range 8).filter fun i => bitOf h.vmask i).zip bs).map fun x =>
    let a := (h.addr + 32 * x.1) % 2 ^ 42
    (x.1, a, blockParcel x.2 a)

/-- A port that has just come up: sequence numbers, buffers and what it knows of its partner begin anew. -/
def GPort.fresh (g : GPort) : GPort :=
  { g with
    pos := 0, blockNo := 0, cur := [], curDpk := [], ctlq := [], credits := 128, seq := 0, replay := [], resend := [], replays := 0,
    rxExp := 0, rxq := [], nakOut := none, edge := [], lastEdge := none, sseq := 0, syms := [], rxSseq := 0, seenSyms := [], child := false,
    ready := false, master := 0xFFFF, peerT1 := 0, peerAt := 0 }

/-- The sequence numbers already received from the next one expected on are passed over. -/
def advanceSseq : Nat → Byte → List Byte → Byte × List Byte
  | 0, n, seen => (n, seen)
  | fuel + 1, n, seen => if seen.contains n then advanceSseq fuel (n + 1) (seen.erase n) else (n, seen)

namespace State

/-- ACK with the credits given back (R328, R335). -/
def sendAck (s : State) (p credits : Nat) : State := s.sendSymOnce p 0x01 credits

/-- Does a symbol's SCRC hold, and is it of this type (R335)? -/
def symOk (payload : BitVec 256) (stype : Nat) : Bool :=
  let x := payload.toNat
  bitsOf x 255 248 = stype && bitsOf x 15 0 = (crc16 (beBytes 30 (x / 65536))).toNat

/-- A symbol of a type arrives at a port: one that is not of the type, fails its check or meets a port that is not up is discarded; the
others are acknowledged, and the second part says whether this one is to be acted on (R335, R337). -/
def takeSym (s : State) (p : Nat) (payload : BitVec 256) (stype : Nat) : State × Bool :=
  if !s.portUp p || !symOk payload stype then (s, false)
  else
    let g := s.gport p
    let n := BitVec.ofNat 8 (bitsOf payload.toNat 247 240)
    let new := !g.seenSyms.contains n && decide ((n - g.rxSseq).toNat < 128)
    let seen := if new then g.seenSyms ++ [n] else g.seenSyms
    let r := advanceSseq seen.length g.rxSseq seen
    ((s.setPort p { g with rxSseq := r.1, seenSyms := r.2 }).sendAck p 0, new)

/-- The oldest flit that a port has delivered to its edge router, if it is of a type, and the state without it. -/
def takeFlit (s : State) (p ftype : Nat) : Option (FHead × List PBlock × State) :=
  let g := s.gport p
  match g.edge with
  | f :: rest =>
    let h := FHead.ofBits f.header
    if h.ftype = ftype then some (h, f.blocks, s.setPort p { g with edge := rest }) else none
  | [] => none

/-! ## Between a port and the Trail (R326, R331, R333, R334) -/

/-- A packet waits at a port's EDGE input: parcels 0 to 3 of a flit on plane 2, 4 to 7 on plane 3 (R326). -/
def putEdge (s : State) (port i : Nat) (p : Pkt) : State := s.putPkt (planeKey (2 + i / 4) (portRouter port) 6) s.now p

/-- A flit for another module crosses the Trail to the port of its route, parcel by parcel as a transit beat; Daypack traffic takes the
Daypack path, and service traffic goes to its port at once (R333; log 87). -/
def passOn (s : State) (port : Nat) (f : Flit) : State :=
  let h := FHead.ofBits f.header
  let idx := (List.range 8).filter fun i => bitOf h.vmask i
  match s.routePort h.dmod with
  | none => s.countUnroutable
  | some q =>
    if h.ftype = 6 ∨ q = port then s.portFlit q h (((flitParcels h f.blocks).map fun x => x.2.2))
    else if h.ftype = 2 then
      idx.foldl (fun s i =>
        let a := (h.addr + 32 * i) % 2 ^ 42
        s.sendAway (2 + i / 4) (portRouter port) 6 s.now { h with vmask := 1, addr := a } {}) s
    else if h.ftype = 5 then s.sendAway 2 (portRouter port) 6 s.now h {}
    else (flitParcels h f.blocks).foldl (fun s x =>
      s.sendAway (2 + x.1 / 4) (portRouter port) 6 s.now { h with vmask := 1, addr := x.2.1 } x.2.2) s

/-- The exits, with their planes, that the parcels of a flit take from a port's EDGE input. -/
def flitExits (s : State) (h : FHead) : List (Nat × Nat) :=
  if h.dpk || h.ftype = 6 || (h.ftype = 5 && h.dmod = s.ownId) then []
  else
    let plane := fun (i : Nat) => 2 + i / 4
    if h.dmod ≠ s.ownId then ((s.awayExit h.dmod).map fun x => (2, x)).toList
    else if h.ftype = 3 ∨ h.ftype = 4 then
      [(2, (if h.ftype = 4 then bitsOf h.addr 41 31 else h.core) * 8 + 4)]
    else ((List.range 8).filter fun i => bitOf h.vmask i).filterMap fun i =>
      (placeExit ((h.addr + 32 * i) % 2 ^ 42)).map fun x => (plane i, x)

/-- Do the running tables give one of a flit's exits an EDGE-sourced slot of its port, that many steps ago in this phase (R331)? -/
def slotWas (s : State) (port : Nat) (h : FHead) (past : Nat) : Bool :=
  decide (0 < past) && decide (s.trail.phaseBase + past ≤ s.now) &&
    (s.flitExits h).any fun x => (s.routeExits 256 x.1 (portRouter port) 6 (s.now - past)).contains x.2

/-- A flit that reaches the edge router after its slot is late, and counts once: where an EDGE-sourced slot of its route has passed empty, or
where its own slot, `past` steps ago, is one that the tables give its route (R331; log 85). -/
def countLate (s : State) (port : Nat) (h : FHead) (past : Nat) : State :=
  let keys := (s.flitExits h).map fun x => routeKey x.1 (portRouter port) x.2
  if (keys.any fun k => Sparse.get false s.trail.missed k) || s.slotWas port h past then
    { s with
      trail := { s.trail with missed := keys.foldl (fun m k => Sparse.set false m k false) s.trail.missed },
      gl := { s.gl with lateFlit := s.gl.lateFlit + 1 } }
  else s

/-! ## Starting (R305, R345) -/

/-- Every core of the pack is released at one start barrier, and the pack runs (R258, R305). -/
def releaseCores (s : State) : State :=
  let s := s.cores.seq.foldl (fun s x => if x.2.inPack then s.setSeq x.1 { x.2 with st := 1, nextIssue := s.now } else s) s
  { s with
    pack := { s.pack with state := .running },
    trail := { s.trail with phaseBase := s.now },
    gl := { s.gl with placed := false, sentReady := false, tStart := none,
                      ports := s.gl.ports.map fun x => (x.1, { x.2 with ready := false }) } }

/-- START to every child; V and VFRAC are this module's counter as the symbol starts (R335, R345). -/
def sendStart (s : State) (tStart hops master target : Nat) : State :=
  s.startChildren.foldl (fun s p => s.sendSym p 0x21
    (tStart % 2 ^ 64 * 2 ^ 176 + hops % 64 * 2 ^ 100 + master % 16384 * 2 ^ 86 + target % 2 ^ 21 * 2 ^ 65)) s

/-- A module whose own cores are placed and whose children are ready reports READY upward; the master sends START (R345). -/
def progressStart (s : State) : State :=
  if !s.gl.placed || s.gl.tStart.isSome || !(s.startChildren.all fun p => (s.gport p).ready) then s
  else if s.isMaster then
    let t := s.now + 65536
    ({ s with gl := { s.gl with tStart := some t } }).sendStart t 0 s.ownId s.pace.target
  else if s.gl.sentReady then s
  else match s.upstream with
    | some p => ({ s with gl := { s.gl with sentReady := true } }).sendSym p 0x20 0
    | none => s

end State

end Sys2Proof.Machine
end

