-- ==== Sys2Proof/Machine/Loader.lean ====
section
/-! DEFINITION. The pack loader's checks 1 to 12 (R303, R307): header, owner, class, directory and record heads, image, manifest and
placement. A check answers the refusal with its place (R304). -/

namespace Sys2Proof.Machine

/-- A refusal: its code, and SECTION, CORE and ITEM of PACK_LOAD_DETAIL (R304). -/
structure Refuse where
  code : W16
  sect : Nat := 0
  core : Nat := 0xFFFF
  item : Nat := 0
  deriving DecidableEq, Repr

/-- PACK_LOAD_DETAIL (R304). -/
def Refuse.detail (r : Refuse) : W64 := BitVec.ofNat 64 (r.sect % 65536 * 2 ^ 48 + r.core % 65536 * 2 ^ 32 + r.item % 2 ^ 32)

/-- A refusal where a condition holds. -/
def refuseIf (b : Bool) (r : Refuse) : Option Refuse := if b then some r else none

/-- The first element of a list that meets a condition, by its number, as a refusal of a section. -/
def refuseAt {α : Type} (code : W16) (sect : Nat) (bad : α → Bool) (l : List α) : Option Refuse :=
  ((List.range l.length).zip l).findSome? fun x => if bad x.2 then some { code, sect, item := x.1 } else none

/-- Every element of a list that meets a condition, as a refusal of a section that names its number and the core concerned. -/
def refuseAll {α : Type} (code : W16) (sect : Nat) (core : α → Nat) (bad : α → Bool) (l : List α) : List Refuse :=
  ((List.range l.length).zip l).filterMap fun x => if bad x.2 then some { code, sect, core := core x.2, item := x.1 } else none

/-- No core is concerned (R304). -/
def noCore {α : Type} (_ : α) : Nat := 0xFFFF

/-- The refusal of a check: that of the lowest core and, within it, of the lowest instruction index, record number or offset; of two for one
item the earlier listed, in the order of the check's codes. What concerns no core follows the cores (R303; DESIGN CHOICE, log 40). -/
def lowest (l : List Refuse) : Option Refuse :=
  l.foldl (fun best r =>
    match best with
    | none => some r
    | some b => if r.core < b.core ∨ (r.core = b.core ∧ r.item < b.item) then some r else some b) none

/-- Do two runs of bytes meet? -/
def meets (a n b m : Nat) : Bool := decide (a < b + m ∧ b < a + n ∧ 0 < n ∧ 0 < m)

/-! ## Checks 1 to 10 -/

/-- KEY_ID and SIG of the trailer (R301). -/
def packKeyId (p : List Byte) : BitVec 256 := BitVec.ofNat 256 (beNat (slice p (packTotal p) 32))
def packSig (p : List Byte) : BitVec 512 := BitVec.ofNat 512 (beNat (slice p (packTotal p + 32) 64))

/-- Check 1. -/
def check1 (p : List Byte) : Option Refuse :=
  let total := packTotal p
  refuseIf (decide (p.length < 384) || fieldAt p 0 4 ≠ 0x4C52534B || fieldAt p 4 2 ≠ 2 || fieldAt p 6 2 ≠ 0x100 ||
    bitOf (fieldAt p 0x0A 2) 14 || fieldAt p 0x40 192 ≠ 0 || total % 32 ≠ 0 || decide (0xFFFFFF80 < total) ||
    p.length ≠ total + 128 || fieldAt p (total + 96) 32 ≠ 0) { code := 0x0501 }

/-- Check 6: a logical core is left isolated (R249, R303). -/
def gridIncomplete (s : State) : Option Refuse :=
  (s.cores.seq.find? fun x => x.2.st = 5).map fun x => { code := 0x052F, core := x.1 }

/-- Checks 2 to 6: the owner, the signature over bytes 0 to TOTAL_LEN - 1 (R449), the class, the module, the grid. -/
def check2to6 (s : State) (p : List Byte) : Option Refuse :=
  refuseIf (!s.owned || packKeyId p ≠ s.dict.ownerKey) { code := 0x0503 } <|>
  refuseIf (!Config.sm2Verify (packKeyId p) (p.take (packTotal p)) (packSig p)) { code := 0x0502 } <|>
  refuseIf (fieldAt p 8 2 ≠ 0xFFFF && fieldAt p 8 2 ≠ State.reproClass) { code := 0x0505 } <|>
  refuseIf (!bitOf (fieldAt p 0x0A 2) 15 && fieldAt p 0x0A 2 % 16384 ≠ s.ownId) { code := 0x0506 } <|>
  gridIncomplete s

/-- A fault of a directory entry by itself (R299, R300). -/
def dirBad (p : List Byte) (e : Nat) (x : Sect) : Bool :=
  let o := 0x100 + 32 * e
  fieldAt p (o + 2) 2 ≠ 0 || fieldAt p (o + 24) 8 ≠ 0 || x.typ = 0 || decide (11 < x.typ) || x.off % 32 ≠ 0 ||
    decide (x.off < 0x100 + 32 * fieldAt p 0x0C 4) || decide (packTotal p < x.off + x.len)

/-- A fault of a record's head bits (R300, R314, R320). -/
def headBad (typ : Nat) (b : List Byte) : Bool :=
  let h := fieldAt b 0 8
  match typ with
  | 0x0002 => bitsOf h 15 11 ≠ 0 || bitsOf h 63 29 ≠ 0
  | 0x0003 => bitsOf h 63 48 ≠ 0
  | 0x0004 => bitsOf h 63 42 ≠ 0 || fieldAt b 12 4 ≠ 0
  | 0x0006 => fieldAt b 0 2 = 0 || decide (256 < fieldAt b 0 2)
  | 0x0008 => bitsOf h 63 42 ≠ 0
  | 0x000A => bitsOf h 63 19 ≠ 0
  | _ => false

/-- Check 7. -/
def check7 (p : List Byte) : Option Refuse :=
  let n := fieldAt p 0x0C 4
  let ss := packSects p
  let at_ := fun (i : Nat) => ss.getD i { typ := 0, records := 0, off := 0, len := 0 }
  let lay : W16 := 0x0507
  refuseIf (n = 0 || decide (64 < n)) { code := lay, item := 0x0C } <|>
  ((List.range n).findSome? fun e =>
    let x := at_ e
    if dirBad p e x || ((List.range e).any fun f => (at_ f).typ = x.typ || meets (at_ f).off (at_ f).len x.off x.len) then
      some { code := lay, item := 0x100 + 32 * e }
    else none) <|>
  refuseIf ([1, 2, 7].any fun t => (packSect p t).isNone) { code := lay, item := 0x100 } <|>
  ((List.range n).findSome? fun e =>
    let x := at_ e
    match cutRecords x.typ x.records (slice p x.off x.len) with
    | none => some { code := lay, sect := x.typ }
    | some rs => refuseAt lay x.typ (headBad x.typ) rs) <|>
  refuseIf (decide ((sectBytes p 1).length < maniFixed) || sectCount p 1 ≠ 1 || (maniSubs (sectBytes p 1)).isNone)
    { code := lay, sect := 1 }

/-- Checks 8 to 10: COMPAT only with the compatibility bit, the weight image and its map (R287, R303). -/
def check8to10 (s : State) (p : List Byte) : Option Refuse :=
  refuseIf ((packSect p 0x000B).isSome && !s.pack.compat) { code := 0x0509, sect := 0x000B } <|>
  refuseIf (beNat (slice p 0x20 32) ≠ s.wimg.hash.toNat) { code := 0x0504 } <|>
  refuseIf (maniMap (sectBytes p 1) ≠ bn s.wimg.mapLoaded) { code := 0x0532, sect := 1, item := 1 }

/-! ## Check 11: the fixed part of the manifest -/

/-- A fault of the fixed part at a byte offset. -/
def maniFault (code : W16) (item : Nat) (bad : Bool) (core : Nat := 0xFFFF) : List Refuse :=
  if bad then [{ code, sect := 1, core, item }] else []

/-- Reserved fields of the fixed part, by offset, and reserved bits of the sub-records' bodies, by number (R310). -/
def maniReserved (m : List Byte) : List Refuse :=
  let z := fun (item : Nat) (bad : Bool) => maniFault 0x0536 item bad
  z 3 (fieldAt m 3 1 ≠ 0) ++ z 0x10 (fieldAt m 0x10 8 / 2 ^ 42 ≠ 0) ++ z 0x20 (fieldAt m 0x20 32 ≠ 0) ++
    ((List.range 16).flatMap fun i => z (0x40 + 16 * i) (fieldAt m (0x40 + 16 * i) 8 / 2 ^ 42 ≠ 0)) ++
    ((List.range 2048).flatMap fun c => maniFault 0x0536 (0x140 + 4 * c) (fieldAt m (0x142 + 4 * c) 2 ≠ 0) c) ++
    refuseAll 0x0536 1 (fun b => bitsOf (fieldAt b 0 8) 10 0) (fun b => bitsOf (fieldAt b 0 8) 31 20 ≠ 0 || bitsOf (fieldAt b 0 8) 63 48 ≠ 0)
      (maniEntries m 1) ++
    refuseAll 0x0536 1 noCore (fun b => bitsOf (fieldAt b 0 8) 63 50 ≠ 0 || fieldAt b 12 4 ≠ 0) (maniEntries m 2) ++
    refuseAll 0x0536 1 noCore (fun b => fieldAt b 4 4 ≠ 0) (maniEntries m 4)

/-- A Scout layer with a NaN threshold, or index 0, or named twice (R310). -/
def scoutBad (ls : List (Nat × Nat × W32)) (x : Nat × Nat × W32) : Bool :=
  x.1 = 0 || fp32IsNaN x.2.2 || decide (1 < (ls.filter fun y => y.1 = x.1).length)

/-- Is an address of LPDDR6 decoded under a map, or one of slice scratch under a partition (R208, R285, R286)? -/
def placeable (chLocal : Bool) (cacheWays a : Nat) : Bool :=
  (decide (a < 0x8000000000) && (lpddrAt chLocal a).isSome) ||
    (decide (0x010000000000 ≤ a ∧ a < 0x010040000000) && decide (cacheWays ≤ bitsOf a 21 18))

/-- Are all parcels of a run placeable? -/
def runPlaceable (chLocal : Bool) (cacheWays a n : Nat) : Bool :=
  (List.range ((n + 31) / 32)).all fun i => placeable chLocal cacheWays (a + 32 * i)

/-- A list range is a run of whole parcels in LPDDR6, slice scratch or one core store (R226). -/
def rangeBad (m : List Byte) (r : Nat × Nat) : Bool :=
  let inCore := match coreOfAddr r.1 with
    | some c => coreOfAddr (r.1 + r.2 - 1) = some c
    | none => false
  r.1 % 32 ≠ 0 || r.2 % 32 ≠ 0 ||
    (decide (0 < r.2) && !inCore && !runPlaceable (maniMap m = 1) (maniPartition m % 32) r.1 r.2)

/-- Does a run of bytes lie inside one list range? -/
def inRange (m : List Byte) (a n : Nat) : Bool := (maniRanges m).any fun r => decide (r.1 ≤ a ∧ a + n ≤ r.1 + r.2)

/-- A PINNED record whose destination leaves the pinned ways (R314). -/
def pinBad (m : List Byte) (b : List Byte) : Bool :=
  let c := maniPartition m % 32
  let w := bitsOf (maniPartition m) 12 8
  let d := fieldAt b 8 8 % 2 ^ 42
  (List.range (fieldAt b 8 8 / 2 ^ 42)).any fun i =>
    let a := d + 32 * i
    !(decide (0x010000000000 ≤ a ∧ a < 0x010040000000) && decide (c ≤ bitsOf a 21 18 ∧ bitsOf a 21 18 < c + w))

/-- Check 11. -/
def check11 (p : List Byte) : Option Refuse :=
  let m := sectBytes p 1
  let slots := maniAccSlots m
  let cores := packCores p
  let ls := scoutLayers m
  let sizes := fun c => (maniStage m c, maniLarder m c)
  let gather := fun (x : Nat × Nat × Nat × Nat × Nat) =>
    match ls.find? fun l => l.1 = x.2.2.1 with
    | none => true
    | some l => decide (maniStage m x.1 - maniLarder m x.1 < x.2.2.2.1 * l.2.1 * 32)
  lowest (maniFault 0x0536 0 (slots = 0 || decide (8 < slots)) ++ maniFault 0x0536 2 (decide (16 < maniNRanges m)) ++
    maniFault 0x0536 12 (decide (65520 < maniDescCount m)) ++ maniFault 0x0536 4 (!State.splitOk (maniSplit m)) ++
    refuseAll 0x0536 1 noCore (scoutBad ls) ls ++ maniReserved m ++
    maniFault 0x0531 8 (!State.partitionOk (maniPartition m)) ++ refuseAll 0x0531 8 noCore (pinBad m) (packRecords p 8) ++
    (cores.flatMap fun c => maniFault 0x052A (0x140 + 4 * c) (decide ((sizes c).2 < 65536 ∨ 196608 < (sizes c).2 ∨ 229376 < (sizes c).1)) c) ++
    (cores.flatMap fun c => maniFault 0x0525 (0x140 + 4 * c) (decide ((sizes c).1 < (sizes c).2)) c) ++
    ((sctLayers p).filterMap fun x => if gather x then some { code := 0x0525, sect := 2, core := x.1, item := x.2.1 } else none) ++
    refuseAll 0x0523 1 (·.core) (fun (g : GroupDecl) => decide (slots < g.base + g.depth)) (groupDecls m) ++
    ((List.range (maniNRanges m)).zip (maniRanges m)).flatMap (fun x => maniFault 0x052C (0x40 + 16 * x.1) (rangeBad m x.2)) ++
    maniFault 0x052C 16 (decide (0 < maniDescCount m) && !inRange m (maniDescTable m) (64 * maniDescCount m)))

/-! ## Faults of route cards (R317) -/

/-- A reserved field of a card is non-zero (R315, R317). -/
def cardReserved (b : List Byte) : Bool :=
  let three := fieldAt b 0 1 = 3
  bitsOf (fieldAt b 4 2) 15 14 ≠ 0 || bitsOf (fieldAt b 6 2) 15 14 ≠ 0 || fieldAt b 8 8 / 2 ^ 42 ≠ 0 || fieldAt b 0x10 8 / 2 ^ 42 ≠ 0 ||
    fieldAt b 0x18 8 / 2 ^ 42 ≠ 0 || decide (2047 < fieldAt b 2 2) ||
    (three && (fieldAt b 2 2 ≠ 0 || fieldAt b 4 2 ≠ 0 || fieldAt b 6 2 ≠ 0)) ||
    ((List.range (fieldAt b 1 1)).any fun m => decide (1 < fieldAt b (0x23 + 16 * m) 1))

/-- A fault of R317 but for the alignment of OUT. A core that INSTR does not name uses no staging area (R242). -/
def cardBad (m : List Byte) (cores : List Nat) (b : List Byte) : Bool :=
  let r := routeCard b
  let inGeneral := match coreOfAddr r.out with
    | some c =>
      let off := (r.out - 0x020000000000) % 0x40000
      decide (0x8000 + (if cores.contains c then maniStage m c else 0) ≤ off ∧ off + r.bytes ≤ 0x40000)
    | none => false
  r.level = 0 || decide (3 < r.level) || r.nloops = 0 || decide (6 < r.nloops) || (r.loops.any fun l => l.count = 0 || decide (65535 < l.count)) ||
    decide (65535 < r.entries) || cardReserved b || (if r.level = 3 then !inGeneral else !inRange m r.out r.bytes)

/-! ## Check 12: placement and alignment (R313) -/

/-- The regions of a weight-image manifest: address and length (R450). -/
def wimgRegions (m : List Byte) : List (Nat × Nat) :=
  (List.range (fieldAt m 8 4)).map fun i => (fieldAt m (0x60 + 16 * i) 8 % 2 ^ 42, fieldAt m (0x68 + 16 * i) 8)

/-- Required alignment of a buffer use (R312). -/
def useAlign (u : Nat) : Nat := if u = 4 then 64 else if u = 7 then 8 else 32

/-! ## Sharded records (R350, R351) -/

/-- A sharded record (R350). -/
structure Shard where
  desc : Nat
  etype : Nat
  rank : Nat
  gsize : List Nat
  shards : List Nat
  mbase : Nat
  mstride : Nat
  lbase : Nat
  table : Nat
  deriving DecidableEq, Repr

/-- The record that 64 bytes hold (R350). -/
def shardOf (b : List Byte) : Shard :=
  { desc := fieldAt b 0 2, etype := fieldAt b 2 1 % 16, rank := bitsOf (fieldAt b 2 1) 6 4,
    gsize := (List.range 5).map fun d => fieldAt b (4 + 3 * d) 3, shards := (List.range 5).map fun d => fieldAt b (0x13 + d) 1,
    mbase := fieldAt b 0x18 2 % 16384, mstride := fieldAt b 0x1A 2 % 16384, lbase := fieldAt b 0x20 8 % 2 ^ 42,
    table := fieldAt b 0x28 8 % 2 ^ 42 }

/-- Product of a list. -/
def prod (l : List Nat) : Nat := l.foldl (· * ·) 1

/-- Bytes of n elements; two 4-bit elements count as one byte (R351). -/
def widthBytes (et n : Nat) : Nat := n * elemBits et / 8

/-- Extents of a shard. -/
def Shard.extents (r : Shard) : List Nat := (List.range r.rank).map fun t => r.gsize.getD t 0 / r.shards.getD t 1

/-- blk of R351. For a run of 0 bytes, whose largest dividing power of two the rule does not give, it is 1, so that the record is refused
(DESIGN CHOICE, log 90). -/
def Shard.blk (r : Shard) : Nat :=
  let d0 := ((List.range r.rank).find? fun t => 1 < r.shards.getD t 1).getD r.rank
  let run := widthBytes r.etype ((r.extents.getD d0 1) * prod (r.gsize.take (min d0 r.rank)))
  ((List.range 31).reverse.find? fun k => 0 < run && run % 2 ^ k = 0).elim 1 fun k => 2 ^ k

/-- Entries of the ownership table (R351). -/
def Shard.entries (r : Shard) : Nat := widthBytes r.etype (prod (r.gsize.take r.rank)) / r.blk

/-- A placement of check 12 that leaves its range: a level-3 expansion stays in one core store; every other lies in decoded LPDDR6 or slice
scratch; none meets the weight image (R313). -/
def cardMisplaced (place : Nat → Nat → Bool) (r : RCard) : Bool :=
  match coreOfAddr r.out with
  | some _ => decide (r.level ≠ 3 ∨ 0x40000 < r.out % 0x40000 + r.bytes)
  | none => !place r.out r.bytes

/-- The core of a level-3 card, none else (R304). -/
def RCard.coreNo (r : RCard) : Nat := if r.level = 3 then (coreOfAddr r.out).getD 0xFFFF else 0xFFFF

/-- Check 12. -/
def check12 (s : State) (p : List Byte) : Option Refuse :=
  let m := sectBytes p 1
  let image := wimgRegions s.wimg.cur
  let off := fun a n => !image.any fun r => meets a n r.1 r.2
  let place := fun a n => runPlaceable (decide (maniMap m = 1)) (maniPartition m % 32) a n && off a n
  let cards := routeCards p
  let shards := (packRecords p 0x0B).map shardOf
  let twice := (List.range cards.length).filterMap fun i =>
    let r := cards.getD i (routeCard [])
    if (cards.take i).any fun q => meets q.out q.bytes r.out r.bytes then some ({ code := 0x0508, sect := 9, core := r.coreNo, item := i } : Refuse)
    else none
  lowest (refuseAll 0x0508 3 (·.1) (fun x => decide (0 < x.2.2.length ∧ (x.2.1 < 0x8000 ∨ 0x40000 < x.2.1 + x.2.2.length))) (coreData p) ++
    refuseAll 0x0508 4 noCore (fun x => !place x.1 x.2.length) (memData p) ++
    refuseAll 0x0508 9 RCard.coreNo (cardMisplaced place) cards ++ twice ++
    refuseAll 0x0508 0x0B noCore (fun r => !off r.table (32 + 8 * r.entries) || !off (maniDescTable m + 64 * r.desc) 64) shards ++
    refuseAll 0x050A 3 (·.1) (fun x => x.2.1 % 32 ≠ 0) (coreData p) ++
    refuseAll 0x050A 4 noCore (fun x => x.1 % 32 ≠ 0) (memData p) ++
    maniFault 0x050A 16 (maniDescTable m % 64 ≠ 0) ++
    refuseAll 0x050A 1 noCore (fun b => b.addr % useAlign b.use ≠ 0) (bufDecls m) ++
    refuseAll 0x050A 9 RCard.coreNo (fun r => r.out % r.entryBytes ≠ 0) cards)

end Sys2Proof.Machine
end

