-- ==== Sys2Proof/Machine/LoaderLists.lean ====
section
/-! DEFINITION. The pack loader's checks 13 to 18 (R303): instruction lists along their paths, tiles, groups and buffers, descriptors, lists,
route cards and COMPAT records, slot tables, the Cairn configuration and bucket tables. What a pack does not place itself (a tile staged at run
time, an indirect operand) is not checked (R312; log 40). -/

namespace Sys2Proof.Machine

/-! ## Paths of an instruction list -/

/-- Valid entries of a bucket table: size and ENTRY (R320). -/
def bucketsOf (p : List Byte) (c btab : Nat) : List Bucket :=
  match (packRecords p 0x0A).find? fun b => bitsOf (fieldAt b 0 8) 10 0 = c && bitsOf (fieldAt b 0 8) 18 11 = btab with
  | none => []
  | some b => (List.range 8).map fun i =>
      let x := fieldAt b (8 + 4 * i) 4
      { size := BitVec.ofNat 16 x, entry := BitVec.ofNat 12 (bitsOf x 27 16), valid := bitOf x 31 }

/-- Where an instruction may continue, with the loop counters as known: a count that a register holds counts as one turn (R195, R240). A
target that a register holds ends the path (log 40). -/
def successors (p : List Byte) (c pc : Nat) (lcs : List Nat) (i : Instr) : List (Nat × List Nat) :=
  match i with
  | .halt _ => []
  | .loop _ lc ia e n =>
    if ia then [(pc + 1, lcs.set lc.toNat 1)]
    else if n = 0 then [(e.toNat + 1, lcs.set lc.toNat 0)] else [(pc + 1, lcs.set lc.toNat n.toNat)]
  | .endl _ lc body =>
    let l := lcs.getD lc.toNat 0 - 1
    if l = 0 then [(pc + 1, lcs.set lc.toNat 0)] else [(body.toNat, lcs.set lc.toNat l)]
  | .br _ cond _ ia target =>
    (if ia then [] else [(target.toNat, lcs)]) ++ (if cond = 0 then [] else [(pc + 1, lcs)])
  | .bkt _ _ _ _ btab => (pc + 1, lcs) :: ((bucketsOf p c btab.toNat).filter (·.valid)).map fun b => (b.entry.toNat, lcs)
  | _ => [(pc + 1, lcs)]

/-- The smaller of two instruction indices. -/
def minIdx (a b : Option Nat) : Option Nat :=
  match a, b with
  | some x, some y => some (min x y)
  | some x, none => some x
  | none, y => y

/-- The lowest instruction that a running account names as failing, over every path from the entries of a list of work: each is an
instruction, the loop counters and the account as it reaches it. An entry met before adds nothing. The first argument bounds the entries
taken. -/
def pathSearch {σ : Type} [DecidableEq σ] (p : List Byte) (c : Nat) (prog : List (Option Instr)) (next : Nat → σ → Instr → Except Nat σ) :
    Nat → List (Nat × List Nat × σ) → SMap (List (List Nat × σ)) → Option Nat → Option Nat
  | 0, _, _, best => best
  | _, [], _, best => best
  | n + 1, (pc, lcs, st) :: todo, seen, best =>
    let met := Sparse.get [] seen pc
    if met.contains (lcs, st) then pathSearch p c prog next n todo seen best
    else
      let seen := Sparse.set [] seen pc ((lcs, st) :: met)
      match prog[pc]? with
      | some (some i) =>
        match next pc st i with
        | .error k => pathSearch p c prog next n todo seen (minIdx best (some k))
        | .ok st' => pathSearch p c prog next n ((successors p c pc lcs i).map (fun x => (x.1, x.2, st')) ++ todo) seen best
      | _ => pathSearch p c prog next n todo seen best

/-- A bound on the entries that the loader follows: more than the instructions, loop counters and accounts that differ, so that no path is
left unfollowed (R195). -/
def pathBound : Nat := 2 ^ 1024

/-- The lowest failing instruction of a core's list from its start. -/
def walkFrom {σ : Type} [DecidableEq σ] (p : List Byte) (c : Nat) (next : Nat → σ → Instr → Except Nat σ) (st : σ) : Option Nat :=
  pathSearch p c (packProg p c) next pathBound [(0, [0, 0, 0, 0], st)] [] none

/-- An account that fails at the instruction it looks at. -/
def atIssue {σ : Type} (next : σ → Instr → Option σ) (pc : Nat) (st : σ) (i : Instr) : Except Nat σ :=
  match next st i with
  | some t => .ok t
  | none => .error pc

/-! ## Accounts -/

/-- R240: unbundled DPKs since the last CBAR or CSIG. -/
def dpkAccount (n : Nat) (i : Instr) : Option Nat :=
  match i with
  | .dpkOut _ bm _ _ _ _ => if bm then some n else if n + 1 ≤ 32 then some (n + 1) else none
  | .dpkIn .. => if n + 1 ≤ 32 then some (n + 1) else none
  | .cbar .. | .csig .. => some 0
  | _ => some n

/-- The fields of a chain record that the checks use (R188). -/
structure Chn where
  enable : Nat
  act : Nat
  qtype : Nat
  flags : Nat
  resid : Nat
  spare : Bool
  scale : Nat
  bias : Nat
  rstat : Nat
  qscale : Nat
  deriving DecidableEq, Repr

/-- The chain record that CORE_DATA places at an offset, none where it places none. -/
def chainAt (p : List Byte) (c off : Nat) : Option Chn :=
  if (coreByte p c off).isNone then none
  else
    let b := coreBytes p c off 32
    some { enable := fieldAt b 0 1, act := fieldAt b 1 1, qtype := fieldAt b 2 1, flags := fieldAt b 3 1, resid := fieldAt b 4 1,
           spare := fieldAt b 6 2 ≠ 0 || fieldAt b 24 8 ≠ 0, scale := fieldAt b 8 4, bias := fieldAt b 12 4, rstat := fieldAt b 16 4,
           qscale := fieldAt b 20 4 }

/-- Core-store offset and bytes of the parameter vectors that a record names and CHAIN loads (R188). -/
def Chn.vectors (k : Chn) : List (Nat × Nat) :=
  (if bitOf k.enable 0 then [(k.scale % 2 ^ 18, 256)] else []) ++ (if bitOf k.enable 1 then [(k.bias % 2 ^ 18, 256)] else []) ++
    (if bitOf k.enable 5 && k.qtype % 16 = 5 then [(k.qscale % 2 ^ 18, 64)] else [])

/-- Element type of what a configuration emits (R189). -/
def Chn.outType (k : Chn) : Nat := if bitOf k.enable 5 then k.qtype % 16 else 10

/-- Parcels of a Packer output of so many rows: the tile header, the dense form of the rows, and the 8 bytes that R71's text allows beyond it.
R71's table does not count both 8 bytes, the example after R199 does (DESIGN CHOICE, log 92). -/
def packParcelBound (et rows : Nat) : Nat :=
  (8 + (if et = 5 then 64 + 8 * rows else 0) + rows * 8 * elemBits et + 8 + 31) / 32

/-- Parcels that a DRAIN of so many rows emits at most, with and without PACK (R71, R195). -/
def Chn.parcels (k : Chn) (rows : Nat) : Nat :=
  if bitOf k.enable 6 then packParcelBound k.outType rows else rows * (8 * elemBits k.outType) / 32

/-- The empty configuration, which a DRAIN uses where no CHAIN has loaded one (R193). -/
def Chn.empty : Chn :=
  { enable := 0, act := 0, qtype := 0, flags := 0, resid := 0, spare := false, scale := 0, bias := 0, rstat := 0, qscale := 0 }

/-- What a record that the pack does not show counts as: FP32 rows through PACK, the largest output (R71, R195; log 40). -/
def Chn.largest : Chn := { Chn.empty with enable := 64 }

/-- The account of one path: the tile named by the last direct WLD, the chain records loaded by configuration, the open bundle with its
channels, actions and parcels and the index of its BOPEN, and the groups open together with base, depth and form. -/
structure Path where
  tile : Option Nat := none
  cfgs : List (Nat × Chn) := []
  bundle : Option (List Nat × Nat × Nat) := none
  opened : Nat := 0
  groups : List (Nat × Nat × Bool) := []
  deriving DecidableEq, Repr

/-- The configuration that a DRAIN names, as a path has loaded it (R193). -/
def Path.cfg (x : Path) (n : Nat) : Chn := ((x.cfgs.find? fun k => k.1 = n).map (·.2)).getD Chn.empty

/-- The direct group that an instruction names, with its form on this path. -/
def Path.form (x : Path) (base : Nat) : Option Bool := (x.groups.find? fun g => g.1 = base).map (·.2.2)

/-- What an instruction does to a path's account, without any check. A BOPEN in an open bundle adds its channel: the path runs on from the
first. An ACLR whose base a register holds leaves no group's form known (R112, R195). -/
def Path.step (p : List Byte) (c : Nat) (x : Path) (i : Instr) : Path :=
  let act := fun (n : Nat) => x.bundle.map fun b => (b.1, b.2.1 + 1, b.2.2 + n)
  match i with
  | .wld _ ia t => { x with tile := if ia then none else some t.toNat }
  | .chain _ ia cfg rec =>
    let rest := x.cfgs.filter fun k => k.1 ≠ cfg.toNat
    { x with cfgs := (cfg.toNat, ((if ia then none else chainAt p c rec.toNat).getD Chn.largest)) :: rest }
  | .bopen _ _ ch => { x with bundle := some (x.bundle.elim ([ch.toNat], 0, 0) fun b => (ch.toNat :: b.1, b.2)) }
  | .bcommit .. | .babort .. => { x with bundle := none }
  | .sts _ true _ => { x with bundle := act 1 }
  | .drain _ f => if f.bm then { x with bundle := act ((x.cfg f.cfg.toNat).parcels (f.nrowsM1.toNat + 1)) } else x
  | .dpkOut _ true _ len _ _ => { x with bundle := act (len.toNat + 1) }
  | .arm _ true _ _ _ => { x with bundle := act 0 }
  | .aclr _ false base d int =>
    let b := base.toNat
    let n := d.toNat + 1
    { x with groups := (b, n, int) :: x.groups.filter fun g => g.1 + g.2.1 ≤ b ∨ b + n ≤ g.1 }
  | .aclr _ true _ _ _ => { x with groups := [] }
  | _ => x

/-- R195: the bundle's limits, and no CBAR or CSIG on its own channel. What fails is named by its BOPEN (log 40). -/
def bundleAccount (p : List Byte) (c pc : Nat) (x : Path) (i : Instr) : Except Nat Path :=
  let bad := match i, x.bundle with
    | .cbar _ ch, some b => b.1.contains ch.toNat
    | .csig _ ch, some b => b.1.contains ch.toNat
    | _, _ => false
  let y := x.step p c i
  let over_ := match y.bundle with
    | some b => decide (64 < b.2.1 ∨ 512 < b.2.2)
    | none => false
  if bad || over_ then .error y.opened
  else
    match i with
    | .bopen .. => .ok { y with opened := if x.bundle.isSome then x.opened else pc }
    | _ => .ok y

/-- R112: a PASS whose types give a mode other than its group's form. -/
def modeAccount (p : List Byte) (c : Nat) (x : Path) (i : Instr) : Option Path :=
  let bad := match i with
    | .pass _ f =>
      let act := coreTile p c f.block.toNat
      match x.tile, x.form f.grp.toNat with
      | some t, some integer =>
        let w := coreTile p c t
        if f.ia || f.ib || w = [] || act = [] then false
        else
          let mode := isIntType (tileHead (fieldAt w 0 8)).etype && isIntType (tileHead (fieldAt act 0 8)).etype
          mode ≠ integer
      | _, _ => false
    | _ => false
  if bad then none else some (x.step p c i)

/-- R136: groups open together that overlap only by an ACLR's own closing, but exceed ACC_SLOTS. -/
def slotAccount (p : List Byte) (c slots : Nat) (x : Path) (i : Instr) : Option Path :=
  let y := x.step p c i
  if y.groups.any fun g => decide (slots < g.1 + g.2.1) then none else some y

/-! ## Check 13: instruction lists -/

/-- T of a PASS. -/
def passToks (f : PassF) : Nat := 16 * (f.tcode.toNat + 1)

/-- Sub-arrays of a shape. -/
def subArrays (shape : BitVec 2) : Nat := shapeSide shape * shapeSide shape

/-- R97, R79: a T that is not legal for the shape, or, for a block whose type the pack places, one that needs more than 65,536 bytes. -/
def passExtentBad (act : List Byte) (f : PassF) : Bool :=
  let t := passToks f
  let et := (tileHead (fieldAt act 0 8)).etype
  let bytes := subArrays f.shape * t * shapeExt f.shape * (max 8 (elemBits et) / 8) * (if f.cplx then 2 else 1)
  (f.shape = 2 && decide (32 < t)) || (f.shape = 3 && decide (16 < t)) || (!f.ib && act ≠ [] && decide (65536 < bytes))

/-- R140, R147, R159: the extents of a placed vector parameter record. -/
def vecExtentBad (i : Instr) (v : List Byte) : Bool :=
  let t := fieldAt v 6 1
  let k := fieldAt v 8 4
  let n := fieldAt v 12 2
  let acts := decide (16384 < t * k) || decide (8 < t) || k % 64 ≠ 0
  match i with
  | .mvd .. => acts || n % 64 ≠ 0 || decide (4096 < n * t)
  | .mvsRow .. => acts || n = 0 || decide (4096 < n) || decide (4096 < n * t)
  | .mvsGather .. => n = 0 || decide (64 < n)
  | .isxDot .. => decide (4095 < fieldAt v 0x28 2)
  | .isxSampled .. => k % 64 ≠ 0 || decide (16384 < 64 * k) || decide (16384 < 64 * n) || decide (4096 < fieldAt v 0x18 4)
  | .sct .. =>
    let r := fieldAt v 0x30 2
    let g := fieldAt v 0x2E 2
    acts || t = 0 || r = 0 || r % 64 ≠ 0 || decide (512 < r) || g = 0 || decide (4096 < g) || fieldAt v 0x2C 2 = 0 ||
      decide (g < fieldAt v 0x2C 2) || fieldAt v 0x2B 1 = 0
  | _ => false

/-- The vector form of an instruction. -/
def vecForm : Instr → Option VecF
  | .mvd _ f | .mvsRow _ f | .mvsGather _ f | .isxDot _ f | .isxSampled _ f | .mrg _ f | .sct _ f => some f
  | _ => none

/-- The codes of check 13 that one instruction by itself is refused with, in the check's order (R176, R79, R97, R140, R147, R36). -/
def instrFaults (p : List Byte) (c : Nat) (prog : List (Option Instr)) (x : Option Instr) : List W16 :=
  match x with
  | none => [0x0529]
  | some (.loop _ lc _ e _) =>
    match prog.getD e.toNat none with
    | some (.endl _ lc' _) => if lc' = lc then [] else [0x0529]
    | _ => [0x0529]
  | some (.pass _ f) =>
    let act := coreTile p c f.block.toNat
    let pieces := pieceCount (tileHead (fieldAt act 0 8)).etype
    (if (f.part && !f.cplx) || decide (3 ≤ f.piece.toNat) || (!f.ib && act ≠ [] && decide (pieces ≤ f.piece.toNat)) then [0x0529] else []) ++
      (if passExtentBad act f then [0x0521] else [])
  | some (.chain _ ia _ rec) =>
    match (if ia then none else chainAt p c rec.toNat) with
    | none => []
    | some k =>
      let q := k.qtype % 16
      let quant := bitOf k.enable 5
      let rt := k.resid / 16
      (if decide (9 < k.act) || (quant && !([2, 5, 6, 7, 8].contains q)) ||
          (bitOf k.enable 3 && (rt = 5 || decide (11 < rt))) || k.spare || decide (16 ≤ k.qtype) || decide (2 ≤ k.flags) ||
          bitOf k.resid 3 then [0x0529] else []) ++
        (if quant && q = 5 && !bitOf k.enable 6 then [0x0533] else [])
  | some i =>
    match vecForm i with
    | some f => if !f.ib && (coreByte p c f.vpr.toNat).isSome && vecExtentBad i (coreVpr p c f.vpr) then [0x0526] else []
    | none => []

/-- The refusals of check 13 of one code, over all cores. -/
def faults13 (p : List Byte) (code : W16) : List Refuse :=
  let cores := packCores p
  let own := cores.flatMap fun c =>
    let prog := packProg p c
    ((List.range prog.length).zip prog).filterMap fun x =>
      if (instrFaults p c prog x.2).contains code then some { code, sect := 2, core := c, item := x.1 } else none
  let along := fun {σ : Type} [DecidableEq σ] (st : σ) (next : Nat → Nat → σ → Instr → Except Nat σ) =>
    cores.filterMap fun c => (walkFrom p c (next c) st).map fun k => ({ code, sect := 2, core := c, item := k } : Refuse)
  own ++
    (if code = 0x0524 then along ({} : Path) (fun c => atIssue (modeAccount p c)) else []) ++
    (if code = 0x0528 then along ({} : Path) (fun c => bundleAccount p c) else []) ++
    (if code = 0x052B then along (0 : Nat) (fun _ => atIssue dpkAccount) else [])

/-- Bytes at a local address as they will stand when the pack is placed: what the pack places, over what memory holds. -/
def laidBytes (s : State) (p : List Byte) (a n : Nat) : List Byte :=
  (List.range n).map fun i => ((placedByte p (a + i)) <|> (s.bytesFrom (a + i) 1)[0]?).getD 0

/-- Addresses at which the runs of a tensor begin: its base, moved along every dimension but the first (R201). -/
def Desc.runStarts (d : Desc) : List Nat :=
  ((List.range d.rank).drop 1).foldl (fun as t =>
    as.flatMap fun a => (List.range (d.size.getD t 0)).map fun i =>
      unsignedOf 42 ((a : Int) + i * d.stride.getD t 0 * elemBits d.etype / 8)) [d.base]

/-- Does a WC tile's header, or else a CS16 segment header, give L4 or INT4 (R47, R67; DEDUCED, log 91)? -/
def fourBitHead (x : Nat) : Bool :=
  let h := tileHead x
  let four := fun (n : Nat) => n = 1 || n = 5
  if !wcBad h then four h.etype else bitsOf x 63 57 = 0 && bitsOf x 51 49 = 0 && four (bitsOf x 55 52)

/-- R167: a trainable tensor in L4 or INT4, by its descriptor or, where that types its tiles or rows as BYTE (R46), by their headers. -/
def trainBad (s : State) (p : List Byte) (x : Nat × Nat) : Bool :=
  [x.1, x.2].any fun n =>
    let d := parseDesc (placedBytes p (maniDescTable (sectBytes p 1) + 64 * n) 64)
    d.etype = 1 || d.etype = 5 || (d.etype = 0 && d.isLocal && d.runStarts.any fun a => fourBitHead (fieldAt (laidBytes s p a 8) 0 8))

/-- Check 13: the records, the instructions by themselves and along their paths, and the trainable tensors. -/
def check13 (s : State) (p : List Byte) : Option Refuse :=
  let recs := instrRecords p
  let lists := (List.range recs.length).filterMap fun i =>
    let x := recs.getD i (0, [])
    if x.2.length = 0 ∨ 4096 < x.2.length ∨ ((recs.take i).any fun y => y.1 = x.1) = true then
      some ({ code := 0x050C, sect := 2, core := x.1, item := i } : Refuse)
    else none
  lowest (lists ++ (([0x0529, 0x0521, 0x0524, 0x0526, 0x0533, 0x0528, 0x052B] : List W16).flatMap (faults13 p)) ++
    refuseAll 0x0527 1 noCore (trainBad s p) (trainables (sectBytes p 1)))

/-! ## Check 14: tiles, groups and buffers -/

/-- Slots that a count of passes or nodes needs: one with the compatibility bit, else those of R117 (R124, R136; DESIGN CHOICE, log 93). -/
def slotsNeeded (compat : Bool) (count : Nat) : Nat := if compat ∨ count ≤ 1 then 1 else 2 + Nat.log2 (count - 1)

/-- Does a declared buffer of a use hold n bytes at a local address (R312)? -/
def buffered (m : List Byte) (u a n : Nat) : Bool :=
  (bufDecls m).any fun b => b.use = u && decide (b.addr ≤ a ∧ a + n ≤ b.addr + b.len)

/-- Bytes of a tile whose header the pack places: TLEN parcels; else the header parcel (log 40). -/
def tileRun (h : List Byte) : Nat := if h = [] then 32 else 32 * (tileHead (fieldAt h 0 8)).tlen

/-- Bytes of T rows of an activation tile whose header the pack places (R51, R312): in ADENSE every row takes bytes of its own, in the other
forms the rows lie within TLEN parcels; of a tile that the pack does not place, the header parcel (log 40). -/
def rowsRun (h : List Byte) (toks : Nat) : Nat :=
  let x := tileHead (fieldAt h 0 8)
  if h ≠ [] ∧ x.tform = 8 then 8 + (if x.etype = 5 then 64 + 8 * toks else 0) + toks * 8 * elemBits x.etype else tileRun h

/-- An offset of a vector parameter record (R177). -/
def vprOff (v : List Byte) (o : Nat) : Nat := fieldAt v o 4 % 2 ^ 18

/-- The WC tiles of one output block, tile row by tile row, until they hold a number of 64-position chunks: one in a WCD1 tile, eight in any
other and in one that the pack does not place (R51, R147). The first argument bounds the rows. -/
def wcColumn (p : List Byte) (c : Nat) (at_ : Nat → Nat) : Nat → Nat → Nat → List Nat
  | 0, _, _ => []
  | n + 1, kb, chunks =>
    if chunks = 0 then []
    else
      let h := tileHead (fieldAt (coreTile p c (at_ kb)) 0 8)
      at_ kb :: wcColumn p c at_ n (kb + 1) (chunks - if h.tform = 5 ∧ wcBad h = false then 1 else 8)

/-- The WC tiles that a placed record names: those of MVD's weights, or of SCT's two projections (R147, R159, R177). -/
def vecWcTiles (p : List Byte) (c : Nat) (i : Instr) (v : List Byte) : List Nat :=
  let grid := fun (base chunks nb : Nat) => (List.range nb).flatMap fun b =>
    wcColumn p c (fun kb => (base + (kb * nb + b) * fieldAt v 0x14 4 * 32) % 2 ^ 18) chunks 0 chunks
  let k := fieldAt v 8 4 / 64
  let r := fieldAt v 0x30 2 / 64
  match i with
  | .mvd .. => grid (vprOff v 0x10) k (fieldAt v 0x0C 2 / 64)
  | .sct .. => grid (vprOff v 0x34) k r ++ grid (vprOff v 0x10) r ((fieldAt v 0x2E 2 + 63) / 64)
  | _ => []

/-- The activation tiles that a placed record names (R140). -/
def vecActTiles (i : Instr) (v : List Byte) : List Nat :=
  let block := fun (o n : Nat) => (List.range (n / 64)).map fun u => (vprOff v o + u * fieldAt v 4 2 * 32) % 2 ^ 18
  let k := fieldAt v 8 4
  match i with
  | .mvd .. | .mvsRow .. | .sct .. => block 0 k
  | .isxSampled .. => block 0 k ++ block 0x34 (fieldAt v 0x0C 2 + 63)
  | _ => []

/-- The outputs that a placed record names: a merge holds its indices, each of which may begin a segment (R67, R154; DEDUCED, log 40). -/
def vecOutputs (i : Instr) (v : List Byte) : List (Nat × Nat) :=
  let n := fieldAt v 0x18 4 + fieldAt v 0x1C 4
  match i with
  | .mrg .. => [(vprOff v 0x20, max 8 (16 * n)), (vprOff v 0x24, 8 * n)]
  | .sct .. => [(vprOff v 0x20, 4 * fieldAt v 0x2C 2)]
  | _ => []

/-- The buffers that an instruction's direct operands need: use, core-store offset and bytes (R312). A DRAIN's depends on the configuration
that it meets. -/
def bufferNeeds (p : List Byte) (c : Nat) (cfg : Nat → Chn) (i : Instr) : List (Nat × Nat × Nat) :=
  match i with
  | .wld _ false t => [(1, t.toNat, tileRun (coreTile p c t.toNat))]
  | .pass _ f =>
    if f.ib then []
    else (List.range (subArrays f.shape * tilesPer f.shape f.cplx)).map fun u =>
      let a := f.block.toNat + u * f.astride.toNat * 32
      (2, a, rowsRun (coreTile p c a) (passToks f))
  | .drain _ f =>
    if f.ib then [] else [(3, f.dest.toNat, 32 * (cfg f.cfg.toNat).parcels (f.nrowsM1.toNat + 1))]
  | .chain _ false _ rec =>
    let v := (chainAt p c rec.toNat).elim [] fun k => k.vectors.map fun x => (5, x.1, x.2)
    (5, rec.toNat, 32) :: v
  | _ =>
    match vecForm i with
    | some f =>
      if f.ib then []
      else
        let v := coreVpr p c f.vpr
        let toks := match i with
          | .isxSampled .. => 64
          | _ => fieldAt v 6 1
        let tiles := match i with
          | .mvd .. => (vecWcTiles p c i v).map fun a => (1, a, tileRun (coreTile p c a))
          | _ => []
        let acts := (vecActTiles i v).map fun a => (2, a, rowsRun (coreTile p c a) toks)
        (4, f.vpr.toNat / 64 * 64, 64) ::
          (if (coreByte p c f.vpr.toNat).isSome then (vecOutputs i v).map (fun x => (6, x.1, x.2)) ++ tiles ++ acts else [])
    | none => []

/-- Has an instruction a direct operand that no declared buffer holds? -/
def unbuffered (p m : List Byte) (c : Nat) (cfg : Nat → Chn) (i : Instr) : Bool :=
  !(bufferNeeds p c cfg i).all fun b => buffered m b.1 (coreAddr c b.2.1) b.2.2

/-- The account of buffers on a path: fails where a direct operand has no buffer that holds it. -/
def bufferAccount (p m : List Byte) (c : Nat) (x : Path) (i : Instr) : Option Path :=
  if unbuffered p m c x.cfg i then none else some (x.step p c i)

/-- The configuration that the last CHAIN above an instruction in the list gives it. -/
def cfgAbove (p : List Byte) (c k : Nat) : Nat → Chn :=
  (((packProg p c).take k).foldl (fun (x : Path) i => i.elim x (x.step p c)) {}).cfg

/-- The instructions of a core with an unbuffered operand: those that a path reaches, along it; the others, which only a branch to a target
in a register can reach, with the configuration of the last CHAIN above them (R312; DEDUCED, log 40). -/
def bufferFaults (p m : List Byte) (c : Nat) : List Nat :=
  let prog := packProg p c
  let reached := fun k => (walkFrom p c (fun pc (u : Unit) _ => if pc = k then .error k else .ok u) ()).isSome
  (walkFrom p c (atIssue (bufferAccount p m c)) {}).toList ++
    ((List.range prog.length).zip prog).filterMap fun x =>
      match x.2 with
      | some i => if unbuffered p m c (cfgAbove p c x.1) i && !reached x.1 then some x.1 else none
      | none => none

/-- The slots that the codes of a placed sparse 16-bit tile show, for the slot rules of R55. -/
def placedSlots (p : List Byte) (c a : Nat) (h : THead) : List Slot :=
  (nibbles ((coreBytes p c (a + 72) (wcCodeBytes h.tform h.etype)).map fun b => (b, false))).map fun k =>
    { val := 0, code := BitVec.ofNat 4 k.1, poison := false }

/-- Is a placed WC tile malformed, by its header or by its slots (R49, R55)? -/
def wcTileBad (p : List Byte) (c a : Nat) : Bool :=
  let t := coreTile p c a
  let h := tileHead (fieldAt t 0 8)
  t ≠ [] && (wcBad h || (is16Bit h.etype && (h.tform = 2 || h.tform = 3) && pairFault h.whalf (placedSlots p c a h)))

/-- Is the record that a direct vector instruction names placed? -/
def placedVpr (p : List Byte) (c : Nat) (f : VecF) : Bool := !f.ib && (coreByte p c f.vpr.toNat).isSome

/-- R49: a malformed tile among those that a direct instruction, or the record that it names, takes as WC operands. -/
def tileFault (p : List Byte) (c : Nat) (i : Option Instr) : Bool :=
  match i with
  | some (.wld _ false t) => wcTileBad p c t.toNat
  | some i => (vecForm i).elim false fun f => placedVpr p c f && (vecWcTiles p c i (coreVpr p c f.vpr)).any (wcTileBad p c)
  | none => false

/-- R311: a direct ACLR matches a declaration of its core. -/
def aclrDeclared (gs : List GroupDecl) (c : Nat) (i : Option Instr) : Bool :=
  match i with
  | some (.aclr _ false base d int) => gs.any fun g => g.core = c && g.base = base.toNat && g.depth = d.toNat + 1 && g.integer = int
  | _ => true

/-- Misaligned direct operands, and addresses that a placed record gives: tiles, chain vectors and outputs (R223, R312, R313). -/
def operandMisaligned (p : List Byte) (c : Nat) (i : Option Instr) : Bool :=
  let off := fun (a : Nat) => decide (a % 32 ≠ 0)
  match i with
  | some (.wld _ false t) => off t.toNat
  | some (.pass _ f) => !f.ib && off f.block.toNat
  | some (.drain _ f) => !f.ib && off f.dest.toNat
  | some (.chain _ false _ rec) => off rec.toNat || (chainAt p c rec.toNat).elim false fun k => k.vectors.any fun x => off x.1
  | some (.arm _ _ false _ list) => list.toNat % 16 ≠ 0
  | some i => (vecForm i).elim false fun f =>
      !f.ib && (f.vpr.toNat % 64 ≠ 0 || (placedVpr p c f &&
        (let v := coreVpr p c f.vpr
         (vecWcTiles p c i v).any off || (vecActTiles i v).any off || (vecOutputs i v).any fun x => off x.1)))
  | none => false

/-- Check 14, with the compatibility bit in force. -/
def check14 (compat : Bool) (p : List Byte) : Option Refuse :=
  let m := sectBytes p 1
  let gs := groupDecls m
  let cores := packCores p
  let each := fun (code : W16) (bad : Nat → Option Instr → Bool) => cores.flatMap fun c =>
    let prog := packProg p c
    ((List.range prog.length).zip prog).filterMap fun x =>
      if bad c x.2 then some ({ code, sect := 2, core := c, item := x.1 } : Refuse) else none
  let named := fun (code : W16) (bad : Nat → List Nat) =>
    cores.flatMap fun c => (bad c).map fun k => ({ code, sect := 2, core := c, item := k } : Refuse)
  lowest (each 0x0520 (tileFault p) ++
    refuseAll 0x0522 1 (·.core) (fun (g : GroupDecl) => decide (g.depth < slotsNeeded compat g.count ∨ 128 < g.count)) gs ++
    each 0x0523 (fun c i => !aclrDeclared gs c i) ++
    named 0x0523 (fun c => (walkFrom p c (atIssue (slotAccount p c (maniAccSlots m))) {}).toList) ++
    named 0x050B (bufferFaults p m) ++ each 0x050A (operandMisaligned p))

/-! ## Check 15: descriptors, lists, route cards, COMPAT -/

/-- Reserved bits of a descriptor: byte and mask (R201). -/
def descReserved : List (Nat × Byte) := [(0x18, 0x80), (0x37, 0xC0), (0x3D, 0xF8), (0x3E, 0xFF), (0x3F, 0xFF)]

/-- The record that places a byte: a route card, or the last CORE_DATA or MEM_DATA record that covers it, as SECTION, CORE and ITEM (R304,
R305). -/
def placedBy (p : List Byte) (code : W16) (a : Nat) : Refuse :=
  let last := fun (l : List Refuse) => l.getLast?
  let cards := refuseAll code 9 RCard.coreNo (fun r => decide (r.out ≤ a ∧ a < r.out + r.bytes)) (routeCards p)
  let cores := refuseAll code 3 (·.1) (fun x => decide (coreAddr x.1 x.2.1 ≤ a ∧ a < coreAddr x.1 x.2.1 + x.2.2.length)) (coreData p)
  let mems := refuseAll code 4 noCore (fun x => decide (x.1 ≤ a ∧ a < x.1 + x.2.length)) (memData p)
  (last cards <|> last cores <|> last mems).getD { code }

/-- A non-zero reserved bit in descriptor n of the pack's table, at the record that places it (R202). -/
def descFault (p : List Byte) (n : Nat) : Option Refuse :=
  let a := maniDescTable (sectBytes p 1) + 64 * n
  (descReserved.find? fun x => ((placedByte p (a + x.1)).getD 0) &&& x.2 ≠ 0).map fun x => placedBy p 0x052C (a + x.1)

/-- An entry outside every list range, a reserved KIND or a reserved bit, in a list that the pack places, from an entry on, to its end or to
what the pack does not place (R223, R225, R226). The first argument bounds the entries. -/
def listBad (p m : List Byte) : Nat → Nat → Bool
  | 0, _ => false
  | n + 1, a =>
    !inRange m a 16 || ((placedByte p a).isSome &&
      (let x := fieldAt (placedBytes p a 16) 0 16
       match x % 16 with
       | 0 => bitsOf x 15 6 ≠ 0 || (!bitOf x 4 && listBad p m n (a + 16))
       | 1 => !bitOf x 4 && listBad p m n (a + 16)
       | 2 => bitsOf x 127 58 ≠ 0 || bitsOf x 15 4 ≠ 0 || listBad p m n (bitsOf x 57 16 / 16 * 16)
       | _ => true))

/-- The list that a direct ARM names: inside a list range, with legal entries (R223, R226). -/
def armListBad (p m : List Byte) (i : Option Instr) : Bool :=
  match i with
  | some (.arm _ _ false _ list) => listBad p m 65535 (list.toNat / 16 * 16)
  | _ => false

/-- A COMPAT record that R351 or R504 refuses. -/
def shardBad (m b : List Byte) : Bool :=
  let r := shardOf b
  r.rank = 0 || decide (5 < r.rank) || ((List.range r.rank).any fun t => r.shards.getD t 0 = 0) ||
    ((List.range r.rank).any fun t => r.gsize.getD t 0 % r.shards.getD t 1 ≠ 0) ||
    fieldAt b 2 1 / 128 ≠ 0 || fieldAt b 3 1 ≠ 0 || fieldAt b 0x18 2 / 16384 ≠ 0 || fieldAt b 0x1A 2 / 16384 ≠ 0 || fieldAt b 0x1C 4 ≠ 0 ||
    fieldAt b 0x20 8 / 2 ^ 42 ≠ 0 || fieldAt b 0x28 8 / 2 ^ 42 ≠ 0 || fieldAt b 0x30 16 ≠ 0 || decide (r.blk < 65536) ||
    !inRange m r.table (32 + 8 * r.entries)

/-- Check 15. -/
def check15 (p : List Byte) : Option Refuse :=
  let m := sectBytes p 1
  let cores := packCores p
  let lists := cores.flatMap fun c =>
    let prog := packProg p c
    ((List.range prog.length).zip prog).filterMap fun x =>
      if armListBad p m x.2 then some ({ code := 0x052C, sect := 2, core := c, item := x.1 } : Refuse) else none
  lowest ((List.range (maniDescCount m)).filterMap (descFault p) ++ lists ++
    refuseAll 0x0534 9 (fun b => (routeCard b).coreNo) (cardBad m cores) (packRecords p 9) ++
    refuseAll 0x0509 0x0B noCore (shardBad m) (packRecords p 0x0B))

/-! ## Check 16: slot tables, phases, edge capacity -/

/-- Set, plane, router, output and entries of a SLOT_SETS record (R255). -/
structure SlotRec where
  set_ : Nat
  plane : Nat
  router : Nat
  out : Nat
  reserved : Bool
  entries : List Nat
  deriving DecidableEq, Repr

def slotRec (b : List Byte) : SlotRec :=
  let h := fieldAt b 0 8
  { set_ := bitsOf h 5 0, plane := bitsOf h 7 6, router := bitsOf h 18 8, out := bitsOf h 21 19,
    reserved := bitsOf h 31 22 ≠ 0 || bitsOf h 63 43 ≠ 0,
    entries := (List.range (bitsOf h 42 32)).map fun i => fieldAt b (8 + 2 * i) 2 }

def slotRecs (p : List Byte) : List SlotRec := (packRecords p 5).map slotRec

/-- A slot entry with reserved values, or an input that the router lacks on the plane (R254, R259). An IDLE entry takes from no input: only
the reserved SRC 7 makes it bad (DEDUCED, log 94). -/
def slotBad (plane router e : Nat) : Bool :=
  let kind := bitsOf e 15 14
  let lacks := fun (i : Nat) => i = 7 || !hasOutput plane router i
  kind = 3 || bitsOf e 7 0 ≠ 0 || (if kind = 0 then decide (bitsOf e 13 11 = 7) else lacks (bitsOf e 13 11)) || (if kind = 2 then lacks (bitsOf e 10 8) else bitsOf e 10 8 ≠ 0)

/-- Does entry j of an output's table take from an input? -/
def takesFrom (r : SlotRec) (i j : Nat) : Bool :=
  let e := r.entries.getD (j % r.entries.length) 0
  (bitsOf e 15 14 ≠ 0 && bitsOf e 13 11 = i) || (bitsOf e 15 14 = 2 && bitsOf e 10 8 = i)

/-- Does entry j of an output's table drive the output? -/
def drives (r : SlotRec) (j : Nat) : Bool := bitsOf (r.entries.getD (j % r.entries.length) 0) 15 14 ≠ 0

/-- Steps over which the tables of a router's outputs in one set repeat together, at most (LEN is at most 1,024): the loader looks at each
(R259). -/
def slotSpan (rs : List SlotRec) : Nat := rs.foldl (fun n r => Nat.lcm n r.entries.length) 1

/-- Planes of a router that name an input as a source, or drive an output of the same name, in entry j. -/
def planesUsing (rs : List SlotRec) (port j : Nat) : Nat × Nat :=
  (((List.range 4).filter fun q => rs.any fun r => r.plane = q && takesFrom r port j).length,
   ((List.range 4).filter fun q => rs.any fun r => r.plane = q && r.out = port && drives r j).length)

/-- R259's limits on CORE and SLICE at one router in one set. -/
def portsBad (rs : List SlotRec) : Bool :=
  (List.range (slotSpan rs)).any fun j =>
    let c := planesUsing rs 4 j
    let l := planesUsing rs 5 j
    decide (1 < c.1 ∨ 1 < c.2 ∨ 2 < l.1 ∨ 2 < l.2)

/-- Non-Daypack steps among 4,096 consecutive steps. -/
def windowSlots : Nat := 3840

/-- The largest number of entries that meet a condition among a window's consecutive entries of a table that repeats. -/
def windowMax (len : Nat) (hit : Nat → Nat) : Nat :=
  (List.range len).foldl (fun best o => max best (((List.range windowSlots).map fun i => hit (o + i)).sum)) 0

/-- The limit of R262 or R332 for an edge router, in parcels per 4,096 steps for one plane of an LPDDR6 channel (planes 0 and 1) or both
planes of a Guyline port (planes 2 and 3). -/
def edgeLimit (gradeL : Bool) (lpddr : Bool) : Nat :=
  let f := if gradeL then 850000 else 1100000
  if lpddr then 4096 * 1312500 / f else 24824242424 / f * 18 / 25

/-- R262 at one router in one set: what its EDGE entries move each way over a window, 4 parcels each. -/
def edgeBad (gradeL : Bool) (router : Nat) (rs : List SlotRec) : Bool :=
  let row := router / 64
  let span := slotSpan rs
  let over_ := fun (planes : List Nat) (limit : Nat) =>
    let mine := rs.filter fun r => planes.contains r.plane
    let outN := windowMax span fun j => (mine.filter fun r => r.out = 6 && drives r j).length
    let inN := windowMax span fun j => (mine.filter fun r => takesFrom r 6 j).length
    decide (limit < 4 * outN ∨ limit < 4 * inN)
  if row = 0 ∨ row = 31 then over_ [0] (edgeLimit gradeL true) || over_ [1] (edgeLimit gradeL true)
  else over_ [2, 3] (edgeLimit gradeL false)

/-- Check 16. A refusal of what several records do together names the record that completes it, or the first of its router and set. -/
def check16 (s : State) (p : List Byte) : Option Refuse :=
  let rs := slotRecs p
  let same := fun (a b : SlotRec) => a.set_ = b.set_ && a.plane = b.plane && a.router = b.router && a.out = b.out
  let output := fun (a b : SlotRec) => a.plane = b.plane && a.router = b.router && a.out = b.out
  let ph := (packRecords p 6).headD []
  let count := fieldAt ph 0 2
  let sets := (rs.map (·.set_)).eraseDups
  let group := fun (r : SlotRec) => rs.filter fun x => x.router = r.router && x.set_ = r.set_
  let each := fun (code : W16) (bad : Nat → SlotRec → Bool) => ((List.range rs.length).zip rs).filterMap fun x =>
    if bad x.1 x.2 then some ({ code, sect := 5, item := x.1 } : Refuse) else none
  let first := fun (i : Nat) (r : SlotRec) => !((rs.take i).any fun x => x.router = r.router && x.set_ = r.set_)
  lowest (each 0x052D (fun i r => r.set_ = 0 || r.entries = [] || decide (1024 < r.entries.length) || r.out = 7 ||
      !hasOutput r.plane r.router r.out || r.reserved || (rs.take i).any (same r) || r.entries.any (slotBad r.plane r.router)) ++
    each 0x052D (fun i r => decide (8192 < (((rs.take (i + 1)).filter (output r)).map (·.entries.length)).sum)) ++
    each 0x052D (fun i r => first i r && portsBad (group r)) ++
    (if (packSect p 6).isSome then
      ((List.range count).filterMap fun i =>
        let k := fieldAt ph (4 + i) 1
        if k ≠ 0 && !sets.contains k then some ({ code := 0x052D, sect := 6, item := 4 + i } : Refuse) else none) ++
        (if count ≤ fieldAt ph 2 2 then [{ code := 0x052D, sect := 6, item := 2 }] else [])
     else []) ++
    each 0x052E (fun i r => first i r && edgeBad s.fuses.gradeL r.router (group r)))

/-! ## Checks 17 and 18 -/

/-- Participants of a Cairn channel record (R271). -/
def cairnParts (b : List Byte) : List Nat := (List.range 2048).filter fun c => bitOf (fieldAt b (c / 8) 1) (c % 8)

/-- The channels that a core's list uses by CBAR, CSIG and BOPEN (R270). -/
def channelOf : Option Instr → Option Nat
  | some (.cbar _ ch) | some (.csig _ ch) | some (.bopen _ _ ch) => some ch.toNat
  | _ => none

/-- The module-wide word breaks R338. -/
def mwBad (s : State) (w : Nat) : Bool :=
  let parent := bitsOf w 15 12
  let children := (List.range 12).filter fun p => bitOf w (16 + p)
  if bitOf w 0 then
    bitsOf w 31 28 ≠ 0 || bitsOf w 11 1 ≠ 0 || (12 ≤ parent && parent ≠ 15) || (decide (parent < 12) && !s.portEnabled parent) ||
      (children.any fun p => !s.portEnabled p) || children.contains parent || bitsOf w 63 32 = 0
  else w ≠ 0

/-- Check 17 (R270, R271, R338). -/
def check17 (s : State) (p : List Byte) : Option Refuse :=
  let rs := packRecords p 7
  let cores := packCores p
  let timeout := fun (b : List Byte) => fieldAt b 0x100 4
  let phase := rs.filter fun b => bitOf (fieldAt b 0x104 1) 0
  let parts := rs.map cairnParts
  let uses := cores.flatMap fun c =>
    let prog := packProg p c
    ((List.range prog.length).zip prog).filterMap fun x =>
      match channelOf x.2 with
      | some ch => if (parts.getD ch []).contains c then none else some ({ code := 0x0530, sect := 2, core := c, item := x.1 } : Refuse)
      | none => none
  lowest ((if sectCount p 7 ≠ 16 then [{ code := 0x0530, sect := 7, item := sectCount p 7 }] else []) ++
    refuseAll 0x0530 7 noCore (fun (b : List Byte) => decide (1 < fieldAt b 0x104 1) || fieldAt b 0x105 3 ≠ 0 || fieldAt b 0x110 16 ≠ 0 ||
      decide (1 ≤ timeout b ∧ timeout b ≤ 15) || ((cairnParts b).any fun c => !cores.contains c) || mwBad s (fieldAt b 0x108 8) ||
      (bitOf (fieldAt b 0x104 1) 0 && (decide (1 < phase.length) || cairnParts b ≠ cores))) rs ++
    uses)

/-- A bucket record that R320 refuses by itself. -/
def bucketBad (p : List Byte) (b : List Byte) : Bool :=
  let n := (packWords p (bitsOf (fieldAt b 0 8) 10 0)).length
  let es := (List.range 8).map fun i => fieldAt b (8 + 4 * i) 4
  let valid := es.filter fun e => bitOf e 31
  let k := valid.length
  ((es.take k).any fun e => !bitOf e 31) || ((List.range (k - 1)).any fun i => decide (valid.getD (i + 1) 0 % 65536 ≤ valid.getD i 0 % 65536)) ||
    (es.any fun e => decide (n ≤ bitsOf e 27 16)) || (valid.any fun e => e % 65536 = 0) || (es.any fun e => bitsOf e 30 28 ≠ 0)

/-- Check 18. -/
def check18 (p : List Byte) : Option Refuse :=
  let rs := packRecords p 0x0A
  let head := fun (b : List Byte) => fieldAt b 0 8 % 2 ^ 19
  let uses := (packCores p).flatMap fun c =>
    let prog := packProg p c
    ((List.range prog.length).zip prog).filterMap fun x =>
      match x.2 with
      | some (.bkt _ _ _ _ btab) =>
        if (bucketsOf p c btab.toNat).any (·.valid) then none else some ({ code := 0x0535, sect := 2, core := c, item := x.1 } : Refuse)
      | _ => none
  let core := fun (b : List Byte) => bitsOf (fieldAt b 0 8) 10 0
  let twice := (List.range rs.length).filterMap fun i =>
    let b := rs.getD i []
    if (rs.take i).any fun x => head x = head b then some ({ code := 0x0535, sect := 0x0A, core := core b, item := i } : Refuse) else none
  lowest (refuseAll 0x0535 0x0A core (bucketBad p) rs ++ twice ++ uses)

/-! ## All checks -/

/-- The first refusal of the checks in their order (R303). -/
def loaderChecks (s : State) (p : List Byte) : Option Refuse :=
  check1 p <|> check2to6 s p <|> check7 p <|> check8to10 s p <|> check11 p <|> check12 s p <|> check13 s p <|> check14 s.pack.compat p <|> check15 p <|>
    check16 s p <|> check17 s p <|> check18 p

end Sys2Proof.Machine
end

