-- ==== Sys2Proof/Machine/Store.lean ====
section
/-! DEFINITION. Flash stores (R396 to R398, R430): the hold-up check that each takes, and how one begins. -/

namespace Sys2Proof.Machine

/-- The code that a store needing so many mJ is refused with: the input first, then the bank's fault, then its energy (R397; log 41).
C = 200 µC / ΔV, so 1.00 to 4.00 mF is a drop of 50 to 200 mV, and E = (V_b² − 36²) / 10 ΔV mJ with V_b in mV and ΔV in µV (R396). -/
def holdCode (h : Holdup) (need : Nat) : Option W16 :=
  if h.inMv < 40000 then some 0x0403
  else if h.dvUv < 50000 ∨ 200000 < h.dvUv ∨ h.vbMv < 46000 then some 0x0402
  else if h.vbMv * h.vbMv < 36000 * 36000 + need * 10 * h.dvUv then some 0x0401
  else none

/-- Energy required, in mJ (R397). -/
def needParam : Nat := 100
def needCal : Nat := 250
def needBlock : Nat := 900

namespace State

/-- The hold-up check before a store: C and E are shown, and a refusal is counted (R396, R397). -/
def holdCheck (s : State) (h : Holdup) (need : Nat) : State × Option W16 :=
  let r := s.rng
  let c := if h.dvUv = 0 then 2 ^ 32 - 1 else min (200000000 / h.dvUv) (2 ^ 32 - 1)
  let e := if h.dvUv = 0 then 0 else min ((h.vbMv * h.vbMv - 36000 * 36000) / (10 * h.dvUv)) (2 ^ 32 - 1)
  match holdCode h need with
  | some code => ({ s with rng := { r with holdC := c, holdE := e, holdRefusals := r.holdRefusals + 1 } }, some code)
  | none => ({ s with rng := { r with holdC := c, holdE := e } }, none)

/-- A store begins: it has passed its check, and its end is PARAMETER_STORE_DONE (R398, R430). -/
def beginStore (s : State) (job : StoreJob) (who : StoreFor) : State := { s with rng := { s.rng with store := some (job, who) } }

end State

end Sys2Proof.Machine
end

