-- ==== Sys2Proof/Machine/Start.lean ====
section
/-! DEFINITION. Installing, starting and halting packs (R303 to R306), with the placing of a pack (R273, R305, R316, R351). -/

namespace Sys2Proof.Machine

namespace State

/-! ## Writing what a pack places -/

/-- Bytes placed at a local address, parcel by parcel, with valid check values (R40). Undecoded bytes are not placed; a checked pack has
none. -/
def placeBytes (s : State) (a : Nat) (bs : List Byte) : State :=
  let first := a / 32
  let n := (a % 32 + bs.length + 31) / 32
  (List.range n).foldl (fun s i =>
    let pa := 32 * (first + i)
    let lo := max a pa
    let hi := min (a + bs.length) (pa + 32)
    match s.keyOf pa with
    | some k => s.setMem (s.mem.setParcel k pa (mergeParcel (s.mem.parcel k pa) pa (lo - pa) (slice bs (lo - a) (hi - lo)) false))
    | none => s) s

/-- A core's instruction region: the words of its list, or HALT at index 0 for a core that the pack does not name (R300, R305). -/
def placeWords (s : State) (c : Nat) (ws : List W64) : State :=
  let a := coreAddr c 0
  let ws := if ws = [] then [0x4F00000000000000] else ws
  let s := s.setMem (s.mem.wipe a (a + 0x8000))
  s.placeBytes a (ws.flatMap fun w => leBytes 8 w.toNat)

/-! ## Step 1: sequencers, engines and units -/

/-- A core's sequencer at its reset state; CORE_CTRL and the fault counts stay, the first-fault fields are cleared (R170, R200, R305). -/
def startSeq (p : List Byte) (c : Nat) (q : Seq) : Seq :=
  let tables := (packRecords p 0x0A).filter fun b => bitsOf (fieldAt b 0 8) 10 0 = c
  { Seq.reset with
    isolate := q.isolate, stop := q.stop, st := if q.st = 5 then 5 else 0, fCount := q.fCount, aCount := q.aCount,
    inPack := (packCores p).contains c, count := (packWords p c).length,
    bkts := tables.foldl (fun m b =>
      let t := bitsOf (fieldAt b 0 8) 18 11
      Sparse.set [] m t (bucketsOf p c t)) [] }

/-- An engine at its reset state; its counters, LAST and the sticky saturation stay (R232), and it goes on numbering its reads. -/
def startEng (g : Eng) : Eng :=
  { Eng.reset with poisoned := g.poisoned, undec := g.undec, rejects := g.rejects, last := g.last, sat := g.sat, nextRid := g.nextRid }

/-- Is a message of management access, which a pack start leaves alone (R266, R267)? -/
def manages (m : WMsg) : Bool := decide (6 ≤ m.typ.toNat ∧ m.typ.toNat ≤ 8)

/-- The units of every core at their reset state; counters and repairs stay. -/
def startCores (s : State) (p : List Byte) : State :=
  let m := sectBytes p 1
  let k := s.cores
  let recvOf := fun (c : Nat) => ((groupDecls m).filter fun g => g.core = c && g.recv).map fun g => (g.base, g.depth, g.integer)
  let all := List.range 2048
  let arr := fun (a : Arr) => { Arr.reset with errCount := a.errCount, errSeen := a.errSeen, errCol := a.errCol, repair := a.repair }
  let acc := fun (c : Nat) (a : Acc) =>
    if (packCores p).contains c then { Acc.reset with slots := maniAccSlots m, recv := recvOf c, drained := a.drained }
    else { Acc.reset with drained := a.drained }
  let vec := fun (v : Vec) => { Vec.reset with drop := v.drop, capViol := v.capViol, resErr := v.resErr }
  let bnd := fun (b : Bnd) => { Bnd.reset with aborts := b.aborts, commits := b.commits, lastCause := b.lastCause, pcommit := b.pcommit,
                                               stray := b.stray }
  { s with
    cores := { seq := Sparse.setAll Seq.reset [] (all.map fun c => (c, startSeq p c (s.seq c))),
               arr := k.arr.map fun x => (x.1, arr x.2), acc := Sparse.setAll Acc.reset [] (all.map fun c => (c, acc c (s.acc c))),
               drn := [], vec := k.vec.map fun x => (x.1, vec x.2), bnd := k.bnd.map fun x => (x.1, bnd x.2), cnt := k.cnt,
               eng := k.eng.map fun x => (x.1, startEng x.2), dpk := [] },
    holdq := [],
    trail := { s.trail with
      beats := [], srcq := [], given := [], transit := [], missed := [], dpk := [], outDone := [], inbox := [], holdUntil := none },
    whistle := { s.whistle with
      flits := s.whistle.flits.filter fun f => manages f.msg, bridge := s.whistle.bridge.filter manages, done := [],
      box := s.whistle.box.map fun x => (x.1, x.2.filter manages) } }

/-! ## Steps 2 to 7 -/

/-- What the halted run left in the core stores and in slice scratch does not survive: both are as after power-on before anything is placed
(R306; DESIGN CHOICE, log 95). -/
def clearStores (s : State) : State := s.setMem ((s.mem.wipe 0x020000000000 0x020020000000).wipe 0x010000000000 0x010040000000)

/-- The map and the partition of the pack are in force (R272, R284). -/
def putLayout (s : State) (m : List Byte) : State :=
  { s with
    mm := { s.mm with map := decide (maniMap m = 1) }, cacheWays := maniPartition m % 32, pinWays := bitsOf (maniPartition m) 12 8 }

/-- General scratch is filled with zeros and every cache way invalidated (R273). -/
def prepareSlices (s : State) : State :=
  let mem := (List.range 256).foldl (fun (m : Memory) k =>
    let base := 0x010000000000 + k * 0x400000
    m.wipe (base + (s.cacheWays + s.pinWays) * 0x40000) (base + 0x400000)) s.mem
  { s with mem, slices := [] }

/-- CORE_DATA, then MEM_DATA, in record order (R305). -/
def placeData (s : State) (p : List Byte) : State :=
  let s := (coreData p).foldl (fun s x => s.placeBytes (coreAddr x.1 x.2.1) x.2.2) s
  (memData p).foldl (fun s x => s.placeBytes x.1 x.2) s

/-- Route-card expansions in card order (R316, R318). -/
def placeRoutes (s : State) (p : List Byte) : State :=
  (routeCards p).foldl (fun s r => s.placeBytes r.out r.expand) s

/-- The Trail's table sets and phases, with phase 0 in force (R254, R255, R258). -/
def loadTables (s : State) (p : List Byte) : State :=
  let rs := slotRecs p
  let sets := 0 :: (rs.map (·.set_)).eraseDups
  let tables := rs.foldl (fun m r => Sparse.set [] m (tableKey r.set_ r.plane r.router r.out) (r.entries.map fun e => (BitVec.ofNat 16 e : W16))) []
  let ph := (packRecords p 6).headD []
  let phases := (List.range (fieldAt ph 0 2)).map fun i => fieldAt ph (4 + i) 1
  { s with trail := { s.trail with
      tables, sets, phases, loopIdx := fieldAt ph 2 2, phase := 0, curSet := phases.headD 0, nextSet := phases.headD 0, phaseBase := s.now } }

/-- The Cairn configuration (R268, R271). -/
def loadCairn (s : State) (p : List Byte) : State :=
  let rs := packRecords p 7
  let ch := fun (b : List Byte) =>
    { CairnCh.reset with
      parts := cairnParts b, timeout := fieldAt b 0x100 4, phase := bitOf (fieldAt b 0x104 1) 0, mw := BitVec.ofNat 64 (fieldAt b 0x108 8) }
  { s with cairn := Sparse.setAll CairnCh.reset [] (((List.range rs.length).zip rs).map fun x => (x.1, ch x.2)) }

/-- The pinned operands copied in record order (R314). -/
def placePinned (s : State) (p : List Byte) : State :=
  (packRecords p 8).foldl (fun s b =>
    let src := fieldAt b 0 8 % 2 ^ 42
    let dst := fieldAt b 8 8 % 2 ^ 42
    (List.range (fieldAt b 8 8 / 2 ^ 42)).foldl (fun s i =>
      let a := src + 32 * i
      let d := dst + 32 * i
      match s.keyOf a, s.keyOf d with
      | some k, some kd =>
        let q := (consume (s.mem.parcel k a) a).1
        s.setMem (s.mem.setParcel kd d (if q.poison then poisonedParcel d else madeParcel q.data q.cclass d))
      | _, _ => s) s) s

/-- The thresholds and disable bits of R164 and R165 as the pack gives them. -/
def loadScout (s : State) (p : List Byte) : State :=
  let ls := scoutLayers (sectBytes p 1)
  let val := Sparse.clear s.dict.val 0x303001 0x303101
  let val := ls.foldl (fun m l => Sparse.set [] m (0x303000 + l.1) (leBytes 4 l.2.2.toNat)) val
  { s with
    dict := { s.dict with val },
    svc := { s.svc with scout := ls.foldl (fun m l => Sparse.set [] m l.1 (leBytes 4 l.2.2.toNat)) [], scoutDis := 0 } }

/-- The coordinates of a linear index over extents, dimension 0 fastest. -/
def coords : List Nat → Nat → List Nat
  | [], _ => []
  | e :: r, n => n % e :: coords r (n / e)

/-- The linear index of coordinates over extents. -/
def linear : List Nat → List Nat → Nat
  | e :: r, k :: ks => k + e * linear r ks
  | _, _ => 0

/-- Entry n of the ownership table that a sharded record becomes (R348, R351). -/
def ownEntry (r : Shard) (n : Nat) : Nat :=
  let sizes := r.gsize.take r.rank
  let elem := n * r.blk * 8 / elemBits r.etype
  let g := coords sizes elem
  let e := r.extents
  let c := (g.zip e).map fun x => x.1 / x.2
  let l := (g.zip e).map fun x => x.1 % x.2
  let shard := linear (r.shards.take r.rank) c
  let m := (r.mbase + shard * r.mstride) % 16384
  2 ^ 56 + m * 2 ^ 42 + (r.lbase + widthBytes r.etype (linear e l)) % 2 ^ 42

/-- The descriptor that a sharded record becomes (R201, R351). -/
def shardDesc (r : Shard) : List Byte :=
  let sizes := r.gsize.take r.rank
  let stride := fun (d : Nat) => if d < r.rank then prod (sizes.take d) else 0
  let perm := ((List.range 5).map fun m => m * 2 ^ (3 * m)).sum
  leBytes 8 (r.etype * 2 ^ 60 + r.rank * 2 ^ 57) ++ ((List.range 5).flatMap fun d => leBytes 3 (r.gsize.getD d 0)) ++ leBytes 2 perm ++
    ((List.range 5).flatMap fun d => leBytes 5 (stride d)) ++ leBytes 6 0 ++ leBytes 6 (2 ^ 42 + r.table) ++ leBytes 2 0

/-- The COMPAT section converted to ownership tables (R351). -/
def placeCompat (s : State) (p : List Byte) : State :=
  let table := maniDescTable (sectBytes p 1)
  (packRecords p 0x0B).foldl (fun s b =>
    let r := shardOf b
    let head := leBytes 1 (Nat.log2 r.blk) ++ leBytes 3 0 ++ leBytes 4 r.entries ++ leBytes 24 0
    let s := s.placeBytes r.table (head ++ (List.range r.entries).flatMap fun n => leBytes 8 (ownEntry r n))
    s.placeBytes (table + 64 * r.desc) (shardDesc r)) s

/-- The service table (R417): the records that are services. -/
def serviceTable (s : State) : SMap (Option SvcRec) :=
  match s.pack.ranges with
  | [] => []
  | r :: _ =>
    if r.2 < 4096 then []
    else Sparse.setAll none [] ((List.range 16).map fun i =>
      let b := s.bytesFrom (r.1 + 256 * i) 32
      let input := fieldAt b 8 8 % 2 ^ 42
      let output := fieldAt b 16 8 % 2 ^ 42
      let inMax := fieldAt b 0x18 4
      let outMax := fieldAt b 0x1C 4
      if bitOf (fieldAt b 0 1) 0 && decide (fieldAt b 1 1 ≤ 14 ∧ inMax ≤ 16777216 ∧ outMax ≤ 16777216) && (s.keyOf input).isSome &&
          (s.keyOf output).isSome then
        (i, some { ch := BitVec.ofNat 4 (fieldAt b 1 1), input, output, inMax, outMax })
      else (i, none))

/-- Does a module-wide channel of the pack name a port (R338)? -/
def portNamed (p : List Byte) (n : Nat) : Bool :=
  (packRecords p 7).any fun b =>
    let w := fieldAt b 0x108 8
    bitOf w 0 && (bitsOf w 15 12 = n || bitOf w (16 + n))

/-- Does the pack schedule EDGE slots on a port, as an output or as a source on its planes (R250, R254)? -/
def portScheduled (p : List Byte) (n : Nat) : Bool :=
  (slotRecs p).any fun r => r.router = portRouter n && decide (2 ≤ r.plane) &&
    ((r.out = 6 && (r.entries.any fun e => bitsOf e 15 14 ≠ 0)) || (List.range r.entries.length).any fun j => takesFrom r 6 j)

/-- The ports whose failure is pack-fatal (R330). -/
def portsFatal (p : List Byte) : List Nat := (List.range 12).filter fun n => portNamed p n || portScheduled p n

/-- The ports by which a pack takes part in a system: those of its module-wide channels, and those whose EDGE slots it schedules, but for
port 0, whose slots the service path takes too (R345, R419; DEDUCED, log 43). -/
def portsUsed (p : List Byte) : List Nat := (List.range 12).filter fun n => portNamed p n || (n ≠ 0 && portScheduled p n)

/-- The pack is placed in the order of R305. Its addresses are those of its own map and partition, under which check 12 has admitted them
(log 42). -/
def placePack (s : State) (p : List Byte) : State :=
  let m := sectBytes p 1
  let s := (((s.flushSlices).startCores p).clearStores).putLayout m
  let s := (List.range 2048).foldl (fun s c => s.placeWords c (packWords p c)) s
  let s := ((s.placeData p).placeRoutes p)
  let s := (s.putVal 0x401000 (leBytes 4 (maniSplit m))).putVal 0x301000 (leBytes 4 (maniPartition m))
  let s := (s.loadTables p).loadCairn p
  let s := ((s.prepareSlices).placePinned p).loadScout p
  let s := { s with ctrs := [] }
  let s := s.putVal 0x303100 (List.replicate 32 0)
  let s := { s with pack := { s.pack with strict := decide (leNat (s.valueOf 0x600200) = 1) } }
  let s := s.placeCompat p
  let s := { s with
    pack := { s.pack with descTable := maniDescTable m, ranges := maniRanges m },
    log := { s.log with train := 0, trainLeaves := [], leaves := [], open_ := [] },
    gl := { s.gl with placed := false, usedPorts := portsFatal p, usesGl := !(portsUsed p).isEmpty, sentReady := false, tStart := none } }
  { s with svc := { s.svc with table := s.serviceTable } }

/-- An accepted PACK_START: ALERT_N of R472 and R474 is released, the pack is placed, and its cores are released at once or, in a system, at
the start barrier of R345. -/
def startPack (s : State) : State :=
  let s := ((s.unalert .packFatal).unalert .moduleFatal).placePack s.pack.installed
  let s := { s with rng := { s.rng with packFatalAt := none } }
  if s.gl.usesGl then ({ s with gl := { s.gl with placed := true } }).progressStart else s.releaseCores

/-! ## The commands' checks -/

/-- Is a fabric reset in progress (R468)? -/
def resetting (s : State) : Bool := s.rng.fabReset

/-- The state check of PACK_START, then the weight image (R305, R341, R342, R390, R367, R475, R477). -/
def startCheck (s : State) : Option W16 :=
  let used := portsUsed s.pack.installed
  if s.rng.degraded then some 0x0308
  else if s.isRunning then some 0x0305
  else if !(s.pack.state = .installed || s.pack.state = .halted) || s.resetting then some 0x030A
  else if leNat (s.valueOf 0x300200) = 1 then some 0x030A
  else if (List.range 40).any fun i => s.pwr.domains.getD (2 + i) 0 ≠ 2 then some 0x030A
  else if used.any fun n => s.pwr.domains.getD (if n < 6 then 42 else 43) 0 ≠ 2 then some 0x030A
  else if !used.isEmpty && !(s.syncState = 2 || s.syncState = 3) then some 0x0307
  else if leNat (s.valueOf 0x602000) ≠ 0 ∧ 0xFFFFFF ≤ s.log.epoch then some 0x030A
  else if beNat (slice s.pack.installed 0x20 32) ≠ s.wimg.hash.toNat then some 0x0504
  else none

/-- Is an LPDDR6 channel failed (R295)? -/
def channelFailed (s : State) : Bool := s.mm.chans.any fun x => x.2.failed

/-- The state check of PACK_INSTALL (R303, R295, R468). -/
def installCheck (s : State) : Option W16 :=
  if s.isRunning then some 0x0305
  else if s.pack.state = .checking || s.resetting then some 0x030A
  else if s.channelFailed then some 0x0308
  else if s.wimg.hash = 0 then some 0x0309
  else none

/-- A PACK_START refused for its weight image is the most recent refusal of the loader (R302, R304, R305). -/
def startRefused (s : State) (code : W16) : State :=
  if code = 0x0504 then { s with pack := { s.pack with result := code, detail := ({ code } : Refuse).detail } } else s

/-- An accepted PACK_INSTALL: the installed pack is discarded, also one that waits to be started with its system, the compatibility bit
sampled, and CHECKING entered (R303, R359, R472). -/
def beginInstall (s : State) : State :=
  let s := s.unalert .packFatal
  { s with pack := { s.pack with installed := [], state := .checking, hash := 0, compat := s.compatAsked, ranges := [], descTable := 0 },
           gl := { s.gl with placed := false, sentReady := false, tStart := none }, rng := { s.rng with packFatalAt := none },
           svc := { s.svc with table := [] } }

/-- The loader's checks end: INSTALLED with the pack hash, or NONE with the refusal (R303, R304). -/
def finishInstall (s : State) : State :=
  let p := s.pack.image
  match loaderChecks s p with
  | none => { s with pack := { s.pack with installed := p, state := .installed, result := 0, hash := Config.sm3 (p.take (packTotal p)) } }
  | some r => { s with pack := { s.pack with state := .none, result := r.code, detail := r.detail } }

end State

/-! ## The rows that end on their own -/

/-- The loader checks end (R303). -/
def execPackCheckComplete (s : State) : Host.Outcome State Fault Refusal :=
  if s.pack.state = .checking then .next s.finishInstall else .next s

/-- After the wait of R472, or once every core of the pack has halted, Ranger halts the pack: its engines stop and dirty lines are written back
(R306). -/
def execPackFatalHalt (s : State) : Host.Outcome State Fault Refusal :=
  match s.rng.packFatalAt with
  | some t =>
    if (decide (t ≤ s.now) || s.allHalted) && (s.isRunning || s.pack.state = .halted) then .next s.haltPack else .next s
  | none => .next s

end Sys2Proof.Machine
end

