-- ==== Sys2Proof/Machine/Images.lean ====
section
/-! DEFINITION. Images that come by segments: packs (R302, R409), weight images with their manifest (R434, R450, R451, R372) and firmware
images (R452 to R456). Each check answers the code of its refusal, none where it passes. -/

namespace Sys2Proof.Machine

/-! ## Segments (R409) -/

/-- A segment of an image: at offset 0 a new image, at its end a continuation, none elsewhere (R409). -/
def segmentOf (image : List Byte) (begun : Bool) (offset : Nat) (data : List Byte) : Option (List Byte) :=
  if offset = 0 then some data
  else if begun ∧ offset = image.length then some (image ++ data)
  else none

/-! ## Weight-image manifests (R450, R451) -/

def wmMap (m : List Byte) : Bool := decide (fieldAt m 6 1 = 1)
def wmRegions (m : List Byte) : Nat := fieldAt m 8 4
def wmLen (m : List Byte) : Nat := fieldAt m 0x10 8
def wmExpect (m : List Byte) : BitVec 256 := BitVec.ofNat 256 (beNat (slice m 0x20 32))
def wmKeyId (m : List Byte) : BitVec 256 := BitVec.ofNat 256 (beNat (slice m 0x40 32))

/-- The regions in manifest order: address and length. -/
def wmList (m : List Byte) : List (Nat × Nat) :=
  (List.range (wmRegions m)).map fun i => (fieldAt m (0x60 + 16 * i) 8, fieldAt m (0x68 + 16 * i) 8)

/-- Where the signature begins. -/
def wmSigAt (m : List Byte) : Nat := 0x60 + 16 * wmRegions m

/-- A fault of the layout: 0x0720. -/
def wmLayoutBad (m : List Byte) : Bool :=
  fieldAt m 0 4 ≠ 0x4B574D46 || fieldAt m 4 2 ≠ 1 || decide (1 < fieldAt m 6 1) || fieldAt m 7 1 ≠ 0 || fieldAt m 12 4 ≠ 0 ||
    wmRegions m = 0 || decide (4096 < wmRegions m) || decide (532575944704 < wmLen m) || m.length ≠ wmSigAt m + 64 ||
    ((wmList m).any fun r => decide (2 ^ 42 ≤ r.1) || r.1 % 32 ≠ 0 || r.2 % 32 ≠ 0) || ((wmList m).map (·.2)).sum ≠ wmLen m

/-- Do two regions of a list overlap? -/
def regionsMeet : List (Nat × Nat) → Bool
  | [] => false
  | r :: rest => (rest.any fun q => meets r.1 r.2 q.1 q.2) || regionsMeet rest

/-- Is a region decoded by the load path under a map: interleaved, below 0x007C_0000_0000; channel-local, in no channel's reservation
(R285, R286)? -/
def regionDecoded (chLocal : Bool) (r : Nat × Nat) : Bool :=
  if r.2 = 0 then true
  else if chLocal then
    decide (r.1 + r.2 ≤ 0x8000000000) &&
      decide (r.1 / 0x80000000 = (r.1 + r.2 - 1) / 0x80000000 ∧ (r.1 + r.2 - 1) % 0x80000000 < 0x7C000000)
  else decide (r.1 + r.2 ≤ 0x7C00000000)

/-- The check of a manifest, by its first refusal (R451). -/
def wmCheck (owner : BitVec 256) (m : List Byte) : Option W16 :=
  if wmLayoutBad m || regionsMeet (wmList m) then some 0x0720
  else if wmKeyId m ≠ owner ∨ owner = 0 ∨
      Config.sm2Verify (wmKeyId m) (m.take (wmSigAt m)) (BitVec.ofNat 512 (beNat (slice m (wmSigAt m) 64))) = false then some 0x0721
  else if (wmList m).any fun r => !regionDecoded (wmMap m) r then some 0x0206
  else none

/-- The hash of a weight image: chunks of 64 MiB, each hashed by itself (R372). -/
def wimgHash (data : List Byte) : BitVec 256 :=
  Config.sm3 (leBytes 8 data.length ++ (List.range ((data.length + 67108863) / 67108864)).flatMap fun j =>
    beBytes 32 (Config.sm3 ((data.drop (67108864 * j)).take 67108864)).toNat)

/-- The local addresses of an offset and length in an image, region by region: address and offset into the bytes, and how many. -/
def wmPlaces : List (Nat × Nat) → Nat → Nat → List (Nat × Nat × Nat)
  | [], _, _ => []
  | r :: rest, off, n =>
    if r.2 ≤ off then (wmPlaces rest (off - r.2) n)
    else
      let k := min n (r.2 - off)
      (r.1 + off, k, n) :: (if k < n then wmPlaces rest 0 (n - k) else [])

namespace State

/-- A write of the load path at its home slice, as a slice step takes it: a miss fetches the line before merging, unless the segment writes
all eight parcels (R274, R275). -/
def loadWrite (s : State) (wholes : List Nat) (r : SReq) : State :=
  let line := r.addr >>> 8
  let k := homeSlice line
  let sl := s.sliceAt k
  if s.cacheWays = 0 || (sl.find s.cacheWays line).isSome || sl.missq.contains line || wholes.contains line then (s.sliceOne k wholes r).1
  else
    let ps := (List.range 8).map fun i =>
      let a := line * 256 + 32 * i
      (s.keyOf a).elim {} fun key => s.mem.parcel key a
    ((({ s with sliceMiss := s.sliceMiss + 1 }).allocLine k line ps).sliceOne k [] r).1

/-- Bytes written through the LPDDR6 initial load path at a local address under the image's map, with their check values (R40, R274, R451).
Where another map is in force, which the slices work by, they are written straight to their channel (DESIGN CHOICE, log 96). -/
def loadBytes (s : State) (chLocal : Bool) (a : Nat) (bs : List Byte) : State :=
  let first := a / 32
  let cut := fun (i : Nat) =>
    let pa := 32 * (first + i)
    let lo := max a pa
    (pa, lo, slice bs (lo - a) (min (a + bs.length) (pa + 32) - lo))
  let pieces := (List.range ((a % 32 + bs.length + 31) / 32)).map cut
  if s.mm.map = chLocal then
    let rs := pieces.map fun x =>
      let mask := (2 ^ (2 * x.2.2.length) - 1) * 2 ^ (2 * (x.2.1 - x.1))
      ({ wr := true, addr := x.1, mask, data := leNat x.2.2 * 2 ^ (8 * (x.2.1 - x.1)), poison := false, cclass := 0, check := none, who := .nobody } : SReq)
    rs.foldl (loadWrite · (wholeLines rs)) s
  else
    pieces.foldl (fun s x =>
      match lpddrAt chLocal x.1 with
      | some (ch, o) =>
        let k := ch * 0x80000000 + o
        s.setMem (s.mem.setParcel k x.1 (mergeParcel (s.mem.parcel k x.1) x.1 (x.2.1 - x.1) x.2.2 false))
      | none => s) s

/-- A segment of the image at an offset, written where the manifest places it (R434). -/
def loadSegment (s : State) (off : Nat) (bs : List Byte) : State :=
  (wmPlaces (wmList s.wimg.cur) off bs.length).foldl (fun s x =>
    s.loadBytes (wmMap s.wimg.cur) x.1 ((bs.drop (bs.length - x.2.2)).take x.2.1)) s

/-! ## What each image command does -/

/-- PACK_IMAGE: a segment into the pack store (R302, R409). -/
def packSegment (s : State) (off : Nat) (data : List Byte) : State × W16 :=
  match segmentOf s.pack.image true off data with
  | none => (s, 0x0202)
  | some image => if 2 ^ 32 < image.length then (s, 0x0205) else ({ s with pack := { s.pack with image } }, 0)

/-- WIMG_MANIFEST: a segment of the next image's manifest (R409, R434, R450). -/
def manifestSegment (s : State) (off : Nat) (data : List Byte) : State × W16 :=
  match segmentOf s.wimg.manifest true off data with
  | none => (s, 0x0202)
  | some manifest => if s.isRunning then (s, 0x0305) else ({ s with wimg := { s.wimg with manifest } }, 0)

/-- WIMG_DATA: at offset 0 the manifest is checked, the hash zeroed and receiving begins; each segment goes through the load path (R434,
R451). -/
def imageSegment (s : State) (off : Nat) (data : List Byte) : State × W16 :=
  match segmentOf s.wimg.data (s.wimg.state = 1) off data with
  | none => (s, 0x0202)
  | some bytes =>
    if s.isRunning then (s, 0x0305)
    else if off = 0 then
      match wmCheck s.dict.ownerKey s.wimg.manifest with
      | some code => (s, code)
      | none =>
        (({ s with wimg := { s.wimg with cur := s.wimg.manifest, data := bytes, state := 1, hash := 0 } }).loadSegment 0 data, 0)
    else (({ s with wimg := { s.wimg with data := bytes } }).loadSegment off data, 0)

/-- WIMG_LOAD ends the image: hashing begins (R434). -/
def imageLoad (s : State) : State × W16 :=
  if s.isRunning then (s, 0x0305)
  else if s.wimg.state ≠ 1 ∨ s.wimg.data.length ≠ wmLen s.wimg.cur then (s, 0x030A)
  else ({ s with wimg := { s.wimg with state := 2 } }, 0)

end State

/-- The hash completes: installed, or refused where it is not the one expected (R434, R451). -/
def execWimgHashComplete (s : State) : Host.Outcome State Fault Refusal :=
  if s.wimg.state ≠ 2 ∨ s.wimg.data.length ≠ wmLen s.wimg.cur then .next s
  else
    let h := wimgHash s.wimg.data
    if h = wmExpect s.wimg.cur then
      .next { s with wimg := { s.wimg with state := 3, hash := h, mapLoaded := wmMap s.wimg.cur } }
    else .next { s with wimg := { s.wimg with state := 4, result := 0x0722 } }

/-! ## Firmware images (R452) -/

def fwLen (p : List Byte) : Nat := fieldAt p 8 4
def fwSvn (p : List Byte) : Nat := fieldAt p 12 1

/-- Number of 256 KiB blocks of an image (R455). -/
def fwBlocks (p : List Byte) : Nat := (fwLen p + 262143) / 262144

/-- The checks of a header, in the order of R461: layout, signer and signature, security version, stepping (R452, R453, R457). -/
def fwHeaderCheck (counter : Nat) (p : List Byte) : Option W16 :=
  if fieldAt p 0 4 ≠ 0x4B465753 ∨ fieldAt p 4 2 ≠ 1 ∨ fieldAt p 6 2 ≠ 0 ∨ fwLen p < 8192 ∨ 67108864 < fwLen p ∨ 64 < fwSvn p ∨
      fieldAt p 14 2 ≠ 0 ∨ (((slice p 0x70 3920).any fun b => decide (b ≠ 0)) = true) then some 0x0710
  else if BitVec.ofNat 256 (beNat (slice p 0x50 32)) ≠ Config.firmwareSigner ∨
      Config.sm2Verify Config.firmwareSigner (slice p 0 0xFC0) (BitVec.ofNat 512 (beNat (slice p 0xFC0 64))) = false then some 0x0711
  else if fwSvn p < counter then some 0x0712
  else if fieldAt p 13 1 ≠ 0xFF ∧ fieldAt p 13 1 ≠ 0x0A then some 0x0713
  else none

/-- BODY_HASH against the SM3 of the body (R452). -/
def fwBodyOk (p : List Byte) : Bool :=
  Config.sm3 ((p.take (fwLen p)).drop 4096) = BitVec.ofNat 256 (beNat (slice p 0x30 32))

/-- All checks of an image (R455, R457). -/
def fwCheck (counter : Nat) (p : List Byte) : Option W16 :=
  match fwHeaderCheck counter p with
  | some c => some c
  | none => if fwBodyOk p then none else some 0x0714

namespace State

/-- A block of the firmware part of the flash; an erased one reads 0xFF (R446). -/
def flashBlock (s : State) (b : Nat) : List Byte :=
  match Sparse.get [] s.fw.flash b with
  | [] => List.replicate 262144 0xFF
  | v => v

/-- The firmware image in the flash, as long as its header says (R446). -/
def flashImage (s : State) : List Byte :=
  let n := fwLen (s.flashBlock 0)
  ((List.range ((min n 67108864 + 262143) / 262144)).flatMap fun b => s.flashBlock b).take n

/-- A block written to the flash, or erased. -/
def putBlock (s : State) (b : Nat) (bs : List Byte) : State :=
  { s with fw := { s.fw with flash := Sparse.set [] s.fw.flash b bs } }

/-- Block b of an image. -/
def imageBlock (p : List Byte) (b : Nat) : List Byte := ((p.take (fwLen p)).drop (262144 * b)).take 262144

/-- FW_IMAGE: a segment into the staging area of 64 MiB; not while an update is in progress (R454, R409). -/
def fwSegment (s : State) (off : Nat) (data : List Byte) : State × W16 :=
  match segmentOf s.fw.staging (s.fw.state = 1 || s.fw.state = 2) off data with
  | none => (s, 0x0202)
  | some staging =>
    if s.fwBusy then (s, 0x030A)
    else if 67108864 < staging.length then (s, 0x0205)
    else ({ s with fw := { s.fw with staging, state := 1 } }, 0)

/-- FW_INSTALL: the image is checked, then the bank for one block; block 0 is erased and writing begins (R455). -/
def fwBegin (s : State) (h : Holdup) : State × W16 :=
  let refused := fun (s : State) => { s with fw := { s.fw with state := 2 } }
  if s.isRunning then (s, 0x0305)
  else if !(s.fw.state = 1 || s.fw.state = 2 || s.fw.state = 5) then (s, 0x030A)
  else
    let code := if s.fw.staging.length ≠ fwLen s.fw.staging then some 0x0710 else fwCheck s.fw.counter s.fw.staging
    match code with
    | some c => (refused s, c)
    | none =>
      match s.holdCheck h needBlock with
      | (s, some c) => (refused s, c)
      | (s, none) =>
        let s := (s.putBlock 0 []).unalert .fwAbandoned
        ({ s with fw := { s.fw with state := 3, block := if fwBlocks s.fw.staging = 1 then 0 else 1, refused := 0 } }, 0)

/-- One block of an update after its own hold-up check: written, or refused, and after 10 refusals the flow is abandoned (R455, R456). The
second part says that block 0, the last, has been written. -/
def fwBlock (s : State) (h : Holdup) : State × Bool :=
  match s.holdCheck h needBlock with
  | (s, some _) =>
    let n := s.fw.refused + 1
    if 10 ≤ n then (({ s with fw := { s.fw with state := 5, refused := n } }).alert .fwAbandoned, false)
    else ({ s with fw := { s.fw with refused := n, retryAt := s.nowMs + 1000 } }, false)
  | (s, none) =>
    let b := s.fw.block
    let s := s.putBlock b (imageBlock s.fw.staging b)
    let next := if b + 1 < fwBlocks s.fw.staging then b + 1 else 0
    ({ s with fw := { s.fw with block := next, refused := 0 } }, decide (b = 0))

end State

end Sys2Proof.Machine
end

