-- ==== Sys2Proof/Machine/Jobs.lean ====
section
/-! DEFINITION. What a flash store leaves in the flash (R398, R430, R438, R448, R367) and, once it has completed, in force. -/

namespace Sys2Proof.Machine

namespace State

/-- A value stored, with the new epoch that turning the Logbook on takes (R367, R430). -/
def storeEntry (s : State) (key : Nat) (v : List Byte) : State :=
  if key = 0x602000 ∧ s.turnsLogOn v = true then (s.putStored key v).newEpoch else s.putStored key v

/-- Is an entry RWS (R426)? -/
def isRws (s : State) (key : Nat) : Bool := (s.entry key).any fun e => decide (e.acc = Access.rws)

/-- A member of a bundle write as its store keeps it. -/
def storeMember (s : State) (m : Nat × List Byte) : State := if s.isRws m.1 then s.storeEntry m.1 m.2 else s

/-- The keys that an enrolment clears (R448). -/
def enrolKeys : List Nat := ((List.range 8).map fun i => 0x701001 + i) ++ [0x702000]

/-- The flash after a store (R398). -/
def putJob (s : State) (j : StoreJob) : State :=
  match j with
  | .entry key v => s.storeEntry key v
  | .defaults => (rwsKeys.filter fun k => k < 0x700000).foldl (fun s k => s.putStored k (s.entryDefault k)) s
  | .bundle _ ms => ms.foldl storeMember s
  | .enrol k =>
    let s := enrolKeys.foldl (fun s k => s.putStored k (s.entryDefault k)) s
    { s with dict := { s.dict with ownerKey := k } }
  | .epochStart | .epochRoll => s.newEpoch
  | .coreRead .. => s
  | .cal =>
    let d := s.dict
    let origin := d.calOrigin || calKeys.any fun k => s.stagedOf k ≠ slice (Config.factoryCal (k / 256) (k % 256)) 0 (((s.entry k).bind (·.size)).getD 0)
    { s with dict := { d with calStored := d.staged, calOrigin := origin } }

/-- What an enrolment, transfer or release changes besides the keys (R448). -/
def enrolled (s : State) : State :=
  let val := enrolKeys.foldl (fun m k => Sparse.set [] m k []) s.dict.val
  { s with
    dict := { s.dict with val },
    pack := { s.pack with installed := [], state := .none, hash := 0, ranges := [], descTable := 0 },
    svc := { s.svc with table := [] },
    wimg := { s.wimg with hash := 0, state := 0 },
    gl := { s.gl with placed := false, sentReady := false, tStart := none },
    rng := { s.rng with closeDue := true } }

/-- A store has completed: the flash, and then what takes effect (R410, R430, R440, R448, R305). -/
def completeJob (s : State) (j : StoreJob) : State :=
  match j with
  | .entry key v => (s.putJob j).applyWrite key v
  | .defaults => s.restoreDefaults
  | .bundle _ ms => ms.foldl (fun s m => s.applyWrite m.1 m.2) (s.putJob j)
  | .enrol _ => (s.putJob j).enrolled
  | .epochStart => (s.putJob j).startPack
  | .epochRoll => (s.putJob j).unalert .epochWait
  | .cal | .coreRead .. => s.putJob j

/-- A store in progress reaches the flash as its power or Ranger goes: the bank carries it to its end (R398, R467, R491). -/
def landStore (s : State) : State :=
  match s.rng.store with
  | some (j, _) => ({ s with rng := { s.rng with store := none, cur := none } }).putJob j
  | none => s

end State

end Sys2Proof.Machine
end

