-- ==== Sys2Proof/Machine/Resets.lean ====
section
/-! DEFINITION. Power sequencing (R490, R491), cold start (R462, R463), the resets (R465 to R469, R493), repairs and isolation (R104, R248,
R249), the boot check (R457), and restarts of Ranger and Basecamp (R402, R404). -/

namespace Sys2Proof.Machine

namespace State

/-! ## Repairs (R104, R248, R249) -/

/-- One half of ARR_REPAIR: source, enable and index (R104). -/
def repairField (fuse field : Byte) : Nat :=
  if fuse.getLsbD 7 then 64 + fuse.toNat % 64 else if field.getLsbD 7 then 192 + field.toNat % 64 else 0

/-- ARR_REPAIR of a core from the fuses and the field map in force (R104). -/
def repairOf (s : State) (map : List Byte) (c : Nat) : W16 :=
  let at_ := fun (i : Nat) => repairField (Sparse.get 0 s.fuses.arrayRepair i) (map.getD i 0)
  BitVec.ofNat 16 (256 * at_ (2 * c + 1) + at_ (2 * c))

/-- The array repairs of some cores come into force. -/
def putRepairs (s : State) (cs : List Nat) : State :=
  let map := s.valueOf 0x302000
  cs.foldl (fun s c => s.setArr c { (s.arr c) with repair := s.repairOf map c }) s

/-- The byte of CORE_REPAIR_MAP for a core's die row, and its physical position there without repair (R246, R248). -/
def dieRow (c : Nat) : Nat := (c / 64 / 16 * 2 + c % 64 / 32) * 16 + c / 64 % 16

def diePos (c : Nat) : Nat := c % 32

/-- A core whose ISOLATE is 1 is repaired by the spare of its die row, or stays isolated where that is in use (R249). -/
def isolateCore (s : State) (c : Nat) : State :=
  let i := dieRow c
  let map := s.storedOf 0x302100
  if (Sparse.get 0 s.fuses.coreRepair i).getLsbD 7 || (map.getD i 0).getLsbD 7 then s.setSeq c { Seq.reset with st := 5 }
  else (s.setSeq c Seq.reset).putStored 0x302100 (map.set i (BitVec.ofNat 8 (128 + diePos c)))

/-- Isolation, then both repair maps in force (R104, R248, R249). -/
def applyRepairs (s : State) : State :=
  let cs := (s.cores.seq.filter fun x => x.2.isolate).map (·.1)
  let s := cs.foldl isolateCore s
  let s := (s.putVal 0x302000 (s.storedOf 0x302000)).putVal 0x302100 (s.storedOf 0x302100)
  s.putRepairs (List.range 2048)

/-! ## Fabric reset (R465, R468) -/

/-- An ordered fabric reset begins (R468). -/
def beginFabricReset (s : State) : State :=
  let s := if s.isRunning then s.haltPack else s.flushSlices
  let s := ((s.fabricLost).setDomains 2 37 0).setDomains 38 41 1
  { s with
    rng := { s.rng with fabReset := true, packFatalAt := none },
    gl := { s.gl with placed := false, sentReady := false, tStart := none }, dict := { s.dict with diag := none } }

/-- Failed channels are trained again, with new results; one that fails both trainings leaves the module degraded (R474, R475). -/
def retrain (s : State) (seedsOk defaultOk : Bool) : State :=
  if !s.channelFailed then s
  else if seedsOk || defaultOk then
    let retrained := fun (c : Chan) => if c.failed then { c with failed := false, trained := true, seeds := s.free } else c
    let s : State := { s with mm := { s.mm with chans := s.mm.chans.map fun x => (x.1, retrained x.2) } }
    s.draw
  else s.degrade

/-- Check 6 on the installed pack sets PACK_STATE (R468). -/
def recheckPack (s : State) : State :=
  if s.pack.state = .installed ∨ s.pack.state = .halted ∨ s.pack.state = .running then
    match gridIncomplete s with
    | none => { s with pack := { s.pack with state := .installed } }
    | some r => { s with pack := { s.pack with state := .none, result := r.code, detail := r.detail, installed := [], hash := 0 } }
  else s

end State

/-- A fabric reset ends: D2 to D41 are on, isolation and repairs are in force, and check 6 sets PACK_STATE (R249, R468, R474). -/
def execFabricResetComplete (seedsOk defaultOk : Bool) (s : State) : Host.Outcome State Fault Refusal :=
  if !s.resetting then .next s
  else
    let s := ({ s with rng := { s.rng with fabReset := false } }).retrain seedsOk defaultOk
    if s.rng.degraded then .next s
    else .next (((s.setDomains 2 41 2).applyRepairs).recheckPack)

namespace State

/-! ## Cold and module reset (R462, R465, R466, R469) -/

/-- What a reset of either depth leaves: the flash and its entries, the fuses, the pins, the time base and what has been sent; RWS entries
and the calibration set as stored; the counters marked stored; the Logbook epoch and its count, so that no SEQ comes twice (R367); when the
module-fatal errors and Ranger restarts were (R404, R475; log 100). -/
def base (s : State) : State :=
  let r := State.reset
  let s0 : State := { r with dict := { r.dict with stored := s.dict.stored }, fuses := s.fuses }
  { r with
    pending := s.pending, out := s.out, nowMs := s.nowMs, free := s.free, fuses := s.fuses, tap := s.tap,
    dict := { r.dict with
      val := s.dict.stored, stored := s.dict.stored, cal := s.dict.calStored, staged := s.dict.calStored, calStored := s.dict.calStored,
      calOrigin := s.dict.calOrigin, ownerKey := s.dict.ownerKey },
    cores := { r.cores with seq := s.cores.seq.filterMap fun x =>
      if x.2.st = (5 : BitVec 3) then some (x.1, { Seq.reset with st := 5 }) else none },
    log := { r.log with epoch := s.log.epoch, count := s.log.count },
    pack := { r.pack with strict := decide (leNat (s0.storedOf 0x600200) = 1) },
    fw := { r.fw with flash := s.fw.flash, counter := s.fw.counter },
    pwr := { r.pwr with
      phase := s.pwr.phase, inRange := s.pwr.inRange, pwrEn := s.pwr.pwrEn, modResetLow := s.pwr.modResetLow,
      downAt := s.pwr.downAt, chargeAt := s.pwr.chargeAt, straps := s.pwr.straps,
      trips := s.pwr.trips, winEnd := s.nowMs, cap := leNat (s0.storedOf 0x200200) },
    pace := { r.pace with target := leNat (s0.storedOf 0x200100), lastThermal := s.nowMs, lastRestore := s.nowMs },
    rng := { r.rng with
      restartCount := s.rng.restartCount, baseRestarts := s.rng.baseRestarts, holdRefusals := s.rng.holdRefusals,
      fatals := s.rng.fatals, restarts := s.rng.restarts, ipv4 := s0.storedOf 0x101100, ipv6 := s0.storedOf 0x101200 } }

/-- The timeline begins: Ranger boots from ROM, D0 alone is on, the pacers run, and every enabled Guyline port is at electrical idle (R323,
R462). -/
def startTimeline (s : State) : State :=
  let s := { s with
    pwr := { s.pwr with phase := .good, goodAt := s.nowMs }, pace := { s.pace with running := true },
    rng := { s.rng with boot := .rom } }
  (List.range 12).foldl (fun s p => s.portIdle p) (s.setDomains 0 0 2)

/-- A module reset: D0 stays powered, LPDDR6 sits in self-refresh where its domain has been on, and Ranger keeps WIMG_HASH and WIMG_STATE;
a flash store in progress is completed first (R465 to R467). -/
def moduleLost (s : State) (straps : Straps) : State :=
  let s := s.landStore
  let tap := { s.tap with traceEn := false, active := false, denied := false }
  let lpddr : Memory := s.mem.wipe 0x8000000000 0x40000000000
  { s.base with
    mem := lpddr,
    wimg := { s.wimg with manifest := [], data := [] },
    tap,
    pwr := { s.base.pwr with straps, thermTrip := s.pwr.thermTrip, tripReset := s.pwr.tripReset, warm := s.pwr.warm },
    cool := { State.reset.cool with hotspot := s.cool.hotspot } }

/-- A module reset that no pin holds (R455, R459): the straps are sampled and its timeline begins at once (R492). -/
def moduleReset (s : State) (straps : Straps) : State := (s.moduleLost straps).startTimeline

/-- Power-down: PWR_GOOD falls, D1 to D43 and then D0 are off; a store in progress completes on the bank (R491). -/
def powerDown (s : State) : State :=
  let s := s.landStore
  let b := s.base
  { b with pwr := { b.pwr with phase := .down, downAt := s.nowMs, modResetLow := s.pwr.modResetLow } }

/-- Charging begins where the module is enabled and both pairs are in range (R490). -/
def tryCharge (s : State) : State :=
  if s.pwr.phase = .off ∧ s.pwr.pwrEn = true ∧ s.pwr.inRange = true then
    { s with pwr := { s.pwr with phase := .charging, chargeAt := s.nowMs } }
  else s

end State

/-! ## Power pins (R490, R491) -/

/-- PWR_EN rises (R490). -/
def execPwrEnRise (s : State) : Host.Outcome State Fault Refusal :=
  .next ({ s with pwr := { s.pwr with pwrEn := true } }).tryCharge

/-- Both pairs reach the operating range: a PWR_EN that is high takes effect (R490). -/
def execInputInRange (s : State) : Host.Outcome State Fault Refusal :=
  .next ({ s with pwr := { s.pwr with inRange := true } }).tryCharge

/-- PWR_GOOD has not risen by 100 ms: the input stage tries again every second (R490). -/
def execPwrGoodRetry (s : State) : Host.Outcome State Fault Refusal :=
  if s.pwr.phase = .charging ∧ s.pwr.chargeAt + 1000 ≤ s.nowMs then .next { s with pwr := { s.pwr with chargeAt := s.nowMs } } else .next s

/-- PWR_GOOD rises, at most 100 ms after charging began: the straps are sampled and a cold start begins; while MOD_RESET_N is low Ranger is
held (R462, R490, R492, R493). -/
def execPwrGoodRise (straps : Straps) (s : State) : Host.Outcome State Fault Refusal :=
  if s.pwr.phase ≠ .charging ∨ s.pwr.chargeAt + 100 < s.nowMs then .next s
  else
    let s := ({ s.base with
      tap := State.reset.tap,
      pwr := { s.base.pwr with straps } }).startTimeline
    .next (if s.pwr.modResetLow then
      { s with rng := { s.rng with boot := .held }, pace := { s.pace with running := false } } else s)

/-- PWR_EN falls: a power-down begins (R491). -/
def execPwrEnFall (s : State) : Host.Outcome State Fault Refusal :=
  let s := { s with pwr := { s.pwr with pwrEn := false } }
  match s.pwr.phase with
  | .good => .next s.powerDown
  | .charging => .next { s with pwr := { s.pwr with phase := .off } }
  | _ => .next s

/-- A trip of the input: the pairs are out of range and a power-down begins (R489, R491). -/
def State.inputTrip (s : State) : State :=
  let s := { s with pwr := { s.pwr with inRange := false } }
  match s.pwr.phase with
  | .good => s.powerDown
  | .charging => { s with pwr := { s.pwr with phase := .off } }
  | _ => s

/-- Undervoltage: below 38 V (R489, R491). -/
def execUndervoltageTrip (s : State) : Host.Outcome State Fault Refusal := .next s.inputTrip

/-- Overvoltage: above 63 V; the input stage opens (R489, R491). -/
def execOvervoltageTrip (s : State) : Host.Outcome State Fault Refusal := .next s.inputTrip

/-- PWR_GOOD has been low for 200 ms: the next rise may follow (R491). -/
def execPowerDownHoldEnd (s : State) : Host.Outcome State Fault Refusal :=
  if s.pwr.phase = .down ∧ s.pwr.downAt + 200 ≤ s.nowMs then .next ({ s with pwr := { s.pwr with phase := .off } }).tryCharge else .next s

/-! ## MOD_RESET_N (R493) -/

/-- MOD_RESET_N falls and stays low for 1 µs: the straps are sampled, the domains are off, and Ranger is held; THERMTRIP_N is released
where every sensor was last below 100 °C (R395, R465, R492, R493). -/
def execModResetNFall (straps : Straps) (s : State) : Host.Outcome State Fault Refusal :=
  let s := { s with pwr := { s.pwr with modResetLow := true } }
  if s.pwr.phase ≠ .good then .next s
  else
    let s := s.moduleLost straps
    .next { s with
      rng := { s.rng with boot := .held },
      pwr := { s.pwr with domains := 2 :: List.replicate 43 0, goodAt := s.nowMs,
                          tripReset := true, thermTrip := s.pwr.thermTrip && s.pwr.warm } }

/-- MOD_RESET_N rises: the contacts return to their function, and the timeline runs from here (R465, R493, R497). -/
def execModResetNRise (s : State) : Host.Outcome State Fault Refusal :=
  let s := { s with pwr := { s.pwr with modResetLow := false } }
  if s.pwr.phase = .good ∧ s.rng.boot = .held then .next s.startTimeline else .next s

/-! ## The timeline (R462, R463) -/

/-- From 40 ms the ROM checks the firmware: it boots it or enters the recovery loader (R457, R462). -/
def execFirmwareBootCheck (s : State) : Host.Outcome State Fault Refusal :=
  if s.rng.boot ≠ .rom ∨ s.nowMs < s.pwr.goodAt + 40 then .next s
  else
    let image := s.flashImage
    match fwCheck s.fw.counter image with
    | none => .next { s with rng := { s.rng with boot := .running }, fw := { s.fw with version := slice image 0x10 32 } }
    | some _ => .next { s with rng := { s.rng with boot := .recovery }, fw := { s.fw with recBlock := 0, recBuf := [], recZero := [] } }

/-- From 150 ms the port answers identity reads (R416, R462). -/
def execObserverAccessStart (s : State) : Host.Outcome State Fault Refusal :=
  if s.rng.boot = .running ∧ s.rng.level = 0 ∧ s.pwr.goodAt + 150 ≤ s.nowMs then .next { s with rng := { s.rng with level := 1 } } else .next s

/-- When a domain ramps, in ms (R462, R463). -/
def rampAt (d : Nat) : Nat :=
  if d = 1 then 120
  else if d ≤ 33 then 124 + 7 * (d - 2)
  else if d ≤ 37 then 348 + 7 * (d - 34)
  else if d ≤ 41 then 376 + 7 * (d - 38)
  else if d = 42 then 1420
  else 1460

/-- May a domain ramp: at its time, after the one before it, and the Guyline domains after full parameter service (R462, R463)? -/
def State.mayRamp (s : State) (d : Nat) : Bool :=
  decide (s.rng.boot = .running ∧ d ≠ 0 ∧ s.pwr.domains.getD d 0 ≠ 2 ∧ s.pwr.goodAt + rampAt d ≤ s.nowMs) && !s.pwr.thermTrip &&
    !s.resetting && s.pwr.domReq.isNone && decide ((s.valueOf 0x203100).getD d 2 = 2) &&
    (if d = 42 then s.rng.level = 2
     else decide (d = 1 ∨ s.pwr.domains.getD (d - 1) 0 = 2) && (d = 1 || d = 43 || !s.rng.degraded))

/-- One domain ramps; the array repairs of a core block come into force with it (R104, R463). -/
def execDomainRamp (d : Fin 44) (s : State) : Host.Outcome State Fault Refusal :=
  if s.mayRamp d.val then
    let s := s.setDomains d.val d.val 2
    .next (if 2 ≤ d.val ∧ d.val ≤ 33 then s.putRepairs ((List.range 2048).filter fun c => State.blockOf c = d.val - 2) else s)
  else .next s

/-- LPDDR6 training has ended: full parameter service, and the anti-rollback fuses follow the running image (R416, R453, R462). -/
def execFullParameterService (s : State) : Host.Outcome State Fault Refusal :=
  let trained := (List.range 256).all fun k => (s.chan k).trained || (s.chan k).failed
  if s.rng.level = 1 ∧ (trained = true ∨ s.rng.degraded = true) ∧ s.pwr.goodAt + 1400 ≤ s.nowMs then
    .next { s with rng := { s.rng with level := 2 }, fw := { s.fw with counter := max s.fw.counter (fwSvn (s.flashBlock 0)) } }
  else .next s

/-- Basecamp reports ready, not before 6,000 ms: port 48231 serves (R416, R462). -/
def execBasecampReady (s : State) : Host.Outcome State Fault Refusal :=
  if s.rng.level = 2 ∧ s.pwr.domains.getD 1 0 = 2 ∧ s.pwr.goodAt + 6000 ≤ s.nowMs then .next { s with rng := { s.rng with baseReady := true } } else .next s

/-! ## Restarts (R402, R404) -/

/-- Ranger restarts from ROM: every session closes, a flash store is cut short, datagrams are dropped, and the valve hardware holds 100 %
duty; a fourth restart within 600 s asserts ALERT_N, is module-fatal, and leaves the module degraded (R398, R404, R475). -/
def execRangerRestart (_cause : RestartCause) (s : State) : Host.Outcome State Fault Refusal :=
  if s.rng.boot ≠ .running ∨ s.rng.restarting = true then .next s
  else
    let recent := s.rng.restarts.filter fun t => s.nowMs < t + 600000
    let s := { s with
      rng := { s.rng with
        restarting := true, restarts := recent ++ [s.nowMs], restartCount := s.rng.restartCount + 1,
        sessions := [], cur := none, store := none, rxq := [], closeDue := false },
      dict := { s.dict with selfCal := none, diag := none },
      cool := if s.trayValve then s.cool else { s.cool with duty := 100000 } }
    .next (if 3 ≤ recent.length then ((s.alert .rangerRestarts).moduleFatal .ranger).degrade else s)

/-- The restart has completed: datagram service and windows resume (R404). -/
def execRangerRestartDone (s : State) : Host.Outcome State Fault Refusal :=
  .next { s with rng := { s.rng with restarting := false } }

/-- Two heartbeats are missed: a running pack is halted, open results are lost without a RESULT, and D1 restarts (R402, R470, R476). -/
def execBasecampHeartbeatMiss (s : State) : Host.Outcome State Fault Refusal :=
  if s.rng.boot ≠ .running ∨ s.rng.restarting = true ∨ s.pwr.domains.getD 1 0 ≠ 2 then .next s
  else
    let s := s.loseOpen
    let s := if s.isRunning then (s.alert .packFatal).haltPack else s
    .next { s with rng := { s.rng with baseReady := false, baseRestarts := s.rng.baseRestarts + 1 } }

end Sys2Proof.Machine
end

