-- ==== Sys2Proof/Machine/Security.lean ====
section
/-! DEFINITION. Ownership records (R447, R448), attestation reports (R460), calibration commands (R438) and the array diagnostic (R436). Each
command answers its status. -/

namespace Sys2Proof.Machine

/-- A 32-byte hash or key identifier in a record. -/
def hashAt (r : List Byte) (off : Nat) : BitVec 256 := BitVec.ofNat 256 (beNat (slice r off 32))

/-- A 64-byte signature in a record (R443). -/
def sigAt (r : List Byte) (off : Nat) : BitVec 512 := BitVec.ofNat 512 (beNat (slice r off 64))

/-- Are all bytes of a field zero? -/
def zeroAt (r : List Byte) (off n : Nat) : Bool := (slice r off n).all fun b => b = 0

/-! ## Enrolment (R447, R448) -/

/-- The layout of a record: KIND, its reserved and its zero fields, and a KIND that fits the ownership (R447, R461). -/
def enrolFormatBad (owned : Bool) (r : List Byte) : Bool :=
  let kind := fieldAt r 0 1
  kind = 0 || decide (3 < kind) || !zeroAt r 1 31 || (kind = 1 && owned) || (decide (2 ≤ kind) && !owned) ||
    (kind = 1 && !zeroAt r 0xE0 64) || (kind = 3 && !(zeroAt r 0x60 64 && zeroAt r 0xA0 64))

/-- KEY_ID of the new owner: zero for a release (R443, R448). -/
def enrolKey (r : List Byte) : BitVec 256 := if fieldAt r 0 1 = 3 then 0 else Config.sm3 (slice r 0x60 64)

/-- Do the signatures that the KIND asks for verify (R447)? -/
def enrolSigned (owner : BitVec 256) (r : List Byte) : Bool :=
  let kind := fieldAt r 0 1
  (kind = 3 || Config.sm2Verify (enrolKey r) (slice r 0 0xA0) (sigAt r 0xA0)) &&
    (kind = 1 || Config.sm2Verify owner (slice r 0 0xE0) (sigAt r 0xE0))

/-- The check of a record, in the order of R461. -/
def enrolCheck (s : State) (r : List Byte) : Option W16 :=
  if enrolFormatBad s.owned r then some 0x0701
  else if hashAt r 0x20 ≠ s.fuses.identity then some 0x0702
  else if hashAt r 0x40 ≠ s.dict.ownerKey then some 0x0703
  else if !enrolSigned s.dict.ownerKey r then some 0x0704
  else none

namespace State

/-! ## Attestation (R460) -/

/-- FLAGS of a report. -/
def attestFlags (s : State) : Byte :=
  let on := fun (key : Nat) => leNat (s.valueOf key) ≠ 0
  BitVec.ofNat 8 (bn s.compatShown + 2 * bn (on 0x600200) + 4 * bn (on 0x300200) + 8 * bn (on 0x702000) + 16 * bn s.dict.calOrigin)

/-- Bytes 0x000 to 0x11F of a report. -/
def attestBody (s : State) (challenge : List Byte) : List Byte :=
  let hash := fun (x : BitVec 256) => beBytes 32 x.toNat
  leBytes 2 1 ++ leBytes 2 reproClass ++ leBytes 2 s.ownId ++ [BitVec.ofNat 8 s.packCode, s.attestFlags] ++ leBytes 8 s.fw.counter ++
    slice s.fuses.serial 0 16 ++ challenge ++ hash (Config.sm3 s.flashImage) ++ hash s.dict.ownerKey ++ hash s.pack.hash ++
    hash s.wimg.hash ++ hash (Config.sm3 (s.valueOf 0x302000 ++ s.valueOf 0x302100 ++ s.fuseRepair)) ++
    hash (Config.sm3 (calKeys.flatMap fun k => s.calOf k)) ++ leBytes 4 s.log.epoch ++ List.replicate 28 0

/-- A challenge builds the report and signs it with the attestation key (R460). -/
def attest (s : State) (challenge : List Byte) : State :=
  let b := s.attestBody challenge
  let sig := Config.sm2Sign 1 b s.free
  let s := s.draw
  { s with dict := { s.dict with report := b ++ beBytes 64 sig.toNat, lastChallenge := some s.nowMs } }

/-! ## Calibration (R438) -/

/-- The training results that CAL_STORE takes into the staged set: those that the controllers of trained channels and of up ports hold, by
the number of their free value (R295, R323). -/
def stageTraining (s : State) (arg : Byte) : State :=
  let st := s.dict.staged
  let old := fun (key n i : Nat) => slice (s.stagedOf key) (n * i) n
  let st := if arg.getLsbD 0 then
      Sparse.set [] st 0xA00400 ((List.range 256).flatMap fun ch =>
        let c := s.chan ch
        if c.trained then slice (Config.lpddrTrained ch c.seeds) 0 256 else old 0xA00400 256 ch)
    else st
  let st := if arg.getLsbD 1 then
      Sparse.set [] st 0xA00500 ((List.range 48).flatMap fun l =>
        if s.portUp (l / 4) then slice (Config.guylineTrained l (s.gport (l / 4)).seeds) 0 64 else old 0xA00500 64 l)
    else st
  { s with dict := { s.dict with staged := st } }

/-- The regenerated values of SELF_CAL: sensor offsets and replica constants measured, and the mean capacitance as the bank shows it. -/
def selfCalValues (s : State) (arg : Byte) (h : Holdup) : State :=
  let st := s.dict.staged
  let st := if arg.getLsbD 0 then
      (List.range 64).foldl (fun m i => Sparse.set [] m (0xA00101 + i) (slice (Config.freeBytes s.free i) 0 4)) st
    else st
  let st := if arg.getLsbD 1 then Sparse.set [] st 0xA00200 (slice (Config.freeBytes s.free 64) 0 256) else st
  let st := if arg.getLsbD 2 then Sparse.set [] st 0xA00300 (leBytes 4 (200000000 / h.dvUv)) else st
  let s := s.draw
  { s with dict := { s.dict with staged := st, selfCal := none } }

end State

/-- SELF_CAL completes and writes the staged set (R438). -/
def execSelfCalDone (h : Holdup) (s : State) : Host.Outcome State Fault Refusal :=
  match s.dict.selfCal with
  | some arg => .next (s.selfCalValues arg h)
  | none => .next s

/-! ## Array diagnostic (R436) -/

/-- A cell put before the first that follows it, row first; a cell named twice stays once. -/
def insertCell (x : Nat × Nat) : List (Nat × Nat) → List (Nat × Nat)
  | [] => [x]
  | y :: r => if x = y then y :: r else if x.1 < y.1 ∨ (x.1 = y.1 ∧ x.2 < y.2) then x :: y :: r else y :: insertCell x r

/-- ARRAY_DIAG_RESULT for a core and its failing cells (R436). -/
def diagBytes (c : Nat) (fails : List (Nat × Nat)) : List Byte :=
  let cells := fails.foldr insertCell []
  let cell := fun (i : Nat) => match cells[i]? with
    | some x => [BitVec.ofNat 8 x.1, BitVec.ofNat 8 x.2]
    | none => [(0xFF : Byte), 0xFF]
  leBytes 2 c ++ leBytes 1 (min cells.length 255) ++ cell 0 ++ cell 1 ++ List.replicate 9 0

/-- The diagnostic completes (R436). Rows and columns are physical, 0 to 64. -/
def execArrayDiagDone (fails : List (Nat × Nat)) (s : State) : Host.Outcome State Fault Refusal :=
  if fails.any fun x => decide (64 < x.1 ∨ 64 < x.2) then .fault .illFormed
  else
    match s.dict.diag with
    | some c => .next { s with dict := { s.dict with diag := none, diagResult := diagBytes c fails } }
    | none => .next s

end Sys2Proof.Machine
end

