-- ==== Sys2Proof/Machine/Protocol.lean ====
section
/-! DEFINITION. One operation of the Parameter Protocol: the checks of R428 in their order, what each command and write does, and bundle
writes (R439 to R441). -/

namespace Sys2Proof.Machine

/-- The key of the entry that an operation names. -/
def Op.key (x : Op) : Nat := x.index.toNat * 256 + x.o.sub.toNat

/-- OP codes (R408). -/
def opRead : Byte := 1
def opWrite : Byte := 2
def opCommand : Byte := 3
def opSegWrite : Byte := 4
def opSegRead : Byte := 5

/-- Is it a READ or SEGMENT READ? -/
def Op.reads (x : Op) : Bool := x.op = opRead || x.op = opSegRead

/-- What an operation comes to: the state, its result (R411), and the flash store that has begun before it can be answered (R410). -/
structure Ans where
  s : State
  status : W16 := 0
  retry : Nat := 0
  data : List Byte := []
  job : Option StoreJob := none

/-- Status and state of a command that makes no store. -/
def Ans.of (r : State × W16) : Ans := { s := r.1, status := r.2 }

namespace State

/-! ## Steps 1 to 6 of R428 -/

/-- RETRY_AFTER until a moment of the timeline, in ms from its start (R416). -/
def retryUntil (s : State) (ms : Nat) : Nat := min (max (s.pwr.goodAt + ms - s.nowMs) 10) 10000

/-- The open bundle of an operation's session (R439). -/
def openBundle (s : State) (x : Op) : Option BWrite := (s.sessionOf x.o.sid).bind (·.bw)

/-- Step 1: readiness (R416, R431). An enrolment counts among the writes that an update refuses (R448). -/
def checkReady (s : State) (x : Op) : Option W16 :=
  if s.rng.level < 2 then
    if s.rng.level = 1 ∧ x.op = opRead ∧ x.o.sid = 0 ∧ 0x100001 ≤ x.key ∧ x.key ≤ 0x100006 then none else some 0x0301
  else if s.fwBusy then
    if x.op = opCommand then (if x.key = 0x705100 then none else some 0x0304)
    else if !x.reads && (s.isRws x.key || x.key = 0x700300) then some 0x0304
    else none
  else none

/-- Step 3: access (R426). A WRITE of a command entry in an open bundle is left to step 6 (R439). -/
def checkAccess (s : State) (x : Op) (e : DEntry) : Option W16 :=
  if x.reads then (if e.acc = .wo ∨ e.acc = .cmd then some 0x0105 else none)
  else if x.op = opCommand then (if e.acc = .cmd then none else some 0x0105)
  else if e.acc = .ro then some 0x0105
  else if e.acc = .cmd then (if x.op = opWrite ∧ (s.openBundle x).isSome then none else some 0x0105)
  else none

/-- May a role do it (R413, R427, R447)? Without a session only READs of Observer entries, and the writes that an Observer may make. -/
def roleMay (r : Option Role) (x : Op) (e : DEntry) : Bool :=
  match r with
  | none => (x.op = opRead && e.rd = 0) || (!x.reads && e.wr = 0)
  | some .vendor => x.reads && decide (e.rd ≤ 1)
  | some r => decide ((if x.reads then e.rd else e.wr) ≤ r.code)

/-- Step 4: role and encryption (R412, R427). -/
def checkRole (s : State) (x : Op) (e : DEntry) : Option W16 :=
  if !roleMay ((s.sessionOf x.o.sid).map (·.role)) x e then some 0x0101
  else if x.o.sid ≠ 0 ∧ s.encRequired = true ∧ x.o.enc = false then some 0x0106
  else none

/-- Step 5: TYPE, then LEN (R408, R409, R425). Where an image's segment must begin is checked with the image. -/
def checkForm (x : Op) (e : DEntry) : Option W16 :=
  let n := x.o.data.length
  if (x.o.typ ≠ 0 ∧ x.o.typ ≠ e.typ) ∨ ((x.op = opSegWrite ∨ x.op = opSegRead) ∧ e.typ ≠ tBlob) then some 0x0201
  else if x.reads then (if n = 0 then none else some 0x0202)
  else if x.op = opCommand then (if some n = e.size then none else some 0x0202)
  else if x.op = opWrite then
    if e.acc = .cmd then none
    else if isImageKey x.key then some 0x0202
    else match e.size with
      | some k => if n = k then none else some 0x0202
      | none => if n ≤ 64 then none else some 0x0202
  else if 1024 < n then some 0x0202
  else match e.size with
    | some k =>
      if e.acc = .wo then (if x.o.offset = 0 ∧ n = k then none else some 0x0202)
      else if x.o.offset.toNat + n ≤ k then none else some 0x0202
    | none => none

/-- Bytes that an open bundle would hold with a member. -/
def heldBytes (b : BWrite) (key : Nat) (n : Nat) : Nat := ((b.members.filter fun m => m.1 ≠ key).map fun m => m.2.length).sum + n

/-- Step 6: the rules of bundle writes (R439). -/
def checkBundle (s : State) (x : Op) (e : DEntry) : Option W16 :=
  match s.openBundle x with
  | none => if x.op = opCommand ∧ (x.key = 0xB00200 ∨ x.key = 0xB00300) then some 0x0611 else none
  | some b =>
    if x.reads then none
    else if x.op = opCommand then
      if x.key = 0xB00100 then some 0x0611 else if x.key = 0xB00200 ∨ x.key = 0xB00300 then none else some 0x0613
    else if x.op = opSegWrite ∨ e.acc = .cmd then some 0x0613
    else if e.acc = .rw ∨ e.acc = .rws then
      let isMember := b.members.any fun m => m.1 = x.key
      if (!isMember && decide (16 ≤ b.members.length)) || decide (4096 < heldBytes b x.key x.o.data.length) then some 0x0612 else none
    else none

/-- Steps 3 to 6 in their order. -/
def checkOp (s : State) (x : Op) (e : DEntry) : Option W16 :=
  s.checkAccess x e <|> s.checkRole x e <|> checkForm x e <|> s.checkBundle x e

/-! ## Reads -/

/-- What a READ returns of a value: all of it, or a segment (R409). -/
def cutRead (seg : Option Nat) (v : List Byte) : List Byte := seg.elim v fun off => (v.drop off).take 1024

/-- The registers of the selected core's control block that an entry shows, and the bytes of each (R435). -/
def coreRegs (key : Nat) : Option (List Nat × Nat) :=
  if key = 0x900200 then some ((List.range 128).map (8 * ·), 8) else if key = 0x900300 then some ([0], 4) else none

/-- READ and SEGMENT READ (R409, R428). Registers of a control block are fetched over the Whistle, one message for each, where its domain is
on (R266, R435). -/
def readOp (s : State) (x : Op) : Ans :=
  let seg := if x.op = opSegRead then some x.o.offset.toNat else none
  match coreRegs x.key with
  | some (off :: rest, n) =>
    if s.pwr.domains.getD 2 0 = 2 then
      let c : CoreId := BitVec.ofNat 11 s.dict.coreSelect.toNat
      { s := s.askCore c off, job := some (.coreRead c (off :: rest) [] n seg) }
    else { s, data := cutRead seg (s.readEntry x.o.sid x.key) }
  | _ => { s, data := cutRead seg (s.readEntry x.o.sid x.key) }

/-! ## Writes -/

/-- The whole value that a WRITE or a segment gives an entry: a segment replaces bytes of the value stored, staged or in force. -/
def wholeValue (s : State) (x : Op) (e : DEntry) : List Byte :=
  if x.op = opSegWrite then
    let old := if e.acc = .rws then s.storedOf x.key else if isCalKey x.key then s.stagedOf x.key else s.valueOf x.key
    let k := x.o.offset.toNat
    old.take k ++ x.o.data ++ old.drop (k + x.o.data.length)
  else x.o.data

/-- A store of needed energy: refused by its check, or begun (R397, R430). -/
def storing (s : State) (h : Holdup) (need : Nat) (j : StoreJob) : Ans :=
  match s.holdCheck h need with
  | (s, some code) => { s, status := code }
  | (s, none) => { s, job := some j }

/-- A segment of an image entry (R409). -/
def imageWrite (s : State) (x : Op) : Ans :=
  let off := x.o.offset.toNat
  if x.key = 0x800000 then .of (s.packSegment off x.o.data)
  else if x.key = 0x801100 then .of (s.manifestSegment off x.o.data)
  else if x.key = 0x801200 then .of (s.imageSegment off x.o.data)
  else .of (s.fwSegment off x.o.data)

/-- Steps 7 and 8 of a write (R428). -/
def checkWrite (s : State) (key : Nat) (v : List Byte) : Option W16 :=
  s.stateCheck key v <|> s.valueCheck key v <|> (if key = 0x700300 then enrolCheck s v else none)

/-- A write that is not held, of a route table checked by the entries that it places (R333): it takes effect, or its parameter store begins; a value equal to the stored one succeeds at once (R428, R430,
R448, R460, R375). -/
def putWrite (s : State) (x : Op) (e : DEntry) (h : Holdup) : Ans :=
  let v := s.wholeValue x e
  match s.checkWrite x.key (if x.key = 0x501000 ∧ x.op = opSegWrite then List.replicate x.o.offset.toNat 0 ++ x.o.data else v) with
  | some code => { s, status := code }
  | none =>
    if x.key = 0x700300 then s.storing h needParam (.enrol (enrolKey v))
    else if x.key = 0x704000 then { s := s.attest v }
    else if e.acc = .rws then
      if s.storedOf x.key = v then { s } else s.storing h needParam (.entry x.key v)
    else
      { s := s.applyWrite x.key v, data := if x.key = 0x604100 then (s.ringRecord (leNat v)).getD [] else [] }

/-- A member put into a bundle: at the place of the entry's earlier value, else at the end (R439). -/
def putMember (key : Nat) (v : List Byte) (ms : List (Nat × List Byte)) : List (Nat × List Byte) :=
  if ms.any fun m => m.1 = key then ms.map fun m => if m.1 = key then (key, v) else m else ms ++ [(key, v)]

/-- The number that a write has or would have in a bundle. -/
def memberNo (key : Nat) (ms : List (Nat × List Byte)) : Nat := (ms.findIdx? fun m => m.1 = key).getD ms.length

/-- A write in an open bundle fails: the bundle is marked, and BW_RESULT records the first such failure (R439). -/
def failHeld (s : State) (x : Op) (code : W16) : State :=
  match s.sessionOf x.o.sid with
  | some k => match k.bw with
    | some b =>
      s.setSession { k with
        bw := some { b with failed := true },
        bwResult := if b.failed then k.bwResult else BitVec.ofNat 32 (code.toNat * 65536 + memberNo x.key b.members % 256) }
    | none => s
  | none => s

/-- A write that is held (R439). -/
def holdWrite (s : State) (x : Op) : Ans :=
  let v := x.o.data
  match s.stateCheck x.key v <|> s.valueCheck x.key v with
  | some code => { s := s.failHeld x code, status := code }
  | none =>
    match s.sessionOf x.o.sid with
    | some k => match k.bw with
      | some b => { s := s.setSession { k with bw := some { b with members := putMember x.key v b.members } } }
      | none => { s }
    | none => { s }

/-! ## Bundle commands (R440) -/

/-- The first member that fails its second check, with its code. -/
def recheck (s : State) (ms : List (Nat × List Byte)) : Option (Nat × W16) :=
  ((List.range ms.length).zip ms).findSome? fun im =>
    let others := ms.filter fun m => m.1 ≠ im.2.1
    let s' := others.foldl (fun s m => s.putVal m.1 m.2) s
    (s'.stateCheck im.2.1 im.2.2 <|> s'.valueCheck im.2.1 im.2.2).map fun c => (im.1, c)

/-- BW_COMMIT: the bundle closes whatever the outcome (R440). -/
def commit (s : State) (k : Session) (b : BWrite) (h : Holdup) : Ans :=
  let closed : Session := { k with bw := none }
  let refused := fun (s : State) (code : W16) (i : Nat) =>
    ({ s := s.setSession { closed with bwResult := BitVec.ofNat 32 (code.toNat * 65536 + i % 256) }, status := 0x0610 } : Ans)
  if b.failed then { s := s.setSession closed, status := 0x0610 }
  else match s.recheck b.members with
    | some (i, code) => refused s code i
    | none =>
      if b.members.any fun m => s.isRws m.1 then
        match s.holdCheck h needParam with
        | (s, some code) => refused s code 0xFF
        | (s, none) => { s := s.setSession closed, job := some (.bundle k.sid b.members) }
      else { s := b.members.foldl (fun s m => s.applyWrite m.1 m.2) (s.setSession closed) }

/-- BW_OPEN, BW_COMMIT and BW_ABORT. -/
def bundleCommand (s : State) (x : Op) (h : Holdup) : Ans :=
  match s.sessionOf x.o.sid with
  | none => { s, status := 0x0101 }
  | some k =>
    if x.key = 0xB00100 then { s := s.setSession { k with bw := some { members := [], failed := false } } }
    else match k.bw with
      | none => { s, status := 0x0611 }
      | some b => if x.key = 0xB00200 then s.commit k b h else { s := s.setSession { k with bw := none } }

/-! ## Commands -/

/-- PARAM_DEFAULTS (R432). -/
def defaultsCommand (s : State) (h : Holdup) : Ans :=
  if s.isRunning then { s, status := 0x0305 } else s.storing h needParam .defaults

/-- FABRIC_RESET (R468, R475); a thermal trip ends only with a module reset (R474). -/
def fabricResetCommand (s : State) : Ans :=
  if s.rng.degraded then { s, status := 0x0308 }
  else if s.resetting || s.pwr.thermTrip then { s, status := 0x030A }
  else { s := s.beginFabricReset }

/-- PACK_INSTALL (R303). -/
def installCommand (s : State) : Ans :=
  match s.installCheck with
  | some code => { s, status := code }
  | none => { s := s.beginInstall }

/-- PACK_START: with the Logbook on, the new epoch is stored first (R305, R367). -/
def startCommand (s : State) (h : Holdup) : Ans :=
  match s.startCheck with
  | some code => { s := s.startRefused code, status := code }
  | none => if leNat (s.valueOf 0x602000) = 0 then { s := s.startPack } else s.storing h needParam .epochStart

/-- PACK_HALT (R306). -/
def haltCommand (s : State) : Ans := if s.isRunning then { s := s.haltPack } else { s, status := 0x030A }

/-- ARRAY_DIAG (R436). -/
def diagCommand (s : State) (c : Nat) : Ans :=
  if s.isRunning then { s, status := 0x0305 }
  else if s.dict.diag.isSome then { s, status := 0x030A }
  else if 2047 < c then { s, status := 0x0205 }
  else { s := { s with dict := { s.dict with diag := some c } } }

/-- CAL_STORE (R438). -/
def calStoreCommand (s : State) (arg : Byte) (h : Holdup) : Ans :=
  if s.isRunning then { s, status := 0x0305 }
  else if 3 < arg then { s, status := 0x0206 }
  else
    let a := s.storing h needCal .cal
    if a.job.isSome then { a with s := a.s.stageTraining arg } else a

/-- SELF_CAL (R438). -/
def selfCalCommand (s : State) (arg : Byte) : Ans :=
  if s.isRunning then { s, status := 0x0305 }
  else if s.dict.selfCal.isSome then { s, status := 0x030A }
  else if 7 < arg then { s, status := 0x0206 }
  else { s := { s with dict := { s.dict with selfCal := some arg } } }

/-- A COMMAND that has passed steps 1 to 6. -/
def commandOp (s : State) (x : Op) (h : Holdup) : Ans :=
  match x.key with
  | 0x102000 => s.defaultsCommand h
  | 0x300100 => s.fabricResetCommand
  | 0x705100 => .of (s.fwBegin h)
  | 0x800100 => s.installCommand
  | 0x800600 => s.startCommand h
  | 0x800700 => s.haltCommand
  | 0x801300 => .of s.imageLoad
  | 0x909000 => s.diagCommand (leNat x.o.data)
  | 0xA01000 => s.calStoreCommand (x.o.data.headD 0) h
  | 0xA01100 => s.selfCalCommand (x.o.data.headD 0)
  | _ => s.bundleCommand x h

/-! ## One operation -/

/-- An operation on an entry that exists and has passed its checks. -/
def doOp (s : State) (x : Op) (e : DEntry) (h : Holdup) : Ans :=
  if x.reads then s.readOp x
  else if x.op = opCommand then s.commandOp x h
  else if isImageKey x.key then s.imageWrite x
  else if (s.openBundle x).isSome ∧ (e.acc = .rw ∨ e.acc = .rws) then s.holdWrite x
  else s.putWrite x e h

/-- A refused operation changes nothing, but a held write's failure marks its bundle (R428, R439). -/
def refuseOp (s : State) (x : Op) (e : DEntry) (code : W16) : Ans :=
  { s := if x.op = opWrite ∧ (e.acc = .rw ∨ e.acc = .rws) then s.failHeld x code else s, status := code }

/-- One operation: the first check that fails gives its status (R428). None for the vendor range in a Vendor session, whose entries the
spec does not publish (R442). -/
def runOp (s : State) (x : Op) (h : Holdup) : Option Ans :=
  match s.checkReady x with
  | some code =>
    match s.entry x.key with
    | some e => some { s.refuseOp x e code with retry := if code = 0x0301 then s.retryUntil 1400 else 0 }
    | none => some { s, status := code, retry := if code = 0x0301 then s.retryUntil 1400 else 0 }
  | none =>
    if 0xF000 ≤ x.index then
      if (s.sessionOf x.o.sid).any fun k => k.role = .vendor then none else some { s, status := 0x0101 }
    else match s.entry x.key with
      | none => some { s, status := 0x0102 }
      | some e =>
        match s.checkOp x e with
        | some code => some (s.refuseOp x e code)
        | none => some (s.doOp x e h)

end State

end Sys2Proof.Machine
end

