-- ==== Sys2Proof/Machine/Ranger.lean ====
section
/-! DEFINITION. Ranger's messages (R407 to R416): parsing, authentication and sequence numbers, the operations of a REQUEST, sessions, and
the messages that wait while a flash store is in progress (R410, R483). -/

namespace Sys2Proof.Machine

/-! ## Parsing (R407, R408) -/

/-- A message as received: header fields, header bytes, body and trailer. -/
structure Msg where
  typ : Byte
  enc : Bool
  role : Byte
  sid : W32
  mseq : W32
  header : List Byte
  body : List Byte
  trailer : List Byte
  deriving DecidableEq, Repr

/-- Bytes of the trailer that a message has: none without a session and in CONFIRM, whose session is not open yet (R413, R414). -/
def trailerLen (typ : Byte) (sid : W32) (enc : Bool) : Nat := if sid = 0 ∨ typ = 0x12 then 0 else if enc then 16 else 32

/-- A datagram read as a message; none where it is dropped (R407). -/
def parseMsg (bs : List Byte) : Option Msg :=
  let typ := bs.getD 3 0
  let enc := (bs.getD 4 0).getLsbD 0
  let sid : W32 := BitVec.ofNat 32 (fieldAt bs 8 4)
  let n := fieldAt bs 6 2
  let tr := trailerLen typ sid enc
  if bs.take 3 ≠ [0x50, 0x4B, 0x01] ∨ 1400 < n ∨ bs.length < 16 + n + tr then none
  else
    some { typ, enc, role := bs.getD 5 0, sid, mseq := BitVec.ofNat 32 (fieldAt bs 12 4), header := bs.take 16,
           body := slice bs 16 n, trailer := slice bs (16 + n) tr }

/-- The operations of a REQUEST body; none where one is malformed (R408). -/
def parseOps (sid : W32) (enc : Bool) : Nat → List Byte → Option (List Op)
  | 0, bs => if bs = [] then some [] else none
  | fuel + 1, bs =>
    match bs with
    | [] => some []
    | code :: _ =>
      let n := fieldAt bs 6 2
      let at_ := if code = opSegWrite ∨ code = opSegRead then 16 else 8
      let len := (at_ + n + 3) / 4 * 4
      if code = 0 ∨ 5 < code ∨ bs.length < len then none
      else
        let o : OpReq := { sid, enc, typ := bs.getD 1 0, sub := bs.getD 4 0,
                           offset := if at_ = 16 then BitVec.ofNat 64 (fieldAt bs 8 8) else 0, data := slice bs at_ n }
        (parseOps sid enc fuel (bs.drop len)).map fun r => { op := code, index := BitVec.ofNat 16 (fieldAt bs 2 2), o } :: r

/-- A result as it stands in a RESPONSE, padded to 4 bytes (R411). -/
def resultBytes (status : W16) (retry : Nat) (data : List Byte) : List Byte :=
  leBytes 2 status.toNat ++ leBytes 2 data.length ++ leBytes 2 retry ++ [0, 0] ++ data ++
    List.replicate ((data.length + 3) / 4 * 4 - data.length) 0

/-! ## Sequence numbers and authentication (R414, R415) -/

/-- The window of R415: the number is above the highest accepted, or within the 64 below it and not seen. -/
def seqFresh (high : Nat) (seen : List Nat) (n : Nat) : Bool := decide (high < n) || (decide (n < high ∧ high ≤ n + 64) && !seen.contains n)

/-- The window after a number has been accepted. -/
def seqAccept (high : Nat) (seen : List Nat) (n : Nat) : Nat × List Nat :=
  if high < n then (n, (high :: seen).filter fun k => n ≤ k + 64) else (high, n :: seen)

/-- The body of an authentic message, none where its trailer fails (R414). -/
def openBody (k : Session) (m : Msg) : Option (List Byte) :=
  if m.enc then
    Config.sm4Open k.sm4In (gcmNonce m.sid m.mseq) m.header m.body (BitVec.ofNat 128 (beNat m.trailer))
  else if BitVec.ofNat 256 (beNat m.trailer) = Config.hmacSm3 k.macIn (m.header ++ m.body) then some m.body
  else none

namespace State

/-- A message that is dropped and counted (R414, R415). -/
def authFailed (s : State) : State := { s with rng := { s.rng with authFail := s.rng.authFail + 1 } }

/-- A message of an open session: accepted, with its session and body, or dropped; svc says which port's numbers count (R414, R415). -/
def accept (s : State) (m : Msg) (svc : Bool) : State × Option (Session × List Byte) :=
  match s.sessionOf m.sid with
  | none => (s, none)
  | some k =>
    if !k.confirmed then (s, none)
    else match openBody k m with
      | none => (s.authFailed, none)
      | some body =>
        let n := m.mseq.toNat
        if !(if svc then seqFresh k.svcHigh k.svcSeen n else seqFresh k.rxHigh k.rxSeen n) then (s.authFailed, none)
        else
          let w := if svc then seqAccept k.svcHigh k.svcSeen n else seqAccept k.rxHigh k.rxSeen n
          let k := if svc then { k with svcHigh := w.1, svcSeen := w.2 } else { k with rxHigh := w.1, rxSeen := w.2 }
          let k := { k with enc := m.enc, last := s.nowMs }
          (s.setSession k, some (k, body))

/-! ## Requests (R408 to R411) -/

/-- The addresses written are in use (R406). -/
def useAddrs (s : State) : State := { s with rng := { s.rng with ipv4 := s.valueOf 0x101100, ipv6 := s.valueOf 0x101200 } }

/-- What follows once a response has been sent: addresses that have been written are in use (R406), and every session closes where an
enrolment asked for it (R448). -/
def closeAll (s : State) : State :=
  let s := s.useAddrs
  if s.rng.closeDue then { s with rng := { s.rng with sessions := [], closeDue := false } } else s

/-- The RESPONSE to the message in hand (R411). -/
def respond (s : State) (c : Cur) (results : List Byte) : State :=
  let s := { s with rng := { s.rng with cur := none } }
  let s := if c.session = 0 then s.sendPlain c.peer portKpp 0x02 c.mseq results
    else match s.sessionOf c.session with
      | some k => s.sendAs k c.peer portKpp 0x02 c.mseq results
      | none => s
  s.closeAll

/-- The operations of a message, one after another, until one begins a store or a result no longer fits (R410, R411). -/
def runOps (h : Holdup) (c : Cur) : List Op → List Byte → State → Option State
  | [], results, s => some (s.respond c results)
  | x :: ops, results, s =>
    match s.runOp x h with
    | none => none
    | some a =>
      let r := resultBytes a.status a.retry a.data
      if 1400 < results.length + r.length then some (s.respond c results)
      else match a.job with
        | none => runOps h c ops (results ++ r) a.s
        | some j => some ({ a.s with rng := { a.s.rng with cur := some { c with ops, results } } }.beginStore j .message)

/-- A REQUEST; a body that is no list of 1 to 32 operations is dropped (R408). -/
def request (s : State) (peer : Peer) (sid mseq : W32) (enc : Bool) (body : List Byte) (h : Holdup) : Option State :=
  match parseOps sid enc 32 body with
  | some (x :: ops) => runOps h { peer, session := sid, mseq, enc, ops := [], results := [] } (x :: ops) [] s
  | _ => some s

/-! ## Sessions (R413, R415) -/

/-- The session's role from the ROLE code. -/
def roleOf (code : Byte) : Option Role :=
  if code = 1 then some .operator else if code = 2 then some .owner else if code = 3 then some .vendor else none

/-- Is a key authorised for a role (R413, R427)? -/
def keyMay (s : State) (r : Role) (keyId : BitVec 256) : Bool :=
  match r with
  | .observer => false
  | .operator => keyId ≠ 0 && (List.range 8).any fun i => beNat (s.valueOf (0x701001 + i)) = keyId.toNat
  | .owner => s.owned && decide (keyId = s.dict.ownerKey)
  | .vendor => decide (keyId = Config.vendorKeyId) && decide (leNat (s.valueOf 0x702000) = 1)

/-- A new session number: the one drawn where it is free, else the smallest free one (R413). -/
def newSid (s : State) : W32 :=
  let free := fun (n : W32) => decide (n ≠ 0) && (s.sessionOf n).isNone
  let d := (Config.freeWord s.free).truncate 32
  if free d then d else (((List.range 18).map fun i => BitVec.ofNat 32 i).find? free).getD 1

/-- An OPEN_REPLY that carries a status in place of its body (R413, R416; log 16). -/
def openFail (s : State) (peer : Peer) (mseq : W32) (status : W16) (retry : Nat) : State :=
  s.sendPlain peer portKpp 0x11 mseq (leBytes 2 status.toNat ++ leBytes 2 retry)

/-- OPEN (R413). -/
def openSession (s : State) (peer : Peer) (m : Msg) : State :=
  if m.body.length ≠ 128 then s
  else if s.rng.level < 2 then s.openFail peer m.mseq 0x0301 (s.retryUntil 1400)
  else
    let keyId := BitVec.ofNat 256 (beNat (slice m.body 0 32))
    match roleOf m.role with
    | none => s.openFail peer m.mseq 0x0103 0
    | some role =>
      if !s.keyMay role keyId then s.openFail peer m.mseq 0x0103 0
      else if 16 ≤ s.rng.sessions.length then s.openFail peer m.mseq 0x0104 0
      else
        let sid := s.newSid
        let eph := slice (Config.freeBytes s.free 0) 0 64
        let nonce := slice (Config.freeBytes s.free 1) 0 32
        let fields := leBytes 4 sid.toNat ++ eph ++ nonce
        let sig := Config.sm2Sign 0 (beBytes 32 (Config.sm3 (m.body ++ fields)).toNat) s.free
        let reply := fields ++ beBytes 64 sig.toNat
        let keys := Config.sm2Kdf s.free (BitVec.ofNat 512 (beNat (slice m.body 32 64)))
          (BitVec.ofNat 512 (beNat (slice m.body 96 32 ++ nonce)))
        let k : Session :=
          { sid, role, keyId, peer, confirmed := false, transcript := m.body ++ reply, keys, rxHigh := 0, rxSeen := [], svcHigh := 0,
            svcSeen := [], svcTx := 0, enc := false, last := s.nowMs, bw := none, bwResult := 0 }
        let s := s.draw
        ({ s with rng := { s.rng with sessions := s.rng.sessions ++ [k] } }).sendPlain peer portKpp 0x11 m.mseq reply

/-- A session closes, and its bundle write with it (R415, R441). -/
def closeSession (s : State) (sid : W32) : State :=
  { s with rng := { s.rng with sessions := s.rng.sessions.filter fun k => k.sid ≠ sid } }

/-- CONFIRM: the session opens, or the exchange ends (R413). -/
def confirmSession (s : State) (peer : Peer) (m : Msg) : State :=
  match s.sessionOf m.sid with
  | none => s
  | some k =>
    if k.confirmed then s
    else if m.body.length = 64 ∧
        Config.sm2Verify k.keyId (beBytes 32 (Config.sm3 k.transcript).toNat) (BitVec.ofNat 512 (beNat m.body)) = true then
      s.setSession { k with confirmed := true, last := s.nowMs }
    else (s.closeSession m.sid).openFail peer m.mseq 0x0103 0

/-! ## One message, one operation -/

/-- A message on port 48230 (R410, R413). One of another type is dropped. -/
def handleMsg (s : State) (peer : Peer) (m : Msg) (h : Holdup) : Option State :=
  if m.typ = 0x10 then some (if m.sid = 0 then s.openSession peer m else s)
  else if m.typ = 0x12 then some (s.confirmSession peer m)
  else if m.typ = 0x01 then
    if m.sid = 0 then s.request peer 0 m.mseq false m.body h
    else match s.accept m false with
      | (s, some (_, body)) => s.request peer m.sid m.mseq m.enc body h
      | (s, none) => some s
  else if m.typ = 0x13 then
    match s.accept m false with
    | (s, some _) => some (s.closeSession m.sid)
    | (s, none) => some s
  else some s

/-- An operation given alone: that of an Observer, or of an open session, which it keeps open (R413, R415). -/
def handleOp (s : State) (x : Op) (h : Holdup) : Option State :=
  let run := fun (s : State) =>
    match s.runOp x h with
    | none => none
    | some a =>
      match a.job with
      | some j => some (a.s.beginStore j (.single x))
      | none =>
        some (if 1400 < (resultBytes a.status a.retry a.data).length then a.s
          else (a.s.emit (.result x.o a.status (BitVec.ofNat 16 a.retry) a.data)).closeAll)
  if x.o.sid = 0 then run s
  else match s.sessionOf x.o.sid with
    | some k => if k.confirmed then run (s.setSession { k with enc := x.o.enc, last := s.nowMs }) else some s
    | none => some s

/-- Does Ranger take datagrams (R404, R416)? -/
def listening (s : State) : Bool := decide (s.rng.boot = .running ∧ s.rng.level ≠ 0) && !s.rng.restarting

/-- Is a flash store in progress, so that what comes waits (R410)? -/
def storing? (s : State) : Bool := s.rng.store.isSome

/-- A datagram or operation waits, unless the receive buffer is full (R483). -/
def enqueue (s : State) (r : Rx) : State :=
  if 256 ≤ s.rng.rxq.length then s else { s with rng := { s.rng with rxq := s.rng.rxq ++ [r] } }

/-- What has waited. -/
def handleRx (s : State) (h : Holdup) : Rx → Option State
  | .msg peer bytes => match parseMsg bytes with
    | some m => s.handleMsg peer m h
    | none => some s
  | .op x => s.handleOp x h

/-- What has waited, in order, until a store begins again. -/
def drainRx (h : Holdup) : Nat → State → Option State
  | 0, s => some s
  | n + 1, s =>
    if s.storing? then some s
    else match s.rng.rxq with
      | [] => some s
      | r :: rest =>
        match ({ s with rng := { s.rng with rxq := rest } }).handleRx h r with
        | none => none
        | some s => drainRx h n s

/-- What a command that may meet the vendor range comes to (R442). -/
def outcome : Option State → Host.Outcome State Fault Refusal
  | some s => .next s
  | none => .refused .vendorRange

/-- A datagram on port 48230 of one message type. -/
def receive (s : State) (typ : Byte) (peer : Peer) (bytes : List Byte) (h : Holdup) : Host.Outcome State Fault Refusal :=
  if !s.listening then .next s
  else match parseMsg bytes with
    | none => .next s
    | some m =>
      if m.typ ≠ typ then .next s
      else if s.storing? then .next (s.enqueue (.msg peer bytes))
      else outcome (s.handleMsg peer m h)

/-- An operation given alone. -/
def single (s : State) (x : Op) (h : Holdup) : Host.Outcome State Fault Refusal :=
  if !s.listening then .next s
  else if s.storing? then .next (s.enqueue (.op x))
  else outcome (s.handleOp x h)

/-- The operation that waited is answered, and the rest of its message and what has waited follow (R398, R410). -/
def answerWaiter (s : State) (h : Holdup) (who : StoreFor) (data : List Byte) : Option State :=
  let r := match who with
    | .nobody => some s
    | .single x => some ((s.emit (.result x.o 0 0 data)).closeAll)
    | .message =>
      match s.rng.cur with
      | some c =>
        let r := resultBytes 0 0 data
        if 1400 < c.results.length + r.length then some (s.respond c c.results) else runOps h c c.ops (c.results ++ r) s
      | none => some s
  match r with
  | none => none
  | some s => drainRx h s.rng.rxq.length s

/-- The answer of a core's control block to a read that Ranger waits for, at the bridge (R266). -/
def coreReply (s : State) (c : CoreId) (off : Nat) : Option WMsg :=
  s.whistle.bridge.find? fun m => m.typ = 8 && m.src = c && (m.body.getD 0 0).toNat = off

/-- A register of a control block has come: the next is asked for, or the READ is answered (R435). -/
def finishCoreRead (s : State) (h : Holdup) (c : CoreId) (left : List Nat) (got : List Byte) (n : Nat) (seg : Option Nat) (who : StoreFor) :
    Option State :=
  match left with
  | [] => some s
  | off :: rest =>
    match s.coreReply c off with
    | none => some s
    | some m =>
      let s := { s with whistle := { s.whistle with bridge := s.whistle.bridge.filter fun x => x.typ ≠ 8 } }
      let got := got ++ leBytes n ((m.body.getD 1 0).toNat + (m.body.getD 2 0).toNat * 2 ^ 32)
      match rest with
      | next :: _ => some ({ s with rng := { s.rng with store := some (.coreRead c rest got n seg, who) } }.askCore c next)
      | [] => ({ s with rng := { s.rng with store := none } }).answerWaiter h who (cutRead seg got)

/-- A flash store completes: what it stored takes effect, its write is answered, and what has waited follows (R398, R410, R430). So does the
read of a control block, once its answer has come (log 98). -/
def finishStore (s : State) (h : Holdup) : Option State :=
  match s.rng.store with
  | none => some s
  | some (.coreRead c left got n seg, who) => s.finishCoreRead h c left got n seg who
  | some (j, who) => (({ s with rng := { s.rng with store := none } }).completeJob j).answerWaiter h who []

end State

/-! ## The rows -/

/-- The parameter or calibration store in progress completes (R398, R410). -/
def execParameterStoreDone (h : Holdup) (s : State) : Host.Outcome State Fault Refusal := State.outcome (s.finishStore h)

/-- A REQUEST on port 48230 (R410). -/
def execRequest (peer : Peer) (bytes : List Byte) (h : Holdup) (s : State) : Host.Outcome State Fault Refusal :=
  s.receive 0x01 peer bytes h

/-- A hold-up measurement for messages that make no store. -/
def noHoldup : Holdup := { dvUv := 0, vbMv := 0, inMv := 0 }

/-- OPEN (R413). -/
def execOpenSession (peer : Peer) (bytes : List Byte) (s : State) : Host.Outcome State Fault Refusal := s.receive 0x10 peer bytes noHoldup

/-- CONFIRM (R413). -/
def execConfirm (peer : Peer) (bytes : List Byte) (s : State) : Host.Outcome State Fault Refusal := s.receive 0x12 peer bytes noHoldup

/-- CLOSE (R415). -/
def execClose (peer : Peer) (bytes : List Byte) (s : State) : Host.Outcome State Fault Refusal := s.receive 0x13 peer bytes noHoldup

/-- A session closes after 60 s without an accepted message (R415). -/
def execSessionIdleTimeout (sid : W32) (s : State) : Host.Outcome State Fault Refusal :=
  match s.sessionOf sid with
  | some k => if k.last + 60000 ≤ s.nowMs then .next (s.closeSession sid) else .next s
  | none => .next s

end Sys2Proof.Machine
end

