-- ==== Sys2Proof/Machine/Entries.lean ====
section
/-! DEFINITION. The rows that are one operation of the Parameter Protocol each (R408, R426, R428): reads, image segments, commands and writes
of single entries, and the rows of the firmware update and the recovery loader (R455, R456, R459). -/

namespace Sys2Proof.Machine

/-- A write of an entry: a WRITE where the entry is no BLOB or the data is its whole value, else a SEGMENT WRITE (R409). -/
def State.writeOp (s : State) (index : W16) (o : OpReq) : Op :=
  let whole := match s.entry (index.toNat * 256 + o.sub.toNat) with
    | some e => decide (e.typ ≠ tBlob) || decide (e.size = some o.data.length)
    | none => true
  { op := if whole then opWrite else opSegWrite, index, o }

/-! ## Reads and writes of any entry -/

/-- READ (R428). -/
def execRead (index : W16) (o : OpReq) (s : State) : Host.Outcome State Fault Refusal := s.single { op := opRead, index, o } noHoldup

/-- SEGMENT READ (R409). -/
def execSegmentRead (index : W16) (o : OpReq) (s : State) : Host.Outcome State Fault Refusal := s.single { op := opSegRead, index, o } noHoldup

/-- A WRITE, or a SEGMENT WRITE, of an entry with no row of its own (R426). -/
def execRegisterWrite (index : W16) (o : OpReq) (h : Holdup) (s : State) : Host.Outcome State Fault Refusal := s.single (s.writeOp index o) h

/-! ## Image segments -/

/-- PACK_IMAGE (R302). -/
def execPackImage (o : OpReq) (s : State) : Host.Outcome State Fault Refusal :=
  s.single { op := opSegWrite, index := 0x8000, o } noHoldup

/-- FW_IMAGE (R454). -/
def execFwImage (o : OpReq) (s : State) : Host.Outcome State Fault Refusal :=
  s.single { op := opSegWrite, index := 0x7050, o } noHoldup

/-- WIMG_MANIFEST (R450). -/
def execWimgManifest (o : OpReq) (s : State) : Host.Outcome State Fault Refusal :=
  s.single { op := opSegWrite, index := 0x8011, o } noHoldup

/-- WIMG_DATA (R434). -/
def execWimgData (o : OpReq) (s : State) : Host.Outcome State Fault Refusal :=
  s.single { op := opSegWrite, index := 0x8012, o } noHoldup

/-! ## Commands -/

/-- PACK_INSTALL (R303). -/
def execPackInstall (o : OpReq) (s : State) : Host.Outcome State Fault Refusal :=
  s.single { op := opCommand, index := 0x8001, o } noHoldup

/-- PACK_START (R305). -/
def execPackStart (o : OpReq) (h : Holdup) (s : State) : Host.Outcome State Fault Refusal :=
  s.single { op := opCommand, index := 0x8006, o } h

/-- PACK_HALT (R306). -/
def execPackHalt (o : OpReq) (s : State) : Host.Outcome State Fault Refusal :=
  s.single { op := opCommand, index := 0x8007, o } noHoldup

/-- FABRIC_RESET (R468). -/
def execFabricReset (o : OpReq) (s : State) : Host.Outcome State Fault Refusal :=
  s.single { op := opCommand, index := 0x3001, o } noHoldup

/-- PARAM_DEFAULTS (R432). -/
def execParamDefaults (o : OpReq) (h : Holdup) (s : State) : Host.Outcome State Fault Refusal :=
  s.single { op := opCommand, index := 0x1020, o } h

/-- FW_INSTALL (R455). -/
def execFwInstall (o : OpReq) (h : Holdup) (s : State) : Host.Outcome State Fault Refusal :=
  s.single { op := opCommand, index := 0x7051, o } h

/-- WIMG_LOAD (R434). -/
def execWimgLoad (o : OpReq) (s : State) : Host.Outcome State Fault Refusal :=
  s.single { op := opCommand, index := 0x8013, o } noHoldup

/-- CAL_STORE (R438). -/
def execCalStore (o : OpReq) (h : Holdup) (s : State) : Host.Outcome State Fault Refusal :=
  s.single { op := opCommand, index := 0xA010, o } h

/-- SELF_CAL (R438). -/
def execSelfCal (o : OpReq) (s : State) : Host.Outcome State Fault Refusal :=
  s.single { op := opCommand, index := 0xA011, o } noHoldup

/-- ARRAY_DIAG (R436). -/
def execArrayDiag (o : OpReq) (s : State) : Host.Outcome State Fault Refusal :=
  s.single { op := opCommand, index := 0x9090, o } noHoldup

/-- BW_OPEN (R439). -/
def execBwOpen (o : OpReq) (s : State) : Host.Outcome State Fault Refusal :=
  s.single { op := opCommand, index := 0xB001, o } noHoldup

/-- BW_COMMIT (R440). -/
def execBwCommit (o : OpReq) (h : Holdup) (s : State) : Host.Outcome State Fault Refusal :=
  s.single { op := opCommand, index := 0xB002, o } h

/-- BW_ABORT (R440). -/
def execBwAbort (o : OpReq) (s : State) : Host.Outcome State Fault Refusal :=
  s.single { op := opCommand, index := 0xB003, o } noHoldup

/-! ## Writes of single entries -/

/-- ATTEST_CHALLENGE (R460). -/
def execAttestChallenge (o : OpReq) (s : State) : Host.Outcome State Fault Refusal :=
  s.single (s.writeOp 0x7040 o) noHoldup

/-- OWNER_ENROL (R448). -/
def execOwnerEnrol (o : OpReq) (h : Holdup) (s : State) : Host.Outcome State Fault Refusal :=
  s.single (s.writeOp 0x7003 o) h

/-- LOG_FETCH (R375). -/
def execLogFetch (o : OpReq) (s : State) : Host.Outcome State Fault Refusal :=
  s.single (s.writeOp 0x6041 o) noHoldup

/-- STEP_TARGET (R387). -/
def execStepTarget (o : OpReq) (h : Holdup) (s : State) : Host.Outcome State Fault Refusal :=
  s.single (s.writeOp 0x2001 o) h

/-- POWER_CAP (R388). -/
def execPowerCap (o : OpReq) (h : Holdup) (s : State) : Host.Outcome State Fault Refusal :=
  s.single (s.writeOp 0x2002 o) h

/-- REGULATOR_SPLIT (R237). -/
def execRegulatorSplit (o : OpReq) (s : State) : Host.Outcome State Fault Refusal :=
  s.single (s.writeOp 0x4010 o) noHoldup

/-- SLICE_PARTITION (R272). -/
def execSlicePartition (o : OpReq) (s : State) : Host.Outcome State Fault Refusal :=
  s.single (s.writeOp 0x3010 o) noHoldup

/-- DOMAIN_REQUEST (R390). -/
def execDomainRequest (o : OpReq) (s : State) : Host.Outcome State Fault Refusal :=
  s.single (s.writeOp 0x2031 o) noHoldup

/-- LOGBOOK_MODE (R366, R367, R481). -/
def execLogbookMode (o : OpReq) (h : Holdup) (s : State) : Host.Outcome State Fault Refusal :=
  s.single (s.writeOp 0x6020 o) h

/-- VALVE_OWNER (R393). -/
def execValveOwner (o : OpReq) (h : Holdup) (s : State) : Host.Outcome State Fault Refusal :=
  s.single (s.writeOp 0x2010 o) h

/-- MAINTENANCE (R477). -/
def execMaintenance (o : OpReq) (s : State) : Host.Outcome State Fault Refusal :=
  s.single (s.writeOp 0x3002 o) noHoldup

/-- ARRAY_REPAIR_MAP (R104). -/
def execArrayRepairMap (o : OpReq) (h : Holdup) (s : State) : Host.Outcome State Fault Refusal :=
  s.single (s.writeOp 0x3020 o) h

/-- CORE_REPAIR_MAP (R248). -/
def execCoreRepairMap (o : OpReq) (h : Holdup) (s : State) : Host.Outcome State Fault Refusal :=
  s.single (s.writeOp 0x3021 o) h

/-- GL_ROUTE_TABLE (R333). -/
def execGlRouteTable (o : OpReq) (h : Holdup) (s : State) : Host.Outcome State Fault Refusal :=
  s.single (s.writeOp 0x5010 o) h

/-- SCOUT_THRESHOLD of the layer that the subindex names (R164). -/
def execScoutThreshold (o : OpReq) (s : State) : Host.Outcome State Fault Refusal :=
  s.single (s.writeOp 0x3030 o) noHoldup

/-- SCOUT_DISABLE (R165). -/
def execScoutDisable (o : OpReq) (s : State) : Host.Outcome State Fault Refusal :=
  s.single (s.writeOp 0x3031 o) noHoldup

/-- CORE_CTRL of the selected core (R200, R435). -/
def execCoreCtrl (o : OpReq) (s : State) : Host.Outcome State Fault Refusal :=
  s.single (s.writeOp 0x9003 o) noHoldup

/-- CORE_SELECT (R435). -/
def execCoreSelect (o : OpReq) (s : State) : Host.Outcome State Fault Refusal :=
  s.single (s.writeOp 0x9001 o) noHoldup

/-- MODULE_ID, by subindex 0x06 (R347). -/
def execModuleId (o : OpReq) (h : Holdup) (s : State) : Host.Outcome State Fault Refusal :=
  s.single (s.writeOp 0x1000 o) h

/-- VENDOR_CONSENT (R427). -/
def execVendorConsent (o : OpReq) (h : Holdup) (s : State) : Host.Outcome State Fault Refusal :=
  s.single (s.writeOp 0x7020 o) h

/-- A calibration entry, 0xA001 to 0xA006: only the staged set changes (R437). -/
def execCalibrationEntry (index : W16) (o : OpReq) (s : State) : Host.Outcome State Fault Refusal :=
  if index < 0xA001 ∨ 0xA006 < index then .fault .illFormed else s.single (s.writeOp index o) noHoldup

/-! ## The firmware update (R455, R456) -/

/-- A block of the update; after block 0 the module resets into the new image (R455). -/
def State.updateBlock (s : State) (w : FlashTry) : State :=
  match s.fwBlock w.h with
  | (s, true) => s.moduleReset w.straps
  | (s, false) => s

/-- The next block, with its own hold-up check, where no refused block waits and no other store is in progress (R455, R483). -/
def execFwBlockWrite (w : FlashTry) (s : State) : Host.Outcome State Fault Refusal :=
  if s.fw.state = 3 ∧ s.fw.refused = 0 ∧ s.rng.store.isNone = true ∧ s.rng.boot = .running ∧ s.rng.restarting = false then
    .next (s.updateBlock w)
  else .next s

/-- A refused block is tried again a second later (R456). -/
def execFwBlockRetry (w : FlashTry) (s : State) : Host.Outcome State Fault Refusal :=
  if s.fw.state = 3 ∧ 0 < s.fw.refused ∧ s.fw.retryAt ≤ s.nowMs ∧ s.rng.store.isNone = true ∧ s.rng.boot = .running ∧
      s.rng.restarting = false then .next (s.updateBlock w)
  else .next s

/-! ## The recovery loader (R458, R459) -/

/-- A REPLY: the block concerned, a status, the offset in the block, and RETRY_AFTER. -/
def recoveryReply (block offset : Nat) (status : W16) (retry : Nat) : List Byte :=
  [0x52, 0x4B, 0x03, 0x00] ++ leBytes 2 block ++ leBytes 2 status.toNat ++ leBytes 4 offset ++ leBytes 2 0 ++ leBytes 2 retry

/-- Is a datagram a recovery message of a type, with all its data? -/
def recoveryOk (bs : List Byte) (typ : Byte) : Bool :=
  bs.take 3 = [0x52, 0x4B, typ] && decide (16 ≤ bs.length) && decide (fieldAt bs 12 2 ≤ 1024) && decide (16 + fieldAt bs 12 2 ≤ bs.length)

/-- Bytes of a block of the image that the loader takes: of block 0 as its header says once that has come. -/
def recoveryLen (header : List Byte) (block : Nat) : Nat :=
  let n := if 8192 ≤ fwLen header ∧ fwLen header ≤ 67108864 then fwLen header else 67108864
  min 262144 (n - 262144 * block)

namespace State

/-- The loader answers. -/
def recoverySay (s : State) (peer : Peer) (status : W16) (retry : Nat) : State :=
  s.emit (.recovery peer (recoveryReply s.fw.recBlock s.fw.recBuf.length status retry))

/-- The loader begins anew with block 0. -/
def recoveryAnew (s : State) : State := { s with fw := { s.fw with recBlock := 0, recBuf := [], recZero := [] } }

/-- The last block is in the flash: with the body's hash right block 0 is written and the module resets, else block 0 stays erased (R459). -/
def recoveryEnd (s : State) (peer : Peer) (straps : Straps) : State :=
  let s' := s.putBlock 0 s.fw.recZero
  if fwBodyOk s'.flashImage then (s'.recoverySay peer 0 0).moduleReset straps
  else (s.recoveryAnew).recoverySay peer 0x0714 0

/-- A whole block: block 0 has its header checked and block 0 of the flash is erased; the others are written after a hold-up check (R459). -/
def recoveryBlock (s : State) (peer : Peer) (w : FlashTry) : State :=
  let b := s.fw.recBlock
  let bytes := s.fw.recBuf
  if b = 0 then
    match fwHeaderCheck s.fw.counter bytes with
    | some code => (s.recoveryAnew).recoverySay peer code 0
    | none =>
      if fwBlocks bytes = 1 then
        match s.holdCheck w.h needBlock with
        | (s, some _) => (s.recoveryAnew).recoverySay peer 0x0401 1000
        | (s, none) => (({ s with fw := { s.fw with recZero := bytes } }).putBlock 0 []).recoveryEnd peer w.straps
      else
        (({ s with fw := { s.fw with recBlock := 1, recBuf := [], recZero := bytes } }).putBlock 0 []).recoverySay peer 0 0
  else
    match s.holdCheck w.h needBlock with
    | (s, some _) => ({ s with fw := { s.fw with recBuf := [] } }).recoverySay peer 0x0401 1000
    | (s, none) =>
      let s := s.putBlock b bytes
      if b + 1 < fwBlocks s.fw.recZero then ({ s with fw := { s.fw with recBlock := b + 1, recBuf := [] } }).recoverySay peer 0 0
      else s.recoveryEnd peer w.straps

end State

/-- DATA at the recovery loader: in order, or answered with 0x0710 and discarded (R459). -/
def execRecoveryData (peer : Peer) (bytes : List Byte) (w : FlashTry) (s : State) : Host.Outcome State Fault Refusal :=
  if s.rng.boot ≠ .recovery || !recoveryOk bytes 0x01 then .next s
  else
    let n := fieldAt bytes 12 2
    let buf := s.fw.recBuf ++ slice bytes 16 n
    let len := recoveryLen (if s.fw.recBlock = 0 then buf else s.fw.recZero) s.fw.recBlock
    if fieldAt bytes 4 2 ≠ s.fw.recBlock ∨ fieldAt bytes 8 4 ≠ s.fw.recBuf.length ∨ len < buf.length then .next (s.recoverySay peer 0x0710 0)
    else
      let s := { s with fw := { s.fw with recBuf := buf } }
      .next (if buf.length = len then s.recoveryBlock peer w else s.recoverySay peer 0 0)

/-- QUERY at the recovery loader: the next block expected (R459). -/
def execRecoveryQuery (peer : Peer) (bytes : List Byte) (s : State) : Host.Outcome State Fault Refusal :=
  if s.rng.boot ≠ .recovery || !recoveryOk bytes 0x02 then .next s else .next (s.recoverySay peer 0 0)

end Sys2Proof.Machine
end

