-- ==== Sys2Proof/Machine/Guyline.lean ====
section
/-! DEFINITION. Guyline (11): ports, flits, traffic between modules, symbols, module-wide barriers, syntonisation, starting in step and
system-wide rates. -/

namespace Sys2Proof.Machine

/-! ## Ports (R323, R330) -/

/-- At its start time an enabled port leaves electrical idle and trains (R323, R462). -/
def execPortStart (p : Port) (s : State) : Host.Outcome State Fault Refusal :=
  let n := p.val
  let g := s.gport n
  if g.state = 1 ∧ s.pwr.phase = .good ∧ s.pwr.modResetLow = false ∧ s.portEnabled n = true ∧
      s.pwr.domains.getD (42 + n / 6) 0 = 2 ∧ s.pwr.goodAt + 1500 + 10 * n ≤ s.nowMs then
    .next (s.setPort n { g with state := 2, misses := 0 })
  else .next s

/-- A port ends training and delay measurement: up when its lanes and codeword stream are locked and the round trip is at most 350 ns; the
third miss in a row fails it (R323, R344). Training finds and corrects inverted lanes and a reversed lane order (R322), and its results are
kept until CAL_STORE takes them (R438). -/
def execPortTrainingDone (p : Port) (locked : Bool) (found : LinkFound) (s : State) : Host.Outcome State Fault Refusal :=
  let n := p.val
  let g := s.gport n
  if g.state ≠ 2 then .next s
  else if locked ∧ found.rttPs ≤ 350000 then
    let d := (found.rttPs * s.rate * 32 + 500000000) / 1000000000
    .next ((s.setPort n { g.fresh with
      state := 3, misses := 0, lastTime := s.now, delay := BitVec.ofNat 32 d, inverted := found.inverted,
      reversed := found.reversed, seeds := s.free }).draw).resync
  else if 2 ≤ g.misses then
    .next (s.setPort n { g with state := 4, misses := g.misses + 1, retryAt := s.nowMs + 1000 })
  else .next (s.setPort n { g with misses := g.misses + 1 })

/-- A failed port tries again every second (R323). -/
def execPortTrainRetry (p : Port) (s : State) : Host.Outcome State Fault Refusal :=
  let n := p.val
  let g := s.gport n
  if g.state = 4 ∧ g.retryAt ≤ s.nowMs then .next (s.setPort n { g with state := 2 }) else .next s

/-- A port fails after 16 replays of one flit in a row or a loss of codeword lock; in use by the running pack, that is pack-fatal (R330,
R473). -/
def execPortFail (p : Port) (lostLock : Bool) (s : State) : Host.Outcome State Fault Refusal :=
  let n := p.val
  let g := s.gport n
  if g.state ≠ 3 ∨ (lostLock = false ∧ g.replays < 16) then .next s
  else
    let s := (s.setPort n { g with state := 4, retryAt := s.nowMs + 1000, replay := [], resend := [], replays := 0 }).resync
    let s := { s with gl := { s.gl with portFail := s.gl.portFail ||| (1 : BitVec 12) <<< n } }
    .next (if s.gl.usedPorts.contains n then s.packFatalNotice else s)

/-! ## Flits (R325 to R331) -/

/-- An idle block (R324). -/
def idleBlock : PBlock := { ctl := 0xC0, data := 0 }

/-- A symbol's block (R324, R335). -/
def symBlock (payload : BitVec 256) : PBlock := { ctl := 0x80, data := payload }

/-- The blocks of a flit in transmission order: its header, then its parcels (R325). -/
def Flit.stream (f : Flit) : List PBlock := { ctl := 0, data := f.header } :: f.blocks

namespace State

/-- A port sends a block at the position that it has come to, or ahead of it (R324, R336). -/
def sendBlock (s : State) (p : Port) (moves : Bool) (b : PBlock) : State :=
  let g := s.gport p.val
  (s.setPort p.val { g with blockNo := g.blockNo + 1, pos := if moves then (g.pos + 1) % 40 else g.pos }).emit (.block p b)

/-- The next flit of a kind to start, Daypack or scheduled: one to replay, in order; else, with a credit and room in the replay buffer, the oldest that
waits, with the port's next SEQ (R328, R329). -/
def nextFlit (g : GPort) (dpk : Bool) : Option (Flit × GPort) :=
  match g.resend with
  | f :: rest => if (FHead.ofBits f.header).dpk = dpk then some (f, { g with resend := rest }) else none
  | [] =>
    match if dpk then g.dpkTxq else g.txq with
    | f :: rest =>
      if g.credits = 0 ∨ 256 ≤ g.replay.length then none
      else
        let f := f.sealed g.seq
        let g := { g with credits := g.credits - 1, seq := g.seq + 1, replay := g.replay ++ [f] }
        some (f, if dpk then { g with dpkTxq := rest } else { g with txq := rest })
    | [] => none

/-- A position for flits of a kind: the next block of the one under way, or the first of the next, or an idle block (R324). -/
def flitPosition (s : State) (p : Port) (dpk : Bool) : State :=
  let n := p.val
  let g := s.gport n
  let keep := fun (g : GPort) (r : List PBlock) => if dpk then { g with curDpk := r } else { g with cur := r }
  match if dpk then g.curDpk else g.cur with
  | b :: rest => (s.setPort n (keep g rest)).sendBlock p true b
  | [] =>
    match nextFlit g dpk with
    | some (f, g) => match f.stream with
      | b :: rest => (s.setPort n (keep g rest)).sendBlock p true b
      | [] => s.sendBlock p true idleBlock
    | none => s.sendBlock p true idleBlock

/-- A position for ACK, NAK and TIME (R324, R336). -/
def ctlPosition (s : State) (p : Port) : State :=
  let g := s.gport p.val
  match g.ctlq with
  | (st, f) :: rest =>
    (s.setPort p.val { g with ctlq := rest }).sendBlock p true (symBlock (symPayload st g.sseq.toNat (s.symFields p.val st f)))
  | [] => s.sendBlock p true idleBlock

end State

/-- A port sends one block: a symbol that pre-empts, ahead of every waiting block; else what its position in the group of 40 is for (R324,
R328, R336). The beats that reached the port in a past step can pair no more (R326). -/
def execFlitTransmit (p : Port) (s : State) : Host.Outcome State Fault Refusal :=
  let n := p.val
  if (s.gport n).state ≠ 3 then .next s
  else
    let s := if (s.gport n).lastEdge.any fun x => decide (x.1 < s.now) then s.flushEdge n else s
    let g := s.gport n
    match g.syms.find? fun y => y.sentAt.isNone with
    | some y =>
      let b := symBlock (symPayload y.stype y.sseq.toNat (s.symFields n y.stype y.fields))
      .next ((s.setPort n { g with
        syms := g.syms.map fun (z : SentSym) => if z.sseq = y.sseq then { z with sentAt := some g.blockNo } else z }).sendBlock p false b)
    | none => .next (if g.pos < 36 then s.flitPosition p false else if g.pos < 38 then s.flitPosition p true else s.ctlPosition p)

/-- A flit that is discarded: the first names itself in a NAK; while that is out, a flit that shows that the replay has begun without the one
named, or the one named failing again, names it in another (R329; log 86). off is how far past it the flit's SEQ lies, none where its SEQ
cannot be trusted. -/
def State.discardFlit (s : State) (n : Nat) (off : Option Nat) : State :=
  let g := s.gport n
  let nak := fun (d : Nat) => (s.setPort n { g with nakOut := some d }).sendSymOnce n 0x02 0
  match g.nakOut, off with
  | none, none => nak 0
  | none, some _ => s
  | some d, none => s.setPort n { g with nakOut := some (d + 1) }
  | some d, some o => if o ≤ d then nak o else s.setPort n { g with nakOut := some o }

/-- A flit arrives: taken in SEQ order; a failed one and every later one are discarded, and a NAK names it (R328, R329). -/
def execFlitReceive (p : Port) (codewordOk : Bool) (fixed : Nat) (header : BitVec 256) (blocks : List PBlock) (s : State) :
    Host.Outcome State Fault Refusal :=
  let n := p.val
  let g := s.gport n
  let f : Flit := { header, blocks }
  if 8 < blocks.length then .fault .illFormed
  else if g.state ≠ 3 then .next s
  else
  let s := { s with gl := { s.gl with fec := s.gl.fec + fixed } }
  let off := (f.seq + 4096 - g.rxExp.toNat) % 4096
  if codewordOk && f.ok then
    if off = 0 ∧ g.rxq.length < 128 then
      .next (s.setPort n { g with rxq := g.rxq ++ [f], rxExp := g.rxExp + 1, nakOut := none })
    else .next (if off = 0 then s else s.discardFlit n (some off))
  else .next (s.discardFlit n (if g.nakOut.isSome ∧ off = 0 then some 0 else none))

/-- An ACK arrives: flits and symbols it acknowledges are dropped, and credits come back (R328, R337). -/
def execAck (p : Port) (payload : BitVec 256) (s : State) : Host.Outcome State Fault Refusal :=
  let n := p.val
  let g := s.gport n
  if !s.portUp n || !State.symOk payload 0x01 then .next s
  else
    let x := payload.toNat
    let head := match g.replay with | f :: _ => f.seq | [] => g.seq.toNat
    let k := (bitsOf x 239 228 + 4096 - head) % 4096
    let k := if k ≤ g.replay.length then k else 0
    let shead := match g.syms with | y :: _ => y.sseq | [] => g.sseq
    let j := (BitVec.ofNat 8 (bitsOf x 219 212) - shead).toNat
    let j := if j ≤ g.syms.length then j else 0
    .next (s.setPort n { g with
      replay := g.replay.drop k, replays := if k = 0 then g.replays else 0,
      credits := min 128 (g.credits + bitsOf x 227 220), syms := g.syms.drop j })

/-- A NAK arrives: the flits from its SEQ are replayed, in order, and the replay is counted (R329, R330). -/
def execNak (p : Port) (payload : BitVec 256) (s : State) : Host.Outcome State Fault Refusal :=
  let n := p.val
  let g := s.gport n
  if !s.portUp n || !State.symOk payload 0x02 then .next s
  else
    let seq := bitsOf payload.toNat 239 228
    let keep := g.replay.dropWhile fun f => f.seq ≠ seq
    if keep.isEmpty then .next s
    else
      let s := s.setPort n { g with
        replay := keep, resend := keep, replays := if keep.length = g.replay.length then g.replays + 1 else 1 }
      .next { s with gl := { s.gl with retry := s.gl.retry + 1 } }

/-- A received flit reaches the edge router; one that comes after its EDGE slot, which was `past` steps ago (0: it is still to come), is late.
Its buffer place goes back as a credit, and a flit for
another module goes on (R328, R331, R333). -/
def execFlitEdgeDeliver (p : Port) (past : Nat) (s : State) : Host.Outcome State Fault Refusal :=
  let n := p.val
  let g := s.gport n
  match g.rxq with
  | [] => .next s
  | f :: rest =>
    let h := FHead.ofBits f.header
    let keep := (decide (h.dmod = s.ownId) && decide (1 ≤ h.ftype ∧ h.ftype ≤ 6)) || h.ftype = 4
    let s := (s.setPort n { g with rxq := rest, edge := if keep then g.edge ++ [f] else g.edge }).countLate n h past
    let s := if h.dmod = s.ownId ∨ h.ftype = 4 then s else s.passOn n f
    .next (if g.state = 3 then s.sendAck n 1 else s)

/-! ## Traffic between modules (R334) -/

/-- One parcel of a READ_REQ: asked for where it lies; an undecoded address is answered with a poisoned parcel. -/
def State.remoteRead (s : State) (port : Nat) (h : FHead) (i : Nat) : State :=
  let a := (h.addr + 32 * i) % 2 ^ 42
  let router := portRouter port
  let ask : FHead := { h with vmask := 1, addr := a }
  if (s.keyOf a).isNone then
    s.countEdgePoison.sendAway (2 + i / 4) router 6 s.now (readData s.ownId ask a) (poisonedParcel a)
  else if h.dpk then
    s.injectDpk (2 + i % 2) router 6
      { dest := globalKey s.ownId a, into := false, core := h.core, id := 0, i, avail := s.now, ask := true, head := some ask, parcel := {} }
  else
    s.putEdge port i
      { flow := .request (readReq a (.remote ask) none (some (planeKey (2 + i / 4) router 6))), addr := a, parcel := {} }

/-- A READ_REQ is served through the home slices and answered with READ_DATA, parcel by parcel. -/
def execReadReq (p : Port) (s : State) : Host.Outcome State Fault Refusal :=
  match s.takeFlit p.val 2 with
  | none => .next s
  | some (h, _, s) => .next (((List.range 8).filter fun i => bitOf h.vmask i).foldl (fun s i => s.remoteRead p.val h i) s)

/-- READ_DATA goes to the engine or merge that asked for it over the Trail, or to its Daypack transfer (R326, R334). -/
def execReadData (p : Port) (s : State) : Host.Outcome State Fault Refusal :=
  match s.takeFlit p.val 3 with
  | none => .next s
  | some (h, bs, s) =>
    .next ((flitParcels h bs).foldl (fun s x =>
      if h.dpk then s.dpkAnswer h.core (globalKey h.smod x.2.1) (portRouter p.val) x.2.2
      else s.putEdge p.val x.1 { flow := .away { h with vmask := 1, addr := x.2.1 }, addr := x.2.1, parcel := x.2.2 }) s)

/-- One parcel of a WRITE flit on its way to where it lies; an undecoded one is dropped and counted, and one into a list range is taken into
the hold (R227, R334). -/
def State.remoteWrite (s : State) (port id : Nat) (h : FHead) (i a : Nat) (q : Parcel) : State :=
  let router := portRouter port
  if !s.writable a || s.inListRange a then s.writeIn (.remoteW id) a q
  else if h.dpk then
    s.injectDpk (2 + i % 2) router 6
      { dest := globalKey s.ownId a, into := false, core := h.core, id, i, avail := s.now, ask := false, head := some h, parcel := q }
  else
    let r : SReq := { wr := true, addr := a, mask := fullMask, data := q.data.toNat, poison := q.poison, cclass := q.cclass, check := some q.check,
                      who := .remoteW id, src := some (planeKey (2 + i / 4) router 6) }
    s.putEdge port i (writePkt r)

/-- A WRITE is written through the home slices, and one WRITE_DONE goes back once its last parcel has landed or been dropped; while the list
hold has no room for it, it waits (R227). -/
def execWrite (p : Port) (s : State) : Host.Outcome State Fault Refusal :=
  match s.takeFlit p.val 1 with
  | none => .next s
  | some (h, bs, t) =>
    let ps := flitParcels h bs
    if ps.any fun x => s.holdFull x.2.1 then .next s
    else
      let id := t.gl.nextWrite
      if ps = [] then
        .next (t.sendAway 2 (portRouter p.val) 6 t.now { h with ftype := 5, vmask := 0, dmod := h.smod, smod := t.ownId } {})
      else
        let t := { t with gl := { t.gl with
          nextWrite := id + 1, writes := t.gl.writes ++ [{ id, head := h, port := p.val, done := 0, left := ps.length }] } }
        .next (ps.foldl (fun s x => s.remoteWrite p.val id h x.1 x.2.1 x.2.2) t)

/-- A WRITE_DONE counts remote writes of an engine, or parcels of a Daypack transfer, as landed (R230, R239, R334). -/
def execWriteDone (p : Port) (s : State) : Host.Outcome State Fault Refusal :=
  match s.takeFlit p.val 5 with
  | none => .next s
  | some (h, _, s) =>
    let key := globalKey h.smod h.addr
    if h.dpk then
      match (s.dpkq h.core).find? fun d => d.out && decide (d.landed < d.len) &&
          (List.range d.len).any fun i => globalKey (d.gaddr / 2 ^ 42) ((d.gaddr % 2 ^ 42 + 32 * i) % 2 ^ 42) = key with
      | some d => .next (s.dpkLanded h.core d.id h.vmask)
      | none => .next s
    else
      let g := s.eng h.core h.eng
      let left := (List.range h.vmask).foldl (fun (w : List (Nat × Nat × Nat)) i =>
        w.eraseP fun x => x.2.1 = globalKey h.smod ((h.addr + 32 * i) % 2 ^ 42)) g.sent
      .next (s.setEng h.core h.eng { g with sent := left })

/-- A NODE flit splits back into its beats, on planes 2 and 3, and they wait for EDGE-sourced slots of their route (R326, R352); one for a
module that cannot be reached is dropped and counted (R333). Its header carries neither the form of the sums nor their saturation: both
are what the sending module knows of its group (R128; log 19). -/
def execNode (n : NodeIn) (s : State) : Host.Outcome State Fault Refusal :=
  match s.takeFlit n.p.val 4 with
  | none => .next s
  | some (h, bs, s) =>
    let tag : NodeTag :=
      { core := bitsOf h.addr 41 31, base := bitsOf h.addr 30 28, logS := bitsOf h.addr 27 24, level := bitsOf h.addr 23 20,
        first := bitsOf h.addr 19 6, module := h.dmod, beat := h.beat }
    let low := ((List.range 4).filter fun i => bitOf h.vmask i).length
    let beat := fun (dst k : Nat) =>
      let part := if k = 0 then bs.take low else bs.drop low
      let b := h.beat + k
      ({ kind := 2, vmask := BitVec.ofNat 4 (h.vmask / 16 ^ k % 16), hdr := NodeTag.bits { tag with beat := b },
         ps := (enumFrom0 part).map fun x => blockParcel x.2 (128 * b + 32 * x.1), integer := n.integer, sat := n.sat,
         pkts := [], dst } : Beat)
    let put := fun (s : State) (dst k : Nat) => s.putBeat (planeKey (2 + k) (portRouter n.p.val) 6) s.now (beat dst k)
    match if h.dmod = s.ownId then some (tag.core * 8 + 4) else s.awayExit h.dmod with
    | none => .next s.countUnroutable
    | some dst => .next (if 16 ≤ h.vmask then put (put s dst 0) dst 1 else put s dst 0)

/-! ## Symbols (R335 to R340) -/

/-- A symbol that has not been acknowledged within 64 block positions is sent again, at the next block boundary, and counted (R336, R337). -/
def execSymbolResend (p : Port) (s : State) : Host.Outcome State Fault Refusal :=
  let g := s.gport p.val
  match g.syms.find? fun y => y.sentAt.any fun t => decide (t + 64 ≤ g.blockNo) with
  | some y =>
    if g.state = 3 then
      .next (({ s with gl := { s.gl with retry := s.gl.retry + 1 } }).setPort p.val { g with
        syms := g.syms.map fun (z : SentSym) => if z.sseq = y.sseq then { z with sentAt := none } else z })
    else .next s
  | none => .next s

/-- ARRIVE from a child: its generation's barrier takes it, or keeps it for the next (R339, R340). -/
def execArrive (p : Port) (payload : BitVec 256) (s : State) : Host.Outcome State Fault Refusal :=
  let r := s.takeSym p.val payload 0x10
  let s := r.1
  let x := payload.toNat
  let ch := BitVec.ofNat 4 (bitsOf x 239 236)
  let k := s.cairnCh ch.toNat
  let gen := BitVec.ofNat 16 (bitsOf x 233 218)
  if !r.2 || !State.mwOn k || !(State.mwChildren k).contains p.val then .next s
  else if gen = k.gen then .next (s.childMark ch p.val (bitOf x 235) (bitOf x 234))
  else if gen = k.gen + 1 then
    .next (s.setCairn ch.toNat { k with childEarly := k.childEarly ++ [(p.val, bitOf x 235, bitOf x 234)] })
  else .next s

/-- RELEASE from the parent: forwarded to the children; its step S completes the barrier, or, when it has passed, the step after this one
(R339). -/
def execRelease (p : Port) (payload : BitVec 256) (s : State) : Host.Outcome State Fault Refusal :=
  let r := s.takeSym p.val payload 0x11
  let s := r.1
  let x := payload.toNat
  let ch := BitVec.ofNat 4 (bitsOf x 239 236)
  let k := s.cairnCh ch.toNat
  if !r.2 || !State.mwOn k || State.mwParent k ≠ some p.val || BitVec.ofNat 16 (bitsOf x 233 218) ≠ k.gen || k.release.isSome then .next s
  else
    let at_ := bitsOf x 217 154
    let late := decide (at_ ≤ s.now)
    let k := { k with
      fault := k.fault || bitOf x 235, abort := k.abort || bitOf x 234, release := some (if late then s.now + 1 else at_) }
    let s := { s with gl := { s.gl with lateRelease := if late then s.gl.lateRelease + 1 else s.gl.lateRelease } }
    .next ((s.setCairn ch.toNat k).sendRelease ch k at_)

/-! ## Starting in step (R344, R345) -/

/-- READY from a child: its subtree is placed (R345). -/
def execReady (p : Port) (payload : BitVec 256) (s : State) : Host.Outcome State Fault Refusal :=
  let r := s.takeSym p.val payload 0x20
  if r.2 then .next (r.1.setPort p.val { r.1.gport p.val with ready := true }).progressStart else .next r.1

/-- START on the upstream port: the counter becomes V + D, the target the system's, and START goes on to the children. At or after T_START the
module does not release its cores (R345). -/
def execStart (p : Port) (payload : BitVec 256) (s : State) : Host.Outcome State Fault Refusal :=
  let r := s.takeSym p.val payload 0x21
  let s := r.1
  if !r.2 || s.upstream ≠ some p.val then .next s
  else
    let x := payload.toNat
    let v := bitsOf x 175 112 * 64 + bitsOf x 111 106 + (s.gport p.val).delay.toNat
    let t := bitsOf x 239 176
    let target := bitsOf x 85 65
    let step := v / 64 % 2 ^ 64
    let late := decide (t ≤ step)
    let s := { s with
      pace := { s.pace with step, frac := BitVec.ofNat 6 v, target },
      gl := { s.gl with startLate := s.gl.startLate || late, tStart := if late then none else some t } }
    .next (s.sendStart t (bitsOf x 105 100 + 1) (bitsOf x 99 86) target)

/-- At T_START the module releases its cores (R345). -/
def execStartRelease (s : State) : Host.Outcome State Fault Refusal :=
  match s.gl.tStart with
  | some t => if t ≤ s.now ∧ s.gl.placed = true then .next s.releaseCores else .next s
  | none => .next s

/-- Every 65,536 steps an up port sends TIME; what it names of the counter, the peer's T1 and HOLD is taken as its block starts, `frac` into
its step (R335, R344). -/
def execTimeSend (p : Port) (frac : BitVec 6) (s : State) : Host.Outcome State Fault Refusal :=
  let n := p.val
  let g := s.gport n
  if g.state ≠ 3 ∨ s.now < g.lastTime + 65536 then .next s
  else
    let s := s.setPort n { g with lastTime := s.now }
    .next (s.sendSymOnce n 0x30
      (frac.toNat * 2 ^ 170 + s.masterId % 16384 * 2 ^ 54 + (if s.upstream = some n then 2 ^ 53 else 0) + s.syncState * 2 ^ 50))

/-- TIME arrives at local time t4: the link delay, the master that the partner names, and whether it is a child (R341, R342, R344). A partner that
is neither master nor in conflict and names 0x3FFF has seen no master (log 88). -/
def execTime (p : Port) (payload : BitVec 256) (t4 : W64) (t4frac : BitVec 6) (s : State) : Host.Outcome State Fault Refusal :=
  let n := p.val
  let g := s.gport n
  if !s.portUp n || !State.symOk payload 0x30 then .next s
  else
    let x := payload.toNat
    let at_ := t4.toNat * 64 + t4frac.toNat
    let echo := bitsOf x 169 106 * 64 + bitsOf x 105 100
    let rtt := at_ - echo - bitsOf x 99 68
    let state := bitsOf x 52 50
    .next (s.setPort n { g with
      peerT1 := bitsOf x 239 176 * 64 + bitsOf x 175 170, peerAt := at_,
      delay := if echo = 0 then g.delay else BitVec.ofNat 32 ((rtt + 1) / 2),
      master := if bitsOf x 67 54 = 0x3FFF ∧ state < 3 then 0xFFFF else BitVec.ofNat 16 (bitsOf x 67 54),
      child := bitOf x 53 })

/-- A non-master's pacer reference locks to its upstream port (R342). -/
def execSyncLock (s : State) : Host.Outcome State Fault Refusal :=
  if s.gl.sync = 1 ∧ s.isMaster = false then .next { s with gl := { s.gl with sync := 2 } } else .next s

/-! ## System-wide rates (R343) -/

/-- A rate-lowering request from a child: the master decides, the others send it up the start tree. -/
def execRateReq (p : Port) (payload : BitVec 256) (s : State) : Host.Outcome State Fault Refusal :=
  let r := s.takeSym p.val payload 0x40
  if !r.2 || !(r.1.startChildren.contains p.val) then .next r.1
  else if r.1.isMaster then .next r.1.masterRequest
  else match r.1.upstream with
    | some u => .next (r.1.sendSym u 0x40 (bitsOf payload.toNat 239 226 * 2 ^ 226))
    | none => .next r.1

/-- A RATE_SET from upstream: kept for its step S, and sent on to the children. -/
def execRateSet (p : Port) (payload : BitVec 256) (s : State) : Host.Outcome State Fault Refusal :=
  let r := s.takeSym p.val payload 0x41
  let s := r.1
  if !r.2 || s.upstream ≠ some p.val then .next s
  else
    let rate := bitsOf payload.toNat 239 219
    let at_ := bitsOf payload.toNat 218 155
    .next (({ s with gl := { s.gl with rateSets := s.gl.rateSets ++ [(rate, at_, false)] } }).sendRateSet rate at_)

/-- At its step S a rate of RATE_SET is in force (R343). -/
def execRateSetApply (s : State) : Host.Outcome State Fault Refusal :=
  match s.gl.rateSets with
  | (rate, at_, _) :: rest =>
    if at_ ≤ s.now then .next (({ s with gl := { s.gl with rateSets := rest } }).applyRate rate) else .next s
  | [] => .next s

/-! ## The reference (R341, R488) -/

/-- Does the module take its reference from REFIN: a master with GL_REF_SOURCE 1? -/
def State.usesRefin (s : State) : Bool := s.isMaster && decide (leNat (s.dictVal 0x500300 [0]) = 1)

/-- REFIN carries no edge for 10 µs: the master goes on with the on-module oscillator and asserts ALERT_N (R488). -/
def execRefinLoss (s : State) : Host.Outcome State Fault Refusal :=
  if s.usesRefin then .next (({ s with gl := { s.gl with refLost := true } }).alert .refin) else .next s

/-- Edges are back on REFIN: the reference is taken from it again, and this source of ALERT_N is gone (R341, R394; log 35). -/
def execRefinReturn (s : State) : Host.Outcome State Fault Refusal :=
  .next (({ s with gl := { s.gl with refLost := false } }).unalert .refin)

end Sys2Proof.Machine
end

