-- ==== Sys2Proof/Machine/Scalar.lean ====
section
/-! DEFINITION. NOP, the scalar instructions and the loads and stores of the sequencer (R176, R177, R179). -/

namespace Sys2Proof.Machine

/-- NOP does nothing. A word that is illegal is taken as NOP and raises fault 5 (R176). -/
def execNop (c : CoreId) (w : W64) (s : State) : Host.Outcome State Fault Refusal :=
  s.issue c (.nop c w) true (if w = 0 then s else s.coreFault c.toNat 5 (s.pcOf c.toNat))

/-- A scalar instruction: RD gets a value computed from the registers. -/
def State.scalar (s : State) (c : CoreId) (i : Instr) (rd : BitVec 4) (v : W64) : Host.Outcome State Fault Refusal :=
  s.issue c i true (s.setReg c.toNat rd v)

/-- RD = RA + B (R177). -/
def execAdd (c : CoreId) (f : Scalar) (s : State) : Host.Outcome State Fault Refusal :=
  let q := s.seq c.toNat
  s.scalar c (.add c f) f.rd (operandA q f + operandB q f)

/-- RD = RA − B (R177). -/
def execSub (c : CoreId) (f : Scalar) (s : State) : Host.Outcome State Fault Refusal :=
  let q := s.seq c.toNat
  s.scalar c (.sub c f) f.rd (operandA q f - operandB q f)

/-- RD = low 64 bits of RA × B (R177). -/
def execMul (c : CoreId) (f : Scalar) (s : State) : Host.Outcome State Fault Refusal :=
  let q := s.seq c.toNat
  s.scalar c (.mul c f) f.rd (operandA q f * operandB q f)

/-- RD = RA and B (R177). -/
def execAnd (c : CoreId) (f : Scalar) (s : State) : Host.Outcome State Fault Refusal :=
  let q := s.seq c.toNat
  s.scalar c (.and c f) f.rd (operandA q f &&& operandB q f)

/-- RD = RA or B (R177). -/
def execOr (c : CoreId) (f : Scalar) (s : State) : Host.Outcome State Fault Refusal :=
  let q := s.seq c.toNat
  s.scalar c (.or c f) f.rd (operandA q f ||| operandB q f)

/-- RD = RA shifted left by B mod 64 (R177). -/
def execShl (c : CoreId) (f : Scalar) (s : State) : Host.Outcome State Fault Refusal :=
  let q := s.seq c.toNat
  s.scalar c (.shl c f) f.rd (operandA q f <<< ((operandB q f).toNat % 64))

/-- RD = RA shifted right by B mod 64 (R177). -/
def execShr (c : CoreId) (f : Scalar) (s : State) : Host.Outcome State Fault Refusal :=
  let q := s.seq c.toNat
  s.scalar c (.shr c f) f.rd (shrResult f.var (operandA q f) (operandB q f))

/-- LDI (R177). -/
def execLdi (c : CoreId) (f : Scalar) (s : State) : Host.Outcome State Fault Refusal :=
  let q := s.seq c.toNat
  s.scalar c (.ldi c f) f.rd (ldiResult f.var (q.reg f.rd) f.imm32)

/-- LDS: the 8 bytes of the core-local space (R179). -/
def execLds (c : CoreId) (f : Scalar) (s : State) : Host.Outcome State Fault Refusal :=
  let q := s.seq c.toNat
  s.scalar c (.lds c f) f.rd (s.loadLocal c.toNat (localAddr q f) (s.controlReg c.toNat))

/-- STS: the 8 bytes are RD; in a bundle the value is held (R179, R194, R199). A write that the list hold has no room for waits
(R227). -/
def execSts (c : CoreId) (bm : Bool) (f : Scalar) (s : State) : Host.Outcome State Fault Refusal :=
  let q := s.seq c.toNat
  let a := localAddr q f
  let v := q.reg f.rd
  let effect :=
    if bm then
      if (s.bnd c.toNat).isOpen then s.addAction c.toNat (.sts a v) 1 else s.stray c.toNat
    else s.storeLocal c.toNat a v
  s.issue c (.sts c bm f) (bm || !s.storeStalls c.toNat a) effect

end Sys2Proof.Machine
end

