-- ==== Sys2Proof/Machine/Service.lean ====
section
/-! DEFINITION. The service protocol (R417 to R423) and the Logbook's records (R366 to R375): the gathering and forwarding of requests,
admission, the reading of results, signing, and FETCH. -/

namespace Sys2Proof.Machine

/-! ## Requests (R420, R421) -/

/-- A SUBMIT body. -/
structure SubmitMsg where
  reqId : W64
  svc : Byte
  target : Nat
  total : Nat
  off : Nat
  frag : List Byte
  deriving DecidableEq, Repr

/-- A SUBMIT body as laid out by R420; none where it is malformed. -/
def parseSubmit (b : List Byte) : Option SubmitMsg :=
  let frag := b.drop 20
  let total := fieldAt b 12 4
  let off := fieldAt b 16 4
  if b.length < 20 ∨ 1024 < frag.length ∨ total < off + frag.length then none
  else some { reqId := BitVec.ofNat 64 (fieldAt b 0 8), svc := b.getD 8 0, target := fieldAt b 10 2, total, off, frag }

/-- The bytes of a request from its fragments, none while some are missing (R421). -/
def assemble (total : Nat) (got : List (Nat × List Byte)) : Nat → List Byte → Option (List Byte)
  | 0, acc => if total ≤ acc.length then some (acc.take total) else none
  | fuel + 1, acc =>
    if total ≤ acc.length then some (acc.take total)
    else match got.find? fun p => decide (p.1 ≤ acc.length ∧ acc.length < p.1 + p.2.length) with
      | none => none
      | some p => assemble total got fuel (acc ++ p.2.drop (acc.length - p.1))

/-- Are two requests the same: the REQ_ID of one session, or of one origin module (R412, R423)? -/
def Req.same (a b : Req) : Bool := a.sid = b.sid && a.reqId = b.reqId && a.origin = b.origin

namespace State

/-- Is a request pending: waiting or being admitted, open, being read, or waiting for its record's signature (R412)? -/
def reqPending (s : State) (r : Req) : Bool :=
  (s.svc.waiting.any r.same) || (s.log.open_.any fun x => x.2.any fun o => r.same o.req) || (s.log.signq.any fun u => r.same u.kept.req) ||
    (s.svc.fwd.any fun x => x.2 && r.same x.1) || (s.svc.adm.any fun a => r.same a.req) || s.svc.taking.any fun u => r.same u.kept.req

/-- Bytes that the service buffers hold (R400, R421). -/
def buffered (s : State) : Nat := (s.svc.waiting.map fun r => r.total).sum + (s.svc.adm.map fun a => a.req.total).sum + (s.svc.frags.map fun g => g.req.total).sum

/-- The code that a fragment of a request for this module is refused with (R412, R421, R367, R455). -/
def submitCheck (s : State) (r : Req) : Option W16 :=
  if s.fwBusy then some 0x0304
  else match s.serviceAt r.svc with
    | none => some 0x0303
    | some v =>
      if countEnd ≤ s.log.count ∧ epochLast ≤ s.log.epoch then some 0x0303
      else if v.inMax < r.total then some 0x0203
      else if s.svc.frags.any fun g => r.same g.req then none
      else if s.reqPending r then some 0x0204
      else if 2 ^ 30 < s.buffered + r.total then some 0x0302
      else none

/-- A fragment joins its request, which waits for admission once it is whole (R421). -/
def gatherReq (s : State) (r : Req) (off : Nat) (frag : List Byte) : State :=
  let g := (s.svc.frags.find? fun g => r.same g.req).getD { req := r, got := [] }
  let g := { g with got := g.got ++ [(off, frag)] }
  let rest := s.svc.frags.filter fun x => !r.same x.req
  match assemble g.req.total g.got g.got.length [] with
  | some data => { s with svc := { s.svc with frags := rest, waiting := s.svc.waiting ++ [{ g.req with data }] } }
  | none => { s with svc := { s.svc with frags := rest ++ [g] } }

/-- RETRY_AFTER of 0x0302: its value is open (R411). -/
def busyRetry (s : State) : Nat := ((Config.freeWord s.free).truncate 16).toNat

/-- A fragment for this module: refused with a reply, or gathered. -/
def submitHere (s : State) (r : Req) (off : Nat) (frag : List Byte) : State :=
  match s.submitCheck r with
  | some code => if code = 0x0302 then (s.draw).replyTo r code 0 s.busyRetry else s.replyTo r code 0 0
  | none => s.gatherReq r off frag

/-- A fragment for another module goes on as SERVICE flits (R423). -/
def submitForward (s : State) (r : Req) (m : SubmitMsg) : State :=
  if s.fwBusy then s.replyTo r 0x0304 0 0
  else
    let known := s.svc.fwd.any fun x => x.2 && r.same x.1
    if !known && s.reqPending r then s.replyTo r 0x0204 0 0
    else
      let s := if known then s else { s with svc := { s.svc with fwd := s.svc.fwd ++ [(r, true)] } }
      s.sendServicePieces (m.target % 16384) 1 m.reqId s.ownId m.svc 0 0 m.total m.off m.frag

/-! ## Messages on port 48231 (R416, R420, R483) -/

/-- A service message: dropped, answered with 0x0301 before Basecamp is ready, refused by role or encryption, or accepted with its session
and body. -/
def serviceIn (s : State) (peer : Peer) (m : Msg) : State × Option (Session × List Byte) :=
  let reqId : W64 := BitVec.ofNat 64 (fieldAt m.body 0 8)
  if !s.rng.baseReady then
    let retry := s.retryUntil 6000
    match s.accept m true with
    | (s, some (k, b)) => (s.sendService k.sid peer 0x21 (submitReplyBody (BitVec.ofNat 64 (fieldAt b 0 8)) 0x0301 0 retry), none)
    | (s, none) => (s.sendPlain peer portService 0x21 m.mseq (submitReplyBody reqId 0x0301 0 retry), none)
  else match s.accept m true with
    | (s, none) => (s, none)
    | (s, some (k, b)) =>
      let id : W64 := BitVec.ofNat 64 (fieldAt b 0 8)
      if k.role = .vendor then (s.sendService k.sid peer 0x21 (submitReplyBody id 0x0101 0 0), none)
      else if s.encRequired ∧ m.enc = false then (s.sendService k.sid peer 0x21 (submitReplyBody id 0x0106 0 0), none)
      else (s, some (k, b))

/-- A datagram on port 48231 of one type: dropped before 150 ms, while the receive buffer holds 192, and where it is no such message (R407,
R416, R483). -/
def serviceMsg (s : State) (typ : Byte) (bytes : List Byte) : Option Msg :=
  if s.rng.boot ≠ .running ∨ s.rng.level = 0 ∨ 192 ≤ s.rng.rxq.length then none
  else match parseMsg bytes with
    | some m => if m.typ = typ then some m else none
    | none => none

end State

/-- SUBMIT (R420, R421, R423). -/
def execSubmit (peer : Peer) (bytes : List Byte) (s : State) : Host.Outcome State Fault Refusal :=
  match s.serviceMsg 0x20 bytes with
  | none => .next s
  | some m =>
    match s.serviceIn peer m with
    | (s, none) => .next s
    | (s, some (k, body)) =>
      match parseSubmit body with
      | none => .next s
      | some q =>
        let r : Req := { sid := k.sid, peer, reqId := q.reqId, svc := q.svc, total := q.total, data := [],
                         origin := BitVec.ofNat 14 s.ownId, since := s.nowMs }
        .next (if q.target = 0xFFFF ∨ q.target = s.ownId then s.submitHere r q.off q.frag else s.submitForward r q)

/-- Fragments that are not complete within 1 s are discarded (R421). -/
def execSubmitFragmentTimeout (sid : W32) (reqId : W64) (s : State) : Host.Outcome State Fault Refusal :=
  .next { s with svc := { s.svc with frags := s.svc.frags.filter fun g =>
    !(g.req.sid = sid && g.req.reqId = reqId && decide (g.req.since + 1000 ≤ s.nowMs)) } }

/-! ## SERVICE flits (R334, R423) -/

/-- A client's sender of requests that come from another module. -/
def noPeer : Peer := { ip := 0, port := 0, mac := 0 }

namespace State

/-- A result or reply returns to the client of a forwarded request, unchanged (R423). -/
def serviceBack (s : State) (kind : Nat) (head frag : List Byte) : State :=
  let reqId : W64 := BitVec.ofNat 64 (fieldAt head 1 8)
  let total := fieldAt head 12 4
  let off := fieldAt head 16 4
  let seq : W64 := BitVec.ofNat 64 (fieldAt head 20 8)
  let status : W16 := BitVec.ofNat 16 (fieldAt head 28 2)
  match (s.svc.fwd.filter fun x => x.1.reqId = reqId).head? with
  | none => s
  | some (r, _) =>
    let others := s.svc.fwd.filter fun x => !r.same x.1
    if kind = 3 then
      let s := if status = 0 then s else { s with svc := { s.svc with fwd := others } }
      s.sendService r.sid r.peer 0x21 (submitReplyBody reqId status seq 0)
    else
      let done := decide (total ≤ off + frag.length)
      let s := if done then { s with svc := { s.svc with fwd := others ++ [(r, false)] } } else s
      s.sendService r.sid r.peer 0x22 (resultBody reqId seq status total off frag)

end State

/-- A SERVICE flit that a port has delivered: a request is gathered as this module's own; a result or reply goes to the client (R334,
R423). -/
def execService (p : Port) (s : State) : Host.Outcome State Fault Refusal :=
  match s.takeFlit p.val 6 with
  | none => .next s
  | some (h, bs, s) =>
    let ps := (flitParcels h bs).map fun x => parcelBytes x.2.2.data
    let head := ps.headD []
    let kind := fieldAt head 0 1
    let total := fieldAt head 12 4
    let off := fieldAt head 16 4
    let left := if off < total then total - off else if ps.length ≤ 1 then 0 else total + 320 - off
    let frag := ((ps.drop 1).flatten).take (min 224 left)
    if !s.rng.baseReady then .next s
    else if kind = 1 then
      let r : Req := { sid := 0, peer := noPeer, reqId := BitVec.ofNat 64 (fieldAt head 1 8), svc := head.getD 11 0, total, data := [],
                       origin := BitVec.ofNat 14 (fieldAt head 9 2), since := s.nowMs }
      .next (s.submitHere r off frag)
    else if kind = 2 ∨ kind = 3 then .next (s.serviceBack kind head frag)
    else .next s

/-! ## Admission (R367, R368, R371, R373, R418, R421) -/

/-- Does a pack schedule service slots: does router (2, 0) take beats from its EDGE input on a plane of ports (R250, R419)? -/
def serviceSlots (p : List Byte) : Bool :=
  (slotRecs p).any fun r => r.router = portRouter 0 && decide (2 ≤ r.plane) && (List.range r.entries.length).any fun j => takesFrom r 6 j

namespace State

/-- The first request that waits for a channel. -/
def nextFor (s : State) (ch : BitVec 4) : Option (Req × SvcRec) :=
  s.svc.waiting.findSome? fun r => match s.serviceAt r.svc with
    | some v => if v.ch = ch then some (r, v) else none
    | none => none

/-- Signatures that wait or are still to be asked for (R375). -/
def toSign (s : State) : Nat := s.log.signq.length + (s.svc.taking.filter fun t => t.mode = 2).length

/-- May a channel take a request: a pack runs with service slots, the channel admits no other, its result is closed, no update holds
admission, and the signing queue has room (R368, R375, R419, R421)? -/
def mayAdmit (s : State) (ch : BitVec 4) : Bool :=
  s.isRunning && s.rng.baseReady && !s.fwBusy && serviceSlots s.pack.installed && (Sparse.get none s.log.open_ ch.toNat).isNone &&
    (s.svc.adm.all fun a => a.ch ≠ ch) && decide (s.toSign < 256)

/-- Does a request's place in the list hold have room (R227)? -/
def slotRoom (s : State) (r : Req) (v : SvcRec) : Bool :=
  (List.range (r.data.length / 32 + 2)).all fun i => !s.holdFull (v.input + 32 * i)

/-- Does an admission wait for a new epoch: one that could begin, or a header that is still to be written (R367)? -/
def epochWaits (s : State) : Bool :=
  s.log.count = countEnd &&
    (((List.range 15).any fun i => (s.nextFor (BitVec.ofNat 4 i)).isSome && s.mayAdmit (BitVec.ofNat 4 i)) ||
      s.svc.adm.any fun a => a.seq.isNone && decide (a.left = 0))

end State

/-- A channel that is free begins to admit its first waiting request; past the counter's end it waits for a new epoch, as a header does whose
data has landed meanwhile (R367, R421). The admission step is that of the header's landing. -/
def execAdmission (ch : BitVec 4) (s : State) : Host.Outcome State Fault Refusal :=
  match s.svc.adm.find? fun a => a.ch = ch with
  | some a => if a.seq.isNone && decide (a.left = 0) then .next (s.sendHeader a) else .next s
  | none =>
    match s.nextFor ch with
    | none => .next s
    | some (r, v) =>
      if s.mayAdmit ch && decide (s.log.count < countEnd) && s.slotRoom r v then .next (s.beginAdmission r v) else .next s

/-- An admission that waits for a new epoch: the epoch's store begins, or its hold-up check refuses and it is tried a second later, with
ALERT_N asserted (R367). -/
def execEpochRollover (h : Holdup) (s : State) : Host.Outcome State Fault Refusal :=
  if s.epochWaits && decide (s.log.epoch < epochLast ∧ s.log.retryAt ≤ s.nowMs) && s.listening && s.rng.store.isNone then
    match (s.alert .epochWait).holdCheck h needParam with
    | (s, some _) => .next { s with log := { s.log with retryAt := s.nowMs + 1000 } }
    | (s, none) => .next (s.beginStore .epochRoll .nobody)
  else .next s

/-! ## Results (R374, R375, R422) -/

/-- At a step that is a multiple of 4,096 the front end reads the output header of an open result; the result is taken where the read finds
its SEQ (R418, R422). -/
def execOutputHeaderPoll (ch : BitVec 4) (s : State) : Host.Outcome State Fault Refusal :=
  match Sparse.get none s.log.open_ ch.toNat with
  | none => .next s
  | some o =>
    match s.serviceAt o.req.svc with
    | none => .next s
    | some v => if s.now % 4096 ≠ 0 then .next s else .next (s.slotAsk ch 0 o.seq v.output)

/-- Of two records that wait, the one with the lower SEQ. -/
def lowerSeq (u v : Unsigned) : Unsigned := if v.kept.seq < u.kept.seq then v else u

/-- The waiting record with the lowest SEQ is signed by the attestation key, and its result goes out (R374, R375, R483). -/
def execRecordSign (s : State) : Host.Outcome State Fault Refusal :=
  match s.log.signq with
  | [] => .next s
  | u :: rest =>
    let u := rest.foldl lowerSeq u
    let sig := Config.sm2Sign 1 (u.record.take 0x100) s.free
    let s := ({ s with log := { s.log with signq := s.log.signq.erase u } }).draw
    .next (s.sendResult { u.kept with record := u.record.take 0x100 ++ beBytes 64 sig.toNat })

/-- FETCH sends every fragment of a kept result again; a request that is neither kept nor pending has no answer but 0x0303 (R422, R476). -/
def execFetch (peer : Peer) (bytes : List Byte) (s : State) : Host.Outcome State Fault Refusal :=
  match s.serviceMsg 0x23 bytes with
  | none => .next s
  | some m =>
    match s.serviceIn peer m with
    | (s, none) => .next s
    | (s, some (k, body)) =>
      if body.length < 8 then .next s
      else
        let r : Req := { sid := k.sid, peer, reqId := BitVec.ofNat 64 (fieldAt body 0 8), svc := 0, total := 0, data := [],
                         origin := BitVec.ofNat 14 s.ownId, since := 0 }
        match s.svc.kept.find? fun x => r.same x.req && decide (s.nowMs < x.closed + 10000) with
        | some x => .next (s.resultTo { x.req with peer } x.seq x.status x.data x.record)
        | none => .next (if s.reqPending r then s else s.replyTo r 0x0303 0 0)

/-- 10 s after the close a result's fragments are kept no longer (R422). -/
def execFetchWindowExpiry (sid : W32) (reqId : W64) (s : State) : Host.Outcome State Fault Refusal :=
  .next { s with svc := { s.svc with
    kept := s.svc.kept.filter fun x => !(x.req.sid = sid && x.req.reqId = reqId && decide (x.closed + 10000 ≤ s.nowMs)),
    fwd := s.svc.fwd.filter fun x => !(!x.2 && x.1.sid = sid && x.1.reqId = reqId && decide (x.1.since + 10000 ≤ s.nowMs)) } }

end Sys2Proof.Machine
end

