-- ==== Sys2Proof/Machine/TestPort.lean ====
section
/-! DEFINITION. The test port (R484, R496, R497), what the contacts show (R394, R395, R487, R494), and the management port's link and replies
below UDP (R405, R406). -/

namespace Sys2Proof.Machine

/-! ## The test port (R496, R497) -/

/-- Instruction codes. -/
def tapExtest : Byte := 0x00
def tapIdcode : Byte := 0x01
def tapSample : Byte := 0x02
def tapClamp : Byte := 0x03
def tapTrace : Byte := 0x20
def tapBypass : Byte := 0xFF

/-- The data registers. -/
inductive TapReg where
  | boundary | idcode | bypass | trace
  deriving DecidableEq, Repr

/-- The identification register (*Table: Test-port instructions*). -/
def idcodeValue : W32 := 0x150A156B

namespace State

/-- The instruction that the one in the register acts as: EXTEST and CLAMP only while MOD_RESET_N is low (R497), and every code of no
instruction as BYPASS (R496). -/
def tapActs (s : State) : Byte :=
  let i := s.tap.ir
  if i = tapExtest then (if s.pwr.modResetLow then tapExtest else tapSample)
  else if i = tapClamp then (if s.pwr.modResetLow then tapClamp else tapBypass)
  else if i = tapIdcode ∨ i = tapSample ∨ i = tapTrace then i
  else tapBypass

/-- Does the boundary register drive the contacts (R497)? -/
def tapDrives (s : State) : Bool := s.tapActs = tapExtest || s.tapActs = tapClamp

/-- The data register that the instruction selects (R496). -/
def tapReg (s : State) : TapReg :=
  let i := s.tapActs
  if i = tapIdcode then .idcode else if i = tapExtest ∨ i = tapSample then .boundary else if i = tapTrace then .trace else .bypass

/-- The TRACE register as it reads (R484). -/
def traceReg (s : State) : Byte := BitVec.ofNat 8 (bn s.tap.traceEn + 2 * bn s.tap.active + 4 * bn s.tap.denied)

/-- An instruction enters the register; the test port runs on the D0 rails. -/
def tapLoad (s : State) (i : Byte) : State := if s.pwr.phase = .good then { s with tap := { s.tap with ir := i } } else s

/-! ## What the contacts show -/

/-- ALERT_N asserted: some source remains (R394). -/
def alertN (s : State) : Bool := !s.rng.alerts.isEmpty

/-- PWR_GOOD. -/
def pwrGood (s : State) : Bool := s.pwr.phase = .good

end State

/-- How AUX0 is driven. -/
inductive AuxDrive where
  | highZ | high | low | pwm (duty : Nat) | traceClock
  deriving DecidableEq, Repr

/-- AUX0 (R494): the valve's PWM, its duty in thousandths of a percent, or the trace clock. -/
def State.aux0 (s : State) : AuxDrive :=
  if s.pwr.phase ≠ .good then .highZ
  else if s.cool.owner = 1 then (if s.tap.active then .traceClock else .highZ)
  else if s.cool.first || s.rng.restarting || s.pwr.thermTrip || decide (100000 ≤ s.cool.duty) then .high
  else if s.cool.duty ≤ 0 then .low
  else .pwm s.cool.duty.toNat

/-- EXTEST (R497). -/
def execExtest (s : State) : Host.Outcome State Fault Refusal := .next (s.tapLoad tapExtest)

/-- IDCODE (R496). -/
def execIdcode (s : State) : Host.Outcome State Fault Refusal := .next (s.tapLoad tapIdcode)

/-- SAMPLE/PRELOAD: the boundary register takes the cells (R496). -/
def execSamplePreload (cells : BitVec 22) (s : State) : Host.Outcome State Fault Refusal :=
  let s' := s.tapLoad tapSample
  .next (if s.pwr.phase = .good then { s' with tap := { s'.tap with boundary := cells } } else s')

/-- CLAMP (R497). -/
def execClamp (s : State) : Host.Outcome State Fault Refusal := .next (s.tapLoad tapClamp)

/-- TRACE (R496). -/
def execTrace (s : State) : Host.Outcome State Fault Refusal := .next (s.tapLoad tapTrace)

/-- BYPASS (R496). -/
def execBypass (s : State) : Host.Outcome State Fault Refusal := .next (s.tapLoad tapBypass)

/-- A write of TRACE_EN, while TRACE selects its register: 1 starts the trace where the tray owns the valve, else it is denied; 0 stops
it (R484). -/
def execTraceEnWrite (v : Byte) (s : State) : Host.Outcome State Fault Refusal :=
  if s.pwr.phase ≠ .good ∨ s.tapReg ≠ .trace then .next s
  else if v.getLsbD 0 then
    let own := s.trayValve
    .next { s with tap := { s.tap with traceEn := true, active := own, denied := s.tap.denied || !own } }
  else .next { s with tap := { s.tap with traceEn := false, active := false, denied := false } }

/-- Test-logic reset selects IDCODE and resets TRACE (R484, R496). -/
def execTestLogicReset (s : State) : Host.Outcome State Fault Refusal :=
  .next { s with tap := { s.tap with ir := tapIdcode, traceEn := false, active := false, denied := false } }

/-! ## The management port below UDP (R405, R406) -/

/-- The link comes up, as 25GBASE-KR or -CR (R405). -/
def execMgmtLinkUp (cr : Bool) (s : State) : Host.Outcome State Fault Refusal :=
  .next (if s.pwr.phase = .good then { s with rng := { s.rng with mgmtLink := if cr then 2 else 1 } } else s)

/-- The link is lost (R405). -/
def execMgmtLinkDown (s : State) : Host.Outcome State Fault Refusal := .next { s with rng := { s.rng with mgmtLink := 0 } }

namespace State

/-- Does the port answer ARP, neighbour discovery and echo: from 150 ms on, and in the recovery loader (R416, R458)? -/
def answers (s : State) : Bool := decide (s.pwr.phase = .good) && (s.rng.boot = .recovery || (s.rng.boot = .running && s.rng.level ≠ 0))

/-- The IPv6 link-local address of the MAC address, with the interface identifier in the modified EUI-64 form (R406; log 44). -/
def linkLocal (s : State) : BitVec 128 :=
  let m := s.fuses.mac.toNat ^^^ 0x020000000000
  BitVec.ofNat 128 (0xFE80 * 2 ^ 112 + m / 2 ^ 24 * 2 ^ 40 + 0xFFFE * 2 ^ 24 + m % 2 ^ 24)

/-- Is it this module's IPv4 address, where it has one (R406)? -/
def ownV4 (s : State) (a : W32) : Bool := decide (a ≠ 0) && decide (leNat s.rng.ipv4 = a.toNat)

/-- Is it one of this module's IPv6 addresses (R406)? -/
def ownV6 (s : State) (a : BitVec 128) : Bool := decide (a = s.linkLocal) || (decide (a ≠ 0) && decide (beNat s.rng.ipv6 = a.toNat))

end State

/-- An ARP request for this module's address is answered (R406). -/
def execArpRequest (peer : Peer) (target : W32) (s : State) : Host.Outcome State Fault Refusal :=
  .next (if s.answers && s.ownV4 target then s.emit (.arp peer) else s)

/-- An echo request to one of this module's addresses is answered with its data (R406). -/
def execEchoRequest (peer : Peer) (v6 : Bool) (target : BitVec 128) (data : List Byte) (s : State) : Host.Outcome State Fault Refusal :=
  .next (if s.answers && (if v6 then s.ownV6 target else s.ownV4 (target.truncate 32)) then s.emit (.echo peer data) else s)

/-- A neighbour solicitation for one of this module's IPv6 addresses is answered (R406). -/
def execNeighbourSolicitation (peer : Peer) (target : BitVec 128) (s : State) : Host.Outcome State Fault Refusal :=
  .next (if s.answers && s.ownV6 target then s.emit (.neighbour peer) else s)

end Sys2Proof.Machine
end

