-- ==== Sys2Proof/Machine/VecOps.lean ====
section
/-! DEFINITION. The arithmetic and the inputs of the vector path (05): chunk sums (R142 to R146), local folds (R148), CS16 streams (R67 to
R69, R158), vector parameter records (R177) and activation banks (R140, R141). -/

namespace Sys2Proof.Machine

/-! ## Chunk sums -/

/-- A chunk sum on its way: the exact sum and its marks (R143, R146). -/
structure CSum where
  sum : Int := 0
  nonfin : Bool := false
  poison : Bool := false
  deriving DecidableEq, Repr

/-- The pieces of an operand on the activation side (R28). -/
def actPieces (et : Nat) (x : Num) : List Num := (List.range (pieceCount et)).map fun k => actPiece et k x

/-- The pieces of an operand on the weight side: those of R29 for a 16-bit type, else those of R28 (log 25). -/
def weightPieces (et : Nat) (x : Num) : List Num :=
  if is16Bit et then [weightPiece et false x, weightPiece et true x] else actPieces et x

/-- One product of a chunk, piece by piece (R143); a zero activation forms none (R20, R77), its mark counts (R503). A weight of zero is used, so
a non-finite activation counts beside it (R21). -/
def CSum.add (a : CSum) (integer : Bool) (e : Int) (at_ wt : Nat) (x w : Elem) : CSum :=
  let poison := a.poison || x.poison || w.poison
  if Num.isZero x.v then { a with poison }
  else if Num.isNonFin x.v || Num.isNonFin w.v then { a with poison, nonfin := true }
  else
    let ps := (actPieces at_ x.v).flatMap fun p => (weightPieces wt w.v).map fun r => alignedProduct integer e p r
    { a with poison, sum := a.sum + ps.sum }

/-- A chunk result with its saturation mark, whether its residue differs, and whether a non-finite operand took part (R21, R22, R26,
R145, R146). -/
def CSum.result (a : CSum) (integer : Bool) (e c : Int) (mark : Bool) : VRes × Bool × Bool × Bool :=
  let reg := (BitVec.ofInt 48 a.sum).toInt
  if a.nonfin then ({ v := { hi := canonNaN, lo := 0 }, poison := a.poison || mark }, false, false, true)
  else if reg % 7 ≠ a.sum % 7 then ({ v := {}, poison := true }, false, true, false)
  else
    let r := convertSum integer reg e c
    ({ v := r.1, poison := a.poison || mark }, r.2, false, false)

/-- The largest ε among elements, none where none is finite and non-zero (R142, R144). -/
def maxEps (xs : List Num) : Option Int :=
  xs.foldl (fun m x =>
    match m, Num.eps x with
    | none, y => y
    | some a, some b => some (max a b)
    | m, none => m) none

/-- E = A + B + 6 (R144); it has no effect where a side has no finite non-zero operand. -/
def chunkE (a b : List Num) : Int := (maxEps a).getD 0 + (maxEps b).getD 0 + 6

/-- The local fold of R148 by the tree of R114, with its saturation mark: values newest first with the count of chunks before. -/
def treeFold (integer : Bool) (xs : List VRes) : VRes × Bool :=
  let join := fun (a b : VRes) => let r := combineElem integer a.v b.v; (({ v := r.1, poison := a.poison || b.poison } : VRes), r.2)
  let rec up (fuel c : Nat) (st : List VRes) (sat : Bool) : List VRes × Bool :=
    match fuel, st with
    | f + 1, b :: a :: r => if c % 2 = 0 then up f (c / 2) ((join a b).1 :: r) (sat || (join a b).2) else (st, sat)
    | _, _ => (st, sat)
  let r := xs.foldl (fun x v => let y := up 16 (x.1 + 1) (v :: x.2.1) x.2.2; (x.1 + 1, y)) ((0 : Nat), ([] : List VRes), false)
  match r.2.1 with
  | [] => (VRes.zero, false)
  | v :: rest => rest.foldl (fun x y => ((join y x.1).1, x.2 || (join y x.1).2)) (v, r.2.2)

/-! ## CS16 streams -/

/-- A CS16 stream as read up to a capacity: its entries, whether a violation of R69 arose, whether it holds more entries than the
capacity (R158), the SEGNO of each segment header, and the offset after its last parcel. -/
structure CSRead where
  items : List CSItem := []
  bad : Bool := false
  overCap : Bool := false
  heads : List Nat := []
  after : Nat := 0
  deriving DecidableEq, Repr

/-- The value width at the head of a stream's values. -/
def csValue (s : State) (c voff : Nat) (bit : Nat) (et : Nat) : Nat × Bool :=
  let b := elemBits et
  let bs := (s.coreBytes c (voff + bit / 8) ((b + 7) / 8)).1
  let x := leNat (bs.map (·.1))
  (if b = 4 then (x >>> (bit % 8)) % 16 else x, bs.any (·.2))

/-- The segments of an index stream at off (R67, R68): fuel bounds their number by what a core store holds. prevSeg is the last SEGNO,
count the entries before. Equal indices of a segment are a violation of R69 but in the ids of the gather form, where `repeats` holds
(R156; log 78). -/
def csSegments (s : State) (c : Nat) (repeats : Bool) (cap : Option Nat) :
    Nat → Nat → Option Nat → Nat → List (Nat × Nat) → List Nat →
    List (Nat × Nat) × Bool × Bool × List Nat × Nat
  | 0, off, _, _, acc, hs => (acc.reverse, true, false, hs.reverse, off)
  | fuel + 1, off, prevSeg, count, acc, hs =>
    let h := s.coreBytes c off 8
    let w := leNat (h.1.map (·.1))
    let n := bitsOf w 48 32
    let seg := bitsOf w 31 0
    let malformed := h.1.any (·.2) || bitsOf w 63 57 ≠ 0 || bitsOf w 51 49 ≠ 0 || decide (65536 < n) ||
      prevSeg.elim false fun p => decide (seg ≤ p)
    if malformed then (acc.reverse, true, false, hs.reverse, off)
    else
      let room := cap.elim n fun k => min n (k - count)
      let raw := (s.coreBytes c (off + 8) (2 * room)).1
      let idx := (List.range room).map fun i =>
        let b := (raw.drop (2 * i)).take 2
        (leNat (b.map (·.1)), b.any (·.2))
      let good := (idx.zip ((none : Option Nat) :: idx.map fun x => some x.1)).takeWhile fun x =>
        !x.1.2 && x.2.elim true fun p => decide (p < x.1.1 ∨ (repeats = true ∧ p = x.1.1))
      let acc' := (good.map fun x => (seg * 65536 + x.1.1, bitsOf w 55 52)).reverse ++ acc
      let hs := seg :: hs
      let next := off + 8 + (2 * n + 7) / 8 * 8
      if good.length < room then (acc'.reverse, true, false, hs.reverse, next)
      else if room < n then (acc'.reverse, false, true, hs.reverse, next)
      else if bitOf w 56 then (acc'.reverse, false, false, hs.reverse, next)
      else csSegments s c repeats cap fuel next (some seg) (count + n) acc' hs

/-- A CS16 stream: its values follow its index stream at the next parcel where the instruction gives no offset for them (log 26). A core
store holds no more than 32,768 segments. -/
def readCS (s : State) (c off : Nat) (voff : Option Nat) (values repeats : Bool) (cap : Option Nat) : CSRead :=
  let r := csSegments s c repeats cap 32768 off none 0 [] []
  let after := (r.2.2.2.2 + 31) / 32 * 32
  let v0 := voff.getD after
  let vals := (r.1.foldl (fun (x : Nat × List (CSItem × Bool)) p =>
      let v := if values then csValue s c v0 x.1 p.2 else (0, false)
      (x.1 + elemBits p.2, (({ idx := p.1, val := v.1, etype := p.2 } : CSItem), v.2) :: x.2)) (0, [])).2.reverse
  let ok := vals.takeWhile fun x => !x.2
  { items := ok.map (·.1), bad := r.2.1 || decide (ok.length < vals.length), overCap := r.2.2.1, heads := r.2.2.2.1, after }

/-- A DW value from its 64 bits (R11). -/
def dwOf (x : Nat) : DW := { hi := BitVec.ofNat 32 x, lo := BitVec.ofNat 32 (x / 2 ^ 32) }

/-- The element that an item's value is. -/
def CSItem.elem (i : CSItem) : Elem :=
  { v := if i.etype = 11 then fp32 (dwRound (dwOf i.val)) else decodeNum i.etype i.val, poison := false }

/-! ## Parameter records and banks -/

/-- The vector parameter record at a core-store offset (R177), whether a parcel of it is poisoned, and the poisoned errors that arise. -/
def State.vparam (s : State) (c off : Nat) : VParam × Bool × Nat :=
  let q := s.coreBytes c (off / 64 * 64) 64
  let r := q.1
  let b := r.map (·.1)
  let addr := fun o => fieldAt b o 4 % 2 ^ 18
  ({ block := addr 0x00, astride := fieldAt b 0x04 2, t := fieldAt b 0x06 1, etype := fieldAt b 0x07 1 % 16, k := fieldAt b 0x08 4,
     n := fieldAt b 0x0C 2, waddr := addr 0x10, wstride := fieldAt b 0x14 4, capA := fieldAt b 0x18 4, capB := fieldAt b 0x1C 4,
     outA := addr 0x20, outB := addr 0x24, elem := fieldAt b 0x28 2, scale := fieldAt b 0x2A 1, layer := fieldAt b 0x2B 1,
     bmax := fieldAt b 0x2C 2, g := fieldAt b 0x2E 2, rank := fieldAt b 0x30 2, block2 := addr 0x34 }, r.any (·.2), q.2)

/-- The table descriptor's index is the low half of WADDR (R177). -/
def VParam.desc (p : VParam) : Nat := p.waddr % 65536

/-- What a bank must hold for an instruction: (address, T, K, type, sampled) (R140, R141). -/
def bankNeed (k : VKind) (p : VParam) (second : Bool) : Option (Nat × Nat × Nat × Nat × Bool) :=
  match k, second with
  | .mvd, false | .mvsRow, false | .sct, false => some (p.block, p.t, p.k, p.etype, false)
  | .isxSampled, false => some (p.block, 64, p.k, p.etype, true)
  | .isxSampled, true => some (p.block2, 64, p.n, p.etype, true)
  | _, _ => none

/-- Tiles of a bank's block: 64 positions each, or 64 features each in the sampled form. -/
def Bank.tiles (b : Bank) : Nat := min ((b.k + 63) / 64) 256

/-- The activation tiles of a bank's block. -/
def State.bankTiles (s : State) (c : Nat) (b : Bank) : List ActTile :=
  (List.range b.tiles).map fun u => s.actTile c (b.addr + u * b.astride * 32)

/-- The elements of a bank from its tiles (R140). -/
def bankElems (b : Bank) (tiles : List ActTile) : SMap Elem :=
  if b.sampled then
    (enumFrom0 tiles).flatMap fun x => (List.range 64).flatMap fun r => (List.range 64).filterMap fun f =>
      let e := x.2.at_ r f
      if e = Elem.zero then none else some ((64 * x.1 + r) * 65536 + f, e)
  else
    (List.range (min b.t 64)).flatMap fun t => (enumFrom0 tiles).flatMap fun x => (List.range 64).filterMap fun f =>
      let e := x.2.at_ t f
      if e = Elem.zero then none else some (t * 65536 + 64 * x.1 + f, e)

/-- Element (row, position) of a bank. -/
def Bank.at_ (b : Bank) (row pos : Nat) : Elem := Sparse.get Elem.zero b.elems (row * 65536 + pos)

def Vec.bank (v : Vec) (n : Nat) : Option Bank := if n = 1 then v.bankA else if n = 2 then v.bankB else none

/-- Is a bank free: does no instruction use it (R141)? One whose work is done uses its blocks until its last sweep ends. -/
def Vec.bankFree (v : Vec) (n now : Nat) : Bool := v.q.all fun x => (x.workDone && x.due ≤ now) || (x.bank ≠ n && x.bankB ≠ n)

/-- Does a bank hold the block (R141)? -/
def Bank.holds (b : Bank) (x : Nat × Nat × Nat × Nat × Bool) : Bool :=
  b.addr = x.1 && b.t = x.2.1 && b.k = x.2.2.1 && b.etype = x.2.2.2.1 && b.sampled = x.2.2.2.2

/-- Chunk exponent A_c of a bank's row over 64 positions (R142). -/
def Bank.chunkA (b : Bank) (row lo : Nat) : Option Int := maxEps ((List.range 64).map fun i => (b.at_ row (lo + i)).v)

namespace State

/-- Results of the vector path that need a count: residue mismatches and non-finite operands (R21, R146). -/
def vecCounts (s : State) (c bad nonfin : Nat) : State :=
  let v := s.vec c
  let s := ((s.setVec c { v with resErr := v.resErr + bad }).countPoison c bad).countNonfin c nonfin
  { s with sums := { s.sums with reserr := s.sums.reserr + bad } }

/-- A capacity violation (R158). -/
def capViolation (s : State) (c : Nat) : State :=
  let v := s.vec c
  (s.setVec c { v with capViol := v.capViol + 1 }).countPoison c 1

/-- The vector instruction at work: the first whose work is not done. -/
def vecHead (s : State) (c : Nat) : Option VInstr := (s.vec c).q.find? fun x => !x.workDone

def setVInstr (s : State) (c : Nat) (x : VInstr) : State :=
  let v := s.vec c
  s.setVec c { v with q := v.q.map fun y => if y.id = x.id then x else y }

/-- A leaf of an instruction is on its way (R152). -/
def pushLeaf (s : State) (c : Nat) (l : VLeaf) : State :=
  let v := s.vec c
  s.setVec c { v with leaves := v.leaves ++ [l] }

/-- An instruction's work ends at step d; one that enters no leaf leaves at once. -/
def vecDone (s : State) (c : Nat) (x : VInstr) (d : Nat) : State :=
  let s := s.setVInstr c { x with workDone := true, due := d }
  let v := s.vec c
  s.setVec c { v with free := d, q := v.q.filter fun y => !(y.workDone && y.id = x.id && !(v.leaves.any fun l => l.instr = x.id)) }

end State

end Sys2Proof.Machine
end

