-- ==== Sys2Proof/Machine/Vector.lean ====
section
/-! DEFINITION. The commands of the vector path, the intersection unit and the Scout (05). -/

namespace Sys2Proof.Machine

/-! ## Issue (R147 to R149, R172) -/

/-- Is an earlier PASS to the group still entering (R149)? -/
def State.passEntering (s : State) (c base : Nat) : Bool :=
  let a := s.arr c
  ((a.passes ++ a.live).any fun p => p.grp = base) ||
    match s.group c base with
    | none => false
    | some g => g.landing.any fun l => !l.vec

/-- Chunks of an extent of 64 positions each (R147). -/
def chunksOf64 (k : Nat) : Nat := (k + 63) / 64

/-- Leaves that an instruction enters (R148). -/
def leafCount (k : VKind) (p : VParam) : Nat :=
  match k with
  | .mvd | .mvsRow => chunksOf64 p.k
  | .mvsGather | .isxDot | .isxSampled => 1
  | .mrg | .sct => 0

/-- Does a run-time extent break the limits of R140, R147, R148 or R159? The 32,768 chunks that a local fold may have are judged by the
declared capacity (R148; log 80). -/
def badExtent (k : VKind) (p : VParam) : Bool :=
  let block := p.k % 64 ≠ 0 || p.k = 0 || p.t = 0 || decide (8 < p.t) || decide (16384 < p.t * p.k)
  match k with
  | .mvd => block || p.n % 64 ≠ 0 || p.n = 0 || decide (4096 < p.n * p.t)
  | .mvsRow => block || p.n = 0 || decide (4096 < p.n * p.t)
  | .mvsGather => p.n = 0 || decide (64 < p.n) || decide (2097152 < p.capA)
  | .isxDot => decide (4096 ≤ p.elem) || decide (2097152 < min p.capA p.capB)
  | .isxSampled => p.k = 0 || p.n = 0 || decide (256 < p.k) || decide (256 < p.n) || decide (4096 < p.capA)
  | .mrg => false
  | .sct => block || p.rank = 0 || p.rank % 64 ≠ 0 || decide (512 < p.rank) || p.g = 0 || decide (4096 < p.g) || p.bmax = 0 ||
      decide (p.g < p.bmax) || p.layer = 0

/-- The element type of descriptor n of the pack's table (R201). -/
def State.descType (s : State) (n : Nat) : Nat := fieldAt (s.bytesFrom (s.pack.descTable + 64 * n) 8) 0 8 / 2 ^ 60

/-- Element types of the two sides, as far as they are known at issue (R25). -/
def State.vecTypes (s : State) (c : Nat) (k : VKind) (p : VParam) : Nat × Nat :=
  let head := fun off => leNat ((s.coreBytes c off 8).1.map (·.1))
  match k with
  | .mvd => (p.etype, bitsOf (head p.waddr) 7 4)
  | .sct => (p.etype, bitsOf (head p.block2) 7 4)
  | .mvsRow => (p.etype, bitsOf (head (head p.waddr % 2 ^ 18)) 55 52)
  | .mvsGather => (bitsOf (head p.block) 55 52, s.descType p.desc)
  | .isxDot => (bitsOf (head p.block) 55 52, bitsOf (head p.waddr) 55 52)
  | .isxSampled => (p.etype, p.etype)
  | .mrg => (10, 10)

/-- The Scout settings that an SCT of a core uses: those of its request's admission (R164). Its request is the one admitted last among
the open ones of the channels that the core's chain configurations digest to, else among all open ones (log 81). -/
def State.scoutFor (s : State) (c : Nat) : SMap (List Byte) × BitVec 256 :=
  let newest := fun (xs : List (Nat × Option OpenRes)) => (xs.filterMap (·.2)).foldl (fun (m : Option OpenRes) o =>
    match m with | some y => if y.seq.toNat < o.seq.toNat then some o else m | none => some o) none
  let own := s.log.open_.filter fun x => (s.drn c).cfgs.any fun g => g.2.on 7 && g.2.digestCh.toNat = x.1
  match (newest own).orElse fun _ => newest s.log.open_ with
  | some o => (o.scout, o.scoutDis)
  | none => (s.svc.scout, s.svc.scoutDis)

/-- The state after a vector instruction is handed over: its record snapshotted, its passes numbered (R148), a capacity violation
of its extents counted (R158), and the faults of R137. -/
def State.addVector (s : State) (c : Nat) (k : VKind) (f : VecF) : State :=
  let q := s.seq c
  let r := s.vparam c (fieldMod q f.ib f.vpr 18)
  let p := r.1
  let set := s.scoutFor c
  let s := s.countPoison c r.2.2
  let ty := s.vecTypes c k p
  let integer := isIntType ty.1 && isIntType ty.2
  let over_ := badExtent k p
  let enters := decide (leafCount k p ≠ 0) || k = .mvd || k = .mvsRow
  let n := if enters then s.namedGroup c (fieldOr q f.ia f.grp) else (s, none)
  let mode := match n.2 with | some g => g.integer != integer | none => false
  let cnt := leafCount k p
  let s' := match n.2 with
    | some g =>
      if mode then n.1.accFault c 4 g.base g.nextNo q.pc
      else n.1.setGroup c { g with
        nextNo := g.nextNo + cnt, inflight := g.inflight ++ List.replicate cnt g.gen }
    | none => n.1
  let v := s'.vec c
  let x : VInstr :=
    { id := v.nextId, kind := k, pc := q.pc, grp := match n.2 with | some g => if mode then 8 else g.base | none => 8,
      gen := n.2.elim 0 (·.gen), firstNo := n.2.elim 0 (·.nextNo), integer, vp := p,
      scalar := if p.scale = 0xFF then 0x3F800000 else (q.reg (BitVec.ofNat 4 p.scale)).truncate 32,
      thr := BitVec.ofNat 32 (leNat (Sparse.get [] set.1 p.layer)), dis := set.2.getLsbD p.layer,
      bank := 0, bankB := 0, begun := false, band := 0, sub := 0, poisonAll := r.2.1 || over_, sat := false, ia := [], ib := [],
      pairs := [], out := [], sweep := [], fold := [], hid := [], due := s.now, sweepAt := 0, workDone := false }
  let s' := s'.setVec c { v with nextId := v.nextId + 1, q := v.q ++ [x] }
  if over_ then s'.capViolation c else s'

/-- May a vector instruction issue (R149, R172)? -/
def State.vectorReady (s : State) (c : Nat) (k : VKind) (f : VecF) : Bool :=
  decide (((s.vec c).q.filter fun x => !x.workDone).length < 2) &&
    (k = .mrg || k = .sct || !s.passEntering c (fieldOr (s.seq c) f.ia f.grp))

/-- MVD: a matrix-vector product over WC tiles (R147, R150). -/
def execMvd (c : CoreId) (f : VecF) (s : State) : Host.Outcome State Fault Refusal :=
  s.issue c (.mvd c f) (s.vectorReady c.toNat .mvd f) (s.addVector c.toNat .mvd f)

/-- MVS, row form (R147, R151). -/
def execMvsRow (c : CoreId) (f : VecF) (s : State) : Host.Outcome State Fault Refusal :=
  s.issue c (.mvsRow c f) (s.vectorReady c.toNat .mvsRow f) (s.addVector c.toNat .mvsRow f)

/-- MVS, gather form (R147, R156). -/
def execMvsGather (c : CoreId) (f : VecF) (s : State) : Host.Outcome State Fault Refusal :=
  s.issue c (.mvsGather c f) (s.vectorReady c.toNat .mvsGather f) (s.addVector c.toNat .mvsGather f)

/-- ISX, dot form (R147, R153). -/
def execIsxDot (c : CoreId) (f : VecF) (s : State) : Host.Outcome State Fault Refusal :=
  s.issue c (.isxDot c f) (s.vectorReady c.toNat .isxDot f) (s.addVector c.toNat .isxDot f)

/-- ISX, sampled form (R147, R155). -/
def execIsxSampled (c : CoreId) (f : VecF) (s : State) : Host.Outcome State Fault Refusal :=
  s.issue c (.isxSampled c f) (s.vectorReady c.toNat .isxSampled f) (s.addVector c.toNat .isxSampled f)

/-- MRG merges two CS16 streams into a DW stream (R154). -/
def execMrg (c : CoreId) (f : VecF) (s : State) : Host.Outcome State Fault Refusal :=
  s.issue c (.mrg c f) (s.vectorReady c.toNat .mrg f) (s.addVector c.toNat .mrg f)

/-- SCT: Scout scoring and selection (R159). -/
def execSct (c : CoreId) (f : VecF) (s : State) : Host.Outcome State Fault Refusal :=
  s.issue c (.sct c f) (s.vectorReady c.toNat .sct f) (s.addVector c.toNat .sct f)

/-! ## Banks (R141) -/

/-- A block for one use of an instruction: a bank that holds it, or else a free bank whose fill starts. -/
def State.placeBlock (s : State) (c : Nat) (x : VInstr) (second : Bool) (need : Nat × Nat × Nat × Nat × Bool) : State :=
  let v := s.vec c
  let use := fun (s : State) n => s.setVInstr c (if second then { x with bankB := n } else { x with bank := n })
  let fill := fun (n : Nat) =>
    let b : Bank := { addr := need.1, t := need.2.1, k := need.2.2.1, etype := need.2.2.2.1, sampled := need.2.2.2.2,
                      astride := x.vp.astride, due := 0, filled := false, elems := [] }
    let p := ((s.bankTiles c b).map (·.parcels)).sum
    let b := some { b with due := s.now + (p + 3) / 4 + 4 }
    use (s.setVec c (if n = 1 then { v with bankA := b } else { v with bankB := b })) n
  if v.bankA.any fun b => b.holds need then use s 1
  else if v.bankB.any fun b => b.holds need then use s 2
  else if v.bankFree 1 s.now then fill 1
  else if v.bankFree 2 s.now then fill 2
  else s

/-- An activation bank fill starts for the first instruction that waits for a block (R141). -/
def execVecFillStart (c : CoreId) (s : State) : Host.Outcome State Fault Refusal :=
  let k := c.toNat
  match (s.vec k).q.find? fun x => !x.workDone &&
      ((x.bank = 0 && (bankNeed x.kind x.vp false).isSome) || (x.bankB = 0 && (bankNeed x.kind x.vp true).isSome)) with
  | none => .next s
  | some x =>
    if x.bank = 0 then
      match bankNeed x.kind x.vp false with
      | some n => .next (s.placeBlock k x false n)
      | none => .next s
    else
      match bankNeed x.kind x.vp true with
      | some n => .next (s.placeBlock k x true n)
      | none => .next s

/-- The bank fill completes (R141). -/
def execVecFillDone (c : CoreId) (second : Bool) (s : State) : Host.Outcome State Fault Refusal :=
  let k := c.toNat
  let v := s.vec k
  match if second then v.bankB else v.bankA with
  | some b =>
    if b.filled ∨ s.now < b.due then .next s
    else
      let tiles := s.bankTiles k b
      let b' := some { b with filled := true, elems := bankElems b tiles }
      .next ((s.setVec k (if second then { v with bankB := b' } else { v with bankA := b' })).countPoison k
        (tiles.map (·.errors)).sum)
  | none => .next s

/-- Are the blocks of an instruction filled, and from which step on (R141)? -/
def Vec.blocksAt (v : Vec) (x : VInstr) : Option Nat :=
  let one := fun (need : Bool) (n : Nat) => if !need then some 0 else
    match v.bank n with
    | some b => if b.filled then some b.due else none
    | none => none
  match one (bankNeed x.kind x.vp false).isSome x.bank, one (bankNeed x.kind x.vp true).isSome x.bankB with
  | some a, some b => some (max a b)
  | _, _ => none

/-! ## MVD and SCT bands (R150) -/

/-- The products of output column j and token t in one band: tile rows lo to lo + n - 1, their first position in the block, the window
of a row, and the elements by position. -/
def bandSum (integer : Bool) (e : Int) (at_ : Nat) (t : Tile) (rows : List (List (List Slot))) (pos0 win j : Nat)
    (elem : Nat → Elem) : CSum :=
  let et := t.etype.toNat
  let step := if is16Bit et then 2 else 1
  (enumFrom0 rows).foldl (fun acc x =>
    let slots := x.2.getD j []
    (List.range (slots.length / step)).foldl (fun (acc : CSum) m =>
      let d : Slot := { val := 0, code := 0, poison := false }
      let s0 := slots.getD (step * m) d
      let s1 := slots.getD (step * m + 1) d
      let own := s0.poison || (step = 2 && s1.poison)
      if s0.code.getLsbD 3 then
        let bits := if step = 2 then s0.val.toNat * 256 + s1.val.toNat else s0.val.toNat
        let a := elem (pos0 + win * x.1 + if win = 1 then 0 else s0.code.toNat % 8)
        acc.add integer e at_ et a (if own then Elem.marked else { v := decodeNum et bits, poison := false })
      else { acc with poison := acc.poison || own }) acc) {}

/-- Bytes of a band and its slot count (R150): the first band of a tile also counts its header and scales. -/
def bandSize (t : Tile) (first : Bool) : Nat × Nat :=
  let form := t.form.toNat
  let et := t.etype.toNat
  if t.empty || t.bad then (if first then 8 else 0, 0)
  else
    let per := if form = 5 then 1 else 8
    let vals := 4096 * tileSteps form * (if elemBits et = 4 then 4 else 8) / 8
    ((wcCodeBytes form et + vals) / per + if first then 72 else 0, if form = 5 then 4096 else 512 * tileSteps form)

/-- Steps to read a band's bytes at 256 B per step, and at 128 B for the steps that a fill still holds a read port (R141). -/
def readSteps (bytes held : Nat) : Nat := if bytes ≤ 128 * held then (bytes + 127) / 128 else held + (bytes - 128 * held + 255) / 256

/-- Steps of a band (R150). -/
def bandSteps (t : Tile) (first : Bool) (toks ap held : Nat) : Nat :=
  let b := bandSize t first
  max (b.2 * toks * ap / 512) (readSteps b.1 held)

/-- Steps from step d on that the fill of another instruction's block still holds a read port (R141): it ends 4 steps before the fill. -/
def Vec.portHeld (v : Vec) (x : VInstr) (d : Nat) : Nat :=
  let of_ := fun (n : Nat) (b : Option Bank) => if x.bank = n ∨ x.bankB = n then 0 else b.elim 0 fun b => b.due - 4 - d
  max (of_ 1 v.bankA) (of_ 2 v.bankB)

/-- A WCD1 tile holds 64 reduction positions, every other form 512 in eight chunks (R51, R147). -/
def perTile (t : Tile) : Nat := if t.form = 5 ∧ !t.empty ∧ !t.bad then 1 else 8

/-- One band: tile (kb, b) at an address, chunk ch of it, for toks tokens. The results by element, the mark of a bad tile, the
saturation mark, the counts of residue mismatches and non-finite operands, and the poisoned errors that arise (R143 to R150). lim bounds the
elements, held the steps that a fill holds a read port. -/
structure Band where
  vals : SMap VRes
  allMark : Bool
  sat : Bool
  bad : Nat
  nonfin : Nat
  errors : Nat
  steps : Nat
  deriving DecidableEq, Repr

def State.band (s : State) (c : Nat) (integer : Bool) (addr ch b n toks at_ lim held : Nat) (a : Nat → Option Int)
    (elem : Nat → Nat → Elem) : Band :=
  let tk := s.takeTile c 0 addr
  let t := tk.1
  let first := ch % perTile t = 0
  let steps := bandSteps t first toks (pieceCount at_) held
  if t.bad || t.empty then
    { vals := [], allMark := t.bad, sat := false, bad := 0, nonfin := 0, errors := if first then tk.2 else 0, steps }
  else
    let wcd1 := t.form = 5
    let lo := if wcd1 then 0 else 8 * (ch % 8)
    let cnt := if wcd1 then 64 else 8
    let rows := (List.range cnt).map fun r => s.tileRow c t (lo + r)
    let errs := ((List.range cnt).map fun r =>
      ((State.rowParcels t (lo + r)).map fun k => (s.tileParcels c addr k 1).2).sum).sum
    let res := (List.range toks).flatMap fun tok =>
      let e := tokenE (a tok) t.wexp
      (List.range 64).map fun j =>
        let sum := bandSum integer e at_ t rows (64 * ch) (if wcd1 then 1 else 8) j (elem tok)
        (tok * n + 64 * b + j, sum.result integer e (t.scales.getD j 0) (t.slotFault || t.scalePoison.getD j false))
    { vals := res.filterMap fun x => if x.1 < lim ∧ x.2.1 ≠ VRes.zero then some (x.1, x.2.1) else none,
      allMark := false, sat := res.any fun x => x.2.2.1,
      bad := (res.filter fun x => x.2.2.2.1).length, nonfin := (res.filter fun x => x.2.2.2.2).length,
      errors := errs + if first then tk.2 else 0, steps }

/-- The named elements of an instruction's leaf. -/
def VInstr.named (x : VInstr) : List Nat :=
  match x.kind with
  | .mvd | .mvsRow => List.range (min 4096 (x.vp.n * x.vp.t))
  | .mvsGather => List.range (min 64 x.vp.n)
  | .isxDot => [x.vp.elem % 4096]
  | .isxSampled => List.range (min 4096 x.vp.capA)
  | .mrg | .sct => []

/-- A leaf with every result marked where the whole instruction is (R69, R158). -/
def VInstr.leafVals (x : VInstr) (vals : SMap VRes) : SMap VRes :=
  if x.poisonAll then
    (x.named.map fun e => (e, { Sparse.get VRes.zero vals e with poison := true }))
  else vals

/-- The end of a sweep that enters a leaf: at least 16 steps after it began, the leaf 12 steps on (R152). -/
def State.endSweep (s : State) (c : Nat) (x : VInstr) (chunk endAt : Nat) (last : Bool) : State :=
  let d := max endAt (x.sweepAt + 16)
  let s := s.pushLeaf c { instr := x.id, no := x.firstNo + chunk, due := d + 12, sat := x.sat, vals := x.leafVals x.sweep }
  let x := { x with sweep := [], sat := false, sweepAt := d, due := d }
  if last then s.vecDone c x d else s.setVInstr c x

/-- One band of an MVD (R147, R150). -/
def State.mvdBand (s : State) (c : Nat) (x : VInstr) (bk : Bank) (start : Nat) : State :=
  let p := x.vp
  let nb := max 1 (p.n / 64)
  let ch := x.band / nb
  let b := x.band % nb
  let tileAt := fun kb => p.waddr + (kb * nb + b) * p.wstride * 32
  let per := perTile (s.takeTile c 0 (p.waddr)).1
  let r := s.band c x.integer (tileAt (ch / per)) ch b p.n (min p.t 8) p.etype 4096
    ((s.vec c).portHeld x start) (fun t => bk.chunkA t (64 * ch)) bk.at_
  let sweep := if r.allMark then (List.range 4096).map fun e => (e, ({ v := (Sparse.get VRes.zero x.sweep e).v, poison := true } : VRes))
    else Sparse.setAll VRes.zero x.sweep (r.vals.map fun y =>
      (y.1, { y.2 with poison := y.2.poison || (Sparse.get VRes.zero x.sweep y.1).poison }))
  let s := (s.vecCounts c r.bad r.nonfin).countPoison c r.errors
  let x := { x with begun := true, band := x.band + 1, sweep, sat := x.sat || r.sat,
                    sweepAt := if x.begun then x.sweepAt else start, due := start + r.steps }
  if b + 1 = nb then s.endSweep c x ch x.due (decide (chunksOf64 p.k ≤ ch + 1)) else s.setVInstr c x

/-- The SCT projection that a band belongs to: outputs, reduction, first tile, bands before it (R159). -/
def sctPhase (p : VParam) (band : Nat) : Bool × Nat :=
  let b1 := chunksOf64 p.k * max 1 (p.rank / 64)
  if band < b1 then (true, band) else (false, band - b1)

/-- Bands of an SCT in all. -/
def sctBands (p : VParam) : Nat := chunksOf64 p.k * max 1 (p.rank / 64) + chunksOf64 p.rank * chunksOf64 p.g

/-- The folds of a projection: the tree over its chunks, rounded by R24 (R159). -/
def sctFold (integer : Bool) (fold : List (SMap VRes)) (e : Nat) : VRes :=
  (treeFold integer (fold.map fun m => Sparse.get VRes.zero m e)).1

/-- The FP32 value of a folded result (R24, R33). -/
def foldFp (integer : Bool) (x : VRes) : W32 := if integer then rnInt x.v.hi.toInt 0 else dwRound x.v

/-- h of R159 as BF16 elements by token × 512 + output. -/
def sctHidden (x : VInstr) : SMap VRes :=
  (List.range (min x.vp.t 8)).flatMap fun t => (List.range (min x.vp.rank 512)).filterMap fun o =>
    let y := sctFold x.integer x.fold (t * x.vp.rank + o)
    let b := (quant 8 0 (foldFp x.integer y)).1
    let r : VRes := { v := { hi := b, lo := 0 }, poison := y.poison }
    if r = VRes.zero then none else some (t * 512 + o, r)

/-- An element of h. -/
def hidElem (h : SMap VRes) (t pos : Nat) : Elem :=
  let y := Sparse.get VRes.zero h (t * 512 + pos)
  if y.poison then Elem.marked
  else if Num.isZero (decodeNum 8 y.v.hi.toNat) then Elem.zero else { v := decodeNum 8 y.v.hi.toNat, poison := false }

/-- One band of an SCT: the down-projection, then the scoring projection over h (R159, R163). A poisoned activation of its block poisons it
as it begins, whether or not a weight selects it (R162). -/
def State.sctBand (s : State) (c : Nat) (x : VInstr) (bk : Bank) (start : Nat) : State :=
  let p := x.vp
  let ph := sctPhase p x.band
  let n := if ph.1 then p.rank else 64 * chunksOf64 p.g
  let nb := max 1 (n / 64)
  let ch := ph.2 / nb
  let b := ph.2 % nb
  let base := if ph.1 then p.block2 else p.waddr
  let per := perTile (s.takeTile c 0 base).1
  let a := fun t => if ph.1 then bk.chunkA t (64 * ch) else maxEps ((List.range 64).map fun i => (hidElem x.hid t (64 * ch + i)).v)
  let el := fun t pos => if ph.1 then bk.at_ t pos else hidElem x.hid t pos
  let r := s.band c (x.integer && ph.1) (base + (ch / per * nb + b) * p.wstride * 32) ch b n (min p.t 8)
    (if ph.1 then p.etype else 8) 32768 ((s.vec c).portHeld x start) a el
  let s := (s.vecCounts c r.bad r.nonfin).countPoison c r.errors
  let sweep := Sparse.setAll VRes.zero x.sweep r.vals
  let x := { x with begun := true, band := x.band + 1, sweep, due := start + r.steps,
                    poisonAll := x.poisonAll || (!x.begun && bk.elems.any fun y => y.2.poison) || r.allMark ||
                      r.vals.any fun y => y.2.poison }
  let x := if b + 1 = nb then { x with fold := x.fold ++ [x.sweep], sweep := [] } else x
  let x := if ph.1 && !(sctPhase p x.band).1 then { x with hid := sctHidden x, fold := [] } else x
  let x := if x.band = sctBands p then { x with due := x.due + 5 * ((p.g + 7) / 8) + (p.bmax + 7) / 8 + 8 } else x
  s.setVInstr c x

/-- One chunk of the gather form of MVS: 64 ids and their table rows from the weight input (R147, R151, R156). -/
def State.gatherChunk (s : State) (c : Nat) (x : VInstr) (start : Nat) : State :=
  let p := x.vp
  let x := if x.begun then x else
    let r := readCS s c p.block none true true (some p.capA)
    { x with begun := true, ia := r.items, poisonAll := x.poisonAll || r.bad || r.overCap, sub := (if r.bad then 1 else 0) + if r.overCap then 2 else 0,
             sweepAt := start }
  let s := if x.sub % 2 = 1 then s.countPoison c 1 else s
  let s := if 2 ≤ x.sub then s.capViolation c else s
  let x := { x with sub := 0 }
  let wt := s.descType p.desc
  let bits := elemBits wt
  let cols := min 64 p.n
  let ids := x.ia.take 64
  let v := s.vec c
  let used := x.band * 64 * cols * bits % 256
  let need := (used + ids.length * cols * bits + 255) / 256
  if v.wport.length < need then s.setVInstr c x
  else
    let raw := ((v.wport.take need).flatMap fun q => (parcelBytes q.data).map fun b => (b, q.poison)).drop (used / 8)
    let w := fun (i j : Nat) =>
      let y := packedAt bits raw (i * cols + j)
      ({ v := if y.2 then .fin false 0 0 else decodeNum wt y.1, poison := y.2 } : Elem)
    let sweep := (List.range cols).map fun j =>
      let at_ := (ids.headD { idx := 0, val := 0, etype := 0 }).etype
      let ws := (List.range ids.length).map fun i => w i j
      let e := chunkE (ids.map fun y => y.elem.v) (ws.map (·.v))
      let sum := ((ids.zip ws).foldl (fun (acc : CSum) y => acc.add x.integer e at_ wt y.1.elem y.2) {})
      (j, sum.result x.integer e 0 false)
    let s := s.vecCounts c (sweep.filter fun y => y.2.2.2.1).length (sweep.filter fun y => y.2.2.2.2).length
    let total := used + ids.length * cols * bits
    let s := s.setVec c { (s.vec c) with wport := v.wport.drop (if x.ia.length ≤ 64 then need else total / 256) }
    let vals : SMap VRes := sweep.map fun y => (y.1, y.2.1)
    let x := { x with
      ia := x.ia.drop 64, band := x.band + 1, sat := x.sat || sweep.any fun y => y.2.2.1,
      fold := if ids.isEmpty then x.fold else x.fold ++ [vals], due := start + max ((cols * bits + 31) / 32) 1 }
    if x.ia.isEmpty then
      let fixed := (p.capA + 63) / 64 * max ((cols * bits + 31) / 32) 1 + 12
      let f := (List.range cols).map fun j => (j, treeFold x.integer (x.fold.map fun m => Sparse.get VRes.zero m j))
      let x := { x with sat := x.sat || f.any fun y => y.2.2 }
      let s := s.pushLeaf c { instr := x.id, no := x.firstNo, due := x.sweepAt + fixed, sat := x.sat,
                              vals := x.leafVals (f.map fun y => (y.1, y.2.1)) }
      s.vecDone c x (x.sweepAt + fixed - 12)
    else s.setVInstr c x

/-- The vector path reads and computes one band of a WC tile, or one chunk of table rows (R150, R156). -/
def execVecBand (c : CoreId) (s : State) : Host.Outcome State Fault Refusal :=
  let k := c.toNat
  match s.vecHead k with
  | none => .next s
  | some x =>
    match (s.vec k).blocksAt x with
    | none => .next s
    | some at_ =>
      let start := max (max x.due at_) (s.vec k).free
      if s.now < start then .next s
      else
        match x.kind, (s.vec k).bank x.bank with
        | .mvd, some bk =>
          if x.vp.k = 0 then .next (s.vecDone k x start) else .next (s.mvdBand k x bk start)
        | .sct, some bk =>
          if x.dis || decide (sctBands x.vp ≤ x.band) then .next s else .next (s.sctBand k x bk start)
        | .mvsGather, _ => .next (s.gatherChunk k x start)
        | _, _ => .next s

/-- A leaf enters its group 12 steps after its sweep ended, or when the leaf before it has left it 16 steps (R119), once no DRAIN issued
before its instruction reads the group (R134, R152). -/
def execVecLeafEntry (c : CoreId) (s : State) : Host.Outcome State Fault Refusal :=
  let k := c.toNat
  let v := s.vec k
  match v.leaves with
  | [] => .next s
  | l :: rest =>
    match v.q.find? fun x => x.id = l.instr with
    | none => .next (s.setVec k { v with leaves := rest })
    | some x =>
      let early := (s.group k x.grp).elim false fun g => decide (s.now < g.emptyAt ∨ s.now < g.lastIn)
      if decide (s.now < l.due) || s.drainReads k x.grp x.gen || early then .next s
      else
        let v' := { v with
          leaves := rest, q := v.q.filter fun y => !(y.workDone && y.id = x.id && !(rest.any fun z => z.instr = x.id)) }
        .next ((s.setVec k v').enterLeaf k x.grp l.no x.gen l.vals l.sat
          (max l.due ((s.group k x.grp).elim 0 (·.lastIn))) x.pc)

/-! ## The intersection unit (R151 to R158) -/

/-- Up to n comparisons of the walk of R153 over two streams. Merge mode gives each output with the sides it has. -/
def walk (merge : Bool) : Nat → List CSItem → List CSItem → List (Option CSItem × Option CSItem) ×
    List CSItem × List CSItem
  | 0, a, b => ([], a, b)
  | n + 1, a, b =>
    let cons := fun (x : Option CSItem × Option CSItem) r => (x :: r.1, r.2)
    match a, b with
    | [], [] => ([], [], [])
    | x :: a', [] => if merge then cons (some x, none) (walk merge n a' []) else ([], a, [])
    | [], y :: b' => if merge then cons (none, some y) (walk merge n [] b') else ([], [], b)
    | x :: a', y :: b' =>
      if x.idx < y.idx then
        if merge then cons (some x, none) (walk merge n a' (y :: b')) else walk merge n a' (y :: b')
      else if y.idx < x.idx then
        if merge then cons (none, some y) (walk merge n (x :: a') b') else walk merge n (x :: a') b'
      else cons (some x, some y) (walk merge n a' b')

/-- The double word of one side of a merge, and whether R21 made it a NaN (R154). -/
def mrgSide (scalar : W32) (i : CSItem) : DW × Bool :=
  if i.etype = 11 then
    let d := dwOf i.val
    if fp32IsNaN d.hi || fp32IsInf d.hi then ({ hi := canonNaN, lo := 0 }, true) else (d, false)
  else
    match decodeNum i.etype i.val, fp32 scalar with
    | .fin s m q, .fin t n r => (toDW (if s != t then -((m * n : Nat) : Int) else ((m * n : Nat) : Int)) (q + r), false)
    | _, _ => ({ hi := canonNaN, lo := 0 }, true)

/-- A merged value (R154). -/
def mrgValue (scalar : W32) (x : Option CSItem × Option CSItem) : Option (Nat × DW × Bool) :=
  match x with
  | (some a, some b) =>
    let u := mrgSide scalar a
    let w := mrgSide scalar b
    some (a.idx, combine u.1 w.1, u.2 || w.2)
  | (some a, none) => let u := mrgSide scalar a; some (a.idx, u.1, u.2)
  | (none, some b) => let w := mrgSide scalar b; some (b.idx, w.1, w.2)
  | (none, none) => none

/-- The segments of an output stream: a new one whenever SEGNO changes (R154). -/
def segmentsOf (idxs : List Nat) : List (Nat × List Nat) :=
  idxs.foldr (fun i acc =>
    match acc with
    | (sg, l) :: r => if sg = i / 65536 then (sg, i % 65536 :: l) :: r else (i / 65536, [i % 65536]) :: acc
    | [] => [(i / 65536, [i % 65536])]) []

/-- The bytes of a CS16 index stream of ETYPE 0xB, filled to whole parcels (R67, R154). -/
def indexStream (idxs : List Nat) : List Byte :=
  let segs := match segmentsOf idxs with | [] => [(0, [])] | l => l
  let bs := (enumFrom0 segs).flatMap fun x =>
    let last := if x.1 + 1 = segs.length then 2 ^ 56 else 0
    let body := x.2.2.flatMap fun i => leBytes 2 i
    leBytes 8 (last + 11 * 2 ^ 52 + x.2.2.length * 2 ^ 32 + x.2.1) ++ slice body 0 ((body.length + 7) / 8 * 8)
  slice bs 0 ((bs.length + 31) / 32 * 32)

/-- The outputs of a merge written through the write port; all poisoned after a violation (R154, R157). -/
def State.writeMerge (s : State) (c : Nat) (x : VInstr) : State :=
  let ib := indexStream (x.out.map (·.1))
  let vb0 := x.out.flatMap fun y => leBytes 4 y.2.hi.toNat ++ leBytes 4 y.2.lo.toNat
  let vb := slice vb0 0 ((vb0.length + 31) / 32 * 32)
  (s.writeChunks c (State.chunksOf c x.vp.outA ib (List.replicate ib.length x.poisonAll) 4)).writeChunks c
    (State.chunksOf c x.vp.outB vb (List.replicate vb.length x.poisonAll) 5)

/-- A row of the row table of the row form: index offset, value offset, scale, and whether it comes from a poisoned parcel (R45, R177). -/
structure RowEntry where
  index : Nat
  value : Nat
  scale : Int
  poison : Bool
  deriving DecidableEq, Repr

def State.rowEntry (s : State) (c : Nat) (p : VParam) (r : Nat) : RowEntry :=
  let q := (s.coreBytes c (p.waddr + 8 * r) 8).1
  let w := leNat (q.map (·.1))
  { index := bitsOf w 17 0, value := bitsOf w 35 18, scale := signedOf 8 (bitsOf w 43 36), poison := q.any (·.2) }

/-- The stream of a row; a row whose entry is poisoned names none (log 79). -/
def State.rowStream (s : State) (c : Nat) (t : RowEntry) : CSRead :=
  if t.poison then {} else readCS s c t.index (some t.value) true false none

/-- The streams of an instruction as its work begins, with a violation of R69 or R158 noted and counted. -/
def State.beginStreams (s : State) (c : Nat) (x : VInstr) (start : Nat) : State × VInstr :=
  let p := x.vp
  let a := match x.kind with
    | .isxDot | .mrg => readCS s c p.block none true false (some p.capA)
    | .isxSampled => readCS s c p.waddr none false false (some p.capA)
    | _ => {}
  let b := match x.kind with
    | .isxDot | .mrg => readCS s c p.waddr none true false (some p.capB)
    | _ => {}
  let rows := match x.kind with
    | .mvsRow => (List.range (min p.n 4096)).any fun r => (s.rowStream c (s.rowEntry c p r)).bad
    | _ => false
  let table := match x.kind with
    | .mvsRow => (s.coreBytes c p.waddr (8 * min p.n 4096)).2
    | _ => 0
  let bad := a.bad || b.bad || rows
  let cap := a.overCap || b.overCap
  let s := s.countPoison c (table + if bad then 1 else 0)
  let s := if cap then s.capViolation c else s
  (s, { x with begun := true, ia := a.items, ib := b.items, poisonAll := x.poisonAll || bad || cap, due := start, sweepAt := start })

/-- Entries and segment headers of a row that fall in chunk ch (R151): a segment starts at full index SEGNO × 65,536, and one that starts
past the last chunk counts in that (log 79). -/
def rowInChunk (r : CSRead) (ch last : Nat) : List CSItem × Nat :=
  (r.items.filter fun i => i.idx / 64 = ch, (r.heads.filter fun sg => min (sg * 1024) last = ch).length)

/-- Chunk ch of the row form computed (R142 to R147). -/
def State.rowSweep (s : State) (c : Nat) (x : VInstr) (bk : Bank) (ch : Nat) : List (Nat × VRes × Bool × Bool × Bool) × Nat :=
  let p := x.vp
  let rows := (List.range (min p.n 4096)).map fun r =>
    let t := s.rowEntry c p r
    (rowInChunk (s.rowStream c t) ch (chunksOf64 p.k - 1), t)
  let slots := (rows.map fun y => y.1.1.length + y.1.2).sum
  let vals := (List.range (min p.t 8)).flatMap fun tok => (enumFrom0 rows).filterMap fun y =>
    let its := y.2.1.1
    if y.2.2.poison then some (tok * p.n + y.1, ({ v := {}, poison := true } : VRes), false, false, false)
    else if its.isEmpty then none
    else
      let e := (bk.chunkA tok (64 * ch)).getD 0 + (maxEps (its.map fun i => i.elem.v)).getD 0 + 6
      let sum := its.foldl (fun (acc : CSum) i => acc.add x.integer e p.etype i.etype (bk.at_ tok i.idx) i.elem) {}
      some (tok * p.n + y.1, sum.result x.integer e y.2.2.scale false)
  (vals.filter fun y => y.1 < 4096, slots)

/-- One entry of the sampled form: the dot product of two feature rows (R144, R155). -/
def sampledEntry (x : VInstr) (xb yb : Bank) (idx : Nat) : VRes × Bool × Bool × Bool :=
  let i := idx / max 1 x.vp.k
  let j := idx % max 1 x.vp.k
  let a := (List.range 64).map fun t => xb.at_ j t
  let w := (List.range 64).map fun t => yb.at_ i t
  let e := chunkE (a.map (·.v)) (w.map (·.v))
  let sum := (a.zip w).foldl (fun (acc : CSum) y =>
    let poison := acc.poison || y.1.poison || y.2.poison
    if Num.isZero y.1.v || Num.isZero y.2.v then { acc with poison }
    else if Num.isNonFin y.1.v || Num.isNonFin y.2.v then { acc with poison, nonfin := true }
    else
      let ps := (actPieces x.vp.etype y.1.v).flatMap fun u => (actPieces x.vp.etype y.2.v).map fun w => alignedProduct x.integer e u w
      { acc with poison, sum := acc.sum + ps.sum }) ({} : CSum)
  sum.result x.integer e 0 false

/-- The leaf of the dot form: its matches in chunks of 64, folded (R147, R153). -/
def dotLeaf (x : VInstr) : (VRes × Bool) × Nat × Nat :=
  let chunks := (List.range ((x.pairs.length + 63) / 64)).map fun k => (x.pairs.drop (64 * k)).take 64
  let rs := chunks.map fun ps =>
    let e := chunkE (ps.map fun y => y.1.elem.v) (ps.map fun y => y.2.elem.v)
    (ps.foldl (fun (acc : CSum) y => acc.add x.integer e y.1.etype y.2.etype y.1.elem y.2.elem) {}).result x.integer e 0 false
  let f := treeFold x.integer (rs.map (·.1))
  ((f.1, f.2 || rs.any fun r => r.2.1), (rs.filter fun r => r.2.2.1).length, (rs.filter fun r => r.2.2.2).length)

/-- The intersection unit performs up to 8 comparisons, or decodes 8 entries, of the instruction at work, and finishes it at
the end of its fixed time (R151 to R155). -/
def execIntersectStep (c : CoreId) (s : State) : Host.Outcome State Fault Refusal :=
  let k := c.toNat
  match s.vecHead k with
  | none => .next s
  | some x0 =>
    match (s.vec k).blocksAt x0 with
    | none => .next s
    | some at_ =>
      let start := max (max x0.due at_) (s.vec k).free
      if s.now < start then .next s
      else
        let r := if x0.begun then (s, x0) else s.beginStreams k x0 start
        let s := r.1
        let x := r.2
        let p := x.vp
        match x.kind with
        | .isxDot =>
          let fixed := x.sweepAt + (p.capA + p.capB + 7) / 8 + 16
          if x.ia.isEmpty || x.ib.isEmpty then
            let l := dotLeaf x
            let s := s.vecCounts k l.2.1 l.2.2
            let s := s.pushLeaf k { instr := x.id, no := x.firstNo, due := fixed, sat := l.1.2,
                                    vals := x.leafVals (if l.1.1 = VRes.zero then [] else [(p.elem % 4096, l.1.1)]) }
            .next (s.vecDone k x fixed)
          else
            let w := walk false 8 x.ia x.ib
            let ps := w.1.filterMap fun y => match y with | (some a, some b) => some (a, b) | _ => none
            .next (s.setVInstr k { x with pairs := x.pairs ++ ps, ia := w.2.1, ib := w.2.2, due := start + 1 })
        | .mrg =>
          let fixed := x.sweepAt + (p.capA + p.capB + 7) / 8 + 16
          if x.ia.isEmpty && x.ib.isEmpty then
            if s.now < fixed then .next (s.setVInstr k { x with due := fixed })
            else .next ((s.writeMerge k x).vecDone k x fixed)
          else
            let w := walk true 8 x.ia x.ib
            let vs := w.1.filterMap (mrgValue x.scalar)
            let s := s.countNonfin k (vs.filter fun y => y.2.2).length
            .next (s.setVInstr k
              { x with out := x.out ++ vs.map (fun y => (y.1, y.2.1)), ia := w.2.1, ib := w.2.2, due := start + 1 })
        | .isxSampled =>
          match (s.vec k).bank x.bank, (s.vec k).bank x.bankB with
          | some xb, some yb =>
            let now := x.ia.take 8
            let rs : List (Nat × VRes × Bool × Bool × Bool) :=
              (enumFrom0 now).map fun y => (x.band + y.1, sampledEntry x xb yb y.2.idx)
            let s := s.vecCounts k (rs.filter fun y => y.2.2.2.1).length (rs.filter fun y => y.2.2.2.2).length
            let x := { x with
              ia := x.ia.drop 8, band := x.band + now.length, due := start + 1, sat := x.sat || rs.any fun y => y.2.2.1,
              sweep := Sparse.setAll VRes.zero x.sweep (rs.map fun (y : Nat × VRes × Bool × Bool × Bool) => (y.1, y.2.1)) }
            if x.ia.isEmpty then
              let fixed := x.sweepAt + max ((p.capA + 7) / 8) 16 + 12
              let s := s.pushLeaf k { instr := x.id, no := x.firstNo, due := fixed, sat := x.sat, vals := x.leafVals x.sweep }
              .next (s.vecDone k x (fixed - 12))
            else .next (s.setVInstr k x)
          | _, _ => .next s
        | .mvsRow =>
          match (s.vec k).bank x.bank with
          | none => .next s
          | some bk =>
            let rs := s.rowSweep k x bk x.band
            let sub := x.sub + 8
            if sub < rs.2 then .next (s.setVInstr k { x with sub := sub, due := start + 1 })
            else
              let s := s.vecCounts k (rs.1.filter fun y => y.2.2.2.1).length (rs.1.filter fun y => y.2.2.2.2).length
              let x' := { x with
                band := x.band + 1, sub := 0, sat := rs.1.any fun y => y.2.2.1,
                sweep := Sparse.setAll VRes.zero [] (rs.1.map fun y => (y.1, y.2.1)) }
              if p.k = 0 then .next (s.vecDone k x start)
              else .next (s.endSweep k x' x.band (start + 1) (decide (chunksOf64 p.k ≤ x.band + 1)))
        | _ => .next s

/-! ## The Scout's selection (R159 to R165) -/

/-- The score of a group: the largest over the tokens, a NaN below every number (R159). -/
def sctScore (x : VInstr) (g : Nat) : Option W32 :=
  let n := 64 * chunksOf64 x.vp.g
  ((List.range (min x.vp.t 8)).map fun t => foldFp false (sctFold false x.fold (t * n + g))).foldl (fun m v =>
    if fp32IsNaN v then m
    else match m with
      | none => some v
      | some y => if fNumKey y < fNumKey v then some v else m) none

/-- The groups selected and the number dropped by the cap (R159). -/
def sctSelect (score : List (Option W32)) (thr : W32) (bmax : Nat) : List Nat × Nat :=
  let cand := (enumFrom0 score).filterMap fun y =>
    match y.2 with
    | some v => if !fp32IsNaN thr && decide (fNumKey thr ≤ fNumKey v) then some (y.1, fNumKey v) else none
    | none => none
  let kept := cand.filter fun y =>
    decide ((cand.filter fun z => decide (y.2 < z.2 ∨ (y.2 = z.2 ∧ z.1 < y.1))).length < bmax)
  (kept.map (·.1), cand.length - kept.length)

/-- SCT completes: the list and bk are written together; a poisoned input poisons the list and bk is B_max (R159, R161, R162, R165). -/
def execSctSelectDone (c : CoreId) (s : State) : Host.Outcome State Fault Refusal :=
  let k := c.toNat
  match s.vecHead k with
  | none => .next s
  | some x =>
    let p := x.vp
    let g := min p.g 4096
    let dis := x.dis
    let start := max x.due (s.vec k).free
    if x.kind ≠ .sct then .next s
    else if dis && !x.begun then .next (s.setVInstr k { x with begun := true, due := start + (p.g + 7) / 8 + 8 })
    else if s.now < start ∨ (!dis ∧ x.band < sctBands p) then .next s
    else
      let thr := x.thr
      let sel := if dis then (List.range g, 0)
        else sctSelect ((List.range g).map (sctScore x)) thr p.bmax
      let list := sel.1 ++ List.replicate (p.bmax - sel.1.length) p.g
      let bs := list.flatMap fun i => leBytes 4 i
      let bk := if x.poisonAll then p.bmax else sel.1.length
      let v := s.vec k
      let s := s.setVec k { v with drop := v.drop + if x.poisonAll then 0 else sel.2 }
      let s := s.writeChunks k (State.chunksOf k p.outA bs (List.replicate bs.length x.poisonAll) 0)
      let s := s.setSeq k { (s.seq k) with bk := BitVec.ofNat 16 bk }
      .next (s.vecDone k x start)

end Sys2Proof.Machine
end

