-- ==== Sys2Proof/Machine/Dispatch.lean ====
section
/-! DEFINITION. The dispatch of the commands: one arm per constructor of Instr. -/

namespace Sys2Proof.Machine

def exec (i : Instr) (s : State) : Host.Outcome State Fault Refusal :=
  match i with
  | .nop c w => Sys2Proof.Machine.execNop c w s
  | .add c f => Sys2Proof.Machine.execAdd c f s
  | .sub c f => Sys2Proof.Machine.execSub c f s
  | .mul c f => Sys2Proof.Machine.execMul c f s
  | .and c f => Sys2Proof.Machine.execAnd c f s
  | .or c f => Sys2Proof.Machine.execOr c f s
  | .shl c f => Sys2Proof.Machine.execShl c f s
  | .shr c f => Sys2Proof.Machine.execShr c f s
  | .ldi c f => Sys2Proof.Machine.execLdi c f s
  | .lds c f => Sys2Proof.Machine.execLds c f s
  | .sts c bm f => Sys2Proof.Machine.execSts c bm f s
  | .wld c ia tile => Sys2Proof.Machine.execWld c ia tile s
  | .pass c f => Sys2Proof.Machine.execPass c f s
  | .aclr c ia base depthM1 integer => Sys2Proof.Machine.execAclr c ia base depthM1 integer s
  | .drain c f => Sys2Proof.Machine.execDrain c f s
  | .drainSplitNode c f => Sys2Proof.Machine.execDrainSplitNode c f s
  | .mvd c f => Sys2Proof.Machine.execMvd c f s
  | .mvsRow c f => Sys2Proof.Machine.execMvsRow c f s
  | .mvsGather c f => Sys2Proof.Machine.execMvsGather c f s
  | .isxDot c f => Sys2Proof.Machine.execIsxDot c f s
  | .isxSampled c f => Sys2Proof.Machine.execIsxSampled c f s
  | .mrg c f => Sys2Proof.Machine.execMrg c f s
  | .sct c f => Sys2Proof.Machine.execSct c f s
  | .arm c bm ia eng list => Sys2Proof.Machine.execArm c bm ia eng list s
  | .waits c mask => Sys2Proof.Machine.execWaits c mask s
  | .waitany c rd mask => Sys2Proof.Machine.execWaitany c rd mask s
  | .dpkOut c bm ia lenM1 areg loc => Sys2Proof.Machine.execDpkOut c bm ia lenM1 areg loc s
  | .dpkIn c ia lenM1 areg loc => Sys2Proof.Machine.execDpkIn c ia lenM1 areg loc s
  | .cbar c ch => Sys2Proof.Machine.execCbar c ch s
  | .csig c ch => Sys2Proof.Machine.execCsig c ch s
  | .bopen c pwp ch => Sys2Proof.Machine.execBopen c pwp ch s
  | .bcommit c rd => Sys2Proof.Machine.execBcommit c rd s
  | .babort c rd => Sys2Proof.Machine.execBabort c rd s
  | .tkt c rd ia ctr => Sys2Proof.Machine.execTkt c rd ia ctr s
  | .tktset c ra clr ia ctr => Sys2Proof.Machine.execTktset c ra clr ia ctr s
  | .loop c lc ia endIdx count => Sys2Proof.Machine.execLoop c lc ia endIdx count s
  | .endl c lc body => Sys2Proof.Machine.execEndl c lc body s
  | .br c cond ra ia target => Sys2Proof.Machine.execBr c cond ra ia target s
  | .bkt c rd ra src btab => Sys2Proof.Machine.execBkt c rd ra src btab s
  | .halt c => Sys2Proof.Machine.execHalt c s
  | .chain c ia cfg rec => Sys2Proof.Machine.execChain c ia cfg rec s
  | .stepCtr c rd => Sys2Proof.Machine.execStepCtr c rd s
  | .instructionFetch c => Sys2Proof.Machine.execInstructionFetch c s
  | .feederFillStart c => Sys2Proof.Machine.execFeederFillStart c s
  | .feederFillDone c second => Sys2Proof.Machine.execFeederFillDone c second s
  | .feederRelease c => Sys2Proof.Machine.execFeederRelease c s
  | .cellTokenStart c r j => Sys2Proof.Machine.execCellTokenStart c r j s
  | .cellStep c r j => Sys2Proof.Machine.execCellStep c r j s
  | .tokenSlotEnd c r j => Sys2Proof.Machine.execTokenSlotEnd c r j s
  | .rowLoadRead c => Sys2Proof.Machine.execRowLoadRead c s
  | .shadowCopy c r j => Sys2Proof.Machine.execShadowCopy c r j s
  | .bottomStage c r j => Sys2Proof.Machine.execBottomStage c r j s
  | .accCombine c base e => Sys2Proof.Machine.execAccCombine c base e s
  | .aclrTakeEffect c => Sys2Proof.Machine.execAclrTakeEffect c s
  | .drainRowRead c => Sys2Proof.Machine.execDrainRowRead c s
  | .splitNodeArrival c => Sys2Proof.Machine.execSplitNodeArrival c s
  | .chainStage c k => Sys2Proof.Machine.execChainStage c k s
  | .packerEmit c => Sys2Proof.Machine.execPackerEmit c s
  | .vecFillStart c => Sys2Proof.Machine.execVecFillStart c s
  | .vecFillDone c second => Sys2Proof.Machine.execVecFillDone c second s
  | .vecBand c => Sys2Proof.Machine.execVecBand c s
  | .vecLeafEntry c => Sys2Proof.Machine.execVecLeafEntry c s
  | .intersectStep c => Sys2Proof.Machine.execIntersectStep c s
  | .sctSelectDone c => Sys2Proof.Machine.execSctSelectDone c s
  | .tktServe ctr => Sys2Proof.Machine.execTktServe ctr s
  | .tktsetServe ctr => Sys2Proof.Machine.execTktsetServe ctr s
  | .queuedArmStart c e => Sys2Proof.Machine.execQueuedArmStart c e s
  | .bundledArmStart c e => Sys2Proof.Machine.execBundledArmStart c e s
  | .descEntry c e => Sys2Proof.Machine.execDescEntry c e s
  | .rawEntry c e => Sys2Proof.Machine.execRawEntry c e s
  | .listChain c e => Sys2Proof.Machine.execListChain c e s
  | .streamElementRead c e => Sys2Proof.Machine.execStreamElementRead c e s
  | .streamElementWrite c e => Sys2Proof.Machine.execStreamElementWrite c e s
  | .streamReadTimeout c e => Sys2Proof.Machine.execStreamReadTimeout c e s
  | .streamWriteTimeout c e => Sys2Proof.Machine.execStreamWriteTimeout c e s
  | .portDelivery c e => Sys2Proof.Machine.execPortDelivery c e s
  | .armComplete c e => Sys2Proof.Machine.execArmComplete c e s
  | .listHoldApply => Sys2Proof.Machine.execListHoldApply s
  | .regulatorWindow => Sys2Proof.Machine.execRegulatorWindow s
  | .regulatorGrant ch => Sys2Proof.Machine.execRegulatorGrant ch s
  | .daypackStep plane router out => Sys2Proof.Machine.execDaypackStep plane router out s
  | .daypackLand c k => Sys2Proof.Machine.execDaypackLand c k s
  | .trailSlot plane router out => Sys2Proof.Machine.execTrailSlot plane router out s
  | .phaseTablesStart => Sys2Proof.Machine.execPhaseTablesStart s
  | .whistleFlitHop k => Sys2Proof.Machine.execWhistleFlitHop k s
  | .remoteArm c => Sys2Proof.Machine.execRemoteArm c s
  | .errorNotice => Sys2Proof.Machine.execErrorNotice s
  | .controlBlockWrite c => Sys2Proof.Machine.execControlBlockWrite c s
  | .cairnBarrierComplete ch => Sys2Proof.Machine.execCairnBarrierComplete ch s
  | .cairnTimeout ch => Sys2Proof.Machine.execCairnTimeout ch s
  | .bundleVoteComplete ch => Sys2Proof.Machine.execBundleVoteComplete ch s
  | .bundleWritesLanded ch => Sys2Proof.Machine.execBundleWritesLanded ch s
  | .sliceStep k => Sys2Proof.Machine.execSliceStep k s
  | .sliceLineFill k => Sys2Proof.Machine.execSliceLineFill k s
  | .lpddr6Read ch bad => Sys2Proof.Machine.execLpddr6Read ch bad s
  | .lpddr6Write w => Sys2Proof.Machine.execLpddr6Write w s
  | .refresh ch band => Sys2Proof.Machine.execRefresh ch band s
  | .patrolScrub ch bad => Sys2Proof.Machine.execPatrolScrub ch bad s
  | .lpddr6Training ch seedsOk defaultOk => Sys2Proof.Machine.execLpddr6Training ch seedsOk defaultOk s
  | .portStart p => Sys2Proof.Machine.execPortStart p s
  | .portTrainingDone p locked found => Sys2Proof.Machine.execPortTrainingDone p locked found s
  | .portTrainRetry p => Sys2Proof.Machine.execPortTrainRetry p s
  | .portFail p lostLock => Sys2Proof.Machine.execPortFail p lostLock s
  | .flitTransmit p => Sys2Proof.Machine.execFlitTransmit p s
  | .flitReceive p codewordOk fixed header blocks => Sys2Proof.Machine.execFlitReceive p codewordOk fixed header blocks s
  | .ack p payload => Sys2Proof.Machine.execAck p payload s
  | .nak p payload => Sys2Proof.Machine.execNak p payload s
  | .flitEdgeDeliver p past => Sys2Proof.Machine.execFlitEdgeDeliver p past s
  | .readReq p => Sys2Proof.Machine.execReadReq p s
  | .readData p => Sys2Proof.Machine.execReadData p s
  | .write p => Sys2Proof.Machine.execWrite p s
  | .writeDone p => Sys2Proof.Machine.execWriteDone p s
  | .node n => Sys2Proof.Machine.execNode n s
  | .service p => Sys2Proof.Machine.execService p s
  | .symbolResend p => Sys2Proof.Machine.execSymbolResend p s
  | .arrive p payload => Sys2Proof.Machine.execArrive p payload s
  | .release p payload => Sys2Proof.Machine.execRelease p payload s
  | .moduleWideComplete ch => Sys2Proof.Machine.execModuleWideComplete ch s
  | .moduleWideTimeout ch => Sys2Proof.Machine.execModuleWideTimeout ch s
  | .ready p payload => Sys2Proof.Machine.execReady p payload s
  | .start p payload => Sys2Proof.Machine.execStart p payload s
  | .startRelease => Sys2Proof.Machine.execStartRelease s
  | .timeSend p frac => Sys2Proof.Machine.execTimeSend p frac s
  | .time p payload t4 t4frac => Sys2Proof.Machine.execTime p payload t4 t4frac s
  | .syncLock => Sys2Proof.Machine.execSyncLock s
  | .rateReq p payload => Sys2Proof.Machine.execRateReq p payload s
  | .rateSet p payload => Sys2Proof.Machine.execRateSet p payload s
  | .rateSetApply => Sys2Proof.Machine.execRateSetApply s
  | .refinLoss => Sys2Proof.Machine.execRefinLoss s
  | .stepPermit late => Sys2Proof.Machine.execStepPermit late s
  | .damperInterval slack => Sys2Proof.Machine.execDamperInterval slack s
  | .loweringApply => Sys2Proof.Machine.execLoweringApply s
  | .thermalCheck => Sys2Proof.Machine.execThermalCheck s
  | .rateRestore => Sys2Proof.Machine.execRateRestore s
  | .stepTargetApply => Sys2Proof.Machine.execStepTargetApply s
  | .powerWindowEnd meanW => Sys2Proof.Machine.execPowerWindowEnd meanW s
  | .loopPeriodEnd r => Sys2Proof.Machine.execLoopPeriodEnd r s
  | .thermalTrip => Sys2Proof.Machine.execThermalTrip s
  | .domainTransition => Sys2Proof.Machine.execDomainTransition s
  | .basecampHeartbeatMiss => Sys2Proof.Machine.execBasecampHeartbeatMiss s
  | .rangerRestart cause => Sys2Proof.Machine.execRangerRestart cause s
  | .parameterStoreDone h => Sys2Proof.Machine.execParameterStoreDone h s
  | .request peer bytes h => Sys2Proof.Machine.execRequest peer bytes h s
  | .read index o => Sys2Proof.Machine.execRead index o s
  | .segmentRead index o => Sys2Proof.Machine.execSegmentRead index o s
  | .registerWrite index o h => Sys2Proof.Machine.execRegisterWrite index o h s
  | .openSession peer bytes => Sys2Proof.Machine.execOpenSession peer bytes s
  | .confirm peer bytes => Sys2Proof.Machine.execConfirm peer bytes s
  | .close peer bytes => Sys2Proof.Machine.execClose peer bytes s
  | .sessionIdleTimeout sid => Sys2Proof.Machine.execSessionIdleTimeout sid s
  | .submit peer bytes => Sys2Proof.Machine.execSubmit peer bytes s
  | .submitFragmentTimeout sid reqId => Sys2Proof.Machine.execSubmitFragmentTimeout sid reqId s
  | .admission ch => Sys2Proof.Machine.execAdmission ch s
  | .epochRollover h => Sys2Proof.Machine.execEpochRollover h s
  | .outputHeaderPoll ch => Sys2Proof.Machine.execOutputHeaderPoll ch s
  | .recordSign => Sys2Proof.Machine.execRecordSign s
  | .fetch peer bytes => Sys2Proof.Machine.execFetch peer bytes s
  | .fetchWindowExpiry sid reqId => Sys2Proof.Machine.execFetchWindowExpiry sid reqId s
  | .packImage o => Sys2Proof.Machine.execPackImage o s
  | .packInstall o => Sys2Proof.Machine.execPackInstall o s
  | .packCheckComplete => Sys2Proof.Machine.execPackCheckComplete s
  | .packStart o h => Sys2Proof.Machine.execPackStart o h s
  | .packHalt o => Sys2Proof.Machine.execPackHalt o s
  | .packFatalHalt => Sys2Proof.Machine.execPackFatalHalt s
  | .fabricReset o => Sys2Proof.Machine.execFabricReset o s
  | .fabricResetComplete seedsOk defaultOk => Sys2Proof.Machine.execFabricResetComplete seedsOk defaultOk s
  | .paramDefaults o h => Sys2Proof.Machine.execParamDefaults o h s
  | .fwImage o => Sys2Proof.Machine.execFwImage o s
  | .fwInstall o h => Sys2Proof.Machine.execFwInstall o h s
  | .fwBlockWrite w => Sys2Proof.Machine.execFwBlockWrite w s
  | .fwBlockRetry w => Sys2Proof.Machine.execFwBlockRetry w s
  | .wimgManifest o => Sys2Proof.Machine.execWimgManifest o s
  | .wimgData o => Sys2Proof.Machine.execWimgData o s
  | .wimgLoad o => Sys2Proof.Machine.execWimgLoad o s
  | .wimgHashComplete => Sys2Proof.Machine.execWimgHashComplete s
  | .calStore o h => Sys2Proof.Machine.execCalStore o h s
  | .selfCal o => Sys2Proof.Machine.execSelfCal o s
  | .selfCalDone h => Sys2Proof.Machine.execSelfCalDone h s
  | .arrayDiag o => Sys2Proof.Machine.execArrayDiag o s
  | .arrayDiagDone fails => Sys2Proof.Machine.execArrayDiagDone fails s
  | .bwOpen o => Sys2Proof.Machine.execBwOpen o s
  | .bwCommit o h => Sys2Proof.Machine.execBwCommit o h s
  | .bwAbort o => Sys2Proof.Machine.execBwAbort o s
  | .attestChallenge o => Sys2Proof.Machine.execAttestChallenge o s
  | .ownerEnrol o h => Sys2Proof.Machine.execOwnerEnrol o h s
  | .logFetch o => Sys2Proof.Machine.execLogFetch o s
  | .stepTarget o h => Sys2Proof.Machine.execStepTarget o h s
  | .powerCap o h => Sys2Proof.Machine.execPowerCap o h s
  | .regulatorSplit o => Sys2Proof.Machine.execRegulatorSplit o s
  | .slicePartition o => Sys2Proof.Machine.execSlicePartition o s
  | .domainRequest o => Sys2Proof.Machine.execDomainRequest o s
  | .logbookMode o h => Sys2Proof.Machine.execLogbookMode o h s
  | .valveOwner o h => Sys2Proof.Machine.execValveOwner o h s
  | .maintenance o => Sys2Proof.Machine.execMaintenance o s
  | .arrayRepairMap o h => Sys2Proof.Machine.execArrayRepairMap o h s
  | .coreRepairMap o h => Sys2Proof.Machine.execCoreRepairMap o h s
  | .glRouteTable o h => Sys2Proof.Machine.execGlRouteTable o h s
  | .scoutThreshold o => Sys2Proof.Machine.execScoutThreshold o s
  | .scoutDisable o => Sys2Proof.Machine.execScoutDisable o s
  | .coreCtrl o => Sys2Proof.Machine.execCoreCtrl o s
  | .coreSelect o => Sys2Proof.Machine.execCoreSelect o s
  | .moduleId o h => Sys2Proof.Machine.execModuleId o h s
  | .vendorConsent o h => Sys2Proof.Machine.execVendorConsent o h s
  | .calibrationEntry index o => Sys2Proof.Machine.execCalibrationEntry index o s
  | .recoveryData peer bytes w => Sys2Proof.Machine.execRecoveryData peer bytes w s
  | .recoveryQuery peer bytes => Sys2Proof.Machine.execRecoveryQuery peer bytes s
  | .pwrEnRise => Sys2Proof.Machine.execPwrEnRise s
  | .pwrGoodRetry => Sys2Proof.Machine.execPwrGoodRetry s
  | .pwrGoodRise straps => Sys2Proof.Machine.execPwrGoodRise straps s
  | .firmwareBootCheck => Sys2Proof.Machine.execFirmwareBootCheck s
  | .domainRamp d => Sys2Proof.Machine.execDomainRamp d s
  | .fullParameterService => Sys2Proof.Machine.execFullParameterService s
  | .basecampReady => Sys2Proof.Machine.execBasecampReady s
  | .pwrEnFall => Sys2Proof.Machine.execPwrEnFall s
  | .undervoltageTrip => Sys2Proof.Machine.execUndervoltageTrip s
  | .overvoltageTrip => Sys2Proof.Machine.execOvervoltageTrip s
  | .powerDownHoldEnd => Sys2Proof.Machine.execPowerDownHoldEnd s
  | .modResetNFall straps => Sys2Proof.Machine.execModResetNFall straps s
  | .modResetNRise => Sys2Proof.Machine.execModResetNRise s
  | .extest => Sys2Proof.Machine.execExtest s
  | .idcode => Sys2Proof.Machine.execIdcode s
  | .samplePreload cells => Sys2Proof.Machine.execSamplePreload cells s
  | .clamp => Sys2Proof.Machine.execClamp s
  | .trace => Sys2Proof.Machine.execTrace s
  | .bypass => Sys2Proof.Machine.execBypass s
  | .traceEnWrite v => Sys2Proof.Machine.execTraceEnWrite v s
  | .mgmtLinkUp cr => Sys2Proof.Machine.execMgmtLinkUp cr s
  | .mgmtLinkDown => Sys2Proof.Machine.execMgmtLinkDown s
  | .arpRequest peer target => Sys2Proof.Machine.execArpRequest peer target s
  | .echoRequest peer v6 target data => Sys2Proof.Machine.execEchoRequest peer v6 target data s
  | .neighbourSolicitation peer target => Sys2Proof.Machine.execNeighbourSolicitation peer target s
  | .refinReturn => Sys2Proof.Machine.execRefinReturn s
  | .inputInRange => Sys2Proof.Machine.execInputInRange s
  | .rangerRestartDone => Sys2Proof.Machine.execRangerRestartDone s
  | .testLogicReset => Sys2Proof.Machine.execTestLogicReset s
  | .channelSyncLoss ch => Sys2Proof.Machine.execChannelSyncLoss ch s
  | .observerAccessStart => Sys2Proof.Machine.execObserverAccessStart s

end Sys2Proof.Machine
end

