-- ==== Sys2Proof/WellFormed.lean ====
section
/-! DEFINITION. Which commands are well formed: the field values that a sequencer word can carry (R174, R176, R177) and the
operands that a step of the block can have. -/

namespace Sys2Proof

/-- The scalar form with VAR reserved (R174). -/
def Scalar.plain (f : Scalar) : Bool := !f.var

/-- The vector form with GRP and IA reserved, as in MRG and SCT (R174, R177). -/
def VecF.noGrp (f : VecF) : Bool := f.grp = 0 && !f.ia

/-- Does the command carry operands that its row can have? -/
def Instr.wf : Instr → Bool
  | .nop _ w => w = 0
  | .add _ f | .sub _ f | .mul _ f | .and _ f | .or _ f | .shl _ f | .lds _ f => f.plain
  | .sts _ _ f => f.plain
  | .drainSplitNode _ f => !f.bm
  | .mrg _ f | .sct _ f => f.noGrp
  | .br _ cond _ _ _ => cond ≤ 4
  | .daypackStep _ _ out | .trailSlot _ _ out => out ≠ 7
  | .refresh _ band => band ≠ 3
  | .damperInterval slack => slack.length = 32
  | .loopPeriodEnd r => r.dies.length = 64
  | .flitReceive _ _ _ _ blocks => blocks.length ≤ 8
  | .calibrationEntry index _ => 0xA001 ≤ index && index ≤ 0xA006
  | .arrayDiagDone fails => fails.all fun p => p.1 < 65 && p.2 < 65
  | _ => true

end Sys2Proof
end

