-- ==== Sys2Proof/Safety.lean ====
section
/-! DEFINITION. The vocabulary of the statements: what an issue leaves in a sequencer, and the invariant of a run. -/

namespace Sys2Proof.Machine

/-- A sequencer after an instruction that goes on in order: PC at the next one, which may issue in the next step (R172). -/
def Seq.goesOn (q : Seq) (now : Nat) : Seq := { q with pc := q.pc + 1, st := 1, nextIssue := now + 1 }

/-- A sequencer after an instruction that writes RD and goes on in order. -/
def Seq.writes (q : Seq) (now : Nat) (rd : BitVec 4) (v : W64) : Seq :=
  { q with sreg := q.sreg.set rd.toNat v, pc := q.pc + 1, st := 1, nextIssue := now + 1 }

/-- A sequencer after an instruction that continues at index t, `steps` steps later. A target that the buffer does not hold, other than
the next instruction, empties the buffer (R172, R173). -/
def Seq.jumps (q : Seq) (now t steps : Nat) : Seq :=
  let stays := (q.bufBase ≤ t ∧ t < q.bufBase + q.buf.length) ∨ t = q.pc.toNat + 1
  { q with
    pc := BitVec.ofNat 12 t, st := 1, nextIssue := now + steps, bufBase := if stays then q.bufBase else t,
    buf := if stays then q.buf else [] }

/-- The state with core c gone on in order (R172). -/
def State.goesOn (s : State) (c : CoreId) : State := s.setSeq c.toNat ((s.seq c.toNat).goesOn s.now)

/-- The row of the table that hands a kind of work to the vector path. -/
def VKind.row (k : VKind) (c : CoreId) (f : VecF) : Instr :=
  match k with
  | .mvd => .mvd c f
  | .mvsRow => .mvsRow c f
  | .mvsGather => .mvsGather c f
  | .isxDot => .isxDot c f
  | .isxSampled => .isxSampled c f
  | .mrg => .mrg c f
  | .sct => .sct c f

/-- A barrier channel once one more participant has arrived. On a channel of this module the last of them makes the barrier due 48 steps
on, and so does a halting mark on any channel (R184, R268). -/
def CairnCh.joined (k : CairnCh) (a : Arrival) : CairnCh :=
  let all := k.mw.getLsbD 0 = false ∧ ∀ c ∈ k.parts, ∃ x ∈ k.arrived ++ [a], x.core = c
  { k with
    fault := k.fault || a.fault, stop := k.stop || a.stop, abort := k.abort || a.abort,
    arrived := k.arrived ++ [a], first := some (k.first.getD a.at_),
    due := if k.due.isSome then k.due else if a.fault = true ∨ a.stop = true ∨ all then some (a.at_ + 48) else none }

/-- May a core arrive on a channel as one more participant of the current barrier: the barrier is open, and it is not on it yet? -/
def State.opensTo (s : State) (ch : BitVec 4) (c : Nat) : Bool :=
  let k := s.cairnCh ch.toNat
  !k.dead && !s.timeoutDue ch && !k.arrived.any fun x => x.core = c

/-! ## Operations of the Parameter Protocol -/

/-- Ranger serves an operation of an open session at once: it has full parameter service, stores nothing, updates no firmware, and the
session's role has a code of at least w and is not Vendor; b is the session's bundle write. -/
def State.servesIn (s : State) (o : OpReq) (w : Nat) (b : Option BWrite) : Prop :=
  s.listening = true ∧ s.storing? = false ∧ s.rng.level = 2 ∧ s.fwBusy = false ∧ s.rng.closeDue = false ∧ o.sid ≠ 0 ∧
    (s.encRequired = true → o.enc = true) ∧
    ∃ k, s.sessionOf o.sid = some k ∧ k.confirmed = true ∧ k.role ≠ .vendor ∧ w ≤ k.role.code ∧ k.bw = b

/-- The same with no bundle write begun. -/
def State.serves (s : State) (o : OpReq) (w : Nat) : Prop := s.servesIn o w none

/-- The state once the operation's session has been kept open by it (R415). -/
def State.touch (s : State) (o : OpReq) : State :=
  match s.sessionOf o.sid with
  | some k => s.setSession { k with enc := o.enc, last := s.nowMs }
  | none => s

/-- The state once an operation has been answered (R411); addresses that have been written are in use from then on (R406). -/
def State.answered (s : State) (o : OpReq) (status : W16) (data : List Byte) : State := (s.emit (.result o status 0 data)).useAddrs

/-- The rows that write one entry of the dictionary: its index, and what they carry. -/
def entryWrite : Instr → Option (W16 × OpReq × Holdup)
  | .attestChallenge o => some (0x7040, o, noHoldup)
  | .ownerEnrol o h => some (0x7003, o, h)
  | .logFetch o => some (0x6041, o, noHoldup)
  | .stepTarget o h => some (0x2001, o, h)
  | .powerCap o h => some (0x2002, o, h)
  | .regulatorSplit o => some (0x4010, o, noHoldup)
  | .slicePartition o => some (0x3010, o, noHoldup)
  | .domainRequest o => some (0x2031, o, noHoldup)
  | .logbookMode o h => some (0x6020, o, h)
  | .valveOwner o h => some (0x2010, o, h)
  | .maintenance o => some (0x3002, o, noHoldup)
  | .arrayRepairMap o h => some (0x3020, o, h)
  | .coreRepairMap o h => some (0x3021, o, h)
  | .glRouteTable o h => some (0x5010, o, h)
  | .scoutThreshold o => some (0x3030, o, noHoldup)
  | .scoutDisable o => some (0x3031, o, noHoldup)
  | .coreCtrl o => some (0x9003, o, noHoldup)
  | .coreSelect o => some (0x9001, o, noHoldup)
  | .moduleId o h => some (0x1000, o, h)
  | .vendorConsent o h => some (0x7020, o, h)
  | .calibrationEntry index o => if index < 0xA001 ∨ 0xA006 < index then none else some (index, o, noHoldup)
  | .registerWrite index o h => if 0xF000 ≤ index then none else some (index, o, h)
  | _ => none

/-- An operation that is a WRITE, and one that is a COMMAND. -/
def writeOf (index : W16) (o : OpReq) : Op := { op := opWrite, index, o }
def commandOf (index : W16) (o : OpReq) : Op := { op := opCommand, index, o }

/-- The rows that bring one segment of an image: the entry's index. -/
def imageRow : Instr → Option (W16 × OpReq)
  | .packImage o => some (0x8000, o)
  | .fwImage o => some (0x7050, o)
  | .wimgManifest o => some (0x8011, o)
  | .wimgData o => some (0x8012, o)
  | _ => none

/-- What every run keeps: memory is in its canonical form. -/
def State.Inv (s : State) : Prop := s.mem.wf = true

end Sys2Proof.Machine
end

