-- ==== Sys2Proof/Certificates/Slice0/Obligations.lean ====
section
/-! DEFINITION. The statements for the provers. -/

open Sys2Proof Sys2Proof.Machine

/-! ## The block and its queue -/

/-- A step takes the command at the front of the queue and is its meaning on the state with the queue's rest (log 1). -/
def Obligations.StepRunsTheFrontCommand : Prop :=
  ∀ (s : State) (c : Instr) (rest : List Instr), s.pending = c :: rest → step s = exec c { s with pending := rest }

/-- With an empty queue a step is a tick of Ranger's millisecond time base, which runs once the module has power; nothing else changes
(the model's choice, log 1). It rests in part on choices of the model (log 1). -/
def Obligations.EmptyQueueTicks : Prop :=
  ∀ s : State, s.pending = [] →
    (s.pwr.phase ≠ .off → step s = .next { s with nowMs := s.nowMs + 1 }) ∧ (s.pwr.phase = .off → step s = .next s)

/-- The state after reset: no command waits, the memory lists nothing, no pack is present, the pacers stand still at the default target,
every alert is off, and the registers whose reset value the spec gives hold it. The unpowered module as reset is the model's choice (log
13). It rests in part on choices of the model (log 3, 4, 13). -/
def Claim.ResetState : Prop :=
  let s := State.reset
  s.pending = [] ∧ s.mem.bytes = [] ∧ s.mem.side = [] ∧ s.pwr.phase = .off ∧ s.pwr.domains = List.replicate 44 0 ∧
  s.pack.state = .none ∧ s.pack.detail = 0xFFFF00000000 ∧ s.pace.target = 1000000 ∧ s.pwr.cap = 2800 ∧
  s.cool.u = 3200 ∧ s.cool.duty = 100000 ∧ s.cacheWays = 8 ∧ s.pinWays = 4 ∧ s.mm.budget = [3696, 1008, 672] ∧
  s.tap.ir = 0x01 ∧ s.rng.alerts = [] ∧ s.rng.sessions = [] ∧
  (∀ c k, (s.seq c).reg k = 0) ∧ (∀ c, (s.seq c).pc = 0 ∧ (s.seq c).bk = 0 ∧ (s.seq c).st = 0) ∧
  (∀ k, s.ctr k = {}) ∧ (∀ p, (s.gport p).delay = 0)

/-! ## Encoding of the sequencer's instructions -/

/-- Decoding the word of a well-formed sequencer instruction gives it back, with every operand. -/
def Claim.DecodeOfEncode : Prop :=
  ∀ (i : Instr) (w : W64), i.wf = true → encodeWord i = some w → ∃ c : CoreId, decodeWord c w = some i

/-- A word that decodes is the encoding of what it decodes to, which is well formed: no reserved bit is dropped, and no two words spell
one instruction. -/
def Claim.EncodeOfDecode : Prop :=
  ∀ (c : CoreId) (w : W64) (i : Instr), decodeWord c w = some i → encodeWord i = some w ∧ i.wf = true

/-- Words written out from the encodings of the instruction list: the three words of the worked example of R199, and one of each of the
other forms. -/
def Obligations.WordsOfTheInstructionList : Prop :=
  ∀ c : CoreId,
    decodeWord c 0x3800000000000002 = some (.bopen c false 2) ∧
    decodeWord c 0x1380070700021000 =
      some (.drain c { bm := true, ia := false, ib := false, cfg := 3, grp := 4, nrowsM1 := 7, tagreg := 0, dest := 0x21000 }) ∧
    decodeWord c 0x3900500000000000 = some (.bcommit c 5) ∧
    decodeWord c 0x0100125800000007 =
      some (.add c { rd := 1, ra := 2, rb := 5, imm := true, var := false, imm32 := 7 }) ∧
    decodeWord c 0x4800C01005000010 = none ∧
    decodeWord c 0x4800C00005000010 = some (.loop c 3 false 5 16) ∧
    decodeWord c 0x4F00000000000000 = some (.halt c) ∧
    decodeWord c 0x7700000000000000 = none

/-! ## Scalar instructions -/

/-- ADD, SUB, MUL, AND and OR: RD takes the result modulo 2^64, B is RB or IMM32 sign-extended, and nothing else of the machine changes
but the core's PC and issue time. -/
def Claim.ArithmeticResults : Prop :=
  ∀ (s : State) (c : CoreId) (f : Scalar),
    let q := s.seq c.toNat
    let a := q.reg f.ra
    let b := if f.imm then f.imm32.signExtend 64 else q.reg f.rb
    q.pc ≠ 4095 →
    (s.canIssue c (.add c f) = true →
      exec (.add c f) s = .next (s.setSeq c.toNat (q.writes s.now f.rd (BitVec.ofNat 64 (a.toNat + b.toNat))))) ∧
    (s.canIssue c (.sub c f) = true →
      exec (.sub c f) s = .next (s.setSeq c.toNat (q.writes s.now f.rd (BitVec.ofNat 64 (2 ^ 64 + a.toNat - b.toNat))))) ∧
    (s.canIssue c (.mul c f) = true →
      exec (.mul c f) s = .next (s.setSeq c.toNat (q.writes s.now f.rd (BitVec.ofNat 64 (a.toNat * b.toNat))))) ∧
    (s.canIssue c (.and c f) = true → ∃ v, exec (.and c f) s = .next (s.setSeq c.toNat (q.writes s.now f.rd v)) ∧
      ∀ i, v.getLsbD i = (a.getLsbD i && b.getLsbD i)) ∧
    (s.canIssue c (.or c f) = true → ∃ v, exec (.or c f) s = .next (s.setSeq c.toNat (q.writes s.now f.rd v)) ∧
      ∀ i, v.getLsbD i = (a.getLsbD i || b.getLsbD i))

/-- SHL, SHR, LDI and STEP: shift counts are taken modulo 64, SHR is logical or arithmetic by VAR, LDI loads IMM32 sign-extended or the
upper half, and STEP reads the module step counter. -/
def Claim.ShiftAndLoadResults : Prop :=
  ∀ (s : State) (c : CoreId) (f : Scalar) (rd : BitVec 4),
    let q := s.seq c.toNat
    let a := q.reg f.ra
    let n := (if f.imm then f.imm32.signExtend 64 else q.reg f.rb).toNat % 64
    q.pc ≠ 4095 →
    (s.canIssue c (.shl c f) = true →
      exec (.shl c f) s = .next (s.setSeq c.toNat (q.writes s.now f.rd (BitVec.ofNat 64 (a.toNat * 2 ^ n))))) ∧
    (s.canIssue c (.shr c f) = true → f.var = false →
      exec (.shr c f) s = .next (s.setSeq c.toNat (q.writes s.now f.rd (BitVec.ofNat 64 (a.toNat / 2 ^ n))))) ∧
    (s.canIssue c (.shr c f) = true → f.var = true →
      exec (.shr c f) s = .next (s.setSeq c.toNat (q.writes s.now f.rd (BitVec.ofInt 64 (a.toInt / 2 ^ n))))) ∧
    (s.canIssue c (.ldi c f) = true → f.var = false →
      exec (.ldi c f) s = .next (s.setSeq c.toNat (q.writes s.now f.rd (BitVec.ofInt 64 f.imm32.toInt)))) ∧
    (s.canIssue c (.ldi c f) = true → f.var = true →
      exec (.ldi c f) s = .next (s.setSeq c.toNat
        (q.writes s.now f.rd (BitVec.ofNat 64 (f.imm32.toNat * 2 ^ 32 + (q.reg f.rd).toNat % 2 ^ 32))))) ∧
    (s.canIssue c (.stepCtr c rd) = true →
      exec (.stepCtr c rd) s = .next (s.setSeq c.toNat (q.writes s.now rd (BitVec.ofNat 64 s.now))))

/-- NOP does nothing but go on. A word that decodes to nothing is taken as NOP and records fault 5, and the core goes on (R176). -/
def Claim.NopAndIllegalWords : Prop :=
  ∀ (s : State) (c : CoreId) (w : W64),
    (s.seq c.toNat).pc ≠ 4095 → s.canIssue c (.nop c w) = true →
    (w = 0 → exec (.nop c w) s = .next (s.goesOn c)) ∧
    (w ≠ 0 → exec (.nop c w) s = .next ((s.coreFault c.toNat 5 (s.seq c.toNat).pc).goesOn c))

/-- LDS goes on with RD holding the 8 bytes of the core-local space at RA + IMM32 modulo 2^19 rounded down to a multiple of 8: of the core
store, little-endian, a held write of the parcel first and a poisoned parcel as zero; of the control block the register at the offset; past
it zero. Only RD, PC and the issue time change (R179, R200). It rests in part on choices of the model (log 61). -/
def Claim.LoadsOfTheLocalSpace : Prop :=
  ∀ (s : State) (c : CoreId) (f : Scalar),
    let q := s.seq c.toNat
    let a := (q.reg f.ra + f.imm32.signExtend 64).toNat % 2 ^ 19 / 8 * 8
    let k := coreAddr c.toNat a
    q.pc ≠ 4095 → s.canIssue c (.lds c f) = true →
    ∃ v : W64, exec (.lds c f) s = .next (s.setSeq c.toNat (q.writes s.now f.rd v)) ∧
      (a < 0x40000 → s.heldAt none (k / 32 * 32) = none → (s.mem.sideAt k).poison = false →
        ∀ i < 8, v.toNat / 256 ^ i % 256 = (s.mem.byte (k + i)).toNat) ∧
      (a < 0x40000 → s.heldAt none (k / 32 * 32) = none → (s.mem.sideAt k).poison = true → v = 0) ∧
      (∀ p, a < 0x40000 → s.heldAt none (k / 32 * 32) = some p →
        (p.poison = false → ∀ i < 8, v.toNat / 256 ^ i % 256 = (p.data.extractLsb' (8 * (k % 32 + i)) 8).toNat) ∧
        (p.poison = true → v = 0)) ∧
      (0x40000 ≤ a → a < 0x41000 → v = BitVec.ofNat 64 (s.controlReg c.toNat (a - 0x40000))) ∧
      (0x41000 ≤ a → v = 0)

/-- What the control block of a core reads as: CORE_CTRL, CORE_STAT, CORE_FAULT, ACC_FAULT, ARR_RESERR, ARR_REPAIR, ACC_SAT, the counters, each
at its limit at most, STRM_STAT of each engine, and SREG_VIEW only while the core has halted; an offset not listed reads as zero (R200). -/
def Claim.ControlBlockReads : Prop :=
  ∀ (s : State) (c : Nat),
    let q := s.seq c
    let r := s.controlReg c
    let n := fun (b : Bool) => if b then 1 else 0
    r 0x000 = 2 * n q.isolate + n q.stop ∧
    r 0x008 = q.pc.toNat * 2 ^ 16 + n (s.bnd c).isOpen * 2 ^ 7 + n s.compatShown * 2 ^ 6 + n s.pack.strict * 2 ^ 5 + q.st.toNat ∧
    r 0x010 = q.fCount * 2 ^ 24 + q.fPc.toNat * 2 ^ 12 + n q.fValid * 2 ^ 8 + q.fCode.toNat ∧
    r 0x018 = min (s.arr c).errCount 0xFFFF * 2 ^ 16 + n (s.arr c).errSeen * 2 ^ 6 + (s.arr c).errCol.toNat ∧
    r 0x020 = (s.arr c).repair.toNat ∧
    r 0x028 = min (s.acc c).drained 0xFFFF * 2 ^ 16 + (s.acc c).sat.toNat ∧
    r 0x030 = q.aCount * 2 ^ 24 + q.aPass.toNat * 2 ^ 16 + q.aSlot.toNat * 2 ^ 9 + n q.aValid * 2 ^ 8 + q.aCode.toNat ∧
    r 0x048 = min (s.cnt c).qsat (2 ^ 32 - 1) ∧ r 0x050 = min (s.cnt c).nonfin (2 ^ 32 - 1) ∧ r 0x058 = min (s.cnt c).tdc (2 ^ 64 - 1) ∧
    r 0x060 = min (s.cnt c).dup (2 ^ 32 - 1) ∧ r 0x068 = min (s.cnt c).poison (2 ^ 32 - 1) ∧
    (∀ e : Nat, e < 8 → r (0x100 + 8 * e) = (s.eng c e).statReg) ∧
    (∀ i : BitVec 4, r (0x200 + 8 * i.toNat) = if q.st = 3 ∨ q.st = 4 then (q.reg i).toNat else 0) ∧
    (∀ off, 0x280 ≤ off → r off = 0)

/-- STS without BM: into the core store, outside the list ranges, it stores the 8 bytes of RD and no other byte, and a poisoned parcel stays
as it is; into the instruction region it stores nothing and counts one poisoned error; above the core store nothing happens (R43, R179). It
rests in part on choices of the model (log 14). -/
def Claim.StoresOfTheLocalSpace : Prop :=
  ∀ (s : State) (c : CoreId) (f : Scalar),
    let q := s.seq c.toNat
    let a := localAddr q f
    let k := coreAddr c.toNat a
    q.pc ≠ 4095 → s.canIssue c (.sts c false f) = true →
    (0x8000 ≤ a → a < 0x40000 → s.inListRange (k / 32 * 32) = false → (s.mem.sideAt k).poison = false →
      ∃ m : Memory, exec (.sts c false f) s = .next ((s.setMem m).goesOn c) ∧
        (∀ i < 8, (m.byte (k + i)).toNat = (q.reg f.rd).toNat / 256 ^ i % 256) ∧
        (∀ x, x < k ∨ k + 8 ≤ x → m.byte x = s.mem.byte x)) ∧
    (0x8000 ≤ a → a < 0x40000 → s.inListRange (k / 32 * 32) = false → (s.mem.sideAt k).poison = true →
      exec (.sts c false f) s = .next (s.goesOn c)) ∧
    (a < 0x8000 → exec (.sts c false f) s = .next ((s.countPoison c.toNat 1).goesOn c)) ∧
    (0x40000 ≤ a → exec (.sts c false f) s = .next (s.goesOn c))

/-- STS into a list range is taken into the list hold while it has room: memory is unchanged, and the held write carries the parcel as it
is with RD's bytes in it, or poisoned where it was (R43, R227); with the hold full the store waits at issue. It rests in part on choices
of the model (log 12). -/
def Claim.StoresIntoListRanges : Prop :=
  ∀ (s : State) (c : CoreId) (f : Scalar),
    let q := s.seq c.toNat
    let a := localAddr q f
    let k := coreAddr c.toNat a / 32 * 32
    let at_ := coreAddr c.toNat a % 32
    let old := (s.heldAt none k).getD (s.mem.parcel k k)
    q.pc ≠ 4095 → s.canIssue c (.sts c false f) = true → 0x8000 ≤ a → a < 0x40000 → s.inListRange k = true →
    (s.holdq.length < 1024 → ∃ p : Parcel,
      exec (.sts c false f) s =
        .next (({ s with holdq := s.holdq ++ [{ at_ := s.now, addr := k, parcel := p, who := .nobody }] } : State).goesOn c) ∧
      p.poison = old.poison ∧
      (old.poison = false → (∀ i < 8, (p.data.extractLsb' (8 * (at_ + i)) 8).toNat = (q.reg f.rd).toNat / 256 ^ i % 256) ∧
        (∀ i < 32, (i < at_ ∨ at_ + 8 ≤ i) → p.data.extractLsb' (8 * i) 8 = old.data.extractLsb' (8 * i) 8))) ∧
    (1024 ≤ s.holdq.length → exec (.sts c false f) s = .next (s.setSt c.toNat 2))

/-- STS with BM while a bundle is open joins it as one action of one parcel that holds the value, and stores nothing; the 65th action or
the 513th parcel is the cause OVERFLOW (R194, R196, R197). -/
def Claim.BundledStore : Prop :=
  ∀ (s : State) (c : CoreId) (f : Scalar),
    let q := s.seq c.toNat
    let b := s.bnd c.toNat
    q.pc ≠ 4095 → b.isOpen = true → s.canIssue c (.sts c true f) = true →
    let cause := if 64 ≤ b.acts.length ∨ 512 ≤ b.parcels then b.cause ||| 0x0008 else b.cause
    exec (.sts c true f) s = .next ((s.setBnd c.toNat
      { b with acts := b.acts ++ [.sts (localAddr q f) (q.reg f.rd)], parcels := b.parcels + 1, cause := cause }).goesOn c)

/-- A member of a bundle issued while no bundle is open does not execute: STRAY is set and fault 4 raised (R199). -/
def Obligations.StrayMembers : Prop :=
  ∀ (s : State) (c : CoreId) (f : Scalar) (d : DrainF) (ia : Bool) (len e : BitVec 3) (areg : BitVec 4) (loc : BitVec 18) (l : LAddr),
    let b := s.bnd c.toNat
    let after := ((s.setBnd c.toNat { b with stray := true }).coreFault c.toNat 4 (s.seq c.toNat).pc).goesOn c
    (s.seq c.toNat).pc ≠ 4095 → b.isOpen = false →
    (s.canIssue c (.sts c true f) = true → exec (.sts c true f) s = .next after) ∧
    (s.canIssue c (.dpkOut c true ia len areg loc) = true → exec (.dpkOut c true ia len areg loc) s = .next after) ∧
    (s.canIssue c (.arm c true ia e l) = true → ((s.vec c.toNat).q.all fun v => v.kind ≠ .sct) = true →
      exec (.arm c true ia e l) s = .next after) ∧
    (d.bm = true → s.canIssue c (.drain c d) = true → (s.drn c.toNat).reading < 2 → exec (.drain c d) s = .next after)

/-! ## Control flow -/

/-- LOOP sets its counter and enters the body, or passes END when the count is zero; ENDL counts down and goes back while the result is
not zero; BR goes to TARGET when its condition holds. A jump takes one further step, and one out of the buffer empties it (R172, R173,
R175, R177). -/
def Claim.LoopsAndBranches : Prop :=
  ∀ (s : State) (c : CoreId) (lc : BitVec 2) (ia : Bool) (e body target : BitVec 12) (count : BitVec 24) (cond ra : BitVec 4),
    let q := s.seq c.toNat
    let n := (if ia then (q.reg (count.setWidth 4)).toNat else count.toNat) % 2 ^ 24
    let left := q.lc[lc.toNat] - 1
    let to_ := (if ia then (q.reg (target.setWidth 4)).toNat else target.toNat) % 2 ^ 12
    let r := q.reg ra
    let holds := (cond = 0) ∨ (cond = 1 ∧ r = 0) ∨ (cond = 2 ∧ r ≠ 0) ∨ (cond = 3 ∧ r.toInt < 0) ∨ (cond = 4 ∧ 0 ≤ r.toInt)
    (s.canIssue c (.loop c lc ia e count) = true → n ≠ 0 → q.pc ≠ 4095 →
      exec (.loop c lc ia e count) s =
        .next (s.setSeq c.toNat { q.goesOn s.now with lc := q.lc.set lc.toNat (BitVec.ofNat 24 n) })) ∧
    (s.canIssue c (.loop c lc ia e count) = true → n = 0 → e ≠ 4095 →
      exec (.loop c lc ia e count) s =
        .next (s.setSeq c.toNat { q.jumps s.now (e.toNat + 1) 2 with lc := q.lc.set lc.toNat 0 })) ∧
    (s.canIssue c (.endl c lc body) = true → left = 0 → q.pc ≠ 4095 →
      exec (.endl c lc body) s = .next (s.setSeq c.toNat { q.goesOn s.now with lc := q.lc.set lc.toNat 0 })) ∧
    (s.canIssue c (.endl c lc body) = true → left ≠ 0 →
      exec (.endl c lc body) s = .next (s.setSeq c.toNat { q.jumps s.now body.toNat 2 with lc := q.lc.set lc.toNat left })) ∧
    (s.canIssue c (.br c cond ra ia target) = true → holds →
      exec (.br c cond ra ia target) s = .next (s.setSeq c.toNat (q.jumps s.now to_ 2))) ∧
    (s.canIssue c (.br c cond ra ia target) = true → cond ≤ 4 → ¬ holds → q.pc ≠ 4095 →
      exec (.br c cond ra ia target) s = .next (s.goesOn c))

/-- BKT, once every SCT issued before it has completed, goes to the entry of the smallest valid bucket whose size is at least v and writes
that size into RD; where v exceeds every bucket it records fault 3 and continues at the next instruction (R172, R178). -/
def Obligations.BucketBranch : Prop :=
  ∀ (s : State) (c : CoreId) (rd ra : BitVec 4) (src : Bool) (btab : Byte),
    let q := s.seq c.toNat
    let v := if src then (q.reg ra).toNat else q.bk.toNat
    let fits := fun (b : Bucket) => b ∈ Sparse.get [] q.bkts btab.toNat ∧ b.valid = true ∧ v ≤ b.size.toNat
    s.canIssue c (.bkt c rd ra src btab) = true → (∀ x ∈ (s.vec c.toNat).q, x.kind ≠ .sct) →
    (∀ b, fits b → ∃ x, fits x ∧ (∀ y, fits y → x.size.toNat ≤ y.size.toNat) ∧
      exec (.bkt c rd ra src btab) s = .next (s.setSeq c.toNat
        { q.jumps s.now x.entry.toNat 2 with sreg := q.sreg.set rd.toNat (x.size.zeroExtend 64) })) ∧
    ((∀ b, ¬ fits b) → q.pc ≠ 4095 →
      exec (.bkt c rd ra src btab) s = .next ((s.coreFault c.toNat 3 q.pc).setSeq c.toNat
        { ((s.coreFault c.toNat 3 q.pc).seq c.toNat).goesOn s.now with nextIssue := s.now + 2 }))

/-- An instruction that would take PC past 4,095 records fault 7 at 4,095 and the core halts at once in state 4 (R171). -/
def Claim.PastTheLastIndex : Prop :=
  ∀ (s : State) (c : CoreId), (s.seq c.toNat).pc = 4095 → s.canIssue c (.nop c 0) = true →
    ∃ t, exec (.nop c 0) s = .next t ∧ (t.seq c.toNat).st = 4 ∧ (t.seq c.toNat).fValid = true ∧
      ((s.seq c.toNat).fValid = false → (t.seq c.toNat).fCode = 7 ∧ (t.seq c.toNat).fPc = 4095) ∧ t.mem = s.mem

/-- HALT puts the core into state 3 and issues nothing further; PACK_STATE becomes HALTED once every core of the pack has halted, and not
before (R177, R306). It rests in part on choices of the model (log 60). -/
def Claim.HaltStopsTheCore : Prop :=
  ∀ (s : State) (c : CoreId), s.canIssue c (.halt c) = true →
    ∃ t, exec (.halt c) s = .next t ∧ t.seq c.toNat = { s.seq c.toNat with st := 3, wait := .none } ∧ t.mem = s.mem ∧
      (∀ k ≠ c.toNat, t.seq k = s.seq k) ∧
      (s.pack.state = .running → (s.setSeq c.toNat { s.seq c.toNat with st := 3, wait := .none }).allHalted = true →
        t.pack.state = .halted) ∧
      ((s.setSeq c.toNat { s.seq c.toNat with st := 3, wait := .none }).allHalted = false → t.pack.state = s.pack.state)

/-- The fetch buffer takes the next 16 words of the instruction region, little-endian, when 16 of its entries are free, and holds the
newest 32; a PC it did not hold issues 3 steps later (R171, R173; log 18). It rests in part on choices of the model (log 18). -/
def Claim.InstructionFetchFillsTheBuffer : Prop :=
  ∀ (s : State) (c : CoreId),
    let q := s.seq c.toNat
    let hi := q.bufBase + q.buf.length
    (q.st = 1 ∨ q.st = 2) → hi ≤ 4080 → q.buf.length ≤ 16 → q.bufBase ≤ q.pc.toNat →
    ∃ new : List W64, new.length = 16 ∧
      (∀ i < 16, ∀ j < 8, (new.getD i 0).toNat / 256 ^ j % 256 = (s.mem.byte (coreAddr c.toNat (8 * hi) + 8 * i + j)).toNat) ∧
      exec (.instructionFetch c) s = .next (s.setSeq c.toNat
        { q with buf := q.buf ++ new, nextIssue := if hi ≤ q.pc.toNat then max q.nextIssue (s.now + 3) else q.nextIssue })

/-! ## Waits, tickets and work counters -/

/-- WAITS goes on once no engine of its mask holds an arm, an empty mask at once, and waits at issue before. WAITANY in strict mode
records fault 2 and leaves RD; in relaxed mode it gives the lowest engine of the mask without an arm, all ones for an empty mask, and
counts a timing-dependent choice (R177, R182). -/
def Obligations.WaitsOnEngines : Prop :=
  ∀ (s : State) (c : CoreId) (rd : BitVec 4) (mask : Byte),
    let q := s.seq c.toNat
    let free := fun e => s.engBusy c.toNat e = false
    q.pc ≠ 4095 →
    (s.canIssue c (.waits c mask) = true → (∀ e < 8, mask.getLsbD e = true → free e) →
      exec (.waits c mask) s = .next (s.goesOn c)) ∧
    (s.canIssue c (.waits c mask) = true → (∃ e < 8, mask.getLsbD e = true ∧ ¬ free e) →
      exec (.waits c mask) s = .next (s.setSt c.toNat 2)) ∧
    (s.canIssue c (.waitany c rd mask) = true → s.pack.strict = true →
      exec (.waitany c rd mask) s = .next ((s.coreFault c.toNat 2 q.pc).goesOn c)) ∧
    (s.canIssue c (.waitany c rd mask) = true → s.pack.strict = false → mask = 0 →
      exec (.waitany c rd mask) s = .next ((s.countTdc c.toNat).setSeq c.toNat (q.writes s.now rd (BitVec.allOnes 64)))) ∧
    (s.canIssue c (.waitany c rd mask) = true → s.pack.strict = false →
      ∀ e < 8, mask.getLsbD e = true → free e → (∀ d < e, mask.getLsbD d = true → ¬ free d) →
        exec (.waitany c rd mask) s = .next ((s.countTdc c.toNat).setSeq c.toNat (q.writes s.now rd (BitVec.ofNat 64 e))))

/-- TKT in relaxed mode sends its request to the counter's home and the core waits for the ticket; in strict mode it records fault 2 and
takes none. TKTSET sends both halves of RA and CLR to the home and goes on (R182, R186, R187, R266). -/
def Claim.TicketsLeaveTheCore : Prop :=
  ∀ (s : State) (c : CoreId) (rd ra : BitVec 4) (clr ia : Bool) (ctr : BitVec 6),
    let q := s.seq c.toNat
    let k := (if ia then (q.reg (ctr.setWidth 4)).toNat else ctr.toNat) % 64
    (s.canIssue c (.tkt c rd ia ctr) = true → s.pack.strict = true → q.pc ≠ 4095 →
      exec (.tkt c rd ia ctr) s = .next ((s.coreFault c.toNat 2 q.pc).goesOn c)) ∧
    (s.canIssue c (.tkt c rd ia ctr) = true → s.pack.strict = false →
      exec (.tkt c rd ia ctr) s = .next (((s.countTdc c.toNat).setSeq c.toNat { q with wait := .ticket rd, st := 2 }).whistleSend 1
        { typ := 0x02, src := c, dst := counterHome k, bridge := false, body := [BitVec.ofNat 32 (k + 64 * c.toNat)] })) ∧
    (s.canIssue c (.tktset c ra clr ia ctr) = true → q.pc ≠ 4095 → ∃ lo hi head : W32,
      exec (.tktset c ra clr ia ctr) s = .next ((s.whistleSend 3
        { typ := 0x04, src := c, dst := counterHome k, bridge := false, body := [head, lo, hi] }).goesOn c) ∧
      lo.toNat = (q.reg ra).toNat % 2 ^ 32 ∧ hi.toNat = (q.reg ra).toNat / 2 ^ 32 ∧
      head.toNat = k + (if clr then 64 else 0) + 128 * c.toNat)

/-- The home serves one TKT: below LIMIT the ticket is NEXT, which steps on; one below HWM is a duplicate, and HWM covers every ticket
given; otherwise the answer is all ones and the counter keeps its values. A TKTSET sets NEXT and LIMIT together, and HWM to 0 with CLR
(R186, R187). It rests in part on choices of the model (log 11). -/
def Claim.WorkCountersServe : Prop :=
  ∀ (s : State) (k : BitVec 6) (m : WMsg), s.nextServed k = some m →
    let w := s.ctr k.toNat
    let home := counterHome k.toNat
    let u := s.unbox home.toNat m
    (m.typ = 2 → w.next < w.limit →
      exec (.tktServe k) s = .next (((if w.next < w.hwm then u.countDup m.src.toNat else u).setCtr k.toNat
        { next := w.next + 1, limit := w.limit, hwm := if w.hwm.toNat ≤ w.next.toNat then w.next + 1 else w.hwm }).whistleSend 2
          { typ := 3, src := home, dst := m.src, bridge := false, body := [w.next, 0] })) ∧
    (m.typ = 2 → ¬ w.next < w.limit →
      exec (.tktServe k) s = .next (u.whistleSend 2
        { typ := 3, src := home, dst := m.src, bridge := false, body := [0xFFFFFFFF, 0xFFFFFFFF] })) ∧
    (m.typ = 4 → exec (.tktsetServe k) s = .next (u.setCtr k.toNat
      { next := m.body.getD 1 0, limit := m.body.getD 2 0, hwm := if (m.body.getD 0 0).getLsbD 6 then 0 else w.hwm }))

/-- Tickets are served in the order of their arrival steps, the TKTs of a step before its TKTSETs, and each in ascending core ID (R186,
R187). -/
def Claim.TicketsServedInOrder : Prop :=
  ∀ (s : State) (k : BitVec 6) (m x : WMsg), s.nextServed k = some m →
    x ∈ s.boxOf (counterHome k.toNat).toNat → (x.typ = 2 ∨ x.typ = 4) → x.ctr = k.toNat → x.at_ < s.now →
    m.at_ ≤ x.at_ ∧ (m.at_ = x.at_ → m.typ = 4 → x.typ = 4) ∧
      (m.at_ = x.at_ → m.typ = x.typ → m.src.toNat ≤ x.src.toNat)

/-- The first fault of a core is kept with its code and PC, the count rises up to 255, and an error notice leaves for Ranger over Whistle;
nothing else changes (R184, R200, R266). -/
def Claim.FirstFaultIsKept : Prop :=
  ∀ (s : State) (c : Nat) (code : BitVec 4) (pc : BitVec 12),
    let q := s.seq c
    let t := s.coreFault c code pc
    t.seq c = { q with
      fCount := min (q.fCount + 1) 255, fValid := true, fPc := if q.fValid = true then q.fPc else pc,
      fCode := if q.fValid = true then q.fCode else code } ∧
    (∀ k ≠ c, t.seq k = s.seq k) ∧
    t.whistle.flits.length = s.whistle.flits.length + 2 ∧
    t = { s.setSeq c (t.seq c) with whistle := { s.whistle with flits := t.whistle.flits } }

/-! ## Handing work to the array, the accumulator, the drain chain and the vector path -/

/-- WLD hands the tile at its offset to the stationary load engine once that is free, and waits before; an EMPTY tile and one with a
header fault start no load (R49, R86, R89). It rests in part on choices of the model (log 24). -/
def Claim.StationaryLoadIssues : Prop :=
  ∀ (s : State) (c : CoreId) (ia : Bool) (tile : BitVec 18),
    let q := s.seq c.toNat
    let a := s.arr c.toNat
    let off := (if ia then (q.reg (tile.setWidth 4)).toNat else tile.toNat) % 2 ^ 18
    let r := s.takeTile c.toNat a.nextTid off
    q.pc ≠ 4095 → s.canIssue c (.wld c ia tile) = true →
    r.1.tid = a.nextTid ∧ r.1.addr = off ∧
    (a.load = none → exec (.wld c ia tile) s = .next (((s.setArr c.toNat
      { a with nextTid := a.nextTid + 1, lastTid := a.nextTid, tiles := a.tiles ++ [r.1],
               load := if (r.1.bad || r.1.empty) = true then none else some { tid := a.nextTid, nextRow := 0, step := s.now, used := 3 } }).countPoison
        c.toNat r.2).goesOn c)) ∧
    (a.load ≠ none → exec (.wld c ia tile) s = .next (s.setSt c.toNat 2))

/-- PASS over a loaded tile becomes pending at the feeder while fewer than four are, with the fields of its word, the number of its pass
in the group, and one more of the group in flight; over an EMPTY tile its leaf of zeros enters at once, and the sequencer goes on when the
combines it triggers are done; with four pending it waits (R49, R83, R113, R120, R172, R177). -/
def Claim.PassIssues : Prop :=
  ∀ (s : State) (c : CoreId) (f : PassF) (g : Group) (tl : Tile),
    let k := c.toNat
    let q := s.seq k
    let a := s.arr k
    let base := if f.ia then (q.reg (f.grp.setWidth 4)).toNat else f.grp.toNat
    let block := (if f.ib then (q.reg (f.block.setWidth 4)).toNat else f.block.toNat) % 2 ^ 18
    let hp := (s.tileParcels k block 0 1).1.getD 0 {}
    let h := tileHead (hp.data.toNat % 2 ^ 64)
    let integer := passInteger (if hp.poison || actBad h then none else some h.etype) (some tl) g.integer
    q.pc ≠ 4095 → s.canIssue c (.pass c f) = true → s.vecEntering k base = false →
    a.tile a.lastTid = some tl →
    (decide (tl.form = 5) = decide (f.shape = 1)) → tl.bad = false →
    (tl.empty = false → a.passes.length < 4 → base < (s.acc k).slots → s.group k base = some g → g.faulted = false → integer = g.integer →
      exec (.pass c f) s = .next (((s.setGroup k { g with nextNo := g.nextNo + 1, inflight := g.inflight ++ [g.gen] }).setArr k
        { a with
          tiles := a.tiles.map fun t => if t.tid = a.lastTid then { t with used := true } else t,
          nextPass := a.nextPass + 1,
          passes := a.passes ++ [
            { id := a.nextPass, pc := q.pc, shape := f.shape, toks := 16 * (f.tcode.toNat + 1),
              piece := f.piece.toNat, part := f.part, cplx := f.cplx, astride := f.astride.toNat, block, grp := base, gen := g.gen,
              no := g.nextNo, tid := a.lastTid, etype := h.etype, integer := g.integer, next := 0, outs := 0 }] }).goesOn c)) ∧
    (tl.empty = true → a.passes.length < 4 → base < (s.acc k).slots → s.group k base = some g → integer = g.integer → g.inflight = [] →
      s.drainReads k base g.gen = false → g.emptyAt ≤ s.now →
      exec (.pass c f) s = .next
        (((((s.setGroup k { g with nextNo := g.nextNo + 1, inflight := [g.gen] }).setArr k
          { a with tiles := a.tiles.map fun t => if t.tid = a.lastTid then { t with used := true } else t }).countPoison k 0).enterEmpty
            k base g.nextNo g.gen false s.now q.pc).goTo k (q.pc.toNat + 1) (1 + chainSteps g.nextNo))) ∧
    (4 ≤ a.passes.length → exec (.pass c f) s = .next (s.setSt k 2))

/-- ACLR opens its group at once where every overlapping group is idle and drained, and otherwise waits at issue and takes effect later;
one that reaches ACC_SLOTS records accumulator fault 1 and opens nothing (R110, R137). -/
def Claim.AclrIssues : Prop :=
  ∀ (s : State) (c : CoreId) (ia : Bool) (base d : BitVec 3) (int : Bool),
    let k := c.toNat
    let q := s.seq k
    let b := if ia then (q.reg (base.setWidth 4)).toNat else base.toNat
    let n := d.toNat + 1
    q.pc ≠ 4095 →
    (s.canIssue c (.aclr c ia base d int) = true → b + n ≤ (s.acc k).slots → s.aclrReady k b n = true →
      exec (.aclr c ia base d int) s = .next ((s.openGroup k b n int).goesOn c)) ∧
    (s.canIssue c (.aclr c ia base d int) = true → b + n ≤ (s.acc k).slots → s.aclrReady k b n = false →
      exec (.aclr c ia base d int) s = .next (s.setSeq k { q with wait := .aclr (BitVec.ofNat 3 b) d int, st := 2 })) ∧
    (s.canIssue c (.aclr c ia base d int) = true → (s.acc k).slots < b + n →
      exec (.aclr c ia base d int) s = .next ((s.accFault k 1 b 0 q.pc).goesOn c)) ∧
    (q.wait = .aclr base d int → s.aclrReady k base.toNat n = true →
      exec (.aclrTakeEffect c) s =
        .next (((s.setSeq k { q with wait := .none }).openGroup k base.toNat n int).goesOn c))

/-- An opened group is empty, its slots read zero with no poison mark and no saturation flag, every overlapping group is closed, and every
other group and every other byte of memory is as before (R109 to R111). -/
def Claim.OpenedGroupIsEmpty : Prop :=
  ∀ (s : State) (k b n : Nat) (int : Bool), b + n ≤ 8 → 0 < n →
    let t := s.openGroup k b n int
    (∃ g ∈ (t.acc k).groups, g.base = b ∧ g.depth = n ∧ g.integer = int ∧ g.stack = [] ∧ g.inflight = [] ∧ g.nextNo = 0 ∧
      g.faulted = false) ∧
    (∀ slot e, b ≤ slot → slot < b + n → e < 4096 →
      t.elem k slot e = VRes.zero ∧ t.slotSat k slot = false) ∧
    (∀ g ∈ (s.acc k).groups, (g.base + g.depth ≤ b ∨ b + n ≤ g.base) → g ∈ (t.acc k).groups) ∧
    (∀ g ∈ (t.acc k).groups, g.base = b ∨ (g ∈ (s.acc k).groups ∧ (g.base + g.depth ≤ b ∨ b + n ≤ g.base))) ∧
    (∀ a, (a < accAddr k (b * 32768) ∨ accAddr k (b * 32768) + n * 32768 ≤ a) → t.mem.byte a = s.mem.byte a)

/-- DRAIN in either MODE joins the drain queue with its rows, destination and configuration, and the passes issued to the group after it
are numbered afresh and of a new generation; with two DRAINs still reading it waits (R113, R132, R172, R177). -/
def Claim.DrainIssues : Prop :=
  ∀ (s : State) (c : CoreId) (f : DrainF) (g : Group),
    let k := c.toNat
    let q := s.seq k
    let d := s.drn k
    let base := if f.ia then (q.reg (f.grp.setWidth 4)).toNat else f.grp.toNat
    let dest := (if f.ib then (q.reg (f.dest.setWidth 4)).toNat else f.dest.toNat) % 2 ^ 18
    let after := fun (split : Bool) => ((s.setDrn k { d with
      nextId := d.nextId + 1,
      q := d.q ++ [
        { id := d.nextId, pc := q.pc, split, tag := q.reg f.tagreg,
          cfg := if split then Cfg.empty else Sparse.get Cfg.empty d.cfgs f.cfg.toNat, cfgNo := if split then 16 else f.cfg.toNat,
          grp := g.base, gen := g.gen, rows := f.nrowsM1.toNat + 1, dest, next := 0, readDone := false, outRows := 0,
          integer := g.integer, satur := false,
          await := s.nodesInFlight k g && !(d.q.any fun x => x.grp = g.base && !x.readDone && x.await), short := false, issued := s.now, bundled := f.bm, emitted := [] }] }).setGroup k
          { g with gen := g.gen + 1, nextNo := 0 })
    q.pc ≠ 4095 → d.reading < 2 → base < (s.acc k).slots → s.group k base = some g →
    (s.canIssue c (.drain c f) = true → f.bm = false → exec (.drain c f) s = .next ((after false).goesOn c)) ∧
    (s.canIssue c (.drain c f) = true → f.bm = true → (s.bnd k).isOpen = true → ∃ u,
      exec (.drain c f) s = .next (((after false).setBnd k u).goesOn c) ∧
        u.acts = (s.bnd k).acts ++ [.drain d.nextId [] false none []] ∧ u.parcels = (s.bnd k).parcels) ∧
    (s.canIssue c (.drainSplitNode c f) = true → exec (.drainSplitNode c f) s = .next ((after true).goesOn c))

/-- A group number at or above ACC_SLOTS is accumulator fault 1 and a base with no open group accumulator fault 2; the DRAIN that names it
joins no queue, and the core goes on (R137, R138). -/
def Claim.DrainOfNoGroup : Prop :=
  ∀ (s : State) (c : CoreId) (f : DrainF),
    let k := c.toNat
    let q := s.seq k
    let base := if f.ia then (q.reg (f.grp.setWidth 4)).toNat else f.grp.toNat
    q.pc ≠ 4095 → (s.drn k).reading < 2 → f.bm = false → s.canIssue c (.drain c f) = true →
    ((s.acc k).slots ≤ base → exec (.drain c f) s = .next ((s.accFault k 1 base 0 q.pc).goesOn c)) ∧
    (base < (s.acc k).slots → s.group k base = none → exec (.drain c f) s = .next ((s.accFault k 2 base 0 q.pc).goesOn c))

/-- An accumulator fault keeps its first details in ACC_FAULT, records fault 1 in CORE_FAULT, and marks the group it names as faulted,
except code 1: nothing it holds is combined any more, and its passes in flight stay counted until they come (R110, R131, R137, R138). -/
def Claim.AccumulatorFault : Prop :=
  ∀ (s : State) (k : Nat) (code : BitVec 4) (base no : Nat) (pc : BitVec 12),
    let q := s.seq k
    let t := s.accFault k code base no pc
    (t.seq k).aValid = true ∧ (t.seq k).aCount = min (q.aCount + 1) 255 ∧
    (q.aValid = false → (t.seq k).aCode = code ∧ (t.seq k).aPass = BitVec.ofNat 8 no ∧ (t.seq k).aSlot = BitVec.ofNat 3 base) ∧
    (q.aValid = true → (t.seq k).aCode = q.aCode ∧ (t.seq k).aPass = q.aPass ∧ (t.seq k).aSlot = q.aSlot) ∧
    (t.seq k).fValid = true ∧ (q.fValid = false → (t.seq k).fCode = 1 ∧ (t.seq k).fPc = pc) ∧
    t.sums.accFault = s.sums.accFault + 1 ∧ t.mem = s.mem ∧
    (code = 1 → t.acc k = s.acc k) ∧
    (∀ g, code ≠ 1 → s.group k base = some g → ∃ h, t.group k base = some h ∧ h.faulted = true ∧ h.work = [] ∧
      h.stack = g.stack ∧ (g.work = [] → h = { g with faulted := true }))

/-- Each vector instruction, while fewer than two are pending and no earlier PASS to its group is entering, joins the vector path's queue
with its parameter record as it stands in the core store at issue; no memory changes. With two pending it waits (R149, R172, R177). -/
def Claim.VectorInstructionsIssue : Prop :=
  ∀ (s : State) (c : CoreId) (f : VecF) (kind : VKind),
    let k := c.toNat
    let q := s.seq k
    let off := (if f.ib then (q.reg (f.vpr.setWidth 4)).toNat else f.vpr.toNat) % 2 ^ 18
    q.pc ≠ 4095 → s.canIssue c (kind.row c f) = true →
    (s.vectorReady k kind f = true → ∃ t x, exec (kind.row c f) s = .next t ∧ (t.vec k).q = (s.vec k).q ++ [x] ∧
      x.kind = kind ∧ x.vp = (s.vparam k off).1 ∧ x.pc = q.pc ∧ x.workDone = false ∧ x.band = 0 ∧ t.mem = s.mem ∧
      (t.seq k).pc = q.pc + 1 ∧ (t.seq k).nextIssue = s.now + 1 ∧ (t.seq k).sreg = q.sreg) ∧
    (s.vectorReady k kind f = false → exec (kind.row c f) s = .next (s.setSt k 2))

/-- CHAIN loads configuration CFG from its record, once no DRAIN that uses it is in the chain; before it waits (R172, R188). It rests in
part on choices of the model (log 61). -/
def Claim.ChainLoadsAConfiguration : Prop :=
  ∀ (s : State) (c : CoreId) (ia : Bool) (cfg : BitVec 4) (rec : BitVec 18),
    let k := c.toNat
    let q := s.seq k
    let d := s.drn k
    let r := s.loadCfg k ((if ia then (q.reg (rec.setWidth 4)).toNat else rec.toNat) % 2 ^ 18)
    q.pc ≠ 4095 → s.canIssue c (.chain c ia cfg rec) = true →
    ((∀ x ∈ d.q, x.cfgNo ≠ cfg.toNat) → ∃ t, exec (.chain c ia cfg rec) s = .next t ∧
      Sparse.get Cfg.empty (t.drn k).cfgs cfg.toNat = r.1 ∧
      (∀ j ≠ cfg.toNat, Sparse.get Cfg.empty (t.drn k).cfgs j = Sparse.get Cfg.empty d.cfgs j) ∧
      t = ((s.setDrn k { d with cfgs := (t.drn k).cfgs }).countPoison k r.2).goesOn c) ∧
    ((∃ x ∈ d.q, x.cfgNo = cfg.toNat) → exec (.chain c ia cfg rec) s = .next (s.setSt k 2))

/-! ## Streams and Daypack at issue -/

/-- ARM starts an idle engine, queues behind an active arm, and is otherwise turned away: with STRM_OVERARM where the queue is full or
held by a bundle, with STRM_BADLIST where the list lies outside every list range; in a bundle it takes the queue place of its engine, and a
full one is cause ARM_FULL; it waits for an SCT whose list it names (R161, R194, R197, R226, R228, R229, R232). It rests in part on choices
of the model (log 30). -/
def Claim.ArmIssues : Prop :=
  ∀ (s : State) (c : CoreId) (ia : Bool) (e : BitVec 3) (l : LAddr),
    let k := c.toNat
    let n := e.toNat
    let q := s.seq k
    let b := s.bnd k
    let g := s.eng k n
    let list := (if ia then (q.reg (l.setWidth 4)).toNat else l.toNat) % 2 ^ 42 / 16 * 16
    let a : Arm := { at_ := s.now, list := list, next := 0, left := 65535, ended := false, taken := 0, run := none, resid := false,
                     bundled := false }
    let free := (∀ x ∈ (s.vec k).q, x.kind ≠ .sct) ∨ s.namesSct k list = false
    q.pc ≠ 4095 →
    (s.canIssue c (.arm c false ia e l) = true → free →
      (s.inListRange list = true → g.active = none → g.queued = none →
        exec (.arm c false ia e l) s = .next ((s.setEng k n { g with active := some a }).goesOn c)) ∧
      (s.inListRange list = true → g.active ≠ none → g.queued = none → g.reserved = none →
        exec (.arm c false ia e l) s = .next ((s.setEng k n { g with queued := some a }).goesOn c)) ∧
      (s.inListRange list = true → g.active ≠ none → (g.queued ≠ none ∨ g.reserved ≠ none) →
        exec (.arm c false ia e l) s = .next ((s.setEng k n { g with rejects := g.rejects + 1, last := 1 }).goesOn c)) ∧
      (s.inListRange list = false →
        exec (.arm c false ia e l) s = .next ((s.setEng k n { g with rejects := g.rejects + 1, last := 2 }).goesOn c))) ∧
    (s.canIssue c (.arm c true ia e l) = true → free → b.isOpen = true → s.inListRange list = true →
      (g.queued = none → g.reserved = none → exec (.arm c true ia e l) s =
        .next (((s.addAction k (.arm n true) 0).setEng k n { g with reserved := some a }).goesOn c)) ∧
      ((g.queued ≠ none ∨ g.reserved ≠ none) → ∃ t, exec (.arm c true ia e l) s = .next t ∧
        t.eng k n = { g with rejects := g.rejects + 1, last := 1 } ∧ (t.bnd k).cause.getLsbD 4 = true ∧
        (t.bnd k).acts = b.acts ++ [.arm n false])) ∧
    (∀ bm, s.canIssue c (.arm c bm ia e l) = true → ¬ free → exec (.arm c bm ia e l) s = .next (s.setSt k 2))

/-- DPK out reads its LEN local parcels at issue and sends them to the place in AREG as one transfer of the core's queue, or, in a bundle,
joins it as one action of LEN parcels, poison being its cause; DPK in enters the queue for LEN remote parcels. With 32 transfers
outstanding DPK out does not execute and one poisoned error is counted, and DPK in writes LOCAL poisoned besides (R194, R197, R238 to
R240). -/
def Claim.DaypackIssues : Prop :=
  ∀ (s : State) (c : CoreId) (ia : Bool) (len : BitVec 3) (areg : BitVec 4) (loc : BitVec 18),
    let k := c.toNat
    let q := s.seq k
    let n := len.toNat + 1
    let off := (if ia then (q.reg (loc.setWidth 4)).toNat else loc.toNat) % 2 ^ 18 / 32 * 32
    let r := s.dpkRead k off n
    q.pc ≠ 4095 →
    (s.canIssue c (.dpkOut c false ia len areg loc) = true → (s.dpkq k).length < 32 →
      r.2.length = n ∧
      exec (.dpkOut c false ia len areg loc) s = .next ((r.1.dpkStart k
        { out := true, loc := off, gaddr := dpkAddr q areg, len := r.2.length, issued := s.now, id := 0, got := enumFrom0 r.2,
          landed := 0, back := [] }).goesOn c)) ∧
    (s.canIssue c (.dpkOut c false ia len areg loc) = true → 32 ≤ (s.dpkq k).length →
      exec (.dpkOut c false ia len areg loc) s = .next ((s.countPoison k 1).goesOn c)) ∧
    (s.canIssue c (.dpkOut c true ia len areg loc) = true → (s.bnd k).isOpen = true → ∃ t,
      exec (.dpkOut c true ia len areg loc) s = .next t ∧ (t.bnd k).acts = (s.bnd k).acts ++ [.dpk (dpkAddr q areg) off r.2] ∧
        (t.bnd k).parcels = (s.bnd k).parcels + n ∧ (t.dpkq k) = (s.dpkq k) ∧ t.mem = s.mem ∧ (t.seq k).pc = q.pc + 1 ∧
        (r.2.any (·.poison) = true → (t.bnd k).cause.getLsbD 1 = true)) ∧
    (s.canIssue c (.dpkIn c ia len areg loc) = true → (s.dpkq k).length < 32 →
      exec (.dpkIn c ia len areg loc) s = .next ((s.dpkStart k
        { out := false, loc := off, gaddr := dpkAddr q areg, len := n, issued := s.now, id := 0, got := [], landed := 0,
          back := [] }).goesOn c)) ∧
    (s.canIssue c (.dpkIn c ia len areg loc) = true → 32 ≤ (s.dpkq k).length → n = 1 → 0x8000 ≤ off →
      exec (.dpkIn c ia len areg loc) s = .next
        (((s.countPoison k 1).putParcel (coreAddr k off) (poisonedParcel (coreAddr k off))).goesOn c))

/-! ## Barriers and bundles at issue -/

/-- CBAR and CSIG wait for the core's own work, and then arrive on their channel with the marks of the core, as one more participant of a
barrier that is open to it: CBAR waits there, and so does a CSIG with a halting mark, while a CSIG without goes on. With the last
participant, or with a halting mark, the barrier of this module is due 48 steps on. On the channel of the core's own open bundle it is
cause NESTED besides. A CBAR after the core's own CSIG waits for that barrier and arrives no second time; a second CSIG arrives on the
next barrier (R180, R184, R197, R268). -/
def Claim.BarrierInstructionsArrive : Prop :=
  ∀ (s : State) (c : CoreId) (ch : BitVec 4),
    let k := c.toNat
    let q := s.seq k
    let x := s.cairnCh ch.toNat
    let nested := (s.bnd k).isOpen = true ∧ (s.bnd k).ch = ch
    let u := s.nestedOn k ch
    let a := fun (csig cbar : Bool) =>
      ({ core := k, at_ := s.now, pc := q.pc, csig, cbar, fault := q.fValid, stop := q.stop, abort := false } : Arrival)
    let waits := u.setSeq k { q with wait := .barrier ch, st := 2 }
    q.pc ≠ 4095 →
    (nested → u = s.setBnd k { s.bnd k with cause := (s.bnd k).cause ||| 0x0080 }) ∧ (¬ nested → u = s) ∧
    (s.canIssue c (.cbar c ch) = true → s.fenced k = true → s.opensTo ch k = true →
      exec (.cbar c ch) s = .next ((waits.setCairn ch.toNat (x.joined (a false true))).mwProgress ch)) ∧
    (s.canIssue c (.csig c ch) = true → s.fenced k = true → s.opensTo ch k = true →
      exec (.csig c ch) s =
        .next (((if q.fValid = true ∨ q.stop = true then waits else u.goesOn c).setCairn ch.toNat (x.joined (a true false))).mwProgress ch)) ∧
    (s.canIssue c (.cbar c ch) = true → s.fenced k = true → x.dead = false → State.mwOn x = false →
      (x.due = none → ∃ p ∈ x.parts, ∀ y ∈ x.arrived, y.core ≠ p) → x.first ≠ none → (∃ y ∈ x.arrived, y.core = k) → q.fValid = false → q.stop = false →
      ∃ t, exec (.cbar c ch) s = .next t ∧ t.seq k = { q with wait := .barrier ch, st := 2 } ∧ t.cairnCh ch.toNat = x ∧ t.mem = s.mem) ∧
    (s.canIssue c (.csig c ch) = true → s.fenced k = true → x.dead = false → (∃ y ∈ x.arrived, y.core = k) → q.fValid = false →
      q.stop = false → exec (.csig c ch) s = .next ((u.goesOn c).setCairn ch.toNat { x with early := x.early ++ [a true false] })) ∧
    (s.canIssue c (.cbar c ch) = true → s.fenced k = false → exec (.cbar c ch) s = .next (s.setSt k 2)) ∧
    (s.canIssue c (.csig c ch) = true → s.fenced k = false → exec (.csig c ch) s = .next (s.setSt k 2))

/-- A channel of this module alone goes on by its counter. A module-wide one, once its local participants and its children have arrived, is
released at the root at the step counter plus LEAD, and otherwise arrives at its parent once (R339). -/
def Claim.ModuleWideBarriersProgress : Prop :=
  ∀ (s : State) (ch : BitVec 4),
    let x := s.cairnCh ch.toNat
    let children := (List.range 12).filter fun p => x.mw.toNat.testBit (16 + p)
    let all := (∀ c ∈ x.parts, ∃ a ∈ x.arrived, a.core = c) ∧ (∀ p ∈ children, p ∈ x.childArr) ∧ (x.first ≠ none ∨ x.parts = [])
    (x.mw.getLsbD 0 = false → s.mwProgress ch = s) ∧
    (x.mw.getLsbD 0 = true → (¬ all ∨ x.sentUp = true ∨ x.release ≠ none ∨ x.due ≠ none) → s.mwProgress ch = s) ∧
    (x.mw.getLsbD 0 = true → all → x.sentUp = false → x.release = none → x.due = none →
      (x.mw.toNat / 2 ^ 12 % 16 = 15 → (s.mwProgress ch).cairnCh ch.toNat =
        { x with sentUp := true, release := some (s.now + x.mw.toNat / 2 ^ 32 % 2 ^ 32) }) ∧
      (x.mw.toNat / 2 ^ 12 % 16 ≠ 15 → (s.mwProgress ch).cairnCh ch.toNat = { x with sentUp := true }) ∧
      (s.mwProgress ch).cores = s.cores ∧ (s.mwProgress ch).mem = s.mem)

/-- BOPEN opens an empty bundle on its channel; while one is open it only adds the cause NESTED to it (R194, R197). -/
def Claim.BundleOpens : Prop :=
  ∀ (s : State) (c : CoreId) (pwp : Bool) (ch : BitVec 4),
    let k := c.toNat
    let b := s.bnd k
    (s.seq k).pc ≠ 4095 → s.canIssue c (.bopen c pwp ch) = true →
    (b.isOpen = false → exec (.bopen c pwp ch) s = .next ((s.setBnd k
      { b with isOpen := true, ch := ch, pwp := pwp, acts := [], parcels := 0, cause := 0, status := 0 }).goesOn c)) ∧
    (b.isOpen = true → exec (.bopen c pwp ch) s =
      .next ((s.setBnd k { b with cause := b.cause ||| 0x0080 }).goesOn c))

/-- BCOMMIT and BABORT, once every bundled DRAIN has emitted its last parcel, vote on the bundle's channel and wait: with an abort mark
for any cause of the core's own, which for BABORT is always there; a poison cause alone commits where the bundle has PWP and the policy
allows it (R197, R198). -/
def Claim.BundleVotes : Prop :=
  ∀ (s : State) (c : CoreId) (rd : BitVec 4),
    let k := c.toNat
    let q := s.seq k
    let b := s.bnd k
    let arrives := fun (cause : W16) (own : Bool) => ((s.setBnd k { b with cause := cause }).setSeq k
      { q with wait := .vote b.ch rd, st := 2 }).setCairn b.ch.toNat ((s.cairnCh b.ch.toNat).joined
        { core := k, at_ := s.now, pc := q.pc, csig := false, cbar := false, fault := false, stop := false, abort := own })
    b.isOpen = true → b.drained = true → s.opensTo b.ch k = true → State.mwOn (s.cairnCh b.ch.toNat) = false → q.fValid = false → q.stop = false →
    (s.canIssue c (.bcommit c rd) = true → b.cause = 0 → exec (.bcommit c rd) s = .next (arrives 0 false)) ∧
    (s.canIssue c (.bcommit c rd) = true → b.cause = causePoison → b.pwp = true → s.poisonCommit = true →
      exec (.bcommit c rd) s = .next (arrives causePoison false)) ∧
    (s.canIssue c (.bcommit c rd) = true → b.cause = causePoison → (b.pwp = false ∨ s.poisonCommit = false) →
      exec (.bcommit c rd) s = .next (arrives causePoison true)) ∧
    (s.canIssue c (.babort c rd) = true → exec (.babort c rd) s = .next (arrives (b.cause ||| 0x0020) true))

/-- With no bundle open BCOMMIT and BABORT close nothing: RD receives 0x0608 and no vote takes place (R198). -/
def Claim.NoBundleToClose : Prop :=
  ∀ (s : State) (c : CoreId) (rd : BitVec 4),
    let k := c.toNat
    let q := s.seq k
    let b := s.bnd k
    q.pc ≠ 4095 → b.isOpen = false → q.fValid = false → q.stop = false →
    (s.canIssue c (.bcommit c rd) = true →
      exec (.bcommit c rd) s = .next ((s.setBnd k { b with lastCause := 8 }).setSeq k (q.writes s.now rd 0x0608))) ∧
    (s.canIssue c (.babort c rd) = true →
      exec (.babort c rd) s = .next ((s.setBnd k { b with lastCause := 8 }).setSeq k (q.writes s.now rd 0x0608)))

/-! ## Barriers complete -/

/-- A barrier of this module that is due completes without a mark: every participant that waits in CBAR goes on at the next instruction in
this very step, one that came by CSIG is untouched, no other core and no memory changes, and the channel is open for the next barrier. With
a fault or stop mark every participant that has arrived, one that came by CSIG included, halts in state 4 instead (R180, R184, R268). It
rests in part on choices of the model (log 27). -/
def Claim.BarrierCompletes : Prop :=
  ∀ (s : State) (ch : BitVec 4) (due : Nat),
    let k := s.cairnCh ch.toNat
    let on := fun (c : Nat) => ∃ a ∈ k.arrived, a.core = c
    k.mw.getLsbD 0 = false → k.due = some due → due ≤ s.now → k.childEarly = [] → (k.arrived.map (·.core)).Nodup →
    (∀ a ∈ k.arrived, (s.seq a.core).wait = .barrier ch ∨ (a.csig = true ∧ (s.seq a.core).wait = .none)) →
    (k.fault = false → k.stop = false → k.early = [] → (∀ a ∈ k.arrived, (s.seq a.core).pc ≠ 4095) →
      ∃ t, exec (.cairnBarrierComplete ch) s = .next t ∧
        (∀ c, on c → (s.seq c).wait = .barrier ch → t.seq c = { (s.seq c).goesOn s.now with wait := .none, nextIssue := s.now }) ∧
        (∀ c, (¬ on c ∨ (s.seq c).wait = .none) → t.seq c = s.seq c) ∧ t.mem = s.mem ∧
        t.cairnCh ch.toNat = { CairnCh.reset with parts := k.parts, timeout := k.timeout, phase := k.phase, mw := k.mw, gen := k.gen + 1 }) ∧
    ((k.fault = true ∨ k.stop = true) → ∃ t, exec (.cairnBarrierComplete ch) s = .next t ∧
      (∀ c, on c → ((s.seq c).wait = .barrier ch ∨ (s.seq c).st = 1 ∨ (s.seq c).st = 2) → (t.seq c).st = 4 ∧ (t.seq c).pc = (s.seq c).pc) ∧
      (∀ c, ¬ on c → t.seq c = s.seq c) ∧ t.mem = s.mem ∧ (t.cairnCh ch.toNat).arrived = [])

/-- The vote of a bundle: with any number of participants, each waiting in its vote, either all commit or all abort, and each then waits for
the second barrier; on abort nothing takes effect. On commit the actions take effect in program order, here one held STS; when the second
barrier is complete RD receives the status, the bundle is closed and the core goes on (R194, R196 to R198). -/
def Claim.BundleCommits : Prop :=
  ∀ (s : State) (ch : BitVec 4) (a : Arrival) (due : Nat) (rd : BitVec 4) (addr : Nat) (v : W64),
    let k := s.cairnCh ch.toNat
    let b := s.bnd a.core
    let one := k.arrived = [a] ∧ a.csig = false ∧ (s.seq a.core).pc ≠ 4095 ∧ s.dpkq a.core = [] ∧ b.late = []
    let vote := s.voteCommits (k.arrived.map (·.core)) k.abort
    k.mw.getLsbD 0 = false → k.due = some due → due ≤ s.now → k.fault = false → k.stop = false → k.early = [] → k.childEarly = [] →
    ((k.arrived.map (·.core)).Nodup → k.arrived ≠ [] → (∀ x ∈ k.arrived, x.csig = false ∧ ∃ r, (s.seq x.core).wait = .vote ch r) →
      ∃ t, exec (.bundleVoteComplete ch) s = .next t ∧
        (∀ x ∈ k.arrived, ∀ r, (s.seq x.core).wait = .vote ch r → t.seq x.core = { s.seq x.core with wait := .landed ch r } ∧
          (t.bnd x.core).acts = [] ∧ (t.bnd x.core).isOpen = (s.bnd x.core).isOpen ∧
          (vote.1 = true → (t.bnd x.core).commits = (s.bnd x.core).commits + 1 ∧ (t.bnd x.core).aborts = (s.bnd x.core).aborts) ∧
          (vote.1 = false → (t.bnd x.core).aborts = (s.bnd x.core).aborts + 1 ∧ (t.bnd x.core).commits = (s.bnd x.core).commits)) ∧
        (vote.1 = false → t.mem = s.mem ∧ t.holdq = s.holdq)) ∧
    (one → (s.seq a.core).wait = .vote ch rd → k.parts = [a.core] → k.abort = false → b.cause = 0 → b.acts = [.sts addr v] →
      0x8000 ≤ addr → addr < 0x40000 → s.inListRange (coreAddr a.core addr / 32 * 32) = false →
      ∃ t, exec (.bundleVoteComplete ch) s = .next t ∧ t.mem = s.mem.patch (coreAddr a.core addr) (leBytes 8 v.toNat) ∧
        (t.bnd a.core).status = 0 ∧ (t.cairnCh ch.toNat).due = some (s.now + 48)) ∧
    (one → (s.seq a.core).wait = .landed ch rd → ∃ t, exec (.bundleWritesLanded ch) s = .next t ∧ t.mem = s.mem ∧
      (t.seq a.core).reg rd = b.status.zeroExtend 64 ∧ (t.bnd a.core).isOpen = false ∧
      (t.seq a.core).pc = (s.seq a.core).pc + 1 ∧ (t.seq a.core).wait = .none)

/-- An aborted vote applies nothing: the actions are dropped, memory is as before, the abort is counted, and the status is the core's own
lowest cause, or 0x0609 where only others aborted (R196 to R198). -/
def Claim.BundleAborts : Prop :=
  ∀ (s : State) (c : Nat) (timedOut : Bool),
    let b := s.bnd c
    let t := s.decideBundle c false false timedOut
    t.mem = s.mem ∧ t.holdq = s.holdq ∧ (t.bnd c).acts = [] ∧ (t.bnd c).aborts = b.aborts + 1 ∧
    (t.bnd c).commits = b.commits ∧ t.sums.bundleAbort = s.sums.bundleAbort + 1 ∧
    (b.cause = 0 → timedOut = false → (t.bnd c).status = 0x0609) ∧
    (∀ i : Nat, i < 16 → timedOut = false → b.cause.getLsbD i = true → (∀ j < i, b.cause.getLsbD j = false) →
      (t.bnd c).status = BitVec.ofNat 16 (0x0600 + i)) ∧
    (b.cause = 0 → timedOut = true → (t.bnd c).status = 0x0606)

/-- A barrier whose counter reaches TIMEOUT completes with fault 6 at every participant that has arrived, and each halts in state 4; the
others are as they were. A module-wide one does so too, and goes to its parent and children with the fault. A module-wide barrier with a
halting mark completes 48 steps after the mark arrived, and its participants halt (R184, R269, R340). It rests in part on choices of the
model (log 27). -/
def Claim.BarrierTimesOut : Prop :=
  ∀ (s : State) (ch : BitVec 4),
    let k := s.cairnCh ch.toNat
    let on := fun (c : Nat) => ∃ a ∈ k.arrived, a.core = c
    let halts := fun (c : Nat) => (s.seq c).wait = .barrier ch ∨ (s.seq c).st = 1 ∨ (s.seq c).st = 2
    k.childEarly = [] → (k.arrived.map (·.core)).Nodup →
    (∀ a ∈ k.arrived, (s.seq a.core).wait = .barrier ch ∨ (a.csig = true ∧ (s.seq a.core).wait = .none)) →
    (s.timeoutDue ch = true → ∃ t, exec (if State.mwOn k = true then .moduleWideTimeout ch else .cairnTimeout ch) s = .next t ∧
      (∀ a ∈ k.arrived, halts a.core → (t.seq a.core).st = 4 ∧ (t.seq a.core).fValid = true ∧
        ((s.seq a.core).fValid = false → (t.seq a.core).fCode = 6 ∧ (t.seq a.core).fPc = a.pc)) ∧
      (∀ c, ¬ on c → t.seq c = s.seq c) ∧ t.mem = s.mem ∧ (t.cairnCh ch.toNat).arrived = [] ∧
      (t.cairnCh ch.toNat).gen = k.gen + 1) ∧
    (∀ due, State.mwOn k = true → s.timeoutDue ch = false → k.due = some due → due ≤ s.now → (k.fault = true ∨ k.stop = true) →
      ∃ t, exec (.moduleWideTimeout ch) s = .next t ∧ (∀ a ∈ k.arrived, halts a.core → (t.seq a.core).st = 4) ∧
        (∀ c, ¬ on c → t.seq c = s.seq c) ∧ t.mem = s.mem ∧ (t.cairnCh ch.toNat).arrived = [])

/-- A module-wide barrier completes at its release step, in every module as a barrier of one module does (R339). It rests in part on choices
of the model (log 27). -/
def Claim.ModuleWideBarrierCompletes : Prop :=
  ∀ (s : State) (ch : BitVec 4) (rel : Nat),
    let k := s.cairnCh ch.toNat
    let on := fun (c : Nat) => ∃ a ∈ k.arrived, a.core = c
    State.mwOn k = true → k.release = some rel → rel ≤ s.now → k.childEarly = [] → (k.arrived.map (·.core)).Nodup →
    (∀ a ∈ k.arrived, (s.seq a.core).wait = .barrier ch ∨ (a.csig = true ∧ (s.seq a.core).wait = .none)) →
    k.fault = false → k.stop = false → k.early = [] → (∀ a ∈ k.arrived, (s.seq a.core).pc ≠ 4095) →
    ∃ t, exec (.moduleWideComplete ch) s = .next t ∧
      (∀ c, on c → (s.seq c).wait = .barrier ch → t.seq c = { (s.seq c).goesOn s.now with wait := .none, nextIssue := s.now }) ∧
      (∀ c, (¬ on c ∨ (s.seq c).wait = .none) → t.seq c = s.seq c) ∧ t.mem = s.mem ∧
      (t.cairnCh ch.toNat).gen = k.gen + 1 ∧ (t.cairnCh ch.toNat).arrived = []

/-! ## The matrix array at work -/

/-- The feeder begins to fill a buffer that is free by this step with the first block that a pending PASS names and no buffer holds; the fill is due ⌈p / 4⌉ +
4 steps on for its p parcels, and when it is done the elements of the block are ready (R79, R80). -/
def Claim.FeederFills : Prop :=
  ∀ (s : State) (c : CoreId) (p : Pass) (b : Block),
    let k := c.toNat
    let a := s.arr k
    let nb : Block :=
      { addr := p.block, astride := p.astride, shape := p.shape, toks := p.toks, cplx := p.cplx, due := 0, filled := false,
        etype := p.etype, pass := p.id, elems := [] }
    let n := ((blockTiles nb).map fun x => (s.actTile k (tileAddr nb x.1 x.2)).parcels).sum
    ((newBlocks a.passes).find? (fun p => !a.hasBlock p) = some p → a.bufA = none → a.freeA ≤ s.now →
      exec (.feederFillStart c) s =
        .next (s.setArr k { a with bufA := some { nb with due := s.now + (n + 3) / 4 + 4 } })) ∧
    ((newBlocks a.passes).find? (fun p => !a.hasBlock p) = some p → (a.bufA ≠ none ∨ s.now < a.freeA) → a.bufB = none →
      a.freeB ≤ s.now →
      exec (.feederFillStart c) s =
        .next (s.setArr k { a with bufB := some { nb with due := s.now + (n + 3) / 4 + 4 } })) ∧
    (a.bufA = some b → b.filled = false → b.due ≤ s.now → exec (.feederFillDone c false) s =
      .next ((s.setArr k { a with bufA := some { b with filled := true, elems := (s.readBlock k b).1 } }).countPoison k
        (s.readBlock k b).2)) ∧
    (a.bufB = some b → b.filled = false → b.due ≤ s.now → exec (.feederFillDone c true) s =
      .next ((s.setArr k { a with bufB := some { b with filled := true, elems := (s.readBlock k b).1 } }).countPoison k
        (s.readBlock k b).2))

/-- When cell (0, 0) can take a token slot and the run's shape goes on, the feeder releases the next token of the first pending pass to
the left cells of its sub-arrays, or a bubble where the lane counter forces one, the block is not filled, or a DRAIN still reads the group
(R81, R83, R90, R99, R100). It rests in part on choices of the model (log 10). -/
def Claim.FeederReleases : Prop :=
  ∀ (s : State) (c : CoreId) (p : Pass) (rest : List Pass) (b : Block) (tl : Tile),
    let k := c.toNat
    let a := s.arr k
    let x := a.cell 0 0
    let n := tileSteps tl.form.toNat
    a.passes = p :: rest → x.busy = none → x.inRow = [] → x.done ≤ s.now → a.runShape = some p.shape → a.tile p.tid = some tl →
    ((laneBubble p.shape a.lane = true ∨ a.blockFor p = none ∨ s.slotDraining k p = true) →
      exec (.feederRelease c) s =
        .next (s.setArr k ({ a with lane := a.lane + 1 }.feed (slotWindows none p none 0 n s.now false false)))) ∧
    (laneBubble p.shape a.lane = false → a.blockFor p = some b → b.filled = true → s.slotDraining k p = false →
      p.next + 1 < p.toks → p.next ≠ 0 →
      exec (.feederRelease c) s = .next (s.setArr k
        { ({ a with lane := a.lane + 1, markTid := p.tid }.feed (slotWindows (some b) p (some p.next) tl.wexp n s.now false false)) with
          passes := { p with next := p.next + 1 } :: rest }))

/-- The load engine reads the next row of its tile into that row's load register once the register is empty and its ports have granted the row's parcels, four a step, and is free after row 63; a
cell whose shadow set is free copies its part from there, and the register is empty once all 64 cells have (R86, R88). -/
def Claim.TileRowsLoad : Prop :=
  ∀ (s : State) (c : CoreId) (l : Load) (tl : Tile) (r j : BitVec 6) (reg : RowLoad),
    let k := c.toNat
    let a := s.arr k
    let x := a.cell r.toNat j.toNat
    let m := l.read (Sparse.get 0 a.rowFree l.nextRow) (State.rowParcels tl l.nextRow).length
    let granted := m.step + (if m.used = 0 then 0 else 1)
    (a.load = some l → a.tile l.tid = some tl → Sparse.get none a.rows l.nextRow = none → granted ≤ s.now + 1 → ∃ t nr,
      exec (.rowLoadRead c) s = .next t ∧ Sparse.get none (t.arr k).rows l.nextRow = some nr ∧ nr.tid = tl.tid ∧ nr.copied = [] ∧
      (t.arr k).load = (if l.nextRow = 63 then none else some { m with nextRow := l.nextRow + 1 }) ∧
      (t.arr k).cells = a.cells ∧ t.mem = s.mem) ∧
    (a.load = some l → a.tile l.tid = some tl → s.now + 1 < granted → exec (.rowLoadRead c) s = .next s) ∧
    (∀ free n : Nat, let y := l.read free n
      y.used < 4 ∧ y.nextRow = l.nextRow ∧ 4 * y.step + y.used = n + (if l.step < free then 4 * free else 4 * l.step + l.used)) ∧
    (Sparse.get none a.rows r.toNat = some reg → x.hasShadow = false → x.shReady ≤ s.now → x.marker = false →
      j.toNat ∉ reg.copied → ∃ t, exec (.shadowCopy c r j) s = .next t ∧
        (t.arr k).cell r.toNat j.toNat =
          { x with shadow := reg.sets.getD j.toNat .empty, hasShadow := true, shReady := s.now + 1 } ∧
        (∀ r' j', 64 * r' + j' ≠ 64 * r.toNat + j.toNat → (t.arr k).cell r' j' = a.cell r' j') ∧
        Sparse.get none (t.arr k).rows r.toNat =
          (if reg.copied.length = 63 then none else some { reg with copied := j.toNat :: reg.copied }) ∧
        t = s.setArr k (t.arr k))

/-- A cell takes its window and partial sum at the step that the recurrence allows, does one product a step, and at the end of its token
slot hands the window to the right and the sum downward, within its sub-array (R77, R78, R82, R98). It rests in part on choices of the
model (log 10). -/
def Claim.CellsWork : Prop :=
  ∀ (s : State) (c : CoreId) (r j : BitVec 6) (w : RowReg) (ws : List RowReg) (ps : PSum) (pss : List PSum) (i : Nat),
    let k := c.toNat
    let a := s.arr k
    let x := a.cell r.toNat j.toNat
    let start := max (max x.done w.stamp) (max ps.stamp x.readyAt)
    (x.busy = none → x.inRow = w :: ws → topRow w.shape r.toNat = false → x.inPs = ps :: pss → w.tok ≠ none →
      x.active.tid = w.tid → start ≤ s.now →
      exec (.cellTokenStart c r j) s = .next (s.setArr k (a.setCell r.toNat j.toNat
        { x with row := some w, ps := some ps, busy := some 0, start := start, inRow := ws, inPs := pss }))) ∧
    (x.busy = none → x.inRow = w :: ws → topRow w.shape r.toNat = false → x.inPs = ps :: pss → w.tok ≠ none →
      x.active.tid ≠ w.tid → x.hasShadow = false →
      exec (.cellTokenStart c r j) s = .next (s.setArr k (a.setCell r.toNat j.toNat { x with marker := true }))) ∧
    (x.busy = some i → x.row = some w → x.ps = some ps → i < w.n → x.start + i ≤ s.now →
      exec (.cellStep c r j) s = .next (s.setArr k (a.setCell r.toNat j.toNat
        { x with busy := some (i + 1), ps := some (cellProduct x.active w ps i) }))) ∧
    (x.busy = some w.n → x.row = some w → x.ps = some ps → x.start + w.n ≤ s.now + 1 → w.trail = false →
      (j.toNat + 1) % shapeH w.shape ≠ 0 → (r.toNat + 1) % shapeH w.shape ≠ 0 → ∃ t, exec (.tokenSlotEnd c r j) s = .next t ∧
        t = s.setArr k (t.arr k) ∧
        (t.arr k).cell r.toNat j.toNat = { x with busy := none, row := none, ps := none, done := x.start + w.n } ∧
        (t.arr k).cell r.toNat (j.toNat + 1) = { a.cell r.toNat (j.toNat + 1) with
          inRow := (a.cell r.toNat (j.toNat + 1)).inRow ++ [{ w with stamp := x.start + w.n }] } ∧
        (t.arr k).cell (r.toNat + 1) j.toNat = { a.cell (r.toNat + 1) j.toNat with
          inPs := (a.cell (r.toNat + 1) j.toNat).inPs ++ [{ ps with stamp := x.start + w.n }] })

/-- One product of a cell: an invalid slot, a zero operand or a bubble adds nothing; otherwise the aligned product joins the sum modulo
2^48 and the residue modulo 7, a non-finite operand marks the sum instead, and poison of the slot or of a selected operand stays with the
sum, a marked weight counting as zero (R45, R77, R93, R95). -/
def Claim.CellProduct : Prop :=
  ∀ (cs : CellSet) (w : RowReg) (ps : PSum) (i : Nat) (tk : Tok) (sl : Slot) (en : Entry),
    w.tok = some tk → is16Bit cs.etype.toNat = false → cs.slots[i]? = some sl →
    w.entries[if w.shape = 1 then 0 else sl.code.toNat % 8]? = some en →
    let wt := if sl.poison then .fin false 0 0 else decodeNum cs.etype.toNat sl.val.toNat
    let r := cellProduct cs w ps i
    (sl.code.getLsbD 3 = false → r = { ps with poison := ps.poison || sl.poison }) ∧
    (sl.code.getLsbD 3 = true → r.poison = (ps.poison || sl.poison || en.poison)) ∧
    (sl.code.getLsbD 3 = true → Num.isZero en.v = true → r.sum = ps.sum ∧ r.res = ps.res ∧ r.nonfin = ps.nonfin) ∧
    (sl.code.getLsbD 3 = true → Num.isZero en.v = false → (Num.isNonFin en.v || Num.isNonFin wt) = true →
      r.nonfin = true ∧ r.sum = ps.sum) ∧
    (sl.code.getLsbD 3 = true → Num.isZero en.v = false → Num.isNonFin en.v = false → Num.isNonFin wt = false →
      r.sum = ps.sum + BitVec.ofInt 48 (alignedProduct w.integer ps.e en.v wt) ∧
      r.res = (ps.res + (alignedProduct w.integer ps.e en.v wt % 7).toNat) % 7 ∧ r.nonfin = ps.nonfin)

/-- Integer sums: the column scale shifts the exact sum, to the left or, toward negative infinity, to the right; a value outside INT32 is
clamped to the nearer bound, and the slot's sticky saturation flag is set at every such entry and combination and never lost by another
(R26, R27). -/
def Obligations.IntegerSumsSaturate : Prop :=
  ∀ (s : State) (a b : DW) (sum e c : Int) (k base no gen el d s1 s2 : Nat) (g : Group) (l : Landing) (x : VRes) (sat : Bool),
    let fits := fun (v : Int) => -2147483648 ≤ v ∧ v ≤ 2147483647
    let holds := fun (r : DW × Bool) (v : Int) =>
      (fits v → r.1.hi.toInt = v ∧ r.2 = false) ∧ (2147483647 < v → r.1.hi.toInt = 2147483647 ∧ r.2 = true) ∧
        (v < -2147483648 → r.1.hi.toInt = -2147483648 ∧ r.2 = true)
    holds (combineElem true a b) (a.hi.toInt + b.hi.toInt) ∧
    (0 ≤ c → holds (convertSum true sum e c) (sum * 2 ^ c.toNat)) ∧
    (c < 0 → holds (convertSum true sum e c) (Int.fdiv sum (2 ^ (-c).toNat))) ∧
    (s1 < 8 → (s.combineAt k true s1 s2 el).slotSat k s1 =
      (s.slotSat k s1 || s.slotSat k s2 || (combineElem true (s.elem k s1 el).v (s.elem k s2 el).v).2)) ∧
    (s.group k base = some g → g.landing.find? (fun l => l.no = no && l.gen = gen) = some l → l.slot < 8 → s.pack.compat = false →
      (s.enterElem k base no gen el x sat d).slotSat k l.slot = (s.slotSat k l.slot || sat))

/-- The bottom stage of a column takes a token's sum and enters its result into the landing slot of its pass at the element of the token's
row; a bubble only passes. A residue that differs from the sum's yields a poisoned zero and counts (R92, R94, R98). It rests in part on
choices of the model (log 10). -/
def Claim.BottomStageEnters : Prop :=
  ∀ (s : State) (c : CoreId) (r j : BitVec 6) (ps : PSum) (rest : List PSum) (tk : Tok) (p : Pass),
    let k := c.toNat
    let a := s.arr k
    let key := 64 * r.toNat + j.toNat
    let exit := max ps.stamp (Sparse.get 0 a.exits key) + ps.n
    let u := s.setArr k { a with bottoms := Sparse.set [] a.bottoms key rest, exits := Sparse.set 0 a.exits key exit,
                                 lastExit := max a.lastExit exit }
    let x := columnResult (a.tile ps.tid) j.toNat ps
    Sparse.get [] a.bottoms key = ps :: rest → exit ≤ s.now + 1 →
    (ps.tok = none → exec (.bottomStage c r j) s = .next u) ∧
    (ps.tok = some tk → a.live.find? (fun p => some p.id = ps.tok.map (·.pass)) = some p → tk.last = false →
      tk.t < shapeH ps.shape → x.2.2.1 = false → x.2.2.2 = false →
      exec (.bottomStage c r j) s = .next ((u.land k p.grp p.no p.gen false p.pc).enterElem k p.grp p.no p.gen
        ((r.toNat + 1 - shapeH ps.shape + tk.t) * 64 + j.toNat) x.1 x.2.1 exit)) ∧
    ((ps.sum.toInt % 7).toNat ≠ ps.res → ps.nonfin = false → x = ({ v := {}, poison := true }, false, true, false))

/-! ## The accumulator and the drain chain at work -/

/-- A combine that is due joins the newer node's element into the older node's: that element alone changes, its mark is the marks' union,
and its value the rounded join of both (R114, R118, R129). -/
def Claim.CombineJoinsTwoNodes : Prop :=
  ∀ (s : State) (c : CoreId) (base : BitVec 3) (e : BitVec 12) (g : Group) (w : Work) (s1 s2 : Nat) (rest : List (Nat × Nat)),
    let k := c.toNat
    let old := s.elem k s1 e.toNat
    let new := s.elem k s2 e.toNat
    s.group k base.toNat = some g → g.work.find? (fun w => w.e = e.toNat) = some w → w.chain = (s1, s2) :: rest →
    w.due ≤ s.now → s1 < 8 →
    ∃ t, exec (.accCombine c base e) s = .next t ∧
      (t.elem k s1 e.toNat).v = (combineElem g.integer old.v new.v).1 ∧
      (t.elem k s1 e.toNat).poison = (old.poison || new.poison) ∧
      (∀ slot e', slot < 8 → e' < 4096 → (slot ≠ s1 ∨ e' ≠ e.toNat) → t.elem k slot e' = s.elem k slot e') ∧
      t.cores.seq = s.cores.seq

/-- A DRAIN reads one row of 64 folded elements into the chain once nothing issued before it is in flight; the DRAIN's next row follows,
and with its last row its group is emptied and stays open (R132 to R135). -/
def Claim.DrainReadsRows : Prop :=
  ∀ (s : State) (c : CoreId) (d : DrainRec) (g : Group),
    let k := c.toNat
    let dn := s.drn k
    let st := d.cfg.nextStage 0
    let vals := (List.range 64).map fun j => firstElem d (s.foldAt k g d.gen (64 * d.next + j)).1
    dn.q.find? (fun x => !x.readDone) = some d → s.group k d.grp = some g →
    g.faulted = false → g.recv = false → d.split = false → d.await = false → d.cfg.refused = false →
    (∀ x ∈ g.inflight, d.gen < x) →
    max (max (d.issued + 1) g.quietAt) dn.free + (if d.next = 0 then 2 * (g.stack.length - 1) else 0) ≤ s.now →
    dn.takes d s.now = true →
    ∃ t, exec (.drainRowRead c) s = .next t ∧
      (t.drn k).rows = dn.rows ++ [{ id := d.id, t := d.next, stage := st, due := stageDue st s.now, vals := vals }] ∧
      (t.drn k).free = s.now + 1 ∧
      (d.next + 1 < d.rows → t.mem = s.mem ∧ t.acc k = s.acc k) ∧
      (d.next + 1 = d.rows → ∃ h, t.group k d.grp = some h ∧ h.stack = [] ∧ h.emptyAt = s.now + 1 ∧
        h.base = g.base ∧ h.depth = g.depth)

/-- A row passes the stages SCALE, BIAS and ACT element by element, and goes on to the next enabled stage; at the output of a DRAIN that
no bundle holds, without PACK, its bytes are written at DEST + row × row bytes, and at no other place (R33, R189, R190). -/
def Claim.ChainStages : Prop :=
  ∀ (s : State) (c : CoreId) (r : CRow) (rest : List CRow) (d : DrainRec),
    let k := c.toNat
    let dn := s.drn k
    let st := d.cfg.nextStage (r.stage + 1)
    let ks := State.chunksOf k (d.dest + r.t * (8 * elemBits d.outType)) (rowBytesOut d.outType r.vals).1
      (rowBytesOut d.outType r.vals).2 0
    dn.rows = r :: rest → dn.q.find? (fun x => x.id = r.id) = some d → r.due ≤ s.now →
    (r.stage < 3 → exec (.chainStage c 0) s = .next (s.setDrn k
      { dn with rows := { r with vals := (enumFrom0 r.vals).map fun x => stageElem d.cfg r.stage [] x.1 x.2, stage := st,
                                 due := stageDue st r.due } :: rest })) ∧
    (r.stage = 8 → d.bundled = false → s.chunksStall ks = false → d.cfg.on 7 = false → d.outRows + 1 < d.rows →
      exec (.chainStage c 0) s = .next ((s.setDrn k
        { dn with rows := rest,
                  q := dn.q.map fun x => if x.id = d.id then { d with outRows := d.outRows + 1 } else x }).writeChunks k ks))

/-- The Packer emits four parcels of its oldest finished tile in a step, at ascending addresses, from 8 steps after the tile's last row on
(R74). -/
def Claim.PackerEmits : Prop :=
  ∀ (s : State) (c : CoreId) (t : PkTile) (ts : List PkTile) (d : DrainRec),
    let k := c.toNat
    let dn := s.drn k
    let ks := (enumFrom0 (t.out.take 4)).flatMap fun x =>
      State.chunksOf k (t.addr + 32 * x.1) (parcelBytes x.2.data) (List.replicate 32 x.2.poison) x.2.cclass
    dn.pk = t :: ts → dn.q.find? (fun x => x.id = t.id) = some d → t.full = true → d.cfg.on 7 = false → t.due ≤ s.now →
    d.bundled = false → s.chunksStall ks = false → 4 < t.out.length →
    exec (.packerEmit c) s = .next ((s.setDrn k
      { dn with pk := { t with out := t.out.drop 4, addr := t.addr + 128, due := t.due + 1 } :: ts,
                q := dn.q.map fun x => if x.id = d.id then d else x }).writeChunks k ks)

/-- A split-node beat that arrives at its receive group, where no node of its level is there for the same DRAIN, opens a node in the lowest
free slot and writes the beat's elements there; with no slot free it is accumulator fault 3 at the group's ACLR. Either way it leaves the
inbox. A beat that the group still holds, and one within 16 steps of the beat before it at its elements, wait (R119, R127, R137). It rests
in part on choices of the model (log 19, 74). -/
def Claim.SplitNodesArrive : Prop :=
  ∀ (s : State) (c : CoreId) (b : Beat) (g : Group),
    let k := c.toNat
    let box := Sparse.get [] s.trail.inbox k
    let n := NodeTag.ofBits b.hdr
    let per := if g.integer then 32 else 16
    let slots := ((List.range g.depth).map (g.base + ·)).filter fun x => !(g.nodes.any fun n => n.slot = x)
    box.find? (fun b => b.kind = 2) = some b → s.group k n.base = some g → g.faulted = false →
    (∀ d ∈ (s.drn k).q, d.grp = g.base → d.readDone = true) →
    (Sparse.get 0 g.beatIn n.beat ≤ s.now → (∀ x ∈ g.nodes, x.gen = g.gen → x.level ≠ n.level) →
      (∀ x rest, slots = x :: rest → ∃ t h, exec (.splitNodeArrival c) s = .next t ∧
        Sparse.get [] t.trail.inbox k = box.erase b ∧ t.group k n.base = some h ∧
        h.nodes = g.nodes ++ [{ gen := g.gen, slot := x, level := n.level, first := n.first, logS := n.logS, beats := [n.beat], joined := 0 }] ∧
        (∀ i < per, x < 8 → n.beat * per + i < 4096 →
          t.elem k x (n.beat * per + i) = (beatElems g.integer b).getD i VRes.zero)) ∧
      (slots = [] → ∃ t, exec (.splitNodeArrival c) s = .next t ∧ Sparse.get [] t.trail.inbox k = box.erase b ∧
        (t.seq k).aValid = true ∧ ((s.seq k).aValid = false → (t.seq k).aCode = 3))) ∧
    ((s.now < Sparse.get 0 g.beatIn n.beat ∨
      ∃ x ∈ g.nodes, x.gen = g.gen ∧ x.level = n.level ∧ x.first = n.first ∧ x.logS = n.logS ∧ n.beat ∈ x.beats) →
      exec (.splitNodeArrival c) s = .next s)

/-! ## The vector path at work -/

/-- The first vector instruction that waits for a block uses the bank that holds it, bank A before bank B. Where neither does, a free bank,
A before B, begins to fill with it, due ⌈p / 4⌉ + 4 steps on; with neither free it waits. When a fill is done the elements of its block are
ready, in either bank (R140, R141). It rests in part on choices of the model (log 25). -/
def Claim.BanksFill : Prop :=
  ∀ (s : State) (c : CoreId) (x : VInstr) (n : Nat) (need : Nat × Nat × Nat × Nat × Bool) (b : Bank) (second : Bool),
    let k := c.toNat
    let v := s.vec k
    let uses : VInstr := if x.bank = 0 then { x with bank := n } else { x with bankB := n }
    let fresh : Bank := { addr := need.1, t := need.2.1, k := need.2.2.1, etype := need.2.2.2.1, sampled := need.2.2.2.2,
                          astride := x.vp.astride, due := 0, filled := false, elems := [] }
    let fill : Bank := { fresh with due := s.now + (((s.bankTiles k fresh).map (·.parcels)).sum + 3) / 4 + 4 }
    let holds := fun n => (v.bank n).any fun b => b.holds need
    (v.q.find? (fun x => !x.workDone &&
        ((x.bank = 0 && (bankNeed x.kind x.vp false).isSome) || (x.bankB = 0 && (bankNeed x.kind x.vp true).isSome))) = some x →
      bankNeed x.kind x.vp (decide (x.bank ≠ 0)) = some need → n = 1 ∨ n = 2 →
      (holds n = true → (n = 2 → holds 1 = false) → exec (.vecFillStart c) s = .next (s.setVInstr k uses)) ∧
      (holds 1 = false → holds 2 = false → v.bankFree n s.now = true → (n = 2 → v.bankFree 1 s.now = false) →
        exec (.vecFillStart c) s = .next
          ((s.setVec k (if n = 1 then { v with bankA := some fill } else { v with bankB := some fill })).setVInstr k uses)) ∧
      (holds 1 = false → holds 2 = false → v.bankFree 1 s.now = false → v.bankFree 2 s.now = false →
        exec (.vecFillStart c) s = .next s)) ∧
    (v.bank (if second then 2 else 1) = some b → b.filled = false →
      (b.due ≤ s.now →
        let full : Bank := { b with filled := true, elems := bankElems b (s.bankTiles k b) }
        exec (.vecFillDone c second) s = .next
          ((s.setVec k (if second then { v with bankB := some full } else { v with bankA := some full })).countPoison k
            ((s.bankTiles k b).map (·.errors)).sum)) ∧
      (s.now < b.due → exec (.vecFillDone c second) s = .next s))

/-- One band of an MVD: its results join the sweep, or mark all of it where the tile is malformed; its residue mismatches, non-finite
operands and poisoned errors are counted; the next band may start when this one's steps have passed. The last band of a sweep ends it: its
leaf goes to the group, and with the last sweep the instruction's work is done (R147, R150, R152). -/
def Claim.BandsOfMvd : Prop :=
  ∀ (s : State) (c : CoreId) (x : VInstr) (bk : Bank) (at_ : Nat),
    let k := c.toNat
    let p := x.vp
    let nb := max 1 (p.n / 64)
    let ch := x.band / nb
    let start := max (max x.due at_) (s.vec k).free
    let per := perTile (s.takeTile k 0 p.waddr).1
    let r := s.band k x.integer (p.waddr + (ch / per * nb + x.band % nb) * p.wstride * 32) ch (x.band % nb) p.n
      (min p.t 8) p.etype 4096 ((s.vec k).portHeld x start) (fun t => bk.chunkA t (64 * ch)) bk.at_
    let sweep := if r.allMark then (List.range 4096).map fun e => (e, ({ v := (Sparse.get VRes.zero x.sweep e).v, poison := true } : VRes))
      else Sparse.setAll VRes.zero x.sweep (r.vals.map fun y =>
        (y.1, { y.2 with poison := y.2.poison || (Sparse.get VRes.zero x.sweep y.1).poison }))
    let y : VInstr := { x with
      begun := true, band := x.band + 1, sweep, sat := x.sat || r.sat, sweepAt := if x.begun then x.sweepAt else start,
      due := start + r.steps }
    let t := (s.vecCounts k r.bad r.nonfin).countPoison k r.errors
    s.vecHead k = some x → x.kind = .mvd → (s.vec k).blocksAt x = some at_ → (s.vec k).bank x.bank = some bk → p.k ≠ 0 →
    (start ≤ s.now →
      (x.band % nb + 1 < nb → exec (.vecBand c) s = .next (t.setVInstr k y)) ∧
      (x.band % nb + 1 = nb →
        exec (.vecBand c) s = .next (t.endSweep k y ch (start + r.steps) (decide (chunksOf64 p.k ≤ ch + 1))))) ∧
    (s.now < start → exec (.vecBand c) s = .next s)

/-- A sweep ends at its last band's end, 16 steps after it began at the earliest; its leaf is on the way to the group from then on, due 12
steps later, under the pass number of its chunk; the next sweep begins empty. After the last sweep the instruction's work is done at that
step, and the next instruction may start then (R148, R152). -/
def Claim.SweepsEnd : Prop :=
  ∀ (s : State) (k : Nat) (x : VInstr) (chunk endAt : Nat),
    let d := max endAt (x.sweepAt + 16)
    let leaf : VLeaf := { instr := x.id, no := x.firstNo + chunk, due := d + 12, sat := x.sat, vals := x.leafVals x.sweep }
    let y : VInstr := { x with sweep := [], sat := false, sweepAt := d, due := d }
    ((s.endSweep k x chunk endAt false).vec k = { (s.vec k) with
      leaves := (s.vec k).leaves ++ [leaf], q := (s.vec k).q.map fun z => if z.id = x.id then y else z }) ∧
    ((s.endSweep k x chunk endAt true).vec k = { (s.vec k) with
      leaves := (s.vec k).leaves ++ [leaf], free := d,
      q := (s.vec k).q.map fun z => if z.id = x.id then { y with workDone := true } else z })

/-- A leaf enters its group 12 steps after its sweep at the earliest, once the leaf before it has had its 16 steps and no DRAIN issued
before its instruction reads the group (R119, R134, R152). Where a row's conditions do not hold the state is unchanged, which is the
model's choice (log 2). It rests in part on choices of the model (log 10). -/
def Claim.LeavesEnter : Prop :=
  ∀ (s : State) (c : CoreId) (l : VLeaf) (rest : List VLeaf) (x : VInstr) (g : Group),
    let k := c.toNat
    let v := s.vec k
    v.leaves = l :: rest → v.q.find? (fun x => x.id = l.instr) = some x → s.group k x.grp = some g →
    (l.due ≤ s.now → s.drainReads k x.grp x.gen = false → g.emptyAt ≤ s.now → g.lastIn ≤ s.now →
      exec (.vecLeafEntry c) s = .next ((s.setVec k { v with
        leaves := rest,
        q := v.q.filter fun y => !(y.workDone && y.id = x.id && !(rest.any fun z => z.instr = x.id)) }).enterLeaf k x.grp l.no x.gen
          l.vals l.sat (max l.due g.lastIn) x.pc)) ∧
    ((s.now < l.due ∨ s.drainReads k x.grp x.gen = true ∨ s.now < g.emptyAt ∨ s.now < g.lastIn) →
      exec (.vecLeafEntry c) s = .next s)

/-- The intersection unit at work on the first instruction whose work is not done, from the step on that its blocks, the unit and its own
last step allow; before, it waits. As an instruction begins, its streams are read and its violations noted (beginStreams). Then, a step at
a time: the dot form compares up to 8 entries of its two streams and keeps the matches, and when one stream is at its end enters its folded
leaf at the end of its fixed time; the merge form compares up to 8 and keeps the sum of what each index has, and when both streams are at
their ends, and its fixed time is over, writes its two outputs; the sampled form computes up to 8 of its entries, and with the last of them
enters its leaf; the row form reads up to 8 entries and headers of its chunk, and with the last of them computes the chunk and ends its
sweep (R151 to R158). It rests in part on choices of the model (log 26, 79, 80). -/
def Claim.IntersectionStep : Prop :=
  ∀ (s : State) (c : CoreId) (x0 : VInstr) (at_ : Nat),
    let k := c.toNat
    let start := max (max x0.due at_) (s.vec k).free
    let r := if x0.begun then (s, x0) else s.beginStreams k x0 start
    let x := r.2
    let p := x.vp
    let fixed := x.sweepAt + (p.capA + p.capB + 7) / 8 + 16
    s.vecHead k = some x0 → (s.vec k).blocksAt x0 = some at_ →
    (s.now < start → exec (.intersectStep c) s = .next s) ∧
    (start ≤ s.now → x0.kind = .isxDot →
      let w := walk false 8 x.ia x.ib
      let found := w.1.filterMap fun y => match y with | (some a, some b) => some (a, b) | _ => none
      let l := dotLeaf x
      (x.ia ≠ [] → x.ib ≠ [] → exec (.intersectStep c) s = .next (r.1.setVInstr k
        { x with pairs := x.pairs ++ found, ia := w.2.1, ib := w.2.2, due := start + 1 })) ∧
      (x.ia = [] ∨ x.ib = [] → exec (.intersectStep c) s = .next
        (((r.1.vecCounts k l.2.1 l.2.2).pushLeaf k
          { instr := x.id, no := x.firstNo, due := fixed, sat := l.1.2,
            vals := x.leafVals (if l.1.1 = VRes.zero then [] else [(p.elem % 4096, l.1.1)]) }).vecDone k x fixed))) ∧
    (start ≤ s.now → x0.kind = .mrg →
      let w := walk true 8 x.ia x.ib
      let vs := w.1.filterMap (mrgValue x.scalar)
      (x.ia ≠ [] ∨ x.ib ≠ [] → exec (.intersectStep c) s = .next ((r.1.countNonfin k (vs.filter fun y => y.2.2).length).setVInstr k
        { x with out := x.out ++ vs.map (fun y => (y.1, y.2.1)), ia := w.2.1, ib := w.2.2, due := start + 1 })) ∧
      (x.ia = [] → x.ib = [] → fixed ≤ s.now → exec (.intersectStep c) s = .next ((r.1.writeMerge k x).vecDone k x fixed)) ∧
      (x.ia = [] → x.ib = [] → s.now < fixed → exec (.intersectStep c) s = .next (r.1.setVInstr k { x with due := fixed }))) ∧
    (∀ xb yb, start ≤ s.now → x0.kind = .isxSampled → (s.vec k).bank x0.bank = some xb → (s.vec k).bank x0.bankB = some yb →
      let es := (x.ia.take 8).length
      let rs : List (Nat × VRes × Bool × Bool × Bool) :=
        (enumFrom0 (x.ia.take 8)).map fun y => (x.band + y.1, sampledEntry x xb yb y.2.idx)
      let t := r.1.vecCounts k (rs.filter fun y => y.2.2.2.1).length (rs.filter fun y => y.2.2.2.2).length
      let y := { x with
        ia := x.ia.drop 8, band := x.band + es, due := start + 1, sat := x.sat || rs.any fun y => y.2.2.1,
        sweep := Sparse.setAll VRes.zero x.sweep (rs.map fun (y : Nat × VRes × Bool × Bool × Bool) => (y.1, y.2.1)) }
      let ends := x.sweepAt + max ((p.capA + 7) / 8) 16
      (8 < x.ia.length → exec (.intersectStep c) s = .next (t.setVInstr k y)) ∧
      (x.ia.length ≤ 8 → exec (.intersectStep c) s = .next
        ((t.pushLeaf k { instr := x.id, no := x.firstNo, due := ends + 12, sat := y.sat, vals := x.leafVals y.sweep }).vecDone k y ends))) ∧
    (∀ bk, start ≤ s.now → x0.kind = .mvsRow → (s.vec k).bank x0.bank = some bk →
      let rs := r.1.rowSweep k x bk x.band
      let t := r.1.vecCounts k (rs.1.filter fun y => y.2.2.2.1).length (rs.1.filter fun y => y.2.2.2.2).length
      let y := { x with
        band := x.band + 1, sub := 0, sat := rs.1.any fun y => y.2.2.1,
        sweep := Sparse.setAll VRes.zero [] (rs.1.map fun y => (y.1, y.2.1)) }
      (x.sub + 8 < rs.2 → exec (.intersectStep c) s = .next (r.1.setVInstr k { x with sub := x.sub + 8, due := start + 1 })) ∧
      (rs.2 ≤ x.sub + 8 → p.k ≠ 0 → exec (.intersectStep c) s = .next
        (t.endSweep k y x.band (start + 1) (decide (chunksOf64 p.k ≤ x.band + 1)))) ∧
      (rs.2 ≤ x.sub + 8 → p.k = 0 → exec (.intersectStep c) s = .next (t.vecDone k y start)))

/-- Over two streams of strictly ascending indices the walk finds exactly the indices that both hold (R153). -/
def Claim.WalkFindsTheMatches : Prop :=
  ∀ (a b : List CSItem) (n : Nat),
    a.Pairwise (fun x y => x.idx < y.idx) → b.Pairwise (fun x y => x.idx < y.idx) → a.length + b.length ≤ n →
    let w := (walk false n a b).1
    (∀ x ∈ a, ∀ y ∈ b, x.idx = y.idx → (some x, some y) ∈ w) ∧
    (∀ p ∈ w, ∃ x ∈ a, ∃ y ∈ b, p = (some x, some y) ∧ x.idx = y.idx)

/-- SCT ends when its bands are done, or where its layer is disabled at the end of that form's fixed time. A disabled layer selects every
group; otherwise the groups at or above the threshold of its request, at most B_max of them. Its list, the selected groups in ascending
order filled up with the number of groups, is written at its output address in 4-byte entries; bk is the number selected, and the dropped
ones are counted. Where an input was poisoned the list is poisoned, bk is B_max and nothing counts as dropped. Its work is then done, the
sequencer's other registers keep their values, and no other core's change (R159, R161, R162, R164, R165). -/
def Claim.ScoutSelects : Prop :=
  ∀ (s : State) (c : CoreId) (x : VInstr),
    let k := c.toNat
    let p := x.vp
    let start := max x.due (s.vec k).free
    let sel := if x.dis then (List.range (min p.g 4096), 0) else sctSelect ((List.range (min p.g 4096)).map (sctScore x)) x.thr p.bmax
    let list := (sel.1 ++ List.replicate (p.bmax - sel.1.length) p.g).flatMap fun i => leBytes 4 i
    s.vecHead k = some x → x.kind = .sct →
    (x.dis = true → x.begun = false →
      exec (.sctSelectDone c) s = .next (s.setVInstr k { x with begun := true, due := start + (p.g + 7) / 8 + 8 })) ∧
    ((x.dis = true → x.begun = true) → (s.now < start ∨ (x.dis = false ∧ x.band < sctBands p)) →
      exec (.sctSelectDone c) s = .next s) ∧
    ((x.dis = true → x.begun = true) → start ≤ s.now → (x.dis = false → sctBands p ≤ x.band) →
      ∃ t, exec (.sctSelectDone c) s = .next t ∧
        t.seq k = { s.seq k with bk := BitVec.ofNat 16 (if x.poisonAll then p.bmax else sel.1.length) } ∧
        (∀ j ≠ k, t.seq j = s.seq j) ∧
        (t.vec k).drop = (s.vec k).drop + (if x.poisonAll then 0 else sel.2) ∧ (t.vec k).free = start ∧ t.vecHead k ≠ some x ∧
        t = (((s.setVec k { (s.vec k) with drop := (s.vec k).drop + if x.poisonAll then 0 else sel.2 }).writeChunks k
          (State.chunksOf k p.outA list (List.replicate list.length x.poisonAll) 0)).setSeq k (t.seq k)).vecDone k x start)

/-- The groups that the Scout selects reach the threshold, are given in ascending order, and none that beats a selected one in score was
left out (R159). -/
def Claim.SelectionKeepsTheBest : Prop :=
  ∀ (score : List (Option W32)) (thr : W32) (bmax : Nat),
    let r := sctSelect score thr bmax
    r.1.Pairwise (· < ·) ∧
    (∀ g ∈ r.1, ∃ v, score[g]? = some (some v) ∧ fNumKey thr ≤ fNumKey v) ∧
    (∀ g ∈ r.1, ∀ h v w, score[g]? = some (some v) → score[h]? = some (some w) → fp32IsNaN thr = false → fNumKey v < fNumKey w → h ∈ r.1)

/-! ## The stream engines at work -/

/-- A queued arm starts when its engine is idle, an unbundled one as queued arm and one of a committed bundle as bundled arm; with another
arm active, or none queued, nothing starts. An arm is complete, and its engine idle, once its walk has ended and every element has landed,
every write has been answered and every port delivery taken; its RESID stream, if it had one, has then ended. Before, it stays (R191, R228
to R230). Where a row's conditions do not hold the state is unchanged, which is the model's choice (log 2). -/
def Claim.ArmsStartAndComplete : Prop :=
  ∀ (s : State) (c : CoreId) (e : BitVec 3) (a : Arm),
    let k := c.toNat
    let n := e.toNat
    let g := s.eng k n
    let d := s.drn k
    let starts := s.setEng k n { g with active := some a, queued := none }
    let idle := s.setEng k n
      { g with active := none, ctl := [], cov := [], covEntry := 0, portN := 0, portData := 0, portMark := false }
    (g.active = none → g.queued = some a → a.bundled = false →
      exec (.queuedArmStart c e) s = .next starts ∧ exec (.bundledArmStart c e) s = .next s) ∧
    (g.active = none → g.queued = some a → a.bundled = true →
      exec (.bundledArmStart c e) s = .next starts ∧ exec (.queuedArmStart c e) s = .next s) ∧
    (g.active ≠ none ∨ g.queued = none →
      exec (.queuedArmStart c e) s = .next s ∧ exec (.bundledArmStart c e) s = .next s) ∧
    (g.active = some a → a.ended = true → a.run = none → g.flight = [] → g.tile = [] → g.sent = [] → g.portOut = [] →
      (∀ x ∈ g.cov, x.2.dirty = false) →
      (a.resid = true → n ∉ d.residEnd →
        exec (.armComplete c e) s = .next (idle.setDrn k { d with residEnd := d.residEnd ++ [n] })) ∧
      (a.resid = false ∨ n ∈ d.residEnd → exec (.armComplete c e) s = .next idle)) ∧
    (g.active = some a → (a.ended = false ∨ a.run ≠ none ∨ g.flight ≠ [] ∨ g.tile ≠ [] ∨ g.sent ≠ [] ∨ g.portOut ≠ [] ∨
      ∃ x ∈ g.cov, x.2.dirty = true) → exec (.armComplete c e) s = .next s) ∧
    (g.active = none → exec (.armComplete c e) s = .next s)

/-- What an engine does with the next entry of its arm, in each of the three rows that take one. It first asks for what the entry needs
(fetchEntry), and waits until that has come. Then a RAW entry starts a copy of its LEN parcels between the two places it names, the first
read in the next step; a CHAIN entry moves to entry 0 of a list inside the list ranges, and ends the arm with STRM_BADLIST where the list
lies outside; an entry of reserved KIND, or from a poisoned parcel, ends the arm with STRM_BADLIST and takes no effect, whichever row takes
it; a row leaves an entry of another kind to its own row. With no arm that takes an entry nothing changes (R222 to R226). It rests in part
on choices of the model (log 2, 58). -/
def Claim.ListEntries : Prop :=
  ∀ (s : State) (c : CoreId) (e : BitVec 3) (a : Arm),
    let k := c.toNat
    let n := e.toNat
    let t := s.fetchEntry k n a
    let g := t.eng k n
    let x := t.listEntry k n a
    let v := x.1
    let list := v / 2 ^ 20 % 2 ^ 38 * 16
    let goesOn := fun (b : Arm) => t.setEng k n { g with active := some b, ctl := [] }
    let ends := t.setEng k n { g with active := some { a with ended := true }, ctl := [], last := 2 }
    let copy : Run :=
      { no := a.taken, raw := true, src := none, dst := none, port := none, add := false, ext := [], total := v / 2 ^ 5 % 2 ^ 11 + 1,
        idx := 0, sorg := [], dorg := [], saddr := v / 2 ^ 58 % 2 ^ 14 * 2 ^ 42 + v / 2 ^ 21 % 2 ^ 37 * 32,
        daddr := v / 2 ^ 114 % 2 ^ 14 * 2 ^ 42 + v / 2 ^ 77 % 2 ^ 37 * 32, readyAt := t.now + 1, mode := .run, slotAt := 0, used := 0,
        lastRd := none, tiled := false, sown := none, down := none }
    let all := fun (u : State) =>
      exec (.descEntry c e) s = .next u ∧ exec (.rawEntry c e) s = .next u ∧ exec (.listChain c e) s = .next u
    (s.walking k n = none → all s) ∧
    (s.walking k n = some a → t.entryHere k n a = false → all t) ∧
    (s.walking k n = some a → t.entryHere k n a = true →
      (x.2 = true ∨ 2 < v % 16 → all ends) ∧
      (x.2 = false → v % 16 = 1 →
        exec (.rawEntry c e) s = .next (goesOn { a with
          next := a.next + 1, left := a.left - 1, ended := v.testBit 4 || decide (a.left ≤ 1), taken := a.taken + 1, run := some copy })) ∧
      (x.2 = false → v % 16 = 2 → t.inListRange list = true →
        exec (.listChain c e) s = .next (goesOn { a with list := list, next := 0, left := 65535 })) ∧
      (x.2 = false → v % 16 = 2 → t.inListRange list = false → exec (.listChain c e) s = .next ends) ∧
      (x.2 = false → v % 16 = 0 → exec (.rawEntry c e) s = .next t ∧ exec (.listChain c e) s = .next t) ∧
      (x.2 = false → v % 16 = 1 → exec (.descEntry c e) s = .next t ∧ exec (.listChain c e) s = .next t) ∧
      (x.2 = false → v % 16 = 2 → exec (.descEntry c e) s = .next t ∧ exec (.rawEntry c e) s = .next t))

/-- A DESC entry that has come starts a run. A descriptor number from 0xFFF0 up names no descriptor: such a source is undecoded, counts one
UNDEC and one poisoned error, and such a destination is a port, of that number. The run goes over the destination's extents, or the
source's where the destination gathers or is a port; its first element may be read 8 steps on. With no extents to go over, or an empty
tensor, the entry is taken and transfers nothing. A descriptor that comes from a poisoned parcel ends the arm with STRM_BADLIST (R202, R203,
R208, R220, R222, R223, R233). It rests in part on choices of the model (log 58). -/
def Claim.DescriptorEntries : Prop :=
  ∀ (s : State) (c : CoreId) (e : BitVec 3) (a : Arm),
    let k := c.toNat
    let n := e.toNat
    let t := s.fetchEntry k n a
    let x := t.listEntry k n a
    let v := x.1
    let srcN := v / 2 ^ 16 % 2 ^ 16
    let dstN := v / 2 ^ 32 % 2 ^ 16
    let read := fun m => lookBytes (t.ctlLook k n) (t.descAddr m) 64
    let src := if srcN < 0xFFF0 then some (parseDesc (read srcN).1) else none
    let dst := if dstN < 0xFFF0 then some (parseDesc (read dstN).1) else none
    let poisoned := (srcN < 0xFFF0 ∧ (read srcN).2 = true) ∨ (dstN < 0xFFF0 ∧ (read dstN).2 = true)
    let given := match dst with
      | some d => if d.gen then src.map Desc.extents else some d.extents
      | none => src.map Desc.extents
    let ext := given.getD []
    let total := if given.isNone || src.elim false Desc.isEmpty || dst.elim false Desc.isEmpty then 0 else ext.foldl (· * ·) 1
    let u := if src.isNone then t.engUndec k n else t
    s.walking k n = some a → t.entryHere k n a = true → x.2 = false → v % 16 = 0 →
    (poisoned → exec (.descEntry c e) s = .next (t.setEng k n
      { t.eng k n with active := some { a with ended := true }, ctl := [], last := 2 })) ∧
    (¬poisoned → ∃ b : Arm, exec (.descEntry c e) s = .next (u.setEng k n { u.eng k n with active := some b, ctl := [] }) ∧
      b.at_ = a.at_ ∧ b.list = a.list ∧ b.next = a.next + 1 ∧ b.left = a.left - 1 ∧ b.taken = a.taken + 1 ∧ b.bundled = a.bundled ∧
      b.ended = (v.testBit 4 || decide (a.left ≤ 1)) ∧ b.resid = (a.resid || decide (dstN = 0xFFFE)) ∧
      (total = 0 → b.run = none) ∧
      (total ≠ 0 → ∃ r : Run, b.run = some r ∧ r.no = a.taken ∧ r.raw = false ∧ r.src = src ∧ r.dst = dst ∧
        r.port = (if dstN < 0xFFF0 then none else some dstN) ∧ r.ext = ext ∧ r.total = total ∧ r.idx = 0 ∧ r.readyAt = t.now + 8 ∧
        r.add = v.testBit 5 ∧ r.sorg = (List.range 5).map (fun d => signedOf 8 (v / 2 ^ (48 + 8 * d) % 2 ^ 8)) ∧
        r.dorg = (List.range 5).map (fun d => signedOf 8 (v / 2 ^ (88 + 8 * d) % 2 ^ 8)) ∧
        r.mode = modeOf src dst dst.isNone ext r.dorg))

/-- A parcel of a list, a descriptor, an index tensor or an ownership table is asked for once. One in the engine's own core store is there
at once, verified; an undecoded one is there as poison, and counts; any other is asked for over the Trail, at the source of the core (R41,
R208, R210, R227, R253). -/
def Claim.EntriesAreFetched : Prop :=
  ∀ (s : State) (k n sees a : Nat),
    let g := s.eng k n
    let asked := { g with nextRid := g.nextRid + 1, ctl := Sparse.set none g.ctl a (some { rid := g.nextRid, asked := s.now, got := none }) }
    let t := s.setEng k n asked
    let u := s.ctlAsk k n sees a
    (s.keyOf a = none → u.ctlLook k n a = some (poisonedParcel a) ∧ (u.eng k n).undec = g.undec + 1 ∧
      (u.cnt k).poison = (s.cnt k).poison + 1 ∧ u.trail = s.trail) ∧
    (∀ p, s.parcelFor (some sees) a = some p → State.placeExit a = some (k * 8 + 4) →
      u.ctlLook k n a = some (consume p a).1 ∧ (u.cnt k).poison = (s.cnt k).poison + (if (consume p a).2 then 1 else 0) ∧
      u.trail = s.trail ∧ u.mem = s.mem) ∧
    ((s.keyOf a).isSome = true → ∀ d, State.placeExit a = some d → d ≠ k * 8 + 4 →
      u = t.putBeat (State.sourceKey 0 k 4) s.now (mkBeat d
        [{ flow := .request (State.readReq a (.ctl k n g.nextRid) (some sees) (some (State.sourceKey 0 k 4))), addr := a, parcel := {} }]))

/-- The engine issues the read of the next element or parcel of its run, of every mode, source and destination. It first asks for the index
entries and ownership entries that the element needs. It waits while one of these has not come, the run's first read is not yet allowed, a
port holds 16 parcels, an earlier write to a parcel that the element reads has not landed, 64 write parcels are pending, its rate allows no
more in this step, or the last element of a block of the transposition tile would follow a block that is still on its way. Otherwise its
source parcels are fetched (fetchParts), the element joins those on their way, or the tile, and the run goes on with the next, or has no
more (R204, R211, R217, R220, R221, R222). It rests in part on choices of the model (log 58, 83, 84). -/
def Claim.ElementReads : Prop :=
  ∀ (s : State) (c : CoreId) (e : BitVec 3) (a : Arm) (r : Run),
    let k := c.toNat
    let n := e.toNat
    let t := State.ctlFetch k n a.at_ (fun look => s.lookNeeds k n r look) 4 s
    let g := t.eng k n
    let x := State.nextOf (t.ctlLook k n) t.ownId r
    let keys := x.srcs.map spotKey
    let waits := x.lack ≠ [] ∨ t.now < r.readyAt ∨ (r.port.isSome = true ∧ 16 ≤ g.portOut.length) ∨ State.readWaits g keys = true ∨
      State.rateAllows r keys.head? t.now = false ∨ (r.tiled = true ∧ x.ends = true ∧ (g.flight.any fun f => f.entry = r.no) = true)
    let got := t.fetchParts k n a.at_ r.lastRd x.srcs
    let f : Flight :=
      { entry := r.no, srcs := got.2, lo := x.srcs.head?.elim 0 (·.lo), srcNibs := x.srcNibs, mark := x.mark, dst := x.dst,
        dstNibs := x.dstNibs, add := r.add, etype := x.etype, last := decide (r.idx + 1 = r.total), col := x.col }
    let used := (if r.slotAt = t.now then r.used else 0) + State.rateCost r keys.head? t.now
    let next : Run := { r with
      idx := r.idx + 1, slotAt := t.now, used := if x.clamped && r.mode = .run then 128 else used, lastRd := keys.getLast?,
      sown := x.sown, down := x.down }
    let old := ((State.Flight.writes f).filter fun y => y / 2 ^ 42 = t.ownId && !t.inListRange (y % 2 ^ 42)).map (· % 2 ^ 42)
    let u := got.1.ctlDrop k n (x.table ++ old)
    (s.eng k n).active = some a →
    (a.run = some r → waits → exec (.streamElementRead c e) s = .next t) ∧
    (a.run = some r → ¬waits → exec (.streamElementRead c e) s = .next (u.setEng k n { (u.eng k n).addFlight r.tiled x.ends f with
      active := some { a with run := if r.idx + 1 = r.total then none else some next } })) ∧
    (a.run = none → exec (.streamElementRead c e) s = .next s)

/-- The read of one source parcel. One in the engine's own core is there at once, verified, as its own earlier writes have made it; a poisoned
one shows in LAST. One outside this module's decoded space, or that an ownership table leaves undecoded, is poison, and counts once for a
parcel. One that the engine already waits for is not asked for again. Any other is asked for over the Trail, in this module or another
(R41, R208, R211, R244, R253, R334). -/
def Claim.SourceParcelsAreFetched : Prop :=
  ∀ (s : State) (k n sees : Nat) (p : Spot) (fresh : Bool) (q : Parcel),
    let g := s.eng k n
    let part : Part := { module := p.module, addr := p.addr, rid := g.nextRid, asked := s.now, got := none }
    let near := p.module = s.ownId ∧ State.placeExit p.addr = some (k * 8 + 4)
    let r := s.fetchPart k n sees p fresh
    let waited := ((g.flight ++ g.tile).flatMap (·.srcs)).find? fun x => x.got.isNone && x.module = p.module && x.addr = p.addr
    let asks := s.setEng k n { g with nextRid := g.nextRid + 1 }
    (p.undec = true ∨ (p.module = s.ownId ∧ s.keyOf p.addr = none) →
      r = (if fresh then s.engUndec k n else s, { part with got := some (poisonedParcel p.addr) })) ∧
    (p.undec = false → near → s.parcelFor (some sees) p.addr (.engine k n 0) = some q →
      r.2 = { part with got := some (consume q p.addr).1 } ∧
      (r.1.eng k n).last = (if (consume q p.addr).1.poison then 5 else g.last) ∧ r.1.trail = s.trail ∧ r.1.mem = s.mem) ∧
    (p.undec = false → ¬near → (p.module = s.ownId → (s.keyOf p.addr).isSome = true) →
      (∀ x, waited = some x → r = (s, x)) ∧
      (waited = none → p.module = s.ownId → r = (asks.askFor k p.addr (.engine k n g.nextRid) (some sees), part)) ∧
      (waited = none → p.module ≠ s.ownId → r = (asks.askAway k n p.module p.addr, part)))

/-- The engine's oldest element lands once its value has come: in memory, merged by nibbles (landMem), or at a port, packed (landPort). It
stalls while a list hold that it writes has no room. While its value has not come, and before the first element of another entry, a parcel
for another module that has been covered in part is merged and sent (flushRemote). An element of ADD asks for the destination that it has
still to read, and stays (R213 to R218, R227, R233). -/
def Claim.ElementWrites : Prop :=
  ∀ (s : State) (c : CoreId) (e : BitVec 3) (f : Flight) (rest : List Flight) (v : Nat × Bool × BitVec 3),
    let k := c.toNat
    let n := e.toNat
    let g := s.eng k n
    let dirty := g.cov.any fun x => x.2.dirty
    let g' := if f.entry = g.covEntry then { g with flight := rest } else { g with flight := rest, covEntry := f.entry, cov := [] }
    let t := s.setEng k n g'
    (g.flight = [] → exec (.streamElementWrite c e) s = .next (s.flushRemote k n)) ∧
    (g.flight = f :: rest → State.Flight.value f = none → exec (.streamElementWrite c e) s = .next (s.flushRemote k n)) ∧
    (g.flight = f :: rest → State.Flight.value f = some v → f.entry ≠ g.covEntry → dirty = true →
      exec (.streamElementWrite c e) s = .next (s.flushRemote k n)) ∧
    (g.flight = f :: rest → State.Flight.value f = some v → (f.entry = g.covEntry ∨ dirty = false) →
      (s.landStalls f = true → exec (.streamElementWrite c e) s = .next s) ∧
      (∀ p, s.landStalls f = false → f.dst = .port p →
        exec (.streamElementWrite c e) s = .next (t.landPort k n f p v.1 v.2.1)) ∧
      (∀ ps u, s.landStalls f = false → f.dst = .mem ps → t.landMem k n f ps v.1 v.2.1 v.2.2 = some u →
        exec (.streamElementWrite c e) s = .next u) ∧
      (∀ ps, s.landStalls f = false → f.dst = .mem ps → t.landMem k n f ps v.1 v.2.1 v.2.2 = none →
        exec (.streamElementWrite c e) s = .next (ps.foldl (fun s x => if (s.currentOf k n x).isNone then s.askOld k n x else s)
          (t.setEng k n { g' with flight := f :: rest }))))

/-- A whole parcel for a place of the engine's own core store, outside instruction regions and list ranges, lands there as the oldest
element: that parcel alone of memory changes, and no core. One for a place of another core, or of a shared slice, goes there over the Trail
as one write request of all its nibbles, and memory is as before (R216 to R218, R251). -/
def Claim.WholeParcelsLand : Prop :=
  ∀ (s : State) (c : CoreId) (e : BitVec 3) (f : Flight) (rest : List Flight) (p : Parcel) (off a : Nat),
    let k := c.toNat
    let n := e.toNat
    let g := s.eng k n
    let own := coreAddr k off
    g.flight = f :: rest → f.srcs.map (·.got) = [some p] → f.lo = 0 → f.srcNibs = 64 → f.dstNibs = 64 → f.mark = false → f.add = false →
    p.poison = false → f.entry = g.covEntry → g.cov = [] →
    (f.dst = .mem [{ undec := false, module := s.ownId, addr := own, lo := 0, n := 64 }] → 0x8000 ≤ off → off < 0x40000 →
      off % 32 = 0 → s.inListRange own = false →
      ∃ t, exec (.streamElementWrite c e) s = .next t ∧ (t.eng k n).flight = rest ∧
        (∀ i < 32, t.mem.byte (own + i) = p.data.extractLsb' (8 * i) 8) ∧
        (∀ x, x < own ∨ own + 32 ≤ x → t.mem.byte x = s.mem.byte x) ∧ t.cores.seq = s.cores.seq) ∧
    (f.dst = .mem [{ undec := false, module := s.ownId, addr := a, lo := 0, n := 64 }] → s.writable a = true → ∀ d, State.placeExit a = some d →
      d ≠ k * 8 + 4 → s.inListRange a = false → s.srcAt (State.sourceKey 0 k 4) = [] →
      ∃ t q, exec (.streamElementWrite c e) s = .next t ∧ (t.eng k n).flight = rest ∧ t.mem = s.mem ∧
        t.srcAt (State.sourceKey 0 k 4) = [q] ∧ q.avail = s.now ∧ q.beat.dst = d ∧ q.beat.kind = 0 ∧ q.beat.vmask = 1 ∧
        q.beat.ps.map (·.data) = [p.data] ∧ (t.eng k n).sent = g.sent ++ [(s.now, globalKey s.ownId a, g.nextRid)])

/-- The oldest read of an engine, of an element, of a merge or of what it looks up, that has not returned 1,048,576 steps after it was issued
yields a poisoned parcel for all that wait for it, and a write that has not landed by then counts as landed; either counts one poisoned
error and shows STRM_TIMEOUT. With none overdue nothing changes (R245). Where a row's conditions do not hold the state is unchanged, which
is the model's choice (log 2). It rests in part on choices of the model (log 58). -/
def Claim.StreamTimeouts : Prop :=
  ∀ (s : State) (c : CoreId) (e : BitVec 3) (rid a : Nat) (others : List (Requester × Nat)) (x : Nat × Nat × Nat),
    let k := c.toNat
    let n := e.toNat
    let g := s.eng k n
    let p := poisonedParcel a
    let fill := fun (f : Flight) =>
      { f with srcs := f.srcs.map fun x => if x.got.isNone && x.rid = rid then { x with got := some p } else x }
    (s.overdue k n = (.engine k n rid, a) :: others → exec (.streamReadTimeout c e) s =
      .next ((s.setEng k n { g with flight := g.flight.map fill, tile := g.tile.map fill, last := 4 }).countPoison k 1)) ∧
    (s.overdue k n = (.merge k n rid, a) :: others → exec (.streamReadTimeout c e) s =
      .next ((s.setEng k n { g with
        cov := g.cov.map fun x => if x.2.old.isNone && x.2.asked.any (fun y => y.1 = rid) then (x.1, { x.2 with old := some p }) else x,
        last := 4 }).countPoison k 1)) ∧
    (s.overdue k n = (.ctl k n rid, a) :: others → exec (.streamReadTimeout c e) s =
      .next ((s.setEng k n { g with
        ctl := g.ctl.map fun x => (x.1, x.2.map fun y => if y.rid = rid && y.got.isNone then { y with got := some p } else y),
        last := 4 }).countPoison k 1)) ∧
    (s.overdue k n = [] → exec (.streamReadTimeout c e) s = .next s) ∧
    (∀ f ∈ g.flight, ∀ y ∈ f.srcs, y.got = none → y.asked + 1048576 ≤ s.now → s.overdue k n ≠ []) ∧
    (g.sent.find? (fun y => decide (y.1 + 1048576 ≤ s.now)) = some x →
      exec (.streamWriteTimeout c e) s = .next ((s.setEng k n { g with sent := g.sent.erase x, last := 4 }).countPoison k 1)) ∧
    ((∀ y ∈ g.sent, s.now < y.1 + 1048576) → exec (.streamWriteTimeout c e) s = .next s)

/-- A port takes the engine's next parcel, verified: the RESID port while a DRAIN of the core reads this engine, the weight input while a
gather runs; the engine waits otherwise. A port number that names no port drops the parcel as undecoded. A parcel that arrives poisoned, or
does not verify, counts in the engine's poisoned elements (R41, R156, R191, R208, R233). Where a row's conditions do not hold the state is
unchanged, which is the model's choice (log 2). It rests in part on choices of the model (log 58). -/
def Claim.PortsTakeParcels : Prop :=
  ∀ (s : State) (c : CoreId) (e : BitVec 3) (port : Nat) (p : Parcel) (rest : List (Nat × Parcel)),
    let k := c.toNat
    let n := e.toNat
    let g := s.eng k n
    let d := s.drn k
    let v := s.vec k
    let q := (consume p 0).1
    let u := if (consume p 0).2 then s.countPoison k 1 else s
    let taken := u.setEng k n { g with portOut := rest, poisoned := if q.poison then g.poisoned + 1 else g.poisoned }
    let reads := d.q.any fun x => x.cfg.on 3 && x.cfg.residEng = e
    let gathers := v.q.any fun x => x.kind = .mvsGather
    (g.portOut = [] → exec (.portDelivery c e) s = .next s) ∧
    (g.portOut = (port, p) :: rest →
      (port = 0xFFFE → reads = true → exec (.portDelivery c e) s = .next (taken.setDrn k
        { d with resid := Sparse.set [] d.resid n (Sparse.get [] d.resid n ++ [q]) })) ∧
      (port = 0xFFFE → reads = false → exec (.portDelivery c e) s = .next s) ∧
      (port = 0xFFFD → gathers = true → exec (.portDelivery c e) s = .next (taken.setVec k { v with wport := v.wport ++ [q] })) ∧
      (port = 0xFFFD → gathers = false → exec (.portDelivery c e) s = .next s) ∧
      (port ≠ 0xFFFE → port ≠ 0xFFFD →
        exec (.portDelivery c e) s = .next ((s.setEng k n { g with portOut := rest, undec := g.undec + 1, last := 3 }).countPoison k 1)))

/-- The oldest held write that no arm accepted before it may still read is applied: in a core store to memory, that parcel alone, in
LPDDR6 through its slice, as a write of the one who made it. With none such nothing changes (R227). Where a row's conditions do not hold the state
is unchanged, which is the model's choice (log 2). -/
def Claim.ListHoldApplies : Prop :=
  ∀ (s : State) (h : Held) (key : Nat),
    let u := { s with holdq := s.holdq.erase h }
    let next := s.holdq.find? fun h => !(s.cores.eng.any fun x => s.mayRead h x.2)
    (next = some h → s.keyOf h.addr = some key →
      (isSliced h.addr = false → exec .listHoldApply s =
        .next ((u.setMem (s.mem.setParcel key h.addr h.parcel)).markAcc h.addr h.parcel.poison)) ∧
      (isSliced h.addr = true → exec .listHoldApply s = .next (u.sliceReq
        { wr := true, addr := h.addr, mask := fullMask, data := h.parcel.data.toNat, poison := h.parcel.poison,
          cclass := h.parcel.cclass, check := some h.parcel.check, who := h.who, ord := u.offTrail }))) ∧
    (next = some h → s.keyOf h.addr = none → exec .listHoldApply s = .next u) ∧
    ((∀ h ∈ s.holdq, ∃ x ∈ s.cores.eng, s.mayRead h x.2 = true) → exec .listHoldApply s = .next s)

/-! ## Memory channels and slices -/

/-- At the first step of a window of 4,096 steps every class has its budget again, computed from the STEP_TARGET and the split of then, and
no request moves; within the window nothing changes. A channel grants the first waiting request that its class's budget has room for and
that no earlier one for the same place bars, and takes its parcels off the budget; with none such, or before the window is set up, the
state is unchanged (R235 to R237). Where a row's conditions do not hold the state is unchanged, which is the model's choice (log 2). -/
def Claim.RegulatorWindowsAndGrants : Prop :=
  ∀ (s : State) (ch : Byte) (m : MReq) (i : Nat),
    let n := ch.toNat
    let c := s.chan n
    let total := 4096 * 1312500 / max 1 s.pace.target
    let room := fun (x : MReq) => c.used.getD x.cls 0 + x.n ≤ s.mm.budget.getD x.cls 0
    let barred := fun (j : Nat) (x : MReq) => ∃ l < j, ∃ y, c.wait[l]? = some y ∧ y.meets x = true
    (s.mm.winStart ≠ s.now / 4096 * 4096 → ∃ t, exec .regulatorWindow s = .next t ∧
      t.mm.total = total ∧
      t.mm.budget = [total * (s.split % 16) / 16, total * (s.split / 16 % 16) / 16, total * (s.split / 256 % 16) / 16] ∧
      t.mm.winStart = s.now / 4096 * 4096 ∧ (∀ k, (t.chan k).used = [0, 0, 0] ∨ t.chan k = Chan.reset) ∧
      (∀ k, (t.chan k).wait = (s.chan k).wait) ∧ (∀ k, (t.chan k).granted = (s.chan k).granted) ∧ t = { s with mm := t.mm }) ∧
    (s.mm.winStart = s.now / 4096 * 4096 → exec .regulatorWindow s = .next s) ∧
    (s.mm.winStart = s.now / 4096 * 4096 → c.wait[i]? = some m → room m → ¬barred i m →
      (∀ j < i, ∀ y, c.wait[j]? = some y → ¬room y ∨ barred j y) →
      exec (.regulatorGrant ch) s = .next (s.setChan n { c with
        wait := c.wait.eraseIdx i, granted := c.granted ++ [m], used := c.used.set m.cls (c.used.getD m.cls 0 + m.n) })) ∧
    (s.mm.winStart = s.now / 4096 * 4096 → (∀ j y, c.wait[j]? = some y → ¬room y ∨ barred j y) →
      exec (.regulatorGrant ch) s = .next s) ∧
    (s.mm.winStart ≠ s.now / 4096 * 4096 → exec (.regulatorGrant ch) s = .next s)

/-- A slice step takes every write of its queue before any read, each kind in the order of the queue, and what it does not take goes back
to where it came from. One request: without a decoded place it is dropped; of scratch memory it is done at once; with no cache ways it goes
on to its channel; at a line in the cache a write changes that line and marks it dirty, with memory unchanged, and a read is answered 10
steps on; for a line that is already missed it waits; a write of a line of which this step writes every parcel needs no read; any other
miss asks the channel for the line, once, and counts; with the miss queue full a request is not taken (R274 to R277). It rests in part on
choices of the model (log 59). -/
def Claim.SlicesServe : Prop :=
  ∀ (s : State) (k : Byte) (r : SReq) (wholes : List Nat) (w key : Nat),
    let n := k.toNat
    let sl := s.sliceAt n
    let line := r.addr / 256
    let x := Sparse.get Line.invalid sl.lines w
    let i := r.addr / 32 % 8
    let q := sl.inq
    let go := fun (x : State × List SReq) r =>
      let y := x.1.sliceOne n (State.wholeLines q) r
      (y.1, if y.2 then x.2 else r :: x.2)
    let ws := (q.filter (·.wr)).foldl go (s.setSlice n { sl with inq := [] }, [])
    let rs := (q.filter fun r => !r.wr).foldl go ws
    let one := s.sliceOne n wholes r
    let miss := isLpddr r.addr = true ∧ s.cacheWays ≠ 0 ∧ sl.find s.cacheWays line = none ∧ line ∉ sl.missq
    let old := s.mem.parcel key r.addr
    let dirty : Line := { x with used := sl.clock + 1, dirty := true, ps := x.ps.set i (r.apply (x.ps.getD i {})) }
    let used : Line := { x with used := sl.clock + 1 }
    exec (.sliceStep k) s = .next (rs.2.foldl (fun s y => s.notTaken n y) rs.1) ∧
    (s.keyOf r.addr = none → one = (s.wrote r.who, true)) ∧
    (s.keyOf r.addr = some key →
      (isLpddr r.addr = false → r.wr = true →
        one = ((s.setMem (s.mem.setParcel key r.addr (r.apply old))).wroteAt r old, true)) ∧
      (isLpddr r.addr = false → r.wr = false → one = (s.answer (sliceRouter n) 5 (s.now + 10) r old, true)) ∧
      (isLpddr r.addr = true → s.cacheWays = 0 → r.wr = false → one = (s.chanReq
        { cls := r.who.cls false, wr := false, addr := r.addr, n := 1, ch := s.chanOf r.addr, slice := n, req := some r, ps := [] }, true)) ∧
      (isLpddr r.addr = true → s.cacheWays = 0 → r.wr = true → one = ((s.chanReq
        { cls := r.who.cls true, wr := true, addr := r.addr, n := 1, ch := s.chanOf r.addr, slice := n, req := some r, ps := [] }).wrote
          r.who, true)) ∧
      (isLpddr r.addr = true → s.cacheWays ≠ 0 → sl.find s.cacheWays line = some w →
        (r.wr = true → one = ((s.setSlice n { sl with
          clock := sl.clock + 1, lines := Sparse.set Line.invalid sl.lines w dirty }).wroteAt r (x.ps.getD i {}), true)) ∧
        (r.wr = false → one = ((s.setSlice n { sl with
          clock := sl.clock + 1, lines := Sparse.set Line.invalid sl.lines w used }).answer (sliceRouter n) 5 (s.now + 10) r
            (x.ps.getD i {}), true))) ∧
      (isLpddr r.addr = true → s.cacheWays ≠ 0 → sl.find s.cacheWays line = none → line ∈ sl.missq →
        one = (s.setSlice n { sl with waiting := sl.waiting ++ [r] }, true)) ∧
      (miss → (r.wr = true → line ∉ wholes) → sl.missq.length < 64 →
        one = (({ s.setSlice n { sl with missq := sl.missq ++ [line], waiting := sl.waiting ++ [r] } with
          sliceMiss := s.sliceMiss + 1 }).chanLine n line (r.who.cls false) false [], true)) ∧
      (miss → (r.wr = true → line ∉ wholes) → 64 ≤ sl.missq.length → one = (s, false)) ∧
      (miss → r.wr = true → line ∈ wholes →
        let u := ({ s with sliceMiss := s.sliceMiss + 1 }).allocLine n line (List.replicate 8 {})
        (u.sliceAt n).find s.cacheWays line = some w → one = (u.serveLine n w (s.now + 10) r, true)))

/-- A missed line that has come from its channel, both its halves, goes into a way of its set, and is no longer missed; each request that
waited for it is served at it, in order, with the answers from this step on; memory is unchanged. A parcel that was asked for with no cache
ways is answered to the one who asked. With neither nothing changes (R274, R275, R277). -/
def Claim.LinesFill : Prop :=
  ∀ (s : State) (k : Byte) (m lo hi : MReq) (r : SReq),
    let n := k.toNat
    let sl := s.sliceAt n
    let line := lo.addr / 256
    let other := fun (m : MReq) => sl.filled.find? fun x => x.addr = m.addr + 128
    let one := sl.filled.find? fun m => m.req.isSome
    let whole := sl.filled.find? fun m => m.addr % 256 = 0 && (other m).isSome
    let u := (s.setSlice n { sl with filled := (sl.filled.erase lo).erase hi }).allocLine n line (lo.ps ++ hi.ps)
    let v := u.setSlice n { u.sliceAt n with
      missq := (u.sliceAt n).missq.filter (· ≠ line), waiting := (u.sliceAt n).waiting.filter fun r => r.addr >>> 8 ≠ line }
    (one = some m → m.req = some r → exec (.sliceLineFill k) s =
      .next ((s.setSlice n { sl with filled := sl.filled.erase m }).answer (sliceRouter n) 5 s.now r (m.ps.getD 0 {}))) ∧
    (one = none → whole = some lo → other lo = some hi → exec (.sliceLineFill k) s =
      .next (((u.sliceAt n).waiting.filter fun r => r.addr >>> 8 = line).foldl (fun s r =>
        match (s.sliceAt n).find s.cacheWays line with
        | some w => s.serveLine n w s.now r
        | none => s) v)) ∧
    (one = none → whole = some lo → other lo = some hi → 0 < s.cacheWays → lo.ps ++ hi.ps ≠ [] →
      (∀ w < s.cacheWays, Sparse.get Line.invalid sl.lines (homeSet line * 16 + w) = Line.invalid) → sl.waiting = [] →
      ∃ t, exec (.sliceLineFill k) s = .next t ∧ t.mem = s.mem ∧ (t.sliceAt n).find s.cacheWays line = some (homeSet line * 16) ∧
        (Sparse.get Line.invalid (t.sliceAt n).lines (homeSet line * 16)).ps = lo.ps ++ hi.ps ∧ line ∉ (t.sliceAt n).missq) ∧
    (one = none → whole = none → exec (.sliceLineFill k) s = .next s)

/-- A channel reads the next parcel of its first granted read whose bank is open. A stored parcel fails where it does not verify or was not
written for this address, then on all four attempts, and otherwise on as many as its way in was damaged. One that passes is delivered, and
counts in MEM_RETRY if an attempt had failed; one that fails on all four is delivered as poison, counts in MEM_UNCORR and as one poisoned
error of its reader, and the sixteenth in a row fails the channel. With its last parcel the request leaves the channel, on its way back to
its slice. With no such read nothing but the collisions of a closed bank changes (R281, R288 to R293). It rests in part on choices of the
model (log 59). -/
def Claim.ChannelReads : Prop :=
  ∀ (s : State) (ch : Byte) (bad : Nat) (m : MReq),
    let n := ch.toNat
    let t := s.collide n
    let c := t.chan n
    let a := m.nextAddr
    let key := (t.keyOf a).getD 0
    let fails := if t.burstOk key a then bad else 4
    let p := if fails < 4 then t.mem.parcel key a else poisonedParcel a
    let run := if fails < 4 then 0 else c.badRun + 1
    let read : MReq := { m with ps := m.ps ++ [p], hit := false }
    let done := m.ps.length + 1 = m.n
    let u := t.setChan n { c with
      badRun := run, granted := if done then c.granted.erase m else c.granted.map fun x => if x = m then read else x }
    let v := { u with mm := { u.mm with
      retry := t.mm.retry + (if 0 < fails ∧ fails < 4 then 1 else 0), uncorr := t.mm.uncorr + (if fails < 4 then 0 else 1) } }
    let w := if fails < 4 then v else (t.readerOf m).elim v.countEdgePoison fun r => v.countPoison r 1
    let back := w.putPkt (planeKey (chanPlane n) (chanRouter n) 6) t.now { flow := .fromChan read, addr := read.addr, parcel := {} }
    let z := if done then back else w
    (t.firstGranted c false [] c.granted = some m →
      (run < 16 → exec (.lpddr6Read ch bad) s = .next z) ∧
      (16 ≤ run → exec (.lpddr6Read ch bad) s = .next (z.failChannel n) ∧ (z.failChannel n).mm.failMap.getLsbD n = true ∧
        AlertSrc.moduleFatal ∈ (z.failChannel n).rng.alerts)) ∧
    (t.firstGranted c false [] c.granted = none → exec (.lpddr6Read ch bad) s = .next t)

/-- A channel writes the next parcel of its first granted write whose bank is open: that parcel alone of memory changes, and it is stored
with its checks as they were made, damaged where it was damaged on its way in. With its last parcel the request leaves the channel. A
refresh of a live channel closes its next bank to requests for 140 ns, takes the band from the die's report at bank 0, and keeps the
contents; a channel that is not live is not refreshed; a reserved band is no report (R281, R282, R290, R292 to R294). It rests in part on
choices of the model (log 59). -/
def Claim.ChannelWritesAndRefreshes : Prop :=
  ∀ (s : State) (ch : Byte) (m : MReq) (key : Nat) (band : BitVec 2) (flip : BitVec 288),
    let n := ch.toNat
    let c := s.chan n
    let cc := (s.collide n).chan n
    let old := s.mem.parcel key m.addr
    let p := match m.req with | some r => r.apply old | none => m.ps.getD 0 {}
    let rest := { m with addr := m.addr + 32, n := m.n - 1, ps := m.ps.drop 1, hit := false }
    ((s.collide n).firstGranted cc true [] cc.granted = some m → s.keyOf m.addr = some key → ∃ t,
      exec (.lpddr6Write ⟨ch, flip⟩) s = .next t ∧ t.mem = (s.chanStore key m.addr p flip).mem ∧
      (∀ x, x < key ∨ key + 32 ≤ x → t.mem.byte x = s.mem.byte x) ∧
      (flip = 0 → ∀ i < 32, t.mem.byte (key + i) = (if p.poison then 0 else p.data).extractLsb' (8 * i) 8) ∧
      (t.chan n).granted = (if m.n ≤ 1 then cc.granted.erase m else cc.granted.map fun x => if x = m then rest else x)) ∧
    ((s.collide n).firstGranted cc true [] cc.granted = none → exec (.lpddr6Write ⟨ch, flip⟩) s = .next (s.collide n)) ∧
    (band ≠ 3 → s.chanLive n = true → ∃ t, exec (.refresh ch band) s = .next t ∧ (t.chan n).bank = (c.bank + 1) % 16 ∧
      (t.chan n).closed = c.bank ∧ (t.chan n).openAt = s.now + (140 * s.rate + 999999) / 1000000 ∧
      (t.chan n).band = (if c.bank = 0 then band else c.band) ∧ t.mm.bandMax = max s.mm.bandMax (t.chan n).band.toNat ∧
      t.mem = s.mem ∧ (t.chan n).granted.map (fun m => { m with hit := false }) = c.granted.map (fun m => { m with hit := false })) ∧
    (band ≠ 3 → s.chanLive n = false → exec (.refresh ch band) s = .next s) ∧
    (band = 3 → exec (.refresh ch band) s = .fault .illFormed)

/-- The patrol scrub reads the next line of a live channel of an idle module, its eight parcels, and rewrites nothing: a parcel that does not
pass its checks counts in MEM_UNCORR, and the sixteenth failing read in a row fails the channel; in a running module, or on a channel that
is not live, it reads nothing. A channel trains once its PHY is on, 400 ms after PWR_GOOD: from its seeds it keeps its contents, from
default seeds it loses them with WIMG_HASH and WIMG_STATE, and one that fails both is failed and the module degraded; before, or once it has
trained or failed, nothing changes. A channel that loses synchronisation is failed (R291, R294, R295, R462, R466, R475). It rests in part on
choices of the model (log 21). -/
def Claim.ScrubAndTraining : Prop :=
  ∀ (s : State) (ch : Byte) (bad : Nat) (a b : Bool),
    let n := ch.toNat
    let c := s.chan n
    let ok := fun (i : Nat) => s.burstOk (chanKey n c.scrub i) (chanLocal s.mm.map n (c.scrub * 256) + 32 * i)
    let ready := s.pwr.phase = .good ∧ c.trained = false ∧ c.failed = false ∧ s.pwr.domains.getD (38 + n / 64) 0 = 2 ∧
      s.pwr.goodAt + 400 ≤ s.nowMs
    (s.pack.state ≠ .running → s.chanLive n = true →
      ((∀ i < 8, ok i = true) → bad < 4 → exec (.patrolScrub ch bad) s = .next
        (let u := s.setChan n { c with scrub := (c.scrub + 1) % 0x800000, badRun := 0 }
         { u with mm := { u.mm with retry := s.mm.retry + (if 0 < bad then 1 else 0) } })) ∧
      (c.badRun < 8 → ∃ t, exec (.patrolScrub ch bad) s = .next t ∧ t.mem = s.mem ∧
        t.mm.uncorr = s.mm.uncorr + ((List.range 8).filter fun i => !ok i || (decide (i = 0) && decide (4 ≤ bad))).length) ∧
      (15 ≤ c.badRun → ok 0 = false → ∃ t, exec (.patrolScrub ch bad) s = .next t ∧ t.mm.failMap.getLsbD n = true ∧
        AlertSrc.moduleFatal ∈ t.rng.alerts)) ∧
    ((s.pack.state = .running ∨ s.chanLive n = false) → exec (.patrolScrub ch bad) s = .next s) ∧
    (ready →
      (exec (.lpddr6Training ch true b) s = .next (s.setChan n { c with trained := true, seeds := s.free }).draw) ∧
      (∃ t, exec (.lpddr6Training ch false true) s = .next t ∧ (t.chan n).trained = true ∧ t.wimg.hash = 0 ∧ t.wimg.state = 0 ∧
        (∀ x, n * 0x80000000 ≤ x → x < (n + 1) * 0x80000000 → t.mem.byte x = 0) ∧
        (∀ x, x < n * 0x80000000 ∨ (n + 1) * 0x80000000 ≤ x → t.mem.byte x = s.mem.byte x)) ∧
      (∃ t, exec (.lpddr6Training ch false false) s = .next t ∧ t.mm.failMap.getLsbD n = true ∧ (t.chan n).failed = true ∧
        t.rng.degraded = true ∧ AlertSrc.degraded ∈ t.rng.alerts)) ∧
    (¬ready → exec (.lpddr6Training ch a b) s = .next s) ∧
    (s.pwr.phase = .good → ∃ t, exec (.channelSyncLoss ch) s = .next t ∧ t.mm.failMap.getLsbD n = true ∧
      AlertSrc.moduleFatal ∈ t.rng.alerts) ∧
    (s.pwr.phase ≠ .good → exec (.channelSyncLoss ch) s = .next s)

/-! ## Networks -/

/-- In a Daypack step an output forwards one parcel, from the first input of the fixed order whose oldest parcel wants it and has room: over
the mesh to the next router's input, or out of the network at its device (dpkArrive); with none such, in another step, or once it has done
its work in this step, it moves none (R250, R256, R260). Where a row's conditions do not hold the state is unchanged, which is the model's
choice (log 2). It rests in part on choices of the model (log 29). -/
def Claim.DaypackParcelsMove : Prop :=
  ∀ (s : State) (plane : BitVec 2) (router : CoreId) (out : BitVec 3) (i : Nat) (q : DpkParcel) (rest : List DpkParcel),
    let p := plane.toNat
    let r := router.toNat
    let o := out.toNat
    let h := hop r o
    let goes := fun (j : Nat) => ∃ x y, s.dpkAt p r j = x :: y ∧ x.avail ≤ s.now ∧ s.dpkWants r x = some o ∧ s.dpkRoom p r o x = true
    let u := ({ s with trail := { s.trail with
      dpk := Sparse.set [] s.trail.dpk (planeKey p r i) rest,
      dpkHoldMax := max s.trail.dpkHoldMax ((s.now - q.avail) / 16) } }).markOut p r o
    (out = 7 → exec (.daypackStep plane router out) s = .fault .illFormed) ∧
    (out ≠ 7 → (s.now % 16 ≠ 15 ∨ hasOutput p r o = false ∨ s.outDone p r o = true ∨ ∀ j ∈ [4, 3, 1, 0, 2, 5, 6], ¬goes j) →
      exec (.daypackStep plane router out) s = .next s) ∧
    (out ≠ 7 → s.now % 16 = 15 → hasOutput p r o = true → s.outDone p r o = false → i ∈ [4, 3, 1, 0, 2, 5, 6] → goes i →
      (∀ j ∈ [4, 3, 1, 0, 2, 5, 6].takeWhile (· ≠ i), ¬goes j) → s.dpkAt p r i = q :: rest →
      (o < 4 → exec (.daypackStep plane router out) s = .next (u.injectDpk p h.1 h.2.1 { q with avail := s.now + h.2.2 })) ∧
      (4 ≤ o → exec (.daypackStep plane router out) s = .next (u.dpkArrive q r o)))

/-- A Daypack parcel at its device. In its core it is written where it is for, as it is: that parcel alone of memory changes, and its transfer
counts it as landed; one that a transfer no longer waits for is discarded; one for a place that is not decoded is dropped, counts as landed
and counts one poisoned error. At a port it leaves as one flit. A request is served where the parcel lies, and its answer starts back from
there (R208, R238, R239, R245, R325). It rests in part on choices of the model (log 29). -/
def Claim.DaypackParcelsArrive : Prop :=
  ∀ (s : State) (q : DpkParcel) (r off p : Nat) (x : Parcel),
    let a := coreAddr r off
    let t := s.dpkArrive q r 4
    let waits := (s.dpkq q.core).any fun d => d.id = q.id && !d.out
    let landed := fun (d : Dpk) => if d.id = q.id then { d with landed := d.landed + 1 } else d
    (q.ask = false → q.head = none → q.dest = globalKey s.ownId a → r < 2048 → 0x8000 ≤ off → off < 0x40000 → off % 32 = 0 →
      s.inListRange a = false → q.parcel.poison = false →
      (q.into = false ∨ waits = true →
        (∀ i < 32, t.mem.byte (a + i) = q.parcel.data.extractLsb' (8 * i) 8) ∧
        (∀ x, x < a ∨ a + 32 ≤ x → t.mem.byte x = s.mem.byte x) ∧ t.mem.parcel a a = q.parcel) ∧
      (q.into = false → t.dpkq q.core = (s.dpkq q.core).map landed) ∧
      (q.into = true → waits = true → t.dpkq q.core = (s.dpkq q.core).map fun d =>
        if d.id = q.id then { d with landed := d.landed + 1, got := d.got ++ [(q.i, q.parcel)] } else d) ∧
      (q.into = true → waits = false → t = s)) ∧
    (q.ask = false → q.into = false → q.head = none → s.writable (q.dest % 2 ^ 42) = false →
      t = (s.countPoison q.core 1).dpkLanded q.core q.id 1) ∧
    (portAtRouter r = some p → q.ask = false → q.head = none → s.dpkArrive q r 6 = s.portFlit p
      { ftype := 1, vmask := 1, dmod := q.dest / 2 ^ 42, smod := s.ownId, addr := q.dest % 2 ^ 42, core := q.core, dpk := true } [q.parcel]) ∧
    (q.ask = true → q.head = none → s.parcelAt (q.dest % 2 ^ 42) = some x → (q.dest % 2 ^ 42) % 32 = 0 →
      s.heldAt none (q.dest % 2 ^ 42) = none →
      t = s.dpkFetched q.core q.id q.i (q.dest % 2 ^ 42) r 4 s.now x)

/-- A transfer leaves its core's queue once all its parcels have landed, or 1,048,576 steps after its issue; then each missing parcel counts
one poisoned error, and those of a read that has not returned are written as poison. The first bundled transfer that waits for a place takes
it, and a core that waits for its writes in the second barrier arrives there once the last has landed. Before, the queue is as it was (R198,
R239, R245). Where a row's conditions do not hold the state is unchanged, which is the model's choice (log 2). It rests in part on choices
of the model (log 29). -/
def Claim.DaypackTransfersLand : Prop :=
  ∀ (s : State) (c : CoreId) (k : Nat) (d : Dpk) (gaddr loc : Nat) (ps : List Parcel) (late : List (Nat × Nat × List Parcel)),
    let cc := c.toNat
    let missing := (List.range d.len).filter fun i => !d.got.any fun x => x.1 = i
    let counted := s.countPoison cc (d.len - d.landed)
    let poisoned := missing.foldl (fun s i =>
      let a := coreAddr cc ((d.loc + 32 * i) % 0x40000)
      if s.writable a then s.putParcel a (poisonedParcel a) else s) counted
    ((s.dpkq cc)[k]? = none → exec (.daypackLand c k) s = .next s) ∧
    ((s.dpkq cc)[k]? = some d →
      (d.len ≤ d.landed → exec (.daypackLand c k) s = .next ((s.dpkDone cc k).landArrive cc)) ∧
      (d.landed < d.len → d.issued + 1048576 ≤ s.now → d.out = true →
        exec (.daypackLand c k) s = .next ((counted.dpkDone cc k).landArrive cc)) ∧
      (d.landed < d.len → d.issued + 1048576 ≤ s.now → d.out = false →
        exec (.daypackLand c k) s = .next ((poisoned.dpkDone cc k).landArrive cc)) ∧
      (d.landed < d.len → s.now < d.issued + 1048576 → exec (.daypackLand c k) s = .next s)) ∧
    ((s.bnd cc).late = [] → s.dpkDone cc k = s.setDpkq cc ((s.dpkq cc).eraseIdx k)) ∧
    ((s.bnd cc).late = (gaddr, loc, ps) :: late → (s.dpkq cc)[k]? ≠ none → (s.dpkq cc).length ≤ 32 →
      s.dpkDone cc k = ((s.setDpkq cc ((s.dpkq cc).eraseIdx k)).setBnd cc { s.bnd cc with late := late }).dpkStart cc
        ((s.setDpkq cc ((s.dpkq cc).eraseIdx k)).outDpk gaddr loc ps)) ∧
    ((∀ ch rd, (s.seq cc).wait ≠ .landed ch rd) → s.landArrive cc = s)

/-- A router output runs its entry of the step under the tables in force: FWD takes the beat that its input gives and sends it on; COMB takes
the beats of its two inputs and sends the joined one, a refused join as the first in poison, counted, and one that comes alone as it is;
IDLE sends nothing. First the beats whose step has passed are gone from the inputs. In a Daypack step, at an output that the router has not,
or once it has run in this step, no entry runs. The tables of the next phase start at every router at the step set for them, and not before
(R251 to R258, R261, R263, R264). It rests in part on choices of the model (log 11). -/
def Claim.TrailSlotsRun : Prop :=
  ∀ (s : State) (plane : BitVec 2) (router : CoreId) (out : BitVec 3) (u : Nat),
    let p := plane.toNat
    let r := router.toNat
    let o := out.toNat
    let t := s.dropStale p r
    let e := t.slotEntryAt t.now p r o
    let v := (t.markOut p r o).uniformStep p r o
    let x := v.takeInput p r (e / 2 ^ 11 % 8)
    let y := x.1.takeInput p r (e / 2 ^ 8 % 8)
    let runs := out ≠ 7 ∧ t.now % 16 ≠ 15 ∧ hasOutput p r o = true ∧ t.outDone p r o = false
    (out = 7 → exec (.trailSlot plane router out) s = .fault .illFormed) ∧
    (out ≠ 7 → ¬runs → exec (.trailSlot plane router out) s = .next t) ∧
    (runs → e / 2 ^ 14 % 4 = 1 →
      (∀ b, x.2 = some b → exec (.trailSlot plane router out) s = .next (x.1.beatOut p r o b)) ∧
      (x.2 = none → exec (.trailSlot plane router out) s = .next x.1)) ∧
    (runs → e / 2 ^ 14 % 4 = 2 →
      (∀ a b j, x.2 = some a → y.2 = some b → joinBeats a b = some j →
        exec (.trailSlot plane router out) s = .next (y.1.beatOut p r o j)) ∧
      (∀ a b, x.2 = some a → y.2 = some b → joinBeats a b = none → exec (.trailSlot plane router out) s =
        .next (({ y.1 with trail := { y.1.trail with comb := y.1.trail.comb + 1 } }).beatOut p r o (refusedJoin a))) ∧
      (∀ a, x.2 = some a → y.2 = none → exec (.trailSlot plane router out) s = .next (y.1.beatOut p r o a)) ∧
      (∀ b, x.2 = none → y.2 = some b → exec (.trailSlot plane router out) s = .next (y.1.beatOut p r o b)) ∧
      (x.2 = none → y.2 = none → exec (.trailSlot plane router out) s = .next y.1)) ∧
    (runs → e / 2 ^ 14 % 4 ≠ 1 → e / 2 ^ 14 % 4 ≠ 2 → exec (.trailSlot plane router out) s = .next v) ∧
    (s.trail.holdUntil = some u → u ≤ s.now → exec .phaseTablesStart s = .next { s with trail := { s.trail with
      curSet := s.trail.nextSet, phaseBase := u, holdUntil := none, missed := [] } }) ∧
    (s.trail.holdUntil = some u → s.now < u → exec .phaseTablesStart s = .next s) ∧
    (s.trail.holdUntil = none → exec .phaseTablesStart s = .next s)

/-- On the mesh: FWD sends the beat that is at its mesh input in this step to the next router, which it reaches the hop's steps later; COMB
joins the beats of two mesh inputs; and nothing but the Trail changes (R251, R252, R263, R264). It rests in part on choices of the model (log
11). -/
def Claim.BeatsCrossTheMesh : Prop :=
  ∀ (s : State) (plane : BitVec 2) (router : CoreId) (out : BitVec 3) (a b : QBeat) (i j : Nat),
    let p := plane.toNat
    let r := router.toNat
    let o := out.toNat
    let e := s.slotEntryAt s.now p r o
    let h := hop r o
    let at_ := fun (x : Nat) => Sparse.get [] s.trail.beats (planeKey p r x)
    let input := fun (t : State) => Sparse.get [] t.trail.beats (planeKey p h.1 h.2.1)
    s.now % 16 ≠ 15 → hasOutput p r o = true → s.outDone p r o = false → o < 4 → a.avail = s.now → b.avail = s.now →
    (∀ x < 4, ∀ y ∈ at_ x, s.now ≤ y.avail) → i < 4 → j < 4 → i ≠ j →
    (∀ rest, e / 2 ^ 14 = 1 → e / 2 ^ 11 % 8 = i → at_ i = a :: rest → ∃ t, exec (.trailSlot plane router out) s = .next t ∧
      input t = input s ++ [{ avail := s.now + h.2.2, taken := false, beat := a.beat }] ∧ t = { s with trail := t.trail } ∧
      t.trail.drop = s.trail.drop) ∧
    (∀ ra rb, e / 2 ^ 14 = 2 → e / 2 ^ 11 % 8 = i → e / 2 ^ 8 % 8 = j → at_ i = a :: ra → at_ j = b :: rb → ∃ t,
      exec (.trailSlot plane router out) s = .next t ∧ t = { s with trail := t.trail } ∧
      (∀ x, joinBeats a.beat b.beat = some x →
        input t = input s ++ [{ avail := s.now + h.2.2, taken := false, beat := x }] ∧ t.trail.comb = s.trail.comb) ∧
      (joinBeats a.beat b.beat = none →
        input t = input s ++ [{ avail := s.now + h.2.2, taken := false, beat := refusedJoin a.beat }] ∧
        t.trail.comb = s.trail.comb + 1)) ∧
    (e / 2 ^ 14 = 0 → ∃ t, exec (.trailSlot plane router out) s = .next t ∧ t.trail.beats = s.trail.beats ∧
      t = { s with trail := t.trail })

/-- A beat leaves the network: a split node joins its core's inbox, or leaves a port as one NODE flit; a data beat or a request for another
module leaves its port as one flit of all its parcels; any other does at its device what each of its packets is for, in the order of the
step, the plane and the position (deliver); a beat that no device is for is dropped and counted (R250, R251, R276, R326). -/
def Claim.BeatsLeaveTheTrail : Prop :=
  ∀ (s : State) (plane router out at_ port : Nat) (b : Beat) (h : FHead) (x : Pkt) (more : List Pkt),
    let t := s.exitBeat plane router out at_ b
    let lost := { s with trail := { s.trail with drop := s.trail.drop + 1 } }
    let tag := NodeTag.ofBits b.hdr
    let n := b.pkts.length
    (b.kind = 2 → out = 4 → t = { s with trail := { s.trail with
      inbox := Sparse.set [] s.trail.inbox router (Sparse.get [] s.trail.inbox router ++ [b]) } }) ∧
    (b.kind = 2 → out = 6 → portAtRouter router = some port → t = s.portBeat port plane (nodeHead s.ownId tag b.vmask.toNat) b.ps) ∧
    (b.kind = 2 → out ≠ 4 → (out ≠ 6 ∨ portAtRouter router = none) → t = lost) ∧
    (b.kind ≠ 2 → b.pkts = x :: more → x.flow = .away h → out = 6 → portAtRouter router = some port →
      t = s.portBeat port plane { h with vmask := if h.ftype = 5 then h.vmask else 2 ^ n - 1, addr := x.addr }
        (if h.ftype = 2 ∨ h.ftype = 5 then [] else b.pkts.map (·.parcel))) ∧
    (b.kind ≠ 2 → b.pkts = x :: more → ((∃ y, x.flow = .away y) → out ≠ 6 ∨ portAtRouter router = none) →
      t = (enumFrom0 b.pkts).foldl (fun s x => s.deliver router out (64 * at_ + 16 * plane + x.1) x.2) s) ∧
    (b.kind ≠ 2 → b.pkts = [] → t = lost)

/-- A Whistle flit advances one hop in a step of its class when it is the one that its output takes: over the mesh to the next router, or,
at its destination, out of the network, where the last flit of a message delivers it. A flit of reserved TYPE is dropped and counted. One
that is not ready, that another is taken before, or whose output has sent in this step stays (R266, R267). Where a row's conditions do not
hold the state is unchanged, which is the model's choice (log 2). It rests in part on choices of the model (log 11). -/
def Claim.WhistleFlitsHop : Prop :=
  ∀ (s : State) (k : Nat) (f : WFlit),
    let w := s.whistle
    let r := f.pos.toNat
    let o := f.out
    let h := hop r o
    let cls := wClass f.msg.typ
    let sent := { s with whistle := { w with flits := w.flits.eraseIdx k, done := Sparse.set 0 w.done (8 * r + o) (s.now + 1) } }
    let goes := f.ready s.now = true ∧ s.whistlePick r o cls = some k ∧ Sparse.get 0 w.done (8 * r + o) ≠ s.now + 1
    (w.flits[k]? = none → exec (.whistleFlitHop k) s = .next s) ∧
    (w.flits[k]? = some f →
      ((f.msg.typ = 0 ∨ 9 ≤ f.msg.typ) →
        exec (.whistleFlitHop k) s = .next { s with whistle := { w with flits := w.flits.eraseIdx k, drop := w.drop + 1 } }) ∧
      (f.msg.typ ≠ 0 → f.msg.typ < 9 → goes →
        (o < 4 → ∃ t g, exec (.whistleFlitHop k) s = .next t ∧ t.whistle.flits = w.flits.eraseIdx k ++ [g] ∧ g.msg = f.msg ∧
          g.last = f.last ∧ g.pos.toNat = h.1 % 2048 ∧ g.inp = h.2.1 ∧ s.now < g.avail ∧ stepClass g.avail = cls ∧
          t = { s with whistle := t.whistle }) ∧
        (4 ≤ o → f.last = true → exec (.whistleFlitHop k) s = .next (sent.whistleDeliver f.msg)) ∧
        (4 ≤ o → f.last = false → exec (.whistleFlitHop k) s = .next sent)) ∧
      (f.msg.typ ≠ 0 → f.msg.typ < 9 → ¬goes → exec (.whistleFlitHop k) s = .next s))

/-- A whole message arrives. A ticket goes to RD of the core that waits for it, which goes on; one that nobody waits for is gone. A
control-block read is answered, after the writes that came before it, by one message of three flits to the bridge, with the register whole.
Every other message waits, with its step, at its core or at the bridge, and memory is as before (R172, R200, R266). It rests in part on
choices of the model (log 31). -/
def Claim.WhistleMessagesArrive : Prop :=
  ∀ (s : State) (m : WMsg) (rd : BitVec 4),
    let c := m.dst.toNat
    let k := { m with at_ := s.now }
    let t := s.whistleDeliver m
    let v := BitVec.ofNat 64 ((m.body.getD 0 0).toNat + (m.body.getD 1 0).toNat * 2 ^ 32)
    let off := m.body.getD 0 0
    let reg := s.controlReg c off.toNat
    (m.bridge = true → t = { s with whistle := { s.whistle with bridge := s.whistle.bridge ++ [k] } }) ∧
    (m.bridge = false → m.typ = 3 → (s.seq c).wait = .ticket rd → (s.seq c).pc ≠ 4095 → t.mem = s.mem ∧
      t.seq c = { (s.seq c).writes s.now rd v with wait := .none } ∧ ∀ j ≠ c, t.seq j = s.seq j) ∧
    (m.bridge = false → m.typ = 3 → (∀ x, (s.seq c).wait ≠ .ticket x) → t = s) ∧
    (m.bridge = false → m.typ = 6 → (s.boxOf c).filter (fun x => x.typ = 7) = [] → t = s.whistleSend 3
      { typ := 8, src := BitVec.ofNat 11 c, dst := 0, bridge := true, body := [off, BitVec.ofNat 32 reg, BitVec.ofNat 32 (reg / 2 ^ 32)] }) ∧
    (m.bridge = false → m.typ ≠ 3 → m.typ ≠ 6 → t = { s with whistle := { s.whistle with
      box := Sparse.set [] s.whistle.box c (s.boxOf c ++ [k]) } })

/-- A remote arm is accepted at its engine: it starts it when it is idle, is queued behind the active arm, and is turned away where its list
lies outside every list range (STRM_BADLIST) or the queue is full or held (STRM_OVERARM). A control-block write sets the two bits of CORE_CTRL
and reaches no other offset. An error notice asserts ALERT_N and sets the pack halt 1,048,576 steps on, once, while a pack runs, and at once
where every core has halted already. With no such message nothing changes, and Ranger takes none while it restarts (R200, R228, R266, R472).
It rests in part on choices of the model (log 31). -/
def Claim.WhistleMessagesAct : Prop :=
  ∀ (s : State) (c : CoreId) (m : WMsg),
    let k := c.toNat
    let v := (m.body.getD 0 0).toNat + (m.body.getD 1 0).toNat * 2 ^ 32
    let e := v / 2 ^ 42 % 8
    let list := v % 2 ^ 42 / 16 * 16
    let g := s.eng k e
    let u := s.unbox k m
    let off := (m.body.getD 0 0).toNat
    let arm : Arm := { at_ := s.now, list := list, next := 0, left := 65535, ended := false, taken := 0, run := none, resid := false,
                       bundled := false }
    let box := fun (t : BitVec 5) => (s.boxOf k).find? fun x => x.typ = t
    let notice := s.whistle.bridge.find? fun x => x.typ = 5
    let gone := { s with whistle := { s.whistle with bridge := s.whistle.bridge.erase m } }
    (box 1 = some m →
      (s.inListRange list = true → g.active = none → g.queued = none →
        exec (.remoteArm c) s = .next (u.setEng k e { g with active := some arm })) ∧
      (s.inListRange list = true → g.active ≠ none → g.queued = none → g.reserved = none →
        exec (.remoteArm c) s = .next (u.setEng k e { g with queued := some arm })) ∧
      (s.inListRange list = true → (g.queued ≠ none ∨ (g.active ≠ none ∧ g.reserved ≠ none)) →
        exec (.remoteArm c) s = .next (u.setEng k e { g with rejects := g.rejects + 1, last := 1 })) ∧
      (s.inListRange list = false →
        exec (.remoteArm c) s = .next (u.setEng k e { g with rejects := g.rejects + 1, last := 2 }))) ∧
    (box 1 = none → exec (.remoteArm c) s = .next s) ∧
    (box 7 = some m →
      (off = 0 → exec (.controlBlockWrite c) s = .next (u.setSeq k
        { s.seq k with isolate := (m.body.getD 1 0).getLsbD 1, stop := (m.body.getD 1 0).getLsbD 0 })) ∧
      (off ≠ 0 → exec (.controlBlockWrite c) s = .next u)) ∧
    (box 7 = none → exec (.controlBlockWrite c) s = .next s) ∧
    (s.rng.restarting = true ∨ notice = none → exec .errorNotice s = .next s) ∧
    (s.rng.restarting = false → notice = some m → ∃ t, exec .errorNotice s = .next t ∧ t.whistle = gone.whistle ∧
      (s.pack.state = .running → AlertSrc.packFatal ∈ t.rng.alerts ∧
        t.rng.packFatalAt = some (s.rng.packFatalAt.getD (s.now + 1048576))) ∧
      (s.pack.state = .halted → AlertSrc.packFatal ∉ s.rng.alerts → AlertSrc.packFatal ∈ t.rng.alerts ∧
        t.rng.packFatalAt = some (s.rng.packFatalAt.getD s.now)) ∧
      (s.pack.state = .halted → AlertSrc.packFatal ∈ s.rng.alerts → t = gone) ∧
      (s.pack.state ≠ .running → s.pack.state ≠ .halted → t = gone) ∧ t.cores = s.cores ∧ t.mem = s.mem)

/-! ## Guyline -/

/-- An enabled port leaves electrical idle at its start time, and not before; it is up when its training has locked with a round trip of at
most 350 ns, with its credits, its sequence numbers and what it knows of its partner new, its lanes as training has found them, and fails at
the third miss in a row; a failed one tries again a second later. An up port fails after 16 replays of one flit or a loss of lock: what it
kept for replay is gone, its bit in GL_PORT_FAIL is set, and on a port that the running pack uses that is pack-fatal (R322, R323, R330, R344,
R473). Where a row's conditions do not hold the state is unchanged, which is the model's choice (log 2). -/
def Obligations.PortsTrainAndFail : Prop :=
  ∀ (s : State) (p : Port) (rtt : Nat) (locked lost reversed : Bool) (inverted : BitVec 4),
    let n := p.val
    let g := s.gport n
    let starts := g.state = 1 ∧ s.pwr.phase = .good ∧ s.pwr.modResetLow = false ∧ s.portEnabled n = true ∧
      s.pwr.domains.getD (42 + n / 6) 0 = 2 ∧ s.pwr.goodAt + 1500 + 10 * n ≤ s.nowMs
    let done := exec (.portTrainingDone p locked ⟨rtt, inverted, reversed⟩) s
    (starts → exec (.portStart p) s = .next (s.setPort n { g with state := 2, misses := 0 })) ∧
    (¬starts → exec (.portStart p) s = .next s) ∧
    (g.state ≠ 2 → done = .next s) ∧
    (g.state = 2 → locked = true → rtt ≤ 350000 → ∃ t, done = .next t ∧ (t.gport n).state = 3 ∧ (t.gport n).misses = 0 ∧
      (t.gport n).credits = 128 ∧ (t.gport n).seq = 0 ∧ (t.gport n).rxExp = 0 ∧ (t.gport n).replay = [] ∧ (t.gport n).syms = [] ∧
      (t.gport n).inverted = inverted ∧ (t.gport n).reversed = reversed ∧
      (t.gport n).delay = BitVec.ofNat 32 ((rtt * s.rate * 32 + 500000000) / 1000000000) ∧ (t.gport n).txq = g.txq ∧
      (∀ m ≠ n, t.gport m = s.gport m) ∧ t = { s with gl := t.gl, free := s.free + 1 }) ∧
    (g.state = 2 → (locked = false ∨ 350000 < rtt) → g.misses < 2 →
      done = .next (s.setPort n { g with misses := g.misses + 1 })) ∧
    (g.state = 2 → (locked = false ∨ 350000 < rtt) → 2 ≤ g.misses →
      done = .next (s.setPort n { g with state := 4, misses := g.misses + 1, retryAt := s.nowMs + 1000 })) ∧
    (g.state = 4 → g.retryAt ≤ s.nowMs → exec (.portTrainRetry p) s = .next (s.setPort n { g with state := 2 })) ∧
    (g.state ≠ 4 ∨ s.nowMs < g.retryAt → exec (.portTrainRetry p) s = .next s) ∧
    (g.state = 3 → (lost = true ∨ 16 ≤ g.replays) → ∃ t, exec (.portFail p lost) s = .next t ∧ (t.gport n).state = 4 ∧
      (t.gport n).replay = [] ∧ (t.gport n).resend = [] ∧ t.gl.portFail.getLsbD n = true ∧ (t.gport n).retryAt = s.nowMs + 1000 ∧
      (∀ m ≠ n, t.gport m = s.gport m) ∧
      (n ∈ s.gl.usedPorts → s.pack.state = .running → AlertSrc.packFatal ∈ t.rng.alerts ∧
        t.rng.packFatalAt = some (s.rng.packFatalAt.getD (s.now + 1048576))) ∧
      (n ∉ s.gl.usedPorts → t = { s with gl := t.gl })) ∧
    (g.state ≠ 3 ∨ (lost = false ∧ g.replays < 16) → exec (.portFail p lost) s = .next s)

/-- An up port sends one block: a symbol that has not been sent, ahead of every waiting block and without moving the position; else, at one of
the first 36 of its 40 positions the next block of its scheduled flits, at 36 and 37 of its Daypack flits, and at 38 and 39 an ACK, NAK or
TIME; an idle block where there is none. A flit begins with its header: one to be replayed goes first and unchanged; a new one leaves only
with a credit and a place to keep it, under the next SEQ, takes both, and is kept. A beat that reached the port in a past step has by then
become a flit of its own. A port that is not up sends nothing (R324 to R326, R328, R329, R336). -/
def Claim.BlocksLeave : Prop :=
  ∀ (s : State) (p : Port) (f : Flit) (rest : List Flit) (b : PBlock) (bs : List PBlock) (y : SentSym) (st fields : Nat)
    (ctl : List (Nat × Nat)),
    let n := p.val
    let g := s.gport n
    let moved := { g with pos := (g.pos + 1) % 40, blockNo := g.blockNo + 1 }
    let head := fun (f : Flit) => ({ ctl := 0, data := f.header } : PBlock)
    let sent := f.sealed g.seq
    let idle := (s.setPort n moved).emit (.block p { ctl := 0xC0, data := 0 })
    let tx := exec (.flitTransmit p) s
    (g.state ≠ 3 → tx = .next s) ∧
    (g.state = 3 → (∃ x, g.lastEdge = some x ∧ x.1 < s.now) → tx = exec (.flitTransmit p) (s.flushEdge n)) ∧
    (g.state = 3 → (∀ x, g.lastEdge = some x → s.now ≤ x.1) →
      (g.syms.find? (fun y => y.sentAt.isNone) = some y → tx = .next ((s.setPort n { g with
        blockNo := g.blockNo + 1,
        syms := g.syms.map fun (z : SentSym) => if z.sseq = y.sseq then { z with sentAt := some g.blockNo } else z }).emit
          (.block p { ctl := 0x80, data := symPayload y.stype y.sseq.toNat (s.symFields n y.stype y.fields) }))) ∧
      (g.syms.find? (fun y => y.sentAt.isNone) = none →
        (g.pos < 36 → g.cur = b :: bs → tx = .next ((s.setPort n { moved with cur := bs }).emit (.block p b))) ∧
        (g.pos < 36 → g.cur = [] → g.resend = f :: rest → (FHead.ofBits f.header).dpk = false →
          tx = .next ((s.setPort n { moved with resend := rest, cur := f.blocks }).emit (.block p (head f)))) ∧
        (g.pos < 36 → g.cur = [] → g.resend = [] → g.txq = f :: rest → g.credits ≠ 0 → g.replay.length < 256 →
          tx = .next ((s.setPort n { moved with
            txq := rest, credits := g.credits - 1, seq := g.seq + 1, replay := g.replay ++ [sent], cur := sent.blocks }).emit
              (.block p (head sent)))) ∧
        (g.pos < 36 → g.cur = [] → g.resend = [] → (g.txq = [] ∨ g.credits = 0 ∨ 256 ≤ g.replay.length) → tx = .next idle) ∧
        (g.pos < 36 → g.cur = [] → g.resend = f :: rest → (FHead.ofBits f.header).dpk = true → tx = .next idle) ∧
        (36 ≤ g.pos → g.pos < 38 → g.curDpk = b :: bs → tx = .next ((s.setPort n { moved with curDpk := bs }).emit (.block p b))) ∧
        (36 ≤ g.pos → g.pos < 38 → g.curDpk = [] → g.resend = f :: rest → (FHead.ofBits f.header).dpk = true →
          tx = .next ((s.setPort n { moved with resend := rest, curDpk := f.blocks }).emit (.block p (head f)))) ∧
        (36 ≤ g.pos → g.pos < 38 → g.curDpk = [] → g.resend = [] → g.dpkTxq = f :: rest → g.credits ≠ 0 → g.replay.length < 256 →
          tx = .next ((s.setPort n { moved with
            dpkTxq := rest, credits := g.credits - 1, seq := g.seq + 1, replay := g.replay ++ [sent], curDpk := sent.blocks }).emit
              (.block p (head sent)))) ∧
        (36 ≤ g.pos → g.pos < 38 → g.curDpk = [] → g.resend = [] → (g.dpkTxq = [] ∨ g.credits = 0 ∨ 256 ≤ g.replay.length) →
          tx = .next idle) ∧
        (36 ≤ g.pos → g.pos < 38 → g.curDpk = [] → g.resend = f :: rest → (FHead.ofBits f.header).dpk = false → tx = .next idle) ∧
        (38 ≤ g.pos → g.ctlq = (st, fields) :: ctl → tx = .next ((s.setPort n { moved with ctlq := ctl }).emit
          (.block p { ctl := 0x80, data := symPayload st g.sseq.toNat (s.symFields n st fields) }))) ∧
        (38 ≤ g.pos → g.ctlq = [] → tx = .next idle)))

/-- A flit that arrives is taken where its codewords and its check are good and its SEQ is the one expected; the next SEQ is then expected,
and no NAK is out. Any other is discarded: the first that fails is named by a NAK, and so is, while that is out, one that fails again in the
replay. A port that is not up takes none, and one with more than 8 parcel blocks is no flit (R325, R328, R329). It rests in part on choices
of the model (log 66, 86). -/
def Claim.FlitsAreTaken : Prop :=
  ∀ (s : State) (p : Port) (ok : Bool) (fixed : Nat) (header : BitVec 256) (blocks : List PBlock) (d : Nat),
    let n := p.val
    let g := s.gport n
    let f : Flit := { header, blocks }
    let t := { s with gl := { s.gl with fec := s.gl.fec + fixed } }
    let off := (f.seq + 4096 - g.rxExp.toNat) % 4096
    let good := (ok && f.ok) = true
    let nak := fun (d : Nat) => (t.setPort n { g with nakOut := some d }).sendSymOnce n 0x02 0
    let rx := exec (.flitReceive p ok fixed header blocks) s
    (8 < blocks.length → rx = .fault .illFormed) ∧
    (blocks.length ≤ 8 → g.state ≠ 3 → rx = .next s) ∧
    (blocks.length ≤ 8 → g.state = 3 →
      (good → off = 0 → g.rxq.length < 128 →
        rx = .next (t.setPort n { g with rxq := g.rxq ++ [f], rxExp := g.rxExp + 1, nakOut := none })) ∧
      (good → off = 0 → 128 ≤ g.rxq.length → rx = .next t) ∧
      (good → off ≠ 0 → g.nakOut = none → rx = .next t) ∧
      (¬good → g.nakOut = none → rx = .next (nak 0)) ∧
      (g.nakOut = some d → (good → off ≠ 0) →
        (off = 0 ∨ (good ∧ off ≤ d) → rx = .next (nak (if good then off else 0))) ∧
        (good → d < off → rx = .next (t.setPort n { g with nakOut := some off })) ∧
        (¬good → off ≠ 0 → rx = .next (t.setPort n { g with nakOut := some (d + 1) }))))

/-- An ACK at an up port drops the kept flits before the SEQ that it names and the kept symbols before its SSEQ, and gives its credits back, up
to 128; what names nothing kept drops nothing. A NAK makes the kept flits from its SEQ on go again, and counts the replay; flits before it
are acknowledged by it; one that names nothing kept does nothing. A symbol that has not been acknowledged within 64 block positions goes
again, and counts. One that fails its check, or comes to a port that is not up, changes nothing (R328 to R330, R335, R337). -/
def Claim.FlitsAreAcknowledged : Prop :=
  ∀ (s : State) (p : Port) (payload : BitVec 256) (y : SentSym),
    let n := p.val
    let g := s.gport n
    let x := payload.toNat
    let first := match g.replay with | f :: _ => f.seq | [] => g.seq.toNat
    let k := (x / 2 ^ 228 % 4096 + 4096 - first) % 4096
    let firstSym := match g.syms with | y :: _ => y.sseq | [] => g.sseq
    let j := (BitVec.ofNat 8 (x / 2 ^ 212 % 256) - firstSym).toNat
    let keep := g.replay.dropWhile fun f => f.seq ≠ x / 2 ^ 228 % 4096
    let due := g.syms.find? fun y => y.sentAt.any fun t => decide (t + 64 ≤ g.blockNo)
    let counted := { s with gl := { s.gl with retry := s.gl.retry + 1 } }
    (g.state = 3 → State.symOk payload 0x01 = true → ∃ h, exec (.ack p payload) s = .next (s.setPort n h) ∧
      h = { g with replay := h.replay, replays := h.replays, credits := min 128 (g.credits + x / 2 ^ 220 % 256), syms := h.syms } ∧
      (k ≤ g.replay.length → h.replay = g.replay.drop k ∧ (0 < k → h.replays = 0) ∧ (k = 0 → h.replays = g.replays)) ∧
      (g.replay.length < k → h.replay = g.replay ∧ h.replays = g.replays) ∧
      (j ≤ g.syms.length → h.syms = g.syms.drop j) ∧ (g.syms.length < j → h.syms = g.syms)) ∧
    (g.state ≠ 3 ∨ State.symOk payload 0x01 = false → exec (.ack p payload) s = .next s) ∧
    (g.state = 3 → State.symOk payload 0x02 = true → keep ≠ [] → exec (.nak p payload) s = .next (counted.setPort n { g with
      replay := keep, resend := keep, replays := if keep.length = g.replay.length then g.replays + 1 else 1 })) ∧
    (g.state ≠ 3 ∨ State.symOk payload 0x02 = false ∨ keep = [] → exec (.nak p payload) s = .next s) ∧
    (g.state = 3 → due = some y → exec (.symbolResend p) s = .next (counted.setPort n { g with
      syms := g.syms.map fun (z : SentSym) => if z.sseq = y.sseq then { z with sentAt := none } else z })) ∧
    (g.state ≠ 3 ∨ due = none → exec (.symbolResend p) s = .next s)

/-- The oldest received flit reaches the edge router: one for this module of a type of R325, or a split node, waits there for its row; one
for another module goes on by its route; its place in the buffer goes back as a credit in an ACK. One that comes after an EDGE-sourced slot
of its route has passed empty, or after its own slot among those that the tables give its route, is late, and counts once (R325, R328, R331,
R333). It rests in part on choices of the model (log 85, 87). -/
def Claim.FlitsAreDelivered : Prop :=
  ∀ (s : State) (p : Port) (past : Nat) (f : Flit) (rest : List Flit),
    let n := p.val
    let g := s.gport n
    let h := FHead.ofBits f.header
    let stays := (h.dmod = s.ownId ∧ 1 ≤ h.ftype ∧ h.ftype ≤ 6) ∨ h.ftype = 4
    let t := (s.setPort n { g with rxq := rest, edge := if stays then g.edge ++ [f] else g.edge }).countLate n h past
    let u := if h.dmod = s.ownId ∨ h.ftype = 4 then t else t.passOn n f
    let missed := (∃ x ∈ s.flitExits h, Sparse.get false s.trail.missed (State.routeKey x.1 (portRouter n) x.2) = true) ∨
      (0 < past ∧ s.trail.phaseBase + past ≤ s.now ∧
        ∃ x ∈ s.flitExits h, x.2 ∈ s.routeExits 256 x.1 (portRouter n) 6 (s.now - past))
    (g.rxq = [] → exec (.flitEdgeDeliver p past) s = .next s) ∧
    (g.rxq = f :: rest →
      (g.state = 3 → exec (.flitEdgeDeliver p past) s = .next (u.sendAck n 1)) ∧
      (g.state ≠ 3 → exec (.flitEdgeDeliver p past) s = .next u) ∧
      (g.state = 3 → stays → ∃ t, exec (.flitEdgeDeliver p past) s = .next t ∧ (missed → t.gl.lateFlit = s.gl.lateFlit + 1) ∧ (¬missed → t.gl.lateFlit = s.gl.lateFlit) ∧
        (t.gport n).edge = g.edge ++ [f] ∧ (t.gport n).rxq = rest ∧ (t.gport n).ctlq = g.ctlq ++ [(1, 1)] ∧ t.mem = s.mem))

/-- Flits between two ports: `Claim.BlocksLeave`, `Claim.FlitsAreTaken`, `Claim.FlitsAreAcknowledged`, `Claim.FlitsAreDelivered`. -/
def Obligations.FlitsInOrder : Prop :=
  Claim.BlocksLeave ∧ Claim.FlitsAreTaken ∧ Claim.FlitsAreAcknowledged ∧ Claim.FlitsAreDelivered

/-- The oldest delivered flit is taken by the row of its type alone. A READ_REQ is served parcel by parcel: each is asked for where it lies,
over the Trail in slots of the port's EDGE input, or over the Daypack path for Daypack traffic; an undecoded one is answered at once with a
poisoned parcel, and counts. Memory is as before (R208, R326, R333, R334). It rests in part on choices of the model (log 87). -/
def Claim.RemoteReads : Prop :=
  ∀ (s : State) (p : Port) (f : Flit) (rest : List Flit) (i d : Nat) (u : State),
    let n := p.val
    let g := s.gport n
    let h := FHead.ofBits f.header
    let taken := s.setPort n { g with edge := rest }
    let a := (h.addr + 32 * i) % 2 ^ 42
    let ask : FHead := { h with vmask := 1, addr := a }
    let src := planeKey (2 + i / 4) (portRouter n) 6
    (g.edge = f :: rest → h.ftype = 2 → exec (.readReq p) s =
      .next (((List.range 8).filter fun i => h.vmask.testBit i).foldl (fun s i => s.remoteRead n h i) taken)) ∧
    ((g.edge = [] ∨ (g.edge = f :: rest ∧ h.ftype ≠ 2)) → exec (.readReq p) s = .next s) ∧
    (u.keyOf a = none → u.remoteRead n h i = u.countEdgePoison.sendAway (2 + i / 4) (portRouter n) 6 u.now
      { ask with ftype := 3, dmod := h.smod, smod := u.ownId } (poisonedParcel a)) ∧
    ((u.keyOf a).isSome = true → h.dpk = true → u.remoteRead n h i = u.injectDpk (2 + i % 2) (portRouter n) 6
      { dest := globalKey u.ownId a, into := false, core := h.core, id := 0, i, avail := u.now, ask := true, head := some ask, parcel := {} }) ∧
    ((u.keyOf a).isSome = true → h.dpk = false → State.placeExit a = some d → u.remoteRead n h i = u.putBeat src u.now
      (mkBeat d [{ flow := .request (State.readReq a (.remote ask) none (some src)), addr := a, parcel := {} }]))

/-- READ_DATA goes parcel by parcel to the core that asked for it, over the Trail in slots of the port's EDGE input, or to the Daypack transfer
that asked. WRITE_DONE takes the writes that it counts off those of its engine, or counts the parcels of the Daypack transfer that has one
at its address as landed. Memory is as before (R230, R239, R326, R334). It rests in part on choices of the model (log 83). -/
def Claim.RemoteAnswers : Prop :=
  ∀ (s : State) (p : Port) (f : Flit) (rest : List Flit) (d : Dpk),
    let n := p.val
    let g := s.gport n
    let h := FHead.ofBits f.header
    let taken := s.setPort n { g with edge := rest }
    let e := s.eng h.core h.eng
    let key := fun (i : Nat) => globalKey h.smod ((h.addr + 32 * i) % 2 ^ 42)
    let has := (s.dpkq h.core).find? fun d => d.out && decide (d.landed < d.len) &&
      (List.range d.len).any fun i => globalKey (d.gaddr / 2 ^ 42) ((d.gaddr % 2 ^ 42 + 32 * i) % 2 ^ 42) = globalKey h.smod h.addr
    (g.edge = f :: rest → h.ftype = 3 → h.dpk = false → exec (.readData p) s = .next ((flitParcels h f.blocks).foldl
      (fun s x => s.putEdge n x.1 { flow := .away { h with vmask := 1, addr := x.2.1 }, addr := x.2.1, parcel := x.2.2 }) taken)) ∧
    (g.edge = f :: rest → h.ftype = 3 → h.dpk = true → exec (.readData p) s = .next ((flitParcels h f.blocks).foldl
      (fun s x => s.dpkAnswer h.core (globalKey h.smod x.2.1) (portRouter n) x.2.2) taken)) ∧
    ((g.edge = [] ∨ (g.edge = f :: rest ∧ h.ftype ≠ 3)) → exec (.readData p) s = .next s) ∧
    (g.edge = f :: rest → h.ftype = 5 → h.dpk = false → exec (.writeDone p) s = .next (taken.setEng h.core h.eng
      { e with sent := (List.range h.vmask).foldl (fun (w : List (Nat × Nat × Nat)) i => w.eraseP fun x => x.2.1 = key i) e.sent })) ∧
    (g.edge = f :: rest → h.ftype = 5 → h.dpk = true → has = some d → exec (.writeDone p) s = .next (taken.setDpkq h.core
      ((s.dpkq h.core).map fun x => if x.id = d.id then { x with landed := x.landed + h.vmask } else x))) ∧
    (g.edge = f :: rest → h.ftype = 5 → h.dpk = true → has = none → exec (.writeDone p) s = .next taken) ∧
    ((g.edge = [] ∨ (g.edge = f :: rest ∧ h.ftype ≠ 5)) → exec (.writeDone p) s = .next s)

/-- A WRITE is written parcel by parcel where it lies: over the Trail in slots of the port's EDGE input, over the Daypack path for Daypack
traffic, into the hold where a list range holds the place, and dropped and counted where it is not decoded; one WRITE_DONE goes back once
its last parcel has landed or been dropped, and one without parcels is answered at once. While the list hold has no room for a parcel it
waits (R208, R227, R326, R334). -/
def Claim.RemoteWrites : Prop :=
  ∀ (s : State) (p : Port) (f : Flit) (rest : List Flit) (i d id : Nat) (q : Parcel) (u : State),
    let n := p.val
    let g := s.gport n
    let h := FHead.ofBits f.header
    let taken := s.setPort n { g with edge := rest }
    let ps := flitParcels h f.blocks
    let a := (h.addr + 32 * i) % 2 ^ 42
    let src := planeKey (2 + i / 4) (portRouter n) 6
    let nw := s.gl.nextWrite
    let started := { taken with gl := { taken.gl with
      nextWrite := s.gl.nextWrite + 1,
      writes := s.gl.writes ++ [{ id := s.gl.nextWrite, head := h, port := n, done := 0, left := ps.length }] } }
    let request : SReq := { wr := true, addr := a, mask := fullMask, data := q.data.toNat, poison := q.poison, cclass := q.cclass,
                            check := some q.check, who := .remoteW id, src := some src }
    (g.edge = f :: rest → h.ftype = 1 →
      ((∃ x ∈ ps, s.holdFull x.2.1 = true) → exec (.write p) s = .next s) ∧
      ((∀ x ∈ ps, s.holdFull x.2.1 = false) → ps ≠ [] → exec (.write p) s =
        .next (ps.foldl (fun s x => s.remoteWrite n nw h x.1 x.2.1 x.2.2) started)) ∧
      (ps = [] → exec (.write p) s = .next (taken.sendAway 2 (portRouter n) 6 s.now
        { h with ftype := 5, vmask := 0, dmod := h.smod, smod := s.ownId } {}))) ∧
    ((g.edge = [] ∨ (g.edge = f :: rest ∧ h.ftype ≠ 1)) → exec (.write p) s = .next s) ∧
    (u.writable a = true → u.inListRange a = false → h.dpk = true → u.remoteWrite n id h i a q = u.injectDpk (2 + i % 2) (portRouter n) 6
      { dest := globalKey u.ownId a, into := false, core := h.core, id, i, avail := u.now, ask := false, head := some h, parcel := q }) ∧
    (u.writable a = true → u.inListRange a = false → h.dpk = false → State.placeExit a = some d →
      u.remoteWrite n id h i a q = u.putBeat src u.now (mkBeat d [State.writePkt request])) ∧
    (u.writable a = false → u.remoteWrite n id h i a q = u.countEdgePoison.wrote (.remoteW id)) ∧
    (u.writable a = true → u.inListRange a = true → ∃ w, u.remoteWrite n id h i a q = (u.putParcelFor w a q).wrote (.remoteW id)) ∧
    (∀ w, u.gl.writes.find? (fun w => w.id = id) = some w →
      (w.left ≤ 1 → u.wrote (.remoteW id) = ({ u with gl := { u.gl with writes := u.gl.writes.filter fun x => x.id ≠ id } }).sendAway 2
        (portRouter w.port) 6 u.now { w.head with ftype := 5, vmask := w.done + 1, dmod := w.head.smod, smod := u.ownId } {}) ∧
      (1 < w.left → u.wrote (.remoteW id) = { u with gl := { u.gl with writes := u.gl.writes.map fun x =>
        if x.id = id then { x with done := x.done + 1, left := x.left - 1 } else x } }))

/-- A NODE flit splits into its beats, parcels 0 to 3 on plane 2 and 4 to 7 on plane 3, which wait at the port's EDGE input for slots of their
route: to the core of its group, or for another module to the port of its route; with no route it is dropped and counted. Nothing else
changes (R326, R333, R352). The form and the saturation of its sums are operands (log 19). -/
def Claim.RemoteNodes : Prop :=
  ∀ (s : State) (p : Port) (integer sat : Bool) (f : Flit) (rest : List Flit) (exit : Nat),
    let n := p.val
    let g := s.gport n
    let h := FHead.ofBits f.header
    let taken := s.setPort n { g with edge := rest }
    let core := h.addr / 2 ^ 31 % 2 ^ 11
    let low := ((List.range 4).filter fun i => h.vmask.testBit i).length
    let src := fun (k : Nat) => planeKey (2 + k) (portRouter n) 6
    let way := if h.dmod = s.ownId then some (core * 8 + 4) else s.awayExit h.dmod
    let is := fun (k : Nat) (q : QBeat) => q.avail = s.now ∧ q.taken = false ∧ q.beat.kind = 2 ∧ q.beat.dst = exit ∧
      q.beat.vmask.toNat = h.vmask / 16 ^ k % 16 ∧ q.beat.integer = integer ∧ q.beat.sat = sat ∧
      q.beat.hdr = NodeTag.bits {
        core := core, base := h.addr / 2 ^ 28 % 8, logS := h.addr / 2 ^ 24 % 16, level := h.addr / 2 ^ 20 % 16,
        first := h.addr / 2 ^ 6 % 2 ^ 14, module := h.dmod, beat := h.beat + k } ∧
      q.beat.ps = (enumFrom0 (if k = 0 then f.blocks.take low else f.blocks.drop low)).map fun x =>
        blockParcel x.2 (128 * (h.beat + k) + 32 * x.1)
    (g.edge = f :: rest → h.ftype = 4 → way = some exit → h.vmask < 16 → ∃ q, is 0 q ∧ exec (.node ⟨p, integer, sat⟩) s = .next
      { taken with trail := { s.trail with srcq := Sparse.set [] s.trail.srcq (src 0) (s.srcAt (src 0) ++ [q]) } }) ∧
    (g.edge = f :: rest → h.ftype = 4 → way = some exit → 16 ≤ h.vmask → ∃ q r, is 0 q ∧ is 1 r ∧ exec (.node ⟨p, integer, sat⟩) s = .next
      { taken with trail := { s.trail with
        srcq := Sparse.set [] (Sparse.set [] s.trail.srcq (src 0) (s.srcAt (src 0) ++ [q])) (src 1) (s.srcAt (src 1) ++ [r]) } }) ∧
    (g.edge = f :: rest → h.ftype = 4 → way = none → exec (.node ⟨p, integer, sat⟩) s = .next taken.countUnroutable) ∧
    ((g.edge = [] ∨ (g.edge = f :: rest ∧ h.ftype ≠ 4)) → exec (.node ⟨p, integer, sat⟩) s = .next s)

/-- Delivered flits act by their type: `Claim.RemoteReads`, `Claim.RemoteAnswers`, `Claim.RemoteWrites`, `Claim.RemoteNodes`. -/
def Obligations.RemoteTraffic : Prop :=
  Claim.RemoteReads ∧ Claim.RemoteAnswers ∧ Claim.RemoteWrites ∧ Claim.RemoteNodes

/-- A symbol is acted on once: one of another type, with a wrong check, or at a port that is not up changes nothing; one that has not been
received and lies within 128 of the next expected is accepted and acknowledged; a repeat is acknowledged and not acted on. The SSEQs up to
the first that has not come are passed over (R335, R337). -/
def Claim.SymbolsActOnce : Prop :=
  ∀ (s : State) (p : Port) (payload : BitVec 256) (stype : Nat),
    let n := p.val
    let g := s.gport n
    let k := BitVec.ofNat 8 (payload.toNat / 2 ^ 240 % 256)
    let r := s.takeSym n payload stype
    let new := k ∉ g.seenSyms ∧ (k - g.rxSseq).toNat < 128
    ((g.state ≠ 3 ∨ State.symOk payload stype = false) → r = (s, false)) ∧
    (g.state = 3 → State.symOk payload stype = true →
      (r.2 = true ↔ new) ∧ (r.1.gport n).ctlq = g.ctlq ++ [(1, 0)] ∧ (∀ m ≠ n, r.1.gport m = s.gport m) ∧
      (∃ e seen, r.1 = (s.setPort n { g with rxSseq := e, seenSyms := seen }).sendAck n 0 ∧
        (new → ∀ x : Byte, (x - g.rxSseq).toNat < (e - g.rxSseq).toNat → x ∈ g.seenSyms ∨ x = k)) ∧
      (new → g.seenSyms = [] → k = g.rxSseq → r.1 = (s.setPort n { g with rxSseq := g.rxSseq + 1 }).sendAck n 0) ∧
      (¬new → g.rxSseq ∉ g.seenSyms → r.1 = (s.setPort n g).sendAck n 0))

/-- ARRIVE of a child counts for its own generation, with its marks, and may send the barrier on (mwProgress); with a fault mark the module
completes at once. It is kept for the next generation, and is otherwise dropped. RELEASE from the parent sets the release step, or, when it
comes late, the step after its receipt, which is counted, takes its marks over, and goes on to the children. A symbol that is not acted on,
of a port that is no child or not the parent, of another generation, or of a released barrier does nothing more (R339, R340). -/
def Claim.BarrierSymbols : Prop :=
  ∀ (s : State) (p : Port) (payload : BitVec 256),
    let n := p.val
    let x := payload.toNat
    let chn := x / 2 ^ 236 % 16
    let ch := BitVec.ofNat 4 chn
    let gen := BitVec.ofNat 16 (x / 2 ^ 218 % 2 ^ 16)
    let at_ := x / 2 ^ 154 % 2 ^ 64
    let ra := s.takeSym n payload 0x10
    let rr := s.takeSym n payload 0x11
    let k := s.cairnCh chn
    let counts := ra.2 = true ∧ State.mwOn k = true ∧ n ∈ State.mwChildren k
    let marked := { k with
      childArr := if n ∈ k.childArr then k.childArr else k.childArr ++ [n], fault := k.fault || x.testBit 235,
      abort := k.abort || x.testBit 234, due := if x.testBit 235 then some s.now else k.due }
    let releases := rr.2 = true ∧ State.mwOn k = true ∧ State.mwParent k = some n ∧ gen = k.gen ∧ k.release = none
    let released := { k with
      fault := k.fault || x.testBit 235, abort := k.abort || x.testBit 234,
      release := some (if at_ ≤ s.now then s.now + 1 else at_) }
    let u := { rr.1 with gl := { rr.1.gl with lateRelease := s.gl.lateRelease + (if at_ ≤ s.now then 1 else 0) } }
    (counts → gen = k.gen → exec (.arrive p payload) s = .next ((ra.1.setCairn chn marked).mwProgress ch)) ∧
    (counts → gen ≠ k.gen → gen = k.gen + 1 → exec (.arrive p payload) s = .next (ra.1.setCairn chn
      { k with childEarly := k.childEarly ++ [(n, x.testBit 235, x.testBit 234)] })) ∧
    (counts → gen ≠ k.gen → gen ≠ k.gen + 1 → exec (.arrive p payload) s = .next ra.1) ∧
    (¬counts → exec (.arrive p payload) s = .next ra.1) ∧
    (releases → exec (.release p payload) s = .next ((u.setCairn chn released).sendRelease ch released at_)) ∧
    (releases → ∃ t, exec (.release p payload) s = .next t ∧ t.cairnCh chn = released ∧
      t.gl.lateRelease = s.gl.lateRelease + (if at_ ≤ s.now then 1 else 0) ∧ t.mem = s.mem ∧ t.cores = s.cores) ∧
    (¬releases → exec (.release p payload) s = .next rr.1)

/-- START on the upstream port sets the counter to V + D, the target and the time of release, and goes on to the children; at or after
T_START nothing is released, and that shows. READY of a child is kept; once the module's own cores are placed and all its children are
ready, the master sets T_START 65,536 steps on and sends START, and another module sends READY upstream, once. At T_START the cores of the
pack run, and the pack with them; before, nothing is released (R258, R305, R345). Where a row's conditions do not hold the state is
unchanged, which is the model's choice (log 2). -/
def Claim.StartInStep : Prop :=
  ∀ (s : State) (p : Port) (payload : BitVec 256) (c at_ up : Nat),
    let n := p.val
    let x := payload.toNat
    let v := x / 2 ^ 112 % 2 ^ 64 * 64 + x / 2 ^ 106 % 64 + (s.gport n).delay.toNat
    let t0 := x / 2 ^ 176 % 2 ^ 64
    let rs := s.takeSym n payload 0x21
    let rd := s.takeSym n payload 0x20
    let u := rd.1.setPort n { rd.1.gport n with ready := true }
    let go := u.gl.placed = true ∧ u.gl.tStart = none ∧ (∀ q ∈ u.startChildren, (u.gport q).ready = true)
    (rs.2 = true → s.upstream = some n → ∃ t w : State, exec (.start p payload) s = .next t ∧
      t = w.sendStart t0 (x / 2 ^ 100 % 64 + 1) (x / 2 ^ 86 % 2 ^ 14) (x / 2 ^ 65 % 2 ^ 21) ∧
      t.now = v / 64 % 2 ^ 64 ∧ t.pace.frac = BitVec.ofNat 6 v ∧ t.pace.target = x / 2 ^ 65 % 2 ^ 21 ∧
      (t.now < t0 → t.gl.tStart = some t0 ∧ t.gl.startLate = s.gl.startLate) ∧
      (t0 ≤ t.now → t.gl.tStart = none ∧ t.gl.startLate = true) ∧ t.cores = s.cores ∧ t.mem = s.mem) ∧
    (rs.2 = false ∨ s.upstream ≠ some n → exec (.start p payload) s = .next rs.1) ∧
    (rd.2 = true → go → u.isMaster = true → ∃ t, exec (.ready p payload) s = .next t ∧
      t = ({ u with gl := { u.gl with tStart := some (s.now + 65536) } }).sendStart (s.now + 65536) 0 u.ownId u.pace.target ∧
      t.gl.tStart = some (s.now + 65536) ∧ (t.gport n).ready = true ∧ t.cores = s.cores) ∧
    (rd.2 = true → go → u.isMaster = false → u.gl.sentReady = false → u.upstream = some up → exec (.ready p payload) s =
      .next (({ u with gl := { u.gl with sentReady := true } }).sendSym up 0x20 0)) ∧
    (rd.2 = true → (¬go ∨ (u.isMaster = false ∧ (u.gl.sentReady = true ∨ u.upstream = none))) → exec (.ready p payload) s = .next u) ∧
    (rd.2 = false → exec (.ready p payload) s = .next rd.1) ∧
    (s.gl.tStart = some at_ → at_ ≤ s.now → s.gl.placed = true → ∃ t, exec .startRelease s = .next t ∧ t.pack.state = .running ∧
      t.gl.tStart = none ∧ t.trail.phaseBase = s.now ∧ t.mem = s.mem ∧
      ((∀ z ∈ s.cores.seq, z.1 = c → z.2 = s.seq c) → (∃ z ∈ s.cores.seq, z.1 = c) → (s.seq c).inPack = true →
        (t.seq c).st = 1 ∧ (t.seq c).nextIssue = s.now ∧ (t.seq c).pc = (s.seq c).pc) ∧
      ((∀ z ∈ s.cores.seq, z.1 = c → z.2.inPack = false) → t.seq c = s.seq c)) ∧
    (s.gl.tStart = some at_ → (s.now < at_ ∨ s.gl.placed = false) → exec .startRelease s = .next s) ∧
    (s.gl.tStart = none → exec .startRelease s = .next s)

/-- TIME is sent every 65,536 steps at an up port and not before, naming the master that this module sees, whether the port is its upstream
port, and its synchronisation state. A received one gives the link delay as half of (t4 - T1) - HOLD, rounded to 1/64 step, where it names a
T1, and the partner's master and place in the tree; one that fails its check, or comes to a port that is not up, changes nothing. A
non-master that locks shows 2. REFIN's loss and return set and release their alert (R341, R342, R344, R488). Where a row's conditions do not
hold the state is unchanged, which is the model's choice (log 2). It rests in part on choices of the model (log 35, 62, 88). -/
def Claim.TimeAndSync : Prop :=
  ∀ (s : State) (p : Port) (payload : BitVec 256) (t4 : W64) (fr : BitVec 6),
    let n := p.val
    let g := s.gport n
    let x := payload.toNat
    let at_ := t4.toNat * 64 + fr.toNat
    let echo := x / 2 ^ 106 % 2 ^ 64 * 64 + x / 2 ^ 100 % 64
    let rtt := at_ - echo - x / 2 ^ 68 % 2 ^ 32
    let named := x / 2 ^ 54 % 2 ^ 14
    let u := s.setPort n { g with lastTime := s.now }
    let fields := fr.toNat * 2 ^ 170 + u.masterId % 16384 * 2 ^ 54 + (if u.upstream = some n then 2 ^ 53 else 0) + u.syncState * 2 ^ 50
    (g.state = 3 → g.lastTime + 65536 ≤ s.now → exec (.timeSend p fr) s =
      .next (s.setPort n { g with lastTime := s.now, ctlq := g.ctlq ++ [(0x30, fields)] })) ∧
    (g.state ≠ 3 ∨ s.now < g.lastTime + 65536 → exec (.timeSend p fr) s = .next s) ∧
    (g.state = 3 → State.symOk payload 0x30 = true →
      exec (.time p payload t4 fr) s = .next (s.setPort n { g with
        peerT1 := x / 2 ^ 176 % 2 ^ 64 * 64 + x / 2 ^ 170 % 64, peerAt := at_,
        delay := if echo = 0 then g.delay else BitVec.ofNat 32 ((rtt + 1) / 2),
        master := if named = 0x3FFF ∧ x / 2 ^ 50 % 8 < 3 then 0xFFFF else BitVec.ofNat 16 named, child := x.testBit 53 })) ∧
    (g.state ≠ 3 ∨ State.symOk payload 0x30 = false → exec (.time p payload t4 fr) s = .next s) ∧
    (s.gl.sync = 1 → s.isMaster = false → exec .syncLock s = .next { s with gl := { s.gl with sync := 2 } }) ∧
    (s.gl.sync ≠ 1 ∨ s.isMaster = true → exec .syncLock s = .next s) ∧
    (s.usesRefin = true → ∃ t, exec .refinLoss s = .next t ∧ t.gl.refLost = true ∧ AlertSrc.refin ∈ t.rng.alerts ∧
      t.pace = s.pace) ∧
    (s.usesRefin = false → exec .refinLoss s = .next s) ∧
    (∃ t, exec .refinReturn s = .next t ∧ t.gl.refLost = false ∧ AlertSrc.refin ∉ t.rng.alerts ∧
      (∀ a, a ≠ AlertSrc.refin → (a ∈ t.rng.alerts ↔ a ∈ s.rng.alerts)))

/-- A RATE_REQ of a child goes up the start tree. At the master it sets one decrement, from the rate that the sets already sent leave, 16,384
steps on, and sends it to the children; later requests merge into one that has not applied; with no level left it is counted and alerted. A
RATE_SET from upstream is kept for its step and sent on to the children. At its step a rate of one level lower is one counted lowering of
cause 4, one of one level higher takes a level back, and any other is the step target, with the level kept; before, nothing changes (R343,
R383, R385 to R387). Where a row's conditions do not hold the state is unchanged, which is the model's choice (log 2). It rests in part on
choices of the model (log 32). -/
def Claim.SystemRates : Prop :=
  ∀ (s : State) (p : Port) (payload : BitVec 256) (rate at_ up : Nat) (dec : Bool) (rest : List (Nat × Nat × Bool)),
    let n := p.val
    let x := payload.toNat
    let rq := s.takeSym n payload 0x40
    let st := s.takeSym n payload 0x41
    let asked := { rq.1 with gl := { rq.1.gl with rateReqAt := s.nowMs } }
    let ahead := s.rateAhead
    let lower := rateOf ahead.1 (ahead.2 + 1)
    let newRate := x / 2 ^ 219 % 2 ^ 21
    let newAt := x / 2 ^ 155 % 2 ^ 64
    let child := rq.2 = true ∧ n ∈ rq.1.startChildren
    let pops := { s with gl := { s.gl with rateSets := rest } }
    (child → rq.1.isMaster = true → (∀ y ∈ s.gl.rateSets, y.2.2 = false) → canLower ahead.1 ahead.2 = true →
      exec (.rateReq p payload) s = .next (({ asked with gl := { asked.gl with
        rateSets := s.gl.rateSets ++ [(lower, s.now + 16384, true)] } }).sendRateSet lower (s.now + 16384))) ∧
    (child → rq.1.isMaster = true → (∃ y ∈ s.gl.rateSets, y.2.2 = true) → exec (.rateReq p payload) s = .next asked) ∧
    (child → rq.1.isMaster = true → (∀ y ∈ s.gl.rateSets, y.2.2 = false) → canLower ahead.1 ahead.2 = false → ∃ t,
      exec (.rateReq p payload) s = .next t ∧ t.pace.floorHits = s.pace.floorHits + 1 ∧ AlertSrc.floorHit ∈ t.rng.alerts ∧
      t.gl.rateSets = s.gl.rateSets) ∧
    (child → rq.1.isMaster = false → rq.1.upstream = some up → exec (.rateReq p payload) s =
      .next (rq.1.sendSym up 0x40 (x / 2 ^ 226 % 2 ^ 14 * 2 ^ 226))) ∧
    (child → rq.1.isMaster = false → rq.1.upstream = none → exec (.rateReq p payload) s = .next rq.1) ∧
    (¬child → exec (.rateReq p payload) s = .next rq.1) ∧
    (st.2 = true → st.1.upstream = some n → exec (.rateSet p payload) s = .next (({ st.1 with gl := { st.1.gl with
      rateSets := s.gl.rateSets ++ [(newRate, newAt, false)] } }).sendRateSet newRate newAt)) ∧
    (st.2 = false ∨ st.1.upstream ≠ some n → exec (.rateSet p payload) s = .next st.1) ∧
    (s.gl.rateSets = (rate, at_, dec) :: rest →
      (at_ ≤ s.now → rate < s.rate → rate = rateOf s.pace.target (s.pace.level + 1) → ∃ t,
        exec .rateSetApply s = .next t ∧ t.pace.level = s.pace.level + 1 ∧ t.pace.devCount = s.pace.devCount + 1 ∧ t.pace.cause = 4 ∧
        t.gl.rateSets = rest ∧ t.rate = rate) ∧
      (at_ ≤ s.now → ¬(rate < s.rate ∧ rate = rateOf s.pace.target (s.pace.level + 1)) → 0 < s.pace.level →
        rate = rateOf s.pace.target (s.pace.level - 1) → ∃ t, exec .rateSetApply s = .next t ∧ t.pace.level = s.pace.level - 1 ∧
          t.pace.devCount = s.pace.devCount ∧ t.gl.rateSets = rest ∧ t.rate = rate ∧ AlertSrc.floorHit ∉ t.rng.alerts) ∧
      (at_ ≤ s.now → ¬(rate < s.rate ∧ rate = rateOf s.pace.target (s.pace.level + 1)) →
        ¬(0 < s.pace.level ∧ rate = rateOf s.pace.target (s.pace.level - 1)) →
        exec .rateSetApply s = .next { pops with pace := { s.pace with target := rate } }) ∧
      (s.now < at_ → exec .rateSetApply s = .next s)) ∧
    (s.gl.rateSets = [] → exec .rateSetApply s = .next s)

/-! ## Pacing, power and cooling -/

/-- A step permit counts one step, and a late one a permit overrun; without running pacers there is no step. No other unit of the module
changes, but for the deviation counters that a result closing in this step is held against, which are those of its start (R374, R377,
R379). Where a row's conditions do not hold the state is unchanged, which is the model's choice (log 2). -/
def Claim.StepPermitsCount : Prop :=
  ∀ (s : State) (late : Bool),
    (s.pace.running = true → exec (.stepPermit late) s = .next { s with
      log := { s.log with stepDevs := s.deviations }, pace := { s.pace with
        step := (s.pace.step + 1) % 2 ^ 64, overruns := s.pace.overruns + (if late then 1 else 0) } }) ∧
    (s.pace.running = false → exec (.stepPermit late) s = .next s)

/-- The Damper keeps every voltage code within 0 to 120, raises it by 4, by 1 or not at all as the slack says, above 114 only while a
lowering is pending, and lowers it by at most 1 (R380, R381). -/
def Claim.DamperMovesTheVoltage : Prop :=
  ∀ (atFloor : Bool) (rate slack : Nat) (b : VBlock), b.code ≤ 120 →
    let r := damp atFloor rate slack b
    r.1.code ≤ 120 ∧ b.code ≤ r.1.code + 1 ∧ r.1.code ≤ b.code + 4 ∧
    (b.code ≤ 110 → slack < 2 → r.1.code = b.code + 4) ∧
    (b.code ≤ 113 → 2 ≤ slack → slack < 6 → r.1.code = b.code + 1) ∧
    (b.code ≤ 114 → 6 ≤ slack → slack ≤ 14 → r.1.code = b.code) ∧
    (b.code ≤ 114 → 14 < slack → 3 ≤ b.high → r.1.code = b.code - 1) ∧
    (b.code ≤ 114 → r.1.pending = false → r.1.code ≤ 114) ∧
    (114 < b.code → r.1.pending = false → r.1.code = b.code - 1) ∧
    (r.2 = true → slack < 6 ∧ 114 ≤ b.code ∧ b.pending = false)

/-- A Damper interval that ends takes each block's action and decides at most one lowering of cause 1, due at the first step of the
interval after the next; at that step it takes effect and is logged with its step, level, cause and hotspot; a lowering for which no level
is left is counted and alerted instead (R380, R383 to R387). Where a row's conditions do not hold the state is unchanged, which is the
model's choice (log 2). It rests in part on choices of the model (log 33). -/
def Claim.DampingLowersTheRate : Prop :=
  ∀ (s : State) (slack : List Nat) (at_ : Nat) (cause : Byte) (rest : List (Nat × Byte)),
    let p := s.pace
    let floor := !canLower p.target p.level
    let r := (p.blocks.zip slack).map fun x => damp floor s.rate x.2 x.1
    (slack.length ≠ 32 → exec (.damperInterval slack) s = .fault .illFormed) ∧
    (slack.length = 32 → p.running = true → p.interval < s.now / 16384 → s.glRun = false → (∀ x ∈ r, x.1.floorRun ≠ 1024) →
      ((∀ x ∈ r, x.2 = false) → exec (.damperInterval slack) s = .next { s with pace := { p with
        interval := s.now / 16384, blocks := r.map (·.1) } }) ∧
      ((∃ x ∈ r, x.2 = true) → canLower p.target (p.level + p.lowerings.length) = true →
        exec (.damperInterval slack) s = .next { s with pace := { p with
          interval := s.now / 16384, blocks := r.map (·.1), lowerings := p.lowerings ++ [((s.now / 16384 + 2) * 16384, 1)] } }) ∧
      ((∃ x ∈ r, x.2 = true) → canLower p.target (p.level + p.lowerings.length) = false → ∃ t,
        exec (.damperInterval slack) s = .next t ∧ t.pace.floorHits = p.floorHits + 1 ∧ t.pace.level = p.level ∧
        AlertSrc.floorHit ∈ t.rng.alerts ∧ t.pace.lowerings = p.lowerings)) ∧
    (p.lowerings = (at_, cause) :: rest → at_ ≤ s.now → ∃ t e, exec .loweringApply s = .next t ∧ t.pace.level = p.level + 1 ∧
      t.pace.cause = cause ∧ t.pace.devCount = p.devCount + 1 ∧ t.pace.lowerings = rest ∧ t.pace.target = p.target ∧
      t.pace.log.getLast? = some e ∧ e.step = BitVec.ofNat 64 s.now ∧ e.level = BitVec.ofNat 8 (p.level + 1) ∧ e.cause = cause ∧
      e.hotspot = BitVec.ofInt 16 s.cool.hotspot ∧ (p.log.length ≤ 64 → t.pace.log.length ≤ 64) ∧ t = { s with pace := t.pace }) ∧
    (p.lowerings = (at_, cause) :: rest → s.now < at_ → exec .loweringApply s = .next s)

/-- Each applied lowering, whether this module's own or that of a RATE_SET, adds one to RATE_DEV_COUNT, writes its cause to DAMP_CAUSE and
appends one entry to the ring of 64 in DAMP_LOG, with the step, the new level, the cause and the hotspot (R385). -/
def Obligations.LoweringIsLogged : Prop :=
  ∀ (s : State) (cause : Byte) (at_ rate : Nat) (rest : List (Nat × Byte)) (more : List (Nat × Nat × Bool)) (dec : Bool),
    let p := s.pace
    let logged := fun (t : State) (cause : Byte) =>
      let e : DampEntry := { step := BitVec.ofNat 64 s.now, level := BitVec.ofNat 8 (p.level + 1), cause, hotspot := BitVec.ofInt 16 s.cool.hotspot }
      t.pace.level = p.level + 1 ∧ t.pace.devCount = p.devCount + 1 ∧ t.pace.cause = cause ∧
        (p.log.length < 64 → t.pace.log = p.log ++ [e]) ∧ (∀ x old, p.log = x :: old → old.length = 63 → t.pace.log = old ++ [e])
    (p.lowerings = (at_, cause) :: rest → at_ ≤ s.now → ∃ t, exec .loweringApply s = .next t ∧ logged t cause) ∧
    (s.gl.rateSets = (rate, at_, dec) :: more → at_ ≤ s.now → rate < s.rate → rate = rateOf p.target (p.level + 1) →
      ∃ t, exec .rateSetApply s = .next t ∧ logged t 4) ∧
    (∀ e : DampEntry, State.dampBytes e = leBytes 8 e.step.toNat ++ [e.level, e.cause] ++ leBytes 2 e.hotspot.toNat)

/-- RATE never falls below 400,000 kstep/s nor rises above the target, and a lowering takes 2 % of the target (R382). -/
def Claim.RateOfTheLevel : Prop :=
  ∀ target d : Nat, 400000 ≤ target → d < 50 →
    400000 ≤ rateOf target d ∧ rateOf target d ≤ target ∧
    (canLower target d = true → rateOf target (d + 1) = target * (50 - (d + 1)) / 50 ∧ rateOf target (d + 1) < rateOf target d) ∧
    rateOf target 0 = target

/-- A thermal check, once a second, decides a lowering of cause 2 where the hotspot is above 95 °C with the valve wide open or the tray
its owner; a restore, every 100 ms, takes one level back where R386 allows it, uncounted, and in a system the master sends it; there a lowering is asked for upstream; a written step target takes effect at its step
and keeps the level; a power window above the cap in force decides a lowering of cause 3, and the cap written counts from the next window
(R343, R383, R386 to R388). Where a row's conditions do not hold the state is unchanged, which is the model's choice (log 2). It rests in part
on choices of the model (log 63). -/
def Claim.RateFollowsHeatAndPower : Prop :=
  ∀ (s : State) (at_ target mean : Nat),
    let p := s.pace
    let dl := (s.now / 16384 + 2) * 16384
    let hot := 1520 < s.cool.hotspot ∧ (s.cool.owner = 1 ∨ s.cool.duty = 100000)
    let room := canLower p.target (p.level + p.lowerings.length) = true
    (p.running = true → s.rng.restarting = false → p.lastThermal + 1000 ≤ s.nowMs → s.glRun = false →
      (hot → room → exec .thermalCheck s = .next { s with pace := { p with
        lastThermal := s.nowMs, lowerings := p.lowerings ++ [(dl, 2)] } }) ∧
      (¬ hot → exec .thermalCheck s = .next { s with pace := { p with lastThermal := s.nowMs } })) ∧
    (p.lastRestore + 100 ≤ s.nowMs → s.mayRestore = true → s.glRun = false → ∃ t, exec .rateRestore s = .next t ∧
      t.pace = { p with lastRestore := s.nowMs, level := p.level - 1 } ∧ AlertSrc.floorHit ∉ t.rng.alerts) ∧
    (p.lastRestore + 100 ≤ s.nowMs → s.mayRestore = true → s.glRun = true →
      let master := s.isMaster = true ∧ s.gl.rateSets = [] ∧ s.gl.rateReqAt + 1000 ≤ s.nowMs
      let noted : State := { s with pace := { p with lastRestore := s.nowMs } }
      (master → exec .rateRestore s = .next (noted.masterSet (rateOf p.target (p.level - 1)) false)) ∧
      (¬master → exec .rateRestore s = .next noted)) ∧
    (s.mayRestore = false ∨ s.nowMs < p.lastRestore + 100 → exec .rateRestore s = .next s) ∧
    (p.running = true → s.rng.restarting = false → p.lastThermal + 1000 ≤ s.nowMs → s.glRun = true → s.isMaster = false → hot →
      canLower p.target p.level = true → ∀ up, s.upstream = some up → exec .thermalCheck s =
        .next (({ s with pace := { p with lastThermal := s.nowMs } } : State).sendSym up 0x40 (s.ownId % 16384 * 2 ^ 226))) ∧
    (p.running = false ∨ s.rng.restarting = true ∨ s.nowMs < p.lastThermal + 1000 → exec .thermalCheck s = .next s) ∧
    (p.targetAt = some (at_, target) → at_ ≤ s.now →
      exec .stepTargetApply s = .next { s with pace := { p with targetAt := none, target := target } }) ∧
    (p.targetAt = some (at_, target) → s.now < at_ → exec .stepTargetApply s = .next s) ∧
    (s.pwr.phase = .good → s.pwr.winEnd + 10 ≤ s.nowMs → s.rng.restarting = false → s.glRun = false → ∃ t,
      exec (.powerWindowEnd mean) s = .next t ∧ t.pwr.inputW = mean ∧ t.pwr.windows.getLast? = some mean ∧
      (s.pwr.cap < mean → p.running = true → room → t.pace = { p with lowerings := p.lowerings ++ [(dl, 3)] }) ∧
      (mean ≤ s.pwr.cap → t.pace = p) ∧
      (∀ v, Sparse.get [] s.dict.val 0x200200 = leBytes 4 v → v < 2 ^ 32 → t.pwr.cap = v))

/-- The end of a loop period: the hotspot is the largest corrected sensor, u follows the control law, the duty moves by at most 1 % of
full scale, a flow below 4 L/min sets alert bit 0 and ALERT_N, and under tray ownership the duty stays (R391 to R394). THERMTRIP_N stays
until every sensor is below 100 °C and MOD_RESET_N has fallen (R395). It rests in part on choices of the model (log 34, 65, 70). -/
def Claim.CoolantLoopRuns : Prop :=
  ∀ (s : State) (r : CoolReading),
    let at_ := fun (i : Nat) => r.dies.getD i 0 + signedOf 32 (leNat (s.calValue 0xA001 (i + 1)))
    let c := s.cool
    let owner := leNat (s.dictVal 0x201000 [0])
    let target : Int := leNat (s.dictVal 0x201100 [85])
    (r.dies.length ≠ 64 → exec (.loopPeriodEnd r) s = .fault .illFormed) ∧
    (r.dies.length = 64 → s.pwr.phase = .good → s.rng.boot ≠ .held → s.rng.restarting = false → s.pwr.goodAt + 100 ≤ s.nowMs →
      ∃ t, exec (.loopPeriodEnd r) s = .next t ∧ t.pace = s.pace ∧ t.mem = s.mem ∧ t.cores = s.cores ∧
        (t.pwr.thermTrip = true ↔ s.pwr.thermTrip = true ∧ (s.pwr.tripReset = false ∨ ∃ x ∈ r.dies, 1600 ≤ x)) ∧
        (∀ i < 64, at_ i ≤ t.cool.hotspot) ∧ (∃ i < 64, at_ i = t.cool.hotspot) ∧ t.cool.first = false ∧ t.cool.owner = owner ∧
        (owner = 0 → c.owner = 0 → c.first = false → ∀ e0, c.e = some e0 →
          t.cool.u = min (max (c.u + 8 * ((t.cool.hotspot - 16 * target) - e0) + (t.cool.hotspot - 16 * target)) 0) 3200) ∧
        (owner = 0 → c.owner = 0 → c.first = false → r.inlet.isSome = true → r.outlet.isSome = true → r.flow.isSome = true →
          c.missed = [0, 0, 0] → t.cool.duty ≤ c.duty + 1000 ∧ c.duty ≤ t.cool.duty + 1000) ∧
        (owner = 1 → c.owner = 1 → c.first = false → t.cool.duty = c.duty ∧ t.cool.u = c.u) ∧
        (∀ f, r.flow = some f → f < 4000 → t.cool.alert.getLsbD 0 = true ∧ AlertSrc.cool ∈ t.rng.alerts) ∧
        (r.inlet = none → 2 ≤ c.missed.getD 0 0 → t.cool.alert.getLsbD 2 = true ∧ (owner = 0 → t.cool.duty = 100000)))

/-- A thermal trip turns D1 to D43 off, stops the pacers, loses the open results and halts a running pack; a domain request takes effect
in every domain but D0, and of a degraded module not in D2 to D41 (R390, R395, R474, R476). Where a row's conditions do not hold the state is unchanged, which is the model's choice
(log 2). It rests in part on choices of the model (log 48, 64). -/
def Claim.DomainsChange : Prop :=
  ∀ s : State,
    (s.pwr.phase = .good → s.pwr.thermTrip = false → ∃ t, exec .thermalTrip s = .next t ∧ t.pwr.thermTrip = true ∧
      t.pwr.trips = s.pwr.trips + 1 ∧ (∀ d, 1 ≤ d → d < 44 → t.pwr.domains.getD d 0 = 0) ∧
      t.pwr.domains.getD 0 0 = s.pwr.domains.getD 0 0 ∧ t.pace.running = false ∧ t.log.open_ = [] ∧ t.out = s.out ∧
      (s.pack.state = .running → t.pack.state = .halted)) ∧
    (s.pwr.thermTrip = true ∨ s.pwr.phase ≠ .good → exec .thermalTrip s = .next s) ∧
    (∀ want at_, s.pwr.domReq = some (want, at_) → want.length = 44 → s.pwr.domains.length = 44 →
      s.pwr.thermTrip = false → s.rng.fabReset = false → ∃ t, exec .domainTransition s = .next t ∧ t.pwr.domReq = none ∧
        t.pwr.domains.getD 0 0 = s.pwr.domains.getD 0 0 ∧ (∀ d, 1 ≤ d → d < 44 →
          t.pwr.domains.getD d 0 = if s.rng.degraded = true ∧ 2 ≤ d ∧ d ≤ 41 then s.pwr.domains.getD d 0 else want.getD d 0)) ∧
    (s.pwr.thermTrip = true ∨ s.rng.fabReset = true → exec .domainTransition s = .next s) ∧
    (s.pwr.domReq = none → exec .domainTransition s = .next s)

/-! ## Power and start-up -/

/-- Charging begins when both the enable and the input are there; PWR_GOOD begins a cold start, in which everything but the flash is as at
reset, or holds Ranger while MOD_RESET_N is low; the fall of the enable and a trip of the input power down, and 200 ms later the next rise
may follow (R462, R469, R489 to R491, R493). Where a row's conditions do not hold the state is unchanged, which is the model's choice (log
2). It rests in part on choices of the model (log 13, 51). -/
def Claim.PowerComesAndGoes : Prop :=
  ∀ (s : State) (straps : Straps),
    let charged := { s.pwr with phase := .charging, chargeAt := s.nowMs }
    (s.pwr.phase = .off → s.pwr.inRange = true → exec .pwrEnRise s = .next { s with pwr := { charged with pwrEn := true } }) ∧
    (s.pwr.phase = .off → s.pwr.inRange = false → exec .pwrEnRise s = .next { s with pwr := { s.pwr with pwrEn := true } }) ∧
    (s.pwr.phase = .off → s.pwr.pwrEn = true → exec .inputInRange s = .next { s with pwr := { charged with inRange := true } }) ∧
    (s.pwr.phase = .off → s.pwr.pwrEn = false → exec .inputInRange s = .next { s with pwr := { s.pwr with inRange := true } }) ∧
    (s.pwr.phase = .charging → s.pwr.chargeAt + 1000 ≤ s.nowMs → exec .pwrGoodRetry s = .next { s with pwr := charged }) ∧
    (s.pwr.phase = .charging → s.nowMs ≤ s.pwr.chargeAt + 100 → ∃ t, exec (.pwrGoodRise straps) s = .next t ∧
      t.pwr.phase = .good ∧ t.pwr.goodAt = s.nowMs ∧ t.pwr.straps = straps ∧ t.pwr.domains.getD 0 0 = 2 ∧
      (∀ d, 1 ≤ d → t.pwr.domains.getD d 0 = 0) ∧ t.mem.bytes = [] ∧ t.mem.side = [] ∧ t.dict.stored = s.dict.stored ∧
      t.dict.val = s.dict.stored ∧ t.rng.sessions = [] ∧ t.pack.state = .none ∧ t.wimg.hash = 0 ∧ t.fw.flash = s.fw.flash ∧
      (∀ p < 12, (t.gport p).state = if t.portEnabled p then 1 else 0) ∧
      (s.pwr.modResetLow = false → t.rng.boot = .rom ∧ t.pace.running = true) ∧
      (s.pwr.modResetLow = true → t.rng.boot = .held ∧ t.pace.running = false)) ∧
    (s.pwr.phase = .good → s.rng.store = none → ∃ a b c : State, exec .pwrEnFall s = .next a ∧ exec .undervoltageTrip s = .next b ∧
      exec .overvoltageTrip s = .next c ∧ a.pwr.pwrEn = false ∧ b.pwr.inRange = false ∧
      c = b ∧ ∀ t ∈ [a, b], t.pwr.phase = .down ∧ t.pwr.downAt = s.nowMs ∧ t.mem.bytes = [] ∧ t.dict.stored = s.dict.stored ∧
        t.fw.flash = s.fw.flash ∧ t.rng.boot = .unpowered ∧ t.cores.eng = [] ∧ t.pending = s.pending) ∧
    (s.pwr.phase = .charging → exec .pwrEnFall s = .next { s with pwr := { s.pwr with pwrEn := false, phase := .off } }) ∧
    (s.pwr.phase = .down → s.pwr.downAt + 200 ≤ s.nowMs → s.pwr.pwrEn = false →
      exec .powerDownHoldEnd s = .next { s with pwr := { s.pwr with phase := .off } }) ∧
    (s.pwr.phase = .down → s.nowMs < s.pwr.downAt + 200 → exec .powerDownHoldEnd s = .next s)

/-- A module reset samples the straps, holds Ranger and turns D1 to D43 off, loses sessions, packs, cores and what is not stored, and
keeps LPDDR6, WIMG_HASH and the flash; the timeline runs from the rise of MOD_RESET_N (R465, R466, R469, R492, R493). It rests in part on
choices of the model (log 4, 51). -/
def Claim.ModuleResetKeepsTheImage : Prop :=
  ∀ (s : State) (straps : Straps), s.pwr.phase = .good → s.rng.store = none →
    (∃ t, exec (.modResetNFall straps) s = .next t ∧ t.rng.boot = .held ∧ t.pwr.straps = straps ∧ t.pwr.modResetLow = true ∧
      t.pwr.domains = 2 :: List.replicate 43 0 ∧ t.rng.sessions = [] ∧ t.pack.state = .none ∧ t.pack.installed = [] ∧
      t.wimg.hash = s.wimg.hash ∧ t.wimg.state = s.wimg.state ∧ t.dict.stored = s.dict.stored ∧ t.dict.val = s.dict.stored ∧
      t.dict.staged = s.dict.calStored ∧ t.dict.cal = s.dict.calStored ∧ t.fw.flash = s.fw.flash ∧ t.dict.ownerKey = s.dict.ownerKey ∧
      (∀ x, x < 0x8000000000 → t.mem.byte x = s.mem.byte x) ∧ (∀ x, 0x8000000000 ≤ x → x < 0x40000000000 → t.mem.byte x = 0) ∧
      t.log.epoch = s.log.epoch ∧ t.log.ring = [] ∧ t.cores.eng = [] ∧ t.out = s.out) ∧
    (s.rng.boot = .held → ∃ t, exec .modResetNRise s = .next t ∧ t.rng.boot = .rom ∧ t.pwr.goodAt = s.nowMs ∧
      t.pwr.modResetLow = false ∧ t.pace.running = true ∧ t.mem = s.mem) ∧
    (s.rng.boot ≠ .held → exec .modResetNRise s = .next { s with pwr := { s.pwr with modResetLow := false } })

/-- The timeline after PWR_GOOD: from 40 ms the ROM boots an image that passes its checks or enters the recovery loader, from 150 ms
identity is read, a domain ramps at its time, from 1,400 ms, with every channel trained, all parameters are served, and port 48231 serves
once Basecamp is ready, from 6,000 ms on (R416, R453, R457, R462, R463). Where a row's conditions do not hold the state is unchanged, which is the model's
choice (log 2). It rests in part on choices of the model (log 53). -/
def Claim.TimelineGoesOn : Prop :=
  ∀ (s : State) (d : Fin 44),
    (s.rng.boot = .rom → s.pwr.goodAt + 40 ≤ s.nowMs →
      (fwCheck s.fw.counter s.flashImage = none → exec .firmwareBootCheck s = .next { s with
        rng := { s.rng with boot := .running }, fw := { s.fw with version := slice s.flashImage 0x10 32 } }) ∧
      (∀ code, fwCheck s.fw.counter s.flashImage = some code → exec .firmwareBootCheck s = .next { s with
        rng := { s.rng with boot := .recovery }, fw := { s.fw with recBlock := 0, recBuf := [], recZero := [] } })) ∧
    (s.nowMs < s.pwr.goodAt + 40 → exec .firmwareBootCheck s = .next s) ∧
    (s.rng.boot = .running → s.rng.level = 0 → s.pwr.goodAt + 150 ≤ s.nowMs →
      exec .observerAccessStart s = .next { s with rng := { s.rng with level := 1 } }) ∧
    (s.mayRamp d.val = true → ∃ t, exec (.domainRamp d) s = .next t ∧
      (s.pwr.domains.length = 44 → t.pwr.domains.getD d.val 0 = 2) ∧
      (∀ x, x ≠ d.val → t.pwr.domains.getD x 0 = s.pwr.domains.getD x 0) ∧ t.mem = s.mem ∧ t.cores.seq = s.cores.seq) ∧
    (s.nowMs < s.pwr.goodAt + rampAt d.val → exec (.domainRamp d) s = .next s) ∧
    (s.rng.level = 1 → s.pwr.goodAt + 1400 ≤ s.nowMs → (∀ k < 256, (s.chan k).trained = true ∨ (s.chan k).failed = true) →
      exec .fullParameterService s = .next { s with
        rng := { s.rng with level := 2 }, fw := { s.fw with counter := max s.fw.counter (fwSvn (s.flashBlock 0)) } }) ∧
    (s.rng.level = 2 → s.pwr.domains.getD 1 0 = 2 → s.pwr.goodAt + 6000 ≤ s.nowMs →
      exec .basecampReady s = .next { s with rng := { s.rng with baseReady := true } }) ∧
    (s.rng.level ≠ 2 ∨ s.nowMs < s.pwr.goodAt + 6000 → exec .basecampReady s = .next s)

/-- A restart of Ranger closes every session and cuts its store short, with the fabric as it was; the fourth within 600 s leaves the
module degraded; a restart of Basecamp halts a running pack and loses the open results without a RESULT (R402, R404, R475, R476). It rests
in part on choices of the model (log 51). -/
def Claim.RestartsOfTheProcessors : Prop :=
  ∀ (s : State) (cause : RestartCause),
    let recent := s.rng.restarts.filter fun t => s.nowMs < t + 600000
    (s.rng.boot = .running → s.rng.restarting = false →
      (recent.length < 3 → ∃ t, exec (.rangerRestart cause) s = .next t ∧ t.rng.restarting = true ∧ t.rng.sessions = [] ∧
        t.rng.store = none ∧ t.rng.rxq = [] ∧ t.rng.restartCount = s.rng.restartCount + 1 ∧ t.dict.stored = s.dict.stored ∧
        t.cores = s.cores ∧ t.mem = s.mem ∧ t.pack = s.pack ∧ t.pwr = s.pwr ∧ (s.cool.owner ≠ 1 → t.cool.duty = 100000)) ∧
      (3 ≤ recent.length → ∃ t, exec (.rangerRestart cause) s = .next t ∧ t.rng.degraded = true ∧ t.rng.sessions = [] ∧
        AlertSrc.rangerRestarts ∈ t.rng.alerts ∧ t.log.open_ = [] ∧ (∀ d, 2 ≤ d → d ≤ 41 → t.pwr.domains.getD d 0 = 0))) ∧
    exec .rangerRestartDone s = .next { s with rng := { s.rng with restarting := false } } ∧
    (s.rng.boot = .running → s.rng.restarting = false → s.pwr.domains.getD 1 0 = 2 → ∃ t, exec .basecampHeartbeatMiss s = .next t ∧
      t.rng.baseReady = false ∧ t.rng.baseRestarts = s.rng.baseRestarts + 1 ∧ t.log.open_ = [] ∧ t.out = s.out ∧
      (s.pack.state = .running → t.pack.state = .halted) ∧ (s.pack.state ≠ .running → t.pack = s.pack ∧ t.cores = s.cores ∧ t.mem = s.mem))

/-! ## The management port -/

/-- READ answers the value of an entry, SEGMENT READ at most 1,024 bytes of it from its offset; a read of a write-only or command entry,
of another TYPE or with data, of an entry that does not exist or above the session's role is answered with the code of R428's first
failing check, and nothing of the entry changes. A read of a core's control block, while its domain is on, asks the core for its registers
over the Whistle and waits (R266, R409, R413, R426 to R428, R435). It rests in part on choices of the model (log 37, 98). -/
def Claim.Reads : Prop :=
  ∀ (s : State) (index : W16) (o : OpReq),
    let key := index.toNat * 256 + o.sub.toNat
    let u := s.touch o
    let shown := State.coreRegs key = none ∨ s.pwr.domains.getD 2 0 ≠ 2
    let core : CoreId := BitVec.ofNat 11 s.dict.coreSelect.toNat
    s.serves o 0 → index < 0xF000 →
    (s.entry key = none → exec (.read index o) s = .next (u.answered o 0x0102 [])) ∧
    (∀ e, s.entry key = some e →
      (e.acc = .wo ∨ e.acc = .cmd → exec (.read index o) s = .next (u.answered o 0x0105 [])) ∧
      (e.acc ≠ .wo → e.acc ≠ .cmd →
        (∀ k, s.sessionOf o.sid = some k → k.role.code < e.rd → exec (.read index o) s = .next (u.answered o 0x0101 [])) ∧
        (s.serves o e.rd → o.typ ≠ 0 → o.typ ≠ e.typ → exec (.read index o) s = .next (u.answered o 0x0201 [])) ∧
        (s.serves o e.rd → (o.typ = 0 ∨ o.typ = e.typ) → o.data ≠ [] → exec (.read index o) s = .next (u.answered o 0x0202 [])) ∧
        (s.serves o e.rd → (o.typ = 0 ∨ o.typ = e.typ) → o.data = [] →
          (shown → (u.readEntry o.sid key).length ≤ 1392 → exec (.read index o) s = .next (u.answered o 0 (u.readEntry o.sid key))) ∧
          (shown → 1392 < (u.readEntry o.sid key).length → exec (.read index o) s = .next u) ∧
          (shown → e.typ = tBlob → exec (.segmentRead index o) s =
            .next (u.answered o 0 (((u.readEntry o.sid key).drop o.offset.toNat).take 1024))) ∧
          (e.typ ≠ tBlob → exec (.segmentRead index o) s = .next (u.answered o 0x0201 [])) ∧
          (∀ off more n, State.coreRegs key = some (off :: more, n) → s.pwr.domains.getD 2 0 = 2 →
            exec (.read index o) s = .next ((u.askCore core off).beginStore (.coreRead core (off :: more) [] n none)
              (.single { op := opRead, index, o })) ∧
            (e.typ = tBlob → exec (.segmentRead index o) s = .next ((u.askCore core off).beginStore
              (.coreRead core (off :: more) [] n (some o.offset.toNat)) (.single { op := opSegRead, index, o })))))))

/-- The vendor range is refused with 0x0101 except in a Vendor session, where its entries are not published and the model stops (R442). It
rests in part on choices of the model (log 68). -/
def Claim.VendorRange : Prop :=
  ∀ (s : State) (index : W16) (o : OpReq), 0xF000 ≤ index →
    (s.serves o 0 → exec (.read index o) s = .next ((s.touch o).answered o 0x0101 [])) ∧
    (s.listening = true → s.storing? = false → s.rng.level = 2 → s.fwBusy = false → o.sid ≠ 0 →
      ∀ k, s.sessionOf o.sid = some k → k.confirmed = true → k.role = .vendor → exec (.read index o) s = .refused .vendorRange)

/-- A REQUEST outside a session that reads one Observer entry is answered with a RESPONSE that repeats its MSEQ and holds the value; what
is no message, or comes while Ranger does not listen, is dropped; while a store is in progress it waits (R407, R410, R411, R416). Where a
row's conditions do not hold the state is unchanged, which is the model's choice (log 2). It rests in part on choices of the model (log
37). -/
def Claim.RequestsAreAnswered : Prop :=
  ∀ (s : State) (peer : Peer) (bytes : List Byte) (h : Holdup) (m : Msg) (x : Op) (e : DEntry),
    (s.listening = false → exec (.request peer bytes h) s = .next s) ∧
    (parseMsg bytes = none → exec (.request peer bytes h) s = .next s) ∧
    (s.listening = true → parseMsg bytes = some m → m.typ = 0x01 → s.storing? = true → s.rng.rxq.length < 256 →
      exec (.request peer bytes h) s = .next { s with rng := { s.rng with rxq := s.rng.rxq ++ [.msg peer bytes] } }) ∧
    (s.listening = true → parseMsg bytes = some m → m.typ = 0x01 → s.storing? = false → m.sid = 0 →
      parseOps 0 false 32 m.body = some [x] → x.op = opRead → x.index < 0xF000 → s.rng.level = 2 → s.fwBusy = false → s.rng.closeDue = false →
      s.sessionOf 0 = none → s.entry x.key = some e → e.acc ≠ .wo → e.acc ≠ .cmd → e.rd = 0 → (x.o.typ = 0 ∨ x.o.typ = e.typ) →
      x.o.data = [] → (s.readEntry 0 x.key).length ≤ 1392 →
      exec (.request peer bytes h) s = .next ((({ s with rng := { s.rng with cur := none } } : State).sendPlain peer portKpp 0x02 m.mseq
        (resultBytes 0 0 (s.readEntry 0 x.key))).useAddrs))

/-- OPEN by an authorised key gives a new session number, not yet confirmed; a role or key that is not authorised and a seventeenth
session are refused. CONFIRM with the right signature opens the session, with a wrong one ends the exchange. CLOSE by an authentic message
closes it; a message that fails its trailer, or repeats a number, is dropped and counted. 60 s without an accepted message close it (R413
to R415). Where a row's conditions do not hold the state is unchanged, which is the model's choice (log 2). It rests in part on choices of
the model (log 16, 36). -/
def Obligations.SessionsComeAndGo : Prop :=
  ∀ (s : State) (peer : Peer) (bytes : List Byte) (m : Msg) (role : Role) (k : Session),
    let keyId : BitVec 256 := BitVec.ofNat 256 (beNat (slice m.body 0 32))
    let signed := Config.sm2Verify k.keyId (beBytes 32 (Config.sm3 k.transcript).toNat) (BitVec.ofNat 512 (beNat m.body))
    s.listening = true → s.storing? = false → parseMsg bytes = some m →
    (m.typ = 0x10 → m.sid = 0 → m.body.length = 128 → s.rng.level = 2 →
      (State.roleOf m.role = none → exec (.openSession peer bytes) s = .next (s.openFail peer m.mseq 0x0103 0)) ∧
      (State.roleOf m.role = some role → s.keyMay role keyId = false →
        exec (.openSession peer bytes) s = .next (s.openFail peer m.mseq 0x0103 0)) ∧
      (State.roleOf m.role = some role → s.keyMay role keyId = true → 16 ≤ s.rng.sessions.length →
        exec (.openSession peer bytes) s = .next (s.openFail peer m.mseq 0x0104 0)) ∧
      (State.roleOf m.role = some role → s.keyMay role keyId = true → s.rng.sessions.length < 16 → ∃ t n hd body,
        exec (.openSession peer bytes) s = .next t ∧ t.rng = { s.rng with sessions := s.rng.sessions ++ [n] } ∧ n.sid ≠ 0 ∧
        s.sessionOf n.sid = none ∧ n.role = role ∧ n.keyId = keyId ∧ n.peer = peer ∧ n.confirmed = false ∧ n.bw = none ∧
        t.out = s.out ++ [.kpp peer portKpp hd body []])) ∧
    (m.typ = 0x12 → s.sessionOf m.sid = some k → k.confirmed = false →
      (m.body.length = 64 → signed = true →
        exec (.confirm peer bytes) s = .next (s.setSession { k with confirmed := true, last := s.nowMs })) ∧
      (signed = false →
        exec (.confirm peer bytes) s = .next ((s.closeSession m.sid).openFail peer m.mseq 0x0103 0))) ∧
    (m.typ = 0x13 → s.sessionOf m.sid = some k → k.confirmed = true →
      (openBody k m = none → exec (.close peer bytes) s = .next s.authFailed) ∧
      (∀ b, openBody k m = some b → seqFresh k.rxHigh k.rxSeen m.mseq.toNat = false →
        exec (.close peer bytes) s = .next s.authFailed) ∧
      (∀ b, openBody k m = some b → seqFresh k.rxHigh k.rxSeen m.mseq.toNat = true → ∃ t, exec (.close peer bytes) s = .next t ∧
        t.sessionOf m.sid = none ∧ (∀ n, n ≠ m.sid → t.sessionOf n = s.sessionOf n) ∧
        t = { s with rng := { s.rng with sessions := t.rng.sessions } })) ∧
    (s.sessionOf k.sid = some k → k.last + 60000 ≤ s.nowMs → exec (.sessionIdleTimeout k.sid) s = .next (s.closeSession k.sid)) ∧
    (s.sessionOf k.sid = some k → s.nowMs < k.last + 60000 → exec (.sessionIdleTimeout k.sid) s = .next s)

/-! ## Writes of entries -/

/-- Every row that writes an entry, whole or by a segment: the first check of state and value that fails gives the code and nothing changes;
an RW entry takes effect at once; an RWS entry whose value is the stored one answers at once, else its store begins after the hold-up check,
with the value in force as it was; a challenge makes a report; an enrolment begins its store. A segment puts its bytes into the value stored
or in force, and a malformed length or type is refused (R375, R397, R409, R426, R428, R430, R448, R460). It rests in part on choices of the
model (log 41). -/
def Claim.EntryWrites : Prop :=
  ∀ (i : Instr) (s : State) (index : W16) (o : OpReq) (h : Holdup) (e : DEntry),
    let key := index.toNat * 256 + o.sub.toNat
    let u := s.touch o
    let x := s.writeOp index o
    let v := u.wholeValue x e
    let placed := if key = 0x501000 ∧ x.op = opSegWrite then List.replicate o.offset.toNat 0 ++ o.data else v
    let old := if e.acc = .rws then u.storedOf key else if isCalKey key then u.stagedOf key else u.valueOf key
    entryWrite i = some (index, o, h) → s.serves o e.wr → s.entry key = some e → e.size.isSome = true → index < 0xF000 →
    (e.acc = .rw ∨ e.acc = .rws ∨ e.acc = .wo) →
    (e.size = some o.data.length ∨ e.typ ≠ tBlob → x = writeOf index o ∧ v = o.data) ∧
    (e.size ≠ some o.data.length → e.typ = tBlob → v = old.take o.offset.toNat ++ o.data ++ old.drop (o.offset.toNat + o.data.length)) ∧
    (∀ code, State.checkForm x e = some code → exec i s = .next (u.answered o code [])) ∧
    (State.checkForm x e = none →
    (∀ code, u.checkWrite key placed = some code → exec i s = .next (u.answered o code [])) ∧
    (u.checkWrite key placed = none →
      (e.acc = .rw → key ≠ 0x604100 → exec i s = .next ((u.applyWrite key v).answered o 0 [])) ∧
      (key = 0x604100 → ∀ r, u.ringRecord (leNat v) = some r → r.length ≤ 1392 →
        exec i s = .next ((u.putVal key v).answered o 0 r)) ∧
      (key = 0x704000 → exec i s = .next ((u.attest v).answered o 0 [])) ∧
      (e.acc = .rws → u.storedOf key = v → exec i s = .next (u.answered o 0 [])) ∧
      (e.acc = .rws → u.storedOf key ≠ v → holdCode h 100 = none → ∃ t, exec i s = .next t ∧
        t.rng.store = some (.entry key v, .single x) ∧ t.dict = s.dict ∧ t.out = s.out ∧ t.pace = s.pace ∧
        t.rng.sessions = u.rng.sessions ∧ t.log = s.log) ∧
      (key = 0x700300 → holdCode h 100 = none → ∃ t, exec i s = .next t ∧
        t.rng.store = some (.enrol (enrolKey v), .single x) ∧ t.dict = s.dict ∧ t.out = s.out) ∧
      (∀ code, (e.acc = .rws ∧ u.storedOf key ≠ v ∨ key = 0x700300) → holdCode h 100 = some code → ∃ t, exec i s = .next t ∧
        t.rng.store = none ∧ t.rng.holdRefusals = s.rng.holdRefusals + 1 ∧ t.dict = s.dict ∧ t.out = s.out ++ [.result o code 0 []])))

/-- What an accepted write does: a step target waits for the Damper interval after the next, or goes out as a RATE_SET in a system; a
domain request waits; a calibration entry changes the staged set alone; CORE_CTRL goes out as one message; CORE_SELECT selects; a
partition is in force with empty cache ways; a port enabled is at electrical idle, and one disabled is dark; consent withdrawn closes every
Vendor session; MODULE_ID and the repair maps wait for a reset (R104, R248, R272, R323, R343, R347, R387, R390, R427,
R435, R437). It rests in part on choices of the model (log 97). -/
def Claim.EffectsOfWrites : Prop :=
  ∀ (s : State) (v : List Byte) (key : Nat),
    (s.glRun = false → s.pace.running = true →
      s.applyWrite 0x200100 v = { s.putVal 0x200100 v with pace := { s.pace with targetAt := some (s.dampStep, leNat v) } }) ∧
    (s.glRun = true → s.applyWrite 0x200100 v = (s.putVal 0x200100 v).masterSet (leNat v) false) ∧
    (s.applyWrite 0x203100 v).pwr.domReq = some (v.map (·.toNat), s.nowMs) ∧
    (isCalKey key = true → ∃ d, s.applyWrite key v = { s with dict := d } ∧ d.cal = s.dict.cal ∧ d.calStored = s.dict.calStored ∧
      d.val = s.dict.val ∧ Sparse.get [] d.staged key = v ∧ ∀ k, k ≠ key → Sparse.get [] d.staged k = Sparse.get [] s.dict.staged k) ∧
    (s.applyWrite 0x900100 v).dict.coreSelect = BitVec.ofNat 16 (leNat v) ∧
    (s.applyWrite 0x900300 v = s.whistleSend 4 { typ := 7, src := 0, dst := s.dict.coreSelect.truncate 11, bridge := false,
                                                 body := [0, BitVec.ofNat 32 (leNat v), 0] }) ∧
    (∃ t, t = s.applyWrite 0x301000 v ∧ t.cacheWays = leNat v % 32 ∧ t.pinWays = leNat v / 256 % 32 ∧
      ∀ k, (t.sliceAt k).lines = []) ∧
    (∀ p < 12, (s.applyWrite 0x501200 v).gport p = if (leNat v).testBit p = (leNat (s.valueOf 0x501200)).testBit p then s.gport p
      else { GPort.reset with state := if (s.putVal 0x501200 v).portEnabled p then 1 else 0, delay := (s.gport p).delay }) ∧
    (leNat v = 0 → ∀ k ∈ (s.applyWrite 0x702000 v).rng.sessions, k.role ≠ .vendor) ∧
    (key = 0x100006 ∨ key = 0x302000 ∨ key = 0x302100 → s.applyWrite key v = s)

/-- A store that completes is answered, its value is stored and in force, and no other stored value changes; an enrolment changes the
owner and closes every session; CAL_STORE keeps the staged set for the next reset (R410, R430, R438, R448, R367). A read of a control
block goes on register by register as the core's answers come, and ends with the last (R266, R435). Where a row's conditions
do not hold the state is unchanged, which is the model's choice (log 2). It rests in part on choices of the model (log 51, 98). -/
def Claim.StoresComplete : Prop :=
  ∀ (s : State) (h : Holdup) (x : Op), s.rng.rxq = [] → s.rng.closeDue = false →
    (s.rng.store = none → exec (.parameterStoreDone h) s = .next s) ∧
    (∀ key v, s.rng.store = some (.entry key v, .single x) → key ∈ rwsKeys → ∃ t, exec (.parameterStoreDone h) s = .next t ∧
      t.rng.store = none ∧ t.out.getLast? = some (.result x.o 0 0 []) ∧ Sparse.get [] t.dict.stored key = v ∧
      (∀ k, k ≠ key → Sparse.get [] t.dict.stored k = Sparse.get [] s.dict.stored k) ∧
      (key ≠ 0x100006 → key ≠ 0x302000 → key ≠ 0x302100 → Sparse.get [] t.dict.val key = v) ∧
      (key = 0x100006 ∨ key = 0x302000 ∨ key = 0x302100 → t.dict.val = s.dict.val) ∧
      (key = 0x602000 → s.turnsLogOn v = true → t.log.epoch = s.log.epoch + 1 ∧ t.log.count = 0) ∧ t.mem = s.mem) ∧
    (∀ n, s.rng.store = some (.enrol n, .single x) → ∃ t, exec (.parameterStoreDone h) s = .next t ∧ t.dict.ownerKey = n ∧
      t.rng.sessions = [] ∧ t.pack.state = .none ∧ t.pack.installed = [] ∧ t.wimg.hash = 0 ∧ t.wimg.state = 0 ∧
      t.out = s.out ++ [.result x.o 0 0 []]) ∧
    (s.rng.store = some (.cal, .single x) → ∃ t, exec (.parameterStoreDone h) s = .next t ∧ t.dict.calStored = s.dict.staged ∧
      t.dict.cal = s.dict.cal ∧ t.dict.stored = s.dict.stored) ∧
    (∀ c off left got n seg, s.rng.store = some (.coreRead c (off :: left) got n seg, .single x) →
      (s.coreReply c off = none → exec (.parameterStoreDone h) s = .next s) ∧
      (∀ m, s.coreReply c off = some m →
        let more := got ++ leBytes n ((m.body.getD 1 0).toNat + (m.body.getD 2 0).toNat * 2 ^ 32)
        let taken : State := { s with whistle := { s.whistle with bridge := s.whistle.bridge.filter fun y => y.typ ≠ 8 } }
        (left = [] → ∃ t, exec (.parameterStoreDone h) s = .next t ∧ t.rng.store = none ∧ t.whistle = taken.whistle ∧
          t.out = s.out ++ [.result x.o 0 0 (State.cutRead seg more)] ∧ t.dict = s.dict ∧ t.cores = s.cores) ∧
        (∀ next rest, left = next :: rest → exec (.parameterStoreDone h) s =
          .next (({ taken with rng := { s.rng with store := some (.coreRead c left more n seg, .single x) } } : State).askCore c next)))) ∧
    (s.rng.store = some (.epochRoll, .nobody) → ∃ t, exec (.parameterStoreDone h) s = .next t ∧ t.log.epoch = s.log.epoch + 1 ∧
      t.log.count = 0 ∧ t.out = s.out ∧ AlertSrc.epochWait ∉ t.rng.alerts)

/-- PARAM_DEFAULTS, refused while a pack runs, makes one store; with it every RWS entry of 0x1000 to 0x6000 and 0x8000 to 0x9000 has its
default stored, and a changed one takes effect as a write of it does; the 0x7000 and 0xA000 ranges, the stored counters and LOGBOOK_EPOCH
are kept (R432). -/
def Obligations.ParameterDefaults : Prop :=
  ∀ (s : State) (o : OpReq) (h : Holdup) (x : Op),
    (s.serves o 2 → o.sub = 0 → o.typ = 0 → o.data = [] →
      (s.isRunning = true → exec (.paramDefaults o h) s = .next ((s.touch o).answered o 0x0305 [])) ∧
      (s.isRunning = false → holdCode h 100 = none → ∃ t, exec (.paramDefaults o h) s = .next t ∧
        t.rng.store = some (.defaults, .single (commandOf 0x1020 o)) ∧ t.dict = s.dict ∧ t.out = s.out)) ∧
    (s.rng.rxq = [] → s.rng.closeDue = false → s.rng.store = some (.defaults, .single x) → ∃ t,
      exec (.parameterStoreDone h) s = .next t ∧ t.rng.store = none ∧
      (∀ key ∈ rwsKeys, (key < 0x700000 ∨ 0x800000 ≤ key) → t.storedOf key = s.entryDefault key ∧
        (s.storedOf key ≠ s.entryDefault key → key ≠ 0x100006 → key ≠ 0x302000 → key ≠ 0x302100 →
          Sparse.get [] t.dict.val key = s.entryDefault key)) ∧
      (∀ k, 0x700000 ≤ k → Sparse.get [] t.dict.stored k = Sparse.get [] s.dict.stored k) ∧
      (s.storedOf 0x200100 ≠ s.entryDefault 0x200100 → s.glRun = false → s.pace.running = true →
        t.pace.targetAt = some (s.dampStep, leNat (s.entryDefault 0x200100))) ∧
      t.dict.ownerKey = s.dict.ownerKey ∧ t.dict.cal = s.dict.cal ∧ t.dict.staged = s.dict.staged ∧ t.dict.calStored = s.dict.calStored ∧
      t.log = s.log ∧ t.rng.restartCount = s.rng.restartCount ∧ t.rng.baseRestarts = s.rng.baseRestarts ∧
      t.rng.holdRefusals = s.rng.holdRefusals ∧ t.pwr.trips = s.pwr.trips ∧ t.out.getLast? = some (.result x.o 0 0 []))

/-- While a firmware update is in progress WRITEs of RWS entries, and every COMMAND but FW_INSTALL, are refused with 0x0304 and change
nothing in force; reads, and writes of RW entries, meet no such refusal (R431). -/
def Obligations.UpdateRefusesStores : Prop :=
  ∀ (s : State) (x : Op) (h : Holdup), s.rng.level = 2 → s.fwBusy = true →
    ((x.op = opCommand ∧ x.key ≠ 0x705100) ∨ ((x.op = opWrite ∨ x.op = opSegWrite) ∧ s.isRws x.key = true) →
      ∃ a, s.runOp x h = some a ∧ a.status = 0x0304 ∧ a.job = none ∧ a.data = [] ∧
        a.s = { s with rng := { s.rng with sessions := a.s.rng.sessions } }) ∧
    (x.op = opCommand → x.key = 0x705100 → s.checkReady x = none) ∧
    (x.op = opRead ∨ x.op = opSegRead → s.checkReady x = none) ∧
    (x.op = opWrite ∨ x.op = opSegWrite → (∃ e, s.entry x.key = some e ∧ e.acc = .rw) → s.checkReady x = none)

/-! ## Bundle writes -/

/-- BW_OPEN begins a bundle; a write in it is held, at its entry's place or at the end, and the value in force stays; BW_COMMIT makes
every member take effect, in order, or, with a stored member, begins one store; a bundle in which a write has failed answers 0x0610 with
nothing in force changed; BW_ABORT drops it; without one BW_COMMIT and BW_ABORT answer 0x0611 (R439, R440). It rests in part on choices of
the model (log 38). -/
def Claim.BundleWrites : Prop :=
  ∀ (s : State) (o : OpReq) (h : Holdup) (k : Session) (b : BWrite),
    let k' : Session := { k with enc := o.enc, last := s.nowMs }
    let closed := s.setSession { k' with bw := none }
    s.sessionOf o.sid = some k → o.typ = 0 →
    (s.serves o 1 → o.data = [] → o.sub = 0 →
      exec (.bwOpen o) s = .next ((s.setSession { k' with bw := some { members := [], failed := false } }).answered o 0 []) ∧
      exec (.bwCommit o h) s = .next ((s.touch o).answered o 0x0611 []) ∧
      exec (.bwAbort o) s = .next ((s.touch o).answered o 0x0611 [])) ∧
    (s.servesIn o 1 (some b) → o.data = [] → o.sub = 0 →
      exec (.bwAbort o) s = .next (closed.answered o 0 []) ∧
      exec (.bwOpen o) s = .next ((s.touch o).answered o 0x0611 []) ∧
      (b.failed = true → exec (.bwCommit o h) s = .next (closed.answered o 0x0610 [])) ∧
      (b.failed = false → (s.touch o).recheck b.members = none → (∀ m ∈ b.members, s.isRws m.1 = false) →
        exec (.bwCommit o h) s = .next ((b.members.foldl (fun s m => s.applyWrite m.1 m.2) closed).answered o 0 [])) ∧
      (b.failed = false → (s.touch o).recheck b.members = none → (∃ m ∈ b.members, s.isRws m.1 = true) → holdCode h 100 = none →
        ∃ t, exec (.bwCommit o h) s = .next t ∧ t.rng.store = some (.bundle o.sid b.members, .single (commandOf 0xB002 o)) ∧
        t.dict = s.dict ∧ t.out = s.out)) ∧
    (∀ index e, let key := index.toNat * 256 + o.sub.toNat
      s.servesIn o e.wr (some b) → index < 0xF000 → s.entry key = some e → (e.acc = .rw ∨ e.acc = .rws) → e.size = some o.data.length →
      State.heldBytes b key o.data.length ≤ 4096 → b.members.length < 16 → ((s.touch o).stateCheck key o.data = none) →
      (s.touch o).valueCheck key o.data = none →
      exec (.registerWrite index o h) s =
        .next ((s.setSession { k' with bw := some { b with members := State.putMember key o.data b.members } }).answered o 0 []))

/-! ## Images -/

/-- A segment at offset 0 begins an image, one at the image's end continues it, and another is refused with 0x0202: for packs, for
firmware and for weight-image manifests; the data goes to the store of its own image (R302, R409, R434, R454). It rests in part on choices
of the model (log 45). -/
def Claim.ImageSegments : Prop :=
  ∀ (i : Instr) (s : State) (index : W16) (o : OpReq) (image : List Byte),
    let u := s.touch o
    let at_ := o.offset.toNat
    imageRow i = some (index, o) → o.sub = 0 → s.serves o 2 → o.data.length ≤ 1024 → (o.typ = 0 ∨ o.typ = 0x09) →
    (index = 0x8000 → segmentOf s.pack.image true at_ o.data = some image → image.length ≤ 2 ^ 32 →
      exec i s = .next (({ u with pack := { u.pack with image } } : State).answered o 0 [])) ∧
    (index = 0x8000 → at_ ≠ 0 → at_ ≠ s.pack.image.length → exec i s = .next (u.answered o 0x0202 [])) ∧
    (index = 0x7050 → segmentOf s.fw.staging (s.fw.state = 1 || s.fw.state = 2) at_ o.data = some image → image.length ≤ 67108864 →
      exec i s = .next (({ u with fw := { u.fw with staging := image, state := 1 } } : State).answered o 0 [])) ∧
    (index = 0x8011 → segmentOf s.wimg.manifest true at_ o.data = some image → s.isRunning = false →
      exec i s = .next (({ u with wimg := { u.wimg with manifest := image } } : State).answered o 0 [])) ∧
    ((index = 0x8011 ∨ index = 0x8012) → at_ = 0 → s.isRunning = true → exec i s = .next (u.answered o 0x0305 []))

/-- WIMG_DATA at offset 0 under a good manifest begins receiving with the hash at zero, and goes on at the image's end; a bad manifest's code
is the answer and nothing changes, and a segment elsewhere is refused with 0x0202. A whole parcel of it goes to its home slice as one write,
with the lines that the slice holds, where the image's map is the one in force, and else to its channel. WIMG_LOAD of a whole image begins
hashing; the hash completes to INSTALLED, or to REFUSED with 0x0722 where it is not the one expected (R274, R409, R434, R450, R451). Where a
row's conditions do not hold the state is unchanged, which is the model's choice (log 2). It rests in part on choices of the model (log 45,
48, 96). -/
def Claim.WeightImages : Prop :=
  ∀ (s w : State) (o : OpReq) (d : BitVec 256) (ch at_ off : Nat) (r : Nat × Nat) (rest : List (Nat × Nat)),
    let u := s.touch o
    let m := s.wimg.manifest
    let a := r.1 + off
    (s.serves o 2 → o.sub = 0 → (o.typ = 0 ∨ o.typ = 0x09) → o.data.length ≤ 1024 → s.isRunning = false →
      (o.offset = 0 → ∀ code, wmCheck s.dict.ownerKey m = some code → exec (.wimgData o) s = .next (u.answered o code [])) ∧
      (o.offset = 0 → wmCheck s.dict.ownerKey m = none → exec (.wimgData o) s = .next ((({ u with
        wimg := { s.wimg with cur := m, data := o.data, state := 1, hash := 0 } } : State).loadSegment 0 o.data).answered o 0 [])) ∧
      (o.offset ≠ 0 → s.wimg.state = 1 → o.offset.toNat = s.wimg.data.length → exec (.wimgData o) s = .next ((({ u with
        wimg := { s.wimg with data := s.wimg.data ++ o.data } } : State).loadSegment o.offset.toNat o.data).answered o 0 [])) ∧
      (o.offset ≠ 0 → (s.wimg.state ≠ 1 ∨ o.offset.toNat ≠ s.wimg.data.length) →
        exec (.wimgData o) s = .next (u.answered o 0x0202 []))) ∧
    (wmList w.wimg.cur = r :: rest → off + 32 ≤ r.2 → a % 32 = 0 →
      (w.mm.map = wmMap w.wimg.cur → w.loadSegment off (parcelBytes d) = w.loadWrite []
        { wr := true, addr := a, mask := 2 ^ 64 - 1, data := d.toNat, poison := false, cclass := 0, check := none, who := .nobody }) ∧
      (w.mm.map ≠ wmMap w.wimg.cur → lpddrAt (wmMap w.wimg.cur) a = some (ch, at_) → ∃ t, t = w.loadSegment off (parcelBytes d) ∧
        t = { w with mem := t.mem } ∧ (∀ i < 32, t.mem.byte (ch * 0x80000000 + at_ + i) = d.extractLsb' (8 * i) 8) ∧
        (∀ x, x < ch * 0x80000000 + at_ ∨ ch * 0x80000000 + at_ + 32 ≤ x → t.mem.byte x = w.mem.byte x))) ∧
    (s.serves o 2 → o.sub = 0 → o.typ = 0 → o.data = [] →
      (s.isRunning = true → exec (.wimgLoad o) s = .next (u.answered o 0x0305 [])) ∧
      (s.isRunning = false → (s.wimg.state ≠ 1 ∨ s.wimg.data.length ≠ wmLen s.wimg.cur) →
        exec (.wimgLoad o) s = .next (u.answered o 0x030A [])) ∧
      (s.isRunning = false → s.wimg.state = 1 → s.wimg.data.length = wmLen s.wimg.cur →
        exec (.wimgLoad o) s = .next (({ u with wimg := { u.wimg with state := 2 } } : State).answered o 0 []))) ∧
    (s.wimg.state = 2 → s.wimg.data.length = wmLen s.wimg.cur →
      (wimgHash s.wimg.data = wmExpect s.wimg.cur → exec .wimgHashComplete s = .next { s with
        wimg := { s.wimg with state := 3, hash := wimgHash s.wimg.data, mapLoaded := wmMap s.wimg.cur } }) ∧
      (wimgHash s.wimg.data ≠ wmExpect s.wimg.cur → exec .wimgHashComplete s = .next { s with
        wimg := { s.wimg with state := 4, result := 0x0722 } })) ∧
    (s.wimg.state ≠ 2 → exec .wimgHashComplete s = .next s)

/-- FW_INSTALL refuses an image by its first failing check, or the bank, and stays STAGED; else it erases block 0 and begins writing from
block 1, and a one-block image with block 0 (R455, R461). It rests in part on choices of the model (log 41, 46). -/
def Claim.FirmwareInstall : Prop :=
  ∀ (s : State) (o : OpReq) (h : Holdup),
    let u := s.touch o
    let p := s.fw.staging
    s.serves o 2 → o.sub = 0 → o.typ = 0 → o.data = [] →
    (s.isRunning = true → exec (.fwInstall o h) s = .next (u.answered o 0x0305 [])) ∧
    (s.isRunning = false → s.fw.state = 0 → exec (.fwInstall o h) s = .next (u.answered o 0x030A [])) ∧
    (s.isRunning = false → (s.fw.state = 1 ∨ s.fw.state = 2 ∨ s.fw.state = 5) →
      (p.length ≠ fwLen p →
        exec (.fwInstall o h) s = .next (({ u with fw := { u.fw with state := 2 } } : State).answered o 0x0710 [])) ∧
      (∀ code, p.length = fwLen p → fwCheck s.fw.counter p = some code →
        exec (.fwInstall o h) s = .next (({ u with fw := { u.fw with state := 2 } } : State).answered o code [])) ∧
      (p.length = fwLen p → fwCheck s.fw.counter p = none → holdCode h 900 = none → ∃ t, exec (.fwInstall o h) s = .next t ∧
        t.fw.state = 3 ∧ t.fw.block = (if fwBlocks p = 1 then 0 else 1) ∧ t.fw.refused = 0 ∧ Sparse.get [] t.fw.flash 0 = [] ∧
        (∀ b, b ≠ 0 → Sparse.get [] t.fw.flash b = Sparse.get [] s.fw.flash b) ∧ t.out = s.out ++ [.result o 0 0 []]) ∧
      (∀ code, p.length = fwLen p → fwCheck s.fw.counter p = none → holdCode h 900 = some code → ∃ t,
        exec (.fwInstall o h) s = .next t ∧ t.fw = { s.fw with state := 2 } ∧ t.rng.holdRefusals = s.rng.holdRefusals + 1 ∧
        t.out = s.out ++ [.result o code 0 []]))

/-- Each block of an update has its own hold-up check: a passed one writes the block, and block 0 is the last, after which the module
resets; a refused one is tried again a second later, and the tenth refusal abandons the update with ALERT_N (R455, R456). Where a row's
conditions do not hold the state is unchanged, which is the model's choice (log 2). It rests in part on choices of the model (log 46). -/
def Claim.FirmwareBlocks : Prop :=
  ∀ (s : State) (h : Holdup) (straps : Straps),
    let b := s.fw.block
    let bytes := State.imageBlock s.fw.staging b
    s.fw.state = 3 → s.rng.store = none → s.rng.boot = .running → s.rng.restarting = false →
    (∀ c : Instr, (c = .fwBlockWrite ⟨h, straps⟩ ∧ s.fw.refused = 0 ∨ c = .fwBlockRetry ⟨h, straps⟩ ∧ 0 < s.fw.refused ∧ s.fw.retryAt ≤ s.nowMs) →
      (holdCode h 900 = none → b ≠ 0 → ∃ t, exec c s = .next t ∧ Sparse.get [] t.fw.flash b = bytes ∧
        (∀ x, x ≠ b → Sparse.get [] t.fw.flash x = Sparse.get [] s.fw.flash x) ∧ t.fw.refused = 0 ∧
        t.fw.block = (if b + 1 < fwBlocks s.fw.staging then b + 1 else 0) ∧ t.fw.state = 3 ∧ t.mem = s.mem ∧ t.cores = s.cores) ∧
      (holdCode h 900 = none → b = 0 → ∃ t, exec c s = .next t ∧ Sparse.get [] t.fw.flash 0 = bytes ∧
        (∀ x, x ≠ 0 → Sparse.get [] t.fw.flash x = Sparse.get [] s.fw.flash x) ∧ t.rng.boot = .rom ∧ t.rng.sessions = [] ∧
        t.pack.state = .none ∧ t.wimg.hash = s.wimg.hash) ∧
      (∀ code, holdCode h 900 = some code → s.fw.refused < 9 → ∃ t, exec c s = .next t ∧ t.fw.refused = s.fw.refused + 1 ∧
        t.fw.retryAt = s.nowMs + 1000 ∧ t.fw.flash = s.fw.flash ∧ t.fw.state = 3) ∧
      (∀ code, holdCode h 900 = some code → s.fw.refused = 9 → ∃ t, exec c s = .next t ∧ t.fw.state = 5 ∧ t.fw.flash = s.fw.flash ∧
        AlertSrc.fwAbandoned ∈ t.rng.alerts)) ∧
    (s.fw.refused ≠ 0 → exec (.fwBlockWrite ⟨h, straps⟩) s = .next s) ∧
    (s.nowMs < s.fw.retryAt → exec (.fwBlockRetry ⟨h, straps⟩) s = .next s)

/-- The recovery loader answers QUERY with the block and offset it expects, answers DATA out of order with 0x0710 and discards it, gathers
DATA in order, and writes a whole block after its hold-up check. A good header erases block 0; with the last block the image's body is
checked, and a right one ends in a module reset with block 0 written, a wrong one leaves block 0 as it was (R458, R459). Where a row's conditions do not hold the state is unchanged,
which is the model's choice (log 2). It rests in part on choices of the model (log 47). -/
def Claim.RecoveryLoader : Prop :=
  ∀ (s : State) (peer : Peer) (bytes : List Byte) (h : Holdup) (straps : Straps),
    let b := s.fw.recBlock
    let n := fieldAt bytes 12 2
    let buf := s.fw.recBuf ++ slice bytes 16 n
    let len := recoveryLen (if b = 0 then buf else s.fw.recZero) b
    let next := fieldAt bytes 4 2 = b ∧ fieldAt bytes 8 4 = s.fw.recBuf.length
    (s.rng.boot ≠ .recovery → exec (.recoveryQuery peer bytes) s = .next s ∧ exec (.recoveryData peer bytes ⟨h, straps⟩) s = .next s) ∧
    (s.rng.boot = .recovery → recoveryOk bytes 0x02 = true → exec (.recoveryQuery peer bytes) s =
      .next (s.emit (.recovery peer (recoveryReply b s.fw.recBuf.length 0 0)))) ∧
    (s.rng.boot = .recovery → recoveryOk bytes 0x01 = true →
      (¬ next ∨ len < buf.length → exec (.recoveryData peer bytes ⟨h, straps⟩) s =
        .next (s.emit (.recovery peer (recoveryReply b s.fw.recBuf.length 0x0710 0)))) ∧
      (next → buf.length < len → exec (.recoveryData peer bytes ⟨h, straps⟩) s =
        .next (({ s with fw := { s.fw with recBuf := buf } } : State).emit (.recovery peer (recoveryReply b buf.length 0 0)))) ∧
      (next → buf.length = len → b ≠ 0 → holdCode h 900 = none → b + 1 < fwBlocks s.fw.recZero → ∃ t,
        exec (.recoveryData peer bytes ⟨h, straps⟩) s = .next t ∧ Sparse.get [] t.fw.flash b = buf ∧ t.fw.recBlock = b + 1 ∧ t.fw.recBuf = [] ∧
        t.rng.boot = .recovery ∧ t.out = s.out ++ [.recovery peer (recoveryReply (b + 1) 0 0 0)]) ∧
      (next → buf.length = len → b ≠ 0 → (∃ code, holdCode h 900 = some code) → ∃ t,
        exec (.recoveryData peer bytes ⟨h, straps⟩) s = .next t ∧ t.fw.flash = s.fw.flash ∧ t.fw.recBlock = b ∧ t.fw.recBuf = [] ∧
        t.out = s.out ++ [.recovery peer (recoveryReply b 0 0x0401 1000)]) ∧
      (next → buf.length = len → b ≠ 0 → holdCode h 900 = none → fwBlocks s.fw.recZero ≤ b + 1 → ∃ t,
        exec (.recoveryData peer bytes ⟨h, straps⟩) s = .next t ∧ Sparse.get [] t.fw.flash b = buf ∧
        (fwBodyOk ((s.putBlock b buf).putBlock 0 s.fw.recZero).flashImage = true → Sparse.get [] t.fw.flash 0 = s.fw.recZero ∧
          t.rng.boot = .rom ∧ t.pwr.straps = straps ∧ t.out = s.out ++ [.recovery peer (recoveryReply b buf.length 0 0)]) ∧
        (fwBodyOk ((s.putBlock b buf).putBlock 0 s.fw.recZero).flashImage = false →
          Sparse.get [] t.fw.flash 0 = Sparse.get [] s.fw.flash 0 ∧ t.rng.boot = .recovery ∧ t.fw.recBlock = 0 ∧ t.fw.recBuf = [] ∧
          t.out = s.out ++ [.recovery peer (recoveryReply 0 0 0x0714 0)])) ∧
      (next → buf.length = len → b = 0 → fwHeaderCheck s.fw.counter buf = none → fwBlocks buf ≠ 1 → ∃ t,
        exec (.recoveryData peer bytes ⟨h, straps⟩) s = .next t ∧ Sparse.get [] t.fw.flash 0 = [] ∧ t.fw.recZero = buf ∧ t.fw.recBlock = 1 ∧
        t.fw.recBuf = [] ∧ t.rng.boot = .recovery ∧ t.out = s.out ++ [.recovery peer (recoveryReply 1 0 0 0)]) ∧
      (∀ code, next → buf.length = len → b = 0 → fwHeaderCheck s.fw.counter buf = some code → ∃ t,
        exec (.recoveryData peer bytes ⟨h, straps⟩) s = .next t ∧ t.fw.flash = s.fw.flash ∧ t.fw.recBlock = 0 ∧ t.fw.recBuf = [] ∧
        t.out = s.out ++ [.recovery peer (recoveryReply 0 0 code 0)]))

/-! ## Packs -/

/-- PACK_INSTALL enters CHECKING with the installed pack discarded, or answers its first failing check; the loader's checks end in
INSTALLED with the pack hash, or in NONE with the refusal's code and detail (R303, R304). Where a row's conditions do not hold the state
is unchanged, which is the model's choice (log 2). It rests in part on choices of the model (log 40). -/
def Claim.PacksInstall : Prop :=
  ∀ (s : State) (o : OpReq),
    let u := s.touch o
    let p := s.pack.image
    (s.serves o 2 → o.sub = 0 → o.typ = 0 → o.data = [] →
      (∀ code, s.installCheck = some code → exec (.packInstall o) s = .next (u.answered o code [])) ∧
      (s.installCheck = none → ∃ t, exec (.packInstall o) s = .next t ∧ t.pack.state = .checking ∧ t.pack.installed = [] ∧
        t.pack.hash = 0 ∧ t.pack.image = p ∧ t.pack.compat = s.compatAsked ∧ t.svc.table = [] ∧ t.out = s.out ++ [.result o 0 0 []] ∧
        t.mem = s.mem ∧ t.cores = s.cores) ∧
      (s.isRunning = true → s.installCheck = some 0x0305)) ∧
    (s.pack.state = .checking →
      (loaderChecks s p = none → exec .packCheckComplete s = .next { s with
        pack := { s.pack with installed := p, state := .installed, result := 0, hash := Config.sm3 (p.take (packTotal p)) } }) ∧
      (∀ r, loaderChecks s p = some r → exec .packCheckComplete s = .next { s with
        pack := { s.pack with state := .none, result := r.code, detail := r.detail } })) ∧
    (s.pack.state ≠ .checking → exec .packCheckComplete s = .next s)

/-- PACK_START of an installed pack under its own weight image places it and, where it uses no Guyline port, releases its cores at one
step: the pack runs and each of its cores runs from index 0; in a system its cores wait, placed, for the start of the system; with the Logbook on the new epoch is stored first; a failing check is the
answer, and shows as the loader's last refusal where it is that of the weight image (R302, R304, R305, R345, R367). It rests in part on choices of the model (log 42, 57). -/
def Claim.PacksStart : Prop :=
  ∀ (s : State) (o : OpReq) (h : Holdup),
    let u := s.touch o
    let p := s.pack.installed
    s.serves o 1 → o.sub = 0 → o.typ = 0 → o.data = [] →
    (∀ code, s.startCheck = some code → exec (.packStart o h) s = .next ((u.startRefused code).answered o code [])) ∧
    (∀ code, code ≠ 0x0504 → u.startRefused code = u) ∧
    u.startRefused 0x0504 = { u with pack := { u.pack with result := 0x0504, detail := ({ code := 0x0504 } : Refuse).detail } } ∧
    (s.startCheck = none → leNat (s.valueOf 0x602000) = 0 → exec (.packStart o h) s = .next (u.startPack.answered o 0 [])) ∧
    (State.portsUsed p = [] → ∃ t, t = u.startPack ∧ t.pack.state = .running ∧ t.now = s.now ∧ t.ctrs = [] ∧ t.log.open_ = [] ∧
      t.pack.installed = p ∧ t.gl.usesGl = false ∧ AlertSrc.packFatal ∉ t.rng.alerts ∧
      ∀ c ∈ packCores p, (t.seq c).st = 1 ∧ (t.seq c).pc = 0 ∧ (t.seq c).nextIssue = s.now) ∧
    (State.portsUsed p ≠ [] → ∃ t, t = u.startPack ∧ t.gl.usesGl = true ∧ t.gl.placed = true ∧ t.pack.state = s.pack.state ∧
      (∀ c ∈ packCores p, (s.seq c).st ≠ 5 → (t.seq c).st = 0 ∧ (t.seq c).pc = 0) ∧ t.ctrs = []) ∧
    (s.startCheck = none → leNat (s.valueOf 0x602000) ≠ 0 → holdCode h 100 = none → ∃ t, exec (.packStart o h) s = .next t ∧
      t.rng.store = some (.epochStart, .single (commandOf 0x8006 o)) ∧ t.pack = s.pack ∧ t.cores = s.cores ∧ t.out = s.out) ∧
    (s.isRunning = true → s.rng.degraded = false → s.startCheck = some 0x0305)

/-- PACK_HALT of a running pack stops every running core in state 4 and leaves the pack HALTED with no open result; with none running it
answers 0x030A; the halt of a pack-fatal error comes once its wait ends (R231, R306, R368, R472). Where a row's conditions do not hold the
state is unchanged, which is the model's choice (log 2). It rests in part on choices of the model (log 60). -/
def Claim.PacksHalt : Prop :=
  ∀ (s : State) (o : OpReq),
    let u := s.touch o
    (s.serves o 1 → o.sub = 0 → o.typ = 0 → o.data = [] →
      (s.isRunning = true → exec (.packHalt o) s = .next (u.haltPack.answered o 0 [])) ∧
      (s.isRunning = false → exec (.packHalt o) s = .next (u.answered o 0x030A []))) ∧
    (s.haltPack.pack.state = .halted ∧ s.haltPack.log.open_ = [] ∧ s.haltPack.svc.waiting = [] ∧
      ∀ c, ((s.seq c).st = 1 ∨ (s.seq c).st = 2) → (s.haltPack.seq c).st = 4) ∧
    (∀ at_, s.rng.packFatalAt = some at_ → s.isRunning = true → at_ ≤ s.now → exec .packFatalHalt s = .next s.haltPack) ∧
    (∀ at_, s.rng.packFatalAt = some at_ → s.now < at_ → s.allHalted = false → exec .packFatalHalt s = .next s) ∧
    (s.rng.packFatalAt = none → exec .packFatalHalt s = .next s)

/-! ## Other commands -/

/-- FABRIC_RESET halts a running pack, turns D2 to D37 off and D38 to D41 to retention; its end puts D2 to D41 on, or, where a failed
channel fails both trainings, leaves the module degraded with LPDDR6 lost (R468, R474, R475). Where a row's conditions do not hold the
state is unchanged, which is the model's choice (log 2). It rests in part on choices of the model (log 50). -/
def Claim.FabricResets : Prop :=
  ∀ (s : State) (o : OpReq) (seeds deflt : Bool),
    let u := s.touch o
    (s.serves o 2 → o.sub = 0 → o.typ = 0 → o.data = [] →
      (s.rng.degraded = true → exec (.fabricReset o) s = .next (u.answered o 0x0308 [])) ∧
      (s.rng.degraded = false → (s.resetting = true ∨ s.pwr.thermTrip = true) → exec (.fabricReset o) s = .next (u.answered o 0x030A [])) ∧
      (s.rng.degraded = false → s.resetting = false → s.pwr.thermTrip = false → s.pwr.domains.length = 44 → ∃ t,
        exec (.fabricReset o) s = .next t ∧ t.rng.fabReset = true ∧ (∀ d, 2 ≤ d → d ≤ 37 → t.pwr.domains.getD d 0 = 0) ∧
        (∀ d, 38 ≤ d → d ≤ 41 → t.pwr.domains.getD d 0 = 1) ∧ (s.isRunning = true → t.pack.state = .halted) ∧
        (s.isRunning = false → t.pack = s.pack) ∧ t.cores.eng = [] ∧ t.slices = [] ∧ t.ctrs = [] ∧ t.cairn = [] ∧
        t.dict.stored = s.dict.stored ∧ t.wimg = s.wimg)) ∧
    (s.resetting = false → exec (.fabricResetComplete seeds deflt) s = .next s) ∧
    (s.resetting = true → s.channelFailed = false → s.rng.degraded = false → s.pwr.domains.length = 44 → ∃ t,
      exec (.fabricResetComplete seeds deflt) s = .next t ∧ t.rng.fabReset = false ∧ t.mem = s.mem ∧
      (∀ d, 2 ≤ d → d ≤ 41 → t.pwr.domains.getD d 0 = 2)) ∧
    (s.resetting = true → s.channelFailed = true → ∃ t, exec (.fabricResetComplete false false) s = .next t ∧ t.rng.degraded = true ∧
      t.rng.fabReset = false ∧ (∀ d, 2 ≤ d → d ≤ 41 → t.pwr.domains.getD d 0 = 0) ∧ t.wimg.hash = 0 ∧
      ∀ x, x < 0x8000000000 → t.mem.byte x = 0)

/-- CAL_STORE begins a store that passes the hold-up check and changes nothing in force; SELF_CAL and ARRAY_DIAG begin their runs, and
each completion shows its result; while a pack runs CAL_STORE, SELF_CAL and ARRAY_DIAG are refused with 0x0305 (R436 to R438). Where a row's
conditions do not hold the state is unchanged, which is the model's choice (log 2). It rests in part on choices of the model (log 41, 52).
-/
def Claim.CalibrationAndDiagnostics : Prop :=
  ∀ (s : State) (o : OpReq) (h : Holdup) (arg : Byte) (c : Nat) (fails : List (Nat × Nat)),
    let u := s.touch o
    o.sub = 0 →
    (s.serves o 2 → (o.typ = 0 ∨ o.typ = 0x02) → o.data = [arg] →
      (s.isRunning = true → exec (.calStore o h) s = .next (u.answered o 0x0305 []) ∧
        exec (.selfCal o) s = .next (u.answered o 0x0305 [])) ∧
      (s.isRunning = false → arg ≤ 3 → holdCode h 250 = none → ∃ t, exec (.calStore o h) s = .next t ∧
        t.rng.store = some (.cal, .single (commandOf 0xA010 o)) ∧ t.dict.cal = s.dict.cal ∧ t.dict.calStored = s.dict.calStored ∧
        (arg = 0 → t.dict.staged = s.dict.staged) ∧ t.out = s.out) ∧
      (s.isRunning = false → 3 < arg → exec (.calStore o h) s = .next (u.answered o 0x0206 [])) ∧
      (s.isRunning = false → s.dict.selfCal = none → arg ≤ 7 → exec (.selfCal o) s =
        .next (({ u with dict := { u.dict with selfCal := some arg } } : State).answered o 0 [])) ∧
      (s.isRunning = false → s.dict.selfCal = none → 7 < arg → exec (.selfCal o) s = .next (u.answered o 0x0206 []))) ∧
    (s.serves o 1 → (o.typ = 0 ∨ o.typ = 0x03) → o.data.length = 2 →
      (s.isRunning = true → exec (.arrayDiag o) s = .next (u.answered o 0x0305 [])) ∧
      (s.isRunning = false → s.dict.diag ≠ none → exec (.arrayDiag o) s = .next (u.answered o 0x030A []))) ∧
    (s.serves o 1 → (o.typ = 0 ∨ o.typ = 0x03) → o.data.length = 2 → s.isRunning = false → s.dict.diag = none →
      (leNat o.data ≤ 2047 → exec (.arrayDiag o) s =
        .next (({ u with dict := { u.dict with diag := some (leNat o.data) } } : State).answered o 0 [])) ∧
      (2047 < leNat o.data → exec (.arrayDiag o) s = .next (u.answered o 0x0205 []))) ∧
    (s.dict.selfCal = some arg → ∃ t, exec (.selfCalDone h) s = .next t ∧ t.dict.selfCal = none ∧ t.dict.cal = s.dict.cal ∧
      t.dict.calStored = s.dict.calStored ∧
      (arg.getLsbD 2 = true → 200000000 / h.dvUv < 2 ^ 32 →
        leNat (Sparse.get [] t.dict.staged 0xA00300) = 200000000 / h.dvUv) ∧
      (arg = 0 → t.dict.staged = s.dict.staged)) ∧
    (s.dict.selfCal = none → exec (.selfCalDone h) s = .next s) ∧
    ((∀ x ∈ fails, x.1 ≤ 64 ∧ x.2 ≤ 64) → s.dict.diag = some c → exec (.arrayDiagDone fails) s =
      .next { s with dict := { s.dict with diag := none, diagResult := diagBytes c fails } }) ∧
    (diagBytes c [] = leBytes 2 c ++ [0, 0xFF, 0xFF, 0xFF, 0xFF] ++ List.replicate 9 0) ∧
    (s.dict.diag = none → (∀ x ∈ fails, x.1 ≤ 64 ∧ x.2 ≤ 64) → exec (.arrayDiagDone fails) s = .next s) ∧
    ((∃ x ∈ fails, 64 < x.1 ∨ 64 < x.2) → exec (.arrayDiagDone fails) s = .fault .illFormed)

/-! ## The service -/

/-- A SUBMIT for this module whose fragment is the whole request waits for admission; a part is kept with its offset; a failing check is
answered with its code; one for another module goes on as SERVICE flits and is remembered; fragments that are not complete within 1 s are
discarded (R420, R421, R423). Where a row's conditions do not hold the state is unchanged, which is the model's choice (log 2). It rests
in part on choices of the model (log 16, 55). -/
def Claim.SubmitsGather : Prop :=
  ∀ (s u : State) (peer : Peer) (bytes : List Byte) (m : Msg) (k : Session) (body : List Byte) (q : SubmitMsg),
    let r : Req := { sid := k.sid, peer, reqId := q.reqId, svc := q.svc, total := q.total, data := [],
                     origin := BitVec.ofNat 14 s.ownId, since := s.nowMs }
    let own := q.target = 0xFFFF ∨ q.target = s.ownId
    (s.serviceMsg 0x20 bytes = some m → s.rng.baseReady = true → s.accept m true = (u, some (k, body)) → k.role ≠ .vendor →
      (s.encRequired = true → m.enc = true) → parseSubmit body = some q →
      (own → u.submitCheck r = none → (∀ g ∈ s.svc.frags, r.same g.req = false) →
        (q.off = 0 → q.frag.length = q.total → exec (.submit peer bytes) s = .next { u with
          svc := { u.svc with waiting := u.svc.waiting ++ [{ r with data := q.frag }] } }) ∧
        (q.frag.length < q.total → exec (.submit peer bytes) s = .next { u with
          svc := { u.svc with frags := u.svc.frags ++ [{ req := r, got := [(q.off, q.frag)] }] } })) ∧
      (∀ code, own → u.submitCheck r = some code → code ≠ 0x0302 → exec (.submit peer bytes) s = .next (u.replyTo r code 0 0)) ∧
      (¬ own → s.fwBusy = false → u.reqPending r = false → ∃ t, exec (.submit peer bytes) s = .next t ∧
        t.svc = { s.svc with fwd := s.svc.fwd ++ [(r, true)] } ∧ t.mem = s.mem ∧ t.cores = s.cores)) ∧
    (s.serviceMsg 0x20 bytes = some m → s.rng.baseReady = false → s.accept m true = (u, none) → ∃ id,
      exec (.submit peer bytes) s =
        .next (u.sendPlain peer portService 0x21 m.mseq (submitReplyBody id 0x0301 0 (s.retryUntil 6000)))) ∧
    (s.serviceMsg 0x20 bytes = none → exec (.submit peer bytes) s = .next s) ∧
    (∀ sid id, ∃ t, exec (.submitFragmentTimeout sid id) s = .next t ∧ t = { s with svc := { s.svc with frags := t.svc.frags } } ∧
      (∀ g ∈ s.svc.frags, (g ∈ t.svc.frags ↔ ¬ (g.req.sid = sid ∧ g.req.reqId = id ∧ g.req.since + 1000 ≤ s.nowMs))))

/-- A request that another module forwards is gathered like this module's own; a failing check is answered to that module. A reply with a
failing status returns to its client and ends the forwarding, one of success returns and goes on, and a result's fragments return unchanged,
the last of them ending it. Before Basecamp is ready they are dropped (R334, R423). Where a row's conditions do not hold the state is
unchanged, which is the model's choice (log 2). It rests in part on choices of the model (log 17, 55). -/
def Claim.ForwardedRequests : Prop :=
  ∀ (s : State) (p : Port) (f : Flit) (rest : List Flit) (c : Req) (live : Bool),
    let h := FHead.ofBits f.header
    let u := s.setPort p.val { s.gport p.val with edge := rest }
    let ps := (flitParcels h f.blocks).map fun x => parcelBytes x.2.2.data
    let head := ps.headD []
    let kind := fieldAt head 0 1
    let id : W64 := BitVec.ofNat 64 (fieldAt head 1 8)
    let total := fieldAt head 12 4
    let off := fieldAt head 16 4
    let left := if off < total then total - off else if ps.length ≤ 1 then 0 else total + 320 - off
    let frag := ((ps.drop 1).flatten).take (min 224 left)
    let seq : W64 := BitVec.ofNat 64 (fieldAt head 20 8)
    let status : W16 := BitVec.ofNat 16 (fieldAt head 28 2)
    let r : Req := { sid := 0, peer := noPeer, reqId := id, svc := head.getD 11 0, total, data := [],
                     origin := BitVec.ofNat 14 (fieldAt head 9 2), since := s.nowMs }
    let others := s.svc.fwd.filter fun x => !c.same x.1
    let ends := fun (fwd : List (Req × Bool)) => ({ u with svc := { u.svc with fwd } } : State)
    ((s.gport p.val).edge = [] → exec (.service p) s = .next s) ∧
    ((s.gport p.val).edge = f :: rest → h.ftype ≠ 6 → exec (.service p) s = .next s) ∧
    ((s.gport p.val).edge = f :: rest → h.ftype = 6 → s.rng.baseReady = false → exec (.service p) s = .next u) ∧
    ((s.gport p.val).edge = f :: rest → h.ftype = 6 → s.rng.baseReady = true →
      (kind = 1 → u.submitCheck r = none → (∀ g ∈ s.svc.frags, r.same g.req = false) →
        (off = 0 → frag.length = total → exec (.service p) s = .next { u with
          svc := { u.svc with waiting := u.svc.waiting ++ [{ r with data := frag }] } }) ∧
        (frag.length < total → exec (.service p) s = .next { u with
          svc := { u.svc with frags := u.svc.frags ++ [{ req := r, got := [(off, frag)] }] } })) ∧
      (∀ code, kind = 1 → u.submitCheck r = some code → code ≠ 0x0302 → exec (.service p) s = .next (u.replyTo r code 0 0)) ∧
      ((s.svc.fwd.filter fun x => x.1.reqId = id).head? = some (c, live) →
        (kind = 3 → status ≠ 0 → exec (.service p) s =
          .next ((ends others).sendService c.sid c.peer 0x21 (submitReplyBody id status seq 0))) ∧
        (kind = 3 → status = 0 → exec (.service p) s = .next (u.sendService c.sid c.peer 0x21 (submitReplyBody id 0 seq 0))) ∧
        (kind = 2 → total ≤ off + frag.length → exec (.service p) s =
          .next ((ends (others ++ [(c, false)])).sendService c.sid c.peer 0x22 (resultBody id seq status total off frag))) ∧
        (kind = 2 → off + frag.length < total → exec (.service p) s =
          .next (u.sendService c.sid c.peer 0x22 (resultBody id seq status total off frag)))) ∧
      ((kind = 2 ∨ kind = 3) → (∀ x ∈ s.svc.fwd, x.1.reqId ≠ id) → exec (.service p) s = .next u) ∧
      (kind ≠ 1 → kind ≠ 2 → kind ≠ 3 → exec (.service p) s = .next u))

/-- A channel that is free begins to admit its first waiting request: its data parcels wait at the edge router of port 0 for slots of their
routes to the input slot, and the request no longer waits. Once they have landed the header follows with the next SEQ, and with the header's
landing the request is admitted: its mode, the Scout settings and the digests are those of that step. With the counter at its end the
admission waits for a new epoch, whose store begins after its hold-up check, or is tried again a second later (R164, R165, R366 to R368,
R371, R373, R419, R421). Where a row's conditions do not hold the state is unchanged, which is the model's choice (log 2). It rests in part
on choices of the model (log 41, 55, 69). -/
def Claim.AdmissionTakesTheNextNumber : Prop :=
  ∀ (s : State) (ch : BitVec 4) (r : Req) (v : SvcRec) (a : Adm) (h : Holdup),
    let n := (r.data.length + 31) / 32
    let number : W64 := BitVec.ofNat 64 (s.log.epoch * 2 ^ 40 + s.log.count)
    let ok := fun (x : Nat) => s.writable x = true ∧ s.inListRange x = false ∧ (State.placeExit x).isSome = true
    let put := fun (x : Nat) (d : BitVec 256) (q : QBeat) => q.avail = s.now ∧ q.taken = false ∧
      State.placeExit x = some q.beat.dst ∧ q.beat.kind = 0 ∧ q.beat.vmask = 1 ∧ q.beat.hdr = BitVec.ofNat 58 (x % 2 ^ 42) ∧
      q.beat.ps = [madeParcel d 0 x]
    let queued := fun (qs : List QBeat) => { s.trail with srcq := Sparse.set [] s.trail.srcq slotKey (s.srcAt slotKey ++ qs) }
    let header := fun (t : State) (q : Req) (slot : Nat) => ∃ b, put slot (inputHeader number q) b ∧ t.trail = queued [b] ∧
      t.log = { s.log with count := s.log.count + 1 } ∧ t.mem = s.mem ∧ t.cores = s.cores ∧ t.out = s.out
    let free := (∀ x ∈ s.svc.adm, x.ch ≠ ch) ∧ s.nextFor ch = some (r, v)
    let mine := fun (y : Option Adm) => s.svc.adm.find? (fun x => x.ch = ch) = y
    (free → s.mayAdmit ch = true → s.log.count < 2 ^ 40 → s.slotRoom r v = true → ok v.input → (∀ i < n, ok (v.input + 32 + 32 * i)) →
      (0 < n → ∃ qs, qs.length = n ∧ (∀ i b, qs[i]? = some b → put (v.input + 32 + 32 * i) (bytesParcel (slice r.data (32 * i) 32)) b) ∧
        exec (.admission ch) s = .next { s with
          trail := queued qs, svc := { s.svc with
            waiting := s.svc.waiting.erase r, adm := s.svc.adm ++ [{ ch, req := r, slot := v.input, left := n, seq := none }] } }) ∧
      (n = 0 → ∃ t, exec (.admission ch) s = .next t ∧ header t r v.input ∧ t.svc = { s.svc with
        waiting := s.svc.waiting.erase r, adm := s.svc.adm ++ [{ ch, req := r, slot := v.input, left := 0, seq := some number }] })) ∧
    (free → (s.mayAdmit ch = false ∨ 2 ^ 40 ≤ s.log.count ∨ s.slotRoom r v = false) → exec (.admission ch) s = .next s) ∧
    ((∀ x ∈ s.svc.adm, x.ch ≠ ch) → s.nextFor ch = none → exec (.admission ch) s = .next s) ∧
    (mine (some a) → a.seq = none → a.left = 0 → s.log.count < 2 ^ 40 → ok a.slot → ∃ t, exec (.admission ch) s = .next t ∧
      header t a.req a.slot ∧ t.svc = { s.svc with
        adm := s.svc.adm.map fun x => if x.ch = ch then { a with seq := some number } else x }) ∧
    (mine (some a) → (a.seq ≠ none ∨ a.left ≠ 0 ∨ 2 ^ 40 ≤ s.log.count) → exec (.admission ch) s = .next s) ∧
    (mine (some a) → a.seq = none → 1 < a.left → s.wrote (.slotW ch.toNat) = { s with svc := { s.svc with
      adm := s.svc.adm.map fun x => if x.ch = ch then { a with left := a.left - 1 } else x } }) ∧
    (mine (some a) → ∀ seq, a.seq = some seq → ∃ t o, t = s.wrote (.slotW ch.toNat) ∧ t.log.lastSeq = seq ∧
      Sparse.get none t.log.open_ ch.toNat = some o ∧ o.req = a.req ∧ o.seq = seq ∧ o.admitted = s.now ∧ o.mode = s.logMode ∧
      o.input = inputDigest a.req.data ∧ o.settings = s.settingsHash ∧ o.train = s.log.train ∧ o.devs = s.log.stepDevs ∧
      o.scoutDis = BitVec.ofNat 256 (leNat s.scoutBits) ∧
      (∀ l ∈ scoutLayers (sectBytes s.pack.installed 1), Sparse.get [] o.scout l.1 = s.thresholdOf l.1) ∧
      (∀ c : Nat, c ≠ ch.toNat → Sparse.get none t.log.open_ c = Sparse.get none s.log.open_ c) ∧
      t.svc.adm = s.svc.adm.filter (fun x => x.ch ≠ ch) ∧ t.svc.scoutDis = o.scoutDis ∧ t.log.count = s.log.count ∧
      t.mem = s.mem ∧ t.cores = s.cores) ∧
    (s.epochWaits = true → s.log.epoch < 0xFFFFFF → s.log.retryAt ≤ s.nowMs → s.listening = true → s.rng.store = none →
      (holdCode h 100 = none → ∃ t, exec (.epochRollover h) s = .next t ∧ t.rng.store = some (.epochRoll, .nobody) ∧
        AlertSrc.epochWait ∈ t.rng.alerts ∧ t.log = s.log) ∧
      ((∃ code, holdCode h 100 = some code) → ∃ t, exec (.epochRollover h) s = .next t ∧ t.rng.store = none ∧
        t.log = { s.log with retryAt := s.nowMs + 1000 } ∧ AlertSrc.epochWait ∈ t.rng.alerts)) ∧
    ((s.epochWaits = false ∨ 0xFFFFFF ≤ s.log.epoch ∨ s.nowMs < s.log.retryAt ∨ s.listening = false ∨ s.rng.store ≠ none) →
      exec (.epochRollover h) s = .next s)

/-- At a step that is a multiple of 4,096 the front end reads the output header of an open result over the Trail, and at no other. A header
that holds the result's SEQ closes it with its status, a poisoned one, or one that does not verify, with 0x0601 and no data, and another SEQ
leaves it open. The data of a closed result is read then, its poisoned parcels as zeros with status 0x0600; in modes 0 and 1 the result then
goes out and is kept for FETCH, and in mode 2 it waits for its record's signature, lowest SEQ first, and then goes out with the record, which
goes into the ring (R41, R368, R374, R375, R418, R422). Where a row's conditions do not hold the state is unchanged, which is the model's
choice (log 2). It rests in part on choices of the model (log 55, 69, 99). -/
def Claim.ResultsClose : Prop :=
  ∀ (s : State) (ch : BitVec 4) (o : OpenRes) (v : SvcRec) (q : SReq) (i : Nat) (p : Parcel) (y : Taking),
    let b := parcelBytes p.data
    let isOpen := Sparse.get none s.log.open_ ch.toNat = some o ∧ s.serviceAt o.req.svc = some v
    let got := y.got ++ [(i, p)]
    let bad := verifies p q.addr = false
    (Sparse.get none s.log.open_ ch.toNat = none → exec (.outputHeaderPoll ch) s = .next s) ∧
    (s.now % 4096 ≠ 0 → exec (.outputHeaderPoll ch) s = .next s) ∧
    (isOpen → s.now % 4096 = 0 → ∀ d, State.placeExit v.output = some d → ∃ x : QBeat,
      x.avail = s.now ∧ x.taken = false ∧ x.beat.dst = d ∧ x.beat.kind = 1 ∧ x.beat.vmask = 0 ∧ x.beat.ps = [] ∧
      x.beat.hdr.toNat % 2 ^ 42 = v.output % 2 ^ 42 ∧ exec (.outputHeaderPoll ch) s = .next { s with
        trail := { s.trail with srcq := Sparse.set [] s.trail.srcq slotKey (s.srcAt slotKey ++ [x]) } }) ∧
    (isOpen → q.who = .slotR ch.toNat 0 o.seq.toNat →
      (bad → s.slotGot q p = (s.countEdgePoison).closeResult ch o 0x0601 v.output 0) ∧
      (¬bad → p.poison = true → s.slotGot q p = s.closeResult ch o 0x0601 v.output 0) ∧
      (¬bad → p.poison = false → fieldAt b 0 8 ≠ o.seq.toNat → s.slotGot q p = s) ∧
      (¬bad → p.poison = false → fieldAt b 0 8 = o.seq.toNat → s.slotGot q p =
        s.closeResult ch o (BitVec.ofNat 16 (fieldAt b 8 2)) v.output (min (fieldAt b 10 4) v.outMax))) ∧
    (∀ status slot len, let t := s.closeResult ch o status slot len
      Sparse.get none t.log.open_ ch.toNat = none ∧
      (len = 0 → o.mode = 0 → o.req.origin.toNat = s.ownId →
        t.svc.kept = s.svc.kept ++ [{ req := o.req, seq := o.seq, status, data := [], record := [], closed := s.nowMs }]) ∧
      (len = 0 → o.mode = 2 → t.out = s.out ∧ t.svc.kept = s.svc.kept ∧ ∃ w, t.log.signq = s.log.signq ++ [w] ∧ w.kept.seq = o.seq ∧
        w.kept.status = status ∧ w.kept.data = []) ∧
      (0 < len → t.out = s.out ∧ t.log.signq = s.log.signq ∧ ∃ w, t.svc.taking = s.svc.taking ++ [w] ∧ w.ch = ch ∧ w.mode = o.mode ∧
        w.len = len ∧ w.got = [] ∧ w.kept.req = o.req ∧ w.kept.seq = o.seq ∧ w.kept.status = status)) ∧
    (q.who = .slotR ch.toNat i y.kept.seq.toNat → i ≠ 0 → ¬bad →
      s.svc.taking.find? (fun t => t.ch = ch && decide (t.kept.seq.toNat = y.kept.seq.toNat)) = some y → got.length = (y.len + 31) / 32 →
      let t := s.slotGot q p
      (∀ x ∈ t.svc.taking, ¬(x.ch = ch ∧ x.kept.seq = y.kept.seq)) ∧
      (y.mode ≠ 2 → y.kept.req.origin.toNat = s.ownId → ∃ k, t.svc.kept = s.svc.kept ++ [k] ∧ k.req = y.kept.req ∧ k.seq = y.kept.seq ∧
        k.status = (if got.any (fun x => x.2.poison) then 0x0600 else y.kept.status) ∧ k.record = y.kept.record ∧ k.data.length = y.len ∧
        ∀ j < y.len, ∀ x, got.find? (fun x => x.1 = j / 32 + 1) = some x →
          k.data[j]? = some (if x.2.poison then 0 else x.2.data.extractLsb' (8 * (j % 32)) 8)) ∧
      (y.mode = 2 → t.svc.kept = s.svc.kept ∧ t.out = s.out ∧ t.log.signq.length = s.log.signq.length + 1)) ∧
    (s.log.signq ≠ [] → ∃ t u, exec .recordSign s = .next t ∧ u ∈ s.log.signq ∧ (∀ w ∈ s.log.signq, u.kept.seq ≤ w.kept.seq) ∧
      t.log.signq = s.log.signq.erase u ∧ t.free = s.free + 1 ∧
      t.log.ring.getLast? = some (u.record.take 0x100 ++ beBytes 64 (Config.sm2Sign 1 (u.record.take 0x100) s.free).toNat)) ∧
    (s.log.signq = [] → exec .recordSign s = .next s)

/-- FETCH sends every fragment of a kept result again within 10 s of its close, and answers 0x0303 for a request that is neither kept nor
pending; after 10 s a result is kept no longer (R422, R476). Where a row's conditions do not hold the state is unchanged, which is the
model's choice (log 2). It rests in part on choices of the model (log 55). -/
def Claim.FetchWithinTenSeconds : Prop :=
  ∀ (s u : State) (peer : Peer) (bytes : List Byte) (m : Msg) (k : Session) (body : List Byte) (x : Kept),
    let r : Req := { sid := k.sid, peer, reqId := BitVec.ofNat 64 (fieldAt body 0 8), svc := 0, total := 0, data := [],
                     origin := BitVec.ofNat 14 s.ownId, since := 0 }
    (s.serviceMsg 0x23 bytes = some m → s.rng.baseReady = true → s.accept m true = (u, some (k, body)) → k.role ≠ .vendor →
      (s.encRequired = true → m.enc = true) → 8 ≤ body.length →
      (s.svc.kept.find? (fun y => r.same y.req && decide (s.nowMs < y.closed + 10000)) = some x →
        exec (.fetch peer bytes) s = .next (u.resultTo { x.req with peer } x.seq x.status x.data x.record)) ∧
      ((∀ y ∈ s.svc.kept, r.same y.req = true → y.closed + 10000 ≤ s.nowMs) → u.reqPending r = false → exec (.fetch peer bytes) s = .next (u.replyTo r 0x0303 0 0)) ∧
      ((∀ y ∈ s.svc.kept, r.same y.req = true → y.closed + 10000 ≤ s.nowMs) → u.reqPending r = true → exec (.fetch peer bytes) s = .next u)) ∧
    (s.serviceMsg 0x23 bytes = none → exec (.fetch peer bytes) s = .next s) ∧
    (∀ sid id, ∃ t, exec (.fetchWindowExpiry sid id) s = .next t ∧
      t = { s with svc := { s.svc with kept := t.svc.kept, fwd := t.svc.fwd } } ∧
      (∀ y ∈ s.svc.kept, (y ∈ t.svc.kept ↔ ¬ (y.req.sid = sid ∧ y.req.reqId = id ∧ y.closed + 10000 ≤ s.nowMs))))

/-! ## The test port and the port's lower layers -/

/-- Each test-port instruction enters the instruction register while the module is powered, and SAMPLE/PRELOAD also takes the cells;
TRACE_EN starts the trace where the tray owns the valve and is denied elsewhere; test-logic reset selects IDCODE; EXTEST and CLAMP act
only while MOD_RESET_N is low (R484, R496, R497). Where a row's conditions do not hold the state is unchanged, which is the model's choice
(log 2). It rests in part on choices of the model (log 65). -/
def Claim.TestPort : Prop :=
  ∀ (s : State) (cells : BitVec 22) (v : Byte),
    let put := fun (i : Byte) => { s with tap := { s.tap with ir := i } }
    (s.pwr.phase = .good →
      exec .extest s = .next (put 0x00) ∧ exec .idcode s = .next (put 0x01) ∧ exec .clamp s = .next (put 0x03) ∧
      exec .trace s = .next (put 0x20) ∧ exec .bypass s = .next (put 0xFF) ∧
      exec (.samplePreload cells) s = .next { s with tap := { s.tap with ir := 0x02, boundary := cells } } ∧
      (s.tap.ir = 0x20 → v.getLsbD 0 = true → s.trayValve = true →
        exec (.traceEnWrite v) s = .next { s with tap := { s.tap with traceEn := true, active := true } }) ∧
      (s.tap.ir = 0x20 → v.getLsbD 0 = true → s.trayValve = false →
        exec (.traceEnWrite v) s = .next { s with tap := { s.tap with traceEn := true, active := false, denied := true } }) ∧
      (s.tap.ir = 0x20 → v.getLsbD 0 = false →
        exec (.traceEnWrite v) s = .next { s with tap := { s.tap with traceEn := false, active := false, denied := false } }) ∧
      (s.tap.ir ≠ 0x20 → exec (.traceEnWrite v) s = .next s)) ∧
    (s.pwr.phase ≠ .good → exec .extest s = .next s ∧ exec .idcode s = .next s ∧ exec .clamp s = .next s ∧ exec .trace s = .next s ∧
      exec .bypass s = .next s ∧ exec (.samplePreload cells) s = .next s ∧ exec (.traceEnWrite v) s = .next s) ∧
    exec .testLogicReset s =
      .next { s with tap := { s.tap with ir := 0x01, traceEn := false, active := false, denied := false } } ∧
    (s.tap.ir = 0x00 → s.tapActs = if s.pwr.modResetLow then 0x00 else 0x02) ∧
    (s.tap.ir = 0x03 → s.tapActs = if s.pwr.modResetLow then 0x03 else 0xFF) ∧
    (s.tapDrives = true → s.pwr.modResetLow = true)

/-- The management link's state shows as it comes and goes; from 150 ms on the port answers ARP, echo and neighbour solicitations for its
own addresses, and is silent to others (R405, R406, R416). Where a row's conditions do not hold the state is unchanged, which is the
model's choice (log 2). It rests in part on choices of the model (log 44). -/
def Claim.PortAnswers : Prop :=
  ∀ (s : State) (peer : Peer) (cr v6 : Bool) (a4 : W32) (a6 : BitVec 128) (data : List Byte),
    (s.pwr.phase = .good → exec (.mgmtLinkUp cr) s = .next { s with rng := { s.rng with mgmtLink := if cr then 2 else 1 } }) ∧
    (s.pwr.phase ≠ .good → exec (.mgmtLinkUp cr) s = .next s) ∧
    exec .mgmtLinkDown s = .next { s with rng := { s.rng with mgmtLink := 0 } } ∧
    (s.answers = true →
      (s.ownV4 a4 = true → exec (.arpRequest peer a4) s = .next (s.emit (.arp peer))) ∧
      (s.ownV6 a6 = true → exec (.neighbourSolicitation peer a6) s = .next (s.emit (.neighbour peer)) ∧
        exec (.echoRequest peer true a6 data) s = .next (s.emit (.echo peer data))) ∧
      (s.ownV4 (a6.truncate 32) = true → exec (.echoRequest peer false a6 data) s = .next (s.emit (.echo peer data)))) ∧
    (s.answers = false → exec (.arpRequest peer a4) s = .next s ∧ exec (.neighbourSolicitation peer a6) s = .next s ∧
      exec (.echoRequest peer v6 a6 data) s = .next s) ∧
    (s.ownV4 a4 = false → exec (.arpRequest peer a4) s = .next s) ∧
    (s.ownV6 a6 = false → exec (.neighbourSolicitation peer a6) s = .next s ∧ exec (.echoRequest peer true a6 data) s = .next s) ∧
    (s.ownV4 (a6.truncate 32) = false → exec (.echoRequest peer false a6 data) s = .next s) ∧
    (s.pwr.phase = .good → s.rng.boot = .running → s.rng.level ≠ 0 → s.answers = true)

/-! ## The invariant -/

/-- Reset satisfies the invariant. -/
def Claim.InvariantAtReset : Prop := State.reset.Inv

/-- Every step keeps the invariant. It rests in part on choices of the model (log 4). -/
def Obligations.InvariantIsKept : Prop := ∀ s t : State, s.Inv → step s = .next t → t.Inv

/-! ## Statements of several clauses -/

/-- The state after reset, with the invariant holding in it: `Claim.ResetState`, `Claim.InvariantAtReset`. -/
def Obligations.ResetState : Prop := Claim.ResetState ∧ Claim.InvariantAtReset

/-- Decoding and encoding of instruction words agree, with every operand: `Claim.DecodeOfEncode`, `Claim.EncodeOfDecode`. -/
def Obligations.EncodingRoundTrip : Prop := Claim.DecodeOfEncode ∧ Claim.EncodeOfDecode

/-- Scalar instructions: results, illegal words, and their frame: `Claim.ArithmeticResults`, `Claim.ShiftAndLoadResults`,
`Claim.NopAndIllegalWords`. -/
def Obligations.ScalarResults : Prop := Claim.ArithmeticResults ∧ Claim.ShiftAndLoadResults ∧ Claim.NopAndIllegalWords

/-- LDS and STS of the core-local space, with the bytes stored to and no other: `Claim.LoadsOfTheLocalSpace`,
`Claim.ControlBlockReads`, `Claim.StoresOfTheLocalSpace`, `Claim.StoresIntoListRanges`. -/
def Obligations.LocalSpace : Prop :=
  Claim.LoadsOfTheLocalSpace ∧ Claim.ControlBlockReads ∧ Claim.StoresOfTheLocalSpace ∧ Claim.StoresIntoListRanges

/-- A bundle opens, holds its members, and its votes arrive: `Claim.BundleOpens`, `Claim.BundledStore`, `Claim.BundleVotes`,
`Claim.NoBundleToClose`. -/
def Obligations.BundlesHold : Prop := Claim.BundleOpens ∧ Claim.BundledStore ∧ Claim.BundleVotes ∧ Claim.NoBundleToClose

/-- Loops, branches and the end of the instruction region: `Claim.LoopsAndBranches`, `Claim.PastTheLastIndex`. -/
def Obligations.Branches : Prop := Claim.LoopsAndBranches ∧ Claim.PastTheLastIndex

/-- HALT, and the fetch of 16 instructions: `Claim.HaltStopsTheCore`, `Claim.InstructionFetchFillsTheBuffer`. -/
def Obligations.HaltAndFetch : Prop := Claim.HaltStopsTheCore ∧ Claim.InstructionFetchFillsTheBuffer

/-- TKT and TKTSET, from the core to the home and back, in their order: `Claim.TicketsLeaveTheCore`, `Claim.WorkCountersServe`,
`Claim.TicketsServedInOrder`. -/
def Obligations.WorkCounters : Prop := Claim.TicketsLeaveTheCore ∧ Claim.WorkCountersServe ∧ Claim.TicketsServedInOrder

/-- The first fault and the first accumulator fault of a core are kept: `Claim.FirstFaultIsKept`, `Claim.AccumulatorFault`. -/
def Obligations.FaultsOfACore : Prop := Claim.FirstFaultIsKept ∧ Claim.AccumulatorFault

/-- WLD, PASS and ACLR hand their work over: `Claim.StationaryLoadIssues`, `Claim.PassIssues`, `Claim.AclrIssues`,
`Claim.OpenedGroupIsEmpty`. -/
def Obligations.ArrayWorkIssues : Prop := Claim.StationaryLoadIssues ∧ Claim.PassIssues ∧ Claim.AclrIssues ∧ Claim.OpenedGroupIsEmpty

/-- DRAIN hands a drain to the chain, and faults where no group is open: `Claim.DrainIssues`, `Claim.DrainOfNoGroup`. -/
def Obligations.DrainsIssue : Prop := Claim.DrainIssues ∧ Claim.DrainOfNoGroup

/-- The vector instructions and CHAIN hand their work over: `Claim.VectorInstructionsIssue`, `Claim.ChainLoadsAConfiguration`. -/
def Obligations.VectorAndChainIssue : Prop := Claim.VectorInstructionsIssue ∧ Claim.ChainLoadsAConfiguration

/-- ARM and the Daypack instructions hand their work over: `Claim.ArmIssues`, `Claim.DaypackIssues`. -/
def Obligations.ArmAndDaypackIssue : Prop := Claim.ArmIssues ∧ Claim.DaypackIssues

/-- Cairn barriers: arrivals, completion, timeout, across modules: `Claim.BarrierInstructionsArrive`, `Claim.ModuleWideBarriersProgress`,
`Claim.BarrierCompletes`, `Claim.BarrierTimesOut`, `Claim.ModuleWideBarrierCompletes`. -/
def Obligations.Barriers : Prop :=
  Claim.BarrierInstructionsArrive ∧ Claim.ModuleWideBarriersProgress ∧ Claim.BarrierCompletes ∧ Claim.BarrierTimesOut ∧
    Claim.ModuleWideBarrierCompletes

/-- A bundle commits all its members or none: `Claim.BundleCommits`, `Claim.BundleAborts`. -/
def Obligations.BundlesEnd : Prop := Claim.BundleCommits ∧ Claim.BundleAborts

/-- The feeder fills a block buffer and releases token slots: `Claim.FeederFills`, `Claim.FeederReleases`. -/
def Obligations.FeederWorks : Prop := Claim.FeederFills ∧ Claim.FeederReleases

/-- Tile rows load and cells pass the sums on: `Claim.TileRowsLoad`, `Claim.CellsWork`. -/
def Obligations.CellsOfTheArray : Prop := Claim.TileRowsLoad ∧ Claim.CellsWork

/-- One product of a cell, and a column result entering its slot: `Claim.CellProduct`, `Claim.BottomStageEnters`. -/
def Obligations.ProductsAndSums : Prop := Claim.CellProduct ∧ Claim.BottomStageEnters

/-- Combines in the accumulator and arriving split nodes: `Claim.CombineJoinsTwoNodes`, `Claim.SplitNodesArrive`. -/
def Obligations.NodesJoin : Prop := Claim.CombineJoinsTwoNodes ∧ Claim.SplitNodesArrive

/-- A drain reads rows, its stages work, and the Packer emits: `Claim.DrainReadsRows`, `Claim.ChainStages`, `Claim.PackerEmits`. -/
def Obligations.DrainChainWorks : Prop := Claim.DrainReadsRows ∧ Claim.ChainStages ∧ Claim.PackerEmits

/-- Banks fill, bands of MVD compute, sweeps end, leaves enter their group: `Claim.BanksFill`, `Claim.BandsOfMvd`, `Claim.SweepsEnd`,
`Claim.LeavesEnter`. -/
def Obligations.VectorPathWorks : Prop := Claim.BanksFill ∧ Claim.BandsOfMvd ∧ Claim.SweepsEnd ∧ Claim.LeavesEnter

/-- The intersection walk finds the matches, and the Scout keeps the best: `Claim.IntersectionStep`, `Claim.WalkFindsTheMatches`,
`Claim.ScoutSelects`, `Claim.SelectionKeepsTheBest`. -/
def Obligations.IntersectionAndScout : Prop :=
  Claim.IntersectionStep ∧ Claim.WalkFindsTheMatches ∧ Claim.ScoutSelects ∧ Claim.SelectionKeepsTheBest

/-- Arms start, complete and time out; ports take parcels: `Claim.ArmsStartAndComplete`, `Claim.StreamTimeouts`, `Claim.PortsTakeParcels`.
-/
def Obligations.EnginesRun : Prop := Claim.ArmsStartAndComplete ∧ Claim.StreamTimeouts ∧ Claim.PortsTakeParcels

/-- List entries and descriptors as an engine reads them, and the fetching of what it reads: `Claim.ListEntries`, `Claim.DescriptorEntries`,
`Claim.EntriesAreFetched`. -/
def Obligations.EntriesAreRead : Prop :=
  Claim.ListEntries ∧ Claim.DescriptorEntries ∧ Claim.EntriesAreFetched

/-- Elements of a transfer are read and written, whole parcels land, and the list hold applies: `Claim.ElementReads`,
`Claim.SourceParcelsAreFetched`, `Claim.ElementWrites`, `Claim.WholeParcelsLand`, `Claim.ListHoldApplies`. -/
def Obligations.ElementsMove : Prop :=
  Claim.ElementReads ∧ Claim.SourceParcelsAreFetched ∧ Claim.ElementWrites ∧ Claim.WholeParcelsLand ∧ Claim.ListHoldApplies

/-- The bandwidth regulator grants, slices serve and fill: `Claim.RegulatorWindowsAndGrants`, `Claim.SlicesServe`, `Claim.LinesFill`. -/
def Obligations.SlicesAndRegulator : Prop := Claim.RegulatorWindowsAndGrants ∧ Claim.SlicesServe ∧ Claim.LinesFill

/-- Channel reads with retry and poison, writes, refresh, scrubbing and training: `Claim.ChannelReads`, `Claim.ChannelWritesAndRefreshes`,
`Claim.ScrubAndTraining`. -/
def Obligations.ChannelsWork : Prop := Claim.ChannelReads ∧ Claim.ChannelWritesAndRefreshes ∧ Claim.ScrubAndTraining

/-- The Trail runs its slots, beats cross the mesh and leave it, and Daypack parcels move, arrive and land: `Claim.DaypackParcelsMove`,
`Claim.DaypackParcelsArrive`, `Claim.DaypackTransfersLand`, `Claim.TrailSlotsRun`, `Claim.BeatsCrossTheMesh`, `Claim.BeatsLeaveTheTrail`. -/
def Obligations.TrailAndDaypack : Prop :=
  Claim.DaypackParcelsMove ∧ Claim.DaypackParcelsArrive ∧ Claim.DaypackTransfersLand ∧ Claim.TrailSlotsRun ∧ Claim.BeatsCrossTheMesh ∧
    Claim.BeatsLeaveTheTrail

/-- Whistle flits hop, messages arrive, and they act: `Claim.WhistleFlitsHop`, `Claim.WhistleMessagesArrive`, `Claim.WhistleMessagesAct`. -/
def Obligations.WhistleWorks : Prop :=
  Claim.WhistleFlitsHop ∧ Claim.WhistleMessagesArrive ∧ Claim.WhistleMessagesAct

/-- A symbol acts once; barrier symbols count, and release: `Claim.SymbolsActOnce`, `Claim.BarrierSymbols`. -/
def Obligations.SymbolsOnTheLinks : Prop := Claim.SymbolsActOnce ∧ Claim.BarrierSymbols

/-- Start barriers, time and the rates of a system: `Claim.StartInStep`, `Claim.TimeAndSync`, `Claim.SystemRates`. -/
def Obligations.SystemsRunInStep : Prop := Claim.StartInStep ∧ Claim.TimeAndSync ∧ Claim.SystemRates

/-- Permits, the Damper and the rate: `Claim.StepPermitsCount`, `Claim.DamperMovesTheVoltage`, `Claim.DampingLowersTheRate`,
`Claim.RateOfTheLevel`. -/
def Obligations.PacingWorks : Prop :=
  Claim.StepPermitsCount ∧ Claim.DamperMovesTheVoltage ∧ Claim.DampingLowersTheRate ∧ Claim.RateOfTheLevel

/-- The coolant loop, the power cap and the domains: `Claim.RateFollowsHeatAndPower`, `Claim.CoolantLoopRuns`, `Claim.DomainsChange`. -/
def Obligations.HeatAndPower : Prop := Claim.RateFollowsHeatAndPower ∧ Claim.CoolantLoopRuns ∧ Claim.DomainsChange

/-- READ, SEGMENT READ and REQUEST, with the refusals of R428 and the vendor range: `Claim.Reads`, `Claim.VendorRange`,
`Claim.RequestsAreAnswered`. -/
def Obligations.MessagesAreAnswered : Prop := Claim.Reads ∧ Claim.VendorRange ∧ Claim.RequestsAreAnswered

/-- Writes of entries: checks, effects and stores: `Claim.EntryWrites`, `Claim.EffectsOfWrites`. -/
def Obligations.EntriesAreWritten : Prop := Claim.EntryWrites ∧ Claim.EffectsOfWrites

/-- Stores complete, and bundle writes commit: `Claim.StoresComplete`, `Claim.BundleWrites`. -/
def Obligations.StoresAndBundles : Prop := Claim.StoresComplete ∧ Claim.BundleWrites

/-- Image segments, and the weight image to its hash: `Claim.ImageSegments`, `Claim.WeightImages`. -/
def Obligations.ImagesArrive : Prop := Claim.ImageSegments ∧ Claim.WeightImages

/-- The firmware update and the recovery loader: `Claim.FirmwareInstall`, `Claim.FirmwareBlocks`, `Claim.RecoveryLoader`. -/
def Obligations.FirmwareUpdates : Prop := Claim.FirmwareInstall ∧ Claim.FirmwareBlocks ∧ Claim.RecoveryLoader

/-- A pack is installed, started and halted: `Claim.PacksInstall`, `Claim.PacksStart`, `Claim.PacksHalt`. -/
def Obligations.PacksRun : Prop := Claim.PacksInstall ∧ Claim.PacksStart ∧ Claim.PacksHalt

/-- Fabric reset, calibration and the array diagnostic: `Claim.FabricResets`, `Claim.CalibrationAndDiagnostics`. -/
def Obligations.ResetsAndCalibration : Prop := Claim.FabricResets ∧ Claim.CalibrationAndDiagnostics

/-- Service requests are gathered and forwarded: `Claim.SubmitsGather`, `Claim.ForwardedRequests`. -/
def Obligations.RequestsAreGathered : Prop := Claim.SubmitsGather ∧ Claim.ForwardedRequests

/-- Admission, the closing of results, signing and FETCH: `Claim.AdmissionTakesTheNextNumber`, `Claim.ResultsClose`,
`Claim.FetchWithinTenSeconds`. -/
def Obligations.ResultsAreServed : Prop := Claim.AdmissionTakesTheNextNumber ∧ Claim.ResultsClose ∧ Claim.FetchWithinTenSeconds

/-- Power sequencing and module reset: `Claim.PowerComesAndGoes`, `Claim.ModuleResetKeepsTheImage`. -/
def Obligations.PowerSequences : Prop := Claim.PowerComesAndGoes ∧ Claim.ModuleResetKeepsTheImage

/-- The start-up timeline and the restarts of Ranger and Basecamp: `Claim.TimelineGoesOn`, `Claim.RestartsOfTheProcessors`. -/
def Obligations.TimelineAndRestarts : Prop := Claim.TimelineGoesOn ∧ Claim.RestartsOfTheProcessors

/-- The test port, and the management port below UDP: `Claim.TestPort`, `Claim.PortAnswers`. -/
def Obligations.PinsAndPort : Prop := Claim.TestPort ∧ Claim.PortAnswers
end

