-- ==== Sys2Proof/Laws/Bits.lean ====
section
/-! SUPPORT. Byte lists and the numbers they spell. -/

namespace Sys2Proof.Machine

@[simp] theorem leBytes_length (n x : Nat) : (leBytes n x).length = n := by
  induction n generalizing x with
  | zero => rfl
  | succ n ih => simp [leBytes, ih]

@[simp] theorem beBytes_length (n x : Nat) : (beBytes n x).length = n := by simp [beBytes]

/-- Reading back what n bytes hold of a number. -/
@[simp] theorem leNat_leBytes (n x : Nat) : leNat (leBytes n x) = x % 256 ^ n := by
  induction n generalizing x with
  | zero => simp [leBytes, leNat, Nat.mod_one]
  | succ n ih =>
    show (BitVec.ofNat 8 x).toNat + 256 * leNat (leBytes n (x / 256)) = _
    have h : x % (256 * 256 ^ n) = x % 256 + 256 * (x / 256 % 256 ^ n) := Nat.mod_mul
    rw [ih, BitVec.toNat_ofNat, Nat.pow_succ' (n := n), h]

theorem leNat_lt (bs : List Byte) : leNat bs < 256 ^ bs.length := by
  induction bs with
  | nil => simp [leNat]
  | cons b r ih =>
    have := b.isLt
    simp only [leNat, List.length_cons, Nat.pow_succ']
    omega

theorem leBytes_leNat (bs : List Byte) : leBytes bs.length (leNat bs) = bs := by
  induction bs with
  | nil => rfl
  | cons b r ih =>
    have hb := b.isLt
    have h1 : (b.toNat + 256 * leNat r) / 256 = leNat r := by omega
    have h2 : BitVec.ofNat 8 (b.toNat + 256 * leNat r) = b := by
      apply BitVec.eq_of_toNat_eq
      simp only [BitVec.toNat_ofNat]
      omega
    simp only [leNat, List.length_cons, leBytes, h1, h2, ih]

theorem leNat_append (a b : List Byte) : leNat (a ++ b) = leNat a + 256 ^ a.length * leNat b := by
  induction a with
  | nil => simp [leNat]
  | cons x r ih => simp only [List.cons_append, leNat, ih, List.length_cons, Nat.pow_succ']; ring

/-- The big-endian number is the little-endian one of the bytes in reverse. -/
theorem beNat_eq (bs : List Byte) : beNat bs = leNat bs.reverse := by
  induction bs using List.reverseRecOn with
  | nil => rfl
  | append_singleton l b ih =>
    rw [beNat, List.foldl_append, List.reverse_append]
    show 256 * beNat l + b.toNat = _
    simp only [ih, List.reverse_cons, List.reverse_nil, List.nil_append, List.singleton_append, leNat]
    omega

@[simp] theorem beNat_beBytes (n x : Nat) : beNat (beBytes n x) = x % 256 ^ n := by simp [beNat_eq, beBytes]

@[simp] theorem slice_length (bs : List Byte) (off n : Nat) : (slice bs off n).length = n := by
  simp [slice]

theorem slice_all (bs : List Byte) : slice bs 0 bs.length = bs := by simp [slice]

theorem fieldAt_lt (bs : List Byte) (off n : Nat) : fieldAt bs off n < 256 ^ n := by
  have := leNat_lt (slice bs off n)
  simpa [fieldAt] using this

theorem bitsOf_lt (x hi lo : Nat) : bitsOf x hi lo < 2 ^ (hi + 1 - lo) := Nat.mod_lt _ (Nat.two_pow_pos _)

theorem bitsOf_eq (x hi lo : Nat) : bitsOf x hi lo = x / 2 ^ lo % 2 ^ (hi + 1 - lo) := by rw [bitsOf, Nat.shiftRight_eq_div_pow]

end Sys2Proof.Machine
end

