-- ==== Sys2Proof/Laws/Sparse.lean ====
section
/-! SUPPORT. Laws of sparse maps: read after write, and every operation keeps the canonical form. -/

namespace Sys2Proof.Sparse

variable {α : Type}

theorem get_insert (d x : α) (i j : Nat) (m : SMap α) (h : ∀ p ∈ m, p.1 ≠ i) :
    get d (insert i x m) j = if i = j then x else get d m j := by
  induction m with
  | nil => simp [insert, get]
  | cons p r ih =>
    obtain ⟨k, v⟩ := p
    have hk : k ≠ i := h (k, v) (by simp)
    have hr := ih (fun q hq => h q (by simp [hq]))
    by_cases h1 : i < k
    · simp [insert, get, h1]
    · simp only [insert, h1, if_false, get, hr]
      by_cases h2 : k = j
      · subst h2; simp [Ne.symm hk]
      · simp [h2]

theorem get_erase (d : α) (i j : Nat) (m : SMap α) :
    get d (erase i m) j = if i = j then d else get d m j := by
  induction m with
  | nil => simp [erase, get]
  | cons p r ih =>
    obtain ⟨k, v⟩ := p
    by_cases h1 : k = i
    · subst h1
      by_cases h2 : k = j
      · subst h2; simpa [erase] using ih
      · simp [erase, get, ih, h2]
    · by_cases h2 : k = j
      · subst h2; simp [erase, get, h1, Ne.symm h1]
      · simp [erase, get, h1, h2, ih]

theorem erase_no_key (i : Nat) (m : SMap α) : ∀ p ∈ erase i m, p.1 ≠ i := by
  induction m with
  | nil => simp [erase]
  | cons p r ih =>
    obtain ⟨k, v⟩ := p
    by_cases h1 : k = i
    · simpa [erase, h1] using ih
    · intro q hq
      simp only [erase, h1, if_false, List.mem_cons] at hq
      rcases hq with rfl | hq
      · exact h1
      · exact ih q hq

/-- Read after write, whatever the map. -/
theorem get_set [DecidableEq α] (d x : α) (m : SMap α) (i j : Nat) :
    get d (set d m i x) j = if i = j then x else get d m j := by
  unfold set
  by_cases hx : x = d
  · subst hx; simp [get_erase]
  · simp only [hx, if_false, get_insert d x i j _ (erase_no_key i m), get_erase]
    by_cases h : i = j <;> simp [h]

@[simp] theorem get_set_same [DecidableEq α] (d x : α) (m : SMap α) (i : Nat) :
    get d (set d m i x) i = x := by simp [get_set]

theorem erase_erase (i : Nat) (m : SMap α) : erase i (erase i m) = erase i m := by
  induction m with
  | nil => rfl
  | cons p r ih => obtain ⟨k, v⟩ := p; by_cases h : k = i <;> simp [erase, h, ih]

theorem erase_insert (i : Nat) (x : α) (m : SMap α) : erase i (insert i x m) = erase i m := by
  induction m with
  | nil => simp [insert, erase]
  | cons p r ih =>
    obtain ⟨k, v⟩ := p
    by_cases h1 : i < k
    · simp [insert, erase, h1]
    · by_cases h2 : k = i <;> simp [insert, erase, h1, h2, ih]

/-- The later of two writes at one key stands. -/
@[simp] theorem set_set [DecidableEq α] (d x y : α) (m : SMap α) (i : Nat) :
    set d (set d m i x) i y = set d m i y := by
  unfold set
  by_cases hx : x = d <;> by_cases hy : y = d <;> simp [hx, hy, erase_insert, erase_erase]

theorem get_set_other [DecidableEq α] (d x : α) (m : SMap α) {i j : Nat} (h : i ≠ j) :
    get d (set d m i x) j = get d m j := by simp [get_set, h]

@[simp] theorem get_nil (d : α) (i : Nat) : get d ([] : SMap α) i = d := rfl

/-- A range cleared reads as the default; every other key reads as before. -/
theorem get_clear (d : α) (m : SMap α) (lo hi j : Nat) :
    get d (clear m lo hi) j = if lo ≤ j ∧ j < hi then d else get d m j := by
  induction m with
  | nil => simp [clear, get]
  | cons p r ih =>
    obtain ⟨k, v⟩ := p
    simp only [clear] at ih
    by_cases h1 : k < lo ∨ hi ≤ k
    · have : clear ((k, v) :: r) lo hi = (k, v) :: clear r lo hi := by simp [clear, h1]
      rw [this]
      by_cases h2 : k = j
      · subst h2
        have : ¬ (lo ≤ k ∧ k < hi) := by omega
        simp [get, this]
      · simp [get, h2, clear, ih]
    · have : clear ((k, v) :: r) lo hi = clear r lo hi := by simp [clear, h1]
      rw [this]
      by_cases h2 : k = j
      · subst h2
        have : lo ≤ k ∧ k < hi := by omega
        simp [clear, ih, this]
      · simp [get, h2, clear, ih]

theorem above_iff (b : Nat) (m : SMap α) : above b m = true ↔ ∀ p ∈ m, b < p.1 := by
  induction m with
  | nil => simp [above]
  | cons p r ih => obtain ⟨k, v⟩ := p; simp [above, ih]

theorem wf_cons [DecidableEq α] (d : α) (k : Nat) (v : α) (r : SMap α) :
    wf d ((k, v) :: r) = true ↔ v ≠ d ∧ (∀ p ∈ r, k < p.1) ∧ wf d r = true := by
  simp [wf, above_iff, and_assoc]

theorem mem_of_erase (i : Nat) (m : SMap α) {p : Nat × α} (h : p ∈ erase i m) : p ∈ m := by
  induction m with
  | nil => simp [erase] at h
  | cons q r ih =>
    obtain ⟨k, v⟩ := q
    by_cases h1 : k = i
    · simp only [erase, h1, if_true] at h
      exact List.mem_cons_of_mem _ (ih h)
    · simp only [erase, h1, if_false, List.mem_cons] at h
      rcases h with h | h
      · simp [h]
      · exact List.mem_cons_of_mem _ (ih h)

theorem wf_erase [DecidableEq α] (d : α) (i : Nat) (m : SMap α) (h : wf d m = true) :
    wf d (erase i m) = true := by
  induction m with
  | nil => rfl
  | cons p r ih =>
    obtain ⟨k, v⟩ := p
    obtain ⟨h1, h2, h3⟩ := (wf_cons d k v r).1 h
    by_cases hk : k = i
    · simpa [erase, hk] using ih h3
    · simp only [erase, hk, if_false]
      exact (wf_cons ..).2 ⟨h1, fun q hq => h2 q (mem_of_erase i r hq), ih h3⟩

theorem mem_insert (i : Nat) (x : α) (m : SMap α) {p : Nat × α} (h : p ∈ insert i x m) :
    p = (i, x) ∨ p ∈ m := by
  induction m with
  | nil => simpa [insert] using h
  | cons q r ih =>
    obtain ⟨k, v⟩ := q
    by_cases h1 : i < k
    · simpa [insert, h1] using h
    · simp only [insert, h1, if_false, List.mem_cons] at h
      rcases h with h | h
      · simp [h]
      · rcases ih h with h | h <;> simp [h]

theorem wf_insert [DecidableEq α] (d x : α) (i : Nat) (m : SMap α) (hx : x ≠ d)
    (hn : ∀ p ∈ m, p.1 ≠ i) (h : wf d m = true) : wf d (insert i x m) = true := by
  induction m with
  | nil => simp [insert, wf, above, hx]
  | cons p r ih =>
    obtain ⟨k, v⟩ := p
    obtain ⟨h1, h2, h3⟩ := (wf_cons d k v r).1 h
    have hk : k ≠ i := hn (k, v) (by simp)
    by_cases hlt : i < k
    · simp only [insert, hlt, if_true]
      refine (wf_cons ..).2 ⟨hx, ?_, h⟩
      intro q hq
      rcases List.mem_cons.1 hq with rfl | hq
      · exact hlt
      · exact lt_trans hlt (h2 q hq)
    · simp only [insert, hlt, if_false]
      refine (wf_cons ..).2 ⟨h1, ?_, ih (fun q hq => hn q (by simp [hq])) h3⟩
      intro q hq
      rcases mem_insert i x r hq with rfl | hq
      · simp; omega
      · exact h2 q hq

/-- A write keeps the canonical form. -/
theorem wf_set [DecidableEq α] (d x : α) (m : SMap α) (i : Nat) (h : wf d m = true) :
    wf d (set d m i x) = true := by
  unfold set
  by_cases hx : x = d
  · simp [hx, wf_erase d i m h]
  · simp only [hx, if_false]
    exact wf_insert d x i _ hx (erase_no_key i m) (wf_erase d i m h)

/-- A list of writes keeps the canonical form. -/
theorem wf_setAll [DecidableEq α] (d : α) (ws : List (Nat × α)) :
    ∀ m : SMap α, wf d m = true → wf d (setAll d m ws) = true := by
  induction ws with
  | nil => intro m h; exact h
  | cons p r ih => intro m h; exact ih _ (wf_set d p.2 m p.1 h)

/-- A list of writes leaves every key it does not name as it was. -/
theorem get_setAll_other [DecidableEq α] (d : α) (ws : List (Nat × α)) (j : Nat) (h : ∀ p ∈ ws, p.1 ≠ j) :
    ∀ m : SMap α, get d (setAll d m ws) j = get d m j := by
  induction ws with
  | nil => intro m; rfl
  | cons p r ih =>
    intro m
    have hp : p.1 ≠ j := h p (by simp)
    simpa [setAll, get_set_other d p.2 m hp] using ih (fun q hq => h q (by simp [hq])) (set d m p.1 p.2)

/-- Clearing a range keeps the canonical form. -/
theorem wf_clear [DecidableEq α] (d : α) (m : SMap α) (lo hi : Nat) (h : wf d m = true) :
    wf d (clear m lo hi) = true := by
  induction m with
  | nil => rfl
  | cons p r ih =>
    obtain ⟨k, v⟩ := p
    obtain ⟨h1, h2, h3⟩ := (wf_cons d k v r).1 h
    by_cases hk : k < lo ∨ hi ≤ k
    · have : clear ((k, v) :: r) lo hi = (k, v) :: clear r lo hi := by simp [clear, hk]
      rw [this]
      exact (wf_cons ..).2 ⟨h1, fun q hq => h2 q (List.mem_of_mem_filter hq), ih h3⟩
    · have : clear ((k, v) :: r) lo hi = clear r lo hi := by simp [clear, hk]
      rw [this]; exact ih h3

end Sys2Proof.Sparse
end

