-- ==== Sys2Proof/Laws/State.lean ====
section
/-! SUPPORT. Laws of the state's setters: what each leaves as it was (by rfl), and what its own getter reads back. -/

namespace Sys2Proof.Machine.State

variable (s : State)

/-! ## setSeq -/

@[simp] theorem setSeq_pending (c : Nat) (v : Seq) : (s.setSeq c v).pending = s.pending := rfl
@[simp] theorem setSeq_ctrs (c : Nat) (v : Seq) : (s.setSeq c v).ctrs = s.ctrs := rfl
@[simp] theorem setSeq_holdq (c : Nat) (v : Seq) : (s.setSeq c v).holdq = s.holdq := rfl
@[simp] theorem setSeq_trail (c : Nat) (v : Seq) : (s.setSeq c v).trail = s.trail := rfl
@[simp] theorem setSeq_whistle (c : Nat) (v : Seq) : (s.setSeq c v).whistle = s.whistle := rfl
@[simp] theorem setSeq_cairn (c : Nat) (v : Seq) : (s.setSeq c v).cairn = s.cairn := rfl
@[simp] theorem setSeq_slices (c : Nat) (v : Seq) : (s.setSeq c v).slices = s.slices := rfl
@[simp] theorem setSeq_cacheWays (c : Nat) (v : Seq) : (s.setSeq c v).cacheWays = s.cacheWays := rfl
@[simp] theorem setSeq_pinWays (c : Nat) (v : Seq) : (s.setSeq c v).pinWays = s.pinWays := rfl
@[simp] theorem setSeq_sliceMiss (c : Nat) (v : Seq) : (s.setSeq c v).sliceMiss = s.sliceMiss := rfl
@[simp] theorem setSeq_sliceWb (c : Nat) (v : Seq) : (s.setSeq c v).sliceWb = s.sliceWb := rfl
@[simp] theorem setSeq_mm (c : Nat) (v : Seq) : (s.setSeq c v).mm = s.mm := rfl
@[simp] theorem setSeq_gl (c : Nat) (v : Seq) : (s.setSeq c v).gl = s.gl := rfl
@[simp] theorem setSeq_pace (c : Nat) (v : Seq) : (s.setSeq c v).pace = s.pace := rfl
@[simp] theorem setSeq_pwr (c : Nat) (v : Seq) : (s.setSeq c v).pwr = s.pwr := rfl
@[simp] theorem setSeq_cool (c : Nat) (v : Seq) : (s.setSeq c v).cool = s.cool := rfl
@[simp] theorem setSeq_rng (c : Nat) (v : Seq) : (s.setSeq c v).rng = s.rng := rfl
@[simp] theorem setSeq_dict (c : Nat) (v : Seq) : (s.setSeq c v).dict = s.dict := rfl
@[simp] theorem setSeq_sums (c : Nat) (v : Seq) : (s.setSeq c v).sums = s.sums := rfl
@[simp] theorem setSeq_pack (c : Nat) (v : Seq) : (s.setSeq c v).pack = s.pack := rfl
@[simp] theorem setSeq_wimg (c : Nat) (v : Seq) : (s.setSeq c v).wimg = s.wimg := rfl
@[simp] theorem setSeq_fw (c : Nat) (v : Seq) : (s.setSeq c v).fw = s.fw := rfl
@[simp] theorem setSeq_log (c : Nat) (v : Seq) : (s.setSeq c v).log = s.log := rfl
@[simp] theorem setSeq_svc (c : Nat) (v : Seq) : (s.setSeq c v).svc = s.svc := rfl
@[simp] theorem setSeq_tap (c : Nat) (v : Seq) : (s.setSeq c v).tap = s.tap := rfl
@[simp] theorem setSeq_fuses (c : Nat) (v : Seq) : (s.setSeq c v).fuses = s.fuses := rfl
@[simp] theorem setSeq_out (c : Nat) (v : Seq) : (s.setSeq c v).out = s.out := rfl
@[simp] theorem setSeq_nowMs (c : Nat) (v : Seq) : (s.setSeq c v).nowMs = s.nowMs := rfl
@[simp] theorem setSeq_free (c : Nat) (v : Seq) : (s.setSeq c v).free = s.free := rfl
@[simp] theorem setSeq_mem (c : Nat) (v : Seq) : (s.setSeq c v).mem = s.mem := rfl
@[simp] theorem setSeq_now (c : Nat) (v : Seq) : (s.setSeq c v).now = s.now := rfl
@[simp] theorem setSeq_arr (c : Nat) (v : Seq) (k : Nat) : (s.setSeq c v).arr k = s.arr k := rfl
@[simp] theorem setSeq_acc (c : Nat) (v : Seq) (k : Nat) : (s.setSeq c v).acc k = s.acc k := rfl
@[simp] theorem setSeq_drn (c : Nat) (v : Seq) (k : Nat) : (s.setSeq c v).drn k = s.drn k := rfl
@[simp] theorem setSeq_vec (c : Nat) (v : Seq) (k : Nat) : (s.setSeq c v).vec k = s.vec k := rfl
@[simp] theorem setSeq_bnd (c : Nat) (v : Seq) (k : Nat) : (s.setSeq c v).bnd k = s.bnd k := rfl
@[simp] theorem setSeq_cnt (c : Nat) (v : Seq) (k : Nat) : (s.setSeq c v).cnt k = s.cnt k := rfl
@[simp] theorem setSeq_eng (c : Nat) (v : Seq) (k j : Nat) : (s.setSeq c v).eng k j = s.eng k j := rfl
@[simp] theorem setSeq_dpkq (c : Nat) (v : Seq) (k : Nat) : (s.setSeq c v).dpkq k = s.dpkq k := rfl
@[simp] theorem setSeq_ctr (c : Nat) (v : Seq) (k : Nat) : (s.setSeq c v).ctr k = s.ctr k := rfl
@[simp] theorem setSeq_cairnCh (c : Nat) (v : Seq) (k : Nat) : (s.setSeq c v).cairnCh k = s.cairnCh k := rfl
@[simp] theorem setSeq_sliceAt (c : Nat) (v : Seq) (k : Nat) : (s.setSeq c v).sliceAt k = s.sliceAt k := rfl
@[simp] theorem setSeq_chan (c : Nat) (v : Seq) (k : Nat) : (s.setSeq c v).chan k = s.chan k := rfl
@[simp] theorem setSeq_gport (c : Nat) (v : Seq) (k : Nat) : (s.setSeq c v).gport k = s.gport k := rfl
@[simp] theorem setSeq_seq_same (c : Nat) (v : Seq) : (s.setSeq c v).seq c = v := by simp [setSeq, seq]
theorem setSeq_seq_other (c : Nat) (v : Seq) {k : Nat} (h : c ≠ k) : (s.setSeq c v).seq k = s.seq k := by
  simp [setSeq, seq, Sparse.get_set_other _ _ _ h]
@[simp] theorem setSeq_setSeq (c : Nat) (v w : Seq) : (s.setSeq c v).setSeq c w = s.setSeq c w := by simp [setSeq]

/-! ## setArr -/

@[simp] theorem setArr_pending (c : Nat) (v : Arr) : (s.setArr c v).pending = s.pending := rfl
@[simp] theorem setArr_ctrs (c : Nat) (v : Arr) : (s.setArr c v).ctrs = s.ctrs := rfl
@[simp] theorem setArr_holdq (c : Nat) (v : Arr) : (s.setArr c v).holdq = s.holdq := rfl
@[simp] theorem setArr_trail (c : Nat) (v : Arr) : (s.setArr c v).trail = s.trail := rfl
@[simp] theorem setArr_whistle (c : Nat) (v : Arr) : (s.setArr c v).whistle = s.whistle := rfl
@[simp] theorem setArr_cairn (c : Nat) (v : Arr) : (s.setArr c v).cairn = s.cairn := rfl
@[simp] theorem setArr_slices (c : Nat) (v : Arr) : (s.setArr c v).slices = s.slices := rfl
@[simp] theorem setArr_cacheWays (c : Nat) (v : Arr) : (s.setArr c v).cacheWays = s.cacheWays := rfl
@[simp] theorem setArr_pinWays (c : Nat) (v : Arr) : (s.setArr c v).pinWays = s.pinWays := rfl
@[simp] theorem setArr_sliceMiss (c : Nat) (v : Arr) : (s.setArr c v).sliceMiss = s.sliceMiss := rfl
@[simp] theorem setArr_sliceWb (c : Nat) (v : Arr) : (s.setArr c v).sliceWb = s.sliceWb := rfl
@[simp] theorem setArr_mm (c : Nat) (v : Arr) : (s.setArr c v).mm = s.mm := rfl
@[simp] theorem setArr_gl (c : Nat) (v : Arr) : (s.setArr c v).gl = s.gl := rfl
@[simp] theorem setArr_pace (c : Nat) (v : Arr) : (s.setArr c v).pace = s.pace := rfl
@[simp] theorem setArr_pwr (c : Nat) (v : Arr) : (s.setArr c v).pwr = s.pwr := rfl
@[simp] theorem setArr_cool (c : Nat) (v : Arr) : (s.setArr c v).cool = s.cool := rfl
@[simp] theorem setArr_rng (c : Nat) (v : Arr) : (s.setArr c v).rng = s.rng := rfl
@[simp] theorem setArr_dict (c : Nat) (v : Arr) : (s.setArr c v).dict = s.dict := rfl
@[simp] theorem setArr_sums (c : Nat) (v : Arr) : (s.setArr c v).sums = s.sums := rfl
@[simp] theorem setArr_pack (c : Nat) (v : Arr) : (s.setArr c v).pack = s.pack := rfl
@[simp] theorem setArr_wimg (c : Nat) (v : Arr) : (s.setArr c v).wimg = s.wimg := rfl
@[simp] theorem setArr_fw (c : Nat) (v : Arr) : (s.setArr c v).fw = s.fw := rfl
@[simp] theorem setArr_log (c : Nat) (v : Arr) : (s.setArr c v).log = s.log := rfl
@[simp] theorem setArr_svc (c : Nat) (v : Arr) : (s.setArr c v).svc = s.svc := rfl
@[simp] theorem setArr_tap (c : Nat) (v : Arr) : (s.setArr c v).tap = s.tap := rfl
@[simp] theorem setArr_fuses (c : Nat) (v : Arr) : (s.setArr c v).fuses = s.fuses := rfl
@[simp] theorem setArr_out (c : Nat) (v : Arr) : (s.setArr c v).out = s.out := rfl
@[simp] theorem setArr_nowMs (c : Nat) (v : Arr) : (s.setArr c v).nowMs = s.nowMs := rfl
@[simp] theorem setArr_free (c : Nat) (v : Arr) : (s.setArr c v).free = s.free := rfl
@[simp] theorem setArr_mem (c : Nat) (v : Arr) : (s.setArr c v).mem = s.mem := rfl
@[simp] theorem setArr_now (c : Nat) (v : Arr) : (s.setArr c v).now = s.now := rfl
@[simp] theorem setArr_seq (c : Nat) (v : Arr) (k : Nat) : (s.setArr c v).seq k = s.seq k := rfl
@[simp] theorem setArr_acc (c : Nat) (v : Arr) (k : Nat) : (s.setArr c v).acc k = s.acc k := rfl
@[simp] theorem setArr_drn (c : Nat) (v : Arr) (k : Nat) : (s.setArr c v).drn k = s.drn k := rfl
@[simp] theorem setArr_vec (c : Nat) (v : Arr) (k : Nat) : (s.setArr c v).vec k = s.vec k := rfl
@[simp] theorem setArr_bnd (c : Nat) (v : Arr) (k : Nat) : (s.setArr c v).bnd k = s.bnd k := rfl
@[simp] theorem setArr_cnt (c : Nat) (v : Arr) (k : Nat) : (s.setArr c v).cnt k = s.cnt k := rfl
@[simp] theorem setArr_eng (c : Nat) (v : Arr) (k j : Nat) : (s.setArr c v).eng k j = s.eng k j := rfl
@[simp] theorem setArr_dpkq (c : Nat) (v : Arr) (k : Nat) : (s.setArr c v).dpkq k = s.dpkq k := rfl
@[simp] theorem setArr_ctr (c : Nat) (v : Arr) (k : Nat) : (s.setArr c v).ctr k = s.ctr k := rfl
@[simp] theorem setArr_cairnCh (c : Nat) (v : Arr) (k : Nat) : (s.setArr c v).cairnCh k = s.cairnCh k := rfl
@[simp] theorem setArr_sliceAt (c : Nat) (v : Arr) (k : Nat) : (s.setArr c v).sliceAt k = s.sliceAt k := rfl
@[simp] theorem setArr_chan (c : Nat) (v : Arr) (k : Nat) : (s.setArr c v).chan k = s.chan k := rfl
@[simp] theorem setArr_gport (c : Nat) (v : Arr) (k : Nat) : (s.setArr c v).gport k = s.gport k := rfl
@[simp] theorem setArr_arr_same (c : Nat) (v : Arr) : (s.setArr c v).arr c = v := by simp [setArr, arr]
theorem setArr_arr_other (c : Nat) (v : Arr) {k : Nat} (h : c ≠ k) : (s.setArr c v).arr k = s.arr k := by
  simp [setArr, arr, Sparse.get_set_other _ _ _ h]
@[simp] theorem setArr_setArr (c : Nat) (v w : Arr) : (s.setArr c v).setArr c w = s.setArr c w := by simp [setArr]

/-! ## setAcc -/

@[simp] theorem setAcc_pending (c : Nat) (v : Acc) : (s.setAcc c v).pending = s.pending := rfl
@[simp] theorem setAcc_ctrs (c : Nat) (v : Acc) : (s.setAcc c v).ctrs = s.ctrs := rfl
@[simp] theorem setAcc_holdq (c : Nat) (v : Acc) : (s.setAcc c v).holdq = s.holdq := rfl
@[simp] theorem setAcc_trail (c : Nat) (v : Acc) : (s.setAcc c v).trail = s.trail := rfl
@[simp] theorem setAcc_whistle (c : Nat) (v : Acc) : (s.setAcc c v).whistle = s.whistle := rfl
@[simp] theorem setAcc_cairn (c : Nat) (v : Acc) : (s.setAcc c v).cairn = s.cairn := rfl
@[simp] theorem setAcc_slices (c : Nat) (v : Acc) : (s.setAcc c v).slices = s.slices := rfl
@[simp] theorem setAcc_cacheWays (c : Nat) (v : Acc) : (s.setAcc c v).cacheWays = s.cacheWays := rfl
@[simp] theorem setAcc_pinWays (c : Nat) (v : Acc) : (s.setAcc c v).pinWays = s.pinWays := rfl
@[simp] theorem setAcc_sliceMiss (c : Nat) (v : Acc) : (s.setAcc c v).sliceMiss = s.sliceMiss := rfl
@[simp] theorem setAcc_sliceWb (c : Nat) (v : Acc) : (s.setAcc c v).sliceWb = s.sliceWb := rfl
@[simp] theorem setAcc_mm (c : Nat) (v : Acc) : (s.setAcc c v).mm = s.mm := rfl
@[simp] theorem setAcc_gl (c : Nat) (v : Acc) : (s.setAcc c v).gl = s.gl := rfl
@[simp] theorem setAcc_pace (c : Nat) (v : Acc) : (s.setAcc c v).pace = s.pace := rfl
@[simp] theorem setAcc_pwr (c : Nat) (v : Acc) : (s.setAcc c v).pwr = s.pwr := rfl
@[simp] theorem setAcc_cool (c : Nat) (v : Acc) : (s.setAcc c v).cool = s.cool := rfl
@[simp] theorem setAcc_rng (c : Nat) (v : Acc) : (s.setAcc c v).rng = s.rng := rfl
@[simp] theorem setAcc_dict (c : Nat) (v : Acc) : (s.setAcc c v).dict = s.dict := rfl
@[simp] theorem setAcc_sums (c : Nat) (v : Acc) : (s.setAcc c v).sums = s.sums := rfl
@[simp] theorem setAcc_pack (c : Nat) (v : Acc) : (s.setAcc c v).pack = s.pack := rfl
@[simp] theorem setAcc_wimg (c : Nat) (v : Acc) : (s.setAcc c v).wimg = s.wimg := rfl
@[simp] theorem setAcc_fw (c : Nat) (v : Acc) : (s.setAcc c v).fw = s.fw := rfl
@[simp] theorem setAcc_log (c : Nat) (v : Acc) : (s.setAcc c v).log = s.log := rfl
@[simp] theorem setAcc_svc (c : Nat) (v : Acc) : (s.setAcc c v).svc = s.svc := rfl
@[simp] theorem setAcc_tap (c : Nat) (v : Acc) : (s.setAcc c v).tap = s.tap := rfl
@[simp] theorem setAcc_fuses (c : Nat) (v : Acc) : (s.setAcc c v).fuses = s.fuses := rfl
@[simp] theorem setAcc_out (c : Nat) (v : Acc) : (s.setAcc c v).out = s.out := rfl
@[simp] theorem setAcc_nowMs (c : Nat) (v : Acc) : (s.setAcc c v).nowMs = s.nowMs := rfl
@[simp] theorem setAcc_free (c : Nat) (v : Acc) : (s.setAcc c v).free = s.free := rfl
@[simp] theorem setAcc_mem (c : Nat) (v : Acc) : (s.setAcc c v).mem = s.mem := rfl
@[simp] theorem setAcc_now (c : Nat) (v : Acc) : (s.setAcc c v).now = s.now := rfl
@[simp] theorem setAcc_seq (c : Nat) (v : Acc) (k : Nat) : (s.setAcc c v).seq k = s.seq k := rfl
@[simp] theorem setAcc_arr (c : Nat) (v : Acc) (k : Nat) : (s.setAcc c v).arr k = s.arr k := rfl
@[simp] theorem setAcc_drn (c : Nat) (v : Acc) (k : Nat) : (s.setAcc c v).drn k = s.drn k := rfl
@[simp] theorem setAcc_vec (c : Nat) (v : Acc) (k : Nat) : (s.setAcc c v).vec k = s.vec k := rfl
@[simp] theorem setAcc_bnd (c : Nat) (v : Acc) (k : Nat) : (s.setAcc c v).bnd k = s.bnd k := rfl
@[simp] theorem setAcc_cnt (c : Nat) (v : Acc) (k : Nat) : (s.setAcc c v).cnt k = s.cnt k := rfl
@[simp] theorem setAcc_eng (c : Nat) (v : Acc) (k j : Nat) : (s.setAcc c v).eng k j = s.eng k j := rfl
@[simp] theorem setAcc_dpkq (c : Nat) (v : Acc) (k : Nat) : (s.setAcc c v).dpkq k = s.dpkq k := rfl
@[simp] theorem setAcc_ctr (c : Nat) (v : Acc) (k : Nat) : (s.setAcc c v).ctr k = s.ctr k := rfl
@[simp] theorem setAcc_cairnCh (c : Nat) (v : Acc) (k : Nat) : (s.setAcc c v).cairnCh k = s.cairnCh k := rfl
@[simp] theorem setAcc_sliceAt (c : Nat) (v : Acc) (k : Nat) : (s.setAcc c v).sliceAt k = s.sliceAt k := rfl
@[simp] theorem setAcc_chan (c : Nat) (v : Acc) (k : Nat) : (s.setAcc c v).chan k = s.chan k := rfl
@[simp] theorem setAcc_gport (c : Nat) (v : Acc) (k : Nat) : (s.setAcc c v).gport k = s.gport k := rfl
@[simp] theorem setAcc_acc_same (c : Nat) (v : Acc) : (s.setAcc c v).acc c = v := by simp [setAcc, acc]
theorem setAcc_acc_other (c : Nat) (v : Acc) {k : Nat} (h : c ≠ k) : (s.setAcc c v).acc k = s.acc k := by
  simp [setAcc, acc, Sparse.get_set_other _ _ _ h]
@[simp] theorem setAcc_setAcc (c : Nat) (v w : Acc) : (s.setAcc c v).setAcc c w = s.setAcc c w := by simp [setAcc]

/-! ## setDrn -/

@[simp] theorem setDrn_pending (c : Nat) (v : Drn) : (s.setDrn c v).pending = s.pending := rfl
@[simp] theorem setDrn_ctrs (c : Nat) (v : Drn) : (s.setDrn c v).ctrs = s.ctrs := rfl
@[simp] theorem setDrn_holdq (c : Nat) (v : Drn) : (s.setDrn c v).holdq = s.holdq := rfl
@[simp] theorem setDrn_trail (c : Nat) (v : Drn) : (s.setDrn c v).trail = s.trail := rfl
@[simp] theorem setDrn_whistle (c : Nat) (v : Drn) : (s.setDrn c v).whistle = s.whistle := rfl
@[simp] theorem setDrn_cairn (c : Nat) (v : Drn) : (s.setDrn c v).cairn = s.cairn := rfl
@[simp] theorem setDrn_slices (c : Nat) (v : Drn) : (s.setDrn c v).slices = s.slices := rfl
@[simp] theorem setDrn_cacheWays (c : Nat) (v : Drn) : (s.setDrn c v).cacheWays = s.cacheWays := rfl
@[simp] theorem setDrn_pinWays (c : Nat) (v : Drn) : (s.setDrn c v).pinWays = s.pinWays := rfl
@[simp] theorem setDrn_sliceMiss (c : Nat) (v : Drn) : (s.setDrn c v).sliceMiss = s.sliceMiss := rfl
@[simp] theorem setDrn_sliceWb (c : Nat) (v : Drn) : (s.setDrn c v).sliceWb = s.sliceWb := rfl
@[simp] theorem setDrn_mm (c : Nat) (v : Drn) : (s.setDrn c v).mm = s.mm := rfl
@[simp] theorem setDrn_gl (c : Nat) (v : Drn) : (s.setDrn c v).gl = s.gl := rfl
@[simp] theorem setDrn_pace (c : Nat) (v : Drn) : (s.setDrn c v).pace = s.pace := rfl
@[simp] theorem setDrn_pwr (c : Nat) (v : Drn) : (s.setDrn c v).pwr = s.pwr := rfl
@[simp] theorem setDrn_cool (c : Nat) (v : Drn) : (s.setDrn c v).cool = s.cool := rfl
@[simp] theorem setDrn_rng (c : Nat) (v : Drn) : (s.setDrn c v).rng = s.rng := rfl
@[simp] theorem setDrn_dict (c : Nat) (v : Drn) : (s.setDrn c v).dict = s.dict := rfl
@[simp] theorem setDrn_sums (c : Nat) (v : Drn) : (s.setDrn c v).sums = s.sums := rfl
@[simp] theorem setDrn_pack (c : Nat) (v : Drn) : (s.setDrn c v).pack = s.pack := rfl
@[simp] theorem setDrn_wimg (c : Nat) (v : Drn) : (s.setDrn c v).wimg = s.wimg := rfl
@[simp] theorem setDrn_fw (c : Nat) (v : Drn) : (s.setDrn c v).fw = s.fw := rfl
@[simp] theorem setDrn_log (c : Nat) (v : Drn) : (s.setDrn c v).log = s.log := rfl
@[simp] theorem setDrn_svc (c : Nat) (v : Drn) : (s.setDrn c v).svc = s.svc := rfl
@[simp] theorem setDrn_tap (c : Nat) (v : Drn) : (s.setDrn c v).tap = s.tap := rfl
@[simp] theorem setDrn_fuses (c : Nat) (v : Drn) : (s.setDrn c v).fuses = s.fuses := rfl
@[simp] theorem setDrn_out (c : Nat) (v : Drn) : (s.setDrn c v).out = s.out := rfl
@[simp] theorem setDrn_nowMs (c : Nat) (v : Drn) : (s.setDrn c v).nowMs = s.nowMs := rfl
@[simp] theorem setDrn_free (c : Nat) (v : Drn) : (s.setDrn c v).free = s.free := rfl
@[simp] theorem setDrn_mem (c : Nat) (v : Drn) : (s.setDrn c v).mem = s.mem := rfl
@[simp] theorem setDrn_now (c : Nat) (v : Drn) : (s.setDrn c v).now = s.now := rfl
@[simp] theorem setDrn_seq (c : Nat) (v : Drn) (k : Nat) : (s.setDrn c v).seq k = s.seq k := rfl
@[simp] theorem setDrn_arr (c : Nat) (v : Drn) (k : Nat) : (s.setDrn c v).arr k = s.arr k := rfl
@[simp] theorem setDrn_acc (c : Nat) (v : Drn) (k : Nat) : (s.setDrn c v).acc k = s.acc k := rfl
@[simp] theorem setDrn_vec (c : Nat) (v : Drn) (k : Nat) : (s.setDrn c v).vec k = s.vec k := rfl
@[simp] theorem setDrn_bnd (c : Nat) (v : Drn) (k : Nat) : (s.setDrn c v).bnd k = s.bnd k := rfl
@[simp] theorem setDrn_cnt (c : Nat) (v : Drn) (k : Nat) : (s.setDrn c v).cnt k = s.cnt k := rfl
@[simp] theorem setDrn_eng (c : Nat) (v : Drn) (k j : Nat) : (s.setDrn c v).eng k j = s.eng k j := rfl
@[simp] theorem setDrn_dpkq (c : Nat) (v : Drn) (k : Nat) : (s.setDrn c v).dpkq k = s.dpkq k := rfl
@[simp] theorem setDrn_ctr (c : Nat) (v : Drn) (k : Nat) : (s.setDrn c v).ctr k = s.ctr k := rfl
@[simp] theorem setDrn_cairnCh (c : Nat) (v : Drn) (k : Nat) : (s.setDrn c v).cairnCh k = s.cairnCh k := rfl
@[simp] theorem setDrn_sliceAt (c : Nat) (v : Drn) (k : Nat) : (s.setDrn c v).sliceAt k = s.sliceAt k := rfl
@[simp] theorem setDrn_chan (c : Nat) (v : Drn) (k : Nat) : (s.setDrn c v).chan k = s.chan k := rfl
@[simp] theorem setDrn_gport (c : Nat) (v : Drn) (k : Nat) : (s.setDrn c v).gport k = s.gport k := rfl
@[simp] theorem setDrn_drn_same (c : Nat) (v : Drn) : (s.setDrn c v).drn c = v := by simp [setDrn, drn]
theorem setDrn_drn_other (c : Nat) (v : Drn) {k : Nat} (h : c ≠ k) : (s.setDrn c v).drn k = s.drn k := by
  simp [setDrn, drn, Sparse.get_set_other _ _ _ h]
@[simp] theorem setDrn_setDrn (c : Nat) (v w : Drn) : (s.setDrn c v).setDrn c w = s.setDrn c w := by simp [setDrn]

/-! ## setVec -/

@[simp] theorem setVec_pending (c : Nat) (v : Vec) : (s.setVec c v).pending = s.pending := rfl
@[simp] theorem setVec_ctrs (c : Nat) (v : Vec) : (s.setVec c v).ctrs = s.ctrs := rfl
@[simp] theorem setVec_holdq (c : Nat) (v : Vec) : (s.setVec c v).holdq = s.holdq := rfl
@[simp] theorem setVec_trail (c : Nat) (v : Vec) : (s.setVec c v).trail = s.trail := rfl
@[simp] theorem setVec_whistle (c : Nat) (v : Vec) : (s.setVec c v).whistle = s.whistle := rfl
@[simp] theorem setVec_cairn (c : Nat) (v : Vec) : (s.setVec c v).cairn = s.cairn := rfl
@[simp] theorem setVec_slices (c : Nat) (v : Vec) : (s.setVec c v).slices = s.slices := rfl
@[simp] theorem setVec_cacheWays (c : Nat) (v : Vec) : (s.setVec c v).cacheWays = s.cacheWays := rfl
@[simp] theorem setVec_pinWays (c : Nat) (v : Vec) : (s.setVec c v).pinWays = s.pinWays := rfl
@[simp] theorem setVec_sliceMiss (c : Nat) (v : Vec) : (s.setVec c v).sliceMiss = s.sliceMiss := rfl
@[simp] theorem setVec_sliceWb (c : Nat) (v : Vec) : (s.setVec c v).sliceWb = s.sliceWb := rfl
@[simp] theorem setVec_mm (c : Nat) (v : Vec) : (s.setVec c v).mm = s.mm := rfl
@[simp] theorem setVec_gl (c : Nat) (v : Vec) : (s.setVec c v).gl = s.gl := rfl
@[simp] theorem setVec_pace (c : Nat) (v : Vec) : (s.setVec c v).pace = s.pace := rfl
@[simp] theorem setVec_pwr (c : Nat) (v : Vec) : (s.setVec c v).pwr = s.pwr := rfl
@[simp] theorem setVec_cool (c : Nat) (v : Vec) : (s.setVec c v).cool = s.cool := rfl
@[simp] theorem setVec_rng (c : Nat) (v : Vec) : (s.setVec c v).rng = s.rng := rfl
@[simp] theorem setVec_dict (c : Nat) (v : Vec) : (s.setVec c v).dict = s.dict := rfl
@[simp] theorem setVec_sums (c : Nat) (v : Vec) : (s.setVec c v).sums = s.sums := rfl
@[simp] theorem setVec_pack (c : Nat) (v : Vec) : (s.setVec c v).pack = s.pack := rfl
@[simp] theorem setVec_wimg (c : Nat) (v : Vec) : (s.setVec c v).wimg = s.wimg := rfl
@[simp] theorem setVec_fw (c : Nat) (v : Vec) : (s.setVec c v).fw = s.fw := rfl
@[simp] theorem setVec_log (c : Nat) (v : Vec) : (s.setVec c v).log = s.log := rfl
@[simp] theorem setVec_svc (c : Nat) (v : Vec) : (s.setVec c v).svc = s.svc := rfl
@[simp] theorem setVec_tap (c : Nat) (v : Vec) : (s.setVec c v).tap = s.tap := rfl
@[simp] theorem setVec_fuses (c : Nat) (v : Vec) : (s.setVec c v).fuses = s.fuses := rfl
@[simp] theorem setVec_out (c : Nat) (v : Vec) : (s.setVec c v).out = s.out := rfl
@[simp] theorem setVec_nowMs (c : Nat) (v : Vec) : (s.setVec c v).nowMs = s.nowMs := rfl
@[simp] theorem setVec_free (c : Nat) (v : Vec) : (s.setVec c v).free = s.free := rfl
@[simp] theorem setVec_mem (c : Nat) (v : Vec) : (s.setVec c v).mem = s.mem := rfl
@[simp] theorem setVec_now (c : Nat) (v : Vec) : (s.setVec c v).now = s.now := rfl
@[simp] theorem setVec_seq (c : Nat) (v : Vec) (k : Nat) : (s.setVec c v).seq k = s.seq k := rfl
@[simp] theorem setVec_arr (c : Nat) (v : Vec) (k : Nat) : (s.setVec c v).arr k = s.arr k := rfl
@[simp] theorem setVec_acc (c : Nat) (v : Vec) (k : Nat) : (s.setVec c v).acc k = s.acc k := rfl
@[simp] theorem setVec_drn (c : Nat) (v : Vec) (k : Nat) : (s.setVec c v).drn k = s.drn k := rfl
@[simp] theorem setVec_bnd (c : Nat) (v : Vec) (k : Nat) : (s.setVec c v).bnd k = s.bnd k := rfl
@[simp] theorem setVec_cnt (c : Nat) (v : Vec) (k : Nat) : (s.setVec c v).cnt k = s.cnt k := rfl
@[simp] theorem setVec_eng (c : Nat) (v : Vec) (k j : Nat) : (s.setVec c v).eng k j = s.eng k j := rfl
@[simp] theorem setVec_dpkq (c : Nat) (v : Vec) (k : Nat) : (s.setVec c v).dpkq k = s.dpkq k := rfl
@[simp] theorem setVec_ctr (c : Nat) (v : Vec) (k : Nat) : (s.setVec c v).ctr k = s.ctr k := rfl
@[simp] theorem setVec_cairnCh (c : Nat) (v : Vec) (k : Nat) : (s.setVec c v).cairnCh k = s.cairnCh k := rfl
@[simp] theorem setVec_sliceAt (c : Nat) (v : Vec) (k : Nat) : (s.setVec c v).sliceAt k = s.sliceAt k := rfl
@[simp] theorem setVec_chan (c : Nat) (v : Vec) (k : Nat) : (s.setVec c v).chan k = s.chan k := rfl
@[simp] theorem setVec_gport (c : Nat) (v : Vec) (k : Nat) : (s.setVec c v).gport k = s.gport k := rfl
@[simp] theorem setVec_vec_same (c : Nat) (v : Vec) : (s.setVec c v).vec c = v := by simp [setVec, vec]
theorem setVec_vec_other (c : Nat) (v : Vec) {k : Nat} (h : c ≠ k) : (s.setVec c v).vec k = s.vec k := by
  simp [setVec, vec, Sparse.get_set_other _ _ _ h]
@[simp] theorem setVec_setVec (c : Nat) (v w : Vec) : (s.setVec c v).setVec c w = s.setVec c w := by simp [setVec]

/-! ## setBnd -/

@[simp] theorem setBnd_pending (c : Nat) (v : Bnd) : (s.setBnd c v).pending = s.pending := rfl
@[simp] theorem setBnd_ctrs (c : Nat) (v : Bnd) : (s.setBnd c v).ctrs = s.ctrs := rfl
@[simp] theorem setBnd_holdq (c : Nat) (v : Bnd) : (s.setBnd c v).holdq = s.holdq := rfl
@[simp] theorem setBnd_trail (c : Nat) (v : Bnd) : (s.setBnd c v).trail = s.trail := rfl
@[simp] theorem setBnd_whistle (c : Nat) (v : Bnd) : (s.setBnd c v).whistle = s.whistle := rfl
@[simp] theorem setBnd_cairn (c : Nat) (v : Bnd) : (s.setBnd c v).cairn = s.cairn := rfl
@[simp] theorem setBnd_slices (c : Nat) (v : Bnd) : (s.setBnd c v).slices = s.slices := rfl
@[simp] theorem setBnd_cacheWays (c : Nat) (v : Bnd) : (s.setBnd c v).cacheWays = s.cacheWays := rfl
@[simp] theorem setBnd_pinWays (c : Nat) (v : Bnd) : (s.setBnd c v).pinWays = s.pinWays := rfl
@[simp] theorem setBnd_sliceMiss (c : Nat) (v : Bnd) : (s.setBnd c v).sliceMiss = s.sliceMiss := rfl
@[simp] theorem setBnd_sliceWb (c : Nat) (v : Bnd) : (s.setBnd c v).sliceWb = s.sliceWb := rfl
@[simp] theorem setBnd_mm (c : Nat) (v : Bnd) : (s.setBnd c v).mm = s.mm := rfl
@[simp] theorem setBnd_gl (c : Nat) (v : Bnd) : (s.setBnd c v).gl = s.gl := rfl
@[simp] theorem setBnd_pace (c : Nat) (v : Bnd) : (s.setBnd c v).pace = s.pace := rfl
@[simp] theorem setBnd_pwr (c : Nat) (v : Bnd) : (s.setBnd c v).pwr = s.pwr := rfl
@[simp] theorem setBnd_cool (c : Nat) (v : Bnd) : (s.setBnd c v).cool = s.cool := rfl
@[simp] theorem setBnd_rng (c : Nat) (v : Bnd) : (s.setBnd c v).rng = s.rng := rfl
@[simp] theorem setBnd_dict (c : Nat) (v : Bnd) : (s.setBnd c v).dict = s.dict := rfl
@[simp] theorem setBnd_sums (c : Nat) (v : Bnd) : (s.setBnd c v).sums = s.sums := rfl
@[simp] theorem setBnd_pack (c : Nat) (v : Bnd) : (s.setBnd c v).pack = s.pack := rfl
@[simp] theorem setBnd_wimg (c : Nat) (v : Bnd) : (s.setBnd c v).wimg = s.wimg := rfl
@[simp] theorem setBnd_fw (c : Nat) (v : Bnd) : (s.setBnd c v).fw = s.fw := rfl
@[simp] theorem setBnd_log (c : Nat) (v : Bnd) : (s.setBnd c v).log = s.log := rfl
@[simp] theorem setBnd_svc (c : Nat) (v : Bnd) : (s.setBnd c v).svc = s.svc := rfl
@[simp] theorem setBnd_tap (c : Nat) (v : Bnd) : (s.setBnd c v).tap = s.tap := rfl
@[simp] theorem setBnd_fuses (c : Nat) (v : Bnd) : (s.setBnd c v).fuses = s.fuses := rfl
@[simp] theorem setBnd_out (c : Nat) (v : Bnd) : (s.setBnd c v).out = s.out := rfl
@[simp] theorem setBnd_nowMs (c : Nat) (v : Bnd) : (s.setBnd c v).nowMs = s.nowMs := rfl
@[simp] theorem setBnd_free (c : Nat) (v : Bnd) : (s.setBnd c v).free = s.free := rfl
@[simp] theorem setBnd_mem (c : Nat) (v : Bnd) : (s.setBnd c v).mem = s.mem := rfl
@[simp] theorem setBnd_now (c : Nat) (v : Bnd) : (s.setBnd c v).now = s.now := rfl
@[simp] theorem setBnd_seq (c : Nat) (v : Bnd) (k : Nat) : (s.setBnd c v).seq k = s.seq k := rfl
@[simp] theorem setBnd_arr (c : Nat) (v : Bnd) (k : Nat) : (s.setBnd c v).arr k = s.arr k := rfl
@[simp] theorem setBnd_acc (c : Nat) (v : Bnd) (k : Nat) : (s.setBnd c v).acc k = s.acc k := rfl
@[simp] theorem setBnd_drn (c : Nat) (v : Bnd) (k : Nat) : (s.setBnd c v).drn k = s.drn k := rfl
@[simp] theorem setBnd_vec (c : Nat) (v : Bnd) (k : Nat) : (s.setBnd c v).vec k = s.vec k := rfl
@[simp] theorem setBnd_cnt (c : Nat) (v : Bnd) (k : Nat) : (s.setBnd c v).cnt k = s.cnt k := rfl
@[simp] theorem setBnd_eng (c : Nat) (v : Bnd) (k j : Nat) : (s.setBnd c v).eng k j = s.eng k j := rfl
@[simp] theorem setBnd_dpkq (c : Nat) (v : Bnd) (k : Nat) : (s.setBnd c v).dpkq k = s.dpkq k := rfl
@[simp] theorem setBnd_ctr (c : Nat) (v : Bnd) (k : Nat) : (s.setBnd c v).ctr k = s.ctr k := rfl
@[simp] theorem setBnd_cairnCh (c : Nat) (v : Bnd) (k : Nat) : (s.setBnd c v).cairnCh k = s.cairnCh k := rfl
@[simp] theorem setBnd_sliceAt (c : Nat) (v : Bnd) (k : Nat) : (s.setBnd c v).sliceAt k = s.sliceAt k := rfl
@[simp] theorem setBnd_chan (c : Nat) (v : Bnd) (k : Nat) : (s.setBnd c v).chan k = s.chan k := rfl
@[simp] theorem setBnd_gport (c : Nat) (v : Bnd) (k : Nat) : (s.setBnd c v).gport k = s.gport k := rfl
@[simp] theorem setBnd_bnd_same (c : Nat) (v : Bnd) : (s.setBnd c v).bnd c = v := by simp [setBnd, bnd]
theorem setBnd_bnd_other (c : Nat) (v : Bnd) {k : Nat} (h : c ≠ k) : (s.setBnd c v).bnd k = s.bnd k := by
  simp [setBnd, bnd, Sparse.get_set_other _ _ _ h]
@[simp] theorem setBnd_setBnd (c : Nat) (v w : Bnd) : (s.setBnd c v).setBnd c w = s.setBnd c w := by simp [setBnd]

/-! ## setCnt -/

@[simp] theorem setCnt_pending (c : Nat) (v : Cnt) : (s.setCnt c v).pending = s.pending := rfl
@[simp] theorem setCnt_ctrs (c : Nat) (v : Cnt) : (s.setCnt c v).ctrs = s.ctrs := rfl
@[simp] theorem setCnt_holdq (c : Nat) (v : Cnt) : (s.setCnt c v).holdq = s.holdq := rfl
@[simp] theorem setCnt_trail (c : Nat) (v : Cnt) : (s.setCnt c v).trail = s.trail := rfl
@[simp] theorem setCnt_whistle (c : Nat) (v : Cnt) : (s.setCnt c v).whistle = s.whistle := rfl
@[simp] theorem setCnt_cairn (c : Nat) (v : Cnt) : (s.setCnt c v).cairn = s.cairn := rfl
@[simp] theorem setCnt_slices (c : Nat) (v : Cnt) : (s.setCnt c v).slices = s.slices := rfl
@[simp] theorem setCnt_cacheWays (c : Nat) (v : Cnt) : (s.setCnt c v).cacheWays = s.cacheWays := rfl
@[simp] theorem setCnt_pinWays (c : Nat) (v : Cnt) : (s.setCnt c v).pinWays = s.pinWays := rfl
@[simp] theorem setCnt_sliceMiss (c : Nat) (v : Cnt) : (s.setCnt c v).sliceMiss = s.sliceMiss := rfl
@[simp] theorem setCnt_sliceWb (c : Nat) (v : Cnt) : (s.setCnt c v).sliceWb = s.sliceWb := rfl
@[simp] theorem setCnt_mm (c : Nat) (v : Cnt) : (s.setCnt c v).mm = s.mm := rfl
@[simp] theorem setCnt_gl (c : Nat) (v : Cnt) : (s.setCnt c v).gl = s.gl := rfl
@[simp] theorem setCnt_pace (c : Nat) (v : Cnt) : (s.setCnt c v).pace = s.pace := rfl
@[simp] theorem setCnt_pwr (c : Nat) (v : Cnt) : (s.setCnt c v).pwr = s.pwr := rfl
@[simp] theorem setCnt_cool (c : Nat) (v : Cnt) : (s.setCnt c v).cool = s.cool := rfl
@[simp] theorem setCnt_rng (c : Nat) (v : Cnt) : (s.setCnt c v).rng = s.rng := rfl
@[simp] theorem setCnt_dict (c : Nat) (v : Cnt) : (s.setCnt c v).dict = s.dict := rfl
@[simp] theorem setCnt_sums (c : Nat) (v : Cnt) : (s.setCnt c v).sums = s.sums := rfl
@[simp] theorem setCnt_pack (c : Nat) (v : Cnt) : (s.setCnt c v).pack = s.pack := rfl
@[simp] theorem setCnt_wimg (c : Nat) (v : Cnt) : (s.setCnt c v).wimg = s.wimg := rfl
@[simp] theorem setCnt_fw (c : Nat) (v : Cnt) : (s.setCnt c v).fw = s.fw := rfl
@[simp] theorem setCnt_log (c : Nat) (v : Cnt) : (s.setCnt c v).log = s.log := rfl
@[simp] theorem setCnt_svc (c : Nat) (v : Cnt) : (s.setCnt c v).svc = s.svc := rfl
@[simp] theorem setCnt_tap (c : Nat) (v : Cnt) : (s.setCnt c v).tap = s.tap := rfl
@[simp] theorem setCnt_fuses (c : Nat) (v : Cnt) : (s.setCnt c v).fuses = s.fuses := rfl
@[simp] theorem setCnt_out (c : Nat) (v : Cnt) : (s.setCnt c v).out = s.out := rfl
@[simp] theorem setCnt_nowMs (c : Nat) (v : Cnt) : (s.setCnt c v).nowMs = s.nowMs := rfl
@[simp] theorem setCnt_free (c : Nat) (v : Cnt) : (s.setCnt c v).free = s.free := rfl
@[simp] theorem setCnt_mem (c : Nat) (v : Cnt) : (s.setCnt c v).mem = s.mem := rfl
@[simp] theorem setCnt_now (c : Nat) (v : Cnt) : (s.setCnt c v).now = s.now := rfl
@[simp] theorem setCnt_seq (c : Nat) (v : Cnt) (k : Nat) : (s.setCnt c v).seq k = s.seq k := rfl
@[simp] theorem setCnt_arr (c : Nat) (v : Cnt) (k : Nat) : (s.setCnt c v).arr k = s.arr k := rfl
@[simp] theorem setCnt_acc (c : Nat) (v : Cnt) (k : Nat) : (s.setCnt c v).acc k = s.acc k := rfl
@[simp] theorem setCnt_drn (c : Nat) (v : Cnt) (k : Nat) : (s.setCnt c v).drn k = s.drn k := rfl
@[simp] theorem setCnt_vec (c : Nat) (v : Cnt) (k : Nat) : (s.setCnt c v).vec k = s.vec k := rfl
@[simp] theorem setCnt_bnd (c : Nat) (v : Cnt) (k : Nat) : (s.setCnt c v).bnd k = s.bnd k := rfl
@[simp] theorem setCnt_eng (c : Nat) (v : Cnt) (k j : Nat) : (s.setCnt c v).eng k j = s.eng k j := rfl
@[simp] theorem setCnt_dpkq (c : Nat) (v : Cnt) (k : Nat) : (s.setCnt c v).dpkq k = s.dpkq k := rfl
@[simp] theorem setCnt_ctr (c : Nat) (v : Cnt) (k : Nat) : (s.setCnt c v).ctr k = s.ctr k := rfl
@[simp] theorem setCnt_cairnCh (c : Nat) (v : Cnt) (k : Nat) : (s.setCnt c v).cairnCh k = s.cairnCh k := rfl
@[simp] theorem setCnt_sliceAt (c : Nat) (v : Cnt) (k : Nat) : (s.setCnt c v).sliceAt k = s.sliceAt k := rfl
@[simp] theorem setCnt_chan (c : Nat) (v : Cnt) (k : Nat) : (s.setCnt c v).chan k = s.chan k := rfl
@[simp] theorem setCnt_gport (c : Nat) (v : Cnt) (k : Nat) : (s.setCnt c v).gport k = s.gport k := rfl
@[simp] theorem setCnt_cnt_same (c : Nat) (v : Cnt) : (s.setCnt c v).cnt c = v := by simp [setCnt, cnt]
theorem setCnt_cnt_other (c : Nat) (v : Cnt) {k : Nat} (h : c ≠ k) : (s.setCnt c v).cnt k = s.cnt k := by
  simp [setCnt, cnt, Sparse.get_set_other _ _ _ h]
@[simp] theorem setCnt_setCnt (c : Nat) (v w : Cnt) : (s.setCnt c v).setCnt c w = s.setCnt c w := by simp [setCnt]

/-! ## setEng -/

@[simp] theorem setEng_pending (c e : Nat) (v : Eng) : (s.setEng c e v).pending = s.pending := rfl
@[simp] theorem setEng_ctrs (c e : Nat) (v : Eng) : (s.setEng c e v).ctrs = s.ctrs := rfl
@[simp] theorem setEng_holdq (c e : Nat) (v : Eng) : (s.setEng c e v).holdq = s.holdq := rfl
@[simp] theorem setEng_trail (c e : Nat) (v : Eng) : (s.setEng c e v).trail = s.trail := rfl
@[simp] theorem setEng_whistle (c e : Nat) (v : Eng) : (s.setEng c e v).whistle = s.whistle := rfl
@[simp] theorem setEng_cairn (c e : Nat) (v : Eng) : (s.setEng c e v).cairn = s.cairn := rfl
@[simp] theorem setEng_slices (c e : Nat) (v : Eng) : (s.setEng c e v).slices = s.slices := rfl
@[simp] theorem setEng_cacheWays (c e : Nat) (v : Eng) : (s.setEng c e v).cacheWays = s.cacheWays := rfl
@[simp] theorem setEng_pinWays (c e : Nat) (v : Eng) : (s.setEng c e v).pinWays = s.pinWays := rfl
@[simp] theorem setEng_sliceMiss (c e : Nat) (v : Eng) : (s.setEng c e v).sliceMiss = s.sliceMiss := rfl
@[simp] theorem setEng_sliceWb (c e : Nat) (v : Eng) : (s.setEng c e v).sliceWb = s.sliceWb := rfl
@[simp] theorem setEng_mm (c e : Nat) (v : Eng) : (s.setEng c e v).mm = s.mm := rfl
@[simp] theorem setEng_gl (c e : Nat) (v : Eng) : (s.setEng c e v).gl = s.gl := rfl
@[simp] theorem setEng_pace (c e : Nat) (v : Eng) : (s.setEng c e v).pace = s.pace := rfl
@[simp] theorem setEng_pwr (c e : Nat) (v : Eng) : (s.setEng c e v).pwr = s.pwr := rfl
@[simp] theorem setEng_cool (c e : Nat) (v : Eng) : (s.setEng c e v).cool = s.cool := rfl
@[simp] theorem setEng_rng (c e : Nat) (v : Eng) : (s.setEng c e v).rng = s.rng := rfl
@[simp] theorem setEng_dict (c e : Nat) (v : Eng) : (s.setEng c e v).dict = s.dict := rfl
@[simp] theorem setEng_sums (c e : Nat) (v : Eng) : (s.setEng c e v).sums = s.sums := rfl
@[simp] theorem setEng_pack (c e : Nat) (v : Eng) : (s.setEng c e v).pack = s.pack := rfl
@[simp] theorem setEng_wimg (c e : Nat) (v : Eng) : (s.setEng c e v).wimg = s.wimg := rfl
@[simp] theorem setEng_fw (c e : Nat) (v : Eng) : (s.setEng c e v).fw = s.fw := rfl
@[simp] theorem setEng_log (c e : Nat) (v : Eng) : (s.setEng c e v).log = s.log := rfl
@[simp] theorem setEng_svc (c e : Nat) (v : Eng) : (s.setEng c e v).svc = s.svc := rfl
@[simp] theorem setEng_tap (c e : Nat) (v : Eng) : (s.setEng c e v).tap = s.tap := rfl
@[simp] theorem setEng_fuses (c e : Nat) (v : Eng) : (s.setEng c e v).fuses = s.fuses := rfl
@[simp] theorem setEng_out (c e : Nat) (v : Eng) : (s.setEng c e v).out = s.out := rfl
@[simp] theorem setEng_nowMs (c e : Nat) (v : Eng) : (s.setEng c e v).nowMs = s.nowMs := rfl
@[simp] theorem setEng_free (c e : Nat) (v : Eng) : (s.setEng c e v).free = s.free := rfl
@[simp] theorem setEng_mem (c e : Nat) (v : Eng) : (s.setEng c e v).mem = s.mem := rfl
@[simp] theorem setEng_now (c e : Nat) (v : Eng) : (s.setEng c e v).now = s.now := rfl
@[simp] theorem setEng_seq (c e : Nat) (v : Eng) (k : Nat) : (s.setEng c e v).seq k = s.seq k := rfl
@[simp] theorem setEng_arr (c e : Nat) (v : Eng) (k : Nat) : (s.setEng c e v).arr k = s.arr k := rfl
@[simp] theorem setEng_acc (c e : Nat) (v : Eng) (k : Nat) : (s.setEng c e v).acc k = s.acc k := rfl
@[simp] theorem setEng_drn (c e : Nat) (v : Eng) (k : Nat) : (s.setEng c e v).drn k = s.drn k := rfl
@[simp] theorem setEng_vec (c e : Nat) (v : Eng) (k : Nat) : (s.setEng c e v).vec k = s.vec k := rfl
@[simp] theorem setEng_bnd (c e : Nat) (v : Eng) (k : Nat) : (s.setEng c e v).bnd k = s.bnd k := rfl
@[simp] theorem setEng_cnt (c e : Nat) (v : Eng) (k : Nat) : (s.setEng c e v).cnt k = s.cnt k := rfl
@[simp] theorem setEng_dpkq (c e : Nat) (v : Eng) (k : Nat) : (s.setEng c e v).dpkq k = s.dpkq k := rfl
@[simp] theorem setEng_ctr (c e : Nat) (v : Eng) (k : Nat) : (s.setEng c e v).ctr k = s.ctr k := rfl
@[simp] theorem setEng_cairnCh (c e : Nat) (v : Eng) (k : Nat) : (s.setEng c e v).cairnCh k = s.cairnCh k := rfl
@[simp] theorem setEng_sliceAt (c e : Nat) (v : Eng) (k : Nat) : (s.setEng c e v).sliceAt k = s.sliceAt k := rfl
@[simp] theorem setEng_chan (c e : Nat) (v : Eng) (k : Nat) : (s.setEng c e v).chan k = s.chan k := rfl
@[simp] theorem setEng_gport (c e : Nat) (v : Eng) (k : Nat) : (s.setEng c e v).gport k = s.gport k := rfl
@[simp] theorem setEng_eng_same (c e : Nat) (v : Eng) : (s.setEng c e v).eng c e = v := by simp [setEng, eng]
theorem setEng_eng_other (c e : Nat) (v : Eng) {k j : Nat} (h : 8 * c + e ≠ 8 * k + j) : (s.setEng c e v).eng k j = s.eng k j := by
  simp [setEng, eng, Sparse.get_set_other _ _ _ h]
@[simp] theorem setEng_setEng (c e : Nat) (v w : Eng) : (s.setEng c e v).setEng c e w = s.setEng c e w := by simp [setEng]

/-! ## setDpkq -/

@[simp] theorem setDpkq_pending (c : Nat) (v : List Dpk) : (s.setDpkq c v).pending = s.pending := rfl
@[simp] theorem setDpkq_ctrs (c : Nat) (v : List Dpk) : (s.setDpkq c v).ctrs = s.ctrs := rfl
@[simp] theorem setDpkq_holdq (c : Nat) (v : List Dpk) : (s.setDpkq c v).holdq = s.holdq := rfl
@[simp] theorem setDpkq_trail (c : Nat) (v : List Dpk) : (s.setDpkq c v).trail = s.trail := rfl
@[simp] theorem setDpkq_whistle (c : Nat) (v : List Dpk) : (s.setDpkq c v).whistle = s.whistle := rfl
@[simp] theorem setDpkq_cairn (c : Nat) (v : List Dpk) : (s.setDpkq c v).cairn = s.cairn := rfl
@[simp] theorem setDpkq_slices (c : Nat) (v : List Dpk) : (s.setDpkq c v).slices = s.slices := rfl
@[simp] theorem setDpkq_cacheWays (c : Nat) (v : List Dpk) : (s.setDpkq c v).cacheWays = s.cacheWays := rfl
@[simp] theorem setDpkq_pinWays (c : Nat) (v : List Dpk) : (s.setDpkq c v).pinWays = s.pinWays := rfl
@[simp] theorem setDpkq_sliceMiss (c : Nat) (v : List Dpk) : (s.setDpkq c v).sliceMiss = s.sliceMiss := rfl
@[simp] theorem setDpkq_sliceWb (c : Nat) (v : List Dpk) : (s.setDpkq c v).sliceWb = s.sliceWb := rfl
@[simp] theorem setDpkq_mm (c : Nat) (v : List Dpk) : (s.setDpkq c v).mm = s.mm := rfl
@[simp] theorem setDpkq_gl (c : Nat) (v : List Dpk) : (s.setDpkq c v).gl = s.gl := rfl
@[simp] theorem setDpkq_pace (c : Nat) (v : List Dpk) : (s.setDpkq c v).pace = s.pace := rfl
@[simp] theorem setDpkq_pwr (c : Nat) (v : List Dpk) : (s.setDpkq c v).pwr = s.pwr := rfl
@[simp] theorem setDpkq_cool (c : Nat) (v : List Dpk) : (s.setDpkq c v).cool = s.cool := rfl
@[simp] theorem setDpkq_rng (c : Nat) (v : List Dpk) : (s.setDpkq c v).rng = s.rng := rfl
@[simp] theorem setDpkq_dict (c : Nat) (v : List Dpk) : (s.setDpkq c v).dict = s.dict := rfl
@[simp] theorem setDpkq_sums (c : Nat) (v : List Dpk) : (s.setDpkq c v).sums = s.sums := rfl
@[simp] theorem setDpkq_pack (c : Nat) (v : List Dpk) : (s.setDpkq c v).pack = s.pack := rfl
@[simp] theorem setDpkq_wimg (c : Nat) (v : List Dpk) : (s.setDpkq c v).wimg = s.wimg := rfl
@[simp] theorem setDpkq_fw (c : Nat) (v : List Dpk) : (s.setDpkq c v).fw = s.fw := rfl
@[simp] theorem setDpkq_log (c : Nat) (v : List Dpk) : (s.setDpkq c v).log = s.log := rfl
@[simp] theorem setDpkq_svc (c : Nat) (v : List Dpk) : (s.setDpkq c v).svc = s.svc := rfl
@[simp] theorem setDpkq_tap (c : Nat) (v : List Dpk) : (s.setDpkq c v).tap = s.tap := rfl
@[simp] theorem setDpkq_fuses (c : Nat) (v : List Dpk) : (s.setDpkq c v).fuses = s.fuses := rfl
@[simp] theorem setDpkq_out (c : Nat) (v : List Dpk) : (s.setDpkq c v).out = s.out := rfl
@[simp] theorem setDpkq_nowMs (c : Nat) (v : List Dpk) : (s.setDpkq c v).nowMs = s.nowMs := rfl
@[simp] theorem setDpkq_free (c : Nat) (v : List Dpk) : (s.setDpkq c v).free = s.free := rfl
@[simp] theorem setDpkq_mem (c : Nat) (v : List Dpk) : (s.setDpkq c v).mem = s.mem := rfl
@[simp] theorem setDpkq_now (c : Nat) (v : List Dpk) : (s.setDpkq c v).now = s.now := rfl
@[simp] theorem setDpkq_seq (c : Nat) (v : List Dpk) (k : Nat) : (s.setDpkq c v).seq k = s.seq k := rfl
@[simp] theorem setDpkq_arr (c : Nat) (v : List Dpk) (k : Nat) : (s.setDpkq c v).arr k = s.arr k := rfl
@[simp] theorem setDpkq_acc (c : Nat) (v : List Dpk) (k : Nat) : (s.setDpkq c v).acc k = s.acc k := rfl
@[simp] theorem setDpkq_drn (c : Nat) (v : List Dpk) (k : Nat) : (s.setDpkq c v).drn k = s.drn k := rfl
@[simp] theorem setDpkq_vec (c : Nat) (v : List Dpk) (k : Nat) : (s.setDpkq c v).vec k = s.vec k := rfl
@[simp] theorem setDpkq_bnd (c : Nat) (v : List Dpk) (k : Nat) : (s.setDpkq c v).bnd k = s.bnd k := rfl
@[simp] theorem setDpkq_cnt (c : Nat) (v : List Dpk) (k : Nat) : (s.setDpkq c v).cnt k = s.cnt k := rfl
@[simp] theorem setDpkq_eng (c : Nat) (v : List Dpk) (k j : Nat) : (s.setDpkq c v).eng k j = s.eng k j := rfl
@[simp] theorem setDpkq_ctr (c : Nat) (v : List Dpk) (k : Nat) : (s.setDpkq c v).ctr k = s.ctr k := rfl
@[simp] theorem setDpkq_cairnCh (c : Nat) (v : List Dpk) (k : Nat) : (s.setDpkq c v).cairnCh k = s.cairnCh k := rfl
@[simp] theorem setDpkq_sliceAt (c : Nat) (v : List Dpk) (k : Nat) : (s.setDpkq c v).sliceAt k = s.sliceAt k := rfl
@[simp] theorem setDpkq_chan (c : Nat) (v : List Dpk) (k : Nat) : (s.setDpkq c v).chan k = s.chan k := rfl
@[simp] theorem setDpkq_gport (c : Nat) (v : List Dpk) (k : Nat) : (s.setDpkq c v).gport k = s.gport k := rfl
@[simp] theorem setDpkq_dpkq_same (c : Nat) (v : List Dpk) : (s.setDpkq c v).dpkq c = v := by simp [setDpkq, dpkq]
theorem setDpkq_dpkq_other (c : Nat) (v : List Dpk) {k : Nat} (h : c ≠ k) : (s.setDpkq c v).dpkq k = s.dpkq k := by
  simp [setDpkq, dpkq, Sparse.get_set_other _ _ _ h]
@[simp] theorem setDpkq_setDpkq (c : Nat) (v w : List Dpk) : (s.setDpkq c v).setDpkq c w = s.setDpkq c w := by simp [setDpkq]

/-! ## setCtr -/

@[simp] theorem setCtr_pending (c : Nat) (v : WorkCtr) : (s.setCtr c v).pending = s.pending := rfl
@[simp] theorem setCtr_holdq (c : Nat) (v : WorkCtr) : (s.setCtr c v).holdq = s.holdq := rfl
@[simp] theorem setCtr_trail (c : Nat) (v : WorkCtr) : (s.setCtr c v).trail = s.trail := rfl
@[simp] theorem setCtr_whistle (c : Nat) (v : WorkCtr) : (s.setCtr c v).whistle = s.whistle := rfl
@[simp] theorem setCtr_cairn (c : Nat) (v : WorkCtr) : (s.setCtr c v).cairn = s.cairn := rfl
@[simp] theorem setCtr_slices (c : Nat) (v : WorkCtr) : (s.setCtr c v).slices = s.slices := rfl
@[simp] theorem setCtr_cacheWays (c : Nat) (v : WorkCtr) : (s.setCtr c v).cacheWays = s.cacheWays := rfl
@[simp] theorem setCtr_pinWays (c : Nat) (v : WorkCtr) : (s.setCtr c v).pinWays = s.pinWays := rfl
@[simp] theorem setCtr_sliceMiss (c : Nat) (v : WorkCtr) : (s.setCtr c v).sliceMiss = s.sliceMiss := rfl
@[simp] theorem setCtr_sliceWb (c : Nat) (v : WorkCtr) : (s.setCtr c v).sliceWb = s.sliceWb := rfl
@[simp] theorem setCtr_mm (c : Nat) (v : WorkCtr) : (s.setCtr c v).mm = s.mm := rfl
@[simp] theorem setCtr_gl (c : Nat) (v : WorkCtr) : (s.setCtr c v).gl = s.gl := rfl
@[simp] theorem setCtr_pace (c : Nat) (v : WorkCtr) : (s.setCtr c v).pace = s.pace := rfl
@[simp] theorem setCtr_pwr (c : Nat) (v : WorkCtr) : (s.setCtr c v).pwr = s.pwr := rfl
@[simp] theorem setCtr_cool (c : Nat) (v : WorkCtr) : (s.setCtr c v).cool = s.cool := rfl
@[simp] theorem setCtr_rng (c : Nat) (v : WorkCtr) : (s.setCtr c v).rng = s.rng := rfl
@[simp] theorem setCtr_dict (c : Nat) (v : WorkCtr) : (s.setCtr c v).dict = s.dict := rfl
@[simp] theorem setCtr_sums (c : Nat) (v : WorkCtr) : (s.setCtr c v).sums = s.sums := rfl
@[simp] theorem setCtr_pack (c : Nat) (v : WorkCtr) : (s.setCtr c v).pack = s.pack := rfl
@[simp] theorem setCtr_wimg (c : Nat) (v : WorkCtr) : (s.setCtr c v).wimg = s.wimg := rfl
@[simp] theorem setCtr_fw (c : Nat) (v : WorkCtr) : (s.setCtr c v).fw = s.fw := rfl
@[simp] theorem setCtr_log (c : Nat) (v : WorkCtr) : (s.setCtr c v).log = s.log := rfl
@[simp] theorem setCtr_svc (c : Nat) (v : WorkCtr) : (s.setCtr c v).svc = s.svc := rfl
@[simp] theorem setCtr_tap (c : Nat) (v : WorkCtr) : (s.setCtr c v).tap = s.tap := rfl
@[simp] theorem setCtr_fuses (c : Nat) (v : WorkCtr) : (s.setCtr c v).fuses = s.fuses := rfl
@[simp] theorem setCtr_out (c : Nat) (v : WorkCtr) : (s.setCtr c v).out = s.out := rfl
@[simp] theorem setCtr_nowMs (c : Nat) (v : WorkCtr) : (s.setCtr c v).nowMs = s.nowMs := rfl
@[simp] theorem setCtr_free (c : Nat) (v : WorkCtr) : (s.setCtr c v).free = s.free := rfl
@[simp] theorem setCtr_mem (c : Nat) (v : WorkCtr) : (s.setCtr c v).mem = s.mem := rfl
@[simp] theorem setCtr_cores (c : Nat) (v : WorkCtr) : (s.setCtr c v).cores = s.cores := rfl
@[simp] theorem setCtr_now (c : Nat) (v : WorkCtr) : (s.setCtr c v).now = s.now := rfl
@[simp] theorem setCtr_seq (c : Nat) (v : WorkCtr) (k : Nat) : (s.setCtr c v).seq k = s.seq k := rfl
@[simp] theorem setCtr_arr (c : Nat) (v : WorkCtr) (k : Nat) : (s.setCtr c v).arr k = s.arr k := rfl
@[simp] theorem setCtr_acc (c : Nat) (v : WorkCtr) (k : Nat) : (s.setCtr c v).acc k = s.acc k := rfl
@[simp] theorem setCtr_drn (c : Nat) (v : WorkCtr) (k : Nat) : (s.setCtr c v).drn k = s.drn k := rfl
@[simp] theorem setCtr_vec (c : Nat) (v : WorkCtr) (k : Nat) : (s.setCtr c v).vec k = s.vec k := rfl
@[simp] theorem setCtr_bnd (c : Nat) (v : WorkCtr) (k : Nat) : (s.setCtr c v).bnd k = s.bnd k := rfl
@[simp] theorem setCtr_cnt (c : Nat) (v : WorkCtr) (k : Nat) : (s.setCtr c v).cnt k = s.cnt k := rfl
@[simp] theorem setCtr_eng (c : Nat) (v : WorkCtr) (k j : Nat) : (s.setCtr c v).eng k j = s.eng k j := rfl
@[simp] theorem setCtr_dpkq (c : Nat) (v : WorkCtr) (k : Nat) : (s.setCtr c v).dpkq k = s.dpkq k := rfl
@[simp] theorem setCtr_cairnCh (c : Nat) (v : WorkCtr) (k : Nat) : (s.setCtr c v).cairnCh k = s.cairnCh k := rfl
@[simp] theorem setCtr_sliceAt (c : Nat) (v : WorkCtr) (k : Nat) : (s.setCtr c v).sliceAt k = s.sliceAt k := rfl
@[simp] theorem setCtr_chan (c : Nat) (v : WorkCtr) (k : Nat) : (s.setCtr c v).chan k = s.chan k := rfl
@[simp] theorem setCtr_gport (c : Nat) (v : WorkCtr) (k : Nat) : (s.setCtr c v).gport k = s.gport k := rfl
@[simp] theorem setCtr_ctr_same (c : Nat) (v : WorkCtr) : (s.setCtr c v).ctr c = v := by simp [setCtr, ctr]
theorem setCtr_ctr_other (c : Nat) (v : WorkCtr) {k : Nat} (h : c ≠ k) : (s.setCtr c v).ctr k = s.ctr k := by
  simp [setCtr, ctr, Sparse.get_set_other _ _ _ h]
@[simp] theorem setCtr_setCtr (c : Nat) (v w : WorkCtr) : (s.setCtr c v).setCtr c w = s.setCtr c w := by simp [setCtr]

/-! ## setCairn -/

@[simp] theorem setCairn_pending (c : Nat) (v : CairnCh) : (s.setCairn c v).pending = s.pending := rfl
@[simp] theorem setCairn_ctrs (c : Nat) (v : CairnCh) : (s.setCairn c v).ctrs = s.ctrs := rfl
@[simp] theorem setCairn_holdq (c : Nat) (v : CairnCh) : (s.setCairn c v).holdq = s.holdq := rfl
@[simp] theorem setCairn_trail (c : Nat) (v : CairnCh) : (s.setCairn c v).trail = s.trail := rfl
@[simp] theorem setCairn_whistle (c : Nat) (v : CairnCh) : (s.setCairn c v).whistle = s.whistle := rfl
@[simp] theorem setCairn_slices (c : Nat) (v : CairnCh) : (s.setCairn c v).slices = s.slices := rfl
@[simp] theorem setCairn_cacheWays (c : Nat) (v : CairnCh) : (s.setCairn c v).cacheWays = s.cacheWays := rfl
@[simp] theorem setCairn_pinWays (c : Nat) (v : CairnCh) : (s.setCairn c v).pinWays = s.pinWays := rfl
@[simp] theorem setCairn_sliceMiss (c : Nat) (v : CairnCh) : (s.setCairn c v).sliceMiss = s.sliceMiss := rfl
@[simp] theorem setCairn_sliceWb (c : Nat) (v : CairnCh) : (s.setCairn c v).sliceWb = s.sliceWb := rfl
@[simp] theorem setCairn_mm (c : Nat) (v : CairnCh) : (s.setCairn c v).mm = s.mm := rfl
@[simp] theorem setCairn_gl (c : Nat) (v : CairnCh) : (s.setCairn c v).gl = s.gl := rfl
@[simp] theorem setCairn_pace (c : Nat) (v : CairnCh) : (s.setCairn c v).pace = s.pace := rfl
@[simp] theorem setCairn_pwr (c : Nat) (v : CairnCh) : (s.setCairn c v).pwr = s.pwr := rfl
@[simp] theorem setCairn_cool (c : Nat) (v : CairnCh) : (s.setCairn c v).cool = s.cool := rfl
@[simp] theorem setCairn_rng (c : Nat) (v : CairnCh) : (s.setCairn c v).rng = s.rng := rfl
@[simp] theorem setCairn_dict (c : Nat) (v : CairnCh) : (s.setCairn c v).dict = s.dict := rfl
@[simp] theorem setCairn_sums (c : Nat) (v : CairnCh) : (s.setCairn c v).sums = s.sums := rfl
@[simp] theorem setCairn_pack (c : Nat) (v : CairnCh) : (s.setCairn c v).pack = s.pack := rfl
@[simp] theorem setCairn_wimg (c : Nat) (v : CairnCh) : (s.setCairn c v).wimg = s.wimg := rfl
@[simp] theorem setCairn_fw (c : Nat) (v : CairnCh) : (s.setCairn c v).fw = s.fw := rfl
@[simp] theorem setCairn_log (c : Nat) (v : CairnCh) : (s.setCairn c v).log = s.log := rfl
@[simp] theorem setCairn_svc (c : Nat) (v : CairnCh) : (s.setCairn c v).svc = s.svc := rfl
@[simp] theorem setCairn_tap (c : Nat) (v : CairnCh) : (s.setCairn c v).tap = s.tap := rfl
@[simp] theorem setCairn_fuses (c : Nat) (v : CairnCh) : (s.setCairn c v).fuses = s.fuses := rfl
@[simp] theorem setCairn_out (c : Nat) (v : CairnCh) : (s.setCairn c v).out = s.out := rfl
@[simp] theorem setCairn_nowMs (c : Nat) (v : CairnCh) : (s.setCairn c v).nowMs = s.nowMs := rfl
@[simp] theorem setCairn_free (c : Nat) (v : CairnCh) : (s.setCairn c v).free = s.free := rfl
@[simp] theorem setCairn_mem (c : Nat) (v : CairnCh) : (s.setCairn c v).mem = s.mem := rfl
@[simp] theorem setCairn_cores (c : Nat) (v : CairnCh) : (s.setCairn c v).cores = s.cores := rfl
@[simp] theorem setCairn_now (c : Nat) (v : CairnCh) : (s.setCairn c v).now = s.now := rfl
@[simp] theorem setCairn_seq (c : Nat) (v : CairnCh) (k : Nat) : (s.setCairn c v).seq k = s.seq k := rfl
@[simp] theorem setCairn_arr (c : Nat) (v : CairnCh) (k : Nat) : (s.setCairn c v).arr k = s.arr k := rfl
@[simp] theorem setCairn_acc (c : Nat) (v : CairnCh) (k : Nat) : (s.setCairn c v).acc k = s.acc k := rfl
@[simp] theorem setCairn_drn (c : Nat) (v : CairnCh) (k : Nat) : (s.setCairn c v).drn k = s.drn k := rfl
@[simp] theorem setCairn_vec (c : Nat) (v : CairnCh) (k : Nat) : (s.setCairn c v).vec k = s.vec k := rfl
@[simp] theorem setCairn_bnd (c : Nat) (v : CairnCh) (k : Nat) : (s.setCairn c v).bnd k = s.bnd k := rfl
@[simp] theorem setCairn_cnt (c : Nat) (v : CairnCh) (k : Nat) : (s.setCairn c v).cnt k = s.cnt k := rfl
@[simp] theorem setCairn_eng (c : Nat) (v : CairnCh) (k j : Nat) : (s.setCairn c v).eng k j = s.eng k j := rfl
@[simp] theorem setCairn_dpkq (c : Nat) (v : CairnCh) (k : Nat) : (s.setCairn c v).dpkq k = s.dpkq k := rfl
@[simp] theorem setCairn_ctr (c : Nat) (v : CairnCh) (k : Nat) : (s.setCairn c v).ctr k = s.ctr k := rfl
@[simp] theorem setCairn_sliceAt (c : Nat) (v : CairnCh) (k : Nat) : (s.setCairn c v).sliceAt k = s.sliceAt k := rfl
@[simp] theorem setCairn_chan (c : Nat) (v : CairnCh) (k : Nat) : (s.setCairn c v).chan k = s.chan k := rfl
@[simp] theorem setCairn_gport (c : Nat) (v : CairnCh) (k : Nat) : (s.setCairn c v).gport k = s.gport k := rfl
@[simp] theorem setCairn_cairnCh_same (c : Nat) (v : CairnCh) : (s.setCairn c v).cairnCh c = v := by simp [setCairn, cairnCh]
theorem setCairn_cairnCh_other (c : Nat) (v : CairnCh) {k : Nat} (h : c ≠ k) : (s.setCairn c v).cairnCh k = s.cairnCh k := by
  simp [setCairn, cairnCh, Sparse.get_set_other _ _ _ h]
@[simp] theorem setCairn_setCairn (c : Nat) (v w : CairnCh) : (s.setCairn c v).setCairn c w = s.setCairn c w := by simp [setCairn]

/-! ## setSlice -/

@[simp] theorem setSlice_pending (c : Nat) (v : Slice) : (s.setSlice c v).pending = s.pending := rfl
@[simp] theorem setSlice_ctrs (c : Nat) (v : Slice) : (s.setSlice c v).ctrs = s.ctrs := rfl
@[simp] theorem setSlice_holdq (c : Nat) (v : Slice) : (s.setSlice c v).holdq = s.holdq := rfl
@[simp] theorem setSlice_trail (c : Nat) (v : Slice) : (s.setSlice c v).trail = s.trail := rfl
@[simp] theorem setSlice_whistle (c : Nat) (v : Slice) : (s.setSlice c v).whistle = s.whistle := rfl
@[simp] theorem setSlice_cairn (c : Nat) (v : Slice) : (s.setSlice c v).cairn = s.cairn := rfl
@[simp] theorem setSlice_cacheWays (c : Nat) (v : Slice) : (s.setSlice c v).cacheWays = s.cacheWays := rfl
@[simp] theorem setSlice_pinWays (c : Nat) (v : Slice) : (s.setSlice c v).pinWays = s.pinWays := rfl
@[simp] theorem setSlice_sliceMiss (c : Nat) (v : Slice) : (s.setSlice c v).sliceMiss = s.sliceMiss := rfl
@[simp] theorem setSlice_sliceWb (c : Nat) (v : Slice) : (s.setSlice c v).sliceWb = s.sliceWb := rfl
@[simp] theorem setSlice_mm (c : Nat) (v : Slice) : (s.setSlice c v).mm = s.mm := rfl
@[simp] theorem setSlice_gl (c : Nat) (v : Slice) : (s.setSlice c v).gl = s.gl := rfl
@[simp] theorem setSlice_pace (c : Nat) (v : Slice) : (s.setSlice c v).pace = s.pace := rfl
@[simp] theorem setSlice_pwr (c : Nat) (v : Slice) : (s.setSlice c v).pwr = s.pwr := rfl
@[simp] theorem setSlice_cool (c : Nat) (v : Slice) : (s.setSlice c v).cool = s.cool := rfl
@[simp] theorem setSlice_rng (c : Nat) (v : Slice) : (s.setSlice c v).rng = s.rng := rfl
@[simp] theorem setSlice_dict (c : Nat) (v : Slice) : (s.setSlice c v).dict = s.dict := rfl
@[simp] theorem setSlice_sums (c : Nat) (v : Slice) : (s.setSlice c v).sums = s.sums := rfl
@[simp] theorem setSlice_pack (c : Nat) (v : Slice) : (s.setSlice c v).pack = s.pack := rfl
@[simp] theorem setSlice_wimg (c : Nat) (v : Slice) : (s.setSlice c v).wimg = s.wimg := rfl
@[simp] theorem setSlice_fw (c : Nat) (v : Slice) : (s.setSlice c v).fw = s.fw := rfl
@[simp] theorem setSlice_log (c : Nat) (v : Slice) : (s.setSlice c v).log = s.log := rfl
@[simp] theorem setSlice_svc (c : Nat) (v : Slice) : (s.setSlice c v).svc = s.svc := rfl
@[simp] theorem setSlice_tap (c : Nat) (v : Slice) : (s.setSlice c v).tap = s.tap := rfl
@[simp] theorem setSlice_fuses (c : Nat) (v : Slice) : (s.setSlice c v).fuses = s.fuses := rfl
@[simp] theorem setSlice_out (c : Nat) (v : Slice) : (s.setSlice c v).out = s.out := rfl
@[simp] theorem setSlice_nowMs (c : Nat) (v : Slice) : (s.setSlice c v).nowMs = s.nowMs := rfl
@[simp] theorem setSlice_free (c : Nat) (v : Slice) : (s.setSlice c v).free = s.free := rfl
@[simp] theorem setSlice_mem (c : Nat) (v : Slice) : (s.setSlice c v).mem = s.mem := rfl
@[simp] theorem setSlice_cores (c : Nat) (v : Slice) : (s.setSlice c v).cores = s.cores := rfl
@[simp] theorem setSlice_now (c : Nat) (v : Slice) : (s.setSlice c v).now = s.now := rfl
@[simp] theorem setSlice_seq (c : Nat) (v : Slice) (k : Nat) : (s.setSlice c v).seq k = s.seq k := rfl
@[simp] theorem setSlice_arr (c : Nat) (v : Slice) (k : Nat) : (s.setSlice c v).arr k = s.arr k := rfl
@[simp] theorem setSlice_acc (c : Nat) (v : Slice) (k : Nat) : (s.setSlice c v).acc k = s.acc k := rfl
@[simp] theorem setSlice_drn (c : Nat) (v : Slice) (k : Nat) : (s.setSlice c v).drn k = s.drn k := rfl
@[simp] theorem setSlice_vec (c : Nat) (v : Slice) (k : Nat) : (s.setSlice c v).vec k = s.vec k := rfl
@[simp] theorem setSlice_bnd (c : Nat) (v : Slice) (k : Nat) : (s.setSlice c v).bnd k = s.bnd k := rfl
@[simp] theorem setSlice_cnt (c : Nat) (v : Slice) (k : Nat) : (s.setSlice c v).cnt k = s.cnt k := rfl
@[simp] theorem setSlice_eng (c : Nat) (v : Slice) (k j : Nat) : (s.setSlice c v).eng k j = s.eng k j := rfl
@[simp] theorem setSlice_dpkq (c : Nat) (v : Slice) (k : Nat) : (s.setSlice c v).dpkq k = s.dpkq k := rfl
@[simp] theorem setSlice_ctr (c : Nat) (v : Slice) (k : Nat) : (s.setSlice c v).ctr k = s.ctr k := rfl
@[simp] theorem setSlice_cairnCh (c : Nat) (v : Slice) (k : Nat) : (s.setSlice c v).cairnCh k = s.cairnCh k := rfl
@[simp] theorem setSlice_chan (c : Nat) (v : Slice) (k : Nat) : (s.setSlice c v).chan k = s.chan k := rfl
@[simp] theorem setSlice_gport (c : Nat) (v : Slice) (k : Nat) : (s.setSlice c v).gport k = s.gport k := rfl
@[simp] theorem setSlice_sliceAt_same (c : Nat) (v : Slice) : (s.setSlice c v).sliceAt c = v := by simp [setSlice, sliceAt]
theorem setSlice_sliceAt_other (c : Nat) (v : Slice) {k : Nat} (h : c ≠ k) : (s.setSlice c v).sliceAt k = s.sliceAt k := by
  simp [setSlice, sliceAt, Sparse.get_set_other _ _ _ h]
@[simp] theorem setSlice_setSlice (c : Nat) (v w : Slice) : (s.setSlice c v).setSlice c w = s.setSlice c w := by simp [setSlice]

/-! ## setChan -/

@[simp] theorem setChan_pending (c : Nat) (v : Chan) : (s.setChan c v).pending = s.pending := rfl
@[simp] theorem setChan_ctrs (c : Nat) (v : Chan) : (s.setChan c v).ctrs = s.ctrs := rfl
@[simp] theorem setChan_holdq (c : Nat) (v : Chan) : (s.setChan c v).holdq = s.holdq := rfl
@[simp] theorem setChan_trail (c : Nat) (v : Chan) : (s.setChan c v).trail = s.trail := rfl
@[simp] theorem setChan_whistle (c : Nat) (v : Chan) : (s.setChan c v).whistle = s.whistle := rfl
@[simp] theorem setChan_cairn (c : Nat) (v : Chan) : (s.setChan c v).cairn = s.cairn := rfl
@[simp] theorem setChan_slices (c : Nat) (v : Chan) : (s.setChan c v).slices = s.slices := rfl
@[simp] theorem setChan_cacheWays (c : Nat) (v : Chan) : (s.setChan c v).cacheWays = s.cacheWays := rfl
@[simp] theorem setChan_pinWays (c : Nat) (v : Chan) : (s.setChan c v).pinWays = s.pinWays := rfl
@[simp] theorem setChan_sliceMiss (c : Nat) (v : Chan) : (s.setChan c v).sliceMiss = s.sliceMiss := rfl
@[simp] theorem setChan_sliceWb (c : Nat) (v : Chan) : (s.setChan c v).sliceWb = s.sliceWb := rfl
@[simp] theorem setChan_gl (c : Nat) (v : Chan) : (s.setChan c v).gl = s.gl := rfl
@[simp] theorem setChan_pace (c : Nat) (v : Chan) : (s.setChan c v).pace = s.pace := rfl
@[simp] theorem setChan_pwr (c : Nat) (v : Chan) : (s.setChan c v).pwr = s.pwr := rfl
@[simp] theorem setChan_cool (c : Nat) (v : Chan) : (s.setChan c v).cool = s.cool := rfl
@[simp] theorem setChan_rng (c : Nat) (v : Chan) : (s.setChan c v).rng = s.rng := rfl
@[simp] theorem setChan_dict (c : Nat) (v : Chan) : (s.setChan c v).dict = s.dict := rfl
@[simp] theorem setChan_sums (c : Nat) (v : Chan) : (s.setChan c v).sums = s.sums := rfl
@[simp] theorem setChan_pack (c : Nat) (v : Chan) : (s.setChan c v).pack = s.pack := rfl
@[simp] theorem setChan_wimg (c : Nat) (v : Chan) : (s.setChan c v).wimg = s.wimg := rfl
@[simp] theorem setChan_fw (c : Nat) (v : Chan) : (s.setChan c v).fw = s.fw := rfl
@[simp] theorem setChan_log (c : Nat) (v : Chan) : (s.setChan c v).log = s.log := rfl
@[simp] theorem setChan_svc (c : Nat) (v : Chan) : (s.setChan c v).svc = s.svc := rfl
@[simp] theorem setChan_tap (c : Nat) (v : Chan) : (s.setChan c v).tap = s.tap := rfl
@[simp] theorem setChan_fuses (c : Nat) (v : Chan) : (s.setChan c v).fuses = s.fuses := rfl
@[simp] theorem setChan_out (c : Nat) (v : Chan) : (s.setChan c v).out = s.out := rfl
@[simp] theorem setChan_nowMs (c : Nat) (v : Chan) : (s.setChan c v).nowMs = s.nowMs := rfl
@[simp] theorem setChan_free (c : Nat) (v : Chan) : (s.setChan c v).free = s.free := rfl
@[simp] theorem setChan_mem (c : Nat) (v : Chan) : (s.setChan c v).mem = s.mem := rfl
@[simp] theorem setChan_cores (c : Nat) (v : Chan) : (s.setChan c v).cores = s.cores := rfl
@[simp] theorem setChan_now (c : Nat) (v : Chan) : (s.setChan c v).now = s.now := rfl
@[simp] theorem setChan_mm_map (c : Nat) (v : Chan) : (s.setChan c v).mm.map = s.mm.map := rfl
@[simp] theorem setChan_mm_total (c : Nat) (v : Chan) : (s.setChan c v).mm.total = s.mm.total := rfl
@[simp] theorem setChan_mm_budget (c : Nat) (v : Chan) : (s.setChan c v).mm.budget = s.mm.budget := rfl
@[simp] theorem setChan_mm_winStart (c : Nat) (v : Chan) : (s.setChan c v).mm.winStart = s.mm.winStart := rfl
@[simp] theorem setChan_mm_retry (c : Nat) (v : Chan) : (s.setChan c v).mm.retry = s.mm.retry := rfl
@[simp] theorem setChan_mm_uncorr (c : Nat) (v : Chan) : (s.setChan c v).mm.uncorr = s.mm.uncorr := rfl
@[simp] theorem setChan_mm_collide (c : Nat) (v : Chan) : (s.setChan c v).mm.collide = s.mm.collide := rfl
@[simp] theorem setChan_mm_bandMax (c : Nat) (v : Chan) : (s.setChan c v).mm.bandMax = s.mm.bandMax := rfl
@[simp] theorem setChan_mm_failMap (c : Nat) (v : Chan) : (s.setChan c v).mm.failMap = s.mm.failMap := rfl
@[simp] theorem setChan_seq (c : Nat) (v : Chan) (k : Nat) : (s.setChan c v).seq k = s.seq k := rfl
@[simp] theorem setChan_arr (c : Nat) (v : Chan) (k : Nat) : (s.setChan c v).arr k = s.arr k := rfl
@[simp] theorem setChan_acc (c : Nat) (v : Chan) (k : Nat) : (s.setChan c v).acc k = s.acc k := rfl
@[simp] theorem setChan_drn (c : Nat) (v : Chan) (k : Nat) : (s.setChan c v).drn k = s.drn k := rfl
@[simp] theorem setChan_vec (c : Nat) (v : Chan) (k : Nat) : (s.setChan c v).vec k = s.vec k := rfl
@[simp] theorem setChan_bnd (c : Nat) (v : Chan) (k : Nat) : (s.setChan c v).bnd k = s.bnd k := rfl
@[simp] theorem setChan_cnt (c : Nat) (v : Chan) (k : Nat) : (s.setChan c v).cnt k = s.cnt k := rfl
@[simp] theorem setChan_eng (c : Nat) (v : Chan) (k j : Nat) : (s.setChan c v).eng k j = s.eng k j := rfl
@[simp] theorem setChan_dpkq (c : Nat) (v : Chan) (k : Nat) : (s.setChan c v).dpkq k = s.dpkq k := rfl
@[simp] theorem setChan_ctr (c : Nat) (v : Chan) (k : Nat) : (s.setChan c v).ctr k = s.ctr k := rfl
@[simp] theorem setChan_cairnCh (c : Nat) (v : Chan) (k : Nat) : (s.setChan c v).cairnCh k = s.cairnCh k := rfl
@[simp] theorem setChan_sliceAt (c : Nat) (v : Chan) (k : Nat) : (s.setChan c v).sliceAt k = s.sliceAt k := rfl
@[simp] theorem setChan_gport (c : Nat) (v : Chan) (k : Nat) : (s.setChan c v).gport k = s.gport k := rfl
@[simp] theorem setChan_chan_same (c : Nat) (v : Chan) : (s.setChan c v).chan c = v := by simp [setChan, chan]
theorem setChan_chan_other (c : Nat) (v : Chan) {k : Nat} (h : c ≠ k) : (s.setChan c v).chan k = s.chan k := by
  simp [setChan, chan, Sparse.get_set_other _ _ _ h]
@[simp] theorem setChan_setChan (c : Nat) (v w : Chan) : (s.setChan c v).setChan c w = s.setChan c w := by simp [setChan]

/-! ## setPort -/

@[simp] theorem setPort_pending (c : Nat) (v : GPort) : (s.setPort c v).pending = s.pending := rfl
@[simp] theorem setPort_ctrs (c : Nat) (v : GPort) : (s.setPort c v).ctrs = s.ctrs := rfl
@[simp] theorem setPort_holdq (c : Nat) (v : GPort) : (s.setPort c v).holdq = s.holdq := rfl
@[simp] theorem setPort_trail (c : Nat) (v : GPort) : (s.setPort c v).trail = s.trail := rfl
@[simp] theorem setPort_whistle (c : Nat) (v : GPort) : (s.setPort c v).whistle = s.whistle := rfl
@[simp] theorem setPort_cairn (c : Nat) (v : GPort) : (s.setPort c v).cairn = s.cairn := rfl
@[simp] theorem setPort_slices (c : Nat) (v : GPort) : (s.setPort c v).slices = s.slices := rfl
@[simp] theorem setPort_cacheWays (c : Nat) (v : GPort) : (s.setPort c v).cacheWays = s.cacheWays := rfl
@[simp] theorem setPort_pinWays (c : Nat) (v : GPort) : (s.setPort c v).pinWays = s.pinWays := rfl
@[simp] theorem setPort_sliceMiss (c : Nat) (v : GPort) : (s.setPort c v).sliceMiss = s.sliceMiss := rfl
@[simp] theorem setPort_sliceWb (c : Nat) (v : GPort) : (s.setPort c v).sliceWb = s.sliceWb := rfl
@[simp] theorem setPort_mm (c : Nat) (v : GPort) : (s.setPort c v).mm = s.mm := rfl
@[simp] theorem setPort_pace (c : Nat) (v : GPort) : (s.setPort c v).pace = s.pace := rfl
@[simp] theorem setPort_pwr (c : Nat) (v : GPort) : (s.setPort c v).pwr = s.pwr := rfl
@[simp] theorem setPort_cool (c : Nat) (v : GPort) : (s.setPort c v).cool = s.cool := rfl
@[simp] theorem setPort_rng (c : Nat) (v : GPort) : (s.setPort c v).rng = s.rng := rfl
@[simp] theorem setPort_dict (c : Nat) (v : GPort) : (s.setPort c v).dict = s.dict := rfl
@[simp] theorem setPort_sums (c : Nat) (v : GPort) : (s.setPort c v).sums = s.sums := rfl
@[simp] theorem setPort_pack (c : Nat) (v : GPort) : (s.setPort c v).pack = s.pack := rfl
@[simp] theorem setPort_wimg (c : Nat) (v : GPort) : (s.setPort c v).wimg = s.wimg := rfl
@[simp] theorem setPort_fw (c : Nat) (v : GPort) : (s.setPort c v).fw = s.fw := rfl
@[simp] theorem setPort_log (c : Nat) (v : GPort) : (s.setPort c v).log = s.log := rfl
@[simp] theorem setPort_svc (c : Nat) (v : GPort) : (s.setPort c v).svc = s.svc := rfl
@[simp] theorem setPort_tap (c : Nat) (v : GPort) : (s.setPort c v).tap = s.tap := rfl
@[simp] theorem setPort_fuses (c : Nat) (v : GPort) : (s.setPort c v).fuses = s.fuses := rfl
@[simp] theorem setPort_out (c : Nat) (v : GPort) : (s.setPort c v).out = s.out := rfl
@[simp] theorem setPort_nowMs (c : Nat) (v : GPort) : (s.setPort c v).nowMs = s.nowMs := rfl
@[simp] theorem setPort_free (c : Nat) (v : GPort) : (s.setPort c v).free = s.free := rfl
@[simp] theorem setPort_mem (c : Nat) (v : GPort) : (s.setPort c v).mem = s.mem := rfl
@[simp] theorem setPort_cores (c : Nat) (v : GPort) : (s.setPort c v).cores = s.cores := rfl
@[simp] theorem setPort_now (c : Nat) (v : GPort) : (s.setPort c v).now = s.now := rfl
@[simp] theorem setPort_gl_writes (c : Nat) (v : GPort) : (s.setPort c v).gl.writes = s.gl.writes := rfl
@[simp] theorem setPort_gl_nextWrite (c : Nat) (v : GPort) : (s.setPort c v).gl.nextWrite = s.gl.nextWrite := rfl
@[simp] theorem setPort_gl_sync (c : Nat) (v : GPort) : (s.setPort c v).gl.sync = s.gl.sync := rfl
@[simp] theorem setPort_gl_rateSets (c : Nat) (v : GPort) : (s.setPort c v).gl.rateSets = s.gl.rateSets := rfl
@[simp] theorem setPort_gl_rateReqAt (c : Nat) (v : GPort) : (s.setPort c v).gl.rateReqAt = s.gl.rateReqAt := rfl
@[simp] theorem setPort_gl_placed (c : Nat) (v : GPort) : (s.setPort c v).gl.placed = s.gl.placed := rfl
@[simp] theorem setPort_gl_usesGl (c : Nat) (v : GPort) : (s.setPort c v).gl.usesGl = s.gl.usesGl := rfl
@[simp] theorem setPort_gl_usedPorts (c : Nat) (v : GPort) : (s.setPort c v).gl.usedPorts = s.gl.usedPorts := rfl
@[simp] theorem setPort_gl_sentReady (c : Nat) (v : GPort) : (s.setPort c v).gl.sentReady = s.gl.sentReady := rfl
@[simp] theorem setPort_gl_tStart (c : Nat) (v : GPort) : (s.setPort c v).gl.tStart = s.gl.tStart := rfl
@[simp] theorem setPort_gl_startLate (c : Nat) (v : GPort) : (s.setPort c v).gl.startLate = s.gl.startLate := rfl
@[simp] theorem setPort_gl_refLost (c : Nat) (v : GPort) : (s.setPort c v).gl.refLost = s.gl.refLost := rfl
@[simp] theorem setPort_gl_retry (c : Nat) (v : GPort) : (s.setPort c v).gl.retry = s.gl.retry := rfl
@[simp] theorem setPort_gl_fec (c : Nat) (v : GPort) : (s.setPort c v).gl.fec = s.gl.fec := rfl
@[simp] theorem setPort_gl_unroutable (c : Nat) (v : GPort) : (s.setPort c v).gl.unroutable = s.gl.unroutable := rfl
@[simp] theorem setPort_gl_lateRelease (c : Nat) (v : GPort) : (s.setPort c v).gl.lateRelease = s.gl.lateRelease := rfl
@[simp] theorem setPort_gl_lateFlit (c : Nat) (v : GPort) : (s.setPort c v).gl.lateFlit = s.gl.lateFlit := rfl
@[simp] theorem setPort_gl_portFail (c : Nat) (v : GPort) : (s.setPort c v).gl.portFail = s.gl.portFail := rfl
@[simp] theorem setPort_seq (c : Nat) (v : GPort) (k : Nat) : (s.setPort c v).seq k = s.seq k := rfl
@[simp] theorem setPort_arr (c : Nat) (v : GPort) (k : Nat) : (s.setPort c v).arr k = s.arr k := rfl
@[simp] theorem setPort_acc (c : Nat) (v : GPort) (k : Nat) : (s.setPort c v).acc k = s.acc k := rfl
@[simp] theorem setPort_drn (c : Nat) (v : GPort) (k : Nat) : (s.setPort c v).drn k = s.drn k := rfl
@[simp] theorem setPort_vec (c : Nat) (v : GPort) (k : Nat) : (s.setPort c v).vec k = s.vec k := rfl
@[simp] theorem setPort_bnd (c : Nat) (v : GPort) (k : Nat) : (s.setPort c v).bnd k = s.bnd k := rfl
@[simp] theorem setPort_cnt (c : Nat) (v : GPort) (k : Nat) : (s.setPort c v).cnt k = s.cnt k := rfl
@[simp] theorem setPort_eng (c : Nat) (v : GPort) (k j : Nat) : (s.setPort c v).eng k j = s.eng k j := rfl
@[simp] theorem setPort_dpkq (c : Nat) (v : GPort) (k : Nat) : (s.setPort c v).dpkq k = s.dpkq k := rfl
@[simp] theorem setPort_ctr (c : Nat) (v : GPort) (k : Nat) : (s.setPort c v).ctr k = s.ctr k := rfl
@[simp] theorem setPort_cairnCh (c : Nat) (v : GPort) (k : Nat) : (s.setPort c v).cairnCh k = s.cairnCh k := rfl
@[simp] theorem setPort_sliceAt (c : Nat) (v : GPort) (k : Nat) : (s.setPort c v).sliceAt k = s.sliceAt k := rfl
@[simp] theorem setPort_chan (c : Nat) (v : GPort) (k : Nat) : (s.setPort c v).chan k = s.chan k := rfl
@[simp] theorem setPort_gport_same (c : Nat) (v : GPort) : (s.setPort c v).gport c = v := by simp [setPort, gport]
theorem setPort_gport_other (c : Nat) (v : GPort) {k : Nat} (h : c ≠ k) : (s.setPort c v).gport k = s.gport k := by
  simp [setPort, gport, Sparse.get_set_other _ _ _ h]
@[simp] theorem setPort_setPort (c : Nat) (v w : GPort) : (s.setPort c v).setPort c w = s.setPort c w := by simp [setPort]

/-! ## setMem, tick and draw -/

@[simp] theorem setMem_pending (m : Memory) : (s.setMem m).pending = s.pending := rfl
@[simp] theorem setMem_ctrs (m : Memory) : (s.setMem m).ctrs = s.ctrs := rfl
@[simp] theorem setMem_holdq (m : Memory) : (s.setMem m).holdq = s.holdq := rfl
@[simp] theorem setMem_trail (m : Memory) : (s.setMem m).trail = s.trail := rfl
@[simp] theorem setMem_whistle (m : Memory) : (s.setMem m).whistle = s.whistle := rfl
@[simp] theorem setMem_cairn (m : Memory) : (s.setMem m).cairn = s.cairn := rfl
@[simp] theorem setMem_slices (m : Memory) : (s.setMem m).slices = s.slices := rfl
@[simp] theorem setMem_cacheWays (m : Memory) : (s.setMem m).cacheWays = s.cacheWays := rfl
@[simp] theorem setMem_pinWays (m : Memory) : (s.setMem m).pinWays = s.pinWays := rfl
@[simp] theorem setMem_sliceMiss (m : Memory) : (s.setMem m).sliceMiss = s.sliceMiss := rfl
@[simp] theorem setMem_sliceWb (m : Memory) : (s.setMem m).sliceWb = s.sliceWb := rfl
@[simp] theorem setMem_mm (m : Memory) : (s.setMem m).mm = s.mm := rfl
@[simp] theorem setMem_gl (m : Memory) : (s.setMem m).gl = s.gl := rfl
@[simp] theorem setMem_pace (m : Memory) : (s.setMem m).pace = s.pace := rfl
@[simp] theorem setMem_pwr (m : Memory) : (s.setMem m).pwr = s.pwr := rfl
@[simp] theorem setMem_cool (m : Memory) : (s.setMem m).cool = s.cool := rfl
@[simp] theorem setMem_rng (m : Memory) : (s.setMem m).rng = s.rng := rfl
@[simp] theorem setMem_dict (m : Memory) : (s.setMem m).dict = s.dict := rfl
@[simp] theorem setMem_sums (m : Memory) : (s.setMem m).sums = s.sums := rfl
@[simp] theorem setMem_pack (m : Memory) : (s.setMem m).pack = s.pack := rfl
@[simp] theorem setMem_wimg (m : Memory) : (s.setMem m).wimg = s.wimg := rfl
@[simp] theorem setMem_fw (m : Memory) : (s.setMem m).fw = s.fw := rfl
@[simp] theorem setMem_log (m : Memory) : (s.setMem m).log = s.log := rfl
@[simp] theorem setMem_svc (m : Memory) : (s.setMem m).svc = s.svc := rfl
@[simp] theorem setMem_tap (m : Memory) : (s.setMem m).tap = s.tap := rfl
@[simp] theorem setMem_fuses (m : Memory) : (s.setMem m).fuses = s.fuses := rfl
@[simp] theorem setMem_out (m : Memory) : (s.setMem m).out = s.out := rfl
@[simp] theorem setMem_nowMs (m : Memory) : (s.setMem m).nowMs = s.nowMs := rfl
@[simp] theorem setMem_free (m : Memory) : (s.setMem m).free = s.free := rfl
@[simp] theorem setMem_cores (m : Memory) : (s.setMem m).cores = s.cores := rfl
@[simp] theorem setMem_mem (m : Memory) : (s.setMem m).mem = m := rfl
@[simp] theorem setMem_now (m : Memory) : (s.setMem m).now = s.now := rfl
@[simp] theorem setMem_seq (m : Memory) (k : Nat) : (s.setMem m).seq k = s.seq k := rfl
@[simp] theorem setMem_arr (m : Memory) (k : Nat) : (s.setMem m).arr k = s.arr k := rfl
@[simp] theorem setMem_acc (m : Memory) (k : Nat) : (s.setMem m).acc k = s.acc k := rfl
@[simp] theorem setMem_drn (m : Memory) (k : Nat) : (s.setMem m).drn k = s.drn k := rfl
@[simp] theorem setMem_vec (m : Memory) (k : Nat) : (s.setMem m).vec k = s.vec k := rfl
@[simp] theorem setMem_bnd (m : Memory) (k : Nat) : (s.setMem m).bnd k = s.bnd k := rfl
@[simp] theorem setMem_cnt (m : Memory) (k : Nat) : (s.setMem m).cnt k = s.cnt k := rfl
@[simp] theorem setMem_eng (m : Memory) (k j : Nat) : (s.setMem m).eng k j = s.eng k j := rfl
@[simp] theorem setMem_dpkq (m : Memory) (k : Nat) : (s.setMem m).dpkq k = s.dpkq k := rfl
@[simp] theorem setMem_ctr (m : Memory) (k : Nat) : (s.setMem m).ctr k = s.ctr k := rfl
@[simp] theorem setMem_cairnCh (m : Memory) (k : Nat) : (s.setMem m).cairnCh k = s.cairnCh k := rfl
@[simp] theorem setMem_sliceAt (m : Memory) (k : Nat) : (s.setMem m).sliceAt k = s.sliceAt k := rfl
@[simp] theorem setMem_chan (m : Memory) (k : Nat) : (s.setMem m).chan k = s.chan k := rfl
@[simp] theorem setMem_gport (m : Memory) (k : Nat) : (s.setMem m).gport k = s.gport k := rfl
@[simp] theorem draw_pending : s.draw.pending = s.pending := rfl
@[simp] theorem draw_ctrs : s.draw.ctrs = s.ctrs := rfl
@[simp] theorem draw_holdq : s.draw.holdq = s.holdq := rfl
@[simp] theorem draw_trail : s.draw.trail = s.trail := rfl
@[simp] theorem draw_whistle : s.draw.whistle = s.whistle := rfl
@[simp] theorem draw_cairn : s.draw.cairn = s.cairn := rfl
@[simp] theorem draw_slices : s.draw.slices = s.slices := rfl
@[simp] theorem draw_cacheWays : s.draw.cacheWays = s.cacheWays := rfl
@[simp] theorem draw_pinWays : s.draw.pinWays = s.pinWays := rfl
@[simp] theorem draw_sliceMiss : s.draw.sliceMiss = s.sliceMiss := rfl
@[simp] theorem draw_sliceWb : s.draw.sliceWb = s.sliceWb := rfl
@[simp] theorem draw_mm : s.draw.mm = s.mm := rfl
@[simp] theorem draw_gl : s.draw.gl = s.gl := rfl
@[simp] theorem draw_pace : s.draw.pace = s.pace := rfl
@[simp] theorem draw_pwr : s.draw.pwr = s.pwr := rfl
@[simp] theorem draw_cool : s.draw.cool = s.cool := rfl
@[simp] theorem draw_rng : s.draw.rng = s.rng := rfl
@[simp] theorem draw_dict : s.draw.dict = s.dict := rfl
@[simp] theorem draw_sums : s.draw.sums = s.sums := rfl
@[simp] theorem draw_pack : s.draw.pack = s.pack := rfl
@[simp] theorem draw_wimg : s.draw.wimg = s.wimg := rfl
@[simp] theorem draw_fw : s.draw.fw = s.fw := rfl
@[simp] theorem draw_log : s.draw.log = s.log := rfl
@[simp] theorem draw_svc : s.draw.svc = s.svc := rfl
@[simp] theorem draw_tap : s.draw.tap = s.tap := rfl
@[simp] theorem draw_fuses : s.draw.fuses = s.fuses := rfl
@[simp] theorem draw_out : s.draw.out = s.out := rfl
@[simp] theorem draw_nowMs : s.draw.nowMs = s.nowMs := rfl
@[simp] theorem draw_mem : s.draw.mem = s.mem := rfl
@[simp] theorem draw_cores : s.draw.cores = s.cores := rfl
@[simp] theorem draw_free : s.draw.free = s.free + 1 := rfl
@[simp] theorem tick_pending : s.tick.pending = s.pending := by cases h : s.pwr.phase <;> simp [tick, h]
@[simp] theorem tick_ctrs : s.tick.ctrs = s.ctrs := by cases h : s.pwr.phase <;> simp [tick, h]
@[simp] theorem tick_holdq : s.tick.holdq = s.holdq := by cases h : s.pwr.phase <;> simp [tick, h]
@[simp] theorem tick_trail : s.tick.trail = s.trail := by cases h : s.pwr.phase <;> simp [tick, h]
@[simp] theorem tick_whistle : s.tick.whistle = s.whistle := by cases h : s.pwr.phase <;> simp [tick, h]
@[simp] theorem tick_cairn : s.tick.cairn = s.cairn := by cases h : s.pwr.phase <;> simp [tick, h]
@[simp] theorem tick_slices : s.tick.slices = s.slices := by cases h : s.pwr.phase <;> simp [tick, h]
@[simp] theorem tick_cacheWays : s.tick.cacheWays = s.cacheWays := by cases h : s.pwr.phase <;> simp [tick, h]
@[simp] theorem tick_pinWays : s.tick.pinWays = s.pinWays := by cases h : s.pwr.phase <;> simp [tick, h]
@[simp] theorem tick_sliceMiss : s.tick.sliceMiss = s.sliceMiss := by cases h : s.pwr.phase <;> simp [tick, h]
@[simp] theorem tick_sliceWb : s.tick.sliceWb = s.sliceWb := by cases h : s.pwr.phase <;> simp [tick, h]
@[simp] theorem tick_mm : s.tick.mm = s.mm := by cases h : s.pwr.phase <;> simp [tick, h]
@[simp] theorem tick_gl : s.tick.gl = s.gl := by cases h : s.pwr.phase <;> simp [tick, h]
@[simp] theorem tick_pace : s.tick.pace = s.pace := by cases h : s.pwr.phase <;> simp [tick, h]
@[simp] theorem tick_pwr : s.tick.pwr = s.pwr := by cases h : s.pwr.phase <;> simp [tick, h]
@[simp] theorem tick_cool : s.tick.cool = s.cool := by cases h : s.pwr.phase <;> simp [tick, h]
@[simp] theorem tick_rng : s.tick.rng = s.rng := by cases h : s.pwr.phase <;> simp [tick, h]
@[simp] theorem tick_dict : s.tick.dict = s.dict := by cases h : s.pwr.phase <;> simp [tick, h]
@[simp] theorem tick_sums : s.tick.sums = s.sums := by cases h : s.pwr.phase <;> simp [tick, h]
@[simp] theorem tick_pack : s.tick.pack = s.pack := by cases h : s.pwr.phase <;> simp [tick, h]
@[simp] theorem tick_wimg : s.tick.wimg = s.wimg := by cases h : s.pwr.phase <;> simp [tick, h]
@[simp] theorem tick_fw : s.tick.fw = s.fw := by cases h : s.pwr.phase <;> simp [tick, h]
@[simp] theorem tick_log : s.tick.log = s.log := by cases h : s.pwr.phase <;> simp [tick, h]
@[simp] theorem tick_svc : s.tick.svc = s.svc := by cases h : s.pwr.phase <;> simp [tick, h]
@[simp] theorem tick_tap : s.tick.tap = s.tap := by cases h : s.pwr.phase <;> simp [tick, h]
@[simp] theorem tick_fuses : s.tick.fuses = s.fuses := by cases h : s.pwr.phase <;> simp [tick, h]
@[simp] theorem tick_out : s.tick.out = s.out := by cases h : s.pwr.phase <;> simp [tick, h]
@[simp] theorem tick_free : s.tick.free = s.free := by cases h : s.pwr.phase <;> simp [tick, h]
@[simp] theorem tick_mem : s.tick.mem = s.mem := by cases h : s.pwr.phase <;> simp [tick, h]
@[simp] theorem tick_cores : s.tick.cores = s.cores := by cases h : s.pwr.phase <;> simp [tick, h]

@[simp] theorem countPoison_mem (c n : Nat) : (s.countPoison c n).mem = s.mem := rfl

end Sys2Proof.Machine.State
end

