-- ==== Sys2Proof/Laws/Issue.lean ====
section
/-! SUPPORT. Laws of the issue of an instruction (R171 to R173): what going on, jumping and waiting leave. -/

namespace Sys2Proof.Machine.State

theorem pc_add_one (p : BitVec 12) : BitVec.ofNat 12 (p.toNat + 1) = p + 1 := by
  apply BitVec.eq_of_toNat_eq; simp

theorem pc_lt {p : BitVec 12} (h : p ≠ 4095) : p.toNat + 1 < 4096 := by
  have := p.isLt
  have h2 : p.toNat ≠ 4095 := fun e => h (BitVec.eq_of_toNat_eq (by simpa using e))
  omega

/-- Going on at an index of the region (R171, R173). -/
theorem goTo_eq (s : State) (c t steps : Nat) (h : t < 4096) :
    s.goTo c t steps = s.setSeq c ((s.seq c).jumps s.now t steps) := by
  simp only [goTo, h, if_true, Seq.jumps]
  by_cases h1 : (s.seq c).bufBase ≤ t ∧ t < (s.seq c).bufBase + (s.seq c).buf.length <;>
    by_cases h2 : t = (s.seq c).pc.toNat + 1 <;> simp [h1, h2]

/-- Going on in order (R172). -/
theorem advance_eq (s : State) (c : CoreId) (h : (s.seq c.toNat).pc ≠ 4095) : s.advance c.toNat = s.goesOn c := by
  simp [advance, goTo_eq, pc_lt h, goesOn, Seq.jumps, Seq.goesOn, pc_add_one]

/-- An instruction that may issue and whose wait is met takes effect and goes on (R172). -/
theorem issue_ready (s : State) (c : CoreId) (i : Instr) (e : State) (h : s.canIssue c i = true)
    (hp : (e.seq c.toNat).pc ≠ 4095) : s.issue c i true e = .next (e.goesOn c) := by
  simp [issue, h, advance_eq e c hp]

/-- An instruction whose wait is not met waits at issue (R172). -/
theorem issue_waits (s : State) (c : CoreId) (i : Instr) (e : State) (h : s.canIssue c i = true) :
    s.issue c i false e = .next (s.setSt c.toNat 2) := by simp [issue, h]

/-- An instruction that may not issue changes nothing (log 9). -/
theorem issue_not (s : State) (c : CoreId) (i : Instr) (r : Bool) (e : State) (h : s.canIssue c i = false) :
    s.issue c i r e = .next s := by simp [issue, h]

theorem issueTo_ready (s : State) (c : CoreId) (i : Instr) (e : State) (h : s.canIssue c i = true) :
    s.issueTo c i true e = .next e := by simp [issueTo, h]

theorem issueTo_waits (s : State) (c : CoreId) (i : Instr) (e : State) (h : s.canIssue c i = true) :
    s.issueTo c i false e = .next (s.setSt c.toNat 2) := by simp [issueTo, h]

/-- A fault leaves the PC as it was (R184). -/
@[simp] theorem coreFault_pc (s : State) (c : Nat) (code : BitVec 4) (pc : BitVec 12) (k : Nat) :
    ((s.coreFault c code pc).seq k).pc = (s.seq k).pc := by
  by_cases h : c = k
  · subst h; simp [coreFault, whistleSend, seq, setSeq]
  · simp [coreFault, whistleSend, seq, setSeq, Sparse.get_set_other _ _ _ h]

@[simp] theorem coreFault_mem (s : State) (c : Nat) (code : BitVec 4) (pc : BitVec 12) : (s.coreFault c code pc).mem = s.mem := rfl
@[simp] theorem countPoison_seq (s : State) (c n k : Nat) : (s.countPoison c n).seq k = s.seq k := rfl
@[simp] theorem countPoison_now (s : State) (c n : Nat) : (s.countPoison c n).now = s.now := rfl
@[simp] theorem whistleSend_seq (s : State) (n : Nat) (m : WMsg) (k : Nat) : (s.whistleSend n m).seq k = s.seq k := rfl
@[simp] theorem whistleSend_mem (s : State) (n : Nat) (m : WMsg) : (s.whistleSend n m).mem = s.mem := rfl
@[simp] theorem setReg_now (s : State) (c : Nat) (r : BitVec 4) (v : W64) : (s.setReg c r v).now = s.now := rfl

/-- A scalar instruction writes RD and goes on. -/
theorem scalar_eq (s : State) (c : CoreId) (i : Instr) (rd : BitVec 4) (v : W64) (h : s.canIssue c i = true)
    (hp : (s.seq c.toNat).pc ≠ 4095) :
    s.scalar c i rd v = .next (s.setSeq c.toNat ((s.seq c.toNat).writes s.now rd v)) := by
  have hq : ((s.setReg c.toNat rd v).seq c.toNat).pc ≠ 4095 := by simpa [setReg, Seq.setReg] using hp
  rw [scalar, issue_ready s c i _ h hq]
  simp [goesOn, setReg, Seq.setReg, Seq.goesOn, Seq.writes]

end Sys2Proof.Machine.State
end

