-- ==== Sys2Proof/Laws/Memory.lean ====
section
/-! SUPPORT. Laws of memory: every operation keeps its canonical form, a byte reads as it was written and every other byte as before;
and for each shared operation that stores, what it can do. -/

namespace Sys2Proof.Machine

namespace Memory

variable (m : Memory)

theorem wf_iff : m.wf = true ↔ Sparse.wf (0 : Byte) m.bytes = true ∧ Sparse.wf Side.clean m.side = true := by
  simp [wf]

theorem wf_empty : ({ bytes := [], side := [] } : Memory).wf = true := rfl

/-! ## The canonical form -/

theorem wf_setBytes (k : Nat) (bs : List Byte) (h : m.wf = true) : (m.setBytes k bs).wf = true := by
  rw [wf_iff] at *
  exact ⟨Sparse.wf_setAll 0 _ _ h.1, h.2⟩

theorem wf_setSide (k : Nat) (sd : Side) (h : m.wf = true) : (m.setSide k sd).wf = true := by
  rw [wf_iff] at *
  exact ⟨h.1, Sparse.wf_set Side.clean sd _ _ h.2⟩

theorem wf_setParcel (k a : Nat) (p : Parcel) (h : m.wf = true) : (m.setParcel k a p).wf = true :=
  wf_setSide _ _ _ (wf_setBytes _ _ _ h)

theorem wf_patch (k : Nat) (bs : List Byte) (h : m.wf = true) : (m.patch k bs).wf = true := by
  unfold patch
  dsimp only
  split
  · exact h
  · exact wf_setSide _ _ _ (wf_setBytes _ _ _ h)

theorem wf_wipe (lo hi : Nat) (h : m.wf = true) : (m.wipe lo hi).wf = true := by
  rw [wf_iff] at *
  exact ⟨Sparse.wf_clear 0 _ lo hi h.1, Sparse.wf_clear Side.clean _ _ _ h.2⟩

/-- Memory changed once for each item of a list keeps its form when each change does. -/
theorem wf_foldl {α : Type} (f : Memory → α → Memory) (hf : ∀ m a, m.wf = true → (f m a).wf = true) (l : List α) :
    ∀ m : Memory, m.wf = true → (l.foldl f m).wf = true := by
  induction l with
  | nil => intro m h; exact h
  | cons a r ih => intro m h; exact ih _ (hf m a h)

/-! ## Bytes read after a write -/

@[simp] theorem setSide_byte (k j : Nat) (sd : Side) : (m.setSide k sd).byte j = m.byte j := rfl

@[simp] theorem setBytes_side (k : Nat) (bs : List Byte) : (m.setBytes k bs).side = m.side := rfl

theorem setBytes_byte_other (k j : Nat) (bs : List Byte) (h : j < k ∨ k + bs.length ≤ j) :
    (m.setBytes k bs).byte j = m.byte j := by
  refine Sparse.get_setAll_other _ _ _ ?_ _
  intro p hp
  simp only [List.mem_map, List.mem_range] at hp
  obtain ⟨i, hi, rfl⟩ := hp
  simp only
  omega

/-- A run of writes at rising keys, read at one of them. -/
theorem get_setAll_run (f : Nat → Byte) (k n i : Nat) (h : i < n) :
    ∀ b : List Host.Cell, Sparse.get 0 (Sparse.setAll 0 b ((List.range n).map fun j => (k + j, f j))) (k + i) = f i := by
  induction n with
  | zero => omega
  | succ n ih =>
    intro b
    rw [List.range_succ, List.map_append]
    have e : ∀ x y : List (Nat × Byte), Sparse.setAll 0 b (x ++ y) = Sparse.setAll 0 (Sparse.setAll 0 b x) y := by
      intro x; revert b
      induction x with
      | nil => intro b y; rfl
      | cons p r ihr => intro b y; exact ihr _ y
    rw [e]
    change Sparse.get 0 (Sparse.set 0 _ (k + n) (f n)) (k + i) = f i
    rw [Sparse.get_set]
    by_cases hi : i = n
    · subst hi; simp
    · have : ¬ (k + n = k + i) := by omega
      simp only [this, if_false]
      exact ih (by omega) b

/-- A byte that was written reads as written. -/
theorem setBytes_byte (k i : Nat) (bs : List Byte) (h : i < bs.length) :
    (m.setBytes k bs).byte (k + i) = bs.getD i 0 :=
  get_setAll_run (fun j => bs.getD j 0) k bs.length i h m.bytes

theorem setParcel_byte_other (k a j : Nat) (p : Parcel) (h : j < k ∨ k + 32 ≤ j) :
    (m.setParcel k a p).byte j = m.byte j := by
  have e : ∀ d : BitVec 256, (parcelBytes d).length = 32 := fun _ => leBytes_length 32 _
  exact m.setBytes_byte_other k j (parcelBytes (if p.poison then 0 else p.data)) (by rw [e]; exact h)

theorem patch_byte_other (k j : Nat) (bs : List Byte) (h : j < k ∨ k + bs.length ≤ j) :
    (m.patch k bs).byte j = m.byte j := by
  unfold patch
  dsimp only
  split
  · rfl
  · exact m.setBytes_byte_other k j bs h

/-- A cleared range reads as unwritten memory, every other byte as before. -/
theorem wipe_byte (lo hi j : Nat) : (m.wipe lo hi).byte j = if lo ≤ j ∧ j < hi then 0 else m.byte j :=
  Sparse.get_clear 0 m.bytes lo hi j

/-! ## The sideband read after a write -/

theorem setSide_sideAt (k j : Nat) (sd : Side) :
    (m.setSide k sd).sideAt j = if k / 32 = j / 32 then sd else m.sideAt j := by
  simp [setSide, sideAt, Sparse.get_set]

@[simp] theorem setBytes_sideAt (k j : Nat) (bs : List Byte) : (m.setBytes k bs).sideAt j = m.sideAt j := rfl

theorem setParcel_sideAt_other (k a j : Nat) (p : Parcel) (h : k / 32 ≠ j / 32) :
    (m.setParcel k a p).sideAt j = m.sideAt j := by
  simp [setParcel, setSide_sideAt, h]

end Memory

/-! ## The shared operations that store -/

namespace State

variable (s : State)

/-- Memory after reset is in its canonical form. -/
theorem reset_mem_wf : State.reset.mem.wf = true := Memory.wf_empty

theorem setMem_wf (m : Memory) (h : m.wf = true) : (s.setMem m).mem.wf = true := h

@[simp] theorem markAcc_mem (a : Nat) (p : Bool) : (s.markAcc a p).mem = s.mem := by
  unfold markAcc; split <;> rfl

@[simp] theorem sliceReq_mem (r : SReq) : (s.sliceReq r).mem = s.mem := rfl

theorem storeParcel_wf (w : Requester) (k a : Nat) (p : Parcel) (h : s.mem.wf = true) : (s.storeParcel w k a p).mem.wf = true := by
  unfold storeParcel
  split
  · simpa using h
  · simpa using Memory.wf_setParcel _ k a p h

/-- A stored parcel changes no byte outside its 32. -/
theorem storeParcel_byte_other (w : Requester) (k a j : Nat) (p : Parcel) (h : j < k ∨ k + 32 ≤ j) :
    (s.storeParcel w k a p).mem.byte j = s.mem.byte j := by
  unfold storeParcel
  split
  · rfl
  · simpa using Memory.setParcel_byte_other _ k a j p h

/-- All that a parcel written at a local address can do: nothing where it is undecoded, one more held write in a list range (R227), else
the store. -/
theorem putParcel_cases (a : Nat) (p : Parcel) :
    (s.keyOf (a / 32 * 32) = none ∧ s.putParcel a p = s) ∨
    (∃ k, s.keyOf (a / 32 * 32) = some k ∧ s.inListRange (a / 32 * 32) = true ∧
      s.putParcel a p = s.hold .nobody (a / 32 * 32) p) ∨
    (∃ k, s.keyOf (a / 32 * 32) = some k ∧ s.inListRange (a / 32 * 32) = false ∧
      s.putParcel a p = s.storeParcel .nobody k (a / 32 * 32) p) := by
  cases hk : s.keyOf (a / 32 * 32) with
  | none => exact .inl ⟨rfl, by simp [putParcel, putParcelFor, hk]⟩
  | some k =>
    cases hl : s.inListRange (a / 32 * 32) with
    | true => exact .inr (.inl ⟨k, rfl, rfl, by simp [putParcel, putParcelFor, hk, hl]⟩)
    | false => exact .inr (.inr ⟨k, rfl, rfl, by simp [putParcel, putParcelFor, hk, hl]⟩)

theorem putParcel_wf (a : Nat) (p : Parcel) (h : s.mem.wf = true) : (s.putParcel a p).mem.wf = true := by
  obtain ⟨-, e⟩ | ⟨k, -, -, e⟩ | ⟨k, -, -, e⟩ := s.putParcel_cases a p
  · rw [e]; exact h
  · rw [e]; exact h
  · rw [e]; exact s.storeParcel_wf _ k _ p h

theorem storeWord_wf (c off : Nat) (v : W64) (h : s.mem.wf = true) : (s.storeWord c off v).mem.wf = true := by
  unfold storeWord
  dsimp only
  split
  · exact h
  · exact Memory.wf_patch _ _ _ h

/-- A stored word changes no byte outside its 8. -/
theorem storeWord_byte_other (c off j : Nat) (v : W64) (h : j < coreAddr c off ∨ coreAddr c off + 8 ≤ j) :
    (s.storeWord c off v).mem.byte j = s.mem.byte j := by
  unfold storeWord
  dsimp only
  split
  · rfl
  · exact Memory.patch_byte_other _ _ j _ (by simpa [leBytes] using h)

@[simp] theorem countQsat_mem (c n : Nat) : (s.countQsat c n).mem = s.mem := rfl
@[simp] theorem countNonfin_mem (c n : Nat) : (s.countNonfin c n).mem = s.mem := rfl
@[simp] theorem setReg_mem (c : Nat) (r : BitVec 4) (v : W64) : (s.setReg c r v).mem = s.mem := rfl

end State

end Sys2Proof.Machine
end

