-- ==== Sys2Proof/Laws/PerInstr.lean ====
section
/-! SUPPORT. For each constructor of Instr: the word that the encoder writes for it carries, in bits 63 to 56, the operation code of the
instruction list (R177); a command that is no sequencer instruction has no word. -/

namespace Sys2Proof

/-- The operation code of a sequencer instruction (R177, R178). -/
def Instr.opcode : Instr → Option Byte
  | .nop _ _ => some 0x00
  | .add _ _ => some 0x01
  | .sub _ _ => some 0x02
  | .mul _ _ => some 0x03
  | .and _ _ => some 0x04
  | .or _ _ => some 0x05
  | .shl _ _ => some 0x06
  | .shr _ _ => some 0x07
  | .ldi _ _ => some 0x08
  | .lds _ _ => some 0x09
  | .sts _ _ _ => some 0x0A
  | .wld _ _ _ => some 0x10
  | .pass _ _ => some 0x11
  | .aclr _ _ _ _ _ => some 0x12
  | .drain _ _ => some 0x13
  | .drainSplitNode _ _ => some 0x13
  | .mvd _ _ => some 0x18
  | .mvsRow _ _ => some 0x19
  | .mvsGather _ _ => some 0x19
  | .isxDot _ _ => some 0x1A
  | .isxSampled _ _ => some 0x1A
  | .mrg _ _ => some 0x1B
  | .sct _ _ => some 0x1C
  | .arm _ _ _ _ _ => some 0x20
  | .waits _ _ => some 0x21
  | .waitany _ _ _ => some 0x22
  | .dpkOut _ _ _ _ _ _ => some 0x23
  | .dpkIn _ _ _ _ _ => some 0x23
  | .cbar _ _ => some 0x30
  | .csig _ _ => some 0x31
  | .bopen _ _ _ => some 0x38
  | .bcommit _ _ => some 0x39
  | .babort _ _ => some 0x3A
  | .tkt _ _ _ _ => some 0x40
  | .tktset _ _ _ _ _ => some 0x41
  | .loop _ _ _ _ _ => some 0x48
  | .endl _ _ _ => some 0x49
  | .br _ _ _ _ _ => some 0x4A
  | .bkt _ _ _ _ _ => some 0x4B
  | .halt _ => some 0x4F
  | .chain _ _ _ _ => some 0x50
  | .stepCtr _ _ => some 0x51
  | _ => none

/-- High bits of two fields put together are bits of the higher field. -/
theorem high_append {n m : Nat} (x : BitVec n) (y : BitVec m) (lo k : Nat) (h : m ≤ lo) :
    (x ++ y).extractLsb' lo k = x.extractLsb' (lo - m) k := by
  apply BitVec.eq_of_getLsbD_eq
  intro i hi
  have h1 : ¬ lo + i < m := by omega
  have h2 : lo + i - m = lo - m + i := by omega
  simp [BitVec.getLsbD_extractLsb', BitVec.getLsbD_append, h1, h2]

theorem scalarWord_opcode (op : Byte) (bm : Bool) (f : Scalar) : fld (scalarWord op bm f) 56 8 = op := by
  refine (high_append _ _ 56 8 (by decide)).trans ?_
  iterate (rw [high_append _ _ _ 8 (by decide)])
  simp

theorem vecWord_opcode (op : Byte) (form : BitVec 2) (f : VecF) : fld (vecWord op form f) 56 8 = op := by
  refine (high_append _ _ 56 8 (by decide)).trans ?_
  iterate (rw [high_append _ _ _ 8 (by decide)])
  simp

theorem drainWord_opcode (mode : BitVec 2) (f : DrainF) : fld (drainWord mode f) 56 8 = 0x13 := by
  refine (high_append _ _ 56 8 (by decide)).trans ?_
  iterate (rw [high_append _ _ _ 8 (by decide)])
  simp

namespace Laws.Encoding

/-- A well-formed command with a word is a sequencer instruction, and bits 63 to 56 of its word are its operation code; one without a word
is none. -/
def Statement (i : Instr) : Prop :=
  i.wf = true → (encodeWord i).map (fun w => fld w 56 8) = i.opcode

theorem nop (c : CoreId) (w : W64) : Statement (.nop c w) :=
  fun h => by
    simp only [Instr.wf, decide_eq_true_eq] at h
    subst h; rfl
theorem add (c : CoreId) (f : Scalar) : Statement (.add c f) :=
  fun _ => congrArg some (scalarWord_opcode _ _ f)
theorem sub (c : CoreId) (f : Scalar) : Statement (.sub c f) :=
  fun _ => congrArg some (scalarWord_opcode _ _ f)
theorem mul (c : CoreId) (f : Scalar) : Statement (.mul c f) :=
  fun _ => congrArg some (scalarWord_opcode _ _ f)
theorem and (c : CoreId) (f : Scalar) : Statement (.and c f) :=
  fun _ => congrArg some (scalarWord_opcode _ _ f)
theorem or (c : CoreId) (f : Scalar) : Statement (.or c f) :=
  fun _ => congrArg some (scalarWord_opcode _ _ f)
theorem shl (c : CoreId) (f : Scalar) : Statement (.shl c f) :=
  fun _ => congrArg some (scalarWord_opcode _ _ f)
theorem shr (c : CoreId) (f : Scalar) : Statement (.shr c f) :=
  fun _ => congrArg some (scalarWord_opcode _ _ f)
theorem ldi (c : CoreId) (f : Scalar) : Statement (.ldi c f) :=
  fun _ => congrArg some (scalarWord_opcode _ _ f)
theorem lds (c : CoreId) (f : Scalar) : Statement (.lds c f) :=
  fun _ => congrArg some (scalarWord_opcode _ _ f)
theorem sts (c : CoreId) (bm : Bool) (f : Scalar) : Statement (.sts c bm f) :=
  fun _ => congrArg some (scalarWord_opcode _ _ f)
theorem wld (c : CoreId) (ia : Bool) (tile : BitVec 18) : Statement (.wld c ia tile) :=
  fun _ => congrArg some (by
      refine (high_append _ _ 56 8 (by decide)).trans ?_
      iterate (rw [high_append _ _ _ 8 (by decide)])
      simp)
theorem pass (c : CoreId) (f : PassF) : Statement (.pass c f) :=
  fun _ => congrArg some (by
      refine (high_append _ _ 56 8 (by decide)).trans ?_
      iterate (rw [high_append _ _ _ 8 (by decide)])
      simp)
theorem aclr (c : CoreId) (ia : Bool) (base : BitVec 3) (depthM1 : BitVec 3) (integer : Bool) : Statement (.aclr c ia base depthM1 integer) :=
  fun _ => congrArg some (by
      refine (high_append _ _ 56 8 (by decide)).trans ?_
      iterate (rw [high_append _ _ _ 8 (by decide)])
      simp)
theorem drain (c : CoreId) (f : DrainF) : Statement (.drain c f) :=
  fun _ => congrArg some (drainWord_opcode _ f)
theorem drainSplitNode (c : CoreId) (f : DrainF) : Statement (.drainSplitNode c f) :=
  fun _ => congrArg some (drainWord_opcode _ f)
theorem mvd (c : CoreId) (f : VecF) : Statement (.mvd c f) :=
  fun _ => congrArg some (vecWord_opcode _ _ f)
theorem mvsRow (c : CoreId) (f : VecF) : Statement (.mvsRow c f) :=
  fun _ => congrArg some (vecWord_opcode _ _ f)
theorem mvsGather (c : CoreId) (f : VecF) : Statement (.mvsGather c f) :=
  fun _ => congrArg some (vecWord_opcode _ _ f)
theorem isxDot (c : CoreId) (f : VecF) : Statement (.isxDot c f) :=
  fun _ => congrArg some (vecWord_opcode _ _ f)
theorem isxSampled (c : CoreId) (f : VecF) : Statement (.isxSampled c f) :=
  fun _ => congrArg some (vecWord_opcode _ _ f)
theorem mrg (c : CoreId) (f : VecF) : Statement (.mrg c f) :=
  fun _ => congrArg some (vecWord_opcode _ _ f)
theorem sct (c : CoreId) (f : VecF) : Statement (.sct c f) :=
  fun _ => congrArg some (vecWord_opcode _ _ f)
theorem arm (c : CoreId) (bm : Bool) (ia : Bool) (eng : BitVec 3) (list : LAddr) : Statement (.arm c bm ia eng list) :=
  fun _ => congrArg some (by
      refine (high_append _ _ 56 8 (by decide)).trans ?_
      iterate (rw [high_append _ _ _ 8 (by decide)])
      simp)
theorem waits (c : CoreId) (mask : Byte) : Statement (.waits c mask) :=
  fun _ => congrArg some (by
      refine (high_append _ _ 56 8 (by decide)).trans ?_
      iterate (rw [high_append _ _ _ 8 (by decide)])
      simp)
theorem waitany (c : CoreId) (rd : BitVec 4) (mask : Byte) : Statement (.waitany c rd mask) :=
  fun _ => congrArg some (by
      refine (high_append _ _ 56 8 (by decide)).trans ?_
      iterate (rw [high_append _ _ _ 8 (by decide)])
      simp)
theorem dpkOut (c : CoreId) (bm : Bool) (ia : Bool) (lenM1 : BitVec 3) (areg : BitVec 4) (loc : BitVec 18) : Statement (.dpkOut c bm ia lenM1 areg loc) :=
  fun _ => congrArg some (by
      refine (high_append _ _ 56 8 (by decide)).trans ?_
      iterate (rw [high_append _ _ _ 8 (by decide)])
      simp)
theorem dpkIn (c : CoreId) (ia : Bool) (lenM1 : BitVec 3) (areg : BitVec 4) (loc : BitVec 18) : Statement (.dpkIn c ia lenM1 areg loc) :=
  fun _ => congrArg some (by
      refine (high_append _ _ 56 8 (by decide)).trans ?_
      iterate (rw [high_append _ _ _ 8 (by decide)])
      simp)
theorem cbar (c : CoreId) (ch : BitVec 4) : Statement (.cbar c ch) :=
  fun _ => congrArg some (by
      refine (high_append _ _ 56 8 (by decide)).trans ?_
      iterate (rw [high_append _ _ _ 8 (by decide)])
      simp)
theorem csig (c : CoreId) (ch : BitVec 4) : Statement (.csig c ch) :=
  fun _ => congrArg some (by
      refine (high_append _ _ 56 8 (by decide)).trans ?_
      iterate (rw [high_append _ _ _ 8 (by decide)])
      simp)
theorem bopen (c : CoreId) (pwp : Bool) (ch : BitVec 4) : Statement (.bopen c pwp ch) :=
  fun _ => congrArg some (by
      refine (high_append _ _ 56 8 (by decide)).trans ?_
      iterate (rw [high_append _ _ _ 8 (by decide)])
      simp)
theorem bcommit (c : CoreId) (rd : BitVec 4) : Statement (.bcommit c rd) :=
  fun _ => congrArg some (by
      refine (high_append _ _ 56 8 (by decide)).trans ?_
      iterate (rw [high_append _ _ _ 8 (by decide)])
      simp)
theorem babort (c : CoreId) (rd : BitVec 4) : Statement (.babort c rd) :=
  fun _ => congrArg some (by
      refine (high_append _ _ 56 8 (by decide)).trans ?_
      iterate (rw [high_append _ _ _ 8 (by decide)])
      simp)
theorem tkt (c : CoreId) (rd : BitVec 4) (ia : Bool) (ctr : BitVec 6) : Statement (.tkt c rd ia ctr) :=
  fun _ => congrArg some (by
      refine (high_append _ _ 56 8 (by decide)).trans ?_
      iterate (rw [high_append _ _ _ 8 (by decide)])
      simp)
theorem tktset (c : CoreId) (ra : BitVec 4) (clr : Bool) (ia : Bool) (ctr : BitVec 6) : Statement (.tktset c ra clr ia ctr) :=
  fun _ => congrArg some (by
      refine (high_append _ _ 56 8 (by decide)).trans ?_
      iterate (rw [high_append _ _ _ 8 (by decide)])
      simp)
theorem loop (c : CoreId) (lc : BitVec 2) (ia : Bool) (endIdx : BitVec 12) (count : BitVec 24) : Statement (.loop c lc ia endIdx count) :=
  fun _ => congrArg some (by
      refine (high_append _ _ 56 8 (by decide)).trans ?_
      iterate (rw [high_append _ _ _ 8 (by decide)])
      simp)
theorem endl (c : CoreId) (lc : BitVec 2) (body : BitVec 12) : Statement (.endl c lc body) :=
  fun _ => congrArg some (by
      refine (high_append _ _ 56 8 (by decide)).trans ?_
      iterate (rw [high_append _ _ _ 8 (by decide)])
      simp)
theorem br (c : CoreId) (cond : BitVec 4) (ra : BitVec 4) (ia : Bool) (target : BitVec 12) : Statement (.br c cond ra ia target) :=
  fun _ => congrArg some (by
      refine (high_append _ _ 56 8 (by decide)).trans ?_
      iterate (rw [high_append _ _ _ 8 (by decide)])
      simp)
theorem bkt (c : CoreId) (rd : BitVec 4) (ra : BitVec 4) (src : Bool) (btab : Byte) : Statement (.bkt c rd ra src btab) :=
  fun _ => congrArg some (by
      refine (high_append _ _ 56 8 (by decide)).trans ?_
      iterate (rw [high_append _ _ _ 8 (by decide)])
      simp)
theorem halt (c : CoreId) : Statement (.halt c) :=
  fun _ => rfl
theorem chain (c : CoreId) (ia : Bool) (cfg : BitVec 4) (rec : BitVec 18) : Statement (.chain c ia cfg rec) :=
  fun _ => congrArg some (by
      refine (high_append _ _ 56 8 (by decide)).trans ?_
      iterate (rw [high_append _ _ _ 8 (by decide)])
      simp)
theorem stepCtr (c : CoreId) (rd : BitVec 4) : Statement (.stepCtr c rd) :=
  fun _ => congrArg some (by
      refine (high_append _ _ 56 8 (by decide)).trans ?_
      iterate (rw [high_append _ _ _ 8 (by decide)])
      simp)
theorem instructionFetch (c : CoreId) : Statement (.instructionFetch c) :=
  fun _ => rfl
theorem feederFillStart (c : CoreId) : Statement (.feederFillStart c) :=
  fun _ => rfl
theorem feederFillDone (c : CoreId) (second : Bool) : Statement (.feederFillDone c second) :=
  fun _ => rfl
theorem feederRelease (c : CoreId) : Statement (.feederRelease c) :=
  fun _ => rfl
theorem cellTokenStart (c : CoreId) (r : BitVec 6) (j : BitVec 6) : Statement (.cellTokenStart c r j) :=
  fun _ => rfl
theorem cellStep (c : CoreId) (r : BitVec 6) (j : BitVec 6) : Statement (.cellStep c r j) :=
  fun _ => rfl
theorem tokenSlotEnd (c : CoreId) (r : BitVec 6) (j : BitVec 6) : Statement (.tokenSlotEnd c r j) :=
  fun _ => rfl
theorem rowLoadRead (c : CoreId) : Statement (.rowLoadRead c) :=
  fun _ => rfl
theorem shadowCopy (c : CoreId) (r : BitVec 6) (j : BitVec 6) : Statement (.shadowCopy c r j) :=
  fun _ => rfl
theorem bottomStage (c : CoreId) (r : BitVec 6) (j : BitVec 6) : Statement (.bottomStage c r j) :=
  fun _ => rfl
theorem accCombine (c : CoreId) (base : BitVec 3) (e : BitVec 12) : Statement (.accCombine c base e) :=
  fun _ => rfl
theorem aclrTakeEffect (c : CoreId) : Statement (.aclrTakeEffect c) :=
  fun _ => rfl
theorem drainRowRead (c : CoreId) : Statement (.drainRowRead c) :=
  fun _ => rfl
theorem splitNodeArrival (c : CoreId) : Statement (.splitNodeArrival c) :=
  fun _ => rfl
theorem chainStage (c : CoreId) (k : Nat) : Statement (.chainStage c k) :=
  fun _ => rfl
theorem packerEmit (c : CoreId) : Statement (.packerEmit c) :=
  fun _ => rfl
theorem vecFillStart (c : CoreId) : Statement (.vecFillStart c) :=
  fun _ => rfl
theorem vecFillDone (c : CoreId) (second : Bool) : Statement (.vecFillDone c second) :=
  fun _ => rfl
theorem vecBand (c : CoreId) : Statement (.vecBand c) :=
  fun _ => rfl
theorem vecLeafEntry (c : CoreId) : Statement (.vecLeafEntry c) :=
  fun _ => rfl
theorem intersectStep (c : CoreId) : Statement (.intersectStep c) :=
  fun _ => rfl
theorem sctSelectDone (c : CoreId) : Statement (.sctSelectDone c) :=
  fun _ => rfl
theorem tktServe (ctr : BitVec 6) : Statement (.tktServe ctr) :=
  fun _ => rfl
theorem tktsetServe (ctr : BitVec 6) : Statement (.tktsetServe ctr) :=
  fun _ => rfl
theorem queuedArmStart (c : CoreId) (e : BitVec 3) : Statement (.queuedArmStart c e) :=
  fun _ => rfl
theorem bundledArmStart (c : CoreId) (e : BitVec 3) : Statement (.bundledArmStart c e) :=
  fun _ => rfl
theorem descEntry (c : CoreId) (e : BitVec 3) : Statement (.descEntry c e) :=
  fun _ => rfl
theorem rawEntry (c : CoreId) (e : BitVec 3) : Statement (.rawEntry c e) :=
  fun _ => rfl
theorem listChain (c : CoreId) (e : BitVec 3) : Statement (.listChain c e) :=
  fun _ => rfl
theorem streamElementRead (c : CoreId) (e : BitVec 3) : Statement (.streamElementRead c e) :=
  fun _ => rfl
theorem streamElementWrite (c : CoreId) (e : BitVec 3) : Statement (.streamElementWrite c e) :=
  fun _ => rfl
theorem streamReadTimeout (c : CoreId) (e : BitVec 3) : Statement (.streamReadTimeout c e) :=
  fun _ => rfl
theorem streamWriteTimeout (c : CoreId) (e : BitVec 3) : Statement (.streamWriteTimeout c e) :=
  fun _ => rfl
theorem portDelivery (c : CoreId) (e : BitVec 3) : Statement (.portDelivery c e) :=
  fun _ => rfl
theorem armComplete (c : CoreId) (e : BitVec 3) : Statement (.armComplete c e) :=
  fun _ => rfl
theorem listHoldApply : Statement .listHoldApply :=
  fun _ => rfl
theorem regulatorWindow : Statement .regulatorWindow :=
  fun _ => rfl
theorem regulatorGrant (ch : Byte) : Statement (.regulatorGrant ch) :=
  fun _ => rfl
theorem daypackStep (plane : BitVec 2) (router : CoreId) (out : BitVec 3) : Statement (.daypackStep plane router out) :=
  fun _ => rfl
theorem daypackLand (c : CoreId) (k : Nat) : Statement (.daypackLand c k) :=
  fun _ => rfl
theorem trailSlot (plane : BitVec 2) (router : CoreId) (out : BitVec 3) : Statement (.trailSlot plane router out) :=
  fun _ => rfl
theorem phaseTablesStart : Statement .phaseTablesStart :=
  fun _ => rfl
theorem whistleFlitHop (k : Nat) : Statement (.whistleFlitHop k) :=
  fun _ => rfl
theorem remoteArm (c : CoreId) : Statement (.remoteArm c) :=
  fun _ => rfl
theorem errorNotice : Statement .errorNotice :=
  fun _ => rfl
theorem controlBlockWrite (c : CoreId) : Statement (.controlBlockWrite c) :=
  fun _ => rfl
theorem cairnBarrierComplete (ch : BitVec 4) : Statement (.cairnBarrierComplete ch) :=
  fun _ => rfl
theorem cairnTimeout (ch : BitVec 4) : Statement (.cairnTimeout ch) :=
  fun _ => rfl
theorem bundleVoteComplete (ch : BitVec 4) : Statement (.bundleVoteComplete ch) :=
  fun _ => rfl
theorem bundleWritesLanded (ch : BitVec 4) : Statement (.bundleWritesLanded ch) :=
  fun _ => rfl
theorem sliceStep (k : Byte) : Statement (.sliceStep k) :=
  fun _ => rfl
theorem sliceLineFill (k : Byte) : Statement (.sliceLineFill k) :=
  fun _ => rfl
theorem lpddr6Read (ch : Byte) (bad : Nat) : Statement (.lpddr6Read ch bad) :=
  fun _ => rfl
theorem lpddr6Write (w : BurstIn) : Statement (.lpddr6Write w) :=
  fun _ => rfl
theorem refresh (ch : Byte) (band : BitVec 2) : Statement (.refresh ch band) :=
  fun _ => rfl
theorem patrolScrub (ch : Byte) (bad : Nat) : Statement (.patrolScrub ch bad) :=
  fun _ => rfl
theorem lpddr6Training (ch : Byte) (seedsOk : Bool) (defaultOk : Bool) : Statement (.lpddr6Training ch seedsOk defaultOk) :=
  fun _ => rfl
theorem portStart (p : Port) : Statement (.portStart p) :=
  fun _ => rfl
theorem portTrainingDone (p : Port) (locked : Bool) (found : LinkFound) : Statement (.portTrainingDone p locked found) :=
  fun _ => rfl
theorem portTrainRetry (p : Port) : Statement (.portTrainRetry p) :=
  fun _ => rfl
theorem portFail (p : Port) (lostLock : Bool) : Statement (.portFail p lostLock) :=
  fun _ => rfl
theorem flitTransmit (p : Port) : Statement (.flitTransmit p) :=
  fun _ => rfl
theorem flitReceive (p : Port) (codewordOk : Bool) (fixed : Nat) (header : BitVec 256) (blocks : List PBlock) : Statement (.flitReceive p codewordOk fixed header blocks) :=
  fun _ => rfl
theorem ack (p : Port) (payload : BitVec 256) : Statement (.ack p payload) :=
  fun _ => rfl
theorem nak (p : Port) (payload : BitVec 256) : Statement (.nak p payload) :=
  fun _ => rfl
theorem flitEdgeDeliver (p : Port) (past : Nat) : Statement (.flitEdgeDeliver p past) :=
  fun _ => rfl
theorem readReq (p : Port) : Statement (.readReq p) :=
  fun _ => rfl
theorem readData (p : Port) : Statement (.readData p) :=
  fun _ => rfl
theorem write (p : Port) : Statement (.write p) :=
  fun _ => rfl
theorem writeDone (p : Port) : Statement (.writeDone p) :=
  fun _ => rfl
theorem node (n : NodeIn) : Statement (.node n) :=
  fun _ => rfl
theorem service (p : Port) : Statement (.service p) :=
  fun _ => rfl
theorem symbolResend (p : Port) : Statement (.symbolResend p) :=
  fun _ => rfl
theorem arrive (p : Port) (payload : BitVec 256) : Statement (.arrive p payload) :=
  fun _ => rfl
theorem release (p : Port) (payload : BitVec 256) : Statement (.release p payload) :=
  fun _ => rfl
theorem moduleWideComplete (ch : BitVec 4) : Statement (.moduleWideComplete ch) :=
  fun _ => rfl
theorem moduleWideTimeout (ch : BitVec 4) : Statement (.moduleWideTimeout ch) :=
  fun _ => rfl
theorem ready (p : Port) (payload : BitVec 256) : Statement (.ready p payload) :=
  fun _ => rfl
theorem start (p : Port) (payload : BitVec 256) : Statement (.start p payload) :=
  fun _ => rfl
theorem startRelease : Statement .startRelease :=
  fun _ => rfl
theorem timeSend (p : Port) (frac : BitVec 6) : Statement (.timeSend p frac) :=
  fun _ => rfl
theorem time (p : Port) (payload : BitVec 256) (t4 : W64) (t4frac : BitVec 6) : Statement (.time p payload t4 t4frac) :=
  fun _ => rfl
theorem syncLock : Statement .syncLock :=
  fun _ => rfl
theorem rateReq (p : Port) (payload : BitVec 256) : Statement (.rateReq p payload) :=
  fun _ => rfl
theorem rateSet (p : Port) (payload : BitVec 256) : Statement (.rateSet p payload) :=
  fun _ => rfl
theorem rateSetApply : Statement .rateSetApply :=
  fun _ => rfl
theorem refinLoss : Statement .refinLoss :=
  fun _ => rfl
theorem stepPermit (late : Bool) : Statement (.stepPermit late) :=
  fun _ => rfl
theorem damperInterval (slack : List Nat) : Statement (.damperInterval slack) :=
  fun _ => rfl
theorem loweringApply : Statement .loweringApply :=
  fun _ => rfl
theorem thermalCheck : Statement .thermalCheck :=
  fun _ => rfl
theorem rateRestore : Statement .rateRestore :=
  fun _ => rfl
theorem stepTargetApply : Statement .stepTargetApply :=
  fun _ => rfl
theorem powerWindowEnd (meanW : Nat) : Statement (.powerWindowEnd meanW) :=
  fun _ => rfl
theorem loopPeriodEnd (r : CoolReading) : Statement (.loopPeriodEnd r) :=
  fun _ => rfl
theorem thermalTrip : Statement .thermalTrip :=
  fun _ => rfl
theorem domainTransition : Statement .domainTransition :=
  fun _ => rfl
theorem basecampHeartbeatMiss : Statement .basecampHeartbeatMiss :=
  fun _ => rfl
theorem rangerRestart (cause : RestartCause) : Statement (.rangerRestart cause) :=
  fun _ => rfl
theorem parameterStoreDone (h : Holdup) : Statement (.parameterStoreDone h) :=
  fun _ => rfl
theorem request (peer : Peer) (bytes : List Byte) (h : Holdup) : Statement (.request peer bytes h) :=
  fun _ => rfl
theorem read (index : W16) (o : OpReq) : Statement (.read index o) :=
  fun _ => rfl
theorem segmentRead (index : W16) (o : OpReq) : Statement (.segmentRead index o) :=
  fun _ => rfl
theorem registerWrite (index : W16) (o : OpReq) (h : Holdup) : Statement (.registerWrite index o h) :=
  fun _ => rfl
theorem openSession (peer : Peer) (bytes : List Byte) : Statement (.openSession peer bytes) :=
  fun _ => rfl
theorem confirm (peer : Peer) (bytes : List Byte) : Statement (.confirm peer bytes) :=
  fun _ => rfl
theorem close (peer : Peer) (bytes : List Byte) : Statement (.close peer bytes) :=
  fun _ => rfl
theorem sessionIdleTimeout (sid : W32) : Statement (.sessionIdleTimeout sid) :=
  fun _ => rfl
theorem submit (peer : Peer) (bytes : List Byte) : Statement (.submit peer bytes) :=
  fun _ => rfl
theorem submitFragmentTimeout (sid : W32) (reqId : W64) : Statement (.submitFragmentTimeout sid reqId) :=
  fun _ => rfl
theorem admission (ch : BitVec 4) : Statement (.admission ch) :=
  fun _ => rfl
theorem epochRollover (h : Holdup) : Statement (.epochRollover h) :=
  fun _ => rfl
theorem outputHeaderPoll (ch : BitVec 4) : Statement (.outputHeaderPoll ch) :=
  fun _ => rfl
theorem recordSign : Statement .recordSign :=
  fun _ => rfl
theorem fetch (peer : Peer) (bytes : List Byte) : Statement (.fetch peer bytes) :=
  fun _ => rfl
theorem fetchWindowExpiry (sid : W32) (reqId : W64) : Statement (.fetchWindowExpiry sid reqId) :=
  fun _ => rfl
theorem packImage (o : OpReq) : Statement (.packImage o) :=
  fun _ => rfl
theorem packInstall (o : OpReq) : Statement (.packInstall o) :=
  fun _ => rfl
theorem packCheckComplete : Statement .packCheckComplete :=
  fun _ => rfl
theorem packStart (o : OpReq) (h : Holdup) : Statement (.packStart o h) :=
  fun _ => rfl
theorem packHalt (o : OpReq) : Statement (.packHalt o) :=
  fun _ => rfl
theorem packFatalHalt : Statement .packFatalHalt :=
  fun _ => rfl
theorem fabricReset (o : OpReq) : Statement (.fabricReset o) :=
  fun _ => rfl
theorem fabricResetComplete (seedsOk : Bool) (defaultOk : Bool) : Statement (.fabricResetComplete seedsOk defaultOk) :=
  fun _ => rfl
theorem paramDefaults (o : OpReq) (h : Holdup) : Statement (.paramDefaults o h) :=
  fun _ => rfl
theorem fwImage (o : OpReq) : Statement (.fwImage o) :=
  fun _ => rfl
theorem fwInstall (o : OpReq) (h : Holdup) : Statement (.fwInstall o h) :=
  fun _ => rfl
theorem fwBlockWrite (w : FlashTry) : Statement (.fwBlockWrite w) :=
  fun _ => rfl
theorem fwBlockRetry (w : FlashTry) : Statement (.fwBlockRetry w) :=
  fun _ => rfl
theorem wimgManifest (o : OpReq) : Statement (.wimgManifest o) :=
  fun _ => rfl
theorem wimgData (o : OpReq) : Statement (.wimgData o) :=
  fun _ => rfl
theorem wimgLoad (o : OpReq) : Statement (.wimgLoad o) :=
  fun _ => rfl
theorem wimgHashComplete : Statement .wimgHashComplete :=
  fun _ => rfl
theorem calStore (o : OpReq) (h : Holdup) : Statement (.calStore o h) :=
  fun _ => rfl
theorem selfCal (o : OpReq) : Statement (.selfCal o) :=
  fun _ => rfl
theorem selfCalDone (h : Holdup) : Statement (.selfCalDone h) :=
  fun _ => rfl
theorem arrayDiag (o : OpReq) : Statement (.arrayDiag o) :=
  fun _ => rfl
theorem arrayDiagDone (fails : List (Nat × Nat)) : Statement (.arrayDiagDone fails) :=
  fun _ => rfl
theorem bwOpen (o : OpReq) : Statement (.bwOpen o) :=
  fun _ => rfl
theorem bwCommit (o : OpReq) (h : Holdup) : Statement (.bwCommit o h) :=
  fun _ => rfl
theorem bwAbort (o : OpReq) : Statement (.bwAbort o) :=
  fun _ => rfl
theorem attestChallenge (o : OpReq) : Statement (.attestChallenge o) :=
  fun _ => rfl
theorem ownerEnrol (o : OpReq) (h : Holdup) : Statement (.ownerEnrol o h) :=
  fun _ => rfl
theorem logFetch (o : OpReq) : Statement (.logFetch o) :=
  fun _ => rfl
theorem stepTarget (o : OpReq) (h : Holdup) : Statement (.stepTarget o h) :=
  fun _ => rfl
theorem powerCap (o : OpReq) (h : Holdup) : Statement (.powerCap o h) :=
  fun _ => rfl
theorem regulatorSplit (o : OpReq) : Statement (.regulatorSplit o) :=
  fun _ => rfl
theorem slicePartition (o : OpReq) : Statement (.slicePartition o) :=
  fun _ => rfl
theorem domainRequest (o : OpReq) : Statement (.domainRequest o) :=
  fun _ => rfl
theorem logbookMode (o : OpReq) (h : Holdup) : Statement (.logbookMode o h) :=
  fun _ => rfl
theorem valveOwner (o : OpReq) (h : Holdup) : Statement (.valveOwner o h) :=
  fun _ => rfl
theorem maintenance (o : OpReq) : Statement (.maintenance o) :=
  fun _ => rfl
theorem arrayRepairMap (o : OpReq) (h : Holdup) : Statement (.arrayRepairMap o h) :=
  fun _ => rfl
theorem coreRepairMap (o : OpReq) (h : Holdup) : Statement (.coreRepairMap o h) :=
  fun _ => rfl
theorem glRouteTable (o : OpReq) (h : Holdup) : Statement (.glRouteTable o h) :=
  fun _ => rfl
theorem scoutThreshold (o : OpReq) : Statement (.scoutThreshold o) :=
  fun _ => rfl
theorem scoutDisable (o : OpReq) : Statement (.scoutDisable o) :=
  fun _ => rfl
theorem coreCtrl (o : OpReq) : Statement (.coreCtrl o) :=
  fun _ => rfl
theorem coreSelect (o : OpReq) : Statement (.coreSelect o) :=
  fun _ => rfl
theorem moduleId (o : OpReq) (h : Holdup) : Statement (.moduleId o h) :=
  fun _ => rfl
theorem vendorConsent (o : OpReq) (h : Holdup) : Statement (.vendorConsent o h) :=
  fun _ => rfl
theorem calibrationEntry (index : W16) (o : OpReq) : Statement (.calibrationEntry index o) :=
  fun _ => rfl
theorem recoveryData (peer : Peer) (bytes : List Byte) (w : FlashTry) : Statement (.recoveryData peer bytes w) :=
  fun _ => rfl
theorem recoveryQuery (peer : Peer) (bytes : List Byte) : Statement (.recoveryQuery peer bytes) :=
  fun _ => rfl
theorem pwrEnRise : Statement .pwrEnRise :=
  fun _ => rfl
theorem pwrGoodRetry : Statement .pwrGoodRetry :=
  fun _ => rfl
theorem pwrGoodRise (straps : Straps) : Statement (.pwrGoodRise straps) :=
  fun _ => rfl
theorem firmwareBootCheck : Statement .firmwareBootCheck :=
  fun _ => rfl
theorem domainRamp (d : Fin 44) : Statement (.domainRamp d) :=
  fun _ => rfl
theorem fullParameterService : Statement .fullParameterService :=
  fun _ => rfl
theorem basecampReady : Statement .basecampReady :=
  fun _ => rfl
theorem pwrEnFall : Statement .pwrEnFall :=
  fun _ => rfl
theorem undervoltageTrip : Statement .undervoltageTrip :=
  fun _ => rfl
theorem overvoltageTrip : Statement .overvoltageTrip :=
  fun _ => rfl
theorem powerDownHoldEnd : Statement .powerDownHoldEnd :=
  fun _ => rfl
theorem modResetNFall (straps : Straps) : Statement (.modResetNFall straps) :=
  fun _ => rfl
theorem modResetNRise : Statement .modResetNRise :=
  fun _ => rfl
theorem extest : Statement .extest :=
  fun _ => rfl
theorem idcode : Statement .idcode :=
  fun _ => rfl
theorem samplePreload (cells : BitVec 22) : Statement (.samplePreload cells) :=
  fun _ => rfl
theorem clamp : Statement .clamp :=
  fun _ => rfl
theorem trace : Statement .trace :=
  fun _ => rfl
theorem bypass : Statement .bypass :=
  fun _ => rfl
theorem traceEnWrite (v : Byte) : Statement (.traceEnWrite v) :=
  fun _ => rfl
theorem mgmtLinkUp (cr : Bool) : Statement (.mgmtLinkUp cr) :=
  fun _ => rfl
theorem mgmtLinkDown : Statement .mgmtLinkDown :=
  fun _ => rfl
theorem arpRequest (peer : Peer) (target : W32) : Statement (.arpRequest peer target) :=
  fun _ => rfl
theorem echoRequest (peer : Peer) (v6 : Bool) (target : BitVec 128) (data : List Byte) : Statement (.echoRequest peer v6 target data) :=
  fun _ => rfl
theorem neighbourSolicitation (peer : Peer) (target : BitVec 128) : Statement (.neighbourSolicitation peer target) :=
  fun _ => rfl
theorem refinReturn : Statement .refinReturn :=
  fun _ => rfl
theorem inputInRange : Statement .inputInRange :=
  fun _ => rfl
theorem rangerRestartDone : Statement .rangerRestartDone :=
  fun _ => rfl
theorem testLogicReset : Statement .testLogicReset :=
  fun _ => rfl
theorem channelSyncLoss (ch : Byte) : Statement (.channelSyncLoss ch) :=
  fun _ => rfl
theorem observerAccessStart : Statement .observerAccessStart :=
  fun _ => rfl

end Laws.Encoding

end Sys2Proof
end

