-- ==== Sys2Proof/Tests/Slice0.lean ====
section
/-! SUPPORT. Witnesses of the statements, and tests of the commands: each names small states that meet the conditions of the clauses of a
statement of Obligations.lean, and what the rules that the statement cites give there, worked out by hand. Where a condition is
on an uninterpreted function of Config, the test shows the conditions beside it. -/

namespace Sys2Proof.Tests

open Sys2Proof.Machine

set_option Elab.async false

/-! ## Helpers -/

/-- Does an outcome answer a next state of which p holds? -/
def nextIs (o : Host.Outcome State Fault Refusal) (p : State → Bool) : Bool :=
  match o with
  | .next s => p s
  | _ => false

/-- Does an outcome answer exactly this state? -/
def answers (o : Host.Outcome State Fault Refusal) (t : State) : Bool := nextIs o fun x => decide (x = t)

/-- Core 0 at index 0 of a program of one instruction, with the registers of a sequencer. -/
def coreS (i : Instr) (q : Seq) : State := State.reset.setSeq 0 { q with st := 1, buf := [(encodeWord i).getD 0] }

/-- An instruction that may issue at core 0 of a state answers as p says. -/
def issuesIn (i : Instr) (s : State) (p : State → Bool) : Bool := s.canIssue 0 i && nextIs (exec i s) p

/-- The same on `coreS`. -/
def issues (i : Instr) (q : Seq) (p : State → State → Bool) : Bool := issuesIn i (coreS i q) (p (coreS i q))

def q0 : Seq := { Seq.reset with sreg := ((Seq.reset.sreg.set 2 0xFFFFFFFFFFFFFFFF).set 5 3).set 7 0x20000 }

/-- A scalar form: RD 1, RA 2, RB 5. -/
def fR : Scalar := { rd := 1, ra := 2, rb := 5, imm := false, var := false, imm32 := 0 }

/-- RD 2 at the address in register 7. -/
def fM : Scalar := { rd := 2, ra := 7, rb := 0, imm := false, var := false, imm32 := 8 }

/-- Does an outcome stop on ill-formed operands? -/
def illFormed (o : Host.Outcome State Fault Refusal) : Bool :=
  match o with
  | .fault f => f = .illFormed
  | _ => false

def atStep (s : State) (n : Nat) : State := { s with pace := { s.pace with step := n } }

/-! ## Scalar instructions -/

theorem test_arithmetic :
    (issues (.add 0 fR) q0 fun s t => decide (t = s.setSeq 0 ((s.seq 0).writes s.now 1 2))) = true ∧
    (issues (.sub 0 fR) q0 fun s t => decide (t = s.setSeq 0 ((s.seq 0).writes s.now 1 0xFFFFFFFFFFFFFFFC))) = true ∧
    (issues (.mul 0 fR) q0 fun _ t => (t.seq 0).reg 1 = 0xFFFFFFFFFFFFFFFD) = true ∧
    (issues (.and 0 fR) q0 fun _ t => (t.seq 0).reg 1 = 3) = true ∧
    (issues (.or 0 fR) q0 fun _ t => (t.seq 0).reg 1 = 0xFFFFFFFFFFFFFFFF) = true := by decide

theorem test_shifts_and_loads :
    (issues (.shl 0 fR) q0 fun _ t => (t.seq 0).reg 1 = 0xFFFFFFFFFFFFFFF8) = true ∧
    (issues (.shr 0 fR) q0 fun _ t => (t.seq 0).reg 1 = 0x1FFFFFFFFFFFFFFF) = true ∧
    (issues (.shr 0 { fR with var := true }) q0 fun _ t => (t.seq 0).reg 1 = 0xFFFFFFFFFFFFFFFF) = true ∧
    (issues (.ldi 0 { fR with imm32 := 0x80000001 }) q0 fun _ t => (t.seq 0).reg 1 = 0xFFFFFFFF80000001) = true ∧
    (issues (.ldi 0 { fR with rd := 5, var := true, imm32 := 0x80000001 }) q0 fun _ t => (t.seq 0).reg 5 = 0x8000000100000003) = true ∧
    (issues (.stepCtr 0 1) q0 fun s t => (t.seq 0).reg 1 = BitVec.ofNat 64 s.now) = true := by decide

theorem test_nop_and_illegal :
    (issues (.nop 0 0) q0 fun s t => decide (t = s.goesOn 0)) = true ∧
    (issues (.nop 0 0x7700000000000000) q0 fun s t => decide (t = (s.coreFault 0 5 0).goesOn 0)) = true := by decide

/-- A byte lies at core-store offset 0x2_0008, and offset 0x7_0000 lies above the control block. -/
theorem test_loads :
    (let s := coreS (.lds 0 fM) q0
     let s := s.setMem (s.mem.setBytes (coreAddr 0 0x20008) [1, 2, 3, 4, 5, 6, 7, 8])
     (s.heldAt none (coreAddr 0 0x20008 / 32 * 32)).isNone && issuesIn (.lds 0 fM) s fun t => (t.seq 0).reg 2 = 0x0807060504030201) = true ∧
    (issues (.lds 0 { fM with imm32 := 0x50000 }) q0 fun _ t => (t.seq 0).reg 2 = 0) = true ∧
    (issues (.lds 0 { fM with imm32 := 0x20008 }) q0 fun _ t => (t.seq 0).reg 2 ≠ 0) = true := by decide

theorem test_stores :
    (issues (.sts 0 false { fM with rd := 5 }) q0 fun s t =>
      t.mem.byte (coreAddr 0 0x20008) = 3 && t.mem.byte (coreAddr 0 0x20007) = 0 && t.mem.byte (coreAddr 0 0x20010) = 0 &&
        !s.inListRange (coreAddr 0 0x20008 / 32 * 32)) = true ∧
    (issues (.sts 0 false { fM with imm32 := 0xFFFE0008 }) q0 fun s t => decide (t = (s.countPoison 0 1).goesOn 0)) = true ∧
    (issues (.sts 0 false { fM with imm32 := 0x20000 }) q0 fun s t => decide (t = s.goesOn 0)) = true := by decide

/-- A list range at core-store offset 0x2_0000. -/
def listS (i : Instr) : State :=
  let s := coreS i q0
  { s with pack := { s.pack with ranges := [(coreAddr 0 0x20000, 64)] } }

def heldMany : List Held := List.replicate 1024 { at_ := 0, addr := 0, parcel := {}, who := .nobody }

theorem test_stores_into_list_ranges :
    (issuesIn (.sts 0 false fM) (listS (.sts 0 false fM)) fun t => t.holdq.length = 1 && t.mem.bytes = [] && (t.seq 0).pc = 1) = true := by decide

theorem test_full_list_hold :
    (issuesIn (.sts 0 false fM) { listS (.sts 0 false fM) with holdq := heldMany } fun t => (t.seq 0).st = 2 && (t.seq 0).pc = 0) = true := by
  decide +kernel

/-- A held parcel, one that is poisoned, and a poisoned parcel of the core store. -/
theorem test_poisoned_loads :
    (let held := fun (p : Parcel) => { coreS (.lds 0 fM) q0 with holdq := [{ at_ := 0, addr := coreAddr 0 0x20000, parcel := p, who := .nobody }] }
     let s := coreS (.lds 0 fM) q0
     let bad := { (s.mem.sideAt (coreAddr 0 0x20008)) with poison := true }
     let s := s.setMem ((s.mem.setBytes (coreAddr 0 0x20008) [1]).setSide (coreAddr 0 0x20000) bad)
     (issuesIn (.lds 0 fM) (held { data := 7 * 2 ^ 64 }) fun t => (t.seq 0).reg 2 = 7) &&
       (issuesIn (.lds 0 fM) (held { data := 7 * 2 ^ 64, poison := true }) fun t => (t.seq 0).reg 2 = 0) &&
       (s.mem.sideAt (coreAddr 0 0x20008)).poison && issuesIn (.lds 0 fM) s fun t => (t.seq 0).reg 2 = 0) = true := by decide +kernel

/-- Stores into poisoned parcels, in the core store and in a list range. -/
theorem test_poisoned_stores :
    (let bad := fun (s : State) => s.setMem (s.mem.setSide (coreAddr 0 0x20000) { (s.mem.sideAt (coreAddr 0 0x20008)) with poison := true })
     let s := bad (coreS (.sts 0 false { fM with rd := 5 }) q0)
     let l := bad (listS (.sts 0 false fM))
     issuesIn (.sts 0 false { fM with rd := 5 }) s (fun t => decide (t = s.goesOn 0)) &&
       issuesIn (.sts 0 false fM) l fun t => t.holdq.map (fun h => h.parcel.poison) = [true]) = true := by decide +kernel

def bundleS (i : Instr) : State := (coreS i q0).setBnd 0 { (State.reset.bnd 0) with isOpen := true, ch := 2 }

theorem test_bundled_store :
    (issuesIn (.sts 0 true fM) (bundleS (.sts 0 true fM)) fun t =>
      (t.bnd 0).acts = [.sts 0x20008 0xFFFFFFFFFFFFFFFF] && t.mem.bytes = [] && (t.bnd 0).cause = 0) = true ∧
    (issuesIn (.sts 0 true fM) ((bundleS (.sts 0 true fM)).setBnd 0
      { (bundleS .errorNotice).bnd 0 with parcels := 512 }) fun t => (t.bnd 0).cause = 8) = true := by decide

def fDr : DrainF := { bm := true, ia := false, ib := false, cfg := 3, grp := 4, nrowsM1 := 7, tagreg := 0, dest := 0x21000 }

/-- Every member of a bundle with none open (R199). -/
theorem test_stray_members :
    ([.sts 0 true fM, .dpkOut 0 true false 0 2 0x20000, .arm 0 true false 3 0x100, .drain 0 fDr].all fun i =>
      issues i q0 fun s t => decide (t = ((s.setBnd 0 { s.bnd 0 with stray := true }).coreFault 0 4 0).goesOn 0)) = true := by decide

/-! ## Control flow -/

theorem test_loops :
    (issues (.loop 0 1 false 9 16) q0 fun _ t => (t.seq 0).lc[1] = 16 && (t.seq 0).pc = 1) = true ∧
    (issues (.loop 0 1 false 9 0) q0 fun s t => (t.seq 0).pc = 10 && (t.seq 0).nextIssue = s.now + 2 && (t.seq 0).buf = []) = true ∧
    (issues (.endl 0 1 0) { q0 with lc := q0.lc.set 1 1 } fun _ t => (t.seq 0).pc = 1 && (t.seq 0).lc[1] = 0) = true ∧
    (issues (.endl 0 1 0) { q0 with lc := q0.lc.set 1 2 } fun s t => (t.seq 0).pc = 0 && (t.seq 0).nextIssue = s.now + 2) = true := by
  decide

theorem test_branches :
    ([(.br 0 0 0 false 7 : Instr), .br 0 1 0 false 7, .br 0 2 2 false 7, .br 0 3 2 false 7, .br 0 4 5 false 7].all fun i =>
      issues i q0 fun _ t => (t.seq 0).pc = 7) = true ∧
    ([(.br 0 1 2 false 7 : Instr), .br 0 2 0 false 7, .br 0 3 5 false 7, .br 0 4 2 false 7].all fun i =>
      issues i q0 fun s t => decide (t = s.goesOn 0)) = true := by decide

def qB : Seq := { q0 with bk := 12, bkts := [(3, [{ size := 8, entry := 5, valid := true }, { size := 16, entry := 9, valid := true }])] }

/-- v is 12 in the bucket register, and 2^64 − 1 in register 2. -/
theorem test_buckets :
    (issues (.bkt 0 1 2 false 3) qB fun _ t => (t.seq 0).pc = 9 && (t.seq 0).reg 1 = 16) = true ∧
    (issues (.bkt 0 1 2 true 3) qB fun _ t => (t.seq 0).pc = 1 && (t.seq 0).fCode = 3 && (t.seq 0).fValid) = true := by decide

theorem test_last_index :
    (let s := coreS (.nop 0 0) { q0 with pc := 4095, bufBase := 4095 }
     issuesIn (.nop 0 0) s fun t => (t.seq 0).st = 4 && (t.seq 0).fCode = 7 && (t.seq 0).fPc = 4095) = true := by decide

/-- Two cores of a pack: the pack runs on while the other runs, and is halted with the last. -/
theorem test_halt :
    (let s := coreS (.halt 0) { q0 with inPack := true }
     let s := { s with pack := { s.pack with state := .running } }
     issuesIn (.halt 0) s (fun t => (t.seq 0).st = 3 && t.pack.state = .halted) &&
       issuesIn (.halt 0) (s.setSeq 1 { q0 with st := 1, inPack := true }) fun t => (t.seq 0).st = 3 && t.pack.state = PackState.running) = true := by
  decide

theorem test_fetch :
    (let s := State.reset.setSeq 0 { q0 with st := 1 }
     let s := s.setMem (s.mem.setBytes (coreAddr 0 0) [1, 2, 3, 4, 5, 6, 7, 8])
     nextIs (exec (.instructionFetch 0) s) fun t => (t.seq 0).buf.length = 16 && (t.seq 0).buf[0]? = some 0x0807060504030201 &&
       (t.seq 0).nextIssue = s.now + 3) = true := by decide

/-! ## Waits and tickets -/

def arm0 : Arm := { at_ := 0, list := 0, next := 0, left := 65535, ended := false, taken := 0, run := none, resid := false, bundled := false }

/-- The relaxed mode in force. -/
def relaxed (s : State) : State := { s with pack := { s.pack with strict := false } }

/-- Engine 1 holds an arm. -/
def engS (i : Instr) : State := (relaxed (coreS i q0)).setEng 0 1 { (State.reset.eng 0 1) with active := some arm0 }

theorem test_waits :
    (issuesIn (.waits 0 0xFD) (engS (.waits 0 0xFD)) fun t => decide (t = (engS (.waits 0 0xFD)).goesOn 0)) = true ∧
    (issuesIn (.waits 0 0xFF) (engS (.waits 0 0xFF)) fun t => (t.seq 0).st = 2 && (t.seq 0).pc = 0) = true ∧
    (let s := engS (.waitany 0 1 6)
     issuesIn (.waitany 0 1 6) { s with pack := { s.pack with strict := true } } fun t => (t.seq 0).fCode = 2 && (t.seq 0).reg 1 = 0) = true ∧
    (issuesIn (.waitany 0 1 6) (engS (.waitany 0 1 6)) fun t => (t.seq 0).reg 1 = 2 && t.sums.tdc = 1) = true ∧
    (issuesIn (.waitany 0 1 0) (engS (.waitany 0 1 0)) fun t => (t.seq 0).reg 1 = BitVec.allOnes 64) = true := by decide

theorem test_tickets :
    (let s := coreS (.tkt 0 1 false 5) q0
     issuesIn (.tkt 0 1 false 5) { s with pack := { s.pack with strict := true } } fun t => (t.seq 0).fCode = 2 && (t.seq 0).pc = 1) = true ∧
    (issuesIn (.tkt 0 1 false 5) (relaxed (coreS (.tkt 0 1 false 5) q0)) fun t => (t.seq 0).wait = .ticket 1 && (t.seq 0).st = 2 && t.whistle.flits.length = 1 && t.sums.tdc = 1) = true ∧
    (issues (.tktset 0 2 true false 5) q0 fun _ t => (t.seq 0).pc = 1 && t.whistle.flits.length = 3) = true := by decide

/-- Two tickets and a set wait at the home of counter 5. -/
def homeS : State :=
  let s := { State.reset with pace := { State.reset.pace with step := 9 } }
  let m : WMsg := { typ := 2, src := 0, dst := counterHome 5, bridge := false, body := [5], at_ := 3 }
  let n : WMsg := { typ := 4, src := 1, dst := counterHome 5, bridge := false, body := [5 + 64, 7, 9], at_ := 3 }
  { s with whistle := { s.whistle with box := [((counterHome 5).toNat, [n, m])] } }

theorem test_ticket_service :
    (homeS.nextServed 5).map (fun m => m.typ) = some 2 ∧
    (nextIs (exec (.tktServe 5) (homeS.setCtr 5 { next := 4, limit := 6, hwm := 5 })) fun t =>
      t.ctr 5 = { next := 5, limit := 6, hwm := 5 } && t.sums.dup = 1) = true ∧
    (nextIs (exec (.tktServe 5) homeS) fun t => t.ctr 5 = {} && t.whistle.flits.length = 2) = true ∧
    (let s := homeS
     let s := { s with whistle := { s.whistle with box := s.whistle.box.map fun x => (x.1, x.2.take 1) } }
     (s.nextServed 5).any (fun m => m.typ = 4) && nextIs (exec (.tktsetServe 5) s) fun t => t.ctr 5 = { next := 7, limit := 9, hwm := 0 }) = true := by
  decide

/-! ## Handing work over -/

/-- Adds an open group at base 2 with depth 2 of core 0. -/
def grp0 : Group :=
  { base := 2, depth := 2, integer := false, recv := false, faulted := false, aclrPc := 0, nextNo := 0, gen := 0, stack := [],
    freed := [], landing := [], work := [], inflight := [], nodes := [], quietAt := 0, emptyAt := 0, lastIn := 0, beatIn := [] }

def withGroup (s : State) (g : Group) : State := s.setAcc 0 { (s.acc 0) with groups := [g] }

theorem test_stationary_load :
    (issues (.wld 0 false 0x20000) q0 fun _ t => (t.arr 0).lastTid = 1 && (t.arr 0).tiles.length = 1 && (t.seq 0).pc = 1) = true ∧
    (let s := coreS (.wld 0 false 0x20000) q0
     issuesIn (.wld 0 false 0x20000) (s.setArr 0 { (s.arr 0) with load := some { tid := 1, nextRow := 5, step := 0, used := 0 } }) fun t =>
      (t.seq 0).st = 2 && (t.arr 0).lastTid = 0) = true := by decide

def fP : PassF := { ia := false, ib := false, shape := 0, tcode := 0, piece := 0, part := false, grp := 2, cplx := false, astride := 0, block := 0x20000 }

def tile1 : Tile :=
  { tid := 1, addr := 0x21000, form := 0, etype := 0, wexp := 0, whalf := false, scales := [], scalePoison := [], empty := false,
    bad := false, slotFault := false, used := false }

def pass0 : Pass :=
  { id := 1, pc := 0, shape := 0, toks := 16, piece := 0, part := false, cplx := false, astride := 0, block := 0x20000, grp := 2,
    gen := 0, no := 0, tid := 1, etype := 0, integer := false, next := 0, outs := 0 }

def passS (n : Nat) : State :=
  let s := withGroup (coreS (.pass 0 fP) q0) grp0
  s.setArr 0 { (s.arr 0) with nextTid := 2, lastTid := 1, tiles := [tile1], passes := List.replicate n pass0 }

theorem test_pass :
    (issuesIn (.pass 0 fP) (passS 3) fun t => !(passS 3).vecEntering 0 2 && (t.arr 0).passes.length = 4 &&
      (t.group 0 2).map (fun g => (g.nextNo, g.inflight)) = some (1, [0]) && (t.seq 0).pc = 1) = true ∧
    (issuesIn (.pass 0 fP) (passS 4) fun t => (t.arr 0).passes.length = 4 && (t.seq 0).st = 2) = true := by decide +kernel

/-- What a PASS over an EMPTY tile needs to enter its leaf of zeros. -/
theorem test_empty_pass :
    (let s := passS 3
     let s := s.setArr 0 { (s.arr 0) with tiles := [{ tile1 with empty := true }] }
     let s := s.setAcc 0 { (s.acc 0) with groups := [grp0] }
     s.canIssue 0 (.pass 0 fP) && !s.vecEntering 0 2 && !s.drainReads 0 2 0 && ((s.arr 0).tile 1).any (·.empty) && (s.group 0 2).any fun g =>
       g.inflight = [] && decide (g.emptyAt ≤ s.now) && !g.integer && decide (2 < (s.acc 0).slots)) = true := by decide +kernel

theorem test_aclr :
    (issues (.aclr 0 false 6 1 true) q0 fun _ t => (t.group 0 6).map (fun g => (g.depth, g.integer)) = some (2, true)) = true ∧
    (issues (.aclr 0 false 6 2 true) q0 fun _ t => (t.group 0 6).isNone && (t.seq 0).aCode = 1 && (t.seq 0).fCode = 1 && (t.seq 0).pc = 1) = true ∧
    (let s := withGroup (coreS (.aclr 0 false 1 1 false) q0) { grp0 with inflight := [0] }
     issuesIn (.aclr 0 false 1 1 false) s fun t => (t.seq 0).wait = .aclr 1 1 false && (t.seq 0).st = 2 && (t.group 0 1).isNone) = true ∧
    (let s := withGroup (coreS (.aclr 0 false 1 1 false) { q0 with wait := .aclr 1 1 false }) grp0
     nextIs (exec (.aclrTakeEffect 0) s) fun t => (t.group 0 1).isSome && (t.group 0 2).isNone && (t.seq 0).pc = 1) = true := by decide

/-- A non-zero element of slot 2 reads zero once its group is opened; slot 4's stays. -/
theorem test_opened_group :
    (let s := withGroup State.reset grp0
     let s := s.setMem ((s.mem.setBytes (accAddr 0 (2 * 32768)) [1]).setBytes (accAddr 0 (4 * 32768)) [1])
     let t := s.openGroup 0 2 2 false
     s.elem 0 2 0 ≠ VRes.zero ∧ t.elem 0 2 0 = VRes.zero ∧ s.elem 0 4 0 ≠ VRes.zero ∧ t.elem 0 4 0 = s.elem 0 4 0) := by decide +kernel

theorem test_drains :
    (let s := withGroup (coreS (.drain 0 { fDr with bm := false, grp := 2 }) q0) grp0
     issuesIn (.drain 0 { fDr with bm := false, grp := 2 }) s fun t => (t.drn 0).q.map (fun d => (d.rows, d.dest, d.split)) = [(8, 0x21000, false)] &&
       (t.group 0 2).map (fun g => g.gen) = some 1 && (t.seq 0).pc = 1) = true ∧
    (let s := withGroup (bundleS (.drain 0 { fDr with grp := 2 })) grp0
     issuesIn (.drain 0 { fDr with grp := 2 }) s fun t => (t.drn 0).q.map (fun d => d.bundled) = [true] && (t.bnd 0).acts.length = 1) = true ∧
    (let f := { fDr with bm := false, grp := 2 }
     let s := withGroup (coreS (.drainSplitNode 0 f) q0) grp0
     issuesIn (.drainSplitNode 0 f) s fun t => (t.drn 0).q.map (fun d => (d.split, d.cfgNo)) = [(true, 16)]) = true := by decide

theorem test_drain_of_no_group :
    (issues (.drain 0 { fDr with bm := false }) q0 fun _ t => (t.seq 0).aCode = 2 && (t.drn 0).q = [] && (t.seq 0).pc = 1) = true ∧
    (let s := coreS (.drain 0 { fDr with bm := false, grp := 7 }) q0
     issuesIn (.drain 0 { fDr with bm := false, grp := 7 }) (s.setAcc 0 { (s.acc 0) with slots := 7 }) fun t => (t.seq 0).aCode = 1 && (t.drn 0).q = []) = true := by
  decide

theorem test_accumulator_fault :
    (let s := withGroup State.reset { grp0 with inflight := [0], nextNo := 1 }
     let t := s.accFault 0 3 2 5 77
     (t.group 0 2).map (fun g => (g.faulted, g.inflight)) = some (true, [0]) ∧ (t.seq 0).aPass = 5 ∧ (t.seq 0).aSlot = 2 ∧ (t.seq 0).fPc = 77 ∧
     ((t.accFault 0 1 6 1 9).seq 0).aCode = 3 ∧ ((t.accFault 0 1 6 1 9).seq 0).aCount = 2) := by decide

def fV : VecF := { ia := false, ib := false, grp := 2, vpr := 0x20000 }

theorem test_vector_instructions :
    ([VKind.mvd, .mvsRow, .mvsGather, .isxDot, .isxSampled, .mrg, .sct].all fun k =>
      let f := if k = .mrg ∨ k = .sct then { fV with grp := 0 } else fV
      let s := withGroup (coreS (k.row 0 f) q0) grp0
      s.vectorReady 0 k f && issuesIn (k.row 0 f) s fun t => (t.vec 0).q.map (fun x => x.kind) = [k] && (t.seq 0).pc = 1) = true ∧
    (let s := withGroup (coreS (.mvd 0 fV) q0) grp0
     let x := (nextIs (exec (.mvd 0 fV) s) fun _ => true)
     x && (match exec (.mvd 0 fV) s with
       | .next t =>
         let u := t.setVec 0 { (t.vec 0) with q := (t.vec 0).q ++ (t.vec 0).q }
         let u := u.setSeq 0 ((s.seq 0))
         !u.vectorReady 0 .mvd fV && issuesIn (.mvd 0 fV) u fun t => (t.seq 0).st = 2
       | _ => false)) = true := by decide +kernel

theorem test_chain :
    (let i : Instr := .chain 0 false 3 0x20000
     let s := coreS i q0
     let s := s.setMem (s.mem.setBytes (coreAddr 0 0x20000) [1])
     issuesIn i s fun t => Sparse.get Cfg.empty (t.drn 0).cfgs 3 ≠ Cfg.empty && (t.seq 0).pc = 1) = true ∧
    (let i : Instr := .chain 0 false 3 0x20000
     match exec (.drain 0 { fDr with bm := false, grp := 2 }) (withGroup (coreS (.drain 0 { fDr with bm := false, grp := 2 }) q0) grp0) with
     | .next t => issuesIn i (t.setSeq 0 ((coreS i q0).seq 0)) fun u => (u.seq 0).st = 2
     | _ => false) = true := by decide +kernel

theorem test_arm :
    (let i : Instr := .arm 0 false false 3 0x200
     let a := coreAddr 0 0x20000
     let i2 : Instr := .arm 0 false true 3 7
     let s := coreS i2 { q0 with sreg := q0.sreg.set 7 (BitVec.ofNat 64 a) }
     let s := { s with pack := { s.pack with ranges := [(a, 64)] } }
     let e := (s.eng 0 3)
     let s2 := s.setEng 0 3 { e with active := some arm0 }
     (issues i q0 fun _ t => (t.eng 0 3).rejects = 1 && (t.eng 0 3).last = 2 && (t.seq 0).pc = 1) &&
     (issuesIn i2 s fun t => (t.eng 0 3).active.map (fun x => x.list) = some a) &&
     (issuesIn i2 s2 fun t => (t.eng 0 3).queued.map (fun x => x.list) = some a) &&
     (issuesIn i2 (s.setEng 0 3 { e with active := some arm0, queued := some arm0 }) fun t => (t.eng 0 3).last = 1 && (t.eng 0 3).rejects = 1)) = true := by
  decide

/-- An ARM of engine 3 for the list at core-store offset 0x2_0000, whose list lies in a list range. -/
def armS (bm : Bool) (f : Eng → Eng) : State :=
  let a := coreAddr 0 0x20000
  let s := coreS (.arm 0 bm true 3 7) { q0 with sreg := q0.sreg.set 7 (BitVec.ofNat 64 a) }
  let s := { s with pack := { s.pack with ranges := [(a, 64)] } }
  let s := s.setEng 0 3 (f (s.eng 0 3))
  if bm then s.setBnd 0 { (s.bnd 0) with isOpen := true, ch := 2 } else s

theorem test_arm_waits_and_bundles :
    (issuesIn (.arm 0 false true 3 7) (armS false fun e => { e with active := some arm0, reserved := some arm0 }) fun t => (t.eng 0 3).last = 1) = true ∧
    (issuesIn (.arm 0 true true 3 7) (armS true id) fun t => (t.eng 0 3).reserved.isSome && (t.bnd 0).acts = [.arm 3 true] && (t.eng 0 3).active.isNone) = true ∧
    (issuesIn (.arm 0 true true 3 7) (armS true fun e => { e with queued := some arm0 }) fun t => (t.eng 0 3).last = 1 && (t.bnd 0).acts = [.arm 3 false] &&
      (t.bnd 0).cause = 0x10) = true := by decide +kernel

def dpk0 : Dpk := { out := false, loc := 0, gaddr := 0, len := 1, issued := 0, id := 0, got := [], landed := 0, back := [] }

theorem test_daypack_issues :
    (issues (.dpkOut 0 false false 1 7 0x20000) q0 fun _ t => (t.dpkq 0).map (fun d => (d.out, d.len, d.gaddr)) = [(true, 2, 0x20000)] && (t.seq 0).pc = 1) = true ∧
    (issues (.dpkIn 0 false 1 7 0x20000) q0 fun _ t => (t.dpkq 0).map (fun d => (d.out, d.len, d.loc)) = [(false, 2, 0x20000)]) = true ∧
    (let s := coreS (.dpkOut 0 false false 1 7 0x20000) q0
     issuesIn (.dpkOut 0 false false 1 7 0x20000) (s.setDpkq 0 (List.replicate 32 dpk0)) fun t => (t.dpkq 0).length = 32 && (t.cnt 0).poison = 1) = true := by
  decide +kernel

/-- Its bundle takes a Daypack transfer, of poisoned data too; with the queue full a transfer in writes LOCAL poisoned. -/
theorem test_more_daypack_issues :
    (let i : Instr := .dpkOut 0 true false 0 7 0x20000
     let bad := fun (s : State) => s.setMem (s.mem.setSide (coreAddr 0 0x20000) { (s.mem.sideAt (coreAddr 0 0x20000)) with poison := true })
     (issuesIn i (bundleS i) fun t => (t.bnd 0).parcels = 1 && (t.bnd 0).cause = 0 && (t.bnd 0).acts.length = 1 && t.dpkq 0 = []) &&
       (issuesIn i (bad (bundleS i)) fun t => (t.bnd 0).cause = 2) &&
       (let i : Instr := .dpkIn 0 false 0 7 0x20000
        issuesIn i ((coreS i q0).setDpkq 0 (List.replicate 32 dpk0)) fun t => (t.dpkq 0).length = 32 && (t.mem.sideAt (coreAddr 0 0x20000)).poison)) = true := by
  decide +kernel

/-! ## Barriers and bundles -/

def chanS (s : State) (k : CairnCh) : State := s.setCairn 2 k

theorem test_barrier_arrivals :
    (let s := chanS (coreS (.cbar 0 2) q0) { CairnCh.reset with parts := [0] }
     issuesIn (.cbar 0 2) s fun t => s.opensTo 2 0 && s.fenced 0 && (t.cairnCh 2).due = some (s.now + 48) && (t.seq 0).wait = .barrier 2) = true ∧
    (let s := chanS (coreS (.csig 0 2) q0) { CairnCh.reset with parts := [0, 1] }
     issuesIn (.csig 0 2) s fun t => (t.cairnCh 2).due = none && (t.cairnCh 2).arrived.length = 1 && (t.seq 0).pc = 1) = true ∧
    ([(.cbar 0 2 : Instr), .csig 0 2].all fun i =>
      let s := chanS (coreS i q0) { CairnCh.reset with parts := [0, 1] }
      let s := s.setDpkq 0 [dpk0]
      !s.fenced 0 && issuesIn i s fun t => (t.seq 0).st = 2 && (t.cairnCh 2).arrived = []) = true := by decide

/-- On the channel of its own bundle; with a fault of its own; a CBAR after its own CSIG, and a second CSIG. -/
theorem test_barriers_again :
    (let i : Instr := .cbar 0 2
     let s := chanS (bundleS i) { CairnCh.reset with parts := [0, 1] }
     issuesIn i s fun t => (t.bnd 0).cause = 0x0080 && (t.cairnCh 2).arrived.length = 1) = true ∧
    (let i : Instr := .csig 0 2
     let s := chanS (coreS i { q0 with fValid := true }) { CairnCh.reset with parts := [0, 1] }
     issuesIn i s fun t => (t.seq 0).wait = .barrier 2 && (t.cairnCh 2).due = some (s.now + 48)) = true ∧
    (let sig : Arrival := { core := 0, at_ := 0, pc := 4, csig := true, cbar := false, fault := false, stop := false, abort := false }
     let k := { CairnCh.reset with parts := [0, 1], arrived := [sig], first := some 0 }
     (issuesIn (.cbar 0 2) (chanS (coreS (.cbar 0 2) q0) k) fun t => (t.seq 0).wait = .barrier 2 && t.cairnCh 2 = k) &&
       issuesIn (.csig 0 2) (chanS (coreS (.csig 0 2) q0) k) fun t => (t.seq 0).pc = 1 && (t.cairnCh 2).early.length = 1 && (t.cairnCh 2).arrived = [sig]) = true := by
  decide +kernel

/-- Module-wide: at the root the release, below it an arrival at the parent, and neither before the last participant. -/
theorem test_module_wide_goes_on :
    (let arr : Arrival := { core := 0, at_ := 0, pc := 4, csig := false, cbar := true, fault := false, stop := false, abort := false }
     let s := fun (mw : W64) => chanS State.reset { CairnCh.reset with parts := [0], arrived := [arr], first := some 0, mw }
     let root := (s 0x90000F001).mwProgress 2
     let leaf := (s 0x3001).mwProgress 2
     (root.cairnCh 2).release = some 9 && (leaf.cairnCh 2).release = none && (leaf.cairnCh 2).sentUp &&
       decide (((s 0).mwProgress 2).cairn = (s 0).cairn) && decide (((s 0x10001).mwProgress 2).cairn = (s 0x10001).cairn)) = true := by decide +kernel

theorem test_bundle_opens :
    (issues (.bopen 0 true 2) q0 fun _ t => (t.bnd 0).isOpen && (t.bnd 0).pwp && (t.bnd 0).ch = 2) = true ∧
    (issuesIn (.bopen 0 false 3) (bundleS (.bopen 0 false 3)) fun t => (t.bnd 0).ch = 2 && (t.bnd 0).cause = 0x0080) = true := by decide

def voteS (i : Instr) (cause : W16) (pwp : Bool) : State :=
  let s := bundleS i
  chanS (s.setBnd 0 { (s.bnd 0) with cause, pwp }) { CairnCh.reset with parts := [0] }

def arrivedWith (t : State) (own : Bool) : Bool :=
  (t.seq 0).wait = .vote 2 5 && (t.cairnCh 2).arrived.map (fun a => a.abort) = [own] && (t.cairnCh 2).due.isSome

theorem test_bundle_votes :
    (let s := voteS (.bcommit 0 5) 0 false
     (s.bnd 0).drained && s.opensTo (s.bnd 0).ch 0 && issuesIn (.bcommit 0 5) s fun t => arrivedWith t false) = true ∧
    (issuesIn (.bcommit 0 5) (voteS (.bcommit 0 5) causePoison false) fun t => arrivedWith t true) = true ∧
    (issuesIn (.babort 0 5) (voteS (.babort 0 5) 0 false) fun t => arrivedWith t true && (t.bnd 0).cause = 0x0020) = true ∧
    (let s := voteS (.bcommit 0 5) causePoison true
     !s.poisonCommit && issuesIn (.bcommit 0 5) s fun t => arrivedWith t true) = true := by decide

/-- Where dictionary entry 0x6030 allows a poisoned commit, PWP takes it. -/
theorem test_poisoned_vote :
    (let s := voteS (.bcommit 0 5) causePoison true
     let s := { s with dict := { s.dict with val := [(0x603000, [1])] } }
     s.poisonCommit && issuesIn (.bcommit 0 5) s fun t => arrivedWith t false) = true := by decide

theorem test_no_bundle_to_close :
    ([(.bcommit 0 5 : Instr), .babort 0 5].all fun i =>
      issues i q0 fun _ t => (t.seq 0).reg 5 = 0x0608 && (t.bnd 0).lastCause = 8 && (t.seq 0).pc = 1) = true := by decide

def arr0 : Arrival := { core := 0, at_ := 0, pc := 4, csig := false, cbar := true, fault := false, stop := false, abort := false }

/-- The core waits on channel 2, whose barrier is due at once. -/
def dueS (w : Wait) (a : Arrival) : State :=
  chanS (State.reset.setSeq 0 { q0 with st := 2, wait := w }) { CairnCh.reset with parts := [0], arrived := [a], due := some 0 }

theorem test_barrier_completes :
    (nextIs (exec (.cairnBarrierComplete 2) (dueS (.barrier 2) arr0)) fun t => (t.seq 0).pc = 1 && (t.seq 0).wait = .none &&
      (t.seq 0).nextIssue = 0 && (t.cairnCh 2).gen = 1 && (t.cairnCh 2).arrived = []) = true ∧
    (nextIs (exec (.cairnBarrierComplete 2) (dueS .none { arr0 with csig := true, cbar := false })) fun t => (t.seq 0).pc = 0 && (t.cairnCh 2).gen = 1) = true := by
  decide

theorem test_bundle_commits :
    (let s := dueS (.vote 2 5) { arr0 with cbar := false }
     let s := s.setBnd 0 { (s.bnd 0) with isOpen := true, ch := 2, acts := [.sts 0x20008 7] }
     nextIs (exec (.bundleVoteComplete 2) s) fun t => t.mem.byte (coreAddr 0 0x20008) = 7 && (t.seq 0).wait = .landed 2 5 &&
       (t.bnd 0).commits = 1 && (t.cairnCh 2).due = some 48 && (t.bnd 0).acts = []) = true ∧
    (let s := dueS (.landed 2 5) { arr0 with cbar := false }
     nextIs (exec (.bundleWritesLanded 2) (s.setBnd 0 { (s.bnd 0) with isOpen := true, ch := 2 })) fun t =>
       (t.seq 0).reg 5 = 0 && !(t.bnd 0).isOpen && (t.seq 0).pc = 1 && (t.seq 0).wait = .none) = true := by decide

theorem test_bundle_aborts :
    (let s := State.reset.setBnd 0 { (State.reset.bnd 0) with isOpen := true, acts := [.sts 0x20008 7], cause := 0x0050 }
     let t := s.decideBundle 0 false false false
     (t.bnd 0).status = 0x0604 ∧ (t.bnd 0).aborts = 1 ∧ t.mem = s.mem ∧ ((State.reset.decideBundle 0 false false true).bnd 0).status = 0x0606 ∧
       ((State.reset.decideBundle 0 false false false).bnd 0).status = 0x0609) := by decide

theorem test_barrier_times_out :
    (let s := chanS (State.reset.setSeq 0 { q0 with st := 2, wait := .barrier 2 })
       { CairnCh.reset with parts := [0, 1], arrived := [arr0], first := some 0, timeout := 100 }
     let s := { s with pace := { s.pace with step := 100 * 65536 } }
     s.timeoutDue 2 && nextIs (exec (.cairnTimeout 2) s) fun t => (t.seq 0).st = 4 && (t.seq 0).fCode = 6 && (t.seq 0).fPc = 4) = true ∧
    (let s := chanS (State.reset.setSeq 0 { q0 with st := 2, wait := .barrier 2 })
       { CairnCh.reset with parts := [0, 1], arrived := [arr0], first := some 0, timeout := 100, mw := 1 }
     let s := { s with pace := { s.pace with step := 100 * 65536 } }
     State.mwOn (s.cairnCh 2) && s.timeoutDue 2 && nextIs (exec (.moduleWideTimeout 2) s) fun t => (t.seq 0).st = 4 && (t.seq 0).fCode = 6) = true := by decide

theorem test_module_wide_barrier :
    (let s := chanS (State.reset.setSeq 0 { q0 with st := 2, wait := .barrier 2 })
       { CairnCh.reset with parts := [0], arrived := [arr0], release := some 0, mw := 1 }
     State.mwOn (s.cairnCh 2) && nextIs (exec (.moduleWideComplete 2) s) fun t => (t.seq 0).pc = 1 && (t.cairnCh 2).gen = 1) = true := by decide

/-- Cores 0 and 1 vote, core 1 with a cause of its own, and both abort; cores 0 and 1 are halted by a fault mark. -/
def twoS (w : Wait) (fault abort : Bool) : State :=
  let s := (State.reset.setSeq 0 { q0 with st := 2, wait := w }).setSeq 1 { q0 with st := 2, wait := w }
  let s := s.setBnd 0 { (s.bnd 0) with isOpen := true, ch := 2, acts := [.sts 0x20008 7] }
  chanS s { CairnCh.reset with parts := [0, 1], arrived := [{ arr0 with cbar := false }, { arr0 with core := 1, cbar := false, abort }], due := some 0, fault, abort }

theorem test_two_votes :
    (nextIs (exec (.bundleVoteComplete 2) (twoS (.vote 2 5) false true)) fun t => (t.bnd 0).aborts = 1 && (t.bnd 1).aborts = 1 && t.mem.bytes = [] &&
      (t.seq 0).wait = .landed 2 5 && (t.seq 1).wait = .landed 2 5) = true ∧
    (nextIs (exec (.cairnBarrierComplete 2) (twoS (.barrier 2) true false)) fun t => (t.seq 0).st = 4 && (t.seq 1).st = 4 && (t.seq 0).pc = 0 &&
      (t.cairnCh 2).arrived = []) = true := by decide +kernel

theorem test_module_wide_mark :
    (let s := chanS (State.reset.setSeq 0 { q0 with st := 2, wait := .barrier 2 })
       { CairnCh.reset with parts := [0], arrived := [arr0], due := some 0, mw := 1, fault := true }
     !s.timeoutDue 2 && nextIs (exec (.moduleWideTimeout 2) s) fun t => (t.seq 0).st = 4 && (t.cairnCh 2).arrived = []) = true := by decide

/-! ## The matrix array -/

def blk0 : Block :=
  { addr := 0x20000, astride := 0, shape := 0, toks := 16, cplx := false, due := 0, filled := false, etype := 0, pass := 1, elems := [] }

def arrS (f : Arr → Arr) : State := State.reset.setArr 0 (f (State.reset.arr 0))

/-- Eight tiles of one parcel: 2 + 4 steps. -/
theorem test_feeder_fills :
    (nextIs (exec (.feederFillStart 0) (arrS fun a => { a with passes := [pass0] })) fun t =>
      (t.arr 0).bufA.any fun b => b.addr = 0x20000 && 6 ≤ b.due && b.pass = 1 && !b.filled) = true ∧
    (nextIs (exec (.feederFillStart 0) (arrS fun a => { a with passes := [pass0], bufA := some { blk0 with addr := 0x22000, pass := 0 } })) fun t =>
      (t.arr 0).bufB.any fun b => b.addr = 0x20000) = true ∧
    (nextIs (exec (.feederFillDone 0 false) (arrS fun a => { a with bufA := some blk0 })) fun t => (t.arr 0).bufA.any (·.filled)) = true ∧
    (nextIs (exec (.feederFillDone 0 true) (arrS fun a => { a with bufB := some blk0 })) fun t => (t.arr 0).bufB.any (·.filled)) = true := by
  decide +kernel

/-- A buffer that is free only from a later step on is passed over. -/
theorem test_feeder_waits_for_a_buffer :
    (nextIs (exec (.feederFillStart 0) (arrS fun a => { a with passes := [pass0], freeA := 1 })) fun t => (t.arr 0).bufA.isNone && (t.arr 0).bufB.isSome) = true ∧
    (let s := arrS fun a => { a with passes := [pass0], freeA := 1, freeB := 1 }
     answers (exec (.feederFillStart 0) s) s) = true := by decide +kernel

def feedS (p : Pass) : State :=
  withGroup (arrS fun a =>
    { a with passes := [p], live := [p], bufA := some { blk0 with filled := true, shape := p.shape }, runShape := some p.shape, tiles := [{ tile1 with form := 1 }],
             lastTid := 1, markTid := 1 }) grp0

theorem test_feeder_releases :
    (nextIs (exec (.feederRelease 0) (feedS { pass0 with next := 14 })) fun t => (t.arr 0).lane = 1 &&
      ((t.arr 0).cell 63 0).inRow.map (fun w => w.tok.map (·.t)) = [some 14] && ((t.arr 0).cell 0 1).inRow = [] &&
      (t.arr 0).passes.map (·.next) = [15]) = true ∧
    (let s := feedS { pass0 with next := 1 }
     laneBubble 3 14 && nextIs (exec (.feederRelease 0) (s.setArr 0 { (s.arr 0) with bufA := none })) fun t => ((t.arr 0).cell 2 0).inRow.map (·.tok) = [none] &&
       (t.arr 0).passes.map (·.next) = [1]) = true := by decide +kernel

def reg0 : RowLoad := { tid := 1, sets := List.replicate 64 { tid := 1, form := 0, etype := 1, slots := [] }, copied := [] }

theorem test_tile_rows :
    (nextIs (exec (.rowLoadRead 0) (arrS fun a => { a with load := some { tid := 1, nextRow := 62, step := 0, used := 0 }, tiles := [tile1] })) fun t =>
      (Sparse.get none (t.arr 0).rows 62).isSome && (t.arr 0).load = some { tid := 1, nextRow := 63, step := 0, used := 0 }) = true ∧
    (nextIs (exec (.rowLoadRead 0) (arrS fun a => { a with load := some { tid := 1, nextRow := 63, step := 0, used := 0 }, tiles := [tile1] })) fun t =>
      (t.arr 0).load = none) = true ∧
    (nextIs (exec (.shadowCopy 0 5 63) (arrS fun a => { a with rows := [(5, some reg0)] })) fun t =>
      ((t.arr 0).cell 5 63).shadow.tid = 1 && ((t.arr 0).cell 5 63).shReady = 1 && ((t.arr 0).cell 5 62).shadow.tid = 0 &&
        (Sparse.get none (t.arr 0).rows 5).any fun r => r.copied = [63]) = true ∧
    (nextIs (exec (.shadowCopy 0 5 63) (arrS fun a => { a with rows := [(5, some { reg0 with copied := List.range 63 })] })) fun t =>
      (Sparse.get none (t.arr 0).rows 5) = none) = true := by decide +kernel

/-- Ports that grant four parcels a step have not granted row 62 yet. -/
theorem test_tile_rows_wait :
    (let s := arrS fun a => { a with load := some { tid := 1, nextRow := 62, step := 3, used := 0 }, tiles := [tile1] }
     answers (exec (.rowLoadRead 0) s) s) = true ∧
    (({ tid := 1, nextRow := 5, step := 2, used := 3 } : Load).read 0 6) = { tid := 1, nextRow := 5, step := 4, used := 1 } ∧
    (({ tid := 1, nextRow := 5, step := 2, used := 3 } : Load).read 9 6) = { tid := 1, nextRow := 5, step := 10, used := 2 } := by decide +kernel

def win0 : RowReg :=
  { entries := [{ v := .fin false 3 0, poison := false }, { v := .fin true 5 0, poison := true }], e := 0, tok := some { pass := 1, t := 4, last := false },
    lead := false, trail := false, n := 1, shape := 0, integer := true, tid := 1, stamp := 0 }

def ps0 : PSum :=
  { sum := 10, res := 3, e := 0, tok := some { pass := 1, t := 4, last := false }, poison := false, nonfin := false, n := 1, shape := 0,
    integer := true, tid := 1, stamp := 0 }

def set0 : CellSet := { tid := 1, form := 1, etype := 2, slots := [{ val := 0xFE, code := 8, poison := false }] }

def cellS (x : Cell) : State := arrS fun a => a.setCell 7 62 x

theorem test_cells :
    (nextIs (exec (.cellTokenStart 0 7 62) (cellS { Cell.reset with active := set0, inRow := [win0], inPs := [ps0] })) fun t =>
      ((t.arr 0).cell 7 62).busy = some 0 && ((t.arr 0).cell 7 62).inRow = []) = true ∧
    (nextIs (exec (.cellTokenStart 0 7 62) (cellS { Cell.reset with inRow := [win0], inPs := [ps0] })) fun t =>
      ((t.arr 0).cell 7 62).marker && ((t.arr 0).cell 7 62).busy = none) = true ∧
    (nextIs (exec (.cellStep 0 7 62) (cellS { Cell.reset with active := set0, row := some win0, ps := some ps0, busy := some 0 })) fun t =>
      ((t.arr 0).cell 7 62).busy = some 1 && ((t.arr 0).cell 7 62).ps.any fun p => p.sum = 4) = true ∧
    (nextIs (exec (.tokenSlotEnd 0 7 62) (cellS { Cell.reset with row := some win0, ps := some ps0, busy := some 1 })) fun t =>
      ((t.arr 0).cell 7 62).busy = none && ((t.arr 0).cell 7 63).inRow.map (·.stamp) = [1] && ((t.arr 0).cell 8 62).inPs.map (·.stamp) = [1]) = true := by
  decide

/-- 3 × −2 joins the sum; a poisoned entry marks it; an invalid slot does nothing; a non-finite weight marks the sum. -/
theorem test_cell_product :
    (cellProduct set0 win0 ps0 0).sum = 4 ∧ (cellProduct set0 win0 ps0 0).res = 4 ∧
    (cellProduct { set0 with slots := [{ val := 0xFE, code := 9, poison := false }] } win0 ps0 0).poison = true ∧
    (cellProduct { set0 with slots := [{ val := 0xFE, code := 1, poison := true }] } win0 ps0 0) = { ps0 with poison := true } ∧
    (cellProduct set0 { win0 with entries := [{ v := .fin false 0 0, poison := false }] } ps0 0) = ps0 ∧
    (cellProduct { set0 with etype := 6, slots := [{ val := 0x7F, code := 8, poison := false }] } { win0 with integer := false } ps0 0).nonfin = true := by
  decide

theorem test_integer_sums :
    (convertSum true 5 0 (-1)).1.hi = 2 ∧ (convertSum true (-5) 0 (-1)).1.hi = 0xFFFFFFFD ∧
    (convertSum true 1073741824 0 1) = ({ hi := 0x7FFFFFFF, lo := 0 }, true) ∧ (convertSum true (-1073741824) 0 1) = ({ hi := 0x80000000, lo := 0 }, false) ∧
    (combineElem true { hi := 0x80000000, lo := 0 } { hi := 0xFFFFFFFF, lo := 0 }) = ({ hi := 0x80000000, lo := 0 }, true) ∧
    (combineElem true { hi := 0x7FFFFFFE, lo := 0 } { hi := 1, lo := 0 }) = ({ hi := 0x7FFFFFFF, lo := 0 }, false) := by decide

def land0 : Landing := { no := 3, gen := 0, vec := false, slot := 3, chain := [], left := 2 }

/-- The saturation flag of slot 3 is set by an entry that saturates, and stays with one that does not. -/
theorem test_sticky_flags :
    (let s := withGroup State.reset { grp0 with integer := true, landing := [land0] }
     let t := s.enterElem 0 2 3 0 5 VRes.zero true 9
     !s.slotSat 0 3 && t.slotSat 0 3 && (t.enterElem 0 2 3 0 6 VRes.zero false 9).slotSat 0 3 && (t.combineAt 0 true 2 3 5).slotSat 0 2) = true := by decide +kernel

def bottomS (ps : PSum) : State :=
  let p := { pass0 with integer := true }
  withGroup (arrS fun a => { a with live := [p], tiles := [tile1], bottoms := [(64 * 63 + 9, [ps])] }) { grp0 with integer := true, nextNo := 1, inflight := [0] }

theorem test_bottom_stage :
    (nextIs (exec (.bottomStage 0 63 9) (bottomS ps0)) fun t => (t.elem 0 3 (4 * 64 + 9)).v.hi = 10 ||
      (t.elem 0 2 (4 * 64 + 9)).v.hi = 10) = true ∧
    (nextIs (exec (.bottomStage 0 63 9) (bottomS { ps0 with tok := none })) fun t => Sparse.get [] (t.arr 0).bottoms (64 * 63 + 9) = [] && t.mem.bytes = []) = true ∧
    (nextIs (exec (.bottomStage 0 63 9) (bottomS { ps0 with res := 4 })) fun t => (t.arr 0).errCount = 1 && (t.arr 0).errCol = 9 && t.sums.reserr = 1 &&
      t.mem.bytes = []) = true ∧
    columnResult (some tile1) 9 { ps0 with res := 4 } = ({ v := {}, poison := true }, false, true, false) := by decide +kernel

theorem test_combine :
    (let s := withGroup State.reset { grp0 with stack := [{ slot := 3, first := 1, last := 1 }, { slot := 2, first := 0, last := 0 }],
                                                work := [{ no := 1, gen := 0, e := 7, chain := [(2, 3)], due := 0 }], integer := true }
     let s := (s.setElem 0 2 7 { v := { hi := 5, lo := 0 }, poison := false }).setElem 0 3 7 { v := { hi := 6, lo := 0 }, poison := true }
     nextIs (exec (.accCombine 0 2 7) s) fun t => t.elem 0 2 7 = { v := { hi := 11, lo := 0 }, poison := true } && t.elem 0 3 7 = s.elem 0 3 7) = true := by
  decide +kernel

def dr0 : DrainRec :=
  { id := 0, pc := 0, split := false, tag := 0, cfg := .empty, cfgNo := 0, grp := 2, gen := 0, rows := 2, dest := 0x21000, next := 0, readDone := false,
    outRows := 0, integer := true, satur := false, await := false, short := false, issued := 0, bundled := false, emitted := [] }

def drainS (d : DrainRec) (rows : List CRow) : State :=
  let s := withGroup State.reset { grp0 with integer := true, gen := 1, stack := [{ slot := 2, first := 0, last := 0 }] }
  let s := s.setDrn 0 { (s.drn 0) with nextId := 1, q := [d], rows }
  { s with pace := { s.pace with step := 5 } }

theorem test_drain_reads_rows :
    (nextIs (exec (.drainRowRead 0) (drainS dr0 [])) fun t => (t.drn 0).rows.map (fun r => (r.t, r.stage, r.vals.length)) = [(0, 8, 64)] &&
      (t.drn 0).q.map (·.next) = [1] && (t.group 0 2).any fun g => g.stack.length = 1) = true ∧
    (nextIs (exec (.drainRowRead 0) (drainS { dr0 with next := 1 } [])) fun t => (t.drn 0).q.map (·.readDone) = [true] &&
      (t.group 0 2).any fun g => g.stack = [] && g.emptyAt = 6) = true := by decide +kernel

def row0 (stage : Nat) : CRow := { id := 0, t := 1, stage, due := 0, vals := List.replicate 64 { bits := 0x3F800000 } }

theorem test_chain_stages :
    (let d := { dr0 with cfg := { Cfg.empty with enable := 1 } }
     nextIs (exec (.chainStage 0 0) (drainS d [row0 0])) fun t => (t.drn 0).rows.map (fun r => r.stage) = [8]) = true ∧
    (nextIs (exec (.chainStage 0 0) (drainS { dr0 with rows := 3 } [row0 8])) fun t => (t.drn 0).rows = [] && (t.drn 0).q.map (·.outRows) = [1] &&
      t.mem.byte (coreAddr 0 0x21000 + 256 + 3) = 0x3F && t.mem.byte (coreAddr 0 0x21000 + 3) = 0) = true := by decide +kernel

def pk0 : PkTile := { id := 0, rows := [], full := true, due := 5, out := List.replicate 5 { data := 0x77 }, addr := 0x21000 }

theorem test_packer :
    (let s := drainS { dr0 with outRows := 2, readDone := true } []
     nextIs (exec (.packerEmit 0) (s.setDrn 0 { (s.drn 0) with pk := [pk0] })) fun t => (t.drn 0).pk.map (fun p => (p.out.length, p.addr, p.due)) = [(1, 0x21080, 6)] &&
       t.mem.byte (coreAddr 0 0x21060) = 0x77 && t.mem.byte (coreAddr 0 0x21080) = 0) = true := by decide +kernel

def beat0 : Beat := { kind := 2, vmask := 15, hdr := NodeTag.bits { logS := 1, level := 1, first := 0, base := 2, core := 0, module := 0, beat := 3 },
                      ps := List.replicate 4 {}, integer := true, sat := false, pkts := [], dst := 0 }

theorem test_split_nodes :
    (let s := withGroup State.reset { grp0 with integer := true, recv := true }
     let s := { s with trail := { s.trail with inbox := [(0, [beat0])] } }
     nextIs (exec (.splitNodeArrival 0) s) fun t => Sparse.get [] t.trail.inbox 0 = [] &&
       (t.group 0 2).map (fun g => g.nodes.map (fun n => (n.slot, n.level, n.beats))) = some [(2, 1, [3])]) = true ∧
    (let s := withGroup State.reset { grp0 with integer := true, recv := true, depth := 0 }
     let s := { s with trail := { s.trail with inbox := [(0, [beat0])] } }
     nextIs (exec (.splitNodeArrival 0) s) fun t => Sparse.get [] t.trail.inbox 0 = [] && (t.seq 0).aCode = 3) = true := by decide +kernel

/-- A beat within 16 steps of the one before it, and a beat that the group holds already, wait. -/
theorem test_split_nodes_wait :
    ([{ grp0 with integer := true, recv := true, beatIn := [(3, 1)] },
      { grp0 with integer := true, recv := true, nodes := [{ gen := 0, slot := 2, level := 1, first := 0, logS := 1, beats := [3], joined := 0 }] }].all fun g =>
      let s := withGroup State.reset g
      let s := { s with trail := { s.trail with inbox := [(0, [beat0])] } }
      answers (exec (.splitNodeArrival 0) s) s) = true := by decide +kernel

/-! ## The vector path -/

def vp0 : VParam := { block := 0x20000, astride := 1, t := 2, etype := 2, k := 64, n := 128, waddr := 0x21000, wstride := 1, outA := 0x22000, bmax := 3, g := 4, layer := 9 }

def vi0 : VInstr :=
  { id := 1, kind := .mvd, pc := 0, grp := 2, gen := 0, firstNo := 0, integer := true, vp := vp0, scalar := 0, thr := 0, dis := false, bank := 0, bankB := 0,
    begun := false, band := 0, sub := 0, poisonAll := false, sat := false, ia := [], ib := [], pairs := [], out := [], sweep := [], fold := [],
    hid := [], due := 0, sweepAt := 0, workDone := false }

def bank0 : Bank := { addr := 0x20000, t := 2, k := 64, etype := 2, sampled := false, astride := 1, due := 0, filled := true, elems := [] }

def vecS (f : Vec → Vec) : State :=
  let s := withGroup State.reset { grp0 with integer := true, nextNo := 1, inflight := [0] }
  s.setVec 0 (f (s.vec 0))

theorem test_banks_fill :
    (let s := vecS fun v => { v with q := [vi0] }
     (s.vec 0).bankFree 1 0 && nextIs (exec (.vecFillStart 0) s) fun t => (t.vec 0).bankA.any (fun b => b.due = 5 && !b.filled && b.k = 64) &&
       (t.vec 0).q.map (·.bank) = [1]) = true ∧
    (nextIs (exec (.vecFillDone 0 false) (vecS fun v => { v with q := [{ vi0 with bank := 1 }], bankA := some { bank0 with filled := false } })) fun t =>
      (t.vec 0).bankA.any (·.filled)) = true := by decide +kernel

/-- A bank that holds the block; bank B; no free bank; a fill that is not due; bank B's fill. -/
theorem test_more_banks :
    (let other := { bank0 with addr := 0x30000 }
     let busy := { vi0 with id := 2, bank := 1, workDone := true, due := 9 }
     let busyB := { vi0 with id := 3, bank := 2, workDone := true, due := 9 }
     (nextIs (exec (.vecFillStart 0) (vecS fun v => { v with q := [vi0], bankB := some bank0, bankA := some other })) fun t => (t.vec 0).q.map (·.bank) = [2] &&
       (t.vec 0).bankA = some other) &&
     (nextIs (exec (.vecFillStart 0) (vecS fun v => { v with q := [busy, vi0], bankA := some other })) fun t => (t.vec 0).q.map (·.bank) = [1, 2] &&
       (t.vec 0).bankB.any fun b => b.addr = 0x20000) &&
     (let s := vecS fun v => { v with q := [busy, busyB, vi0], bankA := some other, bankB := some other }
      answers (exec (.vecFillStart 0) s) s) &&
     (let s := vecS fun v => { v with bankA := some { bank0 with filled := false, due := 1 } }
      answers (exec (.vecFillDone 0 false) s) s) &&
     (nextIs (exec (.vecFillDone 0 true) (vecS fun v => { v with bankB := some { bank0 with filled := false } })) fun t => (t.vec 0).bankB.any (·.filled))) = true := by
  decide +kernel

theorem test_bands :
    (let s := vecS fun v => { v with q := [{ vi0 with bank := 1, begun := true }], bankA := some bank0 }
     let s := s.setMem (s.mem.setBytes (coreAddr 0 0x21000) (leBytes 8 (2 ^ 48 + 32)))
     (s.vecHead 0).isSome && (s.vec 0).blocksAt { vi0 with bank := 1, begun := true } = some 0 && (s.vec 0).bank 1 = some bank0 &&
     !(s.band 0 true 0x21000 0 0 128 2 2 4096 ((s.vec 0).portHeld vi0 0) (fun t => bank0.chunkA t 0) bank0.at_).allMark && nextIs (exec (.vecBand 0) s) fun t => (t.vec 0).q.map (·.band) = [1]) = true := by decide +kernel

/-- The last band ends the sweep and, with the last sweep, the instruction's work; a band waits for the one before it. -/
theorem test_last_band :
    (let x := { vi0 with bank := 1, begun := true, band := 1, sweepAt := 3 }
     let s := vecS fun v => { v with q := [x], bankA := some bank0 }
     let s := s.setMem (s.mem.setBytes (coreAddr 0 0x21000) (leBytes 8 (2 ^ 48 + 32)))
     (nextIs (exec (.vecBand 0) s) fun t => (t.vec 0).q.map (·.workDone) = [true] && (t.vec 0).leaves.map (fun l => (l.instr, l.no)) = [(1, 0)]) &&
       (let u := s.setVec 0 { (s.vec 0) with q := [{ x with due := 1 }] }
        answers (exec (.vecBand 0) u) u)) = true := by decide +kernel

def leaf0 : VLeaf := { instr := 1, no := 0, due := 0, sat := false, vals := [(0, { v := { hi := 9, lo := 0 }, poison := false })] }

theorem test_leaves :
    (let s := vecS fun v => { v with q := [{ vi0 with workDone := true }], leaves := [leaf0] }
     !s.drainReads 0 2 0 && nextIs (exec (.vecLeafEntry 0) s) fun _ => true) = true ∧
    (let s := vecS fun v => { v with q := [{ vi0 with workDone := true }], leaves := [{ leaf0 with due := 1 }] }
     nextIs (exec (.vecLeafEntry 0) s) fun t => decide (t = s)) = true := by decide +kernel

/-- A leaf waits for a DRAIN that still reads its group, for the step of its emptying, and for the leaf before it. -/
theorem test_leaves_wait :
    (let v := fun (s : State) => s.setVec 0 { (s.vec 0) with q := [{ vi0 with gen := 1, workDone := true }], leaves := [leaf0] }
     ([withGroup State.reset { grp0 with integer := true, emptyAt := 1 }, withGroup State.reset { grp0 with integer := true, lastIn := 1 }, drainS dr0 []].all fun s =>
       answers (exec (.vecLeafEntry 0) (v s)) (v s))) = true := by decide +kernel

def cs (i : Nat) : CSItem := { idx := i, val := 1, etype := 2 }

theorem test_intersection :
    (let x := { vi0 with kind := .isxDot, begun := true, ia := [cs 1, cs 4, cs 6], ib := [cs 2, cs 4, cs 6, cs 7] }
     nextIs (exec (.intersectStep 0) (vecS fun v => { v with q := [x] })) fun t =>
       (t.vec 0).q.map (fun y => (y.pairs, y.ia, y.due)) = [([(cs 4, cs 4), (cs 6, cs 6)], [], 1)]) = true ∧
    (walk false 7 [cs 1, cs 4, cs 6] [cs 2, cs 4, cs 6, cs 7]).1 = [(some (cs 4), some (cs 4)), (some (cs 6), some (cs 6))] ∧
    [cs 1, cs 4, cs 6].Pairwise (fun x y => x.idx < y.idx) ∧ [cs 2, cs 4, cs 6, cs 7].Pairwise (fun x y => x.idx < y.idx) := by decide

/-- An instruction of a kind at work, with what is left of its streams. -/
def workS (k : VKind) (f : VInstr → VInstr) : State :=
  vecS fun v => { v with q := [f { vi0 with kind := k, begun := true, bank := 1, bankB := 2 }], bankA := some bank0, bankB := some bank0 }

/-- The dot form with a stream at its end; the merge form at work, and at its end before and after its fixed time of 16 steps. -/
theorem test_dot_and_merge :
    (nextIs (exec (.intersectStep 0) (workS .isxDot fun x => { x with pairs := [(cs 4, cs 4)], ib := [cs 9] })) fun t =>
      (t.vec 0).q.map (·.workDone) = [true] && (t.vec 0).leaves.map (fun l => (l.instr, l.no, l.due)) = [(1, 0, 16)]) = true ∧
    (nextIs (exec (.intersectStep 0) (workS .mrg fun x => { x with scalar := 1, ia := [cs 1, cs 4], ib := [cs 4] })) fun t =>
      (t.vec 0).q.map (fun x => (x.ia, x.ib, x.out.map (·.1), x.due)) = [([], [], [1, 4], 1)]) = true ∧
    (nextIs (exec (.intersectStep 0) (workS .mrg fun x => { x with sweepAt := 2 })) fun t => (t.vec 0).q.map (fun x => (x.workDone, x.due)) = [(false, 18)]) = true ∧
    (nextIs (exec (.intersectStep 0) (atStep (workS .mrg fun x => { x with due := 16 }) 16)) fun t => (t.vec 0).q.all (·.workDone)) = true ∧
    (let s := workS .isxDot fun x => { x with due := 1 }
     answers (exec (.intersectStep 0) s) s) = true := by decide +kernel

/-- The sampled form with nine entries left and with one; the row form with more entries than a step takes, and at its end. -/
theorem test_sampled_and_rows :
    (nextIs (exec (.intersectStep 0) (workS .isxSampled fun x => { x with ia := (List.range 9).map cs })) fun t =>
      (t.vec 0).q.map (fun x => (x.ia.length, x.band, x.due)) = [(1, 8, 1)]) = true ∧
    (nextIs (exec (.intersectStep 0) (workS .isxSampled fun x => { x with ia := [cs 1] })) fun t => (t.vec 0).q.map (·.workDone) = [true] &&
      (t.vec 0).leaves.map (·.due) = [28]) = true ∧
    (nextIs (exec (.intersectStep 0) (workS .mvsRow fun x => { x with vp := { x.vp with n := 20 } })) fun t => (t.vec 0).q.map (fun x => (x.sub, x.due)) = [(8, 1)]) = true ∧
    (nextIs (exec (.intersectStep 0) (workS .mvsRow fun x => { x with vp := { x.vp with n := 1 } })) fun t => (t.vec 0).q.map (·.workDone) = [true] &&
      (t.vec 0).leaves.length = 1) = true ∧
    (nextIs (exec (.intersectStep 0) (workS .mvsRow fun x => { x with vp := { x.vp with n := 1, k := 0 } })) fun t => (t.vec 0).q.all (·.workDone) &&
      (t.vec 0).leaves = []) = true := by decide +kernel

/-- An ARM waits for the SCT that writes its list. -/
theorem test_arm_waits_for_a_scout :
    (let s := armS false id
     let s := s.setVec 0 { (s.vec 0) with q := [{ vi0 with kind := .sct, vp := { vp0 with outA := 0x20000 } }] }
     s.namesSct 0 (coreAddr 0 0x20000) && issuesIn (.arm 0 false true 3 7) s fun t => (t.seq 0).st = 2 && (t.eng 0 3).active.isNone) = true := by
  decide +kernel

def fpRes (b : W32) : VRes := { v := { hi := b, lo := 0 }, poison := false }

/-- Groups 0 to 3 score 1.0, 3.0, 2.0 and 3.0 against the threshold 2.0. -/
theorem test_scout :
    sctSelect [some 0x3F800000, some 0x40400000, none, some 0x40400000] 0x40000000 2 = ([1, 3], 0) ∧
    sctSelect [some 0x40400000, some 0x40400000, some 0x40400000] 0x40000000 2 = ([0, 1], 1) ∧
    (let x := { vi0 with kind := .sct, begun := true, integer := false, dis := true }
     nextIs (exec (.sctSelectDone 0) (vecS fun v => { v with q := [x] })) fun t => (t.seq 0).bk = 4 && t.mem.byte (coreAddr 0 0x22004) = 1) = true ∧
    (let x := { vi0 with kind := .sct, integer := false, thr := 0x40000000, fold := [[(0, fpRes 0x3F800000), (1, fpRes 0x40400000)]], band := sctBands vp0 }
     nextIs (exec (.sctSelectDone 0) (vecS fun v => { v with q := [x] })) (fun t => (t.seq 0).bk = 1 && t.mem.byte (coreAddr 0 0x22000) = 1) &&
       nextIs (exec (.sctSelectDone 0) (vecS fun v => { v with q := [{ x with poisonAll := true }] })) fun t =>
         (t.seq 0).bk = 3 && (t.mem.sideAt (coreAddr 0 0x22000)).poison) = true ∧
    (let s := vecS fun v => { v with q := [{ vi0 with kind := .sct }] }
     answers (exec (.sctSelectDone 0) s) s) = true ∧
    (nextIs (exec (.sctSelectDone 0) (vecS fun v => { v with q := [{ vi0 with kind := .sct, dis := true }] })) fun t =>
      (t.vec 0).q.map (fun x => (x.begun, x.due)) = [(true, 9)]) = true := by decide +kernel

/-! ## Streams -/

def eng1 (g : Eng) : State := State.reset.setEng 0 1 g

def run0 : Run :=
  { no := 0, raw := true, src := none, dst := none, port := none, add := false, ext := [], total := 2, idx := 0, sorg := [], dorg := [],
    saddr := coreAddr 0 0x24000, daddr := coreAddr 0 0x25000, readyAt := 0, mode := .run, slotAt := 9, used := 0, lastRd := none, tiled := false,
    sown := none, down := none }

def listAt : Nat := coreAddr 0 0x23000

/-- Engine 1 walks the list at core-store offset 0x2_3000, whose first entry is v. -/
def walkS (v : Nat) : State :=
  let s := State.reset.setEng 0 1 { (State.reset.eng 0 1) with active := some { arm0 with list := listAt } }
  { s.setMem (s.mem.setBytes listAt (leBytes 16 v)) with pack := { s.pack with ranges := [(listAt, 4096)], descTable := coreAddr 0 0x24000 } }

theorem test_arms :
    (let s := eng1 { Eng.reset with queued := some arm0 }
     nextIs (exec (.queuedArmStart 0 1) s) (fun t => (t.eng 0 1).active = some arm0 && (t.eng 0 1).queued = none) &&
       answers (exec (.bundledArmStart 0 1) s) s) = true ∧
    (let a := { arm0 with bundled := true }
     let s := eng1 { Eng.reset with queued := some a }
     nextIs (exec (.bundledArmStart 0 1) s) (fun t => (t.eng 0 1).active = some a && (t.eng 0 1).queued = none) &&
       answers (exec (.queuedArmStart 0 1) s) s) = true ∧
    (nextIs (exec (.armComplete 0 1) (eng1 { Eng.reset with active := some { arm0 with ended := true } })) fun t =>
      (t.eng 0 1).active = none && (t.drn 0).residEnd = []) = true ∧
    (nextIs (exec (.armComplete 0 1) (eng1 { Eng.reset with active := some { arm0 with ended := true, resid := true } })) fun t =>
      (t.eng 0 1).active = none && (t.drn 0).residEnd = [1]) = true ∧
    ([arm0, { arm0 with ended := true, run := some run0 }].all fun a =>
      let s := eng1 { Eng.reset with active := some a }
      answers (exec (.armComplete 0 1) s) s) = true := by decide

/-- RAW, LAST, LEN 3 from address 64 to address 96 of module 0; CHAIN to the list itself, and to address 0; reserved KIND 3 and 15; a list
in another core's store, and one in a poisoned parcel. -/
theorem test_list_entries :
    (let s := walkS (1 + 2 ^ 4 + 2 * 2 ^ 5 + 2 * 2 ^ 21 + 3 * 2 ^ 77)
     (s.walking 0 1).isSome && (s.fetchEntry 0 1 { arm0 with list := listAt }).entryHere 0 1 { arm0 with list := listAt } &&
     nextIs (exec (.rawEntry 0 1) s) (fun t => (t.eng 0 1).active.any fun a => a.ended &&
       a.run.any fun r => r.total = 3 && r.saddr = 64 && r.daddr = 96 && r.readyAt = 1) &&
     nextIs (exec (.descEntry 0 1) s) fun t => (t.eng 0 1).active.any fun a => !a.ended && a.run.isNone) = true ∧
    (let s := walkS (2 + listAt / 16 * 2 ^ 20)
     nextIs (exec (.listChain 0 1) s) fun t => (t.eng 0 1).active.any fun a => a.list = listAt && a.left = 65535 && !a.ended) = true ∧
    (nextIs (exec (.listChain 0 1) (walkS 2)) fun t => (t.eng 0 1).last = 2 && (t.eng 0 1).active.any (·.ended)) = true ∧
    ([3, 15].all fun k => nextIs (exec (.descEntry 0 1) (walkS k)) fun t => (t.eng 0 1).last = 2 && (t.eng 0 1).active.any (·.ended)) = true ∧
    (let a := coreAddr 1 0x23000
     let s := eng1 { Eng.reset with active := some { arm0 with list := a } }
     nextIs (exec (.rawEntry 0 1) { s with pack := { s.pack with ranges := [(a, 4096)] } }) fun t => t.trail.srcq.length = 1 &&
       (t.eng 0 1).active.any fun a => !a.ended && a.run.isNone) = true ∧
    (let s := walkS 1
     nextIs (exec (.rawEntry 0 1) (s.setMem (s.mem.setParcel listAt listAt (poisonedParcel listAt)))) fun t =>
       (t.eng 0 1).last = 2 && (t.eng 0 1).active.any (·.ended)) = true := by
  decide +kernel

/-- An entry of descriptor 0 to itself, of one element; from no descriptor to the RESID port; and from a poisoned descriptor. -/
theorem test_desc_entries :
    (let s := walkS 0
     let s := s.setMem (s.mem.setBytes (coreAddr 0 0x24008) [1])
     nextIs (exec (.descEntry 0 1) s) fun t =>
       (t.eng 0 1).active.any fun a => a.taken = 1 && a.run.any fun r => r.readyAt = 8 && r.total = 1 && !r.raw && r.port = none) = true ∧
    (nextIs (exec (.descEntry 0 1) (walkS (0xFFF0 * 2 ^ 16 + 0xFFFE * 2 ^ 32))) fun t => (t.eng 0 1).undec = 1 && (t.cnt 0).poison = 1 &&
       (t.eng 0 1).active.any fun a => a.taken = 1 && a.run.isNone && a.resid) = true ∧
    (let s := walkS 0
     let a := coreAddr 0 0x24000
     nextIs (exec (.descEntry 0 1) (s.setMem (s.mem.setParcel a a (poisonedParcel a)))) fun t =>
       (t.eng 0 1).last = 2 && (t.eng 0 1).active.any fun a => a.ended && a.taken = 0) = true := by decide +kernel

/-- A parcel of the own core with what it holds; an undecoded address; another core's parcel. -/
theorem test_lookups :
    (let s := State.reset.setMem (State.reset.mem.setBytes (coreAddr 0 0x24000) [0x5A])
     let t := s.ctlAsk 0 1 0 (coreAddr 0 0x24000)
     decide ((t.ctlLook 0 1 (coreAddr 0 0x24000)).map (fun p => p.data) = some 0x5A) && t.trail.srcq.isEmpty) = true ∧
    (let a := 0x030000000000
     let t := State.reset.ctlAsk 0 1 0 a
     (State.reset.keyOf a).isNone && (t.ctlLook 0 1 a).any (fun p => p.poison) && decide ((t.eng 0 1).undec = 1)) = true ∧
    (let a := coreAddr 1 0x24000
     let t := State.reset.ctlAsk 0 1 0 a
     (State.reset.keyOf a).isSome && State.placeExit a = some (1 * 8 + 4) && (t.ctlLook 0 1 a).isNone &&
       decide ((t.srcAt (State.sourceKey 0 0 4)).map (fun b => b.beat.dst) = [12])) = true := by decide +kernel

/-- Every module is reached by port 4. -/
def routed (s : State) : State := { s.setPort 4 { GPort.reset with state := 3 } with dict := { s.dict with val := [(0x501000, List.replicate 8 0x44)] } }

def spot0 (a : Nat) : Spot := { undec := false, module := 0, addr := a, lo := 0, n := 64 }

def flight0 : Flight :=
  { entry := 0, srcs := [{ module := 0, addr := coreAddr 0 0x24000, rid := 0, asked := 0, got := some { data := 0x5A } }], lo := 0, srcNibs := 64,
    mark := false, dst := .mem [spot0 (coreAddr 0 0x25000)], dstNibs := 64, add := false, etype := 0, last := true, col := 0 }

def readS (r : Run) : State :=
  let s := eng1 { Eng.reset with active := some { arm0 with run := some r } }
  s.setMem (s.mem.setBytes (coreAddr 0 0x24000) [0x5A])

/-- The parcel of the own core; a run that may not read yet; a source in another core. -/
theorem test_element_reads :
    (nextIs (exec (.streamElementRead 0 1) (readS run0)) fun t =>
      (t.eng 0 1).flight.map (fun f => f.srcs.map (fun x => x.got.map (·.data))) = [[some 0x5A]] &&
        (t.eng 0 1).active.any fun a => a.run.any fun r => r.idx = 1) = true ∧
    (let s := readS { run0 with readyAt := 1 }
     answers (exec (.streamElementRead 0 1) s) s) = true ∧
    (nextIs (exec (.streamElementRead 0 1) (readS { run0 with saddr := coreAddr 1 0x24000 })) fun t =>
      (t.eng 0 1).flight.map (fun f => f.srcs.map (fun x => x.got.isSome)) = [[false]] && (t.srcAt (State.sourceKey 0 0 4)).length = 1) = true ∧
    (answers (exec (.streamElementRead 0 1) (eng1 { Eng.reset with active := some arm0 })) (eng1 { Eng.reset with active := some arm0 })) = true := by
  decide +kernel

/-- An own parcel that no longer verifies; an undecoded one; another core's, asked for once for two elements; another module's. -/
theorem test_source_parcels :
    (let a := coreAddr 0 0x24000
     let s := State.reset.setMem (State.reset.mem.setSide a { Side.clean with check := some 1 })
     let r := s.fetchPart 0 1 0 (spot0 a) true
     r.2.got.any (fun p => p.poison) && decide ((r.1.eng 0 1).last = 5 ∧ (r.1.cnt 0).poison = 1)) = true ∧
    (let r := State.reset.fetchPart 0 1 0 { spot0 64 with undec := true } true
     r.2.got.any (fun p => p.poison) && decide ((r.1.eng 0 1).undec = 1)) = true ∧
    (let a := coreAddr 1 0x24000
     let x : Part := { module := 0, addr := a, rid := 0, asked := 0, got := none }
     let s := eng1 { Eng.reset with flight := [{ flight0 with srcs := [x] }] }
     decide (s.fetchPart 0 1 0 (spot0 a) true = (s, x)) &&
       decide (((State.reset.fetchPart 0 1 0 (spot0 a) true).1.srcAt (State.sourceKey 0 0 4)).length = 1)) = true ∧
    (decide ((((routed State.reset).fetchPart 0 1 0 { spot0 64 with module := 1 } true).1.srcAt (State.sourceKey 0 0 4)).length = 1)) = true := by
  decide +kernel

/-- An element of ADD over a parcel of another core, INT32. -/
def addFlight : Flight := { flight0 with dst := .mem [{ spot0 (coreAddr 1 0x25000) with n := 8 }], srcNibs := 8, dstNibs := 8, add := true, etype := 4 }

theorem test_element_writes :
    (nextIs (exec (.streamElementWrite 0 1) (eng1 { Eng.reset with flight := [flight0] })) fun t => (t.eng 0 1).flight = [] &&
      t.mem.byte (coreAddr 0 0x25000) = 0x5A && t.mem.byte (coreAddr 0 0x25020) = 0) = true ∧
    (let f := { flight0 with dst := .mem [spot0 (coreAddr 1 0x25000)] }
     State.placeExit (coreAddr 1 0x25000) = some 12 && nextIs (exec (.streamElementWrite 0 1) (eng1 { Eng.reset with flight := [f] })) fun t =>
       t.mem.bytes = [] && (t.srcAt (State.sourceKey 0 0 4)).map (fun q => q.beat.dst) = [12] && (t.eng 0 1).sent = [(0, coreAddr 1 0x25000, 0)]) = true ∧
    (let x : Part := { module := 0, addr := coreAddr 1 0x24000, rid := 0, asked := 0, got := none }
     answers (exec (.streamElementWrite 0 1) (eng1 { Eng.reset with flight := [{ flight0 with srcs := [x] }] }))
       ((eng1 { Eng.reset with flight := [{ flight0 with srcs := [x] }] }).flushRemote 0 1)) = true ∧
    (nextIs (exec (.streamElementWrite 0 1) (eng1 { Eng.reset with flight := [addFlight] })) fun t => (t.eng 0 1).flight = [addFlight] &&
      (t.srcAt (State.sourceKey 0 0 4)).length = 1) = true ∧
    (nextIs (exec (.streamElementWrite 0 1) (eng1 { Eng.reset with flight := [{ flight0 with dst := .port 0xFFFE }] })) fun t =>
      (t.eng 0 1).portOut.map (fun x => (x.1, x.2.data)) = [(0xFFFE, 0x5A)]) = true := by decide +kernel

/-- A list hold without room; a parcel for module 1 that the entry before has covered in part, not yet read and read. -/
theorem test_writes_that_wait :
    (let s := { eng1 { Eng.reset with flight := [flight0] } with holdq := heldMany, pack := { State.reset.pack with ranges := [(coreAddr 0 0x25000, 32)] } }
     s.landStalls flight0 && answers (exec (.streamElementWrite 0 1) s) s) = true ∧
    (let v : Cov := { Cov.reset with mask := 1, data := 5, dirty := true }
     nextIs (exec (.streamElementWrite 0 1) (routed (eng1 { Eng.reset with flight := [{ flight0 with entry := 1 }], cov := [(2 ^ 42 + 64, v)] }))) fun t =>
       (t.eng 0 1).flight.length = 1 && (t.eng 0 1).cov.all (fun x => x.2.asked.isSome) && (t.srcAt (State.sourceKey 0 0 4)).length = 1) = true ∧
    (let v : Cov := { Cov.reset with mask := 1, data := 5, dirty := true, old := some (madeParcel 0x70 0 64) }
     nextIs (exec (.streamElementWrite 0 1) (routed (eng1 { Eng.reset with cov := [(2 ^ 42 + 64, v)] }))) fun t =>
       (t.eng 0 1).sent = [(0, 2 ^ 42 + 64, 0)] && (t.eng 0 1).cov.all (fun x => !x.2.dirty) &&
         (t.srcAt (State.sourceKey 0 0 4)).map (fun q => q.beat.ps.map (·.data)) = [[0x75]]) = true := by decide +kernel

theorem test_stream_timeouts :
    (let late := fun (s : State) => ({ s with pace := { s.pace with step := 1048576 } } : State)
     let x : Part := { module := 1, addr := 64, rid := 3, asked := 0, got := none }
     (nextIs (exec (.streamReadTimeout 0 1) (late (eng1 { Eng.reset with flight := [{ flight0 with srcs := [x] }] }))) fun t =>
       (t.eng 0 1).last = 4 && (t.cnt 0).poison = 1 && (t.eng 0 1).flight.all fun f => f.srcs.all fun x => x.got.any (·.poison)) &&
     (nextIs (exec (.streamReadTimeout 0 1) (late (eng1 { Eng.reset with cov := [(64, { Cov.reset with asked := some (3, 0) })] }))) fun t =>
       (t.eng 0 1).last = 4 && (t.eng 0 1).cov.all fun x => x.2.old.any (·.poison)) &&
     (nextIs (exec (.streamReadTimeout 0 1) (late (eng1 { Eng.reset with ctl := [(64, some { rid := 3, asked := 0, got := none })] }))) fun t =>
       (t.eng 0 1).last = 4 && (t.ctlLook 0 1 64).any (·.poison)) &&
     (answers (exec (.streamReadTimeout 0 1) (eng1 { Eng.reset with flight := [{ flight0 with srcs := [x] }] }))
       (eng1 { Eng.reset with flight := [{ flight0 with srcs := [x] }] })) &&
     (nextIs (exec (.streamWriteTimeout 0 1) (late (eng1 { Eng.reset with sent := [(0, 64, 7)] }))) fun t => (t.eng 0 1).sent = [] && (t.cnt 0).poison = 1) &&
     (answers (exec (.streamWriteTimeout 0 1) (eng1 { Eng.reset with sent := [(0, 64, 7)] })) (eng1 { Eng.reset with sent := [(0, 64, 7)] }))) = true := by
  decide +kernel

theorem test_ports_take_parcels :
    (let s := drainS { dr0 with cfg := { Cfg.empty with enable := 8, residEng := 1 } } []
     nextIs (exec (.portDelivery 0 1) (s.setEng 0 1 { Eng.reset with portOut := [(0xFFFE, madeParcel 7 0 0)] })) fun t => (t.eng 0 1).portOut = [] &&
       (Sparse.get [] (t.drn 0).resid 1).map (·.poison) = [false] && (t.eng 0 1).poisoned = 0) = true ∧
    (let s := vecS fun v => { v with q := [{ vi0 with kind := .mvsGather }] }
     nextIs (exec (.portDelivery 0 1) (s.setEng 0 1 { Eng.reset with portOut := [(0xFFFD, madeParcel 7 0 0)] })) fun t => (t.eng 0 1).portOut = [] &&
       (t.vec 0).wport.map (·.data) = [7]) = true ∧
    ([0xFFFE, 0xFFFD].all fun n =>
      let s := eng1 { Eng.reset with portOut := [(n, {})] }
      answers (exec (.portDelivery 0 1) s) s) = true ∧
    (nextIs (exec (.portDelivery 0 1) (eng1 { Eng.reset with portOut := [(0xFFFF, {})] })) fun t => (t.eng 0 1).portOut = [] && (t.eng 0 1).last = 3 &&
      (t.eng 0 1).undec = 1) = true := by decide +kernel

/-- An arm accepted at step 1 still walks a list that the parcel belongs to: it may read it before a write held at step 3, not before one held
at step 1. -/
theorem test_list_hold_applies :
    (let h : Held := { at_ := 3, addr := coreAddr 0 0x23000, parcel := madeParcel 0x5A 0 (coreAddr 0 0x23000), who := .nobody }
     let walks := fun (h : Held) => { eng1 { Eng.reset with active := some { arm0 with at_ := 1, list := coreAddr 0 0x23000 } } with
       holdq := [h], mem := State.reset.mem.setBytes (coreAddr 0 0x23000) [0x10] }
     nextIs (exec .listHoldApply { State.reset with holdq := [h] }) (fun t => t.holdq = [] && t.mem.byte (coreAddr 0 0x23000) = 0x5A) &&
     answers (exec .listHoldApply (walks h)) (walks h) && nextIs (exec .listHoldApply (walks { h with at_ := 0 })) fun t => t.holdq = []) = true := by
  decide +kernel

/-! ## Memory channels and slices -/

def mr0 : MReq := { cls := 0, wr := false, addr := 0, n := 4, ch := 0, slice := 0, req := none, ps := [] }

/-- A budget with room for four parcels, and for three; a request barred by one before it for the same place; a window not yet set up. -/
theorem test_regulator :
    (nextIs (exec .regulatorWindow (atStep State.reset 8191)) fun t => t.mm.winStart = 4096 && t.mm.total = 5376 && t.mm.budget = [3696, 1008, 672]) = true ∧
    (answers (exec .regulatorWindow State.reset) State.reset) = true ∧
    (let s := State.reset.setChan 5 { (State.reset.chan 5) with wait := [mr0], used := [3692, 0, 0] }
     nextIs (exec (.regulatorGrant 5) s) fun t => (t.chan 5).granted = [mr0] && (t.chan 5).used = [3696, 0, 0]) = true ∧
    ([[mr0], [{ mr0 with cls := 1, n := 2000 }, mr0]].all fun w =>
      let s := State.reset.setChan 5 { (State.reset.chan 5) with wait := w, used := [if w.length = 1 then 3693 else 0, 0, 0] }
      answers (exec (.regulatorGrant 5) s) s && answers (exec (.regulatorGrant 5) (atStep s 4096)) (atStep s 4096)) = true := by decide +kernel

/-- A read or write of parcel 1 of line 0 of channel 0, for engine 1 of core 7. -/
def sr0 (wr : Bool) : SReq :=
  { wr, addr := 32, mask := fullMask, data := 0x5A, poison := false, cclass := 0, check := none, who := if wr then .nobody else .engine 7 1 3 }

def sliceS (f : Slice → Slice) : State := State.reset.setSlice 0 (f (State.reset.sliceAt 0))

def line0 : Line := { tag := 0, dirty := false, ps := List.replicate 8 {}, used := 1 }

/-- Beats that wait at the slice's own source, by exit. -/
def sliceOut (t : State) : List Nat := (t.srcAt (State.sourceKey 0 (sliceRouter 0) 5)).map fun q => q.beat.dst

theorem test_slices_serve :
    (nextIs (exec (.sliceStep 0) (sliceS fun sl => { sl with inq := [sr0 true], lines := [(0, line0)] })) fun t => t.mem.bytes = [] &&
      (let x := Sparse.get Line.invalid (t.sliceAt 0).lines 0; x.dirty && (x.ps.map (·.data)) = [0, 0x5A, 0, 0, 0, 0, 0, 0])) = true ∧
    (nextIs (exec (.sliceStep 0) (sliceS fun sl => { sl with inq := [sr0 false], lines := [(0, line0)] })) fun t =>
      sliceOut t = [7 * 8 + 4] && (t.sliceAt 0).inq = []) = true ∧
    (nextIs (exec (.sliceStep 0) (sliceS fun sl => { sl with inq := [sr0 false] })) fun t => (t.sliceAt 0).missq = [0] && t.sliceMiss = 1 &&
      (t.sliceAt 0).waiting.length = 1 && (sliceOut t).all (fun d => d = chanRouter 0 * 8 + 6) && !(sliceOut t).isEmpty) = true ∧
    (nextIs (exec (.sliceStep 0) (sliceS fun sl => { sl with inq := [sr0 false], missq := [0] })) fun t => (t.sliceAt 0).waiting.length = 1 &&
      t.sliceMiss = 0) = true ∧
    (nextIs (exec (.sliceStep 0) (sliceS fun sl => { sl with inq := [sr0 false], missq := (List.range 64).map (· + 1) })) fun t =>
      (t.sliceAt 0).inq = [sr0 false] && t.sliceMiss = 0) = true := by decide +kernel

/-- Eight writes that make up line 0, though the miss queue is full; no cache ways; a parcel of the scratch memory; an address that names no
memory. -/
theorem test_slices_without_a_line :
    (let ws := (List.range 8).map fun i => { sr0 true with addr := 32 * i }
     nextIs (exec (.sliceStep 0) (sliceS fun sl => { sl with inq := ws, missq := (List.range 64).map (· + 1) })) fun t => (t.sliceAt 0).inq = [] &&
       t.sliceMiss = 1 && sliceOut t = [] && (t.sliceAt 0).find 8 0 = some 0) = true ∧
    ([true, false].all fun wr => nextIs (exec (.sliceStep 0) { sliceS (fun sl => { sl with inq := [sr0 wr] }) with cacheWays := 0 }) fun t =>
      (sliceOut t) = [chanRouter 0 * 8 + 6] && t.sliceMiss = 0) = true ∧
    (let a := 0x010000200020
     (nextIs (exec (.sliceStep 0) (sliceS fun sl => { sl with inq := [{ sr0 true with addr := a }] })) fun t => t.mem.byte a = 0x5A) &&
     (nextIs (exec (.sliceStep 0) (sliceS fun sl => { sl with inq := [{ sr0 false with addr := a }] })) fun t => sliceOut t = [60])) = true ∧
    (nextIs (exec (.sliceStep 0) (sliceS fun sl => { sl with inq := [{ sr0 true with addr := 0x030000000000 }] })) fun t => t.mem.bytes = [] &&
      (t.sliceAt 0).inq = []) = true := by decide +kernel

/-- Both halves of line 0, for a request that waits; one half alone; a single parcel with no cache ways. -/
theorem test_line_fill :
    (let lo := { mr0 with ps := List.replicate 4 { data := 0x5A } }
     let s := sliceS fun sl => { sl with missq := [0], filled := [{ lo with addr := 128 }, lo] }
     nextIs (exec (.sliceLineFill 0) s) (fun t => (t.sliceAt 0).find t.cacheWays 0 = some 0 && (t.sliceAt 0).missq = [] && (t.sliceAt 0).filled = [] &&
       t.mem.bytes = []) &&
     nextIs (exec (.sliceLineFill 0) (sliceS fun sl => { sl with missq := [0], waiting := [sr0 false], filled := [{ lo with addr := 128 }, lo] })) fun t =>
       sliceOut t = [60] && (t.sliceAt 0).waiting = []) = true ∧
    (let s := sliceS fun sl => { sl with missq := [0], filled := [mr0] }
     answers (exec (.sliceLineFill 0) s) s) = true ∧
    (nextIs (exec (.sliceLineFill 0) (sliceS fun sl => { sl with filled := [{ mr0 with addr := 32, n := 1, req := some (sr0 false), ps := [{}] }] })) fun t =>
      sliceOut t = [60] && (t.sliceAt 0).filled = []) = true := by decide +kernel

theorem test_channel_reads :
    (let s := State.reset.setChan 0 { (State.reset.chan 0) with granted := [mr0], badRun := 3 }
     let last := s.setChan 0 { (s.chan 0) with granted := [{ mr0 with n := 1 }] }
     (nextIs (exec (.lpddr6Read 0 3) s) fun t => t.mm.retry = 1 && (t.chan 0).badRun = 0 && (t.chan 0).granted.map (fun m => m.ps.length) = [1]) &&
     (nextIs (exec (.lpddr6Read 0 4) s) fun t => t.mm.uncorr = 1 && (t.chan 0).badRun = 4 && (t.chan 0).granted.map (fun m => m.ps.map (·.poison)) = [[true]]) &&
     (nextIs (exec (.lpddr6Read 0 0) last) fun t => (t.chan 0).granted = [] && t.trail.srcq.length = 1) &&
     (nextIs (exec (.lpddr6Read 0 0) (s.setMem (s.mem.setSide 0 { Side.clean with mchk := some 1 }))) fun t => t.mm.uncorr = 1) &&
     (nextIs (exec (.lpddr6Read 0 4) (s.setChan 0 { (s.chan 0) with badRun := 15 })) fun t => t.mm.failMap.getLsbD 0 && t.rng.alerts.contains .moduleFatal)) = true ∧
    (answers (exec (.lpddr6Read 0 0) State.reset) State.reset) = true := by
  decide +kernel

def liveS (n : Nat) : State :=
  let s := { State.reset with pwr := { State.reset.pwr with phase := .good, domains := List.replicate 44 2 }, nowMs := 400 }
  s.setChan n { (s.chan n) with trained := true }

/-- A write of one parcel, and one damaged in bit 0 on its way in; a read of the closed bank waits and collides. -/
theorem test_channel_writes :
    (let s := State.reset.setChan 0 { (State.reset.chan 0) with granted := [{ mr0 with wr := true, addr := 32, n := 1, req := some (sr0 true) }] }
     (nextIs (exec (.lpddr6Write ⟨0, 0⟩) s) fun t => t.mem.byte 32 = 0x5A && (t.chan 0).granted = [] && t.mem.byte 0 = 0 && t.burstOk 32 32) &&
     (nextIs (exec (.lpddr6Write ⟨0, 1⟩) s) fun t => t.mem.byte 32 = 0x5B && !t.burstOk 32 32)) = true ∧
    (answers (exec (.lpddr6Write ⟨0, 0⟩) State.reset) State.reset) = true ∧
    (nextIs (exec (.refresh 7 2) (liveS 7)) fun t => (t.chan 7).bank = 1 && (t.chan 7).band = 2 && (t.chan 7).closed = 0 && (t.chan 7).openAt = 140 &&
      t.mm.collide = 0) = true ∧
    (answers (exec (.refresh 7 2) State.reset) State.reset) = true ∧ illFormed (exec (.refresh 7 3) (liveS 7)) = true ∧
    (let s := liveS 0
     let s := s.setChan 0 { (s.chan 0) with granted := [mr0], openAt := 9 }
     nextIs (exec (.lpddr6Read 0 0) s) fun t => t.mm.collide = 1 && (t.chan 0).granted.map (·.ps.length) = [0]) = true := by decide +kernel

def goodS : State :=
  { State.reset with pwr := { State.reset.pwr with phase := .good, domains := List.replicate 44 2 }, nowMs := 400, wimg := { State.reset.wimg with hash := 5, state := 3 } }

theorem test_scrub :
    (nextIs (exec (.patrolScrub 255 0) (liveS 255)) fun t => (t.chan 255).scrub = 1 && t.mm.uncorr = 0) = true ∧
    (nextIs (exec (.patrolScrub 255 4) (liveS 255)) fun t => (t.chan 255).badRun = 0 && t.mm.uncorr = 1) = true ∧
    (let s := (liveS 255).setChan 255 { ((liveS 255).chan 255) with badRun := 15 }
     nextIs (exec (.patrolScrub 255 0) (s.setMem (s.mem.setSide (255 * 0x80000000) { Side.clean with check := some 1 }))) fun t =>
       t.mm.failMap.getLsbD 255 && t.rng.alerts.contains .moduleFatal) = true ∧
    (answers (exec (.patrolScrub 255 0) State.reset) State.reset) = true ∧
    (let s := { liveS 255 with pack := { State.reset.pack with state := .running } }
     answers (exec (.patrolScrub 255 0) s) s) = true := by decide +kernel

theorem test_training :
    (nextIs (exec (.lpddr6Training 255 true false) goodS) fun t => (t.chan 255).trained && t.wimg.hash = 5 && t.free = 1) = true ∧
    (let s := goodS.setMem ((goodS.mem.setBytes (255 * 0x80000000) [1]).setBytes (255 * 0x80000000 - 1) [1])
     nextIs (exec (.lpddr6Training 255 false true) s) fun t => (t.chan 255).trained && t.wimg.hash = 0 && t.mem.byte (255 * 0x80000000) = 0 && t.mem.byte (255 * 0x80000000 - 1) = 1) = true ∧
    (nextIs (exec (.lpddr6Training 255 false false) goodS) fun t => t.rng.degraded && t.mm.failMap.getLsbD 255) = true ∧
    (answers (exec (.lpddr6Training 255 true false) { goodS with nowMs := 399 }) { goodS with nowMs := 399 }) = true ∧
    (nextIs (exec (.channelSyncLoss 255) goodS) fun t => t.mm.failMap.getLsbD 255 && t.rng.alerts.contains .moduleFatal) = true ∧
    (answers (exec (.channelSyncLoss 255) State.reset) State.reset) = true := by decide +kernel

/-! ## Networks -/

def dq0 (dest : Nat) : DpkParcel := { dest, into := false, core := 0, id := 0, i := 0, avail := 15, ask := false, parcel := madeParcel 0x5A 0 0 }

def dpkS (q : DpkParcel) (r : Nat) : State :=
  let s := atStep State.reset 15
  { (s.setDpkq 0 [{ dpk0 with out := true }]) with trail := { s.trail with dpk := [(planeKey 1 r 4, [q])] } }

/-- From core 5 to core 69, the router below it, and from core 5 into its own core store. -/
theorem test_daypack_parcels :
    (let s := dpkS (dq0 (coreAddr 69 0x20000)) 5
     s.dpkWants 5 (dq0 (coreAddr 69 0x20000)) = some 2 && nextIs (exec (.daypackStep 1 5 2) s) fun t => t.dpkAt 1 5 4 = [] &&
       (t.dpkAt 1 69 0).map (·.avail) = [17] && t.outDone 1 5 2) = true ∧
    (let s := dpkS (dq0 (coreAddr 5 0x20000)) 5
     nextIs (exec (.daypackStep 1 5 4) s) fun t => t.mem.byte (coreAddr 5 0x20000) = 0x5A && (t.dpkq 0).map (·.landed) = [1]) = true ∧
    (nextIs (exec (.daypackStep 1 5 2) (atStep (dpkS (dq0 (coreAddr 69 0x20000)) 5) 14)) fun t => (t.dpkAt 1 5 4).length = 1) = true ∧
    illFormed (exec (.daypackStep 1 5 7) State.reset) = true := by decide +kernel

/-- A parcel of a read that waits, and of one that is gone; an undecoded place; a request served at its core; another module's, at its port. -/
theorem test_daypack_arrivals :
    (let q := { dq0 (coreAddr 5 0x20000) with into := true }
     (let t := (State.reset.setDpkq 0 [dpk0]).dpkArrive q 5 4
      t.mem.byte (coreAddr 5 0x20000) = 0x5A ∧ (t.dpkq 0).map (fun d => (d.landed, d.got.map (·.1))) = [(1, [0])]) ∧
     State.reset.dpkArrive q 5 4 = State.reset) ∧
    (let t := (State.reset.setDpkq 0 [{ dpk0 with out := true }]).dpkArrive (dq0 0x030000000000) 5 4
     (t.cnt 0).poison = 1 ∧ (t.dpkq 0).map (·.landed) = [1] ∧ t.mem = State.reset.mem) ∧
    (let t := (State.reset.setDpkq 0 [dpk0]).dpkArrive { dq0 (coreAddr 5 0x20000) with ask := true } 5 4
     t.mem = State.reset.mem ∧ t.trail.dpk.length = 1) ∧
    (let t := ((routed State.reset).dpkArrive (dq0 (globalKey 9 64)) (portRouter 4) 6)
     portAtRouter (portRouter 4) = some 4 ∧ (t.gport 4).dpkTxq.length = 1) := by decide +kernel

theorem test_daypack_land :
    (nextIs (exec (.daypackLand 0 0) (State.reset.setDpkq 0 [{ dpk0 with landed := 1 }])) fun t => t.dpkq 0 = []) = true ∧
    (nextIs (exec (.daypackLand 0 0) (atStep (State.reset.setDpkq 0 [{ dpk0 with out := true, len := 3, landed := 1 }]) 1048576)) fun t => t.dpkq 0 = [] && (t.cnt 0).poison = 2) = true ∧
    (nextIs (exec (.daypackLand 0 0) (atStep (State.reset.setDpkq 0 [{ dpk0 with loc := 0x20000 }]) 1048576)) fun t => t.dpkq 0 = [] && (t.cnt 0).poison = 1 &&
      (t.mem.sideAt (coreAddr 0 0x20000)).poison) = true ∧
    ([0, 1].all fun k => let s := atStep (State.reset.setDpkq 0 [{ dpk0 with out := true }]) 1048575; answers (exec (.daypackLand 0 k) s) s) = true := by
  decide +kernel

/-- The first bundled transfer that waits takes the place; a core that waits for its writes arrives at the second barrier. -/
theorem test_daypack_place :
    (let s := State.reset.setDpkq 0 [{ dpk0 with landed := 1 }]
     let s := s.setBnd 0 { (s.bnd 0) with late := [(globalKey 0 64, 0x20000, [madeParcel 1 0 0])] }
     nextIs (exec (.daypackLand 0 0) s) fun t => (t.bnd 0).late = [] && (t.dpkq 0).map (fun d => (d.out, d.len)) = [(true, 1)]) = true ∧
    (let s := chanS (State.reset.setSeq 0 { q0 with st := 2, wait := .landed 2 5 }) { CairnCh.reset with parts := [0] }
     nextIs (exec (.daypackLand 0 0) (s.setDpkq 0 [{ dpk0 with landed := 1 }])) fun t => (t.cairnCh 2).arrived.length = 1) = true := by decide +kernel

def qb (b : Beat) : QBeat := { avail := 3, taken := false, beat := b }

def beat1 : Beat := { beat0 with hdr := NodeTag.bits { logS := 1, level := 1, first := 2, base := 2, core := 0, module := 0, beat := 3 } }

/-- Router 100 of plane 2 runs entry e at output 1 (east), with beats at its inputs 3 (west) and 0. -/
def trailS (e : W16) (b : Beat) : State :=
  let s := atStep State.reset 3
  { s with trail := { s.trail with curSet := 1, tables := [(State.tableKey 1 2 100 1, [e])],
                                   beats := Sparse.set [] [(planeKey 2 100 0, [qb b])] (planeKey 2 100 3) [qb beat0] } }

theorem test_trail_slots :
    (nextIs (exec (.trailSlot 2 100 1) (trailS (0x4000 + 3 * 2048) beat1)) fun t => (Sparse.get [] t.trail.beats (planeKey 2 101 3)).map (·.avail) = [5] &&
      t.outDone 2 100 1) = true ∧
    (nextIs (exec (.trailSlot 2 100 1) (trailS (0x8000 + 3 * 2048) beat1)) fun t => t.trail.comb = 0 &&
      (Sparse.get [] t.trail.beats (planeKey 2 101 3)).map (fun q => (NodeTag.ofBits q.beat.hdr).level) = [2]) = true ∧
    (nextIs (exec (.trailSlot 2 100 1) (trailS (0x8000 + 3 * 2048) beat0)) fun t => t.trail.comb = 1 &&
      (Sparse.get [] t.trail.beats (planeKey 2 101 3)).map (fun q => q.beat.ps.all (·.poison)) = [true]) = true ∧
    (nextIs (exec (.trailSlot 2 100 1) (trailS 0 beat1)) fun t => Sparse.get [] t.trail.beats (planeKey 2 101 3) = []) = true ∧
    (let s := atStep State.reset 3
     nextIs (exec .phaseTablesStart { s with trail := { s.trail with nextSet := 4, holdUntil := some 3 } }) fun t => t.trail.curSet = 4 && t.trail.phaseBase = 3 &&
       t.trail.holdUntil = none) = true := by decide +kernel

/-- COMB of one beat; an output that the router has not; a Daypack step; tables that wait, and none set; beats whose step has passed. -/
theorem test_trail_waits :
    (nextIs (exec (.trailSlot 2 100 1) (let s := trailS (0x8000 + 3 * 2048 + 2 * 256) beat1; s)) fun t =>
      (Sparse.get [] t.trail.beats (planeKey 2 101 3)).map (fun q => (NodeTag.ofBits q.beat.hdr).level) = [1] && t.trail.comb = 0) = true ∧
    (let s := trailS 0x4000 beat1
     answers (exec (.trailSlot 2 100 6) s) s && illFormed (exec (.trailSlot 2 100 7) s) &&
     nextIs (exec (.trailSlot 2 100 1) (atStep s 15)) fun t => t.trail.drop = 2 && (Sparse.get [] t.trail.beats (planeKey 2 100 3)) = []) = true ∧
    ([some 4, none].all fun h =>
      let s := { State.reset with trail := { State.reset.trail with nextSet := 4, holdUntil := h } }
      answers (exec .phaseTablesStart s) s) = true := by decide +kernel

/-- Split nodes at a core, a port and a slice; a flit's parcel at its port; a request at the slice that it is for; a beat of nothing. -/
theorem test_beats_leave :
    (Sparse.get [] (State.reset.exitBeat 2 7 4 0 beat0).trail.inbox 7 = [beat0] ∧
      ((routed State.reset).exitBeat 2 (portRouter 4) 6 0 beat0).gport 4 ≠ (routed State.reset).gport 4 ∧
      (State.reset.exitBeat 2 7 5 0 beat0).trail.drop = 1) ∧
    (let b : Beat := { beat0 with kind := 0, pkts := [{ flow := .away { ftype := 1, vmask := 1, dmod := 9, smod := 0, addr := 64 }, addr := 64, parcel := {} }] }
     ((routed State.reset).exitBeat 2 (portRouter 4) 6 0 b).gport 4 ≠ (routed State.reset).gport 4) ∧
    (let b : Beat := { beat0 with kind := 1, pkts := [{ flow := .request (sr0 false), addr := 32, parcel := {} }] }
     State.placeExit 32 = some (sliceRouter 0 * 8 + 5) ∧ ((State.reset.exitBeat 0 (sliceRouter 0) 5 9 b).sliceAt 0).inq = [{ sr0 false with ord := 64 * 9 }]) ∧
    (State.reset.exitBeat 0 7 5 0 { beat0 with kind := 0 }).trail.drop = 1 := by decide +kernel

def wm (typ : BitVec 5) (dst : CoreId) (body : List W32) : WMsg := { typ, src := 0, dst, bridge := false, body }

def wf (m : WMsg) (last : Bool) (pos : CoreId) : WFlit := { msg := m, last, pos, inp := 4, avail := 0 }

/-- Class 1 sends at steps that are 8 modulo 16. -/
theorem test_whistle_flits :
    (let s := atStep State.reset 8
     let f := wf (wm 3 7 [11, 1]) false 5
     f.ready 8 && nextIs (exec (.whistleFlitHop 0) { s with whistle := { s.whistle with flits := [f] } }) fun t =>
       t.whistle.flits.map (fun g => (g.pos, g.inp)) = [(6, 3)]) = true ∧
    (let s := atStep (State.reset.setSeq 7 { q0 with st := 2, wait := .ticket 4 }) 24
     let f := wf (wm 3 7 [11, 1]) true 7
     f.ready 24 && nextIs (exec (.whistleFlitHop 0) { s with whistle := { s.whistle with flits := [f] } }) fun t => t.whistle.flits = [] &&
       (t.seq 7).reg 4 = 0x10000000B && (t.seq 7).pc = 1 && (t.seq 7).wait = .none) = true ∧
    ([0, 9, 31].all fun ty => nextIs (exec (.whistleFlitHop 0) { State.reset with whistle := { State.reset.whistle with flits := [wf (wm ty 7 []) true 7] } }) fun t =>
      t.whistle.flits = [] && t.whistle.drop = 1) = true ∧
    (let s := { State.reset with whistle := { State.reset.whistle with flits := [wf (wm 3 7 []) true 7] } }
     nextIs (exec (.whistleFlitHop 0) s) fun t => decide (t = s)) = true := by decide +kernel

def boxS (s : State) (m : WMsg) : State := { s with whistle := { s.whistle with box := [(m.dst.toNat, [m])] } }

theorem test_whistle_messages :
    (let v := 1 * 2 ^ 42 + listAt
     let m := wm 1 7 [BitVec.ofNat 32 v, BitVec.ofNat 32 (v / 2 ^ 32)]
     nextIs (exec (.remoteArm 7) (boxS (walkS 0) m)) fun t => (t.eng 7 1).active.map (fun a => a.list) = some listAt) = true ∧
    (nextIs (exec (.remoteArm 7) (boxS State.reset (wm 1 7 [16, 1024]))) fun t => (t.eng 7 1).last = 2 && (t.eng 7 1).rejects = 1) = true ∧
    (nextIs (exec (.controlBlockWrite 7) (boxS State.reset (wm 7 7 [0, 3, 0]))) fun t => (t.seq 7).stop && (t.seq 7).isolate) = true ∧
    (nextIs (exec (.controlBlockWrite 7) (boxS State.reset (wm 7 7 [8, 3, 0]))) fun t => !(t.seq 7).stop && t.boxOf 7 = []) = true ∧
    (let s := { State.reset with whistle := { State.reset.whistle with bridge := [wm 5 0 [0, 0]] } }
     (nextIs (exec .errorNotice s) fun t => t.whistle.bridge = [] && t.rng.alerts = []) &&
     (nextIs (exec .errorNotice { s with pack := { s.pack with state := .running } }) fun t => t.rng.alerts.contains .packFatal && t.rng.packFatalAt = some 1048576)) = true := by
  decide +kernel

/-- A ticket that nobody waits for is gone; a control-block read is answered at once, or waits behind a write; any other message waits. -/
theorem test_whistle_arrivals :
    (State.reset.whistleDeliver (wm 3 7 [1, 0]) = State.reset ∧
      ((State.reset.whistleDeliver (wm 6 7 [8])).whistle.flits.map (fun f => (f.msg.typ, f.msg.bridge, f.msg.body))) = List.replicate 3 (8, true, [8, 0x60, 0]) ∧
      ((State.reset.whistleDeliver (wm 1 7 [16])).boxOf 7).length = 1 ∧
      (State.reset.whistleDeliver { wm 5 7 [16] with bridge := true }).whistle.bridge.length = 1) ∧
    ([(.remoteArm 7 : Instr), .controlBlockWrite 7, .errorNotice].all fun i => answers (exec i State.reset) State.reset) = true ∧
    (let v := 1 * 2 ^ 42 + listAt
     let s := boxS (walkS 0) (wm 1 7 [BitVec.ofNat 32 v, BitVec.ofNat 32 (v / 2 ^ 32)])
     (nextIs (exec (.remoteArm 7) (s.setEng 7 1 { Eng.reset with active := some arm0 })) fun t => (t.eng 7 1).queued.map (·.list) = some listAt) &&
     (nextIs (exec (.remoteArm 7) (s.setEng 7 1 { Eng.reset with active := some arm0, reserved := some arm0 })) fun t => (t.eng 7 1).last = 1)) = true ∧
    (let s := { State.reset with whistle := { State.reset.whistle with bridge := [wm 5 0 [0, 0]] }, pack := { State.reset.pack with state := .halted } }
     (nextIs (exec .errorNotice s) fun t => t.rng.packFatalAt = some 0) &&
     (nextIs (exec .errorNotice { s with rng := { s.rng with alerts := [.packFatal] } }) fun t => t.rng.packFatalAt = none && t.whistle.bridge = []) &&
     (let r := { s with rng := { s.rng with restarting := true } }; answers (exec .errorNotice r) r)) = true := by decide +kernel

/-! ## Guyline -/

def portS (n : Nat) (g : GPort) : State := goodS.setPort n g

theorem test_ports_train :
    (let s := { portS 11 { GPort.reset with state := 1 } with nowMs := 1610 }
     (nextIs (exec (.portStart 11) s) fun t => (t.gport 11).state = 2) &&
     (answers (exec (.portStart 11) { s with nowMs := 1609 }) { s with nowMs := 1609 })) = true ∧
    (nextIs (exec (.portTrainingDone 11 true ⟨350000, 5, true⟩) (portS 11 { GPort.reset with state := 2, misses := 2 })) fun t => (t.gport 11).state = 3 &&
      (t.gport 11).misses = 0 && (t.gport 11).inverted = 5 && (t.gport 11).reversed) = true ∧
    (nextIs (exec (.portTrainingDone 11 true ⟨350001, 0, false⟩) (portS 11 { GPort.reset with state := 2, misses := 1 })) fun t => (t.gport 11).state = 2 && (t.gport 11).misses = 2) = true ∧
    (nextIs (exec (.portTrainingDone 11 false ⟨0, 0, false⟩) (portS 11 { GPort.reset with state := 2, misses := 2 })) fun t => (t.gport 11).state = 4 && (t.gport 11).retryAt = 1400) = true ∧
    (answers (exec (.portTrainingDone 11 true ⟨0, 0, false⟩) State.reset) State.reset) = true := by
  decide +kernel

theorem test_ports_fail :
    (nextIs (exec (.portTrainRetry 11) (portS 11 { GPort.reset with state := 4, retryAt := 400 })) fun t => (t.gport 11).state = 2) = true ∧
    (nextIs (exec (.portTrainRetry 11) (portS 11 { GPort.reset with state := 4, retryAt := 401 })) fun t => (t.gport 11).state = 4) = true ∧
    (nextIs (exec (.portFail 11 false) (portS 11 { GPort.reset with state := 3, replays := 16 })) fun t => (t.gport 11).state = 4 && t.gl.portFail.getLsbD 11 &&
      t.rng.alerts = []) = true ∧
    (let s := portS 11 { GPort.reset with state := 3 }
     nextIs (exec (.portFail 11 true) { s with gl := { s.gl with usedPorts := [11] }, pack := { s.pack with state := .running } }) fun t => t.rng.alerts.contains .packFatal) = true ∧
    (nextIs (exec (.portFail 11 false) (portS 11 { GPort.reset with state := 3, replays := 15 })) fun t => (t.gport 11).state = 3) = true := by decide +kernel

def up0 : GPort := { GPort.reset with state := 3 }

def fl0 : Flit := { header := FHead.bits { ftype := 1, vmask := 1, dmod := 0, smod := 0, addr := coreAddr 3 0x20000 }, blocks := [{ ctl := 64, data := 0x5A }] }

def flD : Flit := { fl0 with header := FHead.bits { ftype := 1, vmask := 1, dmod := 0, smod := 0, addr := coreAddr 3 0x20000, dpk := true } }

/-- Port 2 sends a block, and is then at a position of its group. -/
def sends (g : GPort) (pos : Nat) (b : PBlock) : Bool :=
  nextIs (exec (.flitTransmit 2) (portS 2 g)) fun t => t.out = [.block 2 b] && (t.gport 2).pos = pos && (t.gport 2).blockNo = 1

def idle0 : PBlock := { ctl := 0xC0, data := 0 }

def headOf (f : Flit) : PBlock := { ctl := 0, data := f.header }

/-- A symbol ahead of all; at positions 0 to 35 scheduled flits, at 36 and 37 Daypack flits, each from its own queue; at 38 and 39 an ACK. -/
theorem test_blocks_leave :
    sends { up0 with syms := [{ sseq := 0, stype := 0x20, fields := 0, sentAt := none }], cur := [idle0] } 0 { ctl := 0x80, data := symPayload 0x20 0 0 } = true ∧
    sends { up0 with cur := [{ ctl := 64, data := 7 }] } 1 { ctl := 64, data := 7 } = true ∧
    sends { up0 with resend := [fl0], credits := 0 } 1 (headOf fl0) = true ∧ sends { up0 with resend := [flD] } 1 idle0 = true ∧
    sends { up0 with txq := [fl0], seq := 4095, credits := 1 } 1 (headOf (fl0.sealed 4095)) = true ∧
    sends { up0 with txq := [fl0], credits := 0 } 1 idle0 = true ∧
    sends { up0 with pos := 36, curDpk := [{ ctl := 64, data := 7 }] } 37 { ctl := 64, data := 7 } = true ∧
    sends { up0 with pos := 37, dpkTxq := [flD], txq := [fl0] } 38 (headOf (flD.sealed 0)) = true ∧
    sends { up0 with pos := 36, resend := [flD] } 37 (headOf flD) = true ∧ sends { up0 with pos := 36, resend := [fl0] } 37 idle0 = true ∧
    sends { up0 with pos := 37, dpkTxq := [flD], credits := 0 } 38 idle0 = true ∧
    sends { up0 with pos := 39, ctlq := [(1, 1)], rxExp := 9 } 0 { ctl := 0x80, data := symPayload 1 0 (9 * 2 ^ 228 + 2 ^ 220) } = true ∧
    sends { up0 with pos := 38 } 39 idle0 = true := by decide +kernel

/-- The kept flit and its credit; a beat of a past step; a port that is not up. -/
theorem test_flits_are_kept :
    (nextIs (exec (.flitTransmit 2) (portS 2 { up0 with txq := [fl0], seq := 4095, credits := 1 })) fun t => (t.gport 2).credits = 0 && (t.gport 2).seq = 0 &&
      (t.gport 2).replay.map (·.seq) = [4095] && (t.gport 2).cur = fl0.blocks && (t.gport 2).txq = []) = true ∧
    (let g := { up0 with lastEdge := some (0, 2, { ftype := 1, vmask := 1, dmod := 9, smod := 0, addr := 64 }, [{}]) }
     nextIs (exec (.flitTransmit 2) (atStep (portS 2 g) 1)) fun t => (t.gport 2).lastEdge = none && (t.gport 2).replay.length = 1) = true ∧
    (answers (exec (.flitTransmit 2) (portS 2 { GPort.reset with txq := [fl0] })) (portS 2 { GPort.reset with txq := [fl0] })) = true := by decide +kernel

def receives (g : GPort) (ok : Bool) (seq : BitVec 12) (p : GPort → Bool) : Bool :=
  nextIs (exec (.flitReceive 2 ok 5 (fl0.sealed seq).header fl0.blocks) (portS 2 g)) fun t => p (t.gport 2) && t.gl.fec = 5

/-- Flit 9 is expected. -/
theorem test_flits_come_in :
    receives { up0 with rxExp := 9, nakOut := some 3 } true 9 (fun g => g.rxq = [fl0.sealed 9] && g.rxExp = 10 && g.nakOut = none) = true ∧
    receives { up0 with rxExp := 9, rxq := List.replicate 128 fl0 } true 9 (fun g => g.rxExp = 9) = true ∧
    receives { up0 with rxExp := 9 } true 10 (fun g => g.nakOut = none && g.rxq = []) = true ∧
    receives { up0 with rxExp := 9 } false 9 (fun g => g.nakOut = some 0 && g.ctlq = [(2, 0)]) = true ∧
    receives { up0 with rxExp := 9, nakOut := some 3 } true 11 (fun g => g.nakOut = some 2 && g.ctlq = [(2, 0)]) = true ∧
    receives { up0 with rxExp := 9, nakOut := some 3 } true 14 (fun g => g.nakOut = some 5 && g.ctlq = []) = true ∧
    receives { up0 with rxExp := 9, nakOut := some 3 } false 14 (fun g => g.nakOut = some 4 && g.ctlq = []) = true ∧
    illFormed (exec (.flitReceive 2 true 0 fl0.header (List.replicate 9 { ctl := 64, data := 0 })) (portS 2 up0)) = true ∧
    (let s := portS 2 GPort.reset; answers (exec (.flitReceive 2 true 5 fl0.header fl0.blocks) s) s) = true := by decide +kernel

theorem test_flits_reach_the_edge :
    (let x := State.placeExit (coreAddr 3 0x20000)
     let s := portS 2 { up0 with rxq := [fl0] }
     let late := { s with trail := { s.trail with missed := [(State.routeKey 2 (portRouter 2) 28, true)] } }
     x = some 28 && nextIs (exec (.flitEdgeDeliver 2 0) s) (fun t => (t.gport 2).edge = [fl0] && t.gl.lateFlit = 0 && (t.gport 2).ctlq = [(1, 1)]) &&
       nextIs (exec (.flitEdgeDeliver 2 0) late) fun t => t.gl.lateFlit = 1 && t.trail.missed = []) = true ∧
    (let f := { fl0 with header := FHead.bits { ftype := 1, vmask := 1, dmod := 9, smod := 0, addr := 64 } }
     nextIs (exec (.flitEdgeDeliver 2 0) (routed (portS 2 { up0 with rxq := [f] }))) fun t => (t.gport 2).edge = [] &&
       (t.srcAt (planeKey 2 (portRouter 2) 6)).map (fun q => q.beat.dst) = [portRouter 4 * 8 + 6]) = true ∧
    (nextIs (exec (.flitEdgeDeliver 2 0) (portS 2 { GPort.reset with rxq := [fl0] })) fun t => (t.gport 2).edge = [fl0] && (t.gport 2).ctlq = []) = true ∧
    (answers (exec (.flitEdgeDeliver 2 0) (portS 2 up0)) (portS 2 up0)) = true ∧
    (let c := portRouter 2
     let f := { fl0 with header := FHead.bits { ftype := 1, vmask := 1, dmod := 0, smod := 0, addr := coreAddr c 0x20000 } }
     let s := atStep (portS 2 { up0 with rxq := [f] }) 4
     let s := { s with trail := { s.trail with curSet := 1, tables := [(State.tableKey 1 2 c 4, [0x7000, 0])] } }
     [(0, 0), (1, 0), (2, 1), (4, 1), (6, 0)].all fun x => nextIs (exec (.flitEdgeDeliver 2 x.1) s) fun t => t.gl.lateFlit = x.2) = true := by
  decide +kernel

theorem test_flit_acknowledgements :
    (let f := fl0.sealed 4095
     let g := { up0 with replay := [f], credits := 127, replays := 4 }
     (nextIs (exec (.ack 2 (symPayload 1 0 (1 * 2 ^ 220))) (portS 2 g)) fun t => (t.gport 2).replay = [] && (t.gport 2).credits = 128 && (t.gport 2).replays = 0) &&
     (nextIs (exec (.ack 2 (symPayload 1 0 (9 * 2 ^ 228))) (portS 2 g)) fun t => (t.gport 2).replay = [f] && (t.gport 2).replays = 4) &&
     (nextIs (exec (.nak 2 (symPayload 2 0 (4095 * 2 ^ 228))) (portS 2 g)) fun t => (t.gport 2).resend = [f] && (t.gport 2).replays = 5 && t.gl.retry = 1) &&
     ([(.ack 2 (symPayload 2 0 0) : Instr), .nak 2 (symPayload 1 0 0), .nak 2 (symPayload 2 0 (7 * 2 ^ 228))].all fun i => answers (exec i (portS 2 g)) (portS 2 g))) = true ∧
    (let y : SentSym := { sseq := 0, stype := 0x20, fields := 0, sentAt := some 0 }
     (nextIs (exec (.symbolResend 2) (portS 2 { up0 with syms := [y], blockNo := 64 })) fun t => (t.gport 2).syms.map (·.sentAt) = [none] && t.gl.retry = 1) &&
     (answers (exec (.symbolResend 2) (portS 2 { up0 with syms := [y], blockNo := 63 })) (portS 2 { up0 with syms := [y], blockNo := 63 })) &&
     (nextIs (exec (.ack 2 (symPayload 1 0 (1 * 2 ^ 212))) (portS 2 { up0 with syms := [y] })) fun t => (t.gport 2).syms = [])) = true := by
  decide +kernel

/-- Port 2 has a flit for its edge router; modules are reached by port 4. -/
def edgeS (h : FHead) (bs : List PBlock) : State := routed (portS 2 { up0 with edge := [{ header := h.bits, blocks := bs }] })

/-- Exits and kinds of the beats that wait at port 2's EDGE input on plane 2. -/
def edgeOut (t : State) : List (Nat × BitVec 2) := (t.srcAt (planeKey 2 (portRouter 2) 6)).map fun q => (q.beat.dst, q.beat.kind)

def h0 (ftype : Nat) : FHead := { ftype, vmask := 1, dmod := 0, smod := 9, addr := coreAddr 3 0x20000, core := 7, eng := 1 }

def pb0 : PBlock := { ctl := 64, data := 0x5A }

/-- To core 3; Daypack traffic; a place that is not decoded; a place in a list range, with room and without; no parcel at all. -/
theorem test_remote_writes :
    (nextIs (exec (.write 2) (edgeS (h0 1) [pb0])) fun t => t.mem.bytes = [] && (t.gport 2).edge = [] && edgeOut t = [(28, 0)] &&
      t.gl.writes.map (fun w => (w.id, w.left)) = [(0, 1)]) = true ∧
    (nextIs (exec (.write 2) (edgeS { h0 1 with dpk := true } [pb0])) fun t => t.trail.dpk.length = 1 && edgeOut t = []) = true ∧
    (nextIs (exec (.write 2) (edgeS { h0 1 with addr := 0x030000000000 } [pb0])) fun t => t.gl.writes = [] && t.sums.poison = 1 && edgeOut t = [(portRouter 4 * 8 + 6, 0)]) = true ∧
    (let s := edgeS (h0 1) [pb0]
     let s := { s with pack := { s.pack with ranges := [(coreAddr 3 0x20000, 32)] } }
     (nextIs (exec (.write 2) s) fun t => t.holdq.length = 1 && t.gl.writes = []) &&
       answers (exec (.write 2) { s with holdq := heldMany }) { s with holdq := heldMany }) = true ∧
    (nextIs (exec (.write 2) (edgeS { h0 1 with vmask := 0 } [])) fun t => edgeOut t = [(portRouter 4 * 8 + 6, 0)]) = true ∧
    (let w : RWrite := { id := 5, head := h0 1, port := 2, done := 0, left := 2 }
     let s := { routed State.reset with gl := { (routed State.reset).gl with writes := [w] } }
     (s.wrote (.remoteW 5)).gl.writes = [{ w with done := 1, left := 1 }] ∧ ((s.wrote (.remoteW 5)).wrote (.remoteW 5)).gl.writes = []) := by
  decide +kernel

/-- Over the Trail, over the Daypack path, and of a place that is not decoded; each flit is left alone by the other rows. -/
theorem test_remote_reads :
    (nextIs (exec (.readReq 2) (edgeS (h0 2) [])) fun t => edgeOut t = [(28, 1)] && (t.gport 2).edge = []) = true ∧
    (nextIs (exec (.readReq 2) (edgeS { h0 2 with dpk := true } [])) fun t => edgeOut t = [] && t.trail.dpk.length = 1) = true ∧
    (nextIs (exec (.readReq 2) (edgeS { h0 2 with addr := 0x030000000000 } [])) fun t => edgeOut t = [(portRouter 4 * 8 + 6, 0)] && t.sums.poison = 1) = true ∧
    ([(.write 2 : Instr), .readData 2, .node ⟨2, false, false⟩, .writeDone 2].all fun i => answers (exec i (edgeS (h0 2) [])) (edgeS (h0 2) [])) = true ∧
    (answers (exec (.readReq 2) (edgeS (h0 1) [pb0])) (edgeS (h0 1) [pb0])) = true := by decide +kernel

theorem test_remote_answers :
    (nextIs (exec (.readData 2) (edgeS (h0 3) [pb0])) fun t => edgeOut t = [(7 * 8 + 4, 0)]) = true ∧
    (let s := edgeS { h0 3 with dpk := true } [pb0]
     nextIs (exec (.readData 2) (s.setDpkq 7 [{ dpk0 with gaddr := globalKey 9 (coreAddr 3 0x20000) }])) fun t => t.trail.dpk.length = 1) = true ∧
    (let s := edgeS { h0 5 with addr := 64 } []
     nextIs (exec (.writeDone 2) (s.setEng 7 1 { Eng.reset with sent := [(0, globalKey 9 64, 3)] })) fun t => (t.eng 7 1).sent = []) = true ∧
    (let s := edgeS { h0 5 with vmask := 2, addr := 64, dpk := true } []
     nextIs (exec (.writeDone 2) (s.setDpkq 7 [{ dpk0 with out := true, gaddr := globalKey 9 64, len := 2 }])) (fun t => (t.dpkq 7).map (·.landed) = [2]) &&
       nextIs (exec (.writeDone 2) s) fun t => t.dpkq 7 = [] && (t.gport 2).edge = []) = true := by
  decide +kernel

/-- For core 3 of this module, on one plane and on both; for another module; with no route. -/
theorem test_remote_nodes :
    (let h : FHead := { h0 4 with vmask := 15, addr := 3 * 2 ^ 31 }
     let bs := List.replicate 4 pb0
     (nextIs (exec (.node ⟨2, true, false⟩) (edgeS h bs)) fun t => edgeOut t = [(28, 2)] &&
       (t.srcAt (planeKey 2 (portRouter 2) 6)).map (fun q => (q.beat.integer, q.beat.vmask)) = [(true, 15)]) &&
     (nextIs (exec (.node ⟨2, true, false⟩) (edgeS { h with vmask := 255 } (bs ++ bs))) fun t => edgeOut t = [(28, 2)] &&
       (t.srcAt (planeKey 3 (portRouter 2) 6)).length = 1) &&
     (nextIs (exec (.node ⟨2, true, false⟩) (edgeS { h with dmod := 9 } bs)) fun t => edgeOut t = [(portRouter 4 * 8 + 6, 2)]) &&
     (nextIs (exec (.node ⟨2, true, false⟩) ((edgeS { h with dmod := 9 } bs).setPort 4 GPort.reset)) fun t => t.gl.unroutable = 1 && edgeOut t = [])) = true := by
  decide +kernel

/-- SSEQ 255 is expected: it is acted on, 254 is acknowledged only, 1 is acted on out of order, and one with a wrong check does nothing. -/
theorem test_symbols :
    (let s := portS 2 { up0 with rxSseq := 255 }
     let r := fun (n : Nat) => s.takeSym 2 (symPayload 0x20 n 0) 0x20
     ((r 255).2 && ((r 255).1.gport 2).rxSseq = 0 && ((r 255).1.gport 2).ctlq = [(1, 0)] && !(r 254).2 && ((r 254).1.gport 2).ctlq = [(1, 0)] &&
       (r 1).2 && ((r 1).1.gport 2).seenSyms = [1] && ((r 1).1.gport 2).rxSseq = 255 &&
       decide (s.takeSym 2 (symPayload 0x20 255 0 ^^^ 1) 0x20 = (s, false)))) = true := by decide +kernel

/-- A module-wide channel 3 with its parent at port 1 and a child at port 2. -/
def mwK : CairnCh := { CairnCh.reset with parts := [0], mw := 0x41001 }

def mwS (k : CairnCh) : State := ((portS 2 up0).setPort 1 up0).setCairn 3 k

def barrierSym (ty gen step : Nat) : BitVec 256 := symPayload ty 0 (State.barrierFields 3 false false (BitVec.ofNat 16 gen) step)

theorem test_barrier_symbols :
    (State.mwOn mwK && State.mwChildren mwK = [2] && State.mwParent mwK = some 1) = true ∧
    (nextIs (exec (.arrive 2 (barrierSym 0x10 0 0)) (mwS mwK)) fun t => (t.cairnCh 3).childArr = [2]) = true ∧
    (nextIs (exec (.arrive 2 (barrierSym 0x10 1 0)) (mwS mwK)) fun t => (t.cairnCh 3).childEarly = [(2, false, false)]) = true ∧
    (nextIs (exec (.arrive 2 (barrierSym 0x10 5 0)) (mwS mwK)) fun t => decide (t.cairnCh 3 = mwK)) = true ∧
    (answers (exec (.arrive 2 (barrierSym 0x11 0 0)) (mwS mwK)) (mwS mwK)) = true ∧
    (let k := { mwK with mw := 0x1001 }
     (nextIs (exec (.release 1 (barrierSym 0x11 0 90)) (mwS k)) fun t => (t.cairnCh 3).release = some 90 && t.gl.lateRelease = 0) &&
     (nextIs (exec (.release 1 (barrierSym 0x11 0 0)) (mwS k)) fun t => (t.cairnCh 3).release = some 1 && t.gl.lateRelease = 1) &&
     (nextIs (exec (.release 1 (barrierSym 0x11 0 90)) (mwS { k with release := some 4 })) fun t => (t.cairnCh 3).release = some 4)) = true := by decide +kernel

/-- Channel 3 as a leaf of the tree, as its root, and not yet complete. -/
theorem test_module_wide_progress :
    (let k := { mwK with mw := 0x1001, arrived := [arr0], first := some 0 }
     (((mwS k).mwProgress 3).cairnCh 3).sentUp = true ∧ ((((mwS k).mwProgress 3).gport 1).syms.map (·.stype)) = [0x10] ∧
     (let r := { k with mw := 0x900000F001 }
      (((mwS r).mwProgress 3).cairnCh 3).release = some 0x90) ∧
     (mwS { k with arrived := [] }).mwProgress 3 = mwS { k with arrived := [] } ∧ (mwS { k with mw := 0 }).mwProgress 3 = mwS { k with mw := 0 }) := by
  decide +kernel

def treeS (master : Bool) : State :=
  let s := ((portS 2 { up0 with child := true }).setPort 1 { up0 with delay := 128 })
  { s with dict := { s.dict with val := [(0x500200, [if master then 1 else 0]), (0x501100, [1])] } }

def startSym (v t0 : Nat) : BitVec 256 := symPayload 0x21 0 (t0 * 2 ^ 176 + v * 2 ^ 112 + 900000 * 2 ^ 65)

theorem test_start :
    (let s := treeS false
     s.upstream = some 1 && s.startChildren = [2] && (nextIs (exec (.start 1 (startSym 5000 9000)) s) fun t => t.now = 5002 && t.pace.target = 900000 &&
       t.gl.tStart = some 9000 && (t.gport 2).syms.map (·.stype) = [0x21]) &&
     (nextIs (exec (.start 1 (startSym 5000 5002)) s) fun t => t.gl.startLate && t.gl.tStart = none) &&
     (nextIs (exec (.start 2 (startSym 5000 9000)) s) fun t => t.gl.tStart = none)) = true ∧
    (let s := (treeS true).setSeq 5 { q0 with inPack := true }
     (nextIs (exec .startRelease { s with gl := { s.gl with placed := true, tStart := some 0 } }) fun t => t.pack.state = .running && (t.seq 5).st = 1) &&
       ([(true, some 1), (false, some 0), (true, none)].all fun x =>
         let u := { s with gl := { s.gl with placed := x.1, tStart := x.2 } }
         answers (exec .startRelease u) u)) = true := by decide +kernel

theorem test_ready :
    (let placed := fun (s : State) => { s with gl := { s.gl with placed := true } }
     let ready := exec (.ready 2 (symPayload 0x20 0 0))
     (treeS true).isMaster && (nextIs (ready (placed (treeS true))) fun t => t.gl.tStart = some 65536 && (t.gport 2).ready) &&
     (nextIs (ready (placed (treeS false))) fun t => t.gl.sentReady && (t.gport 1).syms.map (·.stype) = [0x20]) &&
     (nextIs (ready (treeS true)) fun t => (t.gport 2).ready && t.gl.tStart = none) &&
     (nextIs (exec (.ready 2 (symPayload 0x20 200 0)) (placed (treeS true))) fun t => !(t.gport 2).ready)) = true := by decide +kernel

theorem test_time :
    (let s := atStep (portS 2 up0) 65536
     (nextIs (exec (.timeSend 2 0) s) fun t => (t.gport 2).ctlq.map (·.1) = [0x30] && (t.gport 2).lastTime = 65536) &&
       (answers (exec (.timeSend 2 0) (atStep s 65535)) (atStep s 65535))) = true ∧
    (let s := atStep (portS 2 { up0 with peerT1 := 5, peerAt := 640 }) 65536
     nextIs (exec (.timeSend 2 9) s) fun t => (t.gport 2).ctlq.map (fun x => bitsOf (t.symFields 2 x.1 x.2) 239 68) =
       [(65536 * 64 + 9) * 2 ^ 102 + 5 * 2 ^ 32 + (65536 * 64 + 9 - 640)]) = true ∧
    (let s := portS 2 up0
     (nextIs (exec (.time 2 (symPayload 0x30 0 (100 * 2 ^ 106 + 64 * 2 ^ 68 + 1 * 2 ^ 50 + 9 * 2 ^ 54)) 109 1) s) fun t => (t.gport 2).delay = 257 && (t.gport 2).master = 9) &&
     (nextIs (exec (.time 2 (symPayload 0x30 0 (0x3FFF * 2 ^ 54 + 2 ^ 53)) 109 1) s) fun t => (t.gport 2).delay = 0 && (t.gport 2).master = 0xFFFF && (t.gport 2).child) &&
     (answers (exec (.time 2 (symPayload 0x31 0 0) 0 0) s) s)) = true ∧
    (let s := { treeS false with gl := { (treeS false).gl with sync := 1 } }
     nextIs (exec .syncLock s) fun t => t.gl.sync = 2) = true ∧ (answers (exec .syncLock (treeS true)) (treeS true)) = true := by
  decide +kernel

theorem test_refin :
    (let s := { treeS true with dict := { (treeS true).dict with val := [(0x500200, [1]), (0x500300, [1])] } }
     s.usesRefin && nextIs (exec .refinLoss s) fun t => t.gl.refLost && t.rng.alerts.contains .refin) = true ∧
    (answers (exec .refinLoss (treeS false)) (treeS false)) = true ∧
    (let s := { State.reset with pwr := { State.reset.pwr with phase := .good } }
     nextIs (exec .refinReturn { s with rng := { s.rng with alerts := [.refin, .cool] }, gl := { s.gl with refLost := true } }) fun t => t.rng.alerts = [.cool] && !t.gl.refLost) = true := by
  decide +kernel

def rateS (master : Bool) (level : Nat) (sets : List (Nat × Nat × Bool)) : State :=
  let s := treeS master
  { s with gl := { s.gl with rateSets := sets }, pace := { s.pace with level } }

theorem test_rate_requests :
    (let rq := exec (.rateReq 2 (symPayload 0x40 0 0))
     (nextIs (rq (rateS true 0 [])) fun t => t.gl.rateSets = [(980000, 16384, true)] && (t.gport 2).syms.map (·.stype) = [0x41]) &&
     (nextIs (rq (rateS true 0 [(980000, 9, true)])) fun t => t.gl.rateSets = [(980000, 9, true)]) &&
     (nextIs (rq (rateS true 0 [(900000, 9, false)])) fun t => t.gl.rateSets = [(900000, 9, false), (882000, 16384, true)]) &&
     (nextIs (rq (rateS true 30 [])) fun t => t.gl.rateSets = [] && t.pace.floorHits = 1 && t.rng.alerts.contains .floorHit) &&
     (nextIs (rq (rateS false 0 [])) fun t => t.gl.rateSets = [] && (t.gport 1).syms.map (·.stype) = [0x40]) &&
     (nextIs (exec (.rateReq 1 (symPayload 0x40 0 0)) (rateS true 0 [])) fun t => t.gl.rateSets = [])) = true := by decide +kernel

theorem test_system_rates :
    (let sym := symPayload 0x41 0 (980000 * 2 ^ 219 + 50 * 2 ^ 155)
     (nextIs (exec (.rateSet 1 sym) (treeS false)) fun t => t.gl.rateSets = [(980000, 50, false)] && (t.gport 2).syms.map (·.stype) = [0x41]) &&
     (nextIs (exec (.rateSet 2 sym) (treeS false)) fun t => t.gl.rateSets = [])) = true ∧
    (nextIs (exec .rateSetApply (rateS false 0 [(980000, 0, false)])) fun t => t.pace.level = 1 && t.rate = 980000 && t.pace.cause = 4 && t.pace.log.length = 1) = true ∧
    (nextIs (exec .rateSetApply (rateS false 2 [(980000, 0, false)])) fun t => t.pace.level = 1 && t.pace.devCount = 0) = true ∧
    (nextIs (exec .rateSetApply (rateS false 1 [(700000, 0, false)])) fun t => t.pace.level = 1 && t.pace.target = 700000) = true ∧
    ([[(980000, 1, false)], []].all fun r => answers (exec .rateSetApply (rateS false 0 r)) (rateS false 0 r)) = true := by decide +kernel

/-! ## Pacing, power and cooling -/

def paceS (f : Pace → Pace) : State := { goodS with pace := f { goodS.pace with running := true } }

theorem test_step_permits :
    (nextIs (exec (.stepPermit true) (paceS fun p => { p with step := 2 ^ 64 - 1 })) fun t => t.pace.step = 0 && t.pace.overruns = 1 && t.log.stepDevs = (paceS id).deviations) = true ∧
    (nextIs (exec (.stepPermit false) goodS) fun t => t.pace.step = 0) = true := by decide

theorem test_damper_moves :
    (damp false 1000000 1 { code := 110, high := 0, pending := false, floorRun := 0 }).1.code = 114 ∧
    (damp false 1000000 2 { code := 113, high := 0, pending := false, floorRun := 0 }).1.code = 114 ∧
    (damp false 1000000 14 { code := 114, high := 0, pending := false, floorRun := 0 }).1.code = 114 ∧
    (damp false 1000000 15 { code := 114, high := 3, pending := false, floorRun := 0 }).1.code = 113 ∧
    (damp false 1000000 5 { code := 114, high := 0, pending := false, floorRun := 0 }).2 = true ∧
    (damp false 1000000 9 { code := 115, high := 0, pending := false, floorRun := 0 }).1.code = 114 := by decide

theorem test_damper_interval :
    (let s := paceS fun p => { p with step := 16384 }
     (nextIs (exec (.damperInterval (List.replicate 32 9)) s) fun t => t.pace.interval = 1 && t.pace.lowerings = []) &&
     (nextIs (exec (.damperInterval (List.replicate 32 9)) (paceS fun p => { p with step := 16384, blocks := List.replicate 32 { code := 114, high := 0, pending := false, floorRun := 0 } })) fun t => t.pace.lowerings = []) &&
     (nextIs (exec (.damperInterval (List.replicate 32 5)) (paceS fun p => { p with step := 16384, blocks := List.replicate 32 { code := 114, high := 0, pending := false, floorRun := 0 } })) fun t => t.pace.lowerings = [(3 * 16384, 1)]) &&
     (nextIs (exec (.damperInterval (List.replicate 32 5)) (paceS fun p => { p with step := 16384, target := 400000, blocks := List.replicate 32 { code := 114, high := 0, pending := false, floorRun := 0 } })) fun t =>
       t.pace.lowerings = [] && t.pace.floorHits = 1 && t.rng.alerts.contains .floorHit) &&
     illFormed (exec (.damperInterval []) s)) = true := by decide +kernel

def dlog (n : Nat) : DampEntry := { step := BitVec.ofNat 64 n, level := 0, cause := 1, hotspot := 0 }

theorem test_lowerings :
    (nextIs (exec .loweringApply (paceS fun p => { p with lowerings := [(0, 3)] })) fun t => t.pace.level = 1 && t.pace.cause = 3 && t.pace.devCount = 1 &&
      t.pace.log.map (fun e => (e.level, e.cause)) = [(1, 3)]) = true ∧
    (nextIs (exec .loweringApply (paceS fun p => { p with lowerings := [(1, 3)] })) fun t => t.pace.level = 0) = true ∧
    (nextIs (exec .loweringApply (paceS fun p => { p with lowerings := [(0, 3)], log := (List.range 64).map dlog })) fun t => t.pace.log.length = 64 &&
      t.pace.log.head? = some (dlog 1)) = true ∧
    State.dampBytes { step := 0x0102, level := 3, cause := 4, hotspot := 0x0560 } = [2, 1, 0, 0, 0, 0, 0, 0, 3, 4, 0x60, 5] ∧
    rateOf 1000000 0 = 1000000 ∧ rateOf 1000000 1 = 980000 ∧ 400000 ≤ rateOf 400001 1 := by decide +kernel

theorem test_rate_follows :
    (let hot := { paceS id with cool := { goodS.cool with hotspot := 1521 }, nowMs := 1000 }
     (nextIs (exec .thermalCheck hot) fun t => t.pace.lowerings = [(32768, 2)] && t.pace.lastThermal = 1000) &&
     (nextIs (exec .thermalCheck { hot with cool := { hot.cool with hotspot := 1520 } }) fun t => t.pace.lowerings = [])) = true ∧
    (nextIs (exec .stepTargetApply (paceS fun p => { p with targetAt := some (0, 900000) })) fun t => t.pace.target = 900000 && t.pace.targetAt = none) = true ∧
    (nextIs (exec .stepTargetApply (paceS fun p => { p with targetAt := some (1, 900000) })) fun t => t.pace.target = 1000000) = true ∧
    (let s := paceS id
     (nextIs (exec (.powerWindowEnd 2801) s) fun t => t.pace.lowerings = [(32768, 3)] && t.pwr.inputW = 2801) &&
     (nextIs (exec (.powerWindowEnd 2800) { s with dict := { s.dict with val := [(0x200200, leBytes 4 2500)] } }) fun t => t.pace.lowerings = [] && t.pwr.cap = 2500)) = true ∧
    (let s := { paceS fun p => { p with level := 3, blocks := List.replicate 32 { code := 100, high := 0, pending := false, floorRun := 0 } } with nowMs := 2000 }
     let s := { s with pwr := { s.pwr with windows := List.replicate 10 100 } }
     (s.mayRestore && nextIs (exec .rateRestore s) fun t => t.pace.level = 2 && t.pace.lastRestore = 2000)) = true := by decide +kernel

/-- A system at level 3 that may restore: its master sends the restored rate, another module only notes the time; heat there is asked for
upstream. -/
def sysR (master : Bool) : State :=
  let s := rateS master 3 []
  let low : VBlock := { code := 100, high := 0, pending := false, floorRun := 0 }
  { s with nowMs := 2000, gl := { s.gl with usesGl := true }, pack := { s.pack with state := .running },
           pwr := { s.pwr with windows := List.replicate 10 100 }, pace := { s.pace with running := true, blocks := List.replicate 32 low } }

theorem test_system_restores :
    ((sysR true).glRun && (sysR true).mayRestore && nextIs (exec .rateRestore (sysR true)) fun t => t.gl.rateSets = [(960000, 16384, false)] &&
      t.pace.level = 3 && t.pace.lastRestore = 2000) = true ∧
    (nextIs (exec .rateRestore (sysR false)) fun t => t.gl.rateSets = [] && t.pace.level = 3 && t.pace.lastRestore = 2000) = true ∧
    (let s := sysR false
     nextIs (exec .thermalCheck { s with cool := { s.cool with hotspot := 1521, owner := 1 } }) fun t => t.pace.lastThermal = 2000 &&
       t.pace.lowerings = [] && (t.gport 1).syms.map (·.stype) = [0x40]) = true := by decide +kernel

/-! ## Cooling, domains and power -/

def reading (t : Int) : CoolReading := { dies := List.replicate 64 t, inlet := some 300, outlet := some 320, flow := some 5000 }

/-- Every sensor's correction is 0. -/
def coolS (f : Cool → Cool) : State :=
  let s := paceS id
  { s with cool := f { s.cool with first := false, e := some 0, u := 100, duty := 50000 },
           dict := { s.dict with cal := (List.range 64).map fun i => (0xA00101 + i, [0, 0, 0, 0]) } }

/-- The target is 85 °C: 1,360 in 1/16 °C. -/
theorem test_coolant_loop :
    (nextIs (exec (.loopPeriodEnd (reading 1361)) (coolS id)) fun t => t.cool.hotspot = 1361 && t.cool.u = 100 + 8 * (1 - 0) + 1 && t.cool.alert = 0) = true ∧
    (nextIs (exec (.loopPeriodEnd { reading 1000 with flow := some 3999 }) (coolS id)) fun t => t.cool.alert.getLsbD 0 && t.rng.alerts.contains .cool && t.cool.u = 0) = true ∧
    (nextIs (exec (.loopPeriodEnd { reading 1000 with inlet := none }) (coolS fun c => { c with missed := [2, 0, 0] })) fun t => t.cool.alert.getLsbD 2 && t.cool.duty = 100000) = true ∧
    (let s := coolS fun c => { c with owner := 1 }
     nextIs (exec (.loopPeriodEnd (reading 1400)) { s with dict := { s.dict with val := [(0x201000, [1])] } }) fun t => t.cool.duty = 50000 && t.cool.u = 100) = true ∧
    illFormed (exec (.loopPeriodEnd { reading 0 with dies := [] }) (coolS id)) = true := by decide +kernel

/-- A trip outlives a cool reading without a reset, and a reset while a sensor is warm; a cool reading then releases it. -/
theorem test_thermal_release :
    (let s := coolS id
     let s := { s with pwr := { s.pwr with thermTrip := true, warm := true } }
     nextIs (exec (.loopPeriodEnd (reading 1000)) s) (fun t => t.pwr.thermTrip) &&
     nextIs (exec (.loopPeriodEnd (reading 1000)) { s with pwr := { s.pwr with tripReset := true } }) (fun t => !t.pwr.thermTrip) &&
     nextIs (exec (.loopPeriodEnd (reading 1600)) { s with pwr := { s.pwr with tripReset := true } }) (fun t => t.pwr.thermTrip)) = true := by decide +kernel

theorem test_domains_change :
    (nextIs (exec .thermalTrip goodS) fun t => t.pwr.thermTrip && t.pwr.trips = 1 && t.pwr.domains.getD 0 0 = 2 && t.pwr.domains.getD 43 0 = 0 && t.pwr.domains.getD 1 0 = 0) = true ∧
    (let s := { goodS with pwr := { goodS.pwr with thermTrip := true } }
     nextIs (exec .thermalTrip s) fun t => decide (t = s)) = true ∧
    (nextIs (exec .domainTransition { goodS with pwr := { goodS.pwr with domReq := some (1 :: List.replicate 43 1, 0) } }) fun t => t.pwr.domReq = none &&
      t.pwr.domains.getD 0 0 = 2 && t.pwr.domains.getD 43 0 = 1) = true ∧
    (let s := { goodS with rng := { goodS.rng with degraded := true }, pwr := { goodS.pwr with domReq := some (1 :: List.replicate 43 1, 0) } }
     nextIs (exec .domainTransition s) fun t => t.pwr.domains = [2, 1] ++ List.replicate 40 2 ++ [1, 1]) = true ∧
    (nextIs (exec .domainTransition goodS) fun t => decide (t = goodS)) = true := by decide +kernel

def phaseS (p : PwrPhase) (en rng : Bool) : State := { goodS with pwr := { goodS.pwr with phase := p, pwrEn := en, inRange := rng } }

theorem test_power_comes :
    (nextIs (exec .pwrEnRise (phaseS .off false true)) fun t => t.pwr.phase = .charging && t.pwr.pwrEn && t.pwr.chargeAt = 400) = true ∧
    (nextIs (exec .pwrEnRise (phaseS .off false false)) fun t => t.pwr.phase = .off && t.pwr.pwrEn) = true ∧
    (nextIs (exec .inputInRange (phaseS .off true false)) fun t => t.pwr.phase = .charging && t.pwr.inRange) = true ∧
    (nextIs (exec .inputInRange (phaseS .off false false)) fun t => t.pwr.phase = .off && t.pwr.inRange) = true ∧
    (nextIs (exec .pwrGoodRetry { phaseS .charging true true with nowMs := 1000 }) fun t => t.pwr.chargeAt = 1000) = true ∧
    (let st : Straps := { mstrSel := false, helrun := false, traySlot := 9 }
     let s := { phaseS .charging true true with nowMs := 100, mem := { bytes := [(5, 1)], side := [] } }
     (nextIs (exec (.pwrGoodRise st) s) fun t => t.pwr.phase = .good && t.pwr.goodAt = 100 && t.pwr.straps = st && t.mem.bytes = [] && t.rng.boot = .rom && t.pace.running) &&
     (nextIs (exec (.pwrGoodRise st) { s with pwr := { s.pwr with modResetLow := true } }) fun t => t.rng.boot = .held && !t.pace.running)) = true := by decide +kernel

theorem test_power_goes :
    ([(.pwrEnFall : Instr), .undervoltageTrip, .overvoltageTrip].all fun i => nextIs (exec i { phaseS .good true true with mem := { bytes := [(5, 1)], side := [] } }) fun t =>
      t.pwr.phase = .down && t.pwr.downAt = 400 && t.mem.bytes = [] && t.rng.boot = .unpowered) = true ∧
    (nextIs (exec .pwrEnFall (phaseS .charging true true)) fun t => t.pwr.phase = .off && !t.pwr.pwrEn) = true ∧
    (nextIs (exec .powerDownHoldEnd { phaseS .down false true with nowMs := 200 }) fun t => t.pwr.phase = .off) = true ∧
    (nextIs (exec .powerDownHoldEnd { phaseS .down false true with nowMs := 199 }) fun t => t.pwr.phase = .down) = true := by decide +kernel

theorem test_module_reset :
    (let s := goodS.setMem ((goodS.mem.setBytes 64 [1]).setBytes (coreAddr 0 0x20000) [1])
     let s := { s with dict := { s.dict with val := [(0x200100, [1])] }, log := { s.log with epoch := 7 } }
     nextIs (exec (.modResetNFall { mstrSel := true, helrun := false, traySlot := 1 }) s) fun t => t.rng.boot = .held && t.mem.byte 64 = 1 && t.mem.byte (coreAddr 0 0x20000) = 0 &&
       t.wimg.hash = 5 && t.dict.val = [] && t.log.epoch = 7 && t.pwr.domains = 2 :: List.replicate 43 0) = true ∧
    (let s := { goodS with rng := { goodS.rng with boot := .held }, pwr := { goodS.pwr with modResetLow := true } }
     nextIs (exec .modResetNRise s) fun t => t.rng.boot = .rom && t.pwr.goodAt = 400 && !t.pwr.modResetLow && t.pace.running) = true ∧
    (nextIs (exec .modResetNRise goodS) fun t => decide (t = goodS)) = true := by decide +kernel

def bootS (b : Boot) (level : Nat) (ms : Nat) : State :=
  { goodS with rng := { goodS.rng with boot := b, level }, nowMs := ms, fw := { goodS.fw with flash := [(0, [1, 2, 3])] } }

theorem test_timeline :
    (nextIs (exec .firmwareBootCheck (bootS .rom 0 40)) fun t => t.rng.boot = .recovery) = true ∧
    (nextIs (exec .firmwareBootCheck (bootS .rom 0 39)) fun t => t.rng.boot = .rom) = true ∧
    fwCheck 0 (bootS .rom 0 40).flashImage = some 0x0710 ∧
    (nextIs (exec .observerAccessStart (bootS .running 0 150)) fun t => t.rng.level = 1) = true ∧
    (let s := { bootS .running 1 1420 with pwr := { goodS.pwr with domains := List.replicate 43 2 ++ [0] } }
     (!s.mayRamp 43) && nextIs (exec (.domainRamp 43) s) fun t => t.pwr.domains.getD 43 0 = 0) = true ∧
    (let s := { bootS .running 0 124 with pwr := { goodS.pwr with domains := [2, 2] ++ List.replicate 42 0 } }
     (s.mayRamp 2) && nextIs (exec (.domainRamp 2) s) fun t => t.pwr.domains.getD 2 0 = 2 && t.pwr.domains.getD 3 0 = 0) = true ∧
    (nextIs (exec .basecampReady (bootS .running 2 6000)) fun t => t.rng.baseReady) = true ∧
    (nextIs (exec .basecampReady (bootS .running 2 5999)) fun t => !t.rng.baseReady) = true := by decide +kernel

def fullS : State :=
  let s := bootS .running 1 1400
  { s with mm := { s.mm with chans := (List.range 256).map fun k => (k, { Chan.reset with trained := k ≠ 9, failed := k = 9 }) } }

theorem test_all_trained : ((List.range 256).all fun k => (fullS.chan k).trained || (fullS.chan k).failed) = true := by decide +kernel

theorem test_full_service : nextIs (exec .fullParameterService fullS) (fun t => t.rng.level = 2) = true := by
  unfold exec execFullParameterService
  rw [if_pos]
  · rfl
  · exact ⟨by decide +kernel, Or.inl test_all_trained, by decide +kernel⟩

theorem test_restarts :
    (let s := { bootS .running 2 700000 with cool := { goodS.cool with duty := 5 } }
     (nextIs (exec (.rangerRestart .watchdog) { s with rng := { s.rng with restarts := [0, 100001, 100002] } }) fun t => t.rng.restarting && t.rng.restartCount = 1 &&
       t.cool.duty = 100000 && !t.rng.degraded) &&
     (nextIs (exec (.rangerRestart .sram) { s with rng := { s.rng with restarts := [100001, 100002, 100003] } }) fun t => t.rng.degraded && t.pwr.domains.getD 2 0 = 0 &&
       t.rng.alerts.contains .rangerRestarts) &&
     (nextIs (exec .rangerRestartDone { s with rng := { s.rng with restarting := true } }) fun t => !t.rng.restarting) &&
     (nextIs (exec .basecampHeartbeatMiss { s with pack := { s.pack with state := .running } }) fun t => t.rng.baseRestarts = 1 && t.pack.state = .halted) &&
     (nextIs (exec .basecampHeartbeatMiss s) fun t => t.rng.baseRestarts = 1 && decide (t.pack = s.pack))) = true := by decide +kernel

/-! ## The management port -/

def sess (r : Role) : Session :=
  { sid := 7, role := r, keyId := 3, peer := noPeer, confirmed := true, transcript := [], keys := 0, rxHigh := 9, rxSeen := [9], svcHigh := 9, svcSeen := [9],
    svcTx := 0, enc := false, last := 0, bw := none, bwResult := 0 }

/-- Ranger serves a session of a role. -/
def servS (r : Role) : State :=
  let s := bootS .running 2 5000
  { s with rng := { s.rng with sessions := [sess r], baseReady := true }, pace := { s.pace with running := true } }

def opQ (typ sub : Byte) (data : List Byte) : OpReq := { sid := 7, enc := false, typ, sub, offset := 0, data }

/-- Is the session of an operation served for a role code? -/
def servesB (s : State) (o : OpReq) (w : Nat) (b : Option BWrite) : Bool :=
  s.listening && !s.storing? && s.rng.level = 2 && !s.fwBusy && !s.rng.closeDue && o.sid ≠ 0 && (!s.encRequired || o.enc) &&
    (s.sessionOf o.sid).any fun k => k.confirmed && k.role ≠ .vendor && decide (w ≤ k.role.code) && k.bw = b

theorem servesB_spec {s : State} {o : OpReq} {w : Nat} {b : Option BWrite} (h : servesB s o w b = true) : s.servesIn o w b := by
  unfold servesB at h
  simp only [Bool.and_eq_true, decide_eq_true_eq, Bool.not_eq_true', Bool.or_eq_true, Option.any_eq_true] at h
  obtain ⟨⟨⟨⟨⟨⟨⟨a, b'⟩, c⟩, d⟩, e⟩, f⟩, g⟩, k, h1, ⟨⟨h2, h3⟩, h4⟩, h5⟩ := h
  refine ⟨a, b', c, d, e, f, fun hh => ?_, k, h1, h2, h3, h4, h5⟩
  rcases g with g | g
  · simp [hh] at g
  · exact g

/-- The last thing sent is this answer. -/
def said (o : OpReq) (code : W16) (data : List Byte) (t : State) : Bool := t.out = [.result o code 0 data]

theorem test_reads :
    servesB (servS .observer) (opQ 0 0 []) 0 none = true ∧
    (nextIs (exec (.read 0x1000 (opQ 0 6 [])) (servS .operator)) (said (opQ 0 6 []) 0 [0, 0])) = true ∧
    (nextIs (exec (.read 0x2001 (opQ 0 0 [])) (servS .operator)) (said (opQ 0 0 []) 0 [0x40, 0x42, 0x0F, 0])) = true ∧
    (nextIs (exec (.read 0x0FFF (opQ 0 0 [])) (servS .owner)) (said (opQ 0 0 []) 0x0102 [])) = true ∧
    (nextIs (exec (.read 0x8006 (opQ 0 0 [])) (servS .owner)) (said (opQ 0 0 []) 0x0105 [])) = true ∧
    (nextIs (exec (.read 0x2001 (opQ 0x11 0 [])) (servS .owner)) (said (opQ 0x11 0 []) 0x0201 [])) = true ∧
    (nextIs (exec (.read 0x2001 (opQ 0 0 [1])) (servS .owner)) (said (opQ 0 0 [1]) 0x0202 [])) = true ∧
    (nextIs (exec (.read 0x2001 (opQ 0 0 [])) (servS .observer)) (said (opQ 0 0 []) 0x0101 [])) = true := by decide +kernel

theorem test_segment_read :
    (nextIs (exec (.segmentRead 0x5010 { opQ 0 0 [] with offset := 8190 }) (servS .owner)) (said { opQ 0 0 [] with offset := 8190 } 0 [0xEE, 0xEE])) = true := by decide +kernel

theorem test_vendor_range :
    (nextIs (exec (.read 0xF000 (opQ 0 0 [])) (servS .owner)) (said (opQ 0 0 []) 0x0101 [])) = true ∧
    (match exec (.read 0xF000 (opQ 0 0 [])) (servS .vendor) with | .refused r => decide (r = .vendorRange) | _ => false) = true := by decide +kernel

/-- A core's control block is read over the Whistle: the read waits for the core's answer, or asks for the next register. -/
theorem test_control_block_reads :
    (nextIs (exec (.read 0x9003 (opQ 0 0 [])) (servS .operator)) fun t => t.out = [] && t.whistle.flits.length = 2 &&
      decide ((t.rng.store.map (·.1)) = some (.coreRead 0 [0] [] 4 none))) = true ∧
    (nextIs (exec (.segmentRead 0x9002 { opQ 0 0 [] with offset := 8 }) (servS .operator)) fun t => t.out = [] && t.whistle.flits.length = 2) = true ∧
    (let x : Op := { op := opRead, index := 0x9003, o := opQ 0 0 [] }
     let s := fun (left : List Nat) => { servS .operator with rng := { (servS .operator).rng with store := some (.coreRead 0 left [] 4 none, .single x) } }
     let got := fun (s : State) => { s with whistle := { s.whistle with bridge := [{ typ := 8, src := 0, dst := 0, bridge := true, body := [0, 0x0A, 0] }] } }
     let done := exec (.parameterStoreDone { dvUv := 0, vbMv := 0, inMv := 0 })
     answers (done (s [0])) (s [0]) && (nextIs (done (got (s [0]))) fun t => said x.o 0 [0x0A, 0, 0, 0] t && t.rng.store = none && t.whistle.bridge = []) &&
       (nextIs (done (got (s [0, 8]))) fun t => t.out = [] && t.whistle.flits.length = 2 && t.rng.store.map (·.1) = some (.coreRead 0 [8] [0x0A, 0, 0, 0] 4 none))) = true := by
  decide +kernel

/-- READ of 0x1000.06 outside a session, MSEQ 9. -/
def plainRead : List Byte := [0x50, 0x4B, 1, 1, 0, 0, 8, 0, 0, 0, 0, 0, 9, 0, 0, 0, 1, 0, 0x00, 0x10, 6, 0, 0, 0]

theorem test_requests :
    (nextIs (exec (.request noPeer plainRead { dvUv := 0, vbMv := 0, inMv := 0 }) (servS .owner)) fun t => t.out.length = 1 && t.out.all fun x => match x with
      | .kpp p q _ b tr => p = noPeer && q = portKpp && b = resultBytes 0 0 [0, 0] && tr = []
      | _ => false) = true ∧
    (nextIs (exec (.request noPeer [1] { dvUv := 0, vbMv := 0, inMv := 0 }) (servS .owner)) fun t => decide (t = servS .owner)) = true ∧
    (nextIs (exec (.request noPeer plainRead { dvUv := 0, vbMv := 0, inMv := 0 }) (bootS .rom 0 0)) fun t => t.out = []) = true ∧
    (let s := servS .owner
     nextIs (exec (.request noPeer plainRead { dvUv := 0, vbMv := 0, inMv := 0 }) { s with rng := { s.rng with store := some (.cal, .nobody) } }) fun t => t.out = [] && t.rng.rxq.length = 1) = true := by
  decide +kernel

/-! ## Writes of entries -/

/-- A bank of full energy, and one of too little. -/
def fullBank : Holdup := { dvUv := 100000, vbMv := 54000, inMv := 48000 }
def poorBank : Holdup := { dvUv := 100000, vbMv := 46001, inMv := 48000 }

/-- A row that writes an entry meets the conditions of `EntryWrites`, and its first answer is code, or its store begins. -/
def writesAs (s : State) (i : Instr) (code : Option W16) : Bool :=
  match entryWrite i with
  | none => false
  | some (index, o, _) =>
    match s.entry (index.toNat * 256 + o.sub.toNat) with
    | none => false
    | some e =>
      servesB s o e.wr none && e.size = some o.data.length && decide (index < 0xF000) && (e.acc = .rw || e.acc = .rws || e.acc = .wo) &&
        (s.touch o).checkWrite (index.toNat * 256 + o.sub.toNat) o.data = code &&
        nextIs (exec i s) fun t => match code with
          | some c => said o c [] t
          | none => if e.acc = .rws then t.out = [] && (match t.rng.store with | some (.entry k v, .single x) => k = index.toNat * 256 + o.sub.toNat && v = o.data && x = writeOf index o | _ => false)
            else said o 0 [] t

theorem test_entry_writes :
    ([(.stepTarget (opQ 0 0 (leBytes 4 900000)) fullBank : Instr), .powerCap (opQ 0 0 (leBytes 4 1200)) fullBank, .regulatorSplit (opQ 0 0 (leBytes 4 0x23B)),
      .slicePartition (opQ 0 0 (leBytes 4 0x408)), .domainRequest (opQ 0 0 (2 :: List.replicate 43 1)), .logbookMode (opQ 0 0 [2]) fullBank,
      .valveOwner (opQ 0 0 [1]) fullBank, .maintenance (opQ 0 0 [1]), .coreCtrl (opQ 0 0 (leBytes 4 3)), .coreSelect (opQ 0 0 (leBytes 2 2047)),
      .moduleId (opQ 0 6 (leBytes 2 16383)) fullBank, .vendorConsent (opQ 0 0 [1]) fullBank].map fun i => writesAs (servS .owner) i none) =
      List.replicate 12 true := by decide +kernel

set_option maxRecDepth 40000 in
theorem test_more_entry_writes :
    ([(.arrayRepairMap (opQ 0 0 (List.replicate 4095 0 ++ [0xBF])) fullBank : Instr), .coreRepairMap (opQ 0 0 (List.replicate 63 0 ++ [0x9F])) fullBank,
      .scoutThreshold (opQ 0 255 (leBytes 4 0x3F800000)), .scoutDisable (opQ 0 0 (List.replicate 32 0)),
      .calibrationEntry 0xA001 (opQ 0 64 (leBytes 4 0)), .calibrationEntry 0xA006 (opQ 0 0 (List.replicate 404 0)),
      .registerWrite 0x2001 (opQ 0 0 (leBytes 4 900000)) fullBank, .glRouteTable (opQ 0 0 (List.replicate 8192 0)) fullBank,
      .attestChallenge (opQ 0 0 (List.replicate 32 7))].map fun i => writesAs (servS .owner) i none) = List.replicate 9 true := by decide +kernel

theorem test_refused_writes :
    writesAs (servS .owner) (.stepTarget (opQ 0 0 (leBytes 4 399999)) fullBank) (some 0x0205) = true ∧
    writesAs (servS .owner) (.vendorConsent (opQ 0 0 [2]) fullBank) (some 0x0206) = true ∧
    writesAs { servS .owner with pack := { (servS .owner).pack with state := .running } } (.moduleId (opQ 0 6 [1, 0]) fullBank) (some 0x0305) = true ∧
    writesAs (servS .owner) (.logFetch (opQ 0 0 (leBytes 8 5))) (some 0x0205) = true ∧
    (nextIs (exec (.stepTarget (opQ 0 0 (leBytes 4 1000000)) fullBank) (servS .owner)) (said (opQ 0 0 (leBytes 4 1000000)) 0 [])) = true ∧
    (nextIs (exec (.stepTarget (opQ 0 0 (leBytes 4 900000)) { fullBank with inMv := 39999 }) (servS .owner)) fun t => said (opQ 0 0 (leBytes 4 900000)) 0x0403 [] t && t.rng.holdRefusals = 1) = true := by
  decide +kernel

/-- A segment of SCOUT_DISABLE, and one under a wrong TYPE. -/
theorem test_segment_writes :
    (nextIs (exec (.scoutDisable { opQ 0 0 [7] with offset := 3 }) (servS .owner)) fun t => said { opQ 0 0 [7] with offset := 3 } 0 [] t &&
      t.valueOf 0x303100 = [0, 0, 0, 7] ++ List.replicate 28 0) = true ∧
    (nextIs (exec (.scoutDisable { opQ 2 0 [7] with offset := 3 }) (servS .owner)) (said { opQ 2 0 [7] with offset := 3 } 0x0201 [])) = true := by decide +kernel

theorem test_unit_effects :
    (let t := (paceS id).applyWrite 0x301000 [4, 2, 0, 0]
     t.cacheWays = 4 ∧ t.pinWays = 2 ∧ t.slices = []) ∧
    (let s := (portS 2 up0).setPort 1 up0
     let t := s.applyWrite 0x501200 (leBytes 2 0xFFD)
     s.portEnabled 1 && t.gport 2 = up0 && (t.gport 1).state = 0 && ((t.applyWrite 0x501200 (leBytes 2 0xFFF)).gport 1).state = 1) = true ∧
    (let s := { sysR true with dict := { (sysR true).dict with val := [(0x500200, [1]), (0x501100, [1])] } }
     s.glRun = true ∧ (s.applyWrite 0x200100 (leBytes 4 900000)).gl.rateSets = [(900000, 16384, false)]) := by decide +kernel

theorem test_effects :
    (((paceS id).applyWrite 0x200100 (leBytes 4 900000)).pace.targetAt = some ((paceS id).dampStep, 900000) &&
      ((paceS id).applyWrite 0x203100 [2, 1]).pwr.domReq = some ([2, 1], 400) && isCalKey 0xA00140 && !isCalKey 0xA00141 &&
      Sparse.get [] ((paceS id).applyWrite 0xA00140 [1]).dict.staged 0xA00140 = [1] && ((paceS id).applyWrite 0x900100 [9, 0]).dict.coreSelect = 9 &&
      ((paceS id).applyWrite 0x900300 [3, 0, 0, 0]).whistle.flits.length = 4 && (((servS .vendor).applyWrite 0x702000 [0]).rng.sessions = []) &&
      decide ((paceS id).applyWrite 0x100006 [9, 0] = paceS id)) = true := by decide +kernel

def storeS (j : StoreJob) (f : StoreFor) : State :=
  let s := servS .owner
  { s with rng := { s.rng with store := some (j, f) } }

def op0 : Op := writeOf 0x2001 (opQ 0 0 (leBytes 4 900000))

theorem test_stores_complete :
    (nextIs (exec (.parameterStoreDone fullBank) (storeS (.entry 0x200100 (leBytes 4 900000)) (.single op0))) fun t => t.rng.store = none && said op0.o 0 [] t &&
      Sparse.get [] t.dict.stored 0x200100 = leBytes 4 900000 && Sparse.get [] t.dict.val 0x200100 = leBytes 4 900000) = true ∧
    (nextIs (exec (.parameterStoreDone fullBank) (storeS (.entry 0x100006 [9, 0]) (.single op0))) fun t => Sparse.get [] t.dict.stored 0x100006 = [9, 0] && t.dict.val = []) = true ∧
    (nextIs (exec (.parameterStoreDone fullBank) (storeS (.entry 0x602000 [1]) (.single op0))) fun t => t.log.epoch = 1) = true ∧
    (nextIs (exec (.parameterStoreDone fullBank) (storeS (.enrol 55) (.single op0))) fun t => t.dict.ownerKey = 55 && t.rng.sessions = [] && t.wimg.hash = 0) = true ∧
    (nextIs (exec (.parameterStoreDone fullBank) (storeS .cal (.single op0))) fun t => t.rng.store = none) = true ∧
    (nextIs (exec (.parameterStoreDone fullBank) (storeS .epochRoll .nobody)) fun t => t.log.epoch = 1 && t.out = []) = true ∧
    (nextIs (exec (.parameterStoreDone fullBank) (servS .owner)) fun t => decide (t = servS .owner)) = true := by decide +kernel

set_option maxRecDepth 40000 in
theorem test_param_defaults :
    (nextIs (exec (.paramDefaults (opQ 0 0 []) fullBank) (servS .owner)) fun t => t.out = [] && t.rng.store = some (.defaults, .single (commandOf 0x1020 (opQ 0 0 [])))) = true ∧
    (nextIs (exec (.paramDefaults (opQ 0 0 []) fullBank) { servS .owner with pack := { (servS .owner).pack with state := .running } }) (said (opQ 0 0 []) 0x0305 [])) = true ∧
    (let s := storeS .defaults (.single op0)
     let s := { s with dict := { s.dict with stored := [(0x200100, leBytes 4 900000), (0x701001, [7])], val := [(0x200100, leBytes 4 900000)] } }
     nextIs (exec (.parameterStoreDone fullBank) s) fun t => t.storedOf 0x200100 = leBytes 4 1000000 && Sparse.get [] t.dict.val 0x200100 = leBytes 4 1000000 &&
       Sparse.get [] t.dict.stored 0x701001 = [7] && t.rng.store = none && t.pace.targetAt.isSome) = true := by decide +kernel

theorem test_update_refuses :
    (let s := servS .owner
     let s := { s with fw := { s.fw with state := 3 } }
     let x := fun (op : Byte) (index : W16) => ({ op, index, o := opQ 0 0 [] } : Op)
     ([x opCommand 0x8006, x opWrite 0x2001, x opSegWrite 0x5010].all fun y => ((s.runOp y fullBank).any fun a => a.status = 0x0304 && a.job.isNone)) &&
     s.fwBusy && s.isRws 0x200100 && s.checkReady (x opCommand 0x7051) = none && s.checkReady (x opRead 0x2001) = none && s.checkReady (x opWrite 0x9001) = none) = true := by
  decide +kernel

def bwS (b : Option BWrite) : State :=
  let s := servS .owner
  { s with rng := { s.rng with sessions := [{ sess .owner with bw := b }] } }

def bwOf (t : State) : Option BWrite := (t.sessionOf 7).bind (·.bw)

theorem test_bundle_writes :
    (nextIs (exec (.bwOpen (opQ 0 0 [])) (bwS none)) fun t => bwOf t = some { members := [], failed := false }) = true ∧
    ([(.bwCommit (opQ 0 0 []) fullBank : Instr), .bwAbort (opQ 0 0 [])].all fun i => nextIs (exec i (bwS none)) (said (opQ 0 0 []) 0x0611 [])) = true ∧
    (let b : BWrite := { members := [(0x900100, [9, 0])], failed := false }
     (nextIs (exec (.bwAbort (opQ 0 0 [])) (bwS (some b))) fun t => bwOf t = none && t.dict.coreSelect = 0) &&
     (nextIs (exec (.bwOpen (opQ 0 0 [])) (bwS (some b))) (said (opQ 0 0 []) 0x0611 [])) &&
     (nextIs (exec (.bwCommit (opQ 0 0 []) fullBank) (bwS (some { b with failed := true }))) fun t => said (opQ 0 0 []) 0x0610 [] t && t.dict.coreSelect = 0) &&
     (nextIs (exec (.bwCommit (opQ 0 0 []) fullBank) (bwS (some b))) fun t => said (opQ 0 0 []) 0 [] t && t.dict.coreSelect = 9) &&
     (nextIs (exec (.bwCommit (opQ 0 0 []) fullBank) (bwS (some { b with members := [(0x200200, leBytes 4 1200)] }))) fun t => t.out = [] && t.rng.store.isSome) &&
     (nextIs (exec (.registerWrite 0x9001 (opQ 0 0 [8, 0]) fullBank) (bwS (some b))) fun t => bwOf t = some { members := [(0x900100, [8, 0])], failed := false } && t.dict.coreSelect = 0) &&
     servesB (bwS (some b)) (opQ 0 0 []) 1 (some b)) = true := by decide +kernel

/-! ## Images, firmware and packs -/

theorem test_image_segments :
    (let s := servS .owner
     (nextIs (exec (.packImage (opQ 0 0 [1, 2])) s) fun t => t.pack.image = [1, 2] && said (opQ 0 0 [1, 2]) 0 [] t) &&
     (nextIs (exec (.packImage { opQ 0 0 [3] with offset := 2 }) { s with pack := { s.pack with image := [1, 2] } }) fun t => t.pack.image = [1, 2, 3]) &&
     (nextIs (exec (.packImage { opQ 0 0 [3] with offset := 1 }) { s with pack := { s.pack with image := [1, 2] } }) (said { opQ 0 0 [3] with offset := 1 } 0x0202 [])) &&
     (nextIs (exec (.fwImage (opQ 0 0 [1, 2])) s) fun t => t.fw.staging = [1, 2] && t.fw.state = 1) &&
     (nextIs (exec (.wimgManifest (opQ 0 0 [1, 2])) s) fun t => t.wimg.manifest = [1, 2]) &&
     ([(.wimgManifest (opQ 0 0 [1]) : Instr), .wimgData (opQ 0 0 [1])].all fun i => nextIs (exec i { s with pack := { s.pack with state := .running } }) (said (opQ 0 0 [1]) 0x0305 []))) = true := by
  decide +kernel

theorem test_weight_images :
    (let s := servS .owner
     (nextIs (exec (.wimgData (opQ 0 0 [1])) s) (said (opQ 0 0 [1]) 0x0720 [])) && wmCheck s.dict.ownerKey [] = some 0x0720 &&
     (nextIs (exec (.wimgLoad (opQ 0 0 [])) { s with pack := { s.pack with state := .running } }) (said (opQ 0 0 []) 0x0305 [])) &&
     (nextIs (exec (.wimgLoad (opQ 0 0 [])) { s with wimg := { s.wimg with state := 1, data := [1] } }) (said (opQ 0 0 []) 0x030A [])) &&
     (nextIs (exec (.wimgLoad (opQ 0 0 [])) { s with wimg := { s.wimg with state := 1 } }) fun t => t.wimg.state = 2 && said (opQ 0 0 []) 0 [] t) &&
     (nextIs (exec .wimgHashComplete s) fun t => decide (t = s))) = true := by decide +kernel

/-- An image under a map receives into one region of 64 bytes at 256. -/
def loadS (chLocal : Byte) : State :=
  let s := servS .owner
  { s with wimg := { s.wimg with cur := List.replicate 6 0 ++ [chLocal, 0, 1] ++ List.replicate 0x57 0 ++ leBytes 8 256 ++ leBytes 8 64, state := 1 } }

/-- Under the map in force a parcel of the image goes to its home slice, under the other one to its channel. -/
theorem test_load_path :
    wmList (loadS 0).wimg.cur = [(256, 64)] ∧ (loadS 0).mm.map = wmMap (loadS 0).wimg.cur ∧ (loadS 1).mm.map ≠ wmMap (loadS 1).wimg.cur ∧
    ((loadS 0).loadSegment 32 (parcelBytes 7)).sliceMiss = (loadS 0).sliceMiss + 1 ∧
    lpddrAt (wmMap (loadS 1).wimg.cur) 288 = some (0, 288) ∧ ((loadS 1).loadSegment 32 (parcelBytes 7)).mem.byte 288 = 7 ∧
    (nextIs (exec (.wimgData { opQ 0 0 (parcelBytes 7) with offset := 5 }) (loadS 1)) (said { opQ 0 0 (parcelBytes 7) with offset := 5 } 0x0202 [])) = true ∧
    (let s := loadS 1
     nextIs (exec (.wimgData { opQ 0 0 (parcelBytes 7) with offset := 32 }) { s with wimg := { s.wimg with data := List.replicate 32 1 } }) fun t =>
       t.wimg.data.length = 64 && t.mem.byte 288 = 7 && t.wimg.state = 1) = true := by decide +kernel

def hashS : State := { servS .owner with wimg := { (servS .owner).wimg with state := 2 } }

/-- The hash of an image is the one expected, or it is not: each way it completes. -/
theorem test_weight_image_hash :
    hashS.wimg.data.length = wmLen hashS.wimg.cur ∧
    (wimgHash hashS.wimg.data = wmExpect hashS.wimg.cur → nextIs (exec .wimgHashComplete hashS) (fun t => t.wimg.state = 3) = true) ∧
    (wimgHash hashS.wimg.data ≠ wmExpect hashS.wimg.cur → nextIs (exec .wimgHashComplete hashS) (fun t => t.wimg.state = 4) = true) := by
  have h0 : ¬ (hashS.wimg.state ≠ 2 ∨ hashS.wimg.data.length ≠ wmLen hashS.wimg.cur) := by decide +kernel
  refine ⟨by decide +kernel, fun h => ?_, fun h => ?_⟩ <;> simp only [exec, execWimgHashComplete, if_neg h0] <;> simp [nextIs, h]

theorem test_firmware_install :
    (let s := servS .owner
     (nextIs (exec (.fwInstall (opQ 0 0 []) fullBank) s) (said (opQ 0 0 []) 0x030A [])) &&
     (nextIs (exec (.fwInstall (opQ 0 0 []) fullBank) { s with pack := { s.pack with state := .running } }) (said (opQ 0 0 []) 0x0305 [])) &&
     (nextIs (exec (.fwInstall (opQ 0 0 []) fullBank) { s with fw := { s.fw with state := 1 } }) fun t => said (opQ 0 0 []) 0x0710 [] t && t.fw.state = 2)) = true := by decide +kernel

def st0 : Straps := { mstrSel := false, helrun := true, traySlot := 3 }

def fwS (block refused : Nat) : State :=
  let s := servS .owner
  { s with fw := { s.fw with state := 3, block, refused, staging := [9, 9, 9, 9, 9, 9, 9, 9, 4, 0, 4, 0] } }

def emptyBank : Holdup := { dvUv := 100000, vbMv := 36000, inMv := 48000 }

theorem test_firmware_blocks :
    fwBlocks (fwS 1 0).fw.staging = 2 ∧
    (nextIs (exec (.fwBlockWrite ⟨fullBank, st0⟩) (fwS 1 0)) fun t => t.fw.block = 0 && t.fw.state = 3 && t.fw.refused = 0) = true ∧
    (nextIs (exec (.fwBlockRetry ⟨fullBank, st0⟩) (fwS 0 3)) fun t => Sparse.get [] t.fw.flash 0 = [9, 9, 9, 9, 9, 9, 9, 9, 4, 0, 4, 0] && t.rng.boot = .rom && t.rng.sessions = []) = true ∧
    (nextIs (exec (.fwBlockWrite ⟨poorBank, st0⟩) (fwS 1 0)) fun t => t.fw.refused = 1 && t.fw.retryAt = 6000 && t.fw.state = 3) = true ∧
    (nextIs (exec (.fwBlockRetry ⟨poorBank, st0⟩) (fwS 1 9)) fun t => t.fw.state = 5 && t.rng.alerts.contains .fwAbandoned) = true ∧
    (nextIs (exec (.fwBlockWrite ⟨fullBank, st0⟩) (fwS 1 1)) fun t => t.fw.block = 1) = true := by decide +kernel

def recS (block : Nat) (buf : List Byte) : State :=
  let s := bootS .recovery 0 100
  { s with fw := { s.fw with recBlock := block, recBuf := buf, recZero := [9, 9, 9, 9, 9, 9, 9, 9, 2, 0, 8, 0] } }

def recData (block off : Nat) (d : List Byte) : List Byte :=
  [0x52, 0x4B, 1, 0] ++ leBytes 2 block ++ [0, 0] ++ leBytes 4 off ++ leBytes 2 d.length ++ [0, 0] ++ d

theorem test_recovery_loader :
    (nextIs (exec (.recoveryQuery noPeer ([0x52, 0x4B, 2, 0] ++ List.replicate 12 0)) (recS 3 [1])) fun t => t.out = [.recovery noPeer (recoveryReply 3 1 0 0)]) = true ∧
    (nextIs (exec (.recoveryData noPeer (recData 3 0 [7]) ⟨fullBank, st0⟩) (recS 3 [1])) fun t => t.out = [.recovery noPeer (recoveryReply 3 1 0x0710 0)]) = true ∧
    recoveryLen [9, 9, 9, 9, 9, 9, 9, 9, 2, 0, 8, 0] 2 = 2 ∧
    (nextIs (exec (.recoveryData noPeer (recData 2 0 [7]) ⟨fullBank, st0⟩) (recS 2 [])) fun t => t.fw.recBuf = [7] && t.out = [.recovery noPeer (recoveryReply 2 1 0 0)]) = true ∧
    (nextIs (exec (.recoveryData noPeer (recData 2 1 [7]) ⟨poorBank, st0⟩) (recS 2 [1])) fun t => t.fw.recBuf = [] && t.fw.recBlock = 2 &&
      t.out = [.recovery noPeer (recoveryReply 2 0 0x0401 1000)]) = true ∧
    (nextIs (exec (.recoveryQuery noPeer []) (servS .owner)) fun t => decide (t = servS .owner)) = true := by decide +kernel

/-- A block 0 whose header is bad; and the conditions of a last block, whose body's hash is uninterpreted. -/
theorem test_recovery_ends :
    (nextIs (exec (.recoveryData noPeer (recData 0 8191 [7]) ⟨fullBank, st0⟩) (recS 0 ([9, 9, 9, 9, 9, 9, 9, 9, 0, 0x20, 0, 0] ++ List.replicate 8179 0))) fun t => t.fw.recBuf = [] &&
      t.fw.recBlock = 0 && t.out = [.recovery noPeer (recoveryReply 0 0 0x0710 0)]) = true ∧
    (recoveryLen (recS 2 [1]).fw.recZero 2 = ([1] ++ slice (recData 2 1 [7]) 16 1).length ∧ fwBlocks (recS 2 [1]).fw.recZero ≤ 3 ∧
      holdCode fullBank 900 = none ∧ recoveryOk (recData 2 1 [7]) 0x01 = true) := by decide +kernel

theorem test_packs_install :
    (let s := servS .owner
     (nextIs (exec (.packInstall (opQ 0 0 [])) s) fun t => t.pack.state = .checking && said (opQ 0 0 []) 0 [] t) && s.installCheck = none &&
     (nextIs (exec (.packInstall (opQ 0 0 [])) { s with wimg := { s.wimg with hash := 0 } }) (said (opQ 0 0 []) 0x0309 [])) &&
     (nextIs (exec (.packInstall (opQ 0 0 [])) { s with pack := { s.pack with state := .running } }) (said (opQ 0 0 []) 0x0305 [])) &&
     (nextIs (exec .packCheckComplete { s with pack := { s.pack with state := .checking } }) fun t => t.pack.state = .none && t.pack.result ≠ 0) &&
     (nextIs (exec .packCheckComplete s) fun t => decide (t = s))) = true := by decide +kernel

/-- A pack of one core, 9, whose instruction list is HALT, and one slot table that takes a beat at a router's EDGE input; at router (2, 0)
it is a service slot. -/
def packAt (router : Nat) : List Byte :=
  List.replicate 12 0 ++ [2] ++ List.replicate 243 0 ++
  (leBytes 4 5 ++ leBytes 4 1 ++ leBytes 8 0x140 ++ leBytes 8 16 ++ List.replicate 8 0) ++
  (leBytes 4 2 ++ leBytes 4 1 ++ leBytes 8 0x150 ++ leBytes 8 16 ++ List.replicate 8 0) ++
  (leBytes 8 (1 + 2 * 64 + router * 256 + 4 * 2 ^ 19 + 2 ^ 32) ++ leBytes 8 0x7000) ++
  (leBytes 8 (9 + 2 ^ 16) ++ leBytes 8 0x4F00000000000000)

def pack0 : List Byte := packAt 128

def packS (st : PackState) : State :=
  let s := servS .owner
  { s with pack := { s.pack with installed := pack0, state := st }, wimg := { s.wimg with hash := 0 } }

set_option maxRecDepth 40000 in
theorem test_packs_start :
    (packCores pack0 = [9] && serviceSlots pack0 && State.portsUsed pack0 = []) = true ∧
    (nextIs (exec (.packStart (opQ 0 0 []) fullBank) (packS .installed)) fun t => t.pack.state = .running && (t.seq 9).st = 1 && said (opQ 0 0 []) 0 [] t) = true ∧
    (nextIs (exec (.packStart (opQ 0 0 []) fullBank) (packS .none)) (said (opQ 0 0 []) 0x030A [])) = true ∧
    (nextIs (exec (.packStart (opQ 0 0 []) fullBank) (packS .running)) (said (opQ 0 0 []) 0x0305 [])) = true ∧
    (let s := packS .installed
     nextIs (exec (.packStart (opQ 0 0 []) fullBank) { s with dict := { s.dict with val := [(0x602000, [1])] } }) fun t => t.out = [] && t.pack.state = .installed &&
       t.rng.store = some (.epochStart, .single (commandOf 0x8006 (opQ 0 0 [])))) = true ∧
    (let s := packS .installed
     let s := { s with wimg := { s.wimg with hash := 7 } }
     s.startCheck = some 0x0504 && nextIs (exec (.packStart (opQ 0 0 []) fullBank) s) fun t => t.pack.result = 0x0504 && t.pack.state = .installed &&
       said (opQ 0 0 []) 0x0504 [] t) = true ∧
    (let s := packS .installed
     let s := { s with pack := { s.pack with installed := packAt (portRouter 4) }, gl := { s.gl with sync := 2 } }
     State.portsUsed s.pack.installed = [4] && nextIs (exec (.packStart (opQ 0 0 []) fullBank) s) fun t => t.gl.usesGl && t.gl.placed &&
       t.pack.state = .installed && (t.seq 9).st = 0) = true := by decide +kernel

theorem test_packs_halt :
    (let s := (packS .running).setSeq 9 { q0 with st := 1, inPack := true }
     (nextIs (exec (.packHalt (opQ 0 0 [])) s) fun t => t.pack.state = .halted && (t.seq 9).st = 4 && said (opQ 0 0 []) 0 [] t) &&
     (nextIs (exec .packFatalHalt { s with rng := { s.rng with packFatalAt := some 0 } }) fun t => t.pack.state = .halted) &&
     !s.allHalted && (nextIs (exec .packFatalHalt { s with rng := { s.rng with packFatalAt := some 1 } }) fun t => t.pack.state = .running) &&
     (nextIs (exec .packFatalHalt s) fun t => decide (t = s)) &&
     (nextIs (exec (.packHalt (opQ 0 0 [])) (servS .owner)) (said (opQ 0 0 []) 0x030A []))) = true := by decide +kernel

theorem test_fabric_resets :
    (let s := servS .owner
     (nextIs (exec (.fabricReset (opQ 0 0 [])) s) fun t => t.rng.fabReset && t.pwr.domains.getD 37 0 = 0 && t.pwr.domains.getD 38 0 = 1 && t.pwr.domains.getD 42 0 = 2) &&
     (nextIs (exec (.fabricReset (opQ 0 0 [])) { s with rng := { s.rng with degraded := true } }) (said (opQ 0 0 []) 0x0308 [])) &&
     (nextIs (exec (.fabricReset (opQ 0 0 [])) { s with rng := { s.rng with fabReset := true } }) (said (opQ 0 0 []) 0x030A [])) &&
     (nextIs (exec (.fabricResetComplete true true) s) fun t => decide (t = s)) &&
     (nextIs (exec (.fabricResetComplete true true) { s with rng := { s.rng with fabReset := true } }) fun t => !t.rng.fabReset && t.pwr.domains.getD 41 0 = 2) &&
     (let u := s.setChan 9 { (s.chan 9) with failed := true }
      u.channelFailed && nextIs (exec (.fabricResetComplete false false) { u with rng := { u.rng with fabReset := true } }) fun t => t.rng.degraded && t.pwr.domains.getD 41 0 = 0)) = true := by
  decide +kernel

theorem test_calibration :
    (let s := servS .owner
     (nextIs (exec (.calStore (opQ 0 0 [0]) fullBank) s) fun t => t.rng.store = some (.cal, .single (commandOf 0xA010 (opQ 0 0 [0])))) &&
     (nextIs (exec (.calStore (opQ 0 0 [4]) fullBank) s) (said (opQ 0 0 [4]) 0x0206 [])) &&
     (nextIs (exec (.selfCal (opQ 0 0 [7])) s) fun t => t.dict.selfCal = some 7) && (nextIs (exec (.selfCal (opQ 0 0 [8])) s) (said (opQ 0 0 [8]) 0x0206 [])) &&
     (nextIs (exec (.selfCal (opQ 0 0 [7])) { s with pack := { s.pack with state := .running } }) (said (opQ 0 0 [7]) 0x0305 [])) &&
     (nextIs (exec (.arrayDiag (opQ 0 0 (leBytes 2 2047))) s) fun t => t.dict.diag = some 2047) &&
     (nextIs (exec (.arrayDiag (opQ 0 0 (leBytes 2 2048))) s) (said (opQ 0 0 (leBytes 2 2048)) 0x0205 []))) = true := by decide +kernel

theorem test_calibration_ends :
    (let s := servS .owner
     (nextIs (exec (.selfCalDone fullBank) { s with dict := { s.dict with selfCal := some 4 } }) fun t => leNat (Sparse.get [] t.dict.staged 0xA00300) = 2000 && t.dict.selfCal = none) &&
     (nextIs (exec (.selfCalDone fullBank) s) fun t => decide (t = s)) &&
     (nextIs (exec (.arrayDiagDone [(64, 64)]) { s with dict := { s.dict with diag := some 5 } }) fun t => t.dict.diag = none && t.dict.diagResult.take 3 = [5, 0, 1]) &&
     illFormed (exec (.arrayDiagDone [(65, 0)]) s)) = true := by decide +kernel

/-! ## The service -/

/-- A message of the session with its trailer of R414, which is uninterpreted. -/
def sealed (typ : Byte) (body : List Byte) : List Byte :=
  let h := [0x50, 0x4B, 1, typ, 0, 0] ++ leBytes 2 body.length ++ leBytes 4 7 ++ leBytes 4 20
  h ++ body ++ beBytes 32 (Config.hmacSm3 (sess .operator).macIn (h ++ body)).toNat

def sealedMsg (typ : Byte) (body : List Byte) : Msg :=
  let h := [0x50, 0x4B, 1, typ, 0, 0] ++ leBytes 2 body.length ++ leBytes 4 7 ++ leBytes 4 20
  { typ, enc := false, role := 0, sid := 7, mseq := 20, header := h, body, trailer := beBytes 32 (Config.hmacSm3 (sess .operator).macIn (h ++ body)).toNat }

theorem openBody_sealed (k : Session) (hk : k.macIn = (sess .operator).macIn) (typ : Byte) (body : List Byte) :
    openBody k (sealedMsg typ body) = some body := by
  have h : BitVec.ofNat 256 (beNat (beBytes 32 (Config.hmacSm3 (sess .operator).macIn
      (([0x50, 0x4B, 1, typ, 0, 0] ++ leBytes 2 body.length ++ leBytes 4 7 ++ leBytes 4 20) ++ body)).toNat)) =
      Config.hmacSm3 (sess .operator).macIn (([0x50, 0x4B, 1, typ, 0, 0] ++ leBytes 2 body.length ++ leBytes 4 7 ++ leBytes 4 20) ++ body) := by
    rw [beNat_beBytes, Nat.mod_eq_of_lt, BitVec.ofNat_toNat, BitVec.setWidth_eq]
    exact (Config.hmacSm3 _ _).isLt
  unfold openBody sealedMsg
  simp only [Bool.false_eq_true, if_false, hk]
  rw [if_pos h]

/-- SUBMIT of one request of 2 bytes for service 3 of this module. -/
def submitBody (svc : Byte) (target : Nat) (frag : List Byte) : List Byte :=
  leBytes 8 55 ++ [svc, 0] ++ leBytes 2 target ++ leBytes 4 2 ++ leBytes 4 0 ++ frag

def svcS : State :=
  let s := packS .running
  { s with rng := { s.rng with sessions := [sess .operator] }, svc := { s.svc with table := [(3, some { ch := 2, input := coreAddr 1 0x20000, output := coreAddr 1 0x30000, inMax := 64, outMax := 64 })] } }

/-- The state once the sealed message has been accepted. -/
def accepted : State := svcS.setSession { sess .operator with svcHigh := 20, svcSeen := [9, 9], last := 5000 }

theorem accept_sealed (typ : Byte) (body : List Byte) :
    svcS.accept (sealedMsg typ body) true = (accepted, some ({ sess .operator with svcHigh := 20, svcSeen := [9, 9], last := 5000 }, body)) := by
  have h1 : svcS.sessionOf (sealedMsg typ body).sid = some (sess .operator) := by rfl
  unfold State.accept
  rw [h1]
  have h3 : (sealedMsg typ body).mseq = 20 := rfl
  simp only [openBody_sealed (sess .operator) rfl typ body, h3]
  rw [if_neg (by decide), if_neg (by decide)]
  rfl

theorem test_submit_is_read :
    svcS.serviceMsg 0x20 (sealed 0x20 (submitBody 3 0xFFFF [1, 2])) = some (sealedMsg 0x20 (submitBody 3 0xFFFF [1, 2])) := by rfl

theorem test_submits :
    (parseSubmit (submitBody 3 0xFFFF [1, 2])).any (fun q => q.reqId = 55 && q.svc = 3 && q.target = 0xFFFF && q.total = 2 && q.off = 0 && q.frag = [1, 2]) = true ∧
    (parseSubmit (submitBody 3 0xFFFF [1])).map (fun q => (q.total, q.off, q.frag)) = some (2, 0, [1]) ∧
    (let r : Req := { sid := 7, peer := noPeer, reqId := 55, svc := 3, total := 2, data := [], origin := 0, since := 5000 }
     accepted.submitCheck r = none ∧ accepted.submitCheck { r with svc := 4 } = some 0x0303 ∧ accepted.reqPending r = false ∧ svcS.fwBusy = false ∧ svcS.ownId ≠ 5) := by
  decide +kernel

def req0 : Req := { sid := 7, peer := noPeer, reqId := 55, svc := 3, total := 2, data := [1, 2], origin := 0, since := 0 }

theorem test_submit_ends :
    (nextIs (exec (.submit noPeer [1]) svcS) fun t => decide (t = svcS)) = true ∧
    (nextIs (exec (.submitFragmentTimeout 7 55) { svcS with svc := { svcS.svc with frags := [{ req := { req0 with since := 4000 }, got := [] }, { req := { req0 with since := 4001 }, got := [] }] } }) fun t =>
      t.svc.frags.map (fun g => g.req.since) = [4001]) = true ∧
    (nextIs (exec (.fetchWindowExpiry 7 55) { svcS with nowMs := 10000, svc := { svcS.svc with kept := [{ req := req0, seq := 1, status := 0, data := [], record := [], closed := 0 }] } }) fun t => t.svc.kept = []) = true ∧
    (nextIs (exec (.fetch noPeer [1]) svcS) fun t => decide (t = svcS)) = true := by decide +kernel

theorem test_fetch_is_read :
    svcS.serviceMsg 0x23 (sealed 0x23 (leBytes 8 55)) = some (sealedMsg 0x23 (leBytes 8 55)) ∧ 8 ≤ (leBytes 8 55).length := ⟨by rfl, by decide⟩

/-- Before Basecamp is ready a message of no session is answered all the same. -/
theorem test_submit_before_ready :
    (let s := { svcS with rng := { svcS.rng with baseReady := false, sessions := [] } }
     (s.accept (sealedMsg 0x20 (submitBody 3 0xFFFF [1, 2])) true).2.isNone) = true := by decide +kernel

def svcHead (kind : Nat) (status : Nat) : BitVec 256 :=
  bytesParcel ([BitVec.ofNat 8 kind] ++ leBytes 8 55 ++ leBytes 2 9 ++ [3] ++ leBytes 4 32 ++ leBytes 4 0 ++ leBytes 8 0 ++ leBytes 2 status ++ [0, 0])

def svcEdge (bs : List PBlock) : State :=
  svcS.setPort 2 { GPort.reset with state := 3, edge := [{ header := FHead.bits { ftype := 6, vmask := if bs.length = 1 then 1 else 3, dmod := 0, smod := 9, addr := 0 }, blocks := bs }] }

theorem test_forwarded :
    (nextIs (exec (.service 2) (svcEdge [{ ctl := 64, data := svcHead 1 0 }, { ctl := 64, data := 0x0201 }])) fun t =>
      t.svc.waiting.map (fun r => (r.reqId, r.origin, r.data.take 3)) = [(55, 9, [1, 2, 0])]) = true ∧
    ([(3, 0x0303, [], 1), (3, 0, [true], 1), (2, 5, [false], 1), (4, 0, [true], 0)].all fun x : Nat × Nat × List Bool × Nat =>
      let s := svcEdge [{ ctl := 64, data := svcHead x.1 x.2.1 }, { ctl := 64, data := 0x0201 }]
      nextIs (exec (.service 2) { s with svc := { s.svc with fwd := [(req0, true)] } }) fun t => t.svc.fwd.map (·.2) = x.2.2.1 && t.out.length = x.2.2.2) = true ∧
    (let s := svcEdge [{ ctl := 64, data := svcHead 3 0 }]
     nextIs (exec (.service 2) s) fun t => t.out = [] && (t.gport 2).edge = []) = true ∧
    (answers (exec (.service 2) svcS) svcS) = true := by decide +kernel

def waitS (count : Nat) : State := { svcS with svc := { svcS.svc with waiting := [req0] }, log := { svcS.log with count } }

/-- A channel that admits request `req0`. -/
def admS (left : Nat) (seq : Option W64) (count : Nat) : State :=
  let s := waitS count
  { s with svc := { s.svc with waiting := [], adm := [{ ch := 2, req := req0, slot := coreAddr 1 0x20000, left, seq }] } }

theorem test_admission_begins :
    ((waitS 8).nextFor 2).isSome = true ∧ (waitS 8).mayAdmit 2 = true ∧
    (nextIs (exec (.admission 2) (waitS 8)) fun t => t.svc.waiting = [] && t.log.count = 8 && t.svc.adm.map (fun x => (x.ch, x.left, x.seq)) = [(2, 1, none)] &&
      (t.srcAt slotKey).map (fun q => (q.beat.dst, q.beat.hdr, q.beat.ps.map (·.data))) = [(12, 0x20000060020, [0x201])]) = true ∧
    (let s := { waitS 8 with svc := { (waitS 8).svc with waiting := [{ req0 with total := 0, data := [] }] } }
     nextIs (exec (.admission 2) s) fun t => t.log.count = 9 && t.svc.adm.map (fun x => (x.left, x.seq)) = [(0, some 8)] &&
       (t.srcAt slotKey).map (fun q => (q.beat.hdr, q.beat.ps.map (·.data))) = [(0x20000060000, [8])]) = true ∧
    ([({ waitS (2 ^ 40) with nowMs := 7 }, 2), ({ waitS 8 with rng := { (waitS 8).rng with baseReady := false } }, 2), (waitS 8, 3)].all fun x : State × BitVec 4 =>
      answers (exec (.admission x.2) x.1) x.1) = true := by decide +kernel

theorem test_admission_goes_on :
    (nextIs (exec (.admission 2) (admS 0 none 8)) fun t => t.log.count = 9 && t.svc.adm.map (·.seq) = [some 8] && (t.srcAt slotKey).length = 1) = true ∧
    ([admS 1 none 8, admS 0 (some 8) 9, admS 0 none (2 ^ 40)].all fun s => answers (exec (.admission 2) s) s) = true ∧
    ((admS 2 none 8).wrote (.slotW 2)).svc.adm.map (·.left) = [1] ∧
    (let t := (admS 0 (some 8) 9).wrote (.slotW 2)
     t.log.lastSeq = 8 ∧ t.svc.adm = [] ∧ (Sparse.get none t.log.open_ 2).map (fun o => (o.seq, o.admitted, o.mode)) = some (8, 0, 0) ∧ t.out.length = 1) := by
  decide +kernel

theorem test_epochs :
    (nextIs (exec (.epochRollover fullBank) (waitS (2 ^ 40))) fun t => t.rng.store = some (.epochRoll, .nobody) && t.rng.alerts.contains .epochWait) = true ∧
    (admS 0 none (2 ^ 40)).epochWaits = true ∧
    (nextIs (exec (.epochRollover { fullBank with inMv := 0 }) (waitS (2 ^ 40))) fun t => t.rng.store = none && t.log.retryAt = 6000) = true ∧
    (answers (exec (.epochRollover fullBank) (waitS 8)) (waitS 8)) = true := by decide +kernel

def open0 : OpenRes := { req := req0, seq := 8, admitted := 0, settings := 0, train := 0, input := 0, devs := [], mode := 0, scout := [], scoutDis := 0 }

/-- Channel 2 has an open result of a mode. -/
def openS (mode : Nat) : State := { svcS with log := { svcS.log with open_ := [(2, some { open0 with mode })] } }

/-- The service path reads parcel i of the output slot for channel 2. -/
def slotRead (i : Nat) : SReq :=
  { wr := false, addr := coreAddr 1 0x30000 + 32 * i, mask := 0, data := 0, poison := false, cclass := 0, check := none, who := .slotR 2 i 8, sees := none, src := none }

/-- An output header of a SEQ, status 5 and a length, as parcel i of the slot. -/
def outHead (seq len : Nat) : Parcel := madeParcel (bytesParcel (leBytes 8 seq ++ leBytes 2 5 ++ leBytes 4 len)) 0 (coreAddr 1 0x30000)

theorem test_header_polls :
    (nextIs (exec (.outputHeaderPoll 2) (openS 0)) fun t => (t.srcAt slotKey).map (fun q => (q.beat.kind, q.beat.hdr.toNat % 2 ^ 42, q.beat.dst)) =
      [(1, coreAddr 1 0x30000 % 2 ^ 42, 12)]) = true ∧
    ((answers (exec (.outputHeaderPoll 2) (atStep (openS 0) 4095)) (atStep (openS 0) 4095)) && answers (exec (.outputHeaderPoll 1) (openS 0)) (openS 0)) = true := by
  decide +kernel

/-- Its own SEQ, another one, a poisoned header, and one whose check value fails. -/
theorem test_results_close :
    (let t := (openS 0).slotGot (slotRead 0) (outHead 8 0)
     Sparse.get none t.log.open_ 2 = none ∧ t.svc.kept.map (fun k => (k.seq, k.status, k.data)) = [(8, 5, [])]) ∧
    (let t := (openS 0).slotGot (slotRead 0) (outHead 7 0)
     (Sparse.get none t.log.open_ 2).isSome ∧ t.svc.kept = []) ∧
    (((openS 0).slotGot (slotRead 0) (poisonedParcel (coreAddr 1 0x30000))).svc.kept.map fun k => (k.status, k.data)) = [(0x0601, [])] ∧
    (let t := (openS 0).slotGot (slotRead 0) { outHead 8 0 with data := 9 }
     t.svc.kept.map (fun k => k.status) = [0x0601] ∧ t.sums.poison = 1) := by decide +kernel

/-- A result of 33 bytes: its two data parcels, one of them poisoned in the second run; and one of mode 2. -/
theorem test_result_data :
    (let s := (openS 0).slotGot (slotRead 0) (outHead 8 33)
     s.svc.taking.map (fun x => (x.ch, x.len)) = [(2, 33)] ∧ (s.srcAt slotKey).length = 2 ∧
     (let d := madeParcel 0x0A 0 (slotRead 1).addr
      let e := madeParcel 0x0B 0 (slotRead 2).addr
      let t := (s.slotGot (slotRead 2) e).slotGot (slotRead 1) d
      t.svc.kept.map (fun k => (k.status, k.data)) = [(5, 0x0A :: List.replicate 31 0 ++ [0x0B])] ∧ t.svc.taking = [] ∧
      ((s.slotGot (slotRead 1) (poisonedParcel (slotRead 1).addr)).slotGot (slotRead 2) e).svc.kept.map (fun k => (k.status, k.data)) =
        [(0x0600, List.replicate 32 0 ++ [0x0B])])) ∧
    (((openS 2).slotGot (slotRead 0) (outHead 8 0)).log.signq.map fun w => (w.kept.seq, w.kept.status)) = [(8, 5)] ∧
    answers (exec .recordSign svcS) svcS = true := by decide +kernel

theorem test_record_sign :
    (let u : Unsigned := { record := List.replicate 0x140 7, kept := { req := req0, seq := 1, status := 0, data := [], record := [], closed := 0 } }
     let w := { u with kept := { u.kept with seq := 9 } }
     nextIs (exec .recordSign { svcS with log := { svcS.log with signq := [w, u] } }) fun t => t.log.signq.map (·.kept.seq) = [9] && t.free = 1 && t.log.ring.length = 1) = true := by
  decide +kernel

/-! ## Sessions -/

def openMsg (role : Byte) (typ : Byte) (sid : Nat) (n : Nat) : List Byte :=
  [0x50, 0x4B, 1, typ, 0, role] ++ leBytes 2 n ++ leBytes 4 sid ++ leBytes 4 20 ++ List.replicate n 0

theorem test_open_refused :
    (nextIs (exec (.openSession noPeer (openMsg 9 0x10 0 128)) (servS .owner)) fun t => t.rng.sessions = [sess .owner] && t.out.length = 1) = true ∧
    (nextIs (exec (.openSession noPeer (openMsg 2 0x10 0 128)) (servS .owner)) fun t => t.rng.sessions = [sess .owner] && t.out.length = 1) = true ∧
    State.roleOf 9 = none ∧ State.roleOf 2 = some .owner := by decide +kernel

/-- An owner whose key hash is 2^248, and the message of that key. -/
theorem test_open :
    (let s := { servS .owner with dict := { (servS .owner).dict with ownerKey := 2 ^ 248 } }
     let m := [0x50, 0x4B, 1, 0x10, 0, 2] ++ leBytes 2 128 ++ leBytes 4 0 ++ leBytes 4 20 ++ [1] ++ List.replicate 127 0
     s.keyMay .owner (2 ^ 248) && (nextIs (exec (.openSession noPeer m) s) fun t => t.rng.sessions.length = 2 && t.out.length = 1) &&
     (nextIs (exec (.openSession noPeer m) { s with rng := { s.rng with sessions := List.replicate 16 (sess .owner) } }) fun t => t.rng.sessions.length = 16 && t.out.length = 1)) = true := by
  decide +kernel

theorem test_confirm :
    (let s := { servS .owner with rng := { (servS .owner).rng with sessions := [{ sess .owner with confirmed := false }] } }
     (parseMsg (openMsg 2 0x12 7 64)).map (fun m => (m.typ, m.sid, m.body.length)) = some (0x12, 7, 64) ∧ s.sessionOf 7 = some { sess .owner with confirmed := false }) := by
  decide +kernel

theorem test_close :
    parseMsg (sealed 0x13 []) = some (sealedMsg 0x13 []) ∧ openBody (sess .operator) (sealedMsg 0x13 []) = some [] ∧
    seqFresh 9 [9] 20 = true ∧ seqFresh 9 [9] 9 = false :=
  ⟨by rfl, openBody_sealed (sess .operator) rfl 0x13 [], by decide, by decide⟩

theorem test_idle_timeout :
    (nextIs (exec (.sessionIdleTimeout 7) { servS .owner with nowMs := 60000 }) fun t => t.rng.sessions = []) = true ∧
    (nextIs (exec (.sessionIdleTimeout 7) { servS .owner with nowMs := 59999 }) fun t => t.rng.sessions.length = 1) = true := by decide +kernel

/-! ## The test port and the port's lower layers -/

theorem test_test_port :
    (([(.extest, 0x00), (.idcode, 0x01), (.clamp, 0x03), (.trace, 0x20), (.bypass, 0xFF)] : List (Instr × Byte)).all fun x =>
      nextIs (exec x.1 goodS) fun t => t.tap.ir = x.2) = true ∧
    (nextIs (exec (.samplePreload 5) goodS) fun t => t.tap.ir = 2 && t.tap.boundary = 5) = true ∧
    (let s := { goodS with tap := { goodS.tap with ir := 0x20 } }
     let u := { s with cool := { s.cool with owner := 1 } }
     (nextIs (exec (.traceEnWrite 1) s) fun t => t.tap.denied && !t.tap.active) && (nextIs (exec (.traceEnWrite 0) u) fun t => !t.tap.traceEn) &&
     (nextIs (exec (.traceEnWrite 1) goodS) fun t => decide (t = goodS)) && !s.trayValve) = true ∧
    (nextIs (exec .testLogicReset { goodS with tap := { goodS.tap with ir := 0x20, traceEn := true } }) fun t => t.tap.ir = 1 && !t.tap.traceEn) = true := by decide +kernel

theorem test_port_answers :
    (let s := { bootS .running 1 500 with rng := { (bootS .running 1 500).rng with ipv4 := leBytes 4 0x0100000A } }
     s.answers && s.ownV4 0x0100000A && !s.ownV4 5 && s.ownV6 s.linkLocal && !s.ownV6 0 && (nextIs (exec (.arpRequest noPeer 0x0100000A) s) fun t => t.out = [.arp noPeer]) &&
     (nextIs (exec (.neighbourSolicitation noPeer s.linkLocal) s) fun t => t.out = [.neighbour noPeer]) &&
     (nextIs (exec (.echoRequest noPeer false 0x0100000A [1]) s) fun t => t.out = [.echo noPeer [1]]) &&
     ([(.arpRequest noPeer 5 : Instr), .neighbourSolicitation noPeer 5, .echoRequest noPeer true 5 [1], .echoRequest noPeer false 5 [1]].all fun i => answers (exec i s) s) &&
     (nextIs (exec (.arpRequest noPeer 0x0100000A) { s with rng := { s.rng with level := 0 } }) fun t => t.out = []) &&
     (nextIs (exec (.mgmtLinkUp true) s) fun t => t.rng.mgmtLink = 2) && (nextIs (exec .mgmtLinkDown s) fun t => t.rng.mgmtLink = 0)) = true := by decide +kernel

/-! ## Steps, the queue and the invariant -/

theorem test_steps :
    (nextIs (step { goodS with pending := [.mgmtLinkDown, .bypass] }) fun t => t.pending = [.bypass] && t.nowMs = 400) = true ∧
    (nextIs (step goodS) fun t => t.nowMs = 401) = true ∧ (nextIs (step State.reset) fun t => decide (t = State.reset)) = true := by decide +kernel

theorem test_reset_inv : State.reset.Inv := by unfold State.Inv; decide

theorem test_no_table_words : decodeTableWord 64 0 = none ∧ (State.reset.withFetchWord 64 0) = State.reset := by decide

/-! ## Well-formedness and words -/

/-- Ill-formed operands, one for each check, are refused by the check. -/
theorem test_ill_formed :
    ([(.nop 0 5 : Instr), .add 0 { fR with var := true }, .sub 0 { fR with var := true }, .mul 0 { fR with var := true }, .and 0 { fR with var := true },
      .or 0 { fR with var := true }, .shl 0 { fR with var := true }, .lds 0 { fM with var := true }, .sts 0 true { fM with var := true },
      .drainSplitNode 0 fDr, .mrg 0 fV, .sct 0 { fV with grp := 0, ia := true }, .br 0 5 0 false 0, .daypackStep 0 0 7, .trailSlot 0 0 7, .refresh 0 3,
      .damperInterval (List.replicate 33 0), .loopPeriodEnd { reading 0 with dies := [] }, .flitReceive 0 true 0 0 (List.replicate 9 { ctl := 0, data := 0 }),
      .calibrationEntry 0xA000 (opQ 0 0 []), .calibrationEntry 0xA007 (opQ 0 0 []), .arrayDiagDone [(65, 0)], .arrayDiagDone [(0, 65)]].map Instr.wf) =
      List.replicate 23 false := by decide +kernel

theorem test_well_formed :
    ([(.nop 0 0 : Instr), .add 0 fR, .shr 0 { fR with var := true }, .drainSplitNode 0 { fDr with bm := false }, .mrg 0 { fV with grp := 0 }, .br 0 4 0 false 0,
      .daypackStep 0 0 6, .refresh 0 2, .damperInterval (List.replicate 32 0), .flitReceive 0 true 0 0 (List.replicate 8 { ctl := 0, data := 0 }),
      .calibrationEntry 0xA001 (opQ 0 0 []), .calibrationEntry 0xA006 (opQ 0 0 []), .arrayDiagDone [(64, 64)], .powerWindowEnd 0].all Instr.wf) = true := by decide +kernel

/-- The three words of the worked example of R199, and a word of the scalar, loop and HALT forms. -/
theorem test_words :
    decodeWord 9 0x3800000000000002 = some (.bopen 9 false 2) ∧ decodeWord 9 0x3900500000000000 = some (.bcommit 9 5) ∧
    decodeWord 9 0x1380070700021000 = some (.drain 9 fDr) ∧
    decodeWord 9 0x0100125800000007 = some (.add 9 { rd := 1, ra := 2, rb := 5, imm := true, var := false, imm32 := 7 }) ∧
    decodeWord 9 0x4800C00005000010 = some (.loop 9 3 false 5 16) ∧ decodeWord 9 0x4F00000000000000 = some (.halt 9) ∧
    decodeWord 9 0x7700000000000000 = none ∧ decodeWord 9 0x4800C01005000010 = none := by decide

/-- One of each instruction, with its operand fields in use, reads back from its word. -/
theorem test_round_trip :
    let ff := { fR with imm := true, imm32 := 0x80000001 }
    let fp : PassF := { ia := true, ib := false, shape := 3, tcode := 2, piece := 1, part := true, grp := 5, cplx := true, astride := 0x2AA, block := 0x3FFFF }
    let fd := { fDr with ia := true, tagreg := 9, grp := 7, nrowsM1 := 63 }
    let fv := { fV with ia := true, grp := 7, vpr := 0x3FFFF }
    ([(.nop 3 0 : Instr), .add 3 ff, .sub 3 ff, .mul 3 ff, .and 3 ff, .or 3 ff, .shl 3 ff, .shr 3 { ff with var := true }, .ldi 3 { ff with var := true }, .lds 3 ff,
      .sts 3 true ff, .wld 3 true 0x3FFFF, .pass 3 fp, .aclr 3 true 5 6 true, .drain 3 fd, .drainSplitNode 3 { fd with bm := false }, .mvd 3 fv, .mvsRow 3 fv,
      .mvsGather 3 fv, .isxDot 3 fv, .isxSampled 3 fv, .mrg 3 { fv with ia := false, grp := 0 }, .sct 3 { fv with ia := false, grp := 0 },
      .arm 3 true true 5 0x3FFFFFFFFF0, .waits 3 0xA5, .waitany 3 9 0xA5, .dpkOut 3 true true 5 9 0x20001, .dpkIn 3 true 5 9 0x20001, .cbar 3 9, .csig 3 9, .bopen 3 true 9,
      .bcommit 3 9, .babort 3 9, .tkt 3 9 true 41, .tktset 3 9 true true 41, .loop 3 2 true 4095 0xFFFFFF, .endl 3 2 4095, .br 3 4 9 true 4095, .bkt 3 9 8 true 200, .halt 3,
      .chain 3 true 9 0x20001, .stepCtr 3 9].all fun i => i.wf && ((encodeWord i).bind (decodeWord 3)) = some i) = true := by decide +kernel

end Sys2Proof.Tests
end

section
/-! PROOFS. Integer sums (R26, R27, R129): clamping to INT32, the shift by the column scale, and the sticky saturation flag of a slot under
an entry and a combine; with the faulted group (R137), whose entries set no flag. -/

namespace Sys2Proof.Machine

/-! ## Clamping to INT32 -/

/-- r is the exact value v in an INT32 element: v itself where it fits, the nearer bound and the saturation mark where it does not (R27). -/
def ClampsTo (r : DW × Bool) (v : Int) : Prop :=
  (-2147483648 ≤ v ∧ v ≤ 2147483647 → r.1.hi.toInt = v ∧ r.2 = false) ∧
    (2147483647 < v → r.1.hi.toInt = 2147483647 ∧ r.2 = true) ∧
    (v < -2147483648 → r.1.hi.toInt = -2147483648 ∧ r.2 = true)

theorem clamp32_of_above {v : Int} (h : 2147483647 < v) : clamp32 v = (0x7FFFFFFF, true) := by simp [clamp32, h]

theorem clamp32_of_below {v : Int} (h : v < -2147483648) : clamp32 v = (0x80000000, true) := by
  have : ¬ 2147483647 < v := by omega
  simp [clamp32, this, h]

theorem clamp32_of_fits {v : Int} (lo : -2147483648 ≤ v) (hi : v ≤ 2147483647) : clamp32 v = (BitVec.ofInt 32 v, false) := by
  simp [clamp32, not_lt.mpr lo, not_lt.mpr hi]

theorem clampsTo_clamp32 (v : Int) : ClampsTo ({ hi := (clamp32 v).1, lo := 0 }, (clamp32 v).2) v := by
  refine ⟨fun ⟨lo, hi⟩ => ?_, fun h => ?_, fun h => ?_⟩
  · rw [clamp32_of_fits lo hi]
    exact ⟨BitVec.toInt_ofInt_eq_self (by decide) lo (by omega), rfl⟩
  · rw [clamp32_of_above h]
    exact ⟨by decide, rfl⟩
  · rw [clamp32_of_below h]
    exact ⟨by decide, rfl⟩

theorem combineElem_integer_clampsTo (a b : DW) : ClampsTo (combineElem true a b) (a.hi.toInt + b.hi.toInt) :=
  clampsTo_clamp32 (a.hi.toInt + b.hi.toInt)

/-- A scale at or above zero shifts the sum to the left (R26). -/
theorem convertSum_integer_left_clampsTo (sum e : Int) {c : Int} (h : 0 ≤ c) :
    ClampsTo (convertSum true sum e c) (sum * 2 ^ c.toNat) := by
  have hr := clampsTo_clamp32 (sum * 2 ^ c.toNat)
  simpa [convertSum, h] using hr

/-- A scale below zero shifts the sum to the right, toward negative infinity (R26). -/
theorem convertSum_integer_right_clampsTo (sum e : Int) {c : Int} (h : c < 0) :
    ClampsTo (convertSum true sum e c) (Int.fdiv sum (2 ^ (-c).toNat)) := by
  have hfdiv : Int.fdiv sum (2 ^ (-c).toNat) = sum >>> (-c).toNat := by
    rw [Int.shiftRight_eq_div_pow, Int.fdiv_eq_ediv_of_nonneg _ (by positivity)]
    simp
  have hr := clampsTo_clamp32 (sum >>> (-c).toNat)
  rw [hfdiv]
  simpa [convertSum, not_le.mpr h] using hr

/-! ## What an operation on the accumulator does to the saturation flags -/

namespace State

variable (s : State)

theorem slotSat_setAcc_of_sat_eq {c : Nat} {v : Acc} (h : v.sat = (s.acc c).sat) (k slot : Nat) :
    (s.setAcc c v).slotSat k slot = s.slotSat k slot := by
  by_cases hk : c = k
  · subst hk; simp [slotSat, h]
  · simp [slotSat, setAcc_acc_other s c v hk]

@[simp] theorem slotSat_setGroup (c : Nat) (g : Group) (k slot : Nat) : (s.setGroup c g).slotSat k slot = s.slotSat k slot := by
  unfold setGroup
  exact s.slotSat_setAcc_of_sat_eq (by rw [Acc.setGroup]) k slot

@[simp] theorem slotSat_setElem (c i e : Nat) (x : VRes) (k slot : Nat) : (s.setElem c i e x).slotSat k slot = s.slotSat k slot := by
  unfold setElem
  rw [slotSat_setAcc_of_sat_eq _ (by simp)]
  simp [slotSat]

/-- A mark sets the slot's flag and never clears it (R129). -/
theorem slotSat_markSat_same {slot : Nat} (h : slot < 8) (k : Nat) (b : Bool) :
    (s.markSat k slot b).slotSat k slot = (s.slotSat k slot || b) := by
  cases b with
  | false => simp [markSat]
  | true => simp [markSat, slotSat, h]

/-- A combine sets the flag of the slot it writes when either slot's flag is set or the join saturates (R129). -/
theorem slotSat_combineAt_integer {s1 : Nat} (h : s1 < 8) (k s2 el : Nat) :
    (s.combineAt k true s1 s2 el).slotSat k s1 =
      (s.slotSat k s1 || s.slotSat k s2 || (combineElem true (s.elem k s1 el).v (s.elem k s2 el).v).2) := by
  simp [combineAt, slotSat_markSat_same _ h, Bool.or_assoc]

section
variable {s} {k base no gen : Nat} {g : Group} {l : Landing}

/-- An entry into a group without a fault sets its landing slot's flag when it saturates, and keeps a flag already set (R129). -/
theorem slotSat_enterElem_of_not_faulted (hg : s.group k base = some g)
    (hl : g.landing.find? (fun l => l.no = no && l.gen = gen) = some l) (hslot : l.slot < 8) (hcompat : s.pack.compat = false)
    (hf : g.faulted = false) (el : Nat) (x : VRes) (sat : Bool) (d : Nat) :
    (s.enterElem k base no gen el x sat d).slotSat k l.slot = (s.slotSat k l.slot || sat) := by
  simp only [enterElem, hg, hl, hf, hcompat, Bool.false_eq_true, false_and, if_false]
  cases l.chain <;> simp [slotSat_markSat_same _ hslot]

/-- An entry into a faulted group is discarded, and no saturation flag changes (R137). -/
theorem slotSat_enterElem_of_faulted (hg : s.group k base = some g)
    (hl : g.landing.find? (fun l => l.no = no && l.gen = gen) = some l) (hf : g.faulted = true)
    (el : Nat) (x : VRes) (sat : Bool) (d slot : Nat) :
    (s.enterElem k base no gen el x sat d).slotSat k slot = s.slotSat k slot := by
  simp [enterElem, hg, hl, hf]

end

end State

/-! ## The statement for groups without a fault, and its failure for a faulted one -/

/-- The five clauses of the statement of integer sums hold once its last one is about a group that no fault has marked. -/
theorem integerSums_of_not_faulted (s : State) (a b : DW) (sum e c : Int) (k base no gen el d s1 s2 : Nat) (g : Group) (l : Landing)
    (x : VRes) (sat : Bool) :
    ClampsTo (combineElem true a b) (a.hi.toInt + b.hi.toInt) ∧
    (0 ≤ c → ClampsTo (convertSum true sum e c) (sum * 2 ^ c.toNat)) ∧
    (c < 0 → ClampsTo (convertSum true sum e c) (Int.fdiv sum (2 ^ (-c).toNat))) ∧
    (s1 < 8 → (s.combineAt k true s1 s2 el).slotSat k s1 =
      (s.slotSat k s1 || s.slotSat k s2 || (combineElem true (s.elem k s1 el).v (s.elem k s2 el).v).2)) ∧
    (g.faulted = false → s.group k base = some g → g.landing.find? (fun l => l.no = no && l.gen = gen) = some l → l.slot < 8 →
      s.pack.compat = false → (s.enterElem k base no gen el x sat d).slotSat k l.slot = (s.slotSat k l.slot || sat)) :=
  ⟨combineElem_integer_clampsTo a b, convertSum_integer_left_clampsTo sum e, convertSum_integer_right_clampsTo sum e,
    fun h => s.slotSat_combineAt_integer h k s2 el,
    fun hf hg hl hslot hcompat => State.slotSat_enterElem_of_not_faulted hg hl hslot hcompat hf el x sat d⟩

/-- A group of one slot after its pass 0 has landed and its pass 1 has found no free slot: a fault has marked it (R137), and pass 1 stays
counted until its entries have come and been discarded. -/
def overflowState : State :=
  ((State.reset.openGroup 0 2 1 true).land 0 2 0 0 false 0).land 0 2 1 0 false 0

/-- The landing of pass 1 in the faulted group. -/
def discardedLanding : Landing := { no := 1, gen := 0, vec := false, slot := 2, chain := [], left := 4096 }

theorem overflowState_group : ∃ g, overflowState.group 0 2 = some g ∧ g.faulted = true ∧
    g.landing.find? (fun l => l.no = 1 && l.gen = 0) = some discardedLanding := by
  have h : (overflowState.group 0 2).any
      (fun g => g.faulted && g.landing.find? (fun l => l.no = 1 && l.gen = 0) = some discardedLanding) = true := by decide +kernel
  obtain ⟨g, hg, hboth⟩ := (Option.any_eq_true _ _).mp h
  simp only [Bool.and_eq_true, decide_eq_true_eq] at hboth
  exact ⟨g, hg, hboth⟩

theorem overflowState_not_compat : overflowState.pack.compat = false := by decide +kernel

theorem overflowState_slotSat : overflowState.slotSat 0 discardedLanding.slot = false := by decide +kernel

/-- Refutes O26: its last clause leaves out that a faulted group discards its entries (R137). Pass 1 of a group of one slot overflows the
stack; an entry of that pass that saturates leaves the flag of its landing slot clear. -/
theorem not_integerSumsSaturate : ¬ Obligations.IntegerSumsSaturate := by
  unfold Obligations.IntegerSumsSaturate
  intro h
  obtain ⟨g, hg, hf, hl⟩ := overflowState_group
  obtain ⟨-, -, -, -, hflag⟩ := h overflowState {} {} 0 0 0 0 2 1 0 5 9 0 0 g discardedLanding VRes.zero true
  have hset := hflag hg hl (by decide) overflowState_not_compat
  rw [State.slotSat_enterElem_of_faulted hg hl hf, overflowState_slotSat] at hset
  exact absurd hset (by decide)

end Sys2Proof.Machine
end

section
/-! PROOFS. Members of a bundle issued with no bundle open (R199): each of STS, DPK, ARM and DRAIN issues as a stray. -/

namespace Sys2Proof.Machine

section
variable {s : State} {c : CoreId}

namespace State

@[simp] theorem stray_pc (s : State) (c k : Nat) : ((s.stray c).seq k).pc = (s.seq k).pc := by simp [stray]

/-- A stray member goes on with STRAY set and fault 4 raised, and does nothing else (R199). -/
theorem issue_stray {i : Instr} (h : s.canIssue c i = true) (hpc : (s.seq c.toNat).pc ≠ 4095) :
    s.issue c i true (s.stray c.toNat) = .next ((s.stray c.toNat).goesOn c) :=
  issue_ready s c i _ h (by simpa using hpc)

end State

theorem execSts_of_no_bundle (f : Scalar) (hb : (s.bnd c.toNat).isOpen = false) :
    execSts c true f s = s.issue c (.sts c true f) true (s.stray c.toNat) := by
  simp [execSts, hb]

theorem execDpkOut_of_no_bundle (ia : Bool) (len : BitVec 3) (areg : BitVec 4) (loc : BitVec 18)
    (hb : (s.bnd c.toNat).isOpen = false) :
    execDpkOut c true ia len areg loc s = s.issue c (.dpkOut c true ia len areg loc) true (s.stray c.toNat) := by
  simp [execDpkOut, hb]

/-- A stray ARM need not wait when no SCT is at work (R161). -/
theorem execArm_of_no_bundle (ia : Bool) (e : BitVec 3) (l : LAddr) (hb : (s.bnd c.toNat).isOpen = false)
    (hsct : ((s.vec c.toNat).q.all fun v => v.kind ≠ .sct) = true) :
    execArm c true ia e l s = s.issue c (.arm c true ia e l) true (s.stray c.toNat) := by
  simp only [execArm, hb, hsct, Bool.true_or, if_true, Bool.false_eq_true, if_false]

/-- A stray DRAIN need not wait when the drain chain has room for one more (R132). -/
theorem execDrain_of_no_bundle {d : DrainF} (hbm : d.bm = true) (hb : (s.bnd c.toNat).isOpen = false)
    (hroom : (s.drn c.toNat).reading < 2) :
    execDrain c d s = s.issue c (.drain c d) true (s.stray c.toNat) := by
  simp [execDrain, hbm, hb, hroom]

end

/-- Settles O10: each kind of member, with no bundle open, issues as a stray. -/
theorem strayMembers : Obligations.StrayMembers := by
  unfold Obligations.StrayMembers
  intro s c f d ia len e areg loc l b after hpc hb
  refine ⟨fun hi => ?sts, fun hi => ?dpk, fun hi hsct => ?arm, fun hbm hi hroom => ?drain⟩
  case sts => exact (execSts_of_no_bundle f hb).trans (State.issue_stray hi hpc)
  case dpk => exact (execDpkOut_of_no_bundle ia len areg loc hb).trans (State.issue_stray hi hpc)
  case arm => exact (execArm_of_no_bundle ia e l hb hsct).trans (State.issue_stray hi hpc)
  case drain => exact (execDrain_of_no_bundle hbm hb hroom).trans (State.issue_stray hi hpc)

end Sys2Proof.Machine
end

section
/-! PROOFS. BKT (R178): the choice of a bucket is a minimum over those that fit, and where BKT continues with a bucket and without. -/

namespace Sys2Proof.Machine

/-! ## The choice of a bucket -/

/-- A bucket that BKT may pick for v: it is valid and its size is at least v (R178). -/
def Bucket.Fits (b : Bucket) (v : Nat) : Prop := b.valid = true ∧ v ≤ b.size.toNat

/-- The pick is the first bucket of the least size among those that fit. -/
theorem pickBucket_eq_argmin (t : List Bucket) (v : Nat) :
    pickBucket t v = (t.filter fun b => b.valid && decide (v ≤ b.size.toNat)).argmin fun b => b.size.toNat := by
  unfold pickBucket List.argmin
  congr 1
  funext best b
  cases best <;> rfl

theorem mem_filter_fits {t : List Bucket} {v : Nat} {b : Bucket} :
    b ∈ t.filter (fun b => b.valid && decide (v ≤ b.size.toNat)) ↔ b ∈ t ∧ b.Fits v := by
  simp [Bucket.Fits]

theorem pickBucket_eq_none_iff {t : List Bucket} {v : Nat} : pickBucket t v = none ↔ ∀ b ∈ t, ¬ b.Fits v := by
  rw [pickBucket_eq_argmin, List.argmin_eq_none, List.eq_nil_iff_forall_not_mem]
  simp only [mem_filter_fits, not_and]

/-- The bucket picked is of the table, fits, and is no larger than any other that fits (R178). -/
theorem pickBucket_eq_some {t : List Bucket} {v : Nat} {x : Bucket} (h : pickBucket t v = some x) :
    x ∈ t ∧ x.Fits v ∧ ∀ y ∈ t, y.Fits v → x.size.toNat ≤ y.size.toNat := by
  rw [pickBucket_eq_argmin] at h
  obtain ⟨hx, hfits⟩ := mem_filter_fits.mp (List.argmin_mem h)
  refine ⟨hx, hfits, fun y hy hv => ?_⟩
  exact List.le_of_mem_argmin (f := fun b : Bucket => b.size.toNat) (mem_filter_fits.mpr ⟨hy, hv⟩) h

/-! ## Where BKT continues -/

/-- Going on with RD written (R177). -/
theorem State.goTo_setReg (s : State) (c : Nat) (rd : BitVec 4) (v : W64) (steps : Nat) {t : Nat} (h : t < 4096) :
    (s.setReg c rd v).goTo c t steps =
      s.setSeq c { (s.seq c).jumps s.now t steps with sreg := (s.seq c).sreg.set rd.toNat v } := by
  rw [goTo_eq _ _ _ _ h]
  simp [setReg, Seq.setReg, Seq.jumps]

/-- The next instruction never empties the buffer (R173). -/
theorem Seq.jumps_next (q : Seq) (now steps : Nat) :
    q.jumps now (q.pc.toNat + 1) steps = { q.goesOn now with nextIssue := now + steps } := by
  simp [Seq.jumps, Seq.goesOn, State.pc_add_one]

/-- Going on at the next instruction, which may issue some steps later (R172). -/
theorem State.goTo_next (s : State) (c steps : Nat) {p : BitVec 12} (hp : (s.seq c).pc = p) (h : p ≠ 4095) :
    s.goTo c (p.toNat + 1) steps = s.setSeq c { (s.seq c).goesOn s.now with nextIssue := s.now + steps } := by
  rw [goTo_eq _ _ _ _ (pc_lt h), ← hp, Seq.jumps_next]

@[simp] theorem State.coreFault_now (s : State) (c : Nat) (code : BitVec 4) (pc : BitVec 12) : (s.coreFault c code pc).now = s.now := rfl

/-- The value that BKT compares with the sizes: RA or the core's BK (R178). -/
def bktValue (q : Seq) (src : Bool) (ra : BitVec 4) : Nat := if src then (q.reg ra).toNat else q.bk.toNat

section
variable {s : State} {c : CoreId} {rd ra : BitVec 4} {src : Bool} {btab : Byte}

/-- BKT with a bucket picked writes its size into RD and continues at its entry. -/
theorem execBkt_of_some {x : Bucket} (hi : s.canIssue c (.bkt c rd ra src btab) = true)
    (hready : ((s.vec c.toNat).q.all fun v => v.kind ≠ .sct) = true)
    (hx : pickBucket (Sparse.get [] (s.seq c.toNat).bkts btab.toNat) (bktValue (s.seq c.toNat) src ra) = some x) :
    execBkt c rd ra src btab s = .next (s.setSeq c.toNat
      { (s.seq c.toNat).jumps s.now x.entry.toNat 2 with sreg := (s.seq c.toNat).sreg.set rd.toNat (x.size.zeroExtend 64) }) := by
  unfold bktValue at hx
  simp only [execBkt, hready, hx, State.goTo_setReg _ _ _ _ _ x.entry.isLt, State.issueTo_ready s c _ _ hi]

/-- BKT with no bucket that fits records fault 3 and continues at the next instruction. -/
theorem execBkt_of_none (hi : s.canIssue c (.bkt c rd ra src btab) = true)
    (hready : ((s.vec c.toNat).q.all fun v => v.kind ≠ .sct) = true) (hpc : (s.seq c.toNat).pc ≠ 4095)
    (hx : pickBucket (Sparse.get [] (s.seq c.toNat).bkts btab.toNat) (bktValue (s.seq c.toNat) src ra) = none) :
    execBkt c rd ra src btab s = .next ((s.coreFault c.toNat 3 (s.seq c.toNat).pc).setSeq c.toNat
      { ((s.coreFault c.toNat 3 (s.seq c.toNat).pc).seq c.toNat).goesOn s.now with nextIssue := s.now + 2 }) := by
  unfold bktValue at hx
  simp only [execBkt, hready, hx, State.goTo_next _ _ _ (State.coreFault_pc ..) hpc, State.coreFault_now,
    State.issueTo_ready s c _ _ hi]

end

/-- Settles O12: a pick exists exactly where some bucket fits, and BKT follows the pick. -/
theorem bucketBranch : Obligations.BucketBranch := by
  unfold Obligations.BucketBranch
  intro s c rd ra src btab q v fits hi hsct
  have hready : ((s.vec c.toNat).q.all fun v => v.kind ≠ .sct) = true := by simpa using hsct
  refine ⟨fun b ⟨hb, hfits⟩ => ?_, fun hnone hpc => ?_⟩
  · cases hx : pickBucket (Sparse.get [] q.bkts btab.toNat) v with
    | none => exact absurd hfits (pickBucket_eq_none_iff.mp hx b hb)
    | some x =>
      obtain ⟨hmem, hxfits, hleast⟩ := pickBucket_eq_some hx
      exact ⟨x, ⟨hmem, hxfits⟩, fun y ⟨hy, hyfits⟩ => hleast y hy hyfits, execBkt_of_some hi hready hx⟩
  · have hx : pickBucket (Sparse.get [] q.bkts btab.toNat) v = none :=
      pickBucket_eq_none_iff.mpr fun b hb hfits => hnone b ⟨hb, hfits⟩
    exact execBkt_of_none hi hready hpc hx

end Sys2Proof.Machine
end

section
/-! PROOFS. Applied lowerings (R382, R385, R343): what one counts and logs, and the two steps that apply one. -/

namespace Sys2Proof.Machine

/-! ## The ring of 64 -/

/-- Below 64 entries the ring keeps all of them beside the new one (R385). -/
theorem dampRing_of_room {log : List DampEntry} (h : log.length < 64) (e : DampEntry) :
    (log ++ [e]).drop ((log ++ [e]).length - 64) = log ++ [e] := by
  have hroom : (log ++ [e]).length - 64 = 0 := Nat.sub_eq_zero_of_le (by simpa using h)
  rw [hroom, List.drop_zero]

/-- A full ring drops its oldest entry for the new one (R385). -/
theorem dampRing_of_full {x : DampEntry} {old : List DampEntry} (h : old.length = 63) (e : DampEntry) :
    (x :: old ++ [e]).drop ((x :: old ++ [e]).length - 64) = old ++ [e] := by
  have hfull : (x :: old ++ [e]).length - 64 = 1 := by simp [h]
  rw [hfull, List.cons_append, List.drop_succ_cons, List.drop_zero]

/-! ## What a lowering leaves -/

namespace State

/-- The entry that a lowering of a cause logs: the step, the new level, the cause and the hotspot (R385). -/
def dampEntry (s : State) (cause : Byte) : DampEntry :=
  { step := BitVec.ofNat 64 s.now, level := BitVec.ofNat 8 (s.pace.level + 1), cause, hotspot := BitVec.ofInt 16 s.cool.hotspot }

/-- From s to t one lowering of the cause is applied, counted and logged (R382, R385). -/
def LoweringLogged (s t : State) (cause : Byte) : Prop :=
  t.pace.level = s.pace.level + 1 ∧ t.pace.devCount = s.pace.devCount + 1 ∧ t.pace.cause = cause ∧
    (s.pace.log.length < 64 → t.pace.log = s.pace.log ++ [s.dampEntry cause]) ∧
    (∀ x old, s.pace.log = x :: old → old.length = 63 → t.pace.log = old ++ [s.dampEntry cause])

theorem applyLowering_cause (s : State) (cause : Byte) : (s.applyLowering cause).pace.cause = cause := by
  simp [applyLowering]

theorem applyLowering_log (s : State) (cause : Byte) :
    (s.applyLowering cause).pace.log =
      (s.pace.log ++ [s.dampEntry cause]).drop ((s.pace.log ++ [s.dampEntry cause]).length - 64) := by
  simp only [applyLowering, dampEntry]

theorem applyLowering_logged (s : State) (cause : Byte) : s.LoweringLogged (s.applyLowering cause) cause := by
  refine ⟨rfl, rfl, s.applyLowering_cause cause, fun hroom => ?room, fun x old hlog hfull => ?full⟩
  case room => rw [applyLowering_log, dampRing_of_room hroom]
  case full => rw [applyLowering_log, hlog, dampRing_of_full hfull]

/-- A rate one level below the rate in force is applied as a lowering of cause 4 (R343, R383). -/
theorem applyRate_of_lower {s : State} {rate : Nat} (hlt : rate < s.rate) (hlevel : rate = rateOf s.pace.target (s.pace.level + 1)) :
    s.applyRate rate = s.applyLowering 4 := if_pos ⟨hlt, hlevel⟩

end State

/-! ## The steps that apply a lowering -/

section
variable {s : State}

/-- At its step S the lowering at the front takes effect (R384). -/
theorem execLoweringApply_of_due {at_ : Nat} {cause : Byte} {rest : List (Nat × Byte)}
    (hfront : s.pace.lowerings = (at_, cause) :: rest) (hdue : at_ ≤ s.now) :
    execLoweringApply s = .next (({ s with pace := { s.pace with lowerings := rest } } : State).applyLowering cause) := by
  simp only [execLoweringApply, hfront, if_pos hdue]

/-- At its step S the rate at the front is in force (R343). -/
theorem execRateSetApply_of_due {rate at_ : Nat} {dec : Bool} {more : List (Nat × Nat × Bool)}
    (hfront : s.gl.rateSets = (rate, at_, dec) :: more) (hdue : at_ ≤ s.now) :
    execRateSetApply s = .next (({ s with gl := { s.gl with rateSets := more } } : State).applyRate rate) := by
  simp only [execRateSetApply, hfront, if_pos hdue]

/-- A due lowering of the module's own is logged under its cause. -/
theorem loweringApply_logged {at_ : Nat} {cause : Byte} {rest : List (Nat × Byte)}
    (hfront : s.pace.lowerings = (at_, cause) :: rest) (hdue : at_ ≤ s.now) :
    ∃ t, exec .loweringApply s = .next t ∧ s.LoweringLogged t cause :=
  ⟨_, execLoweringApply_of_due hfront hdue,
    State.applyLowering_logged { s with pace := { s.pace with lowerings := rest } } cause⟩

/-- A due RATE_SET to the next level down is logged under cause 4. -/
theorem rateSetApply_logged {rate at_ : Nat} {dec : Bool} {more : List (Nat × Nat × Bool)}
    (hfront : s.gl.rateSets = (rate, at_, dec) :: more) (hdue : at_ ≤ s.now) (hlt : rate < s.rate)
    (hlevel : rate = rateOf s.pace.target (s.pace.level + 1)) :
    ∃ t, exec .rateSetApply s = .next t ∧ s.LoweringLogged t 4 := by
  have hlower : ({ s with gl := { s.gl with rateSets := more } } : State).applyRate rate =
      ({ s with gl := { s.gl with rateSets := more } } : State).applyLowering 4 := State.applyRate_of_lower hlt hlevel
  exact ⟨_, (execRateSetApply_of_due hfront hdue).trans (congrArg _ hlower), State.applyLowering_logged _ 4⟩

end

/-- Settles O44: both steps that apply a lowering do so by the one operation that counts and logs it. -/
theorem loweringIsLogged : Obligations.LoweringIsLogged := by
  unfold Obligations.LoweringIsLogged
  intro s cause at_ rate rest more dec p logged
  exact ⟨loweringApply_logged, rateSetApply_logged, fun _ => rfl⟩

end Sys2Proof.Machine
end

section
/-! PROOFS. A firmware update in progress (R431): which operations step 1 of R428 refuses with 0x0304, and that such a refusal changes no
more than the mark of a bundle. -/

namespace Sys2Proof.Machine

theorem Op.reads_of_write {x : Op} (h : x.op = opWrite ∨ x.op = opSegWrite) : x.reads = false := by
  rcases h with h | h <;> simp [Op.reads, h, opWrite, opSegWrite, opRead, opSegRead]

theorem Op.reads_of_read {x : Op} (h : x.op = opRead ∨ x.op = opSegRead) : x.reads = true := by
  rcases h with h | h <;> simp [Op.reads, h]

theorem Op.reads_of_command {x : Op} (h : x.op = opCommand) : x.reads = false := by
  simp [Op.reads, h, opCommand, opRead, opSegRead]

theorem Op.not_command_of_write {x : Op} (h : x.op = opWrite ∨ x.op = opSegWrite) : x.op ≠ opCommand := by
  rcases h with h | h <;> simp [h, opWrite, opSegWrite, opCommand]

theorem Op.not_command_of_read {x : Op} (h : x.op = opRead ∨ x.op = opSegRead) : x.op ≠ opCommand := by
  rcases h with h | h <;> simp [h, opRead, opSegRead, opCommand]

namespace State

variable {s : State} {x : Op}

/-! ## Step 1 of R428 -/

/-- With full parameter service step 1 refuses only what an update in progress refuses (R416, R431). -/
theorem checkReady_of_not_fwBusy (hlevel : s.rng.level = 2) (hfw : s.fwBusy = false) : s.checkReady x = none := by
  simp [checkReady, hlevel, hfw]

theorem checkReady_of_command (hlevel : s.rng.level = 2) (hfw : s.fwBusy = true) (hop : x.op = opCommand) :
    s.checkReady x = if x.key = 0x705100 then none else some 0x0304 := by
  simp [checkReady, hlevel, hfw, hop]

theorem checkReady_of_read (hlevel : s.rng.level = 2) (hop : x.op = opRead ∨ x.op = opSegRead) : s.checkReady x = none := by
  simp [checkReady, hlevel, Op.not_command_of_read hop, Op.reads_of_read hop]

theorem checkReady_of_write (hlevel : s.rng.level = 2) (hfw : s.fwBusy = true) (hop : x.op = opWrite ∨ x.op = opSegWrite) :
    s.checkReady x = if s.isRws x.key = true ∨ x.key = 0x700300 then some 0x0304 else none := by
  simp [checkReady, hlevel, hfw, Op.not_command_of_write hop, Op.reads_of_write hop]

theorem isRws_of_rw {key : Nat} {e : DEntry} (he : s.entry key = some e) (hacc : e.acc = .rw) : s.isRws key = false := by
  simp [isRws, he, hacc]

/-- OWNER_ENROL is write-only, so no RW entry has its key. -/
theorem key_ne_enrol_of_rw {key : Nat} {e : DEntry} (he : s.entry key = some e) (hacc : e.acc = .rw) : key ≠ 0x700300 := by
  rintro rfl
  cases he
  simp at hacc

/-! ## What a refusal leaves -/

/-- The failure of a held write is marked in its session and nowhere else (R439). -/
theorem failHeld_eq (s : State) (x : Op) (code : W16) :
    s.failHeld x code = { s with rng := { s.rng with sessions := (s.failHeld x code).rng.sessions } } := by
  unfold failHeld
  split
  · split <;> rfl
  · rfl

theorem refuseOp_state_eq (s : State) (x : Op) (e : DEntry) (code : W16) :
    (s.refuseOp x e code).s = { s with rng := { s.rng with sessions := (s.refuseOp x e code).s.rng.sessions } } := by
  unfold refuseOp
  dsimp only
  split
  · exact s.failHeld_eq x code
  · rfl

/-- What step 1 refuses is answered with its code, begins no store, and leaves all but the sessions as it was (R428). -/
theorem runOp_of_not_ready {code : W16} (h : Holdup) (hready : s.checkReady x = some code) :
    ∃ a, s.runOp x h = some a ∧ a.status = code ∧ a.job = none ∧ a.data = [] ∧
      a.s = { s with rng := { s.rng with sessions := a.s.rng.sessions } } := by
  unfold runOp
  rw [hready]
  cases s.entry x.key with
  | none => exact ⟨_, rfl, rfl, rfl, rfl, rfl⟩
  | some e => exact ⟨_, rfl, rfl, rfl, rfl, s.refuseOp_state_eq x e code⟩

end State

/-- Settles O51: step 1 of R428 refuses exactly the operations that an update refuses, and what it refuses leaves all but the sessions. -/
theorem updateRefusesStores : Obligations.UpdateRefusesStores := by
  unfold Obligations.UpdateRefusesStores
  intro s x h hlevel hfw
  refine ⟨fun hx => ?refused, fun hop hkey => ?install, State.checkReady_of_read hlevel, fun hop ⟨e, he, hacc⟩ => ?rw⟩
  case refused =>
    have hready : s.checkReady x = some 0x0304 := by
      rcases hx with ⟨hop, hkey⟩ | ⟨hop, hrws⟩
      · rw [State.checkReady_of_command hlevel hfw hop, if_neg hkey]
      · rw [State.checkReady_of_write hlevel hfw hop, if_pos (Or.inl hrws)]
    exact State.runOp_of_not_ready h hready
  case install => rw [State.checkReady_of_command hlevel hfw hop, if_pos hkey]
  case rw =>
    rw [State.checkReady_of_write hlevel hfw hop, if_neg]
    simp [State.isRws_of_rw he hacc, State.key_ne_enrol_of_rw he hacc]

end Sys2Proof.Machine
end

section
/-! PROOFS. PARAM_DEFAULTS (R432): what the write of one entry at its default changes, what the restoring of all of them leaves at each
entry and outside them, the command that begins the store and the step that completes it. -/

namespace Sys2Proof.Machine

/-! ## Folds that keep something -/

theorem foldl_keeps {α β γ : Type} (p : α → γ) {f : α → β → α} {l : List β} (h : ∀ b ∈ l, ∀ a, p (f a b) = p a) (a : α) :
    p (l.foldl f a) = p a :=
  List.foldlRecOn l f (motive := fun t => p t = p a) rfl fun t ht b hb => (h b hb t).trans ht

namespace State

/-! ## What the effects of a write leave unchanged -/

/-- The state without what the settings of links and of the system's rate reach: ports, rates sent and synchronisation. -/
def besidesLinks (s : State) : State := { s with gl := { s.gl with ports := [], rateSets := [], sync := 0 } }

/-- The state without what a restored entry reaches: besides those, the step target and the values in force and stored. -/
def besidesSettings (s : State) : State :=
  { s.besidesLinks with
    pace := { s.pace with target := 0, targetAt := none }, dict := { s.dict with val := [], stored := [] } }

section
variable {s t : State}

theorem dict_of_links (h : t.besidesLinks = s.besidesLinks) : t.dict = s.dict :=
  show t.besidesLinks.dict = s.besidesLinks.dict from congrArg State.dict h

theorem pace_of_links (h : t.besidesLinks = s.besidesLinks) : t.pace = s.pace :=
  show t.besidesLinks.pace = s.besidesLinks.pace from congrArg State.pace h

theorem besidesSettings_of_links (h : t.besidesLinks = s.besidesLinks) : t.besidesSettings = s.besidesSettings := by
  simp only [besidesSettings, h, dict_of_links h, pace_of_links h]

end

variable (s : State)

theorem putVal_besidesSettings (key : Nat) (v : List Byte) : (s.putVal key v).besidesSettings = s.besidesSettings := rfl

theorem enablePorts_besidesLinks (old new : Nat) : (s.enablePorts old new).besidesLinks = s.besidesLinks := by
  refine foldl_keeps besidesLinks (fun p _ t => ?_) s
  split <;> rfl

theorem masterSet_besidesLinks (rate : Nat) (dec : Bool) : (s.masterSet rate dec).besidesLinks = s.besidesLinks :=
  foldl_keeps besidesLinks (f := fun (t : State) p => t.sendSym p 0x41 _) (fun _ _ _ => rfl) _

theorem retarget_dict (x : Nat) : (s.retarget x).dict = s.dict := by
  unfold retarget
  split
  · exact dict_of_links (s.masterSet_besidesLinks x false)
  · split <;> rfl

theorem retarget_besidesSettings (x : Nat) : (s.retarget x).besidesSettings = s.besidesSettings := by
  unfold retarget
  split
  · exact besidesSettings_of_links (s.masterSet_besidesLinks x false)
  · split <;> rfl

variable {s}

/-- Outside a system a written step target waits for the Damper interval after the next (R387). -/
theorem retarget_targetAt (x : Nat) (hgl : s.glRun = false) (hrun : s.pace.running = true) :
    (s.retarget x).pace.targetAt = some (s.dampStep, x) := by
  simp [retarget, hgl, hrun]

/-! ## One entry written -/

/-- The entries that PARAM_DEFAULTS restores. -/
def restoredKeys : List Nat := rwsKeys.filter fun k => k < 0x700000

theorem mem_restoredKeys {key : Nat} : key ∈ restoredKeys ↔ key ∈ rwsKeys ∧ key < 0x700000 := by simp [restoredKeys]

/-- The entries whose stored value waits for a reset to be in force (R104, R248, R347). -/
def resetKeys : List Nat := [0x100006, 0x302000, 0x302100]

theorem isCalKey_of_restored : ∀ key ∈ restoredKeys, isCalKey key = false := by decide

theorem applyWrite_of_reset {key : Nat} (h : key ∈ resetKeys) (v : List Byte) : s.applyWrite key v = s := by
  simp only [resetKeys, List.mem_cons, List.not_mem_nil, or_false] at h
  rcases h with rfl | rfl | rfl <;> rfl

theorem applyWrite_stepTarget (v : List Byte) : s.applyWrite 0x200100 v = (s.putVal 0x200100 v).retarget (leNat v) := rfl

/-- Every other restored entry's write puts its value in force, and reaches at most links besides. -/
theorem applyWrite_besidesLinks {key : Nat} (hkey : key ∈ restoredKeys) (hreset : key ∉ resetKeys) (htarget : key ≠ 0x200100)
    (v : List Byte) : (s.applyWrite key v).besidesLinks = (s.putVal key v).besidesLinks := by
  unfold applyWrite
  dsimp only
  split
  case h_1 | h_2 | h_3 => exact absurd (by decide) hreset
  case h_4 => exact absurd rfl htarget
  case h_5 | h_6 | h_10 | h_11 | h_12 => exact absurd hkey (by decide)
  case h_7 | h_8 => rfl
  case h_9 => exact enablePorts_besidesLinks ..
  case h_13 => rw [if_neg (by simp [isCalKey_of_restored key hkey])]

section
variable {key : Nat} (hkey : key ∈ restoredKeys) (v : List Byte)
include hkey

theorem applyWrite_dict_of_restored (hreset : key ∉ resetKeys) : (s.applyWrite key v).dict = (s.putVal key v).dict := by
  by_cases htarget : key = 0x200100
  · subst htarget
    exact retarget_dict ..
  · exact dict_of_links (applyWrite_besidesLinks hkey hreset htarget v)

theorem applyWrite_stored_of_restored : (s.applyWrite key v).dict.stored = s.dict.stored := by
  by_cases hreset : key ∈ resetKeys
  · rw [applyWrite_of_reset hreset]
  · rw [applyWrite_dict_of_restored hkey v hreset]; rfl

theorem applyWrite_val_other_of_restored {j : Nat} (hj : key ≠ j) :
    Sparse.get [] (s.applyWrite key v).dict.val j = Sparse.get [] s.dict.val j := by
  by_cases hreset : key ∈ resetKeys
  · rw [applyWrite_of_reset hreset]
  · rw [applyWrite_dict_of_restored hkey v hreset]
    exact Sparse.get_set_other [] v _ hj

theorem applyWrite_val_same_of_restored (hreset : key ∉ resetKeys) : Sparse.get [] (s.applyWrite key v).dict.val key = v := by
  rw [applyWrite_dict_of_restored hkey v hreset]
  exact Sparse.get_set_same ..

theorem applyWrite_pace_of_restored (htarget : key ≠ 0x200100) : (s.applyWrite key v).pace = s.pace := by
  by_cases hreset : key ∈ resetKeys
  · rw [applyWrite_of_reset hreset]
  · rw [pace_of_links (applyWrite_besidesLinks hkey hreset htarget v)]; rfl

theorem applyWrite_besidesSettings_of_restored : (s.applyWrite key v).besidesSettings = s.besidesSettings := by
  by_cases hreset : key ∈ resetKeys
  · rw [applyWrite_of_reset hreset]
  by_cases htarget : key = 0x200100
  · subst htarget
    exact retarget_besidesSettings ..
  · exact (besidesSettings_of_links (applyWrite_besidesLinks hkey hreset htarget v)).trans (s.putVal_besidesSettings key v)

end

/-! ## One entry restored -/

/-- One step of the restoring: an entry whose stored value differs from its default has the default stored, and written. -/
def restoreEntry (s : State) (key : Nat) : State :=
  if s.storedOf key = s.entryDefault key then s else (s.putStored key (s.entryDefault key)).applyWrite key (s.entryDefault key)

theorem restoreDefaults_eq (s : State) : s.restoreDefaults = restoredKeys.foldl restoreEntry s := rfl

theorem restoreEntry_of_default {key : Nat} (h : s.storedOf key = s.entryDefault key) : s.restoreEntry key = s := if_pos h

theorem restoreEntry_of_changed {key : Nat} (h : s.storedOf key ≠ s.entryDefault key) :
    s.restoreEntry key = (s.putStored key (s.entryDefault key)).applyWrite key (s.entryDefault key) := if_neg h

theorem restoreEntry_keeps {γ : Type} (p : State → γ) {key : Nat}
    (h : p ((s.putStored key (s.entryDefault key)).applyWrite key (s.entryDefault key)) = p s) : p (s.restoreEntry key) = p s := by
  unfold restoreEntry
  split
  · rfl
  · exact h

/-- Defaults depend on the fuses and on which entries exist, which no restoring changes. -/
theorem entryDefault_of_besidesSettings {s t : State} (h : t.besidesSettings = s.besidesSettings) :
    t.entryDefault = s.entryDefault :=
  show t.besidesSettings.entryDefault = s.besidesSettings.entryDefault from congrArg entryDefault h

theorem storedOf_congr {s t : State} {key : Nat} (hdefault : t.entryDefault key = s.entryDefault key)
    (hstored : Sparse.get [] t.dict.stored key = Sparse.get [] s.dict.stored key) : t.storedOf key = s.storedOf key := by
  simp only [storedOf, dictStored, hdefault, hstored]

theorem storedOf_of_stored_default {key : Nat} (h : Sparse.get [] s.dict.stored key = s.entryDefault key) :
    s.storedOf key = s.entryDefault key := by
  unfold storedOf dictStored
  rw [h]
  cases s.entryDefault key <;> rfl

section
variable {key : Nat} (hkey : key ∈ restoredKeys)
include hkey

theorem restoreEntry_besidesSettings : (s.restoreEntry key).besidesSettings = s.besidesSettings :=
  restoreEntry_keeps besidesSettings (applyWrite_besidesSettings_of_restored hkey _)

theorem restoreEntry_pace (htarget : key ≠ 0x200100) : (s.restoreEntry key).pace = s.pace :=
  restoreEntry_keeps State.pace (applyWrite_pace_of_restored hkey _ htarget)

theorem restoreEntry_stored_other {j : Nat} (hj : key ≠ j) :
    Sparse.get [] (s.restoreEntry key).dict.stored j = Sparse.get [] s.dict.stored j := by
  refine restoreEntry_keeps (fun t : State => Sparse.get [] t.dict.stored j) ?_
  rw [applyWrite_stored_of_restored hkey]
  exact Sparse.get_set_other [] _ _ hj

theorem restoreEntry_val_other {j : Nat} (hj : key ≠ j) :
    Sparse.get [] (s.restoreEntry key).dict.val j = Sparse.get [] s.dict.val j :=
  restoreEntry_keeps (fun t : State => Sparse.get [] t.dict.val j) (applyWrite_val_other_of_restored hkey _ hj)

theorem restoreEntry_storedOf : (s.restoreEntry key).storedOf key = s.entryDefault key := by
  by_cases h : s.storedOf key = s.entryDefault key
  · rw [restoreEntry_of_default h, h]
  · have hdefault := entryDefault_of_besidesSettings (s.restoreEntry_besidesSettings hkey)
    rw [← hdefault]
    refine storedOf_of_stored_default ?_
    rw [hdefault, restoreEntry_of_changed h, applyWrite_stored_of_restored hkey]
    exact Sparse.get_set_same ..

theorem restoreEntry_val_same (h : s.storedOf key ≠ s.entryDefault key) (hreset : key ∉ resetKeys) :
    Sparse.get [] (s.restoreEntry key).dict.val key = s.entryDefault key := by
  rw [restoreEntry_of_changed h, applyWrite_val_same_of_restored hkey _ hreset]

end

theorem restoreEntry_targetAt (h : s.storedOf 0x200100 ≠ s.entryDefault 0x200100) (hgl : s.glRun = false) (hrun : s.pace.running = true) :
    (s.restoreEntry 0x200100).pace.targetAt = some (s.dampStep, leNat (s.entryDefault 0x200100)) := by
  rw [restoreEntry_of_changed h, applyWrite_stepTarget]
  exact retarget_targetAt _ hgl hrun

/-! ## All entries restored -/

section
variable {l : List Nat} (hl : ∀ k ∈ l, k ∈ restoredKeys)
include hl

theorem restoreEntries_besidesSettings (s : State) : (l.foldl restoreEntry s).besidesSettings = s.besidesSettings :=
  foldl_keeps besidesSettings (fun k hk _ => restoreEntry_besidesSettings (hl k hk)) s

theorem restoreEntries_pace (htarget : 0x200100 ∉ l) (s : State) : (l.foldl restoreEntry s).pace = s.pace :=
  foldl_keeps State.pace (fun k hk _ => restoreEntry_pace (hl k hk) (ne_of_mem_of_not_mem hk htarget)) s

variable {key : Nat} (hnot : key ∉ l)
include hnot

theorem restoreEntries_stored_other (s : State) :
    Sparse.get [] (l.foldl restoreEntry s).dict.stored key = Sparse.get [] s.dict.stored key :=
  foldl_keeps (fun t : State => Sparse.get [] t.dict.stored key)
    (fun k hk _ => restoreEntry_stored_other (hl k hk) (ne_of_mem_of_not_mem hk hnot)) s

theorem restoreEntries_val_other (s : State) :
    Sparse.get [] (l.foldl restoreEntry s).dict.val key = Sparse.get [] s.dict.val key :=
  foldl_keeps (fun t : State => Sparse.get [] t.dict.val key)
    (fun k hk _ => restoreEntry_val_other (hl k hk) (ne_of_mem_of_not_mem hk hnot)) s

theorem restoreEntries_storedOf_other (s : State) : (l.foldl restoreEntry s).storedOf key = s.storedOf key :=
  storedOf_congr (congrFun (entryDefault_of_besidesSettings (restoreEntries_besidesSettings hl s)) key)
    (restoreEntries_stored_other hl hnot s)

end

/-- The restoring of all entries comes to an entry once: those before it and those after it leave it alone. -/
theorem restoreDefaults_at {key : Nat} (hkey : key ∈ restoredKeys) : ∃ before after : List Nat,
    (∀ k ∈ before, k ∈ restoredKeys) ∧ (∀ k ∈ after, k ∈ restoredKeys) ∧ key ∉ before ∧ key ∉ after ∧
      ∀ s : State, s.restoreDefaults = after.foldl restoreEntry ((before.foldl restoreEntry s).restoreEntry key) := by
  obtain ⟨before, after, hsplit⟩ := List.append_of_mem hkey
  have hnodup : (before ++ key :: after).Nodup := hsplit ▸ (by decide : restoredKeys.Nodup)
  obtain ⟨hnot, -⟩ := List.nodup_middle.mp hnodup |> List.nodup_cons.mp
  simp only [List.mem_append, not_or] at hnot
  refine ⟨before, after, fun k hk => ?_, fun k hk => ?_, hnot.1, hnot.2, fun s => ?_⟩
  · simp [hsplit, hk]
  · simp [hsplit, hk]
  · rw [restoreDefaults_eq, hsplit, List.foldl_append, List.foldl_cons]

theorem restoreDefaults_besidesSettings (s : State) : s.restoreDefaults.besidesSettings = s.besidesSettings := by
  rw [restoreDefaults_eq, restoreEntries_besidesSettings fun _ h => h]

theorem restoreDefaults_stored_of_not_restored {key : Nat} (h : key ∉ restoredKeys) (s : State) :
    Sparse.get [] s.restoreDefaults.dict.stored key = Sparse.get [] s.dict.stored key := by
  rw [restoreDefaults_eq, restoreEntries_stored_other (fun _ h => h) h]

section
variable {key : Nat} (hkey : key ∈ restoredKeys)
include hkey

theorem restoreDefaults_storedOf (s : State) : s.restoreDefaults.storedOf key = s.entryDefault key := by
  obtain ⟨before, after, hbefore, hafter, -, hnot, hsplit⟩ := restoreDefaults_at hkey
  rw [hsplit, restoreEntries_storedOf_other hafter hnot, restoreEntry_storedOf hkey,
    entryDefault_of_besidesSettings (restoreEntries_besidesSettings hbefore s)]

/-- What the entries before a changed one leave of it: it is changed still, to the same default. -/
theorem restoreDefaults_val (s : State) (h : s.storedOf key ≠ s.entryDefault key) (hreset : key ∉ resetKeys) :
    Sparse.get [] s.restoreDefaults.dict.val key = s.entryDefault key := by
  obtain ⟨before, after, hbefore, hafter, hnot, hnot', hsplit⟩ := restoreDefaults_at hkey
  have hdefault := entryDefault_of_besidesSettings (restoreEntries_besidesSettings hbefore s)
  have hstored := restoreEntries_storedOf_other hbefore hnot s
  rw [hsplit, restoreEntries_val_other hafter hnot', restoreEntry_val_same hkey (by rwa [hstored, hdefault]) hreset, hdefault]

end

theorem glRun_of_besidesSettings {s t : State} (h : t.besidesSettings = s.besidesSettings) : t.glRun = s.glRun :=
  show t.besidesSettings.glRun = s.besidesSettings.glRun from congrArg glRun h

theorem dampStep_of_pace {s t : State} (h : t.pace = s.pace) : t.dampStep = s.dampStep := by simp only [dampStep, now, h]

/-- Outside a system a step target other than the default gives way to it at the Damper interval after the next (R387). -/
theorem restoreDefaults_targetAt (h : s.storedOf 0x200100 ≠ s.entryDefault 0x200100) (hgl : s.glRun = false)
    (hrun : s.pace.running = true) :
    s.restoreDefaults.pace.targetAt = some (s.dampStep, leNat (s.entryDefault 0x200100)) := by
  obtain ⟨before, after, hbefore, hafter, hnot, hnot', hsplit⟩ := restoreDefaults_at (key := 0x200100) (by decide)
  have hsettings := restoreEntries_besidesSettings hbefore s
  have hdefault := entryDefault_of_besidesSettings hsettings
  have hstored := restoreEntries_storedOf_other hbefore hnot s
  have hpace := restoreEntries_pace hbefore hnot s
  rw [hsplit, restoreEntries_pace hafter hnot', restoreEntry_targetAt, dampStep_of_pace hpace, hdefault]
  · rwa [hstored, hdefault]
  · rwa [glRun_of_besidesSettings hsettings]
  · rwa [hpace]

/-- What the restoring of the defaults makes of s (R432). -/
structure DefaultsRestored (s t : State) : Prop where
  kept : t.besidesSettings = s.besidesSettings
  stored : ∀ key ∈ restoredKeys, t.storedOf key = s.entryDefault key
  inForce : ∀ key ∈ restoredKeys, s.storedOf key ≠ s.entryDefault key → key ∉ resetKeys →
    Sparse.get [] t.dict.val key = s.entryDefault key
  others : ∀ key ∉ restoredKeys, Sparse.get [] t.dict.stored key = Sparse.get [] s.dict.stored key
  target : s.storedOf 0x200100 ≠ s.entryDefault 0x200100 → s.glRun = false → s.pace.running = true →
    t.pace.targetAt = some (s.dampStep, leNat (s.entryDefault 0x200100))

theorem restoreDefaults_restored (s : State) : DefaultsRestored s s.restoreDefaults where
  kept := restoreDefaults_besidesSettings s
  stored _ hkey := restoreDefaults_storedOf hkey s
  inForce _ hkey := restoreDefaults_val hkey s
  others _ hkey := restoreDefaults_stored_of_not_restored hkey s
  target := restoreDefaults_targetAt

/-! ## The step that completes the store -/

theorem closeAll_of_not_due (h : s.rng.closeDue = false) : s.closeAll = s.useAddrs := by
  have huse : s.useAddrs.rng.closeDue = false := h
  simp [closeAll, huse]

theorem drainRx_of_empty (h : Holdup) (hempty : s.rng.rxq = []) : drainRx h s.rng.rxq.length s = some s := by
  rw [hempty]; rfl

/-- With nothing waiting, the operation that asked for the store is answered, and no more is done (R398, R410). -/
theorem answerWaiter_single (h : Holdup) (x : Op) (hempty : s.rng.rxq = []) (hdue : s.rng.closeDue = false) (data : List Byte) :
    s.answerWaiter h (.single x) data = some (s.answered x.o 0 data) := by
  have hclose : (s.emit (.result x.o 0 0 data)).closeAll = s.answered x.o 0 data := closeAll_of_not_due hdue
  unfold answerWaiter
  dsimp only
  rw [hclose]
  exact drainRx_of_empty h hempty

/-- The state once the store in progress has ended. -/
def storeEnded (s : State) : State := { s with rng := { s.rng with store := none } }

theorem rng_of_besidesSettings {s t : State} (h : t.besidesSettings = s.besidesSettings) : t.rng = s.rng :=
  show t.besidesSettings.rng = s.besidesSettings.rng from congrArg State.rng h

/-- The store of the defaults completes: all are restored, and the command is answered. -/
theorem exec_parameterStoreDone_defaults (h : Holdup) (x : Op) (hempty : s.rng.rxq = []) (hdue : s.rng.closeDue = false)
    (hstore : s.rng.store = some (.defaults, .single x)) :
    exec (.parameterStoreDone h) s = .next (s.storeEnded.restoreDefaults.answered x.o 0 []) := by
  have hrng := rng_of_besidesSettings s.storeEnded.restoreDefaults_besidesSettings
  have hanswer : s.storeEnded.restoreDefaults.answerWaiter h (.single x) [] = _ :=
    answerWaiter_single h x (by rw [hrng]; exact hempty) (by rw [hrng]; exact hdue) []
  have hfinish : s.finishStore h = s.storeEnded.restoreDefaults.answerWaiter h (.single x) [] := by
    simp only [finishStore, hstore]
    rfl
  show outcome (s.finishStore h) = _
  rw [hfinish, hanswer]
  rfl

/-! ## The command -/

section
variable {o : OpReq} {w : Nat} {b : Option BWrite}

/-- An operation keeps its session open, and changes nothing else of it (R415). -/
theorem sessionOf_touch {k : Session} (hk : s.sessionOf o.sid = some k) :
    (s.touch o).sessionOf o.sid = some { k with enc := o.enc, last := s.nowMs } := by
  have hsid : k.sid = o.sid := by simpa using List.find?_some hk
  have hsame : ((fun y : Session => decide (y.sid = o.sid)) ∘
      fun y : Session => if y.sid = k.sid then { k with enc := o.enc, last := s.nowMs } else y) = fun y => decide (y.sid = o.sid) := by
    funext y
    by_cases hy : y.sid = k.sid <;> simp [hy]
  unfold sessionOf at hk
  simp only [touch, sessionOf, hk, setSession, List.find?_map, hsame, Option.map_some, if_pos]

theorem touch_eq (s : State) (o : OpReq) : s.touch o = { s with rng := { s.rng with sessions := (s.touch o).rng.sessions } } := by
  unfold touch
  split <;> rfl

/-- What follows the answer of an operation given alone: its store begins, or its result is sent where it fits a message (R410, R411). -/
def afterOp (x : Op) (a : Ans) : State :=
  match a.job with
  | some j => a.s.beginStore j (.single x)
  | none =>
    if 1400 < (resultBytes a.status a.retry a.data).length then a.s
    else (a.s.emit (.result x.o a.status (BitVec.ofNat 16 a.retry) a.data)).closeAll

theorem afterOp_of_job (x : Op) {a : Ans} {j : StoreJob} (hjob : a.job = some j) : afterOp x a = a.s.beginStore j (.single x) := by
  simp only [afterOp, hjob]

/-- A bare status always fits a message. -/
theorem afterOp_of_status (x : Op) (s : State) (code : W16) (hdue : s.rng.closeDue = false) :
    afterOp x { s, status := code } = s.answered x.o code [] := by
  have hfits : ¬ 1400 < (resultBytes code 0 []).length := by simp [resultBytes]
  simp only [afterOp, if_neg hfits]
  exact closeAll_of_not_due hdue

/-- Ranger runs a served operation at once, in its session kept open (R410, R415). -/
theorem single_of_serves {x : Op} (hserves : s.servesIn x.o w b) (h : Holdup) {a : Ans} (hrun : (s.touch x.o).runOp x h = some a) :
    s.single x h = .next (afterOp x a) := by
  obtain ⟨hlisten, hstore, -, -, -, hsid, -, k, hk, hconf, -, -, -⟩ := hserves
  have htouch : s.touch x.o = s.setSession { k with enc := x.o.enc, last := s.nowMs } := by simp only [touch, hk]
  unfold single handleOp
  simp only [hlisten, hstore, Bool.not_true, Bool.false_eq_true, if_false, if_neg hsid, hk, if_pos hconf, ← htouch, hrun]
  unfold afterOp
  cases a.job <;> rfl

theorem roleMay_of_code {r : Role} {x : Op} {e : DEntry} (hvendor : r ≠ .vendor) (hcode : (if x.reads then e.rd else e.wr) ≤ r.code) :
    roleMay (some r) x e = true := by
  cases r with
  | vendor => exact absurd rfl hvendor
  | observer | operator | owner => exact decide_eq_true hcode

/-- A session with the role that an entry asks for passes step 4 (R412, R427). -/
theorem checkRole_of_serves {x : Op} (hserves : s.servesIn x.o w b) {e : DEntry} (hrole : (if x.reads then e.rd else e.wr) ≤ w) :
    (s.touch x.o).checkRole x e = none := by
  obtain ⟨-, -, -, -, -, -, henc, k, hk, -, hvendor, hcode, -⟩ := hserves
  have henc' : (s.touch x.o).encRequired = s.encRequired := by rw [touch_eq]; rfl
  have hmay : roleMay (some k.role) x e = true := roleMay_of_code hvendor (hrole.trans hcode)
  have hsealed : ¬ (x.o.sid ≠ 0 ∧ s.encRequired = true ∧ x.o.enc = false) := fun ⟨_, hreq, hplain⟩ => by simp [henc hreq] at hplain
  simp only [checkRole, sessionOf_touch hk, henc', Option.map_some, hmay, Bool.not_true, Bool.false_eq_true, if_false, if_neg hsealed]

/-- A command entry without argument takes a COMMAND without data, in a session with no bundle begun (R426, R439). -/
theorem checkOp_of_command {x : Op} (hserves : s.serves x.o w) {e : DEntry} (hop : x.op = opCommand) (hacc : e.acc = .cmd)
    (hrole : e.wr ≤ w) (htyp : x.o.typ = 0) (hsize : e.size = some x.o.data.length) (hcommit : x.key ≠ 0xB00200) (habort : x.key ≠ 0xB00300) :
    (s.touch x.o).checkOp x e = none := by
  have hreads := Op.reads_of_command hop
  have haccess : (s.touch x.o).checkAccess x e = none := by simp [checkAccess, hreads, hop, hacc]
  have hrole' : (s.touch x.o).checkRole x e = none := checkRole_of_serves hserves (by simpa [hreads] using hrole)
  have hform : checkForm x e = none := by simp [checkForm, htyp, hop, hreads, hsize, opCommand, opSegWrite, opSegRead]
  have hbundle : (s.touch x.o).checkBundle x e = none := by
    obtain ⟨-, -, -, -, -, -, -, k, hk, -, -, -, hbw⟩ := hserves
    have hopen : (s.touch x.o).openBundle x = none := by simp [openBundle, sessionOf_touch hk, hbw]
    simp [checkBundle, hopen, hcommit, habort]
  simp only [checkOp, haccess, hrole', hform, hbundle]
  rfl

/-- An operation that passes steps 1 to 6 is done (R428). -/
theorem runOp_of_checked {x : Op} {e : DEntry} (h : Holdup) (hready : s.checkReady x = none) (hindex : x.index < 0xF000)
    (hentry : s.entry x.key = some e) (hchecked : s.checkOp x e = none) : s.runOp x h = some (s.doOp x e h) := by
  simp only [runOp, hready, if_neg (BitVec.not_le.mpr hindex), hentry, hchecked]

theorem doOp_of_command {x : Op} {e : DEntry} {h : Holdup} (hop : x.op = opCommand) : s.doOp x e h = s.commandOp x h := by
  simp only [doOp, Op.reads_of_command hop, hop, Bool.false_eq_true, if_false, if_true]

theorem commandOp_defaults {x : Op} (h : Holdup) (hkey : x.key = 0x102000) : s.commandOp x h = s.defaultsCommand h := by
  simp only [commandOp, hkey]

/-- PARAM_DEFAULTS as an entry (R433). -/
def defaultsEntry : DEntry := wrE 0 (some 0) .cmd 2

/-- Served in an Owner's session, PARAM_DEFAULTS passes all checks before its own. -/
theorem runOp_defaults (hserves : s.serves o 2) (hsub : o.sub = 0) (htyp : o.typ = 0) (hdata : o.data = []) (h : Holdup) :
    (s.touch o).runOp (commandOf 0x1020 o) h = some ((s.touch o).defaultsCommand h) := by
  have hkey : (commandOf 0x1020 o).key = 0x102000 := by simp [Op.key, commandOf, hsub]
  have hready : (s.touch o).checkReady (commandOf 0x1020 o) = none := by
    obtain ⟨-, -, hlevel, hfw, -⟩ := hserves
    rw [touch_eq]
    exact checkReady_of_not_fwBusy hlevel hfw
  have hchecked : (s.touch o).checkOp (commandOf 0x1020 o) defaultsEntry = none :=
    checkOp_of_command (x := commandOf 0x1020 o) hserves rfl rfl (le_refl 2) htyp (by simp [commandOf, hdata, defaultsEntry, wrE])
      (by rw [hkey]; decide) (by rw [hkey]; decide)
  rw [runOp_of_checked (e := defaultsEntry) h hready (by simp [commandOf]) (by rw [hkey]; rfl) hchecked]
  rw [doOp_of_command rfl, commandOp_defaults h hkey]

/-- A store that passes its check begins; C and E are shown (R396, R397). -/
theorem storing_of_holdCode_none (j : StoreJob) {h : Holdup} {need : Nat} (hold : holdCode h need = none) :
    s.storing h need j = { s := (s.holdCheck h need).1, job := some j } := by
  have hcheck : (s.holdCheck h need).2 = none := by simp [holdCheck, hold]
  unfold storing
  split
  case h_1 hcode => simp [hcode] at hcheck
  case h_2 hok => rw [hok]

theorem holdCheck_eq (s : State) (h : Holdup) (need : Nat) : (s.holdCheck h need).1 = { s with rng := (s.holdCheck h need).1.rng } := by
  unfold holdCheck
  dsimp only
  split <;> rfl

/-- The command while a pack runs: refused, and nothing changes (R432). -/
theorem exec_paramDefaults_of_running (hserves : s.serves o 2) (hsub : o.sub = 0) (htyp : o.typ = 0) (hdata : o.data = []) (h : Holdup)
    (hrunning : s.isRunning = true) : exec (.paramDefaults o h) s = .next ((s.touch o).answered o 0x0305 []) := by
  have hrunning' : (s.touch o).isRunning = true := by rw [touch_eq]; exact hrunning
  have hdue : (s.touch o).rng.closeDue = false := by
    obtain ⟨-, -, -, -, hdue, -⟩ := hserves
    rw [touch_eq]; exact hdue
  have hanswer : (s.touch o).defaultsCommand h = { s := s.touch o, status := 0x0305 } := if_pos hrunning'
  show s.single (commandOf 0x1020 o) h = _
  rw [single_of_serves (x := commandOf 0x1020 o) hserves h (runOp_defaults hserves hsub htyp hdata h), hanswer,
    afterOp_of_status _ _ _ hdue]
  rfl

/-- The command with no pack running and the bank charged: its store begins (R397, R432). -/
theorem exec_paramDefaults_of_stopped (hserves : s.serves o 2) (hsub : o.sub = 0) (htyp : o.typ = 0) (hdata : o.data = []) {h : Holdup}
    (hstopped : s.isRunning = false) (hold : holdCode h needParam = none) :
    exec (.paramDefaults o h) s =
      .next (((s.touch o).holdCheck h needParam).1.beginStore .defaults (.single (commandOf 0x1020 o))) := by
  have hstopped' : (s.touch o).isRunning = false := by rw [touch_eq]; exact hstopped
  have hanswer : (s.touch o).defaultsCommand h = { s := ((s.touch o).holdCheck h needParam).1, job := some .defaults } := by
    simp only [defaultsCommand, hstopped', Bool.false_eq_true, if_false, storing_of_holdCode_none .defaults hold]
  show s.single (commandOf 0x1020 o) h = _
  rw [single_of_serves (x := commandOf 0x1020 o) hserves h (runOp_defaults hserves hsub htyp hdata h), hanswer,
    afterOp_of_job _ rfl]

end

/-- Beginning the store leaves the dictionary and what the module has sent as they were. -/
theorem beginStore_touch_frame (s : State) (o : OpReq) (h : Holdup) (need : Nat) (j : StoreJob) (who : StoreFor) :
    (((s.touch o).holdCheck h need).1.beginStore j who).dict = s.dict ∧
      (((s.touch o).holdCheck h need).1.beginStore j who).out = s.out := by
  rw [holdCheck_eq, touch_eq]
  exact ⟨rfl, rfl⟩

end State

/-- No RWS entry lies in the ranges from 0x8000 on. -/
theorem mem_restoredKeys_of_range {key : Nat} (hkey : key ∈ rwsKeys) (hrange : key < 0x700000 ∨ 0x800000 ≤ key) :
    key ∈ State.restoredKeys := by
  have hbound : ∀ k ∈ rwsKeys, k < 0x800000 := by decide
  have := hbound key hkey
  exact State.mem_restoredKeys.mpr ⟨hkey, by omega⟩

/-- Settles O50: the command begins one store, and its end restores the entries one by one, each at its default and in force. -/
theorem parameterDefaults : Obligations.ParameterDefaults := by
  unfold Obligations.ParameterDefaults
  intro s o h x
  refine ⟨fun hserves hsub htyp hdata => ⟨fun hrunning => ?running, fun hstopped hold => ?stopped⟩,
    fun hempty hdue hstore => ⟨_, State.exec_parameterStoreDone_defaults h x hempty hdue hstore, ?done⟩⟩
  case running => exact State.exec_paramDefaults_of_running hserves hsub htyp hdata h hrunning
  case stopped =>
    exact ⟨_, State.exec_paramDefaults_of_stopped hserves hsub htyp hdata hstopped hold, rfl, s.beginStore_touch_frame o h _ _ _⟩
  case done =>
    obtain ⟨hkept, hstored, hval, hothers, htarget⟩ := s.storeEnded.restoreDefaults_restored
    generalize s.storeEnded.restoreDefaults = u at hkept hstored hval hothers htarget ⊢
    have keeps {γ : Type} (p : State → γ) : p u.besidesSettings = p s.storeEnded.besidesSettings := congrArg p hkept
    refine ⟨keeps (·.rng.store), fun key hk hrange => ?entry, fun k hk => hothers k ?above, htarget, keeps (·.dict.ownerKey),
      keeps (·.dict.cal), keeps (·.dict.staged), keeps (·.dict.calStored), keeps State.log, keeps (·.rng.restartCount),
      keeps (·.rng.baseRestarts), keeps (·.rng.holdRefusals), keeps (·.pwr.trips), List.getLast?_concat⟩
    case entry =>
      have hk := mem_restoredKeys_of_range hk hrange
      exact ⟨hstored key hk, fun hchanged h1 h2 h3 => hval key hk hchanged (by simp [State.resetKeys, h1, h2, h3])⟩
    case above => exact fun hmem => absurd (State.mem_restoredKeys.mp hmem).2 (by omega)

end Sys2Proof.Machine
end

section
/-! PROOFS. The round trip of the sequencer words (R174, R177): each field of an encoded word reads back, and a word that decodes
agrees in every field with the encoding of what it decodes to. -/

namespace Sys2Proof

/-! ## Fields of words put together from fields -/

/-- High bits of two fields put together, at any spelling of the width, are bits of the higher field. -/
theorem extract_append_high {n m : Nat} (x : BitVec n) (y : BitVec m) (lo k : Nat) (h : m ≤ lo) :
    BitVec.extractLsb' lo k (no_index (x ++ y)) = x.extractLsb' (lo - m) k := high_append x y lo k h

/-- Low bits of two fields put together are bits of the lower field. -/
theorem extract_append_low {n m : Nat} (x : BitVec n) (y : BitVec m) (lo k : Nat) (h : lo + k ≤ m) :
    BitVec.extractLsb' lo k (no_index (x ++ y)) = y.extractLsb' lo k := by
  apply BitVec.eq_of_getLsbD_eq
  intro i hi
  have h1 : lo + i < m := by omega
  simp [BitVec.getLsbD_extractLsb', BitVec.getLsbD_append, h1]

@[simp] theorem bit_eq_one (b : Bool) : (bit b = 1#1) = (b = true) := by cases b <;> simp [bit]

@[simp] theorem bit_eq_zero (b : Bool) : (bit b = 0#1) = (b = false) := by cases b <;> simp [bit]

@[simp] theorem bit_flag (w : W64) (i : Nat) : bit (flag w i) = fld w i 1 := by
  have hcases : ∀ x : BitVec 1, bit (decide (x = 1)) = x := by decide
  exact hcases (fld w i 1)

/-- Do two words agree in the fields of these widths from bit lo on? -/
def SameFields (w v : W64) : Nat → List Nat → Prop
  | _, [] => True
  | lo, n :: r => fld w lo n = fld v lo n ∧ SameFields w v (lo + n) r

theorem getLsbD_eq_of_sameFields {w v : W64} {ns : List Nat} {lo : Nat} (h : SameFields w v lo ns) {i : Nat} (hlo : lo ≤ i)
    (hi : i < lo + ns.sum) : w.getLsbD i = v.getLsbD i := by
  induction ns generalizing lo with
  | nil => simp at hi; omega
  | cons n r ih =>
    obtain ⟨hfield, hrest⟩ := h
    by_cases hin : i < lo + n
    · have hbit := congrArg (·.getLsbD (i - lo)) hfield
      have hlt : i - lo < n := by omega
      simpa [fld, BitVec.getLsbD_extractLsb', hlt, Nat.add_sub_cancel' hlo] using hbit
    · exact ih hrest (by omega) (by simp only [List.sum_cons] at hi; omega)

/-- Words that agree in fields that cover all 64 bits are the same. -/
theorem eq_of_sameFields {w v : W64} (ns : List Nat) (hcover : ns.sum = 64) (h : SameFields w v 0 ns) : w = v :=
  BitVec.eq_of_getLsbD_eq fun _ hi => getLsbD_eq_of_sameFields h (Nat.zero_le _) (by omega)

theorem fld_eq_zero_iff {w : W64} {lo n : Nat} : fld w lo n = 0 ↔ ∀ i < n, w.getLsbD (lo + i) = false := by
  refine ⟨fun h i hi => ?_, fun h => BitVec.eq_of_getLsbD_eq fun i hi => ?_⟩
  · simpa [fld, BitVec.getLsbD_extractLsb', hi] using congrArg (·.getLsbD i) h
  · simp [fld, BitVec.getLsbD_extractLsb', h i hi]

/-- A field is zero where both its parts are. -/
theorem fld_add_eq_zero (w : W64) (lo n m : Nat) : fld w lo (n + m) = 0 ↔ fld w lo n = 0 ∧ fld w (lo + n) m = 0 := by
  simp only [fld_eq_zero_iff, Nat.add_assoc]
  refine ⟨fun h => ⟨fun i hi => h i (by omega), fun i hi => h (n + i) (by omega)⟩, fun ⟨hlow, hhigh⟩ i hi => ?_⟩
  by_cases hin : i < n
  · exact hlow i hin
  · have := hhigh (i - n) (by omega)
    rwa [show lo + (n + (i - n)) = lo + i by omega] at this

/-- The widths of the fields, from bit 0 on, of the words that have a form of their own, by operation code (R177). -/
def fieldWidths : Nat → List Nat
  | 0x10 => [18, 30, 6, 1, 1, 8]
  | 0x11 => [18, 8, 10, 1, 1, 3, 1, 2, 2, 2, 5, 1, 1, 1, 8]
  | 0x12 => [34, 1, 3, 3, 7, 6, 1, 1, 8]
  | 0x20 => [42, 3, 3, 6, 1, 1, 8]
  | 0x21 => [8, 48, 8]
  | 0x22 => [8, 36, 4, 8, 8]
  | 0x23 => [18, 19, 4, 3, 1, 3, 6, 1, 1, 8]
  | 0x30 | 0x31 => [4, 52, 8]
  | 0x38 => [4, 1, 51, 8]
  | 0x39 | 0x3A | 0x51 => [44, 4, 8, 8]
  | 0x40 => [6, 38, 4, 6, 1, 1, 8]
  | 0x41 => [6, 1, 33, 4, 4, 6, 1, 1, 8]
  | 0x48 => [24, 12, 10, 2, 6, 1, 1, 8]
  | 0x49 => [12, 34, 2, 8, 8]
  | 0x4A => [12, 28, 4, 4, 6, 1, 1, 8]
  | 0x4B => [12, 8, 19, 1, 4, 4, 8, 8]
  | 0x50 => [18, 23, 4, 3, 6, 1, 1, 8]
  | _ => [56, 8]

/-- A word with the fields of an encoding is that encoding. -/
theorem eq_of_fieldWidths {w v : W64} {k : Nat} (hcover : (fieldWidths k).sum = 64) (h : SameFields v w 0 (fieldWidths k)) :
    some v = some w := congrArg some (eq_of_sameFields _ hcover h)

theorem zeros_cons {w : W64} {lo n : Nat} {r : List (Nat × Nat)} :
    zeros w ((lo, n) :: r) = true ↔ fld w lo n = 0 ∧ zeros w r = true := by simp [zeros]

/-! ## The shared forms read back from their words -/

section

variable {op : Byte} {w : W64}

theorem scalarOf_scalarWord {f : Scalar} (bm varOk : Bool) (h : varOk = true ∨ f.var = false) :
    scalarOf (scalarWord op bm f) varOk = some f := by
  obtain ⟨rd, ra, rb, imm, var, imm32⟩ := f
  simpa (disch := decide) [scalarOf, zeros, fld, flag, scalarWord, extract_append_high, extract_append_low,
    or_iff_not_imp_left] using h

theorem fld_scalarWord_reserved (bm : Bool) (f : Scalar) : fld (scalarWord op bm f) 48 7 = 0#7 := by
  simp (disch := decide) [fld, scalarWord, extract_append_high, extract_append_low]

theorem fld_scalarWord_bm (bm : Bool) (f : Scalar) : fld (scalarWord op bm f) 55 1 = bit bm := by
  simp (disch := decide) [fld, scalarWord, extract_append_high, extract_append_low]

theorem plainScalar_scalarWord {f : Scalar} (varOk : Bool) (h : varOk = true ∨ f.var = false) :
    plainScalar (scalarWord op false f) varOk = some f := by
  have hzero : fld (scalarWord op false f) 48 (7 + 1) = 0 :=
    (fld_add_eq_zero _ 48 7 1).mpr ⟨fld_scalarWord_reserved _ f, fld_scalarWord_bm _ f⟩
  rw [plainScalar, if_pos (by simpa [zeros] using hzero), scalarOf_scalarWord false varOk h]

theorem vecOf_vecWord {f : VecF} (form : BitVec 2) (hasGrp : Bool) (h : hasGrp = true ∨ f.noGrp = true) :
    vecOf (vecWord op form f) hasGrp = some f := by
  obtain ⟨ia, ib, grp, vpr⟩ := f
  simpa (disch := decide) [vecOf, zeros, fld, flag, vecWord, extract_append_high, extract_append_low, VecF.noGrp,
    or_iff_not_imp_left] using h

theorem fld_vecWord_form (form : BitVec 2) (f : VecF) : fld (vecWord op form f) 36 2 = form := by
  simp (disch := decide) [fld, vecWord, extract_append_high, extract_append_low]

theorem drainOf_drainWord (mode : BitVec 2) (f : DrainF) : drainOf (drainWord mode f) = some f := by
  simp (disch := decide) [drainOf, zeros, fld, flag, drainWord, extract_append_high, extract_append_low]

theorem fld_drainWord_mode (mode : BitVec 2) (f : DrainF) : fld (drainWord mode f) 30 2 = mode := by
  simp (disch := decide) [fld, drainWord, extract_append_high, extract_append_low]

theorem fld_drainWord_bm (mode : BitVec 2) (f : DrainF) : fld (drainWord mode f) 55 1 = bit f.bm := by
  simp (disch := decide) [fld, drainWord, extract_append_high, extract_append_low]

theorem scalarWord_of_scalarOf {f : Scalar} {varOk : Bool} (h : scalarOf w varOk = some f) (hop : fld w 56 8 = op)
    (hmid : fld w 48 7 = 0) : scalarWord op (flag w 55) f = w ∧ (varOk = true ∨ f.var = false) := by
  simp only [scalarOf, zeros, Bool.and_true, Bool.and_eq_true, Bool.or_eq_true, decide_eq_true_eq, Option.ite_none_right_eq_some,
    Option.some.injEq] at h
  obtain ⟨⟨hlow, hvar⟩, rfl⟩ := h
  subst hop
  refine ⟨eq_of_sameFields [32, 2, 1, 1, 4, 4, 4, 7, 1, 8] rfl ?_, hvar.imp id fun e => by simp [flag, e]⟩
  simp (disch := decide) [SameFields, scalarWord, extract_append_high, extract_append_low, fld] at hlow hmid ⊢
  simp [*]

theorem scalarWord_of_plainScalar {f : Scalar} {varOk : Bool} (h : plainScalar w varOk = some f) (hop : fld w 56 8 = op) :
    scalarWord op false f = w ∧ (varOk = true ∨ f.var = false) := by
  simp only [plainScalar, zeros, Bool.and_true, decide_eq_true_eq, Option.ite_none_right_eq_some] at h
  obtain ⟨hzero, hf⟩ := h
  obtain ⟨hlow, hhigh⟩ := (fld_add_eq_zero w 48 7 1).mp hzero
  have hbm : flag w 55 = false := by simp [flag, hhigh]
  exact hbm ▸ scalarWord_of_scalarOf hf hop hlow

theorem vecWord_of_vecOf {f : VecF} {hasGrp : Bool} {form : BitVec 2} (h : vecOf w hasGrp = some f) (hop : fld w 56 8 = op)
    (hform : fld w 36 2 = form) : vecWord op form f = w ∧ (hasGrp = true ∨ f.noGrp = true) := by
  simp only [vecOf, zeros, Bool.and_true, Bool.and_eq_true, Bool.or_eq_true, decide_eq_true_eq, Option.ite_none_right_eq_some,
    Option.some.injEq] at h
  obtain ⟨⟨hzero, hgrp⟩, rfl⟩ := h
  subst hop hform
  refine ⟨eq_of_sameFields [18, 18, 2, 3, 7, 5, 1, 1, 1, 8] rfl ?_, hgrp.imp id fun e => by simp [VecF.noGrp, flag, e]⟩
  simp (disch := decide) [SameFields, vecWord, extract_append_high, extract_append_low, fld] at hzero ⊢
  simp [*]

theorem drainWord_of_drainOf {f : DrainF} {mode : BitVec 2} (h : drainOf w = some f) (hop : fld w 56 8 = 0x13)
    (hmode : fld w 30 2 = mode) : drainWord mode f = w ∧ f.bm = flag w 55 := by
  simp only [drainOf, zeros, Bool.and_true, Bool.and_eq_true, decide_eq_true_eq, Option.ite_none_right_eq_some,
    Option.some.injEq] at h
  obtain ⟨hzero, rfl⟩ := h
  subst hmode
  refine ⟨eq_of_sameFields [18, 8, 4, 2, 6, 3, 4, 3, 5, 1, 1, 1, 8] rfl ?_, rfl⟩
  simp (disch := decide) [SameFields, drainWord, extract_append_high, extract_append_low, fld] at hop hzero ⊢
  simp [*]

end

/-! ## The round trip -/

theorem decodeWord_encodeWord {i : Instr} {w : W64} (hwf : i.wf = true) (henc : encodeWord i = some w) :
    ∃ c : CoreId, decodeWord c w = some i := by
  cases i with
  | nop c v =>
    obtain rfl : v = w := Option.some.inj henc
    obtain rfl : v = 0 := by simpa [Instr.wf] using hwf
    exact ⟨c, rfl⟩
  | add c f | sub c f | mul c f | and c f | or c f | shl c f | lds c f =>
    obtain rfl := Option.some.inj henc
    have hvar : f.var = false := by simpa [Instr.wf, Scalar.plain] using hwf
    exact ⟨c, by simp [decodeWord, scalarWord_opcode, plainScalar_scalarWord, hvar]⟩
  | shr c f | ldi c f =>
    obtain rfl := Option.some.inj henc
    exact ⟨c, by simp [decodeWord, scalarWord_opcode, plainScalar_scalarWord]⟩
  | sts c bm f =>
    obtain rfl := Option.some.inj henc
    have hvar : f.var = false := by simpa [Instr.wf, Scalar.plain] using hwf
    exact ⟨c, by
      simp [decodeWord, scalarWord_opcode, zeros, flag, fld_scalarWord_reserved, fld_scalarWord_bm, scalarOf_scalarWord, hvar]⟩
  | drain c f =>
    obtain rfl := Option.some.inj henc
    exact ⟨c, by simp [decodeWord, drainWord_opcode, fld_drainWord_mode, drainOf_drainWord]⟩
  | drainSplitNode c f =>
    obtain rfl := Option.some.inj henc
    have hbm : f.bm = false := by simpa [Instr.wf] using hwf
    exact ⟨c, by simp [decodeWord, drainWord_opcode, fld_drainWord_mode, drainOf_drainWord, zeros, fld_drainWord_bm, hbm]⟩
  | mvd c f | mvsRow c f | mvsGather c f | isxDot c f | isxSampled c f =>
    obtain rfl := Option.some.inj henc
    exact ⟨c, by simp [decodeWord, vecWord_opcode, fld_vecWord_form, vecOf_vecWord]⟩
  | mrg c f | sct c f =>
    obtain rfl := Option.some.inj henc
    have hgrp : f.noGrp = true := hwf
    exact ⟨c, by simp [decodeWord, vecWord_opcode, fld_vecWord_form, vecOf_vecWord, hgrp]⟩
  | wld c | pass c | aclr c | arm c | waits c | waitany c | dpkOut c | dpkIn c | cbar c | csig c | bopen c | bcommit c | babort c
  | tkt c | tktset c | loop c | endl c | bkt c | chain c | stepCtr c =>
    obtain rfl := Option.some.inj henc
    exact ⟨c, by simp (disch := decide) [decodeWord, zeros, fld, flag, extract_append_high, extract_append_low]⟩
  | br c cond =>
    obtain rfl := Option.some.inj henc
    have hcond : cond.toNat ≤ 4 := by simpa [Instr.wf, BitVec.le_def] using hwf
    exact ⟨c, by simp (disch := decide) [decodeWord, zeros, fld, flag, extract_append_high, extract_append_low, hcond]⟩
  | halt c =>
    obtain rfl := Option.some.inj henc
    exact ⟨c, rfl⟩
  | _ => cases henc

theorem encodeWord_decodeWord {c : CoreId} {w : W64} {i : Instr} (h : decodeWord c w = some i) :
    encodeWord i = some w ∧ i.wf = true := by
  have code {k : Nat} (hk : (fld w 56 8).toNat = k) : fld w 56 8 = BitVec.ofNat 8 k := by rw [← hk, BitVec.ofNat_toNat]; simp
  have form {k : Nat} {lo : Nat} (hk : (fld w lo 2).toNat = k) : fld w lo 2 = BitVec.ofNat 2 k := by
    rw [← hk, BitVec.ofNat_toNat]; simp
  unfold decodeWord at h
  split at h <;> rename_i hcode
  -- NOP
  case h_1 =>
    obtain ⟨rfl, rfl⟩ : w = 0 ∧ _ := by simpa using h
    exact ⟨rfl, rfl⟩
  -- the scalar form with VAR reserved
  case h_2 | h_3 | h_4 | h_5 | h_6 | h_7 | h_10 =>
    obtain ⟨f, hf, rfl⟩ := Option.map_eq_some_iff.mp h
    obtain ⟨hw, hvar⟩ := scalarWord_of_plainScalar hf (code hcode)
    exact ⟨congrArg some hw, by simpa [Instr.wf, Scalar.plain] using hvar⟩
  -- SHR and LDI
  case h_8 | h_9 =>
    obtain ⟨f, hf, rfl⟩ := Option.map_eq_some_iff.mp h
    exact ⟨congrArg some (scalarWord_of_plainScalar hf (code hcode)).1, rfl⟩
  -- STS
  case h_11 =>
    obtain ⟨hzero, hmap⟩ := Option.ite_none_right_eq_some.mp h
    obtain ⟨f, hf, rfl⟩ := Option.map_eq_some_iff.mp hmap
    obtain ⟨hw, hvar⟩ := scalarWord_of_scalarOf hf (code hcode) (by simpa [zeros] using hzero)
    exact ⟨congrArg some hw, by simpa [Instr.wf, Scalar.plain] using hvar⟩
  -- DRAIN, by its mode
  case h_15 =>
    split at h
    next hmode =>
      obtain ⟨f, hf, rfl⟩ := Option.map_eq_some_iff.mp h
      exact ⟨congrArg some (drainWord_of_drainOf hf (code hcode) (form hmode)).1, rfl⟩
    next =>
      obtain ⟨⟨hmode, hzero⟩, hmap⟩ := Option.ite_none_right_eq_some.mp h
      obtain ⟨f, hf, rfl⟩ := Option.map_eq_some_iff.mp hmap
      obtain ⟨hw, hbm⟩ := drainWord_of_drainOf hf (code hcode) (form hmode)
      have hzero' : fld w 55 1 = 0 := by simpa [zeros] using hzero
      exact ⟨congrArg some hw, by simp [Instr.wf, hbm, flag, hzero']⟩
  -- the vector form
  case h_16 =>
    obtain ⟨hform, hmap⟩ := Option.ite_none_right_eq_some.mp h
    obtain ⟨f, hf, rfl⟩ := Option.map_eq_some_iff.mp hmap
    exact ⟨congrArg some (vecWord_of_vecOf hf (code hcode) (form hform)).1, rfl⟩
  case h_17 | h_18 =>
    split at h
    next hform =>
      obtain ⟨f, hf, rfl⟩ := Option.map_eq_some_iff.mp h
      exact ⟨congrArg some (vecWord_of_vecOf hf (code hcode) (form hform)).1, rfl⟩
    next =>
      obtain ⟨hform, hmap⟩ := Option.ite_none_right_eq_some.mp h
      obtain ⟨f, hf, rfl⟩ := Option.map_eq_some_iff.mp hmap
      exact ⟨congrArg some (vecWord_of_vecOf hf (code hcode) (form hform)).1, rfl⟩
  case h_19 | h_20 =>
    obtain ⟨hform, hmap⟩ := Option.ite_none_right_eq_some.mp h
    obtain ⟨f, hf, rfl⟩ := Option.map_eq_some_iff.mp hmap
    obtain ⟨hw, hgrp⟩ := vecWord_of_vecOf hf (code hcode) (form hform)
    exact ⟨congrArg some hw, by simpa [Instr.wf] using hgrp⟩
  -- no instruction
  case h_39 => cases h
  -- the words of no shared form: each field of the encoding is the word's
  all_goals
    rw [Option.ite_none_right_eq_some] at h
    obtain ⟨hzero, h⟩ := h
  case h_24 =>
    split at h
    next hin =>
      obtain ⟨hbm, h⟩ := Option.ite_none_right_eq_some.mp h
      obtain rfl := Option.some.inj h
      have hin' : fld w 44 1 = 1 := by simpa [flag] using hin
      exact ⟨eq_of_fieldWidths (k := 0x23) rfl (by
        replace hcode := code hcode
        simp only [zeros_cons, fld] at * 
        simp (disch := decide) [SameFields, fieldWidths, extract_append_high, extract_append_low, fld, *]), rfl⟩
    next hout =>
      obtain rfl := Option.some.inj h
      have hout' : fld w 44 1 = 0 := (BitVec.eq_zero_or_eq_one _).resolve_right (by simpa [flag] using hout)
      exact ⟨eq_of_fieldWidths (k := 0x23) rfl (by
        replace hcode := code hcode
        simp only [zeros_cons, fld] at * 
        simp (disch := decide) [SameFields, fieldWidths, extract_append_high, extract_append_low, fld, *]), rfl⟩
  case h_34 =>
    obtain ⟨hzero, hcond⟩ := hzero
    obtain rfl := Option.some.inj h
    exact ⟨eq_of_fieldWidths (k := 0x4A) rfl (by
        replace hcode := code hcode
        simp only [zeros_cons, fld] at * 
        simp (disch := decide) [SameFields, fieldWidths, extract_append_high, extract_append_low, fld, *]), by simpa [Instr.wf, BitVec.le_def] using hcond⟩
  all_goals
    obtain rfl := Option.some.inj h
    refine ⟨eq_of_fieldWidths (k := (fld w 56 8).toNat) (by rw [hcode]; rfl) ?_, rfl⟩
    rw [hcode]
    replace hcode := code hcode
    simp only [zeros_cons, fld] at hzero hcode
    simp (disch := decide) [SameFields, fieldWidths, extract_append_high, extract_append_low, fld, hzero, hcode]

/-- Settles O5: each form reads back field by field, in both directions. -/
theorem encodingRoundTrip : Obligations.EncodingRoundTrip :=
  ⟨fun _ _ hwf henc => decodeWord_encodeWord hwf henc, fun _ _ _ h => encodeWord_decodeWord h⟩

/-- Settles O6: each word is evaluated by the decoder. -/
theorem wordsOfTheInstructionList : Obligations.WordsOfTheInstructionList := by
  intro c
  refine ⟨?_, ?_, ?_, ?_, ?_, ?_, ?_, ?_⟩ <;> rfl

end Sys2Proof
end

section
/-! PROOFS. The step of the block (log 1) and the state after reset (log 13). -/

namespace Sys2Proof.Machine

/-- Settles O1: the step is defined by the front of the queue. -/
theorem stepRunsTheFrontCommand : Obligations.StepRunsTheFrontCommand := by
  intro s c rest hpending
  simp only [step, hpending]

/-- Settles O2: the tick looks at nothing but the power phase. -/
theorem emptyQueueTicks : Obligations.EmptyQueueTicks := by
  intro s hpending
  refine ⟨fun hon => ?_, fun hoff => ?_⟩
  · simp only [step, hpending, State.tick]
  · simp only [step, hpending, State.tick, hoff]

/-- The registers and fields of the state after reset. -/
theorem reset_fields : Claim.ResetState := by
  refine ⟨rfl, rfl, rfl, rfl, rfl, rfl, rfl, rfl, rfl, rfl, rfl, rfl, rfl, rfl, rfl, rfl, rfl, ?_, ?_, ?_, ?_⟩
  · intro c k
    exact Vector.getElem_replicate _
  · exact fun _ => ⟨rfl, rfl, rfl⟩
  · exact fun _ => rfl
  · exact fun _ => rfl

/-- Settles O3: reset is written out field by field, and its empty memory is in the canonical form. -/
theorem resetState : Obligations.ResetState := ⟨reset_fields, State.reset_mem_wf⟩

end Sys2Proof.Machine
end

section
/-! PROOFS. O4: memory keeps its canonical form. A lemma for each function of the model says what it does to memory:
`f_mem` where memory stays as it is, `f_wf` where only its canonical form does. -/

namespace Sys2Proof.Machine

open State

/-! ## What an outcome's next state keeps -/

/-- Every next state that an outcome gives satisfies `p`. -/
def Answers (o : Host.Outcome State Fault Refusal) (p : State → Prop) : Prop := ∀ t, o = .next t → p t

@[simp] theorem answers_next {s : State} {p : State → Prop} : Answers (.next s) p ↔ p s := by simp [Answers]
@[simp] theorem answers_fault {r : Fault} {p : State → Prop} : Answers (.fault r) p ↔ True := by simp [Answers]
@[simp] theorem answers_refused {r : Refusal} {p : State → Prop} : Answers (.refused r) p ↔ True := by simp [Answers]

theorem answers_ite {p : State → Prop} {c : Prop} [Decidable c] {a b : Host.Outcome State Fault Refusal} (ha : Answers a p) (hb : Answers b p) :
    Answers (if c then a else b) p := by
  split
  · exact ha
  · exact hb
theorem wf_ite {c : Prop} [Decidable c] {a b : State} (ha : a.mem.wf = true) (hb : b.mem.wf = true) :
    (if c then a else b).mem.wf = true := by
  split
  · exact ha
  · exact hb
theorem mem_ite {m : Memory} {c : Prop} [Decidable c] {a b : State} (ha : a.mem = m) (hb : b.mem = m) : (if c then a else b).mem = m := by
  split
  · exact ha
  · exact hb

theorem answers_outcome {o : Option State} {p : State → Prop} (h : ∀ t, o = some t → p t) : Answers (outcome o) p := by
  cases o with
  | none => simp [outcome]
  | some t => simpa [outcome] using h t rfl

theorem foldl_fst_wf {α β : Type} {f : State × β → α → State × β} (h : ∀ x a, x.1.mem.wf = true → (f x a).1.mem.wf = true)
    (l : List α) {x : State × β} (hx : x.1.mem.wf = true) : (l.foldl f x).1.mem.wf = true := by
  induction l generalizing x with
  | nil => exact hx
  | cons a l ih => exact ih (h x a hx)

theorem foldl_wf {α : Type} {f : State → α → State} (h : ∀ s b, s.mem.wf = true → (f s b).mem.wf = true)
    (l : List α) {s : State} (hinv : s.mem.wf = true) : (l.foldl f s).mem.wf = true := by
  induction l generalizing s with
  | nil => exact hinv
  | cons b l ih => exact ih (h s b hinv)

theorem foldl_mem {α : Type} {f : State → α → State} (h : ∀ s b, (f s b).mem = s.mem) (l : List α) (s : State) :
    (l.foldl f s).mem = s.mem :=
  foldl_keeps State.mem (fun b _ a => h a b) s

@[simp] theorem State.hold_mem (s : State) (who : Requester) (a : Nat) (p : Parcel) : (s.hold who a p).mem = s.mem := rfl

theorem State.putParcelFor_wf (s : State) (who : Requester) (a : Nat) (p : Parcel) (hinv : s.mem.wf = true) :
    (s.putParcelFor who a p).mem.wf = true := by
  unfold putParcelFor
  dsimp only
  (repeat' split) <;> simp [storeParcel_wf, hinv]

@[simp] theorem State.countTdc_mem (s : State) (c : Nat) : (s.countTdc c).mem = s.mem := by
  unfold countTdc
  simp

@[simp] theorem State.countDup_mem (s : State) (c : Nat) : (s.countDup c).mem = s.mem := by
  unfold countDup
  simp

@[simp] theorem State.askCore_mem (s : State) (c : CoreId) (off : Nat) : (s.askCore c off).mem = s.mem := by
  unfold askCore
  simp

@[simp] theorem State.setSt_mem (s : State) (c : Nat) (st : BitVec 3) : (s.setSt c st).mem = s.mem := by
  unfold setSt
  simp

@[simp] theorem State.setGroup_mem (s : State) (c : Nat) (g : Group) : (s.setGroup c g).mem = s.mem := by
  unfold setGroup
  simp

theorem State.setElem_wf (s : State) (c slot e : Nat) (x : VRes) (hinv : s.mem.wf = true) :
    (s.setElem c slot e x).mem.wf = true := by
  unfold setElem
  exact Memory.wf_setSide _ _ _ (Memory.wf_setBytes _ _ _ hinv)

@[simp] theorem State.markSat_mem (s : State) (c slot : Nat) (b : Bool) : (s.markSat c slot b).mem = s.mem := by
  unfold markSat
  split <;> simp

theorem State.clearSlot_wf (s : State) (c slot : Nat) (hinv : s.mem.wf = true) : (s.clearSlot c slot).mem.wf = true := by
  unfold clearSlot
  exact Memory.wf_wipe _ _ _ hinv

theorem State.clearGroup_wf (s : State) (c : Nat) (g : Group) (hinv : s.mem.wf = true) : (s.clearGroup c g).mem.wf = true := by
  unfold clearGroup
  exact foldl_wf (fun s i h => s.clearSlot_wf _ _ h) _ hinv

@[simp] theorem State.accFault_mem (s : State) (c : Nat) (code : BitVec 4) (base no : Nat) (pc : BitVec 12) :
    (s.accFault c code base no pc).mem = s.mem := by
  unfold accFault
  dsimp only
  (repeat' split) <;> simp

@[simp] theorem State.namedGroup_mem (s : State) (c v : Nat) : (s.namedGroup c v).1.mem = s.mem := by
  unfold namedGroup
  (repeat' split) <;> simp

theorem State.clearLanding_wf (s : State) (c : Nat) (g : Group) (slot : Nat) (hinv : s.mem.wf = true) :
    (s.clearLanding c g slot).mem.wf = true := by
  unfold clearLanding
  refine foldl_wf (fun s x h => s.setElem_wf _ _ _ _ h) _ (clearSlot_wf _ _ _ ?_)
  rw [foldl_mem (fun s x => s.markSat_mem _ _ _)]
  exact hinv

theorem State.land_wf (s : State) (c base no gen : Nat) (vec : Bool) (pc : BitVec 12) (hinv : s.mem.wf = true) :
    (s.land c base no gen vec pc).mem.wf = true := by
  unfold land
  (repeat' split) <;> simp [clearLanding_wf, clearSlot_wf, hinv]

theorem State.enterElem_wf (s : State) (c base no gen e : Nat) (x : VRes) (sat : Bool) (d : Nat) (hinv : s.mem.wf = true) :
    (s.enterElem c base no gen e x sat d).mem.wf = true := by
  unfold enterElem
  dsimp only
  (repeat' split) <;> simp [setElem_wf, hinv]

theorem State.combineAt_wf (s : State) (c : Nat) (integer : Bool) (s1 s2 e : Nat) (hinv : s.mem.wf = true) :
    (s.combineAt c integer s1 s2 e).mem.wf = true := by
  unfold combineAt
  simp [setElem_wf, hinv]

theorem State.combineNext_wf (s : State) (c base e lim : Nat) (hinv : s.mem.wf = true) :
    (s.combineNext c base e lim).mem.wf = true := by
  unfold combineNext
  (repeat' split) <;> simp [combineAt_wf, hinv]

theorem State.enterLeaf_wf (s : State) (c base no gen : Nat) (vals : SMap VRes) (sat : Bool) (d : Nat) (pc : BitVec 12) (hinv : s.mem.wf = true) :
    (s.enterLeaf c base no gen vals sat d pc).mem.wf = true := by
  unfold enterLeaf
  exact foldl_wf (fun s e h => s.enterElem_wf _ _ _ _ _ _ _ _ h) _ (s.land_wf _ _ _ _ _ _ hinv)

theorem State.enterEmpty_wf (s : State) (c base no gen : Nat) (marked : Bool) (d : Nat) (pc : BitVec 12) (hinv : s.mem.wf = true) :
    (s.enterEmpty c base no gen marked d pc).mem.wf = true := by
  unfold enterEmpty
  exact foldl_wf (fun s e h => s.enterElem_wf _ _ _ _ _ _ _ _ h) _ (s.land_wf _ _ _ _ _ _ hinv)

theorem State.emptyGroup_wf (s : State) (c : Nat) (g : Group) (gen d : Nat) (hinv : s.mem.wf = true) :
    (s.emptyGroup c g gen d).mem.wf = true := by
  unfold emptyGroup
  dsimp only
  rw [setGroup_mem]
  exact foldl_wf (fun s x h => s.clearSlot_wf _ _ h) _ hinv

theorem State.openGroup_wf (s : State) (c base depth : Nat) (integer : Bool) (hinv : s.mem.wf = true) :
    (s.openGroup c base depth integer).mem.wf = true := by
  unfold openGroup
  simp [clearGroup_wf, hinv]

@[simp] theorem State.setSession_mem (s : State) (k : Session) : (s.setSession k).mem = s.mem := rfl

@[simp] theorem State.emit_mem (s : State) (o : Out) : (s.emit o).mem = s.mem := rfl

@[simp] theorem State.sendPlain_mem (s : State) (peer : Peer) (port : W16) (typ : Byte) (mseq : W32) (body : List Byte) :
    (s.sendPlain peer port typ mseq body).mem = s.mem := by
  unfold sendPlain
  simp

@[simp] theorem State.sendAs_mem (s : State) (k : Session) (peer : Peer) (port : W16) (typ : Byte) (mseq : W32) (body : List Byte) :
    (s.sendAs k peer port typ mseq body).mem = s.mem := by
  unfold sendAs
  simp

@[simp] theorem State.sendService_mem (s : State) (sid : W32) (peer : Peer) (typ : Byte) (body : List Byte) :
    (s.sendService sid peer typ body).mem = s.mem := by
  unfold sendService
  split <;> simp

@[simp] theorem State.countEdgePoison_mem (s : State) : (s.countEdgePoison).mem = s.mem := rfl

@[simp] theorem State.verifyFlit_mem (s : State) (h : FHead) (ps : List Parcel) : (s.verifyFlit h ps).1.mem = s.mem := by
  unfold verifyFlit
  exact foldl_keeps (fun x : State × List Parcel => x.1.mem) (fun _ _ _ => by dsimp only; split <;> simp) (s, [])

@[simp] theorem State.queueFlit_mem (s : State) (p : Nat) (h : FHead) (ps : List Parcel) :
    (s.queueFlit p h ps).mem = s.mem := by
  unfold queueFlit
  simp

@[simp] theorem State.flushEdge_mem (s : State) (p : Nat) : (s.flushEdge p).mem = s.mem := by
  unfold flushEdge
  split <;> simp

@[simp] theorem State.countUnroutable_mem (s : State) : (s.countUnroutable).mem = s.mem := rfl

@[simp] theorem State.portFlit_mem (s : State) (p : Nat) (h : FHead) (ps : List Parcel) : (s.portFlit p h ps).mem = s.mem := by
  unfold portFlit
  split <;> simp

@[simp] theorem State.portBeat_mem (s : State) (p plane : Nat) (h : FHead) (ps : List Parcel) :
    (s.portBeat p plane h ps).mem = s.mem := by
  unfold portBeat
  dsimp only
  (repeat' split) <;> simp

@[simp] theorem State.sendFlit_mem (s : State) (h : FHead) (ps : List Parcel) : (s.sendFlit h ps).mem = s.mem := by
  unfold sendFlit
  split <;> simp

@[simp] theorem State.sendServicePieces_mem (s : State) (dmod kind : Nat) (reqId : W64) (origin : Nat) (svc : Byte) (seq : W64) (status : W16)
    (total off : Nat) (data : List Byte) : (s.sendServicePieces dmod kind reqId origin svc seq status total off data).mem = s.mem :=
  foldl_mem (fun _ _ => by simp) _ _

@[simp] theorem State.sendServiceFlits_mem (s : State) (dmod kind : Nat) (reqId : W64) (origin : Nat) (svc : Byte) (seq : W64) (status : W16) (data record : List Byte) :
    (s.sendServiceFlits dmod kind reqId origin svc seq status data record).mem = s.mem := by
  unfold sendServiceFlits
  split <;> simp

@[simp] theorem State.sendSym_mem (s : State) (p stype fields : Nat) : (s.sendSym p stype fields).mem = s.mem := by
  unfold sendSym
  simp

@[simp] theorem State.sendSymOnce_mem (s : State) (p stype fields : Nat) : (s.sendSymOnce p stype fields).mem = s.mem := by
  unfold sendSymOnce
  simp

@[simp] theorem State.alert_mem (s : State) (a : AlertSrc) : (s.alert a).mem = s.mem := by
  unfold alert
  split <;> simp

@[simp] theorem State.unalert_mem (s : State) (a : AlertSrc) : (s.unalert a).mem = s.mem := rfl

@[simp] theorem State.replyTo_mem (s : State) (r : Req) (status : W16) (seq : W64) (retry : Nat) :
    (s.replyTo r status seq retry).mem = s.mem := by
  unfold replyTo
  split <;> simp

@[simp] theorem State.resultTo_mem (s : State) (r : Req) (seq : W64) (status : W16) (data record : List Byte) :
    (s.resultTo r seq status data record).mem = s.mem := by
  unfold resultTo
  split
  · exact foldl_mem (fun _ _ => by simp) _ _
  · simp

@[simp] theorem State.discardOpen_mem (s : State) : (s.discardOpen).mem = s.mem := by
  unfold discardOpen
  dsimp only
  rw [foldl_mem, foldl_mem, foldl_mem, foldl_mem]
  · intro s p; split <;> simp
  all_goals simp

@[simp] theorem State.loseOpen_mem (s : State) : (s.loseOpen).mem = s.mem := rfl

@[simp] theorem State.checkAllHalted_mem (s : State) : (s.checkAllHalted).mem = s.mem := by
  unfold checkAllHalted
  split <;> simp

@[simp] theorem State.haltCore_mem (s : State) (c : Nat) (st : BitVec 3) : (s.haltCore c st).mem = s.mem := by
  unfold haltCore
  simp

@[simp] theorem State.bundleCause_mem (s : State) (c : Nat) (m : W16) : (s.bundleCause c m).mem = s.mem := by
  unfold bundleCause
  dsimp only
  (repeat' split) <;> simp

@[simp] theorem State.addAction_mem (s : State) (c : Nat) (act : BAct) (parcels : Nat) :
    (s.addAction c act parcels).mem = s.mem := by
  unfold addAction
  simp

@[simp] theorem State.stray_mem (s : State) (c : Nat) : (s.stray c).mem = s.mem := by
  unfold stray
  simp

theorem State.storeLocal_wf (s : State) (c a : Nat) (v : W64) (hinv : s.mem.wf = true) :
    (s.storeLocal c a v).mem.wf = true := by
  unfold storeLocal
  (repeat' split) <;> simp [storeWord_wf, hinv]

@[simp] theorem State.goTo_mem (s : State) (c t steps : Nat) : (s.goTo c t steps).mem = s.mem := by
  unfold goTo
  split <;> simp

@[simp] theorem State.advance_mem (s : State) (c : Nat) : (s.advance c).mem = s.mem := by
  unfold advance
  simp

theorem State.issue_mem (s : State) (c : CoreId) (i : Instr) (ready : Bool) {e : State} (h : e.mem = s.mem) :
    Answers (s.issue c i ready e) fun t => t.mem = s.mem := by
  unfold issue
  split
  · split <;> simp [h]
  · simp
theorem State.issue_wf (s : State) (c : CoreId) (i : Instr) (ready : Bool) {e : State} (hinv : s.mem.wf = true) (h : e.mem.wf = true) :
    Answers (s.issue c i ready e) fun t => t.mem.wf = true := by
  unfold issue
  split
  · split <;> simp [h, hinv]
  · simp [hinv]

theorem State.issueTo_mem (s : State) (c : CoreId) (i : Instr) (ready : Bool) {e : State} (h : e.mem = s.mem) :
    Answers (s.issueTo c i ready e) fun t => t.mem = s.mem := by
  unfold issueTo
  split
  · split <;> simp [h]
  · simp
theorem State.issueTo_wf (s : State) (c : CoreId) (i : Instr) (ready : Bool) {e : State} (hinv : s.mem.wf = true) (h : e.mem.wf = true) :
    Answers (s.issueTo c i ready e) fun t => t.mem.wf = true := by
  unfold issueTo
  split
  · split <;> simp [h, hinv]
  · simp [hinv]

theorem execAclr_wf (c : CoreId) (ia : Bool) (base depthM1 : BitVec 3) (integer : Bool) (s : State) (hinv : s.mem.wf = true) :
    Answers (execAclr c ia base depthM1 integer s) fun t => t.mem.wf = true := by
  unfold execAclr
  dsimp only
  split
  · exact s.issue_wf _ _ _ hinv (by rw [accFault_mem]; exact hinv)
  split
  · exact s.issue_wf _ _ _ hinv (s.openGroup_wf _ _ _ _ hinv)
  · exact s.issueTo_wf _ _ _ hinv hinv

theorem execAclrTakeEffect_wf (c : CoreId) (s : State) (hinv : s.mem.wf = true) :
    Answers (execAclrTakeEffect c s) fun t => t.mem.wf = true := by
  unfold execAclrTakeEffect
  dsimp only
  (repeat' split) <;> simp [openGroup_wf, hinv]

theorem execAccCombine_wf (c : CoreId) (base : BitVec 3) (e : BitVec 12) (s : State) (hinv : s.mem.wf = true) :
    Answers (execAccCombine c base e s) fun t => t.mem.wf = true := by
  unfold execAccCombine
  simp [combineNext_wf, hinv]

theorem State.joinBeat_wf (s : State) (c base gen beat x5 x6 x7 : Nat) (hinv : s.mem.wf = true) :
    (s.joinBeat c base gen beat x5 x6 x7).mem.wf = true := by
  induction x5 generalizing s x6 x7 with
  | zero => exact hinv
  | succ fuel ih =>
    unfold joinBeat
    split
    · exact hinv
    · dsimp only
      split
      · split
        · refine ih _ _ _ ?_
          rw [setGroup_mem]
          exact foldl_wf (fun s i h => s.combineAt_wf _ _ _ _ _ h) _ hinv
        · exact hinv
      · exact hinv

theorem State.nodeArrives_wf (s : State) (c : Nat) (b : Beat) (hinv : s.mem.wf = true) :
    ∀ t, s.nodeArrives c b = some t → t.mem.wf = true := by
  intro t h
  unfold nodeArrives at h
  dsimp only at h
  split at h
  · cases h; exact hinv
  split at h
  · cases h; exact hinv
  split at h
  · cases h
  split at h
  · cases h; rw [accFault_mem]; exact hinv
  · cases h
    refine State.joinBeat_wf _ _ _ _ _ _ _ _ ?_
    rw [setGroup_mem, markSat_mem]
    refine foldl_wf (fun s i h => s.setElem_wf _ _ _ _ h) _ ?_
    split
    · exact hinv
    · exact s.clearSlot_wf _ _ hinv

theorem execSplitNodeArrival_wf (c : CoreId) (s : State) (hinv : s.mem.wf = true) :
    Answers (execSplitNodeArrival c s) fun t => t.mem.wf = true := by
  unfold execSplitNodeArrival
  dsimp only
  split
  · simpa using hinv
  split
  · simpa using hinv
  · next h => simpa using s.nodeArrives_wf _ _ hinv _ h

theorem execWld_mem (c : CoreId) (ia : Bool) (tile : BitVec 18) (s : State) :
    Answers (execWld c ia tile s) fun t => t.mem = s.mem := issue_mem _ _ _ _ rfl

theorem execRowLoadRead_mem (c : CoreId) (s : State) : Answers (execRowLoadRead c s) fun t => t.mem = s.mem := by
  unfold execRowLoadRead
  dsimp only
  (repeat' split) <;> simp

theorem execShadowCopy_mem (c : CoreId) (r j : BitVec 6) (s : State) :
    Answers (execShadowCopy c r j s) fun t => t.mem = s.mem := by
  unfold execShadowCopy
  dsimp only
  (repeat' split) <;> simp

theorem execPass_wf (c : CoreId) (f : PassF) (s : State) (hinv : s.mem.wf = true) :
    Answers (execPass c f s) fun t => t.mem.wf = true := by
  unfold execPass
  dsimp only
  refine answers_ite (s.issueTo_wf _ _ _ hinv ?_) (s.issue_wf _ _ _ hinv ?_)
  · rw [goTo_mem]
    refine enterEmpty_wf _ _ _ _ _ _ _ _ ?_
    rw [countPoison_mem, setArr_mem]
    split <;> simp [hinv, apply_ite State.mem]
  · rw [setArr_mem]
    split <;> simp [hinv, apply_ite State.mem]

theorem execFeederFillStart_mem (c : CoreId) (s : State) : Answers (execFeederFillStart c s) fun t => t.mem = s.mem := by
  unfold execFeederFillStart
  dsimp only
  (repeat' split) <;> simp

theorem execFeederFillDone_mem (c : CoreId) (second : Bool) (s : State) :
    Answers (execFeederFillDone c second s) fun t => t.mem = s.mem := by
  unfold execFeederFillDone
  dsimp only
  (repeat' split) <;> simp

theorem execFeederRelease_mem (c : CoreId) (s : State) : Answers (execFeederRelease c s) fun t => t.mem = s.mem := by
  unfold execFeederRelease
  dsimp only
  (repeat' split) <;> simp

theorem execCellTokenStart_mem (c : CoreId) (r j : BitVec 6) (s : State) :
    Answers (execCellTokenStart c r j s) fun t => t.mem = s.mem := by
  unfold execCellTokenStart
  dsimp only
  (repeat' split) <;> simp

theorem execCellStep_mem (c : CoreId) (r j : BitVec 6) (s : State) :
    Answers (execCellStep c r j s) fun t => t.mem = s.mem := by
  unfold execCellStep
  dsimp only
  (repeat' split) <;> simp

theorem execTokenSlotEnd_mem (c : CoreId) (r j : BitVec 6) (s : State) :
    Answers (execTokenSlotEnd c r j s) fun t => t.mem = s.mem := by
  unfold execTokenSlotEnd
  dsimp only
  (repeat' split) <;> simp

@[simp] theorem State.residueError_mem (s : State) (c j : Nat) : (s.residueError c j).mem = s.mem := by
  unfold residueError
  simp

theorem execBottomStage_wf (c : CoreId) (r j : BitVec 6) (s : State) (hinv : s.mem.wf = true) :
    Answers (execBottomStage c r j s) fun t => t.mem.wf = true := by
  unfold execBottomStage
  dsimp only
  split
  · simpa using hinv
  split
  · simpa using hinv
  split
  · refine answers_ite (answers_next.mpr ?_) (answers_next.mpr ?_)
    · rw [setArr_mem]
      refine foldl_wf (fun s i h => s.enterElem_wf _ _ _ _ _ _ _ _ h) _ ?_
      refine wf_ite (enterElem_wf _ _ _ _ _ _ _ _ _ ?_) ?_ <;> refine land_wf _ _ _ _ _ _ _ ?_ <;> simp [hinv, apply_ite State.mem]
    · refine wf_ite (enterElem_wf _ _ _ _ _ _ _ _ _ ?_) ?_ <;> refine land_wf _ _ _ _ _ _ _ ?_ <;> simp [hinv, apply_ite State.mem]
  · simpa using hinv

@[simp] theorem State.putBeat_mem (s : State) (k avail : Nat) (b : Beat) : (s.putBeat k avail b).mem = s.mem := rfl

@[simp] theorem State.putPkt_mem (s : State) (k avail : Nat) (p : Pkt) : (s.putPkt k avail p).mem = s.mem := by
  unfold putPkt
  split <;> simp

@[simp] theorem State.putBack_mem (s : State) (k : Nat) (r : SReq) : (s.putBack k r).mem = s.mem := by
  unfold putBack
  split <;> simp

theorem State.takeSource_mem (s : State) (k : Nat) (exits : List Nat) (ok : Beat → Bool) :
    ∀ t, s.takeSource k exits ok = some t → t.1.mem = s.mem := by
  intro t h
  obtain ⟨x, -, rfl⟩ := Option.map_eq_some_iff.mp h
  rfl

@[simp] theorem State.admitReq_mem (s : State) (a : Adm) (seq : W64) : (s.admitReq a seq).mem = s.mem := by
  unfold admitReq
  simp

theorem State.slotPut_wf (s : State) (ch : BitVec 4) (a : Nat) (d : BitVec 256) (hinv : s.mem.wf = true) :
    (s.slotPut ch a d).1.mem.wf = true := by
  unfold slotPut
  (repeat' split) <;> simp [putParcelFor_wf, hinv]

@[simp] theorem State.slotAsk_mem (s : State) (ch : BitVec 4) (i : Nat) (seq : W64) (a : Nat) :
    (s.slotAsk ch i seq a).mem = s.mem := by
  unfold slotAsk
  simp

theorem State.sendHeader_wf (s : State) (a : Adm) (hinv : s.mem.wf = true) : (s.sendHeader a).mem.wf = true := by
  unfold sendHeader
  dsimp only
  (repeat' split) <;> simp [slotPut_wf, hinv]

theorem State.slotLanded_wf (s : State) (ch : Nat) (hinv : s.mem.wf = true) : (s.slotLanded ch).mem.wf = true := by
  unfold slotLanded
  dsimp only
  (repeat' split) <;> simp [sendHeader_wf, hinv]

theorem State.beginAdmission_wf (s : State) (r : Req) (v : SvcRec) (hinv : s.mem.wf = true) :
    (s.beginAdmission r v).mem.wf = true := by
  unfold beginAdmission
  dsimp only
  have hx := foldl_fst_wf (f := fun (x : State × Nat) (p : Nat × BitVec 256) =>
      ((x.1.slotPut v.ch (v.input + 32 + 32 * p.1) p.2).1, if (x.1.slotPut v.ch (v.input + 32 + 32 * p.1) p.2).2 then x.2 else x.2 + 1))
    (fun x p h => x.1.slotPut_wf _ _ _ h) ((List.range ((r.data.length + 31) / 32)).zip (toParcels r.data)) (x := (s, 0)) hinv
  exact wf_ite (sendHeader_wf _ _ hx) hx

theorem State.writeChunk_wf (s : State) (c : Nat) (k : Chunk) (hinv : s.mem.wf = true) : (s.writeChunk c k).mem.wf = true := by
  unfold writeChunk
  split <;> simp [putParcel_wf, hinv]

theorem State.writeChunks_wf (s : State) (c : Nat) (ks : List Chunk) (hinv : s.mem.wf = true) :
    (s.writeChunks c ks).mem.wf = true := by
  unfold writeChunks
  exact foldl_wf (fun s k h => s.writeChunk_wf _ _ h) _ hinv

@[simp] theorem State.makeLeaf_mem (s : State) (c : Nat) (ch : BitVec 4) (ps : List Parcel) :
    (s.makeLeaf c ch ps).mem = s.mem := by
  unfold makeLeaf
  dsimp only
  split
  · split <;> rfl
  · split
    · split <;> rfl
    · rfl

theorem execChain_mem (c : CoreId) (ia : Bool) (cfg : BitVec 4) (rec : BitVec 18) (s : State) :
    Answers (execChain c ia cfg rec s) fun t => t.mem = s.mem := issue_mem _ _ _ _ (by simp)

@[simp] theorem State.addDrain_mem (s : State) (c : Nat) (f : DrainF) (g : Group) (split : Bool) :
    (s.addDrain c f g split).mem = s.mem := by
  unfold addDrain
  simp

theorem execDrain_mem (c : CoreId) (f : DrainF) (s : State) : Answers (execDrain c f s) fun t => t.mem = s.mem := by
  unfold execDrain
  dsimp only
  (repeat' split) <;> simp only [issue_mem, addAction_mem, addDrain_mem, stray_mem, namedGroup_mem]

theorem execDrainSplitNode_mem (c : CoreId) (f : DrainF) (s : State) :
    Answers (execDrainSplitNode c f s) fun t => t.mem = s.mem := by
  unfold execDrainSplitNode
  dsimp only
  (repeat' split) <;> simp only [issue_mem, addDrain_mem, namedGroup_mem]

@[simp] theorem State.putNode_mem (s : State) (k : Nat) (b : Beat) : (s.putNode k b).mem = s.mem := by
  unfold putNode
  dsimp only
  (repeat' split) <;> simp

theorem State.sendNodeRow_eq_foldl (s : State) (c : Nat) (d : DrainRec) (t : Nat) (es : List VRes) (sat : Bool) :
    ∃ (l : List Nat) (f : State → Nat → State), (∀ u i, ∃ k b, f u i = u.putNode k b) ∧ s.sendNodeRow c d t es sat = l.foldl f s :=
  ⟨_, _, fun _ _ => ⟨_, _, rfl⟩, rfl⟩
@[simp] theorem State.sendNodeRow_mem (s : State) (c : Nat) (d : DrainRec) (t : Nat) (es : List VRes) (sat : Bool) :
    (s.sendNodeRow c d t es sat).mem = s.mem := by
  obtain ⟨l, f, hf, h⟩ := s.sendNodeRow_eq_foldl c d t es sat
  rw [h]
  refine foldl_mem (fun u i => ?_) l s
  obtain ⟨k, b, hput⟩ := hf u i
  rw [hput, putNode_mem]

theorem execDrainRowRead_wf (c : CoreId) (s : State) (hinv : s.mem.wf = true) :
    Answers (execDrainRowRead c s) fun t => t.mem.wf = true := by
  unfold execDrainRowRead
  dsimp only
  split
  · simpa using hinv
  split
  · simpa using hinv
  refine answers_ite (answers_next.mpr (by simpa using hinv)) (answers_ite (answers_next.mpr hinv) (answers_next.mpr ?_))
  refine wf_ite (emptyGroup_wf _ _ _ _ _ ?_) ?_ <;> simp [hinv, apply_ite State.mem, foldl_mem]

theorem State.drainOut_wf (s : State) (c : Nat) (d : DrainRec) (ks : List Chunk) (counted : Bool) (hinv : s.mem.wf = true) :
    (s.drainOut c d ks counted).mem.wf = true := by
  unfold drainOut
  split <;> simp [writeChunks_wf, hinv]

@[simp] theorem State.drainDone_mem (s : State) (c : Nat) (d : DrainRec) : (s.drainDone c d).mem = s.mem := by
  unfold drainDone
  (repeat' split) <;> simp

theorem execChainStage_wf (c : CoreId) (k : Nat) (s : State) (hinv : s.mem.wf = true) :
    Answers (execChainStage c k s) fun t => t.mem.wf = true := by
  unfold execChainStage
  dsimp only
  (repeat' split) <;> simp [drainOut_wf, hinv]

theorem execPackerEmit_wf (c : CoreId) (s : State) (hinv : s.mem.wf = true) :
    Answers (execPackerEmit c s) fun t => t.mem.wf = true := by
  unfold execPackerEmit
  dsimp only
  (repeat' split) <;> simp [drainOut_wf, hinv]

@[simp] theorem State.countFor_mem (s : State) (who : Requester) : (s.countFor who).mem = s.mem := by
  unfold countFor
  split <;> simp

@[simp] theorem State.consumeAt_mem (s : State) (c : Nat) (p : Parcel) (a : Nat) : (s.consumeAt c p a).1.mem = s.mem := by
  unfold consumeAt
  dsimp only
  (repeat' split) <;> simp

@[simp] theorem State.injectDpk_mem (s : State) (plane router input : Nat) (q : DpkParcel) :
    (s.injectDpk plane router input q).mem = s.mem := rfl

@[simp] theorem State.dpkLanded_mem (s : State) (c id n : Nat) : (s.dpkLanded c id n).mem = s.mem := by
  unfold dpkLanded
  simp

@[simp] theorem State.dpkTaken_mem (s : State) (c id i : Nat) (p : Parcel) : (s.dpkTaken c id i p).mem = s.mem := by
  unfold dpkTaken
  simp

@[simp] theorem State.dpkFetched_mem (s : State) (c id i src router input avail : Nat) (p : Parcel) :
    (s.dpkFetched c id i src router input avail p).mem = s.mem := by
  unfold dpkFetched
  split <;> simp

@[simp] theorem State.dpkAsk_mem (s : State) (c : Nat) (d : Dpk) (i : Nat) : (s.dpkAsk c d i).mem = s.mem := by
  have hdef : dpkAsk = dpkAsk := rfl
  conv at hdef => rhs; delta dpkAsk
  rw [hdef]
  dsimp only
  split
  · simp
  · split <;> simp

theorem State.dpkPut_cases (s : State) (c : Nat) (d : Dpk) (i : Nat) (p : Parcel) :
    s.dpkPut c d i p = (s.countPoison c 1).dpkLanded c d.id 1 ∨ s.dpkPut c d i p = s.countUnroutable ∨
      ∃ plane x, s.dpkPut c d i p = s.injectDpk plane c 4 x := by
  have hdef : dpkPut = dpkPut := rfl
  conv at hdef => rhs; delta dpkPut
  rw [hdef]
  dsimp only
  split
  · split
    · exact .inl rfl
    · exact .inr (.inl rfl)
  · exact .inr (.inr ⟨_, _, rfl⟩)
@[simp] theorem State.dpkPut_mem (s : State) (c : Nat) (d : Dpk) (i : Nat) (p : Parcel) : (s.dpkPut c d i p).mem = s.mem := by
  obtain h | h | ⟨_, _, h⟩ := s.dpkPut_cases c d i p
  · rw [h, dpkLanded_mem, countPoison_mem]
  · rw [h, countUnroutable_mem]
  · rw [h, injectDpk_mem]

theorem State.dpkStart_eq_foldl (s : State) (c : Nat) (d : Dpk) : ∃ (α : Type) (f : State → α → State) (l : List α) (u : State),
    s.dpkStart c d = l.foldl f u ∧ u.mem = s.mem ∧ ∀ t x, (∃ d' i p, f t x = t.dpkPut c d' i p) ∨ ∃ d' i, f t x = t.dpkAsk c d' i := by
  have hdef : dpkStart = dpkStart := rfl
  conv at hdef => rhs; delta dpkStart
  rw [hdef]
  dsimp only
  split
  · exact ⟨_, _, _, _, rfl, rfl, fun _ _ => .inl ⟨_, _, _, rfl⟩⟩
  · exact ⟨_, _, _, _, rfl, rfl, fun _ _ => .inr ⟨_, _, rfl⟩⟩
@[simp] theorem State.dpkStart_mem (s : State) (c : Nat) (d : Dpk) : (s.dpkStart c d).mem = s.mem := by
  obtain ⟨α, f, l, u, h, hu, hf⟩ := s.dpkStart_eq_foldl c d
  rw [h, foldl_mem _ l u, hu]
  intro t x
  obtain ⟨_, _, _, hput⟩ | ⟨_, _, hask⟩ := hf t x
  · rw [hput, dpkPut_mem]
  · rw [hask, dpkAsk_mem]

@[simp] theorem State.dpkAnswer_mem (s : State) (c key router : Nat) (p : Parcel) :
    (s.dpkAnswer c key router p).mem = s.mem := by
  unfold dpkAnswer
  dsimp only
  (repeat' split) <;> simp

@[simp] theorem State.engineGot_mem (s : State) (c e rid : Nat) (p : Parcel) : (s.engineGot c e rid p).mem = s.mem := by
  unfold engineGot
  simp

@[simp] theorem State.mergeGot_mem (s : State) (c e rid : Nat) (p : Parcel) : (s.mergeGot c e rid p).mem = s.mem := by
  unfold mergeGot
  simp

@[simp] theorem State.ctlGot_mem (s : State) (c e rid : Nat) (p : Parcel) : (s.ctlGot c e rid p).mem = s.mem := by
  unfold ctlGot
  simp

@[simp] theorem State.answerCame_mem (s : State) (r : SReq) (p : Parcel) : (s.answerCame r p).mem = s.mem := by
  unfold answerCame
  (repeat' split) <;> simp

@[simp] theorem State.answeredAway_mem (s : State) (c e key : Nat) (p : Parcel) : (s.answeredAway c e key p).mem = s.mem := by
  unfold answeredAway
  dsimp only
  (repeat' split) <;> simp

@[simp] theorem State.fromEdge_mem (s : State) (port plane : Nat) (p : Pkt) : (s.fromEdge port plane p).mem = s.mem := by
  unfold fromEdge
  (repeat' split) <;> simp

@[simp] theorem State.sendAway_mem (s : State) (plane router input avail : Nat) (h : FHead) (p : Parcel) :
    (s.sendAway plane router input avail h p).mem = s.mem := by
  unfold sendAway
  dsimp only
  (repeat' split) <;> simp

theorem State.wrote_wf (s : State) (who : Requester) (hinv : s.mem.wf = true) : (s.wrote who).mem.wf = true := by
  unfold wrote
  (repeat' split) <;> simp [slotLanded_wf, hinv]

@[simp] theorem State.answer_mem (s : State) (router input avail : Nat) (r : SReq) (p : Parcel) :
    (s.answer router input avail r p).mem = s.mem := by
  unfold answer
  split <;> simp

theorem State.coreRequest_wf (s : State) (router : Nat) (r : SReq) (hinv : s.mem.wf = true) :
    (s.coreRequest router r).mem.wf = true := by
  unfold coreRequest
  dsimp only
  (repeat' split) <;> simp [storeParcel_wf, wrote_wf, hinv]

theorem State.writeIn_wf (s : State) (who : Requester) (a : Nat) (p : Parcel) (hinv : s.mem.wf = true) :
    (s.writeIn who a p).mem.wf = true := by
  unfold writeIn
  (repeat' split) <;> simp [putParcelFor_wf, wrote_wf, hinv]

@[simp] theorem State.askFor_mem (s : State) (c a : Nat) (who : Requester) (sees : Option Nat) :
    (s.askFor c a who sees).mem = s.mem := by
  unfold askFor
  simp

@[simp] theorem State.askAway_mem (s : State) (c e module a : Nat) : (s.askAway c e module a).mem = s.mem := by
  unfold askAway
  simp

@[simp] theorem State.writeFor_mem (s : State) (c e a mask data : Nat) (poison : Bool) (cclass : BitVec 3) :
    (s.writeFor c e a mask data poison cclass).mem = s.mem := by
  unfold writeFor
  dsimp only
  (repeat' split) <;> simp

@[simp] theorem State.freeReserved_mem (s : State) (c : Nat) : (s.freeReserved c).mem = s.mem := by
  unfold State.freeReserved; exact foldl_mem (fun s _ => by simp) _ _

@[simp] theorem State.haltMarked_mem (s : State) (c : Nat) : (s.haltMarked c).mem = s.mem := by
  unfold haltMarked
  simp

@[simp] theorem State.releaseArm_mem (s : State) (c e : Nat) : (s.releaseArm c e).mem = s.mem := by
  unfold releaseArm
  dsimp only
  (repeat' split) <;> simp

@[simp] theorem State.lateDpk_mem (s : State) (c gaddr loc : Nat) (ps : List Parcel) :
    (s.lateDpk c gaddr loc ps).mem = s.mem := by
  unfold lateDpk
  dsimp only
  (repeat' split) <;> simp

theorem State.applyAct_wf (s : State) (c : Nat) (a : BAct) (hinv : s.mem.wf = true) : (s.applyAct c a).mem.wf = true := by
  unfold applyAct
  (repeat' split) <;> simp [writeChunks_wf, storeLocal_wf, hinv]

theorem State.decideBundle_wf (s : State) (c : Nat) (commit poisoned timedOut : Bool) (hinv : s.mem.wf = true) :
    (s.decideBundle c commit poisoned timedOut).mem.wf = true := by
  unfold decideBundle
  dsimp only
  rw [setBnd_mem]
  exact wf_ite (foldl_wf (fun s a h => s.applyAct_wf _ _ h) _ hinv) (by simpa using hinv)

@[simp] theorem State.closeBundle_mem (s : State) (c : Nat) (rd : BitVec 4) : (s.closeBundle c rd).mem = s.mem := by
  unfold closeBundle
  simp

@[simp] theorem State.resume_mem (s : State) (c : Nat) : (s.resume c).mem = s.mem := by
  unfold resume
  simp

@[simp] theorem State.haltAtBarrier_mem (s : State) (c : Nat) (pc : BitVec 12) (timedOut : Bool) :
    (s.haltAtBarrier c pc timedOut).mem = s.mem := by
  unfold haltAtBarrier
  split <;> simp

theorem State.completeOne_wf (s : State) (ch : BitVec 4) (halting timedOut : Bool) (vote : Bool × Bool) (a : Arrival) (hinv : s.mem.wf = true) :
    (s.completeOne ch halting timedOut vote a).mem.wf = true := by
  unfold completeOne
  dsimp only
  (repeat' split) <;> simp [decideBundle_wf, hinv]

@[simp] theorem State.phaseBarrier_mem (s : State) : (s.phaseBarrier).mem = s.mem := rfl

@[simp] theorem State.sendArrive_mem (s : State) (ch : BitVec 4) (k : CairnCh) : (s.sendArrive ch k).mem = s.mem := by
  unfold sendArrive
  split <;> simp

@[simp] theorem State.sendRelease_mem (s : State) (ch : BitVec 4) (k : CairnCh) (step : Nat) :
    (s.sendRelease ch k step).mem = s.mem := by
  unfold State.sendRelease; exact foldl_mem (fun s _ => by simp) _ _

@[simp] theorem State.mwProgress_mem (s : State) (ch : BitVec 4) : (s.mwProgress ch).mem = s.mem := by
  unfold mwProgress
  dsimp only
  (repeat' split) <;> simp

@[simp] theorem State.joinBarrier_mem (s : State) (ch : BitVec 4) (a : Arrival) : (s.joinBarrier ch a).mem = s.mem := by
  unfold joinBarrier
  dsimp only
  (repeat' split) <;> simp

@[simp] theorem State.childMark_mem (s : State) (ch : BitVec 4) (p : Nat) (fault abort : Bool) :
    (s.childMark ch p fault abort).mem = s.mem := by
  unfold childMark
  simp

theorem State.completeBarrier_wf (s : State) (ch : BitVec 4) (timedOut : Bool) (hinv : s.mem.wf = true) :
    (s.completeBarrier ch timedOut).mem.wf = true := by
  unfold completeBarrier
  dsimp only
  rw [foldl_mem (fun s a => s.joinBarrier_mem _ _), foldl_mem (fun s x => s.childMark_mem _ _ _ _), apply_ite State.mem, phaseBarrier_mem, ite_self]
  exact foldl_wf (fun s a h => s.completeOne_wf _ _ _ _ _ h) _ (by simpa using hinv)

theorem State.timeoutBarrier_wf (s : State) (ch : BitVec 4) (hinv : s.mem.wf = true) :
    (s.timeoutBarrier ch).mem.wf = true := by
  unfold timeoutBarrier
  dsimp only
  (repeat' split) <;> simp [completeBarrier_wf, hinv]

theorem State.arrive_wf (s : State) (ch : BitVec 4) (a : Arrival) (hinv : s.mem.wf = true) :
    (s.arrive ch a).mem.wf = true := by
  unfold arrive
  dsimp only
  (repeat' split) <;> simp [completeOne_wf, timeoutBarrier_wf, hinv]

theorem State.landArrive_wf (s : State) (c : Nat) (hinv : s.mem.wf = true) : (s.landArrive c).mem.wf = true := by
  unfold landArrive
  (repeat' split) <;> simp [arrive_wf, hinv]

theorem State.landAll_wf (s : State) (cs : List Nat) (hinv : s.mem.wf = true) : (s.landAll cs).mem.wf = true := by
  unfold landAll
  exact foldl_wf (fun s c h => s.landArrive_wf _ h) _ hinv

theorem State.finishBarrier_wf (s : State) (ch : BitVec 4) (hinv : s.mem.wf = true) : (s.finishBarrier ch).mem.wf = true := by
  unfold finishBarrier
  simp [completeBarrier_wf, landAll_wf, hinv]

theorem execCairnBarrierComplete_wf (ch : BitVec 4) (s : State) (hinv : s.mem.wf = true) :
    Answers (execCairnBarrierComplete ch s) fun t => t.mem.wf = true := by
  unfold execCairnBarrierComplete
  split <;> simp [finishBarrier_wf, hinv]

theorem execCairnTimeout_wf (ch : BitVec 4) (s : State) (hinv : s.mem.wf = true) :
    Answers (execCairnTimeout ch s) fun t => t.mem.wf = true := by
  unfold execCairnTimeout
  split <;> simp [timeoutBarrier_wf, hinv]

theorem execBundleVoteComplete_wf (ch : BitVec 4) (s : State) (hinv : s.mem.wf = true) :
    Answers (execBundleVoteComplete ch s) fun t => t.mem.wf = true := by
  unfold execBundleVoteComplete
  split <;> simp [finishBarrier_wf, hinv]

theorem execBundleWritesLanded_wf (ch : BitVec 4) (s : State) (hinv : s.mem.wf = true) :
    Answers (execBundleWritesLanded ch s) fun t => t.mem.wf = true := by
  unfold execBundleWritesLanded
  split <;> simp [finishBarrier_wf, hinv]

theorem execModuleWideComplete_wf (ch : BitVec 4) (s : State) (hinv : s.mem.wf = true) :
    Answers (execModuleWideComplete ch s) fun t => t.mem.wf = true := by
  unfold execModuleWideComplete
  split <;> simp [finishBarrier_wf, hinv]

theorem execModuleWideTimeout_wf (ch : BitVec 4) (s : State) (hinv : s.mem.wf = true) :
    Answers (execModuleWideTimeout ch s) fun t => t.mem.wf = true := by
  unfold execModuleWideTimeout
  dsimp only
  (repeat' split) <;> simp [completeBarrier_wf, timeoutBarrier_wf, hinv]

@[simp] theorem State.nestedOn_mem (s : State) (c : Nat) (ch : BitVec 4) : (s.nestedOn c ch).mem = s.mem := by
  unfold nestedOn
  split <;> simp

theorem execCbar_wf (c : CoreId) (ch : BitVec 4) (s : State) (hinv : s.mem.wf = true) :
    Answers (execCbar c ch s) fun t => t.mem.wf = true := by
  unfold execCbar
  exact s.issueTo_wf _ _ _ hinv (arrive_wf _ _ _ (by simpa using hinv))

theorem execCsig_wf (c : CoreId) (ch : BitVec 4) (s : State) (hinv : s.mem.wf = true) :
    Answers (execCsig c ch s) fun t => t.mem.wf = true := by
  unfold execCsig
  exact s.issueTo_wf _ _ _ hinv (arrive_wf _ _ _ (wf_ite (by simpa using hinv) (by simpa using hinv)))

theorem execBopen_mem (c : CoreId) (pwp : Bool) (ch : BitVec 4) (s : State) :
    Answers (execBopen c pwp ch s) fun t => t.mem = s.mem := issue_mem _ _ _ _ (by split <;> simp)

theorem State.closeVote_wf (s : State) (c : CoreId) (i : Instr) (rd : BitVec 4) (explicit : W16) (hinv : s.mem.wf = true) :
    Answers (s.closeVote c i rd explicit) fun t => t.mem.wf = true := by
  unfold closeVote
  dsimp only
  refine answers_ite (s.issueTo_wf _ _ _ hinv (arrive_wf _ _ _ (by simpa using hinv))) (s.issueTo_wf _ _ _ hinv (wf_ite (by simpa using hinv) (by simpa using hinv)))

theorem execBcommit_wf (c : CoreId) (rd : BitVec 4) (s : State) (hinv : s.mem.wf = true) :
    Answers (execBcommit c rd s) fun t => t.mem.wf = true := by
  unfold execBcommit
  simp [closeVote_wf, hinv]

theorem execBabort_wf (c : CoreId) (rd : BitVec 4) (s : State) (hinv : s.mem.wf = true) :
    Answers (execBabort c rd s) fun t => t.mem.wf = true := by
  unfold execBabort
  simp [closeVote_wf, hinv]

theorem State.chanStore_wf (s : State) (k a : Nat) (p : Parcel) (flip : BitVec 288) (hinv : s.mem.wf = true) :
    (s.chanStore k a p flip).mem.wf = true := by
  unfold chanStore
  exact Memory.wf_setSide _ _ _ (Memory.wf_setBytes _ _ _ hinv)

theorem State.storeReq_wf (s : State) (m : MReq) (hinv : s.mem.wf = true) : (s.storeReq m).mem.wf = true := by
  unfold storeReq
  refine wf_ite hinv ?_
  split
  · split
    · exact s.chanStore_wf _ _ _ _ hinv
    · exact hinv
  · refine foldl_wf (fun s p h => ?_) _ hinv
    dsimp only
    split
    · exact s.chanStore_wf _ _ _ _ h
    · exact h

theorem State.flushSlice_wf (s : State) (k : Nat) (hinv : s.mem.wf = true) : (s.flushSlice k).mem.wf = true := by
  unfold flushSlice
  dsimp only
  rw [setSlice_mem]
  refine foldl_wf (fun s r h => wf_ite h ?_) _ (foldl_wf (fun s x h => foldl_wf (fun s p h => ?_) _ h) _ (foldl_wf (fun s m h => s.storeReq_wf _ h) _ hinv))
  · split
    · exact wrote_wf _ _ (s.chanStore_wf _ _ _ _ h)
    · exact s.wrote_wf _ h
  · split
    · exact s.chanStore_wf _ _ _ _ h
    · exact h

theorem State.flushSlices_wf (s : State) (hinv : s.mem.wf = true) : (s.flushSlices).mem.wf = true := by
  unfold flushSlices
  exact foldl_wf (fun s x h => s.flushSlice_wf _ h) _ hinv

@[simp] theorem State.stopCores_mem (s : State) : (s.stopCores).mem = s.mem := by
  unfold stopCores
  dsimp only
  rw [foldl_mem, foldl_mem]
  · intro s x; split <;> rfl
  · simp

@[simp] theorem State.unready_mem (s : State) : (s.unready).mem = s.mem := rfl

theorem State.haltPack_wf (s : State) (hinv : s.mem.wf = true) : (s.haltPack).mem.wf = true := by
  unfold haltPack
  simp [flushSlices_wf, hinv]

@[simp] theorem State.reask_mem (s : State) : (s.reask).mem = s.mem := by
  unfold reask
  split <;> simp

theorem State.fabricLost_wf (s : State) (hinv : s.mem.wf = true) : (s.fabricLost).mem.wf = true := by
  unfold fabricLost
  rw [reask_mem]
  exact Memory.wf_wipe _ _ _ hinv

@[simp] theorem State.setDomains_mem (s : State) (lo hi v : Nat) : (s.setDomains lo hi v).mem = s.mem := rfl

theorem State.degrade_wf (s : State) (hinv : s.mem.wf = true) : (s.degrade).mem.wf = true := by
  unfold degrade
  dsimp only
  rw [alert_mem, setDomains_mem]
  exact Memory.wf_wipe _ _ _ hinv

theorem State.moduleFatal_wf (s : State) (cause : Fatal) (hinv : s.mem.wf = true) : (s.moduleFatal cause).mem.wf = true := by
  unfold moduleFatal
  dsimp only
  (repeat' split) <;> simp [degrade_wf, fabricLost_wf, hinv]

theorem State.failChannel_wf (s : State) (ch : Nat) (hinv : s.mem.wf = true) : (s.failChannel ch).mem.wf = true := by
  unfold failChannel
  simp [moduleFatal_wf, hinv]

@[simp] theorem State.packFatalNotice_mem (s : State) : (s.packFatalNotice).mem = s.mem := by
  unfold packFatalNotice
  dsimp only
  (repeat' split) <;> simp

@[simp] theorem State.chanReq_mem (s : State) (m : MReq) : (s.chanReq m).mem = s.mem := by
  unfold chanReq
  split <;> simp

@[simp] theorem State.chanLine_mem (s : State) (k line cls : Nat) (wr : Bool) (ps : List Parcel) :
    (s.chanLine k line cls wr ps).mem = s.mem := by
  unfold chanLine
  simp

@[simp] theorem State.allocLine_mem (s : State) (k line : Nat) (ps : List Parcel) : (s.allocLine k line ps).mem = s.mem := by
  unfold allocLine
  dsimp only
  (repeat' split) <;> simp

theorem State.wroteAt_wf (s : State) (r : SReq) (old : Parcel) (hinv : s.mem.wf = true) : (s.wroteAt r old).mem.wf = true := by
  unfold wroteAt
  split <;> simp [wrote_wf, hinv]

theorem State.serveLine_wf (s : State) (k w avail : Nat) (r : SReq) (hinv : s.mem.wf = true) :
    (s.serveLine k w avail r).mem.wf = true := by
  unfold serveLine
  split <;> simp [wroteAt_wf, hinv]

theorem State.sliceOne_wf (s : State) (k : Nat) (wholes : List Nat) (r : SReq) (hinv : s.mem.wf = true) :
    (s.sliceOne k wholes r).1.mem.wf = true := by
  unfold sliceOne
  dsimp only
  split
  · exact s.wrote_wf _ hinv
  split
  · dsimp only
    exact wf_ite (wroteAt_wf _ _ _ (Memory.wf_setParcel _ _ _ _ hinv)) (by simpa using hinv)
  split
  · exact wf_ite (wrote_wf _ _ (by simpa using hinv)) (by simpa using hinv)
  split
  · exact s.serveLine_wf _ _ _ _ hinv
  split
  · simpa using hinv
  split
  · split
    · exact serveLine_wf _ _ _ _ _ (by simpa using hinv)
    · simpa using hinv
  split <;> simpa using hinv

@[simp] theorem State.notTaken_mem (s : State) (k : Nat) (r : SReq) : (s.notTaken k r).mem = s.mem := by
  unfold notTaken
  split <;> simp

theorem execSliceStep_wf (k : Byte) (s : State) (hinv : s.mem.wf = true) :
    Answers (execSliceStep k s) fun t => t.mem.wf = true := by
  unfold execSliceStep
  dsimp only
  refine answers_next.mpr ?_
  rw [foldl_mem (fun s x => s.notTaken_mem _ _)]
  have hgo := fun (ws : List Nat) (l : List SReq) (x : State × List SReq) (hx : x.1.mem.wf = true) =>
    foldl_fst_wf (f := fun (x : State × List SReq) (r : SReq) => ((x.1.sliceOne k.toNat ws r).1, if (x.1.sliceOne k.toNat ws r).2 then x.2 else r :: x.2))
      (fun x r h => x.1.sliceOne_wf _ _ _ h) l hx
  exact hgo _ _ _ (hgo _ _ _ (by simpa using hinv))

theorem execSliceLineFill_wf (k : Byte) (s : State) (hinv : s.mem.wf = true) :
    Answers (execSliceLineFill k s) fun t => t.mem.wf = true := by
  unfold execSliceLineFill
  dsimp only
  split
  · split <;> simpa using hinv
  split
  · simpa using hinv
  split
  · simpa using hinv
  · refine answers_next.mpr (foldl_wf (fun s r h => ?_) _ (by simpa using hinv))
    split
    · exact s.serveLine_wf _ _ _ _ h
    · exact h

theorem execRegulatorWindow_mem (s : State) : Answers (execRegulatorWindow s) fun t => t.mem = s.mem := by
  unfold execRegulatorWindow
  dsimp only
  (repeat' split) <;> simp

theorem execRegulatorGrant_mem (ch : Byte) (s : State) : Answers (execRegulatorGrant ch s) fun t => t.mem = s.mem := by
  unfold execRegulatorGrant
  dsimp only
  (repeat' split) <;> simp

@[simp] theorem State.collide_mem (s : State) (n : Nat) : (s.collide n).mem = s.mem := by
  unfold collide
  dsimp only
  (repeat' split) <;> simp

theorem execLpddr6Read_wf (ch : Byte) (bad : Nat) (s : State) (hinv : s.mem.wf = true) :
    Answers (execLpddr6Read ch bad s) fun t => t.mem.wf = true := by
  unfold execLpddr6Read
  dsimp only
  split
  · simpa using hinv
  · refine answers_next.mpr (wf_ite (failChannel_wf _ _ ?_) ?_) <;> rw [apply_ite State.mem, putPkt_mem, ite_self] <;> split <;>
      simpa using hinv

theorem execLpddr6Write_wf (w : BurstIn) (s : State) (hinv : s.mem.wf = true) :
    Answers (execLpddr6Write w s) fun t => t.mem.wf = true := by
  unfold execLpddr6Write
  dsimp only
  (repeat' split) <;> simp [chanStore_wf, hinv]

theorem execRefresh_mem (ch : Byte) (band : BitVec 2) (s : State) :
    Answers (execRefresh ch band s) fun t => t.mem = s.mem := by
  unfold execRefresh
  dsimp only
  (repeat' split) <;> simp

theorem execPatrolScrub_wf (ch : Byte) (bad : Nat) (s : State) (hinv : s.mem.wf = true) :
    Answers (execPatrolScrub ch bad s) fun t => t.mem.wf = true := by
  unfold execPatrolScrub
  dsimp only
  (repeat' split) <;> simp [failChannel_wf, hinv]

theorem execLpddr6Training_wf (ch : Byte) (seedsOk defaultOk : Bool) (s : State) (hinv : s.mem.wf = true) :
    Answers (execLpddr6Training ch seedsOk defaultOk s) fun t => t.mem.wf = true := by
  unfold execLpddr6Training
  dsimp only
  have hw := Memory.wf_wipe s.mem (ch.toNat * 0x80000000) ((ch.toNat + 1) * 0x80000000) hinv
  refine answers_ite (answers_next.mpr hinv) (answers_ite (answers_next.mpr ?_) (answers_ite (answers_next.mpr ?_) (answers_next.mpr (degrade_wf _ ?_))))
  · simpa using hinv
  · simpa using hw
  · simpa using hw

theorem execChannelSyncLoss_wf (ch : Byte) (s : State) (hinv : s.mem.wf = true) :
    Answers (execChannelSyncLoss ch s) fun t => t.mem.wf = true := by
  unfold execChannelSyncLoss
  split <;> simp [failChannel_wf, hinv]

@[simp] theorem State.engUndec_mem (s : State) (c e : Nat) : (s.engUndec c e).mem = s.mem := by
  unfold engUndec
  simp

@[simp] theorem State.engReject_mem (s : State) (c e : Nat) (status : BitVec 4) : (s.engReject c e status).mem = s.mem := by
  unfold engReject
  simp

@[simp] theorem State.ctlAsk_mem (s : State) (c e sees a : Nat) : (s.ctlAsk c e sees a).mem = s.mem := by
  unfold ctlAsk
  (repeat' split) <;> simp

@[simp] theorem State.ctlFetch_mem (c e sees : Nat) (want : (Nat → Option Parcel) → List Nat) (n : Nat) (s : State) :
    (ctlFetch c e sees want n s).mem = s.mem := by
  induction n generalizing s with
  | zero => rfl
  | succ n ih =>
    unfold ctlFetch
    split
    · rfl
    · rw [ih, foldl_mem (by simp)]

@[simp] theorem State.ctlDrop_mem (s : State) (c e : Nat) (ps : List Nat) : (s.ctlDrop c e ps).mem = s.mem := by
  unfold ctlDrop
  simp

@[simp] theorem State.acceptArm_mem (s : State) (c e list : Nat) : (s.acceptArm c e list).mem = s.mem := by
  unfold acceptArm
  dsimp only
  (repeat' split) <;> simp

@[simp] theorem State.reserveArm_mem (s : State) (c e list : Nat) : (s.reserveArm c e list).mem = s.mem := by
  unfold reserveArm
  dsimp only
  (repeat' split) <;> simp

theorem execArm_mem (c : CoreId) (bm ia : Bool) (eng : BitVec 3) (list : LAddr) (s : State) :
    Answers (execArm c bm ia eng list s) fun t => t.mem = s.mem := by
  unfold execArm
  dsimp only
  (repeat' split) <;> simp only [issue_mem, acceptArm_mem, stray_mem, reserveArm_mem]

@[simp] theorem State.startQueued_mem (s : State) (c e : Nat) (bundled : Bool) : (s.startQueued c e bundled).mem = s.mem := by
  unfold startQueued
  dsimp only
  (repeat' split) <;> simp

theorem execQueuedArmStart_mem (c : CoreId) (e : BitVec 3) (s : State) :
    Answers (execQueuedArmStart c e s) fun t => t.mem = s.mem := by
  unfold execQueuedArmStart
  simp

theorem execBundledArmStart_mem (c : CoreId) (e : BitVec 3) (s : State) :
    Answers (execBundledArmStart c e s) fun t => t.mem = s.mem := by
  unfold execBundledArmStart
  simp

@[simp] theorem State.fetchEntry_mem (s : State) (c e : Nat) (a : Arm) : (s.fetchEntry c e a).mem = s.mem := by
  unfold fetchEntry
  simp

@[simp] theorem State.setArm_mem (s : State) (c e : Nat) (a : Arm) : (s.setArm c e a).mem = s.mem := by
  unfold setArm
  simp

@[simp] theorem State.badList_mem (s : State) (c e : Nat) (a : Arm) : (s.badList c e a).mem = s.mem := by
  unfold badList
  simp

@[simp] theorem State.startDesc_mem (s : State) (c e : Nat) (a : Arm) (v : Nat) : (s.startDesc c e a v).mem = s.mem := by
  unfold startDesc
  dsimp only
  (repeat' split) <;> simp

@[simp] theorem State.startRaw_mem (s : State) (c e : Nat) (a : Arm) (v : Nat) : (s.startRaw c e a v).mem = s.mem := by
  unfold startRaw
  simp

theorem State.takeEntry_mem (s : State) (c e kind : Nat) {take : State → Arm → Nat → State} (h : ∀ s a n, (take s a n).mem = s.mem) :
    (s.takeEntry c e kind take).mem = s.mem := by
  unfold takeEntry
  split
  · rfl
  · dsimp only
    (repeat' split) <;> simp [h]

theorem execDescEntry_mem (c : CoreId) (e : BitVec 3) (s : State) :
    Answers (execDescEntry c e s) fun t => t.mem = s.mem := answers_next.mpr (takeEntry_mem _ _ _ _ fun _ _ _ => startDesc_mem _ _ _ _ _)

theorem execRawEntry_mem (c : CoreId) (e : BitVec 3) (s : State) :
    Answers (execRawEntry c e s) fun t => t.mem = s.mem := answers_next.mpr (takeEntry_mem _ _ _ _ fun _ _ _ => startRaw_mem _ _ _ _ _)

@[simp] theorem State.chainTo_mem (s : State) (c e : Nat) (a : Arm) (v : Nat) : (s.chainTo c e a v).mem = s.mem := by
  unfold chainTo
  dsimp only
  (repeat' split) <;> simp

theorem execListChain_mem (c : CoreId) (e : BitVec 3) (s : State) :
    Answers (execListChain c e s) fun t => t.mem = s.mem := answers_next.mpr (takeEntry_mem _ _ _ _ fun _ _ _ => chainTo_mem _ _ _ _ _)

@[simp] theorem State.fetchPart_mem (s : State) (c e sees : Nat) (p : Spot) (fresh : Bool) :
    (s.fetchPart c e sees p fresh).1.mem = s.mem := by
  unfold fetchPart
  dsimp only
  (repeat' split) <;> simp

@[simp] theorem State.fetchParts_mem (s : State) (c e sees : Nat) (last : Option Nat) (ps : List Spot) :
    (s.fetchParts c e sees last ps).1.mem = s.mem :=
  foldl_keeps (fun x : State × List Part => x.1.mem) (fun _ _ _ => by simp) (s, [])

theorem execStreamElementRead_mem (c : CoreId) (e : BitVec 3) (s : State) :
    Answers (execStreamElementRead c e s) fun t => t.mem = s.mem := by
  unfold execStreamElementRead
  dsimp only
  (repeat' split) <;> simp

@[simp] theorem State.askOld_mem (s : State) (c e : Nat) (p : Spot) : (s.askOld c e p).mem = s.mem := by
  unfold askOld
  dsimp only
  (repeat' split) <;> simp

@[simp] theorem State.writeRemote_mem (s : State) (c e key : Nat) (q : Parcel) : (s.writeRemote c e key q).mem = s.mem := by
  unfold writeRemote
  simp

theorem State.mergeNear_wf (s : State) (c e : Nat) (p : Spot) (m : Nat) (w : Cov) (hinv : s.mem.wf = true) :
    (s.mergeNear c e p m w).mem.wf = true := by
  unfold mergeNear
  dsimp only
  (repeat' split) <;> simp [putParcelFor_wf, hinv]

theorem State.landPiece_wf (s : State) (c e : Nat) (p : Spot) (v : Nat) (poison : Bool) (cclass : BitVec 3) (hinv : s.mem.wf = true) :
    (s.landPiece c e p v poison cclass).mem.wf = true := by
  unfold landPiece
  dsimp only
  (repeat' split) <;> simp [mergeNear_wf, hinv]

theorem State.landMem_wf (s : State) (c e : Nat) (f : Flight) (ps : List Spot) (v : Nat) (poison : Bool) (cclass : BitVec 3) (hinv : s.mem.wf = true) :
    ∀ t, s.landMem c e f ps v poison cclass = some t → t.mem.wf = true := by
  intro t h
  unfold landMem at h
  dsimp only at h
  have write : ∀ (s : State) (l : List (Spot × Nat)) (poison : Bool), s.mem.wf = true →
      (l.foldl (fun s y => s.landPiece c e y.1 y.2 poison cclass) s).mem.wf = true :=
    fun s l poison hinv => foldl_wf (fun s y h => s.landPiece_wf _ _ _ _ _ _ h) _ hinv
  split at h
  · split at h
    · cases h
      exact write _ _ _ (wf_ite hinv hinv)
    · cases h
  · cases h
    exact write _ _ _ (wf_ite hinv hinv)

@[simp] theorem State.landPort_mem (s : State) (c e : Nat) (f : Flight) (n v : Nat) (poison : Bool) :
    (s.landPort c e f n v poison).mem = s.mem := by
  unfold landPort
  dsimp only
  (repeat' split) <;> simp

@[simp] theorem State.flushRemote_mem (s : State) (c e : Nat) : (s.flushRemote c e).mem = s.mem := by
  unfold flushRemote
  (repeat' split) <;> simp

theorem execStreamElementWrite_wf (c : CoreId) (e : BitVec 3) (s : State) (hinv : s.mem.wf = true) :
    Answers (execStreamElementWrite c e s) fun t => t.mem.wf = true := by
  unfold execStreamElementWrite
  dsimp only
  split
  · exact answers_next.mpr (by simpa using hinv)
  split
  · exact answers_next.mpr (by simpa using hinv)
  refine answers_ite (answers_next.mpr (by simpa using hinv)) (answers_ite (answers_next.mpr hinv) ?_)
  split
  · exact answers_next.mpr (by simpa using hinv)
  split
  · next h => exact answers_next.mpr (landMem_wf _ _ _ _ _ _ _ _ (by simpa using hinv) _ h)
  · refine answers_next.mpr ?_
    rw [foldl_mem]
    · simpa using hinv
    · intro s x
      exact mem_ite (s.askOld_mem _ _ _) rfl

theorem execPortDelivery_mem (c : CoreId) (e : BitVec 3) (s : State) :
    Answers (execPortDelivery c e s) fun t => t.mem = s.mem := by
  unfold execPortDelivery
  dsimp only
  (repeat' split) <;> simp

theorem execArmComplete_mem (c : CoreId) (e : BitVec 3) (s : State) :
    Answers (execArmComplete c e s) fun t => t.mem = s.mem := by
  unfold execArmComplete
  dsimp only
  (repeat' split) <;> simp

theorem execStreamReadTimeout_mem (c : CoreId) (e : BitVec 3) (s : State) :
    Answers (execStreamReadTimeout c e s) fun t => t.mem = s.mem := by
  unfold execStreamReadTimeout
  dsimp only
  (repeat' split) <;> simp

theorem execStreamWriteTimeout_mem (c : CoreId) (e : BitVec 3) (s : State) :
    Answers (execStreamWriteTimeout c e s) fun t => t.mem = s.mem := by
  unfold execStreamWriteTimeout
  dsimp only
  (repeat' split) <;> simp

theorem execListHoldApply_wf (s : State) (hinv : s.mem.wf = true) :
    Answers (execListHoldApply s) fun t => t.mem.wf = true := by
  unfold execListHoldApply
  dsimp only
  (repeat' split) <;> simp [storeParcel_wf, hinv]

@[simp] theorem State.dpkRead_mem (s : State) (c off n : Nat) : (s.dpkRead c off n).1.mem = s.mem :=
  foldl_keeps (fun x : State × List Parcel => x.1.mem) (fun _ _ _ => by simp) (s, [])

theorem execDpkOut_mem (c : CoreId) (bm ia : Bool) (lenM1 : BitVec 3) (areg : BitVec 4) (loc : BitVec 18) (s : State) :
    Answers (execDpkOut c bm ia lenM1 areg loc s) fun t => t.mem = s.mem := by
  unfold execDpkOut
  dsimp only
  split
  · exact issue_mem _ _ _ _ (by simp)
  split
  · exact issue_mem _ _ _ _ (by simp)
  split
  · exact issue_mem _ _ _ _ (by split <;> simp)
  · exact issue_mem _ _ _ _ (by simp)

theorem State.dpkStore_wf (s : State) (c id i a : Nat) (p : Parcel) (hinv : s.mem.wf = true) :
    (s.dpkStore c id i a p).1.mem.wf = true := by
  unfold dpkStore
  (repeat' split) <;> simp [putParcelFor_wf, putParcel_wf, hinv]

theorem execDpkIn_wf (c : CoreId) (ia : Bool) (lenM1 : BitVec 3) (areg : BitVec 4) (loc : BitVec 18) (s : State) (hinv : s.mem.wf = true) :
    Answers (execDpkIn c ia lenM1 areg loc s) fun t => t.mem.wf = true := by
  unfold execDpkIn
  dsimp only
  refine answers_ite (s.issue_wf _ _ _ hinv ?_) (s.issue_wf _ _ _ hinv (by simpa using hinv))
  exact foldl_wf (fun s j h => wf_ite (s.putParcel_wf _ _ h) h) _ (by simpa using hinv)

@[simp] theorem State.markOut_mem (s : State) (plane router out : Nat) : (s.markOut plane router out).mem = s.mem := rfl

@[simp] theorem State.dpkServe_mem (s : State) (q : DpkParcel) (router out : Nat) : (s.dpkServe q router out).mem = s.mem := by
  unfold dpkServe
  (repeat' split) <;> simp

theorem State.dpkWrite_wf (s : State) (q : DpkParcel) (hinv : s.mem.wf = true) : (s.dpkWrite q).mem.wf = true := by
  unfold dpkWrite
  dsimp only
  (repeat' split) <;> simp [dpkStore_wf, writeIn_wf, hinv]

theorem State.dpkArrive_wf (s : State) (q : DpkParcel) (router out : Nat) (hinv : s.mem.wf = true) :
    (s.dpkArrive q router out).mem.wf = true := by
  unfold dpkArrive
  (repeat' split) <;> simp [dpkWrite_wf, dpkStore_wf, hinv]

theorem execDaypackStep_wf (plane : BitVec 2) (router : CoreId) (out : BitVec 3) (s : State) (hinv : s.mem.wf = true) :
    Answers (execDaypackStep plane router out s) fun t => t.mem.wf = true := by
  unfold execDaypackStep
  dsimp only
  (repeat' split) <;> simp [dpkArrive_wf, hinv]

@[simp] theorem State.dpkDone_mem (s : State) (c k : Nat) : (s.dpkDone c k).mem = s.mem := by
  unfold dpkDone
  dsimp only
  (repeat' split) <;> simp

theorem execDaypackLand_wf (c : CoreId) (k : Nat) (s : State) (hinv : s.mem.wf = true) :
    Answers (execDaypackLand c k s) fun t => t.mem.wf = true := by
  unfold execDaypackLand
  dsimp only
  split
  · simpa using hinv
  refine answers_ite (answers_next.mpr (landArrive_wf _ _ (by simpa using hinv))) (answers_ite (answers_next.mpr ?_) (answers_next.mpr hinv))
  refine landArrive_wf _ _ ?_
  rw [dpkDone_mem]
  exact wf_ite (by simpa using hinv) (foldl_wf (fun s j h => wf_ite (s.putParcel_wf _ _ h) h) _ (by simpa using hinv))

@[simp] theorem State.resync_mem (s : State) : (s.resync).mem = s.mem := rfl

@[simp] theorem State.applyLowering_mem (s : State) (cause : Byte) : (s.applyLowering cause).mem = s.mem := rfl

@[simp] theorem State.floorHit_mem (s : State) : (s.floorHit).mem = s.mem := by
  unfold floorHit
  simp

@[simp] theorem State.sendRateSet_mem (s : State) (rate step : Nat) : (s.sendRateSet rate step).mem = s.mem := by
  unfold State.sendRateSet; exact foldl_mem (fun s _ => by simp) _ _

@[simp] theorem State.masterSet_mem (s : State) (rate : Nat) (decrement : Bool) :
    (s.masterSet rate decrement).mem = s.mem := by
  unfold masterSet
  simp

@[simp] theorem State.masterRequest_mem (s : State) : (s.masterRequest).mem = s.mem := by
  unfold masterRequest
  dsimp only
  (repeat' split) <;> simp

@[simp] theorem State.decideLowering_mem (s : State) (cause : Byte) : (s.decideLowering cause).mem = s.mem := by
  unfold decideLowering
  (repeat' split) <;> simp

@[simp] theorem State.applyRate_mem (s : State) (rate : Nat) : (s.applyRate rate).mem = s.mem := by
  unfold applyRate
  dsimp only
  (repeat' split) <;> simp

@[simp] theorem State.portIdle_mem (s : State) (p : Nat) : (s.portIdle p).mem = s.mem := by
  unfold portIdle
  simp

theorem State.blockLost_wf (s : State) (b : Nat) (hinv : s.mem.wf = true) : (s.blockLost b).mem.wf = true := by
  unfold blockLost
  dsimp only
  exact Memory.wf_foldl _ (fun m c h => Memory.wf_wipe _ _ _ (Memory.wf_wipe m _ _ h)) _ _ hinv

theorem State.domainLost_wf (s : State) (d : Nat) (hinv : s.mem.wf = true) : (s.domainLost d).mem.wf = true := by
  unfold domainLost
  dsimp only
  refine wf_ite (by simpa using hinv) (wf_ite (s.blockLost_wf _ hinv) (wf_ite ?_ (wf_ite ?_ hinv)))
  · exact Memory.wf_wipe s.mem _ _ hinv
  · exact Memory.wf_wipe s.mem _ _ hinv

@[simp] theorem State.linksChange_mem (s : State) (d : Nat) : (s.linksChange d).mem = s.mem := by
  unfold linksChange
  rw [resync_mem, foldl_mem (by simp)]

theorem State.toDomain_wf (s : State) (d v : Nat) (hinv : s.mem.wf = true) : (s.toDomain d v).mem.wf = true := by
  unfold toDomain
  (repeat' split) <;> simp [domainLost_wf, hinv]

@[simp] theorem State.controlWrite_mem (s : State) (c off v : Nat) : (s.controlWrite c off v).mem = s.mem := by
  unfold controlWrite
  split <;> simp

theorem execStepPermit_mem (late : Bool) (s : State) : Answers (execStepPermit late s) fun t => t.mem = s.mem := by
  unfold execStepPermit
  split <;> simp

theorem execDamperInterval_wf (slack : List Nat) (s : State) (hinv : s.mem.wf = true) :
    Answers (execDamperInterval slack s) fun t => t.mem.wf = true := by
  unfold execDamperInterval
  dsimp only
  (repeat' split) <;> simp [moduleFatal_wf, hinv]

theorem execLoweringApply_mem (s : State) : Answers (execLoweringApply s) fun t => t.mem = s.mem := by
  unfold execLoweringApply
  (repeat' split) <;> simp

theorem execThermalCheck_mem (s : State) : Answers (execThermalCheck s) fun t => t.mem = s.mem := by
  unfold execThermalCheck
  dsimp only
  (repeat' split) <;> simp

theorem execRateRestore_mem (s : State) : Answers (execRateRestore s) fun t => t.mem = s.mem := by
  unfold execRateRestore
  dsimp only
  (repeat' split) <;> simp

theorem execStepTargetApply_mem (s : State) : Answers (execStepTargetApply s) fun t => t.mem = s.mem := by
  unfold execStepTargetApply
  (repeat' split) <;> simp

theorem execPowerWindowEnd_mem (meanW : Nat) (s : State) : Answers (execPowerWindowEnd meanW s) fun t => t.mem = s.mem := by
  unfold execPowerWindowEnd
  dsimp only
  (repeat' split) <;> simp

@[simp] theorem State.comparators_mem (s : State) (dies : List Int) : (s.comparators dies).mem = s.mem := rfl

theorem alertCool_mem (s : State) (p : Prop) [Decidable p] : (if p then s.unalert .cool else s.alert .cool).mem = s.mem :=
  mem_ite (s.unalert_mem _) (s.alert_mem _)

theorem execLoopPeriodEnd_mem (r : CoolReading) (s : State) : Answers (execLoopPeriodEnd r s) fun t => t.mem = s.mem := by
  unfold execLoopPeriodEnd
  refine answers_ite (answers_fault.mpr trivial) (answers_ite (answers_next.mpr rfl) (answers_ite (answers_next.mpr (s.comparators_mem r.dies)) ?_))
  intro s' h
  injection h with h
  subst h
  exact (alertCool_mem _ _).trans (s.comparators_mem r.dies)

theorem execDomainTransition_wf (s : State) (hinv : s.mem.wf = true) :
    Answers (execDomainTransition s) fun t => t.mem.wf = true := by
  unfold execDomainTransition
  split
  · simpa using hinv
  · refine answers_ite (answers_next.mpr hinv) (answers_next.mpr ?_)
    exact foldl_wf (fun s x h => wf_ite h (s.toDomain_wf _ _ h)) _ hinv

theorem execThermalTrip_wf (s : State) (hinv : s.mem.wf = true) : Answers (execThermalTrip s) fun t => t.mem.wf = true := by
  unfold execThermalTrip
  dsimp only
  refine answers_ite (answers_next.mpr hinv) (answers_next.mpr ?_)
  dsimp only
  refine foldl_wf (fun s i h => s.toDomain_wf _ _ h) _ (wf_ite ?_ ?_) <;> simpa using hinv

@[simp] theorem State.putVal_mem (s : State) (key : Nat) (v : List Byte) : (s.putVal key v).mem = s.mem := rfl

@[simp] theorem State.closeVendor_mem (s : State) : (s.closeVendor).mem = s.mem := rfl

@[simp] theorem State.newEpoch_mem (s : State) : (s.newEpoch).mem = s.mem := rfl

@[simp] theorem State.retarget_mem (s : State) (x : Nat) : (s.retarget x).mem = s.mem := by
  unfold retarget
  (repeat' split) <;> simp

@[simp] theorem State.enablePorts_mem (s : State) (old new : Nat) : (s.enablePorts old new).mem = s.mem := by
  unfold enablePorts
  rw [resync_mem, foldl_mem (fun s p => by split <;> simp)]

@[simp] theorem State.writeCoreCtrl_mem (s : State) (x : Nat) : (s.writeCoreCtrl x).mem = s.mem := by
  unfold writeCoreCtrl
  simp

theorem State.setPartition_wf (s : State) (x : Nat) (hinv : s.mem.wf = true) : (s.setPartition x).mem.wf = true := by
  unfold setPartition
  simp [flushSlices_wf, hinv]

theorem State.applyWrite_wf (s : State) (key : Nat) (v : List Byte) (hinv : s.mem.wf = true) :
    (s.applyWrite key v).mem.wf = true := by
  unfold applyWrite
  dsimp only
  (repeat' split) <;> simp [setPartition_wf, hinv]

@[simp] theorem State.putStored_mem (s : State) (key : Nat) (v : List Byte) : (s.putStored key v).mem = s.mem := rfl

theorem State.restoreDefaults_wf (s : State) (hinv : s.mem.wf = true) : (s.restoreDefaults).mem.wf = true := by
  unfold restoreDefaults
  dsimp only
  refine foldl_wf (fun s k h => ?_) _ hinv
  exact wf_ite h (applyWrite_wf _ _ _ (by simpa using h))

@[simp] theorem State.sendResult_mem (s : State) (k : Kept) : (s.sendResult k).mem = s.mem := by
  unfold sendResult
  simp

@[simp] theorem State.finishTaking_mem (s : State) (t : Taking) : (s.finishTaking t).mem = s.mem := by
  unfold finishTaking
  (repeat' split) <;> simp

@[simp] theorem State.closeResult_mem (s : State) (ch : BitVec 4) (o : OpenRes) (status : W16) (slot len : Nat) :
    (s.closeResult ch o status slot len).mem = s.mem := by
  unfold closeResult
  dsimp only
  split
  · simp
  · rw [foldl_mem (by simp)]

@[simp] theorem State.headerGot_mem (s : State) (ch : BitVec 4) (seq : Nat) (p : Parcel) :
    (s.headerGot ch seq p).mem = s.mem := by
  unfold headerGot
  dsimp only
  (repeat' split) <;> simp

@[simp] theorem State.dataGot_mem (s : State) (ch : BitVec 4) (i seq : Nat) (p : Parcel) :
    (s.dataGot ch i seq p).mem = s.mem := by
  unfold dataGot
  dsimp only
  (repeat' split) <;> simp

@[simp] theorem State.slotGot_mem (s : State) (r : SReq) (p : Parcel) : (s.slotGot r p).mem = s.mem := by
  unfold slotGot
  dsimp only
  (repeat' split) <;> simp

theorem State.issueAt_mem (s : State) (c : CoreId) (i : Instr) {e : State} (t steps : Nat) (h : e.mem = s.mem) :
    Answers (s.issueAt c i e t steps) fun t => t.mem = s.mem :=
  issueTo_mem _ _ _ _ (by simp [h])

theorem execLoop_mem (c : CoreId) (lc : BitVec 2) (ia : Bool) (endIdx : BitVec 12) (count : BitVec 24) (s : State) :
    Answers (execLoop c lc ia endIdx count s) fun t => t.mem = s.mem := by
  unfold execLoop
  dsimp only
  exact answers_ite (issueAt_mem _ _ _ _ _ (setSeq_mem _ _ _)) (issueAt_mem _ _ _ _ _ (setSeq_mem _ _ _))

theorem execEndl_mem (c : CoreId) (lc : BitVec 2) (body : BitVec 12) (s : State) :
    Answers (execEndl c lc body s) fun t => t.mem = s.mem := by
  unfold execEndl
  dsimp only
  exact answers_ite (issueAt_mem _ _ _ _ _ (setSeq_mem _ _ _)) (issueAt_mem _ _ _ _ _ (setSeq_mem _ _ _))

theorem execBr_mem (c : CoreId) (cond ra : BitVec 4) (ia : Bool) (target : BitVec 12) (s : State) :
    Answers (execBr c cond ra ia target s) fun t => t.mem = s.mem := by
  unfold execBr
  dsimp only
  (repeat' split) <;> simp only [issueAt_mem]

theorem execBkt_mem (c : CoreId) (rd ra : BitVec 4) (src : Bool) (btab : Byte) (s : State) :
    Answers (execBkt c rd ra src btab s) fun t => t.mem = s.mem := by
  unfold execBkt
  dsimp only
  (repeat' split) <;> simp only [issueTo_mem, coreFault_mem, setReg_mem, goTo_mem]

theorem execHalt_mem (c : CoreId) (s : State) : Answers (execHalt c s) fun t => t.mem = s.mem := by
  unfold execHalt
  simp only [haltCore_mem, issueTo_mem]

theorem execStepCtr_mem (c : CoreId) (rd : BitVec 4) (s : State) :
    Answers (execStepCtr c rd s) fun t => t.mem = s.mem := issue_mem _ _ _ _ (by simp)

theorem execWaits_mem (c : CoreId) (mask : Byte) (s : State) : Answers (execWaits c mask s) fun t => t.mem = s.mem := by
  unfold execWaits
  simp only [issue_mem]

theorem execWaitany_mem (c : CoreId) (rd : BitVec 4) (mask : Byte) (s : State) :
    Answers (execWaitany c rd mask s) fun t => t.mem = s.mem := by
  unfold execWaitany
  dsimp only
  split
  · exact issue_mem _ _ _ _ (by simp)
  split
  · exact issue_mem _ _ _ _ (by simp)
  split <;> exact issue_mem _ _ _ _ (by simp)

theorem execTkt_mem (c : CoreId) (rd : BitVec 4) (ia : Bool) (ctr : BitVec 6) (s : State) :
    Answers (execTkt c rd ia ctr s) fun t => t.mem = s.mem := by
  unfold execTkt
  dsimp only
  split
  · exact issue_mem _ _ _ _ (by simp)
  · exact issueTo_mem _ _ _ _ (by simp)

theorem execTktset_mem (c : CoreId) (ra : BitVec 4) (clr ia : Bool) (ctr : BitVec 6) (s : State) :
    Answers (execTktset c ra clr ia ctr s) fun t => t.mem = s.mem := issue_mem _ _ _ _ (by simp)

theorem execInstructionFetch_mem (c : CoreId) (s : State) : Answers (execInstructionFetch c s) fun t => t.mem = s.mem := by
  unfold execInstructionFetch
  dsimp only
  (repeat' split) <;> simp

@[simp] theorem State.dropStale_mem (s : State) (plane router : Nat) : (s.dropStale plane router).mem = s.mem := by
  unfold dropStale
  exact foldl_mem (fun s i => by dsimp only; split <;> rfl) _ _

@[simp] theorem State.missSlot_mem (s : State) (plane router : Nat) (exits : List Nat) :
    (s.missSlot plane router exits).mem = s.mem := by
  unfold missSlot
  split <;> simp

theorem State.takeDevice_fresh_mem (s : State) (plane router src k : Nat) : (takeDevice.fresh s plane router src k).1.mem = s.mem := by
  unfold takeDevice.fresh
  split
  · rfl
  dsimp only
  split
  · next t b h => exact takeSource_mem s _ _ _ _ h
  have hslot : ∀ exits, (if src = 6 then s.missSlot plane router exits else s).mem = s.mem := fun exits => by split <;> simp
  split
  · split
    · next t b h => exact (takeSource_mem _ _ _ _ _ h).trans (hslot _)
    · exact hslot _
  · exact hslot _

@[simp] theorem State.takeDevice_mem (s : State) (plane router src : Nat) : (s.takeDevice plane router src).1.mem = s.mem := by
  unfold takeDevice
  dsimp only
  split
  · refine (congrArg State.mem (apply_ite Prod.fst _ _ _)).trans (mem_ite rfl ?_)
    exact takeDevice_fresh_mem _ _ _ _ _
  · exact takeDevice_fresh_mem _ _ _ _ _

@[simp] theorem State.takeInput_mem (s : State) (plane router src : Nat) : (s.takeInput plane router src).1.mem = s.mem := by
  unfold takeInput
  dsimp only
  (repeat' split) <;> simp

theorem State.deliver_wf (s : State) (router out ord : Nat) (p : Pkt) (hinv : s.mem.wf = true) :
    (s.deliver router out ord p).mem.wf = true := by
  unfold deliver
  (repeat' split) <;> simp [coreRequest_wf, hinv]

theorem State.exitBeat_wf (s : State) (plane router out at_ : Nat) (b : Beat) (hinv : s.mem.wf = true) :
    (s.exitBeat plane router out at_ b).mem.wf = true := by
  unfold exitBeat
  dsimp only
  split
  · refine wf_ite hinv ?_
    split
    · simpa using hinv
    · exact hinv
  · split
    · simpa using hinv
    · exact foldl_wf (fun s x h => s.deliver_wf _ _ _ _ h) _ hinv
    · exact hinv

theorem State.beatOut_wf (s : State) (plane router out : Nat) (b : Beat) (hinv : s.mem.wf = true) :
    (s.beatOut plane router out b).mem.wf = true := by
  unfold beatOut
  split <;> simp [exitBeat_wf, hinv]

theorem State.uniformArrive_wf (s : State) (plane router out : Nat) (hinv : s.mem.wf = true) :
    (s.uniformArrive plane router out).mem.wf = true := by
  unfold uniformArrive
  exact foldl_wf (fun s x h => s.exitBeat_wf _ _ _ _ _ h) _ hinv

@[simp] theorem State.uniformDepart_mem (s : State) (plane router input : Nat) :
    (s.uniformDepart plane router input).mem = s.mem := by
  unfold uniformDepart
  dsimp only
  split
  · rfl
  · split <;> rfl

theorem State.uniformStep_wf (s : State) (plane router out : Nat) (hinv : s.mem.wf = true) :
    (s.uniformStep plane router out).mem.wf = true := by
  unfold uniformStep
  split <;> simp [uniformArrive_wf, hinv]

theorem execTrailSlot_wf (plane : BitVec 2) (router : CoreId) (out : BitVec 3) (s : State) (hinv : s.mem.wf = true) :
    Answers (execTrailSlot plane router out s) fun t => t.mem.wf = true := by
  unfold execTrailSlot
  dsimp only
  (repeat' split) <;> simp [beatOut_wf, uniformStep_wf, hinv]

theorem execPhaseTablesStart_mem (s : State) : Answers (execPhaseTablesStart s) fun t => t.mem = s.mem := by
  unfold execPhaseTablesStart
  (repeat' split) <;> simp

@[simp] theorem State.unbox_mem (s : State) (c : Nat) (m : WMsg) : (s.unbox c m).mem = s.mem := rfl

@[simp] theorem State.boxWrite_mem (s : State) (c : Nat) (m : WMsg) : (s.boxWrite c m).mem = s.mem := by
  unfold boxWrite
  simp

@[simp] theorem State.answerCore_mem (s : State) (c : Nat) (m : WMsg) : (s.answerCore c m).mem = s.mem := by
  unfold answerCore
  dsimp only
  rw [whistleSend_mem, foldl_mem (by simp)]

@[simp] theorem State.whistleDeliver_mem (s : State) (m : WMsg) : (s.whistleDeliver m).mem = s.mem := by
  unfold whistleDeliver
  dsimp only
  (repeat' split) <;> simp

theorem execWhistleFlitHop_mem (k : Nat) (s : State) : Answers (execWhistleFlitHop k s) fun t => t.mem = s.mem := by
  unfold execWhistleFlitHop
  dsimp only
  (repeat' split) <;> simp

theorem execRemoteArm_mem (c : CoreId) (s : State) : Answers (execRemoteArm c s) fun t => t.mem = s.mem := by
  unfold execRemoteArm
  dsimp only
  (repeat' split) <;> simp

theorem execErrorNotice_mem (s : State) : Answers (execErrorNotice s) fun t => t.mem = s.mem := by
  unfold execErrorNotice
  (repeat' split) <;> simp

theorem execControlBlockWrite_mem (c : CoreId) (s : State) : Answers (execControlBlockWrite c s) fun t => t.mem = s.mem := by
  unfold execControlBlockWrite
  dsimp only
  (repeat' split) <;> simp

theorem execTktServe_mem (ctr : BitVec 6) (s : State) : Answers (execTktServe ctr s) fun t => t.mem = s.mem := by
  unfold execTktServe
  dsimp only
  (repeat' split) <;> simp

theorem execTktsetServe_mem (ctr : BitVec 6) (s : State) : Answers (execTktsetServe ctr s) fun t => t.mem = s.mem := by
  unfold execTktsetServe
  (repeat' split) <;> simp

@[simp] theorem State.sendAck_mem (s : State) (p credits : Nat) : (s.sendAck p credits).mem = s.mem := by
  unfold sendAck
  simp

@[simp] theorem State.takeSym_mem (s : State) (p : Nat) (payload : BitVec 256) (stype : Nat) :
    (s.takeSym p payload stype).1.mem = s.mem := by
  unfold takeSym
  split <;> simp

theorem State.takeFlit_mem (s : State) (p ftype : Nat) : ∀ r, s.takeFlit p ftype = some r → r.2.2.mem = s.mem := by
  intro r h
  unfold takeFlit at h
  dsimp only at h
  split at h
  · split at h
    · cases h; rfl
    · cases h
  · cases h

@[simp] theorem State.putEdge_mem (s : State) (port i : Nat) (p : Pkt) : (s.putEdge port i p).mem = s.mem := by
  unfold putEdge
  simp

@[simp] theorem State.passOn_mem (s : State) (port : Nat) (f : Flit) : (s.passOn port f).mem = s.mem := by
  unfold passOn
  dsimp only
  split
  · simp
  split
  · simp
  split
  · exact foldl_mem (fun _ _ => by simp) _ _
  split
  · simp
  · exact foldl_mem (fun _ _ => by simp) _ _

@[simp] theorem State.countLate_mem (s : State) (port : Nat) (h : FHead) (past : Nat) :
    (s.countLate port h past).mem = s.mem := by
  unfold countLate
  dsimp only
  split <;> rfl

@[simp] theorem State.releaseCores_mem (s : State) : (s.releaseCores).mem = s.mem := by
  unfold releaseCores
  exact foldl_mem (fun _ _ => by split <;> rfl) _ _

@[simp] theorem State.sendStart_mem (s : State) (tStart hops master target : Nat) :
    (s.sendStart tStart hops master target).mem = s.mem := by
  unfold State.sendStart; exact foldl_mem (fun s _ => by simp) _ _

@[simp] theorem State.progressStart_mem (s : State) : (s.progressStart).mem = s.mem := by
  unfold progressStart
  (repeat' split) <;> simp

@[simp] theorem State.holdCheck_mem (s : State) (h : Holdup) (need : Nat) : (s.holdCheck h need).1.mem = s.mem := by
  rw [holdCheck_eq]

@[simp] theorem State.beginStore_mem (s : State) (job : StoreJob) (who : StoreFor) : (s.beginStore job who).mem = s.mem := rfl

theorem State.placeBytes_wf (s : State) (a : Nat) (bs : List Byte) (hinv : s.mem.wf = true) :
    (s.placeBytes a bs).mem.wf = true := by
  unfold placeBytes
  refine foldl_wf (fun s i h => ?_) _ hinv
  dsimp only
  split
  · exact Memory.wf_setParcel _ _ _ _ h
  · exact h

theorem State.placeWords_wf (s : State) (c : Nat) (ws : List W64) (hinv : s.mem.wf = true) :
    (s.placeWords c ws).mem.wf = true := by
  unfold placeWords
  exact placeBytes_wf _ _ _ (Memory.wf_wipe _ _ _ hinv)

@[simp] theorem State.startCores_mem (s : State) (p : List Byte) : (s.startCores p).mem = s.mem := by
  unfold startCores
  with_reducible rfl

theorem State.clearStores_wf (s : State) (hinv : s.mem.wf = true) : (s.clearStores).mem.wf = true := by
  unfold clearStores
  exact Memory.wf_wipe _ _ _ (Memory.wf_wipe _ _ _ hinv)

@[simp] theorem State.putLayout_mem (s : State) (m : List Byte) : (s.putLayout m).mem = s.mem := rfl

theorem State.prepareSlices_wf (s : State) (hinv : s.mem.wf = true) : (s.prepareSlices).mem.wf = true := by
  unfold prepareSlices
  dsimp only
  exact Memory.wf_foldl _ (fun m c h => Memory.wf_wipe m _ _ h) _ _ hinv

theorem State.placeData_wf (s : State) (p : List Byte) (hinv : s.mem.wf = true) : (s.placeData p).mem.wf = true := by
  unfold placeData
  exact foldl_wf (fun s x h => s.placeBytes_wf _ _ h) _ (foldl_wf (fun s x h => s.placeBytes_wf _ _ h) _ hinv)

theorem State.placeRoutes_wf (s : State) (p : List Byte) (hinv : s.mem.wf = true) : (s.placeRoutes p).mem.wf = true := by
  unfold placeRoutes
  exact foldl_wf (fun s r h => s.placeBytes_wf _ _ h) _ hinv

@[simp] theorem State.loadTables_mem (s : State) (p : List Byte) : (s.loadTables p).mem = s.mem := rfl

@[simp] theorem State.loadCairn_mem (s : State) (p : List Byte) : (s.loadCairn p).mem = s.mem := rfl

theorem State.placePinned_wf (s : State) (p : List Byte) (hinv : s.mem.wf = true) : (s.placePinned p).mem.wf = true := by
  unfold placePinned
  refine foldl_wf (fun s b h => foldl_wf (fun s i h => ?_) _ h) _ hinv
  dsimp only
  split
  · exact Memory.wf_setParcel _ _ _ _ h
  · exact h

@[simp] theorem State.loadScout_mem (s : State) (p : List Byte) : (s.loadScout p).mem = s.mem := rfl

theorem State.placeCompat_wf (s : State) (p : List Byte) (hinv : s.mem.wf = true) : (s.placeCompat p).mem.wf = true := by
  unfold placeCompat
  exact foldl_wf (fun s b h => placeBytes_wf _ _ _ (placeBytes_wf _ _ _ h)) _ hinv

theorem State.placePack_wf (s : State) (p : List Byte) (hinv : s.mem.wf = true) : (s.placePack p).mem.wf = true := by
  unfold placePack
  dsimp only
  refine placeCompat_wf _ _ ?_
  simp only [putVal_mem, loadScout_mem]
  refine placePinned_wf _ _ (prepareSlices_wf _ ?_)
  simp only [putVal_mem, loadCairn_mem, loadTables_mem]
  refine placeRoutes_wf _ _ (placeData_wf _ _ (foldl_wf (fun s c h => s.placeWords_wf _ _ h) _ ?_))
  rw [putLayout_mem]
  refine clearStores_wf _ ?_
  rw [startCores_mem]
  exact s.flushSlices_wf hinv

theorem State.startPack_wf (s : State) (hinv : s.mem.wf = true) : (s.startPack).mem.wf = true := by
  unfold startPack
  dsimp only
  (repeat' split) <;> simp [placePack_wf, hinv]

@[simp] theorem State.startRefused_mem (s : State) (code : W16) : (s.startRefused code).mem = s.mem := by
  unfold startRefused
  split <;> simp

@[simp] theorem State.beginInstall_mem (s : State) : (s.beginInstall).mem = s.mem := by
  unfold beginInstall
  simp

@[simp] theorem State.finishInstall_mem (s : State) : (s.finishInstall).mem = s.mem := by
  unfold finishInstall
  dsimp only
  split <;> rfl

theorem execPackCheckComplete_mem (s : State) : Answers (execPackCheckComplete s) fun t => t.mem = s.mem := by
  unfold execPackCheckComplete
  split <;> simp

theorem execPackFatalHalt_wf (s : State) (hinv : s.mem.wf = true) :
    Answers (execPackFatalHalt s) fun t => t.mem.wf = true := by
  unfold execPackFatalHalt
  (repeat' split) <;> simp [haltPack_wf, hinv]

theorem State.loadWrite_wf (s : State) (wholes : List Nat) (r : SReq) (hinv : s.mem.wf = true) :
    (s.loadWrite wholes r).mem.wf = true := by
  unfold loadWrite
  dsimp only
  (repeat' split) <;> simp [sliceOne_wf, hinv]

theorem State.loadBytes_wf (s : State) (chLocal : Bool) (a : Nat) (bs : List Byte) (hinv : s.mem.wf = true) :
    (s.loadBytes chLocal a bs).mem.wf = true := by
  unfold loadBytes
  refine wf_ite (foldl_wf (fun s r h => s.loadWrite_wf _ _ h) _ hinv) (foldl_wf (fun s x h => ?_) _ hinv)
  dsimp only
  split
  · exact Memory.wf_setParcel _ _ _ _ h
  · exact h

theorem State.loadSegment_wf (s : State) (off : Nat) (bs : List Byte) (hinv : s.mem.wf = true) :
    (s.loadSegment off bs).mem.wf = true := by
  unfold loadSegment
  exact foldl_wf (fun s x h => s.loadBytes_wf _ _ _ h) _ hinv

@[simp] theorem State.packSegment_mem (s : State) (off : Nat) (data : List Byte) : (s.packSegment off data).1.mem = s.mem := by
  unfold packSegment
  (repeat' split) <;> simp

@[simp] theorem State.manifestSegment_mem (s : State) (off : Nat) (data : List Byte) :
    (s.manifestSegment off data).1.mem = s.mem := by
  unfold manifestSegment
  (repeat' split) <;> simp

theorem State.imageSegment_wf (s : State) (off : Nat) (data : List Byte) (hinv : s.mem.wf = true) :
    (s.imageSegment off data).1.mem.wf = true := by
  unfold imageSegment
  (repeat' split) <;> simp [loadSegment_wf, hinv]

@[simp] theorem State.imageLoad_mem (s : State) : (s.imageLoad).1.mem = s.mem := by
  unfold imageLoad
  (repeat' split) <;> simp

theorem execWimgHashComplete_mem (s : State) : Answers (execWimgHashComplete s) fun t => t.mem = s.mem := by
  unfold execWimgHashComplete
  dsimp only
  (repeat' split) <;> simp

@[simp] theorem State.putBlock_mem (s : State) (b : Nat) (bs : List Byte) : (s.putBlock b bs).mem = s.mem := rfl

@[simp] theorem State.fwSegment_mem (s : State) (off : Nat) (data : List Byte) : (s.fwSegment off data).1.mem = s.mem := by
  unfold fwSegment
  (repeat' split) <;> simp

@[simp] theorem State.fwBegin_mem (s : State) (h : Holdup) : (s.fwBegin h).1.mem = s.mem := by
  have hold := holdCheck_mem s h needBlock
  unfold fwBegin
  dsimp only
  split
  · rfl
  split
  · rfl
  split
  · rfl
  split
  · next heq => rw [heq] at hold; exact hold
  · next heq => rw [heq] at hold; simpa using hold

@[simp] theorem State.fwBlock_mem (s : State) (h : Holdup) : (s.fwBlock h).1.mem = s.mem := by
  have hold := holdCheck_mem s h needBlock
  unfold fwBlock
  split
  · next heq =>
    rw [heq] at hold
    dsimp only
    split
    · simpa using hold
    · exact hold
  · next heq => rw [heq] at hold; simpa using hold

@[simp] theorem State.storeEntry_mem (s : State) (key : Nat) (v : List Byte) : (s.storeEntry key v).mem = s.mem := by
  unfold storeEntry
  split <;> simp

@[simp] theorem State.storeMember_mem (s : State) (m : Nat × List Byte) : (s.storeMember m).mem = s.mem := by
  unfold storeMember
  split <;> simp

@[simp] theorem State.putJob_mem (s : State) (j : StoreJob) : (s.putJob j).mem = s.mem := by
  unfold putJob
  split
  · simp
  · apply foldl_mem; simp
  · apply foldl_mem; simp
  · dsimp only
    apply foldl_mem; simp
  · simp
  · simp
  · rfl
  · rfl

@[simp] theorem State.enrolled_mem (s : State) : (s.enrolled).mem = s.mem := rfl

theorem State.completeJob_wf (s : State) (j : StoreJob) (hinv : s.mem.wf = true) : (s.completeJob j).mem.wf = true := by
  unfold completeJob
  split
  · exact applyWrite_wf _ _ _ (by simpa using hinv)
  · exact s.restoreDefaults_wf hinv
  · exact foldl_wf (fun s m h => s.applyWrite_wf _ _ h) _ (by simpa using hinv)
  · simpa using hinv
  · exact startPack_wf _ (by simpa using hinv)
  · simpa using hinv
  · simpa using hinv
  · simpa using hinv

@[simp] theorem State.landStore_mem (s : State) : (s.landStore).mem = s.mem := by
  unfold landStore
  split <;> simp

@[simp] theorem State.putRepairs_mem (s : State) (cs : List Nat) : (s.putRepairs cs).mem = s.mem := by
  unfold State.putRepairs; exact foldl_mem (fun s _ => by simp) _ _

@[simp] theorem State.isolateCore_mem (s : State) (c : Nat) : (s.isolateCore c).mem = s.mem := by
  unfold isolateCore
  dsimp only
  (repeat' split) <;> simp

@[simp] theorem State.applyRepairs_mem (s : State) : (s.applyRepairs).mem = s.mem := by
  unfold applyRepairs
  dsimp only
  rw [putRepairs_mem, putVal_mem, putVal_mem, foldl_mem (by simp)]

theorem State.beginFabricReset_wf (s : State) (hinv : s.mem.wf = true) : (s.beginFabricReset).mem.wf = true := by
  unfold beginFabricReset
  split <;> simp [fabricLost_wf, flushSlices_wf, haltPack_wf, hinv]

theorem State.retrain_wf (s : State) (seedsOk defaultOk : Bool) (hinv : s.mem.wf = true) :
    (s.retrain seedsOk defaultOk).mem.wf = true := by
  unfold retrain
  (repeat' split) <;> simp [degrade_wf, hinv]

@[simp] theorem State.recheckPack_mem (s : State) : (s.recheckPack).mem = s.mem := by
  unfold recheckPack
  (repeat' split) <;> simp

theorem execFabricResetComplete_wf (seedsOk defaultOk : Bool) (s : State) (hinv : s.mem.wf = true) :
    Answers (execFabricResetComplete seedsOk defaultOk s) fun t => t.mem.wf = true := by
  unfold execFabricResetComplete
  dsimp only
  (repeat' split) <;> simp [retrain_wf, hinv]

theorem State.base_wf (s : State) : (s.base).mem.wf = true := by
  unfold base
  exact reset_mem_wf

@[simp] theorem State.startTimeline_mem (s : State) : (s.startTimeline).mem = s.mem := by
  unfold startTimeline
  exact foldl_mem (fun _ _ => by simp) _ _

theorem State.moduleLost_wf (s : State) (straps : Straps) (hinv : s.mem.wf = true) : (s.moduleLost straps).mem.wf = true := by
  unfold moduleLost
  refine Memory.wf_wipe _ _ _ ?_
  simpa using hinv

theorem State.moduleReset_wf (s : State) (straps : Straps) (hinv : s.mem.wf = true) :
    (s.moduleReset straps).mem.wf = true := by
  unfold moduleReset
  simp [moduleLost_wf, hinv]

theorem State.powerDown_wf (s : State) : (s.powerDown).mem.wf = true := by
  unfold powerDown
  simp [base_wf]

@[simp] theorem State.tryCharge_mem (s : State) : (s.tryCharge).mem = s.mem := by
  unfold tryCharge
  split <;> simp

theorem execPwrEnRise_mem (s : State) : Answers (execPwrEnRise s) fun t => t.mem = s.mem := by
  unfold execPwrEnRise
  simp

theorem execInputInRange_mem (s : State) : Answers (execInputInRange s) fun t => t.mem = s.mem := by
  unfold execInputInRange
  simp

theorem execPwrGoodRetry_mem (s : State) : Answers (execPwrGoodRetry s) fun t => t.mem = s.mem := by
  unfold execPwrGoodRetry
  split <;> simp

theorem execPwrGoodRise_wf (straps : Straps) (s : State) (hinv : s.mem.wf = true) :
    Answers (execPwrGoodRise straps s) fun t => t.mem.wf = true := by
  unfold execPwrGoodRise
  dsimp only
  (repeat' split) <;> simp [base_wf, hinv]

theorem execPwrEnFall_wf (s : State) (hinv : s.mem.wf = true) : Answers (execPwrEnFall s) fun t => t.mem.wf = true := by
  unfold execPwrEnFall
  dsimp only
  (repeat' split) <;> simp [powerDown_wf, hinv]

theorem State.inputTrip_wf (s : State) (hinv : s.mem.wf = true) : (s.inputTrip).mem.wf = true := by
  unfold inputTrip
  dsimp only
  (repeat' split) <;> simp [powerDown_wf, hinv]

theorem execUndervoltageTrip_wf (s : State) (hinv : s.mem.wf = true) :
    Answers (execUndervoltageTrip s) fun t => t.mem.wf = true := by
  unfold execUndervoltageTrip
  simp [inputTrip_wf, hinv]

theorem execOvervoltageTrip_wf (s : State) (hinv : s.mem.wf = true) :
    Answers (execOvervoltageTrip s) fun t => t.mem.wf = true := by
  unfold execOvervoltageTrip
  simp [inputTrip_wf, hinv]

theorem execPowerDownHoldEnd_mem (s : State) : Answers (execPowerDownHoldEnd s) fun t => t.mem = s.mem := by
  unfold execPowerDownHoldEnd
  split <;> simp

theorem execModResetNFall_wf (straps : Straps) (s : State) (hinv : s.mem.wf = true) :
    Answers (execModResetNFall straps s) fun t => t.mem.wf = true := by
  unfold execModResetNFall
  dsimp only
  (repeat' split) <;> simp [moduleLost_wf, hinv]

theorem execModResetNRise_mem (s : State) : Answers (execModResetNRise s) fun t => t.mem = s.mem := by
  unfold execModResetNRise
  dsimp only
  (repeat' split) <;> simp

theorem execFirmwareBootCheck_mem (s : State) : Answers (execFirmwareBootCheck s) fun t => t.mem = s.mem := by
  unfold execFirmwareBootCheck
  dsimp only
  (repeat' split) <;> simp

theorem execObserverAccessStart_mem (s : State) : Answers (execObserverAccessStart s) fun t => t.mem = s.mem := by
  unfold execObserverAccessStart
  split <;> simp

theorem execDomainRamp_mem (d : Fin 44) (s : State) : Answers (execDomainRamp d s) fun t => t.mem = s.mem := by
  unfold execDomainRamp
  (repeat' split) <;> simp

theorem execFullParameterService_mem (s : State) : Answers (execFullParameterService s) fun t => t.mem = s.mem := by
  unfold execFullParameterService
  dsimp only
  (repeat' split) <;> simp

theorem execBasecampReady_mem (s : State) : Answers (execBasecampReady s) fun t => t.mem = s.mem := by
  unfold execBasecampReady
  split <;> simp

theorem execRangerRestart_wf (_cause : RestartCause) (s : State) (hinv : s.mem.wf = true) :
    Answers (execRangerRestart _cause s) fun t => t.mem.wf = true := by
  unfold execRangerRestart
  dsimp only
  (repeat' split) <;> simp [moduleFatal_wf, degrade_wf, hinv]

theorem execRangerRestartDone_mem (s : State) : Answers (execRangerRestartDone s) fun t => t.mem = s.mem := by
  unfold execRangerRestartDone
  simp

theorem execBasecampHeartbeatMiss_wf (s : State) (hinv : s.mem.wf = true) :
    Answers (execBasecampHeartbeatMiss s) fun t => t.mem.wf = true := by
  unfold execBasecampHeartbeatMiss
  dsimp only
  (repeat' split) <;> simp [haltPack_wf, hinv]

@[simp] theorem State.attest_mem (s : State) (challenge : List Byte) : (s.attest challenge).mem = s.mem := by
  unfold attest
  simp

@[simp] theorem State.stageTraining_mem (s : State) (arg : Byte) : (s.stageTraining arg).mem = s.mem := rfl

@[simp] theorem State.selfCalValues_mem (s : State) (arg : Byte) (h : Holdup) : (s.selfCalValues arg h).mem = s.mem := by
  unfold selfCalValues
  simp

theorem execSelfCalDone_mem (h : Holdup) (s : State) : Answers (execSelfCalDone h s) fun t => t.mem = s.mem := by
  unfold execSelfCalDone
  split <;> simp

theorem execArrayDiagDone_mem (fails : List (Nat × Nat)) (s : State) :
    Answers (execArrayDiagDone fails s) fun t => t.mem = s.mem := by
  unfold execArrayDiagDone
  (repeat' split) <;> simp

@[simp] theorem State.readOp_mem (s : State) (x : Op) : (s.readOp x).s.mem = s.mem := by
  unfold readOp
  (repeat' split) <;> simp

@[simp] theorem State.storing_mem (s : State) (h : Holdup) (need : Nat) (j : StoreJob) :
    (s.storing h need j).s.mem = s.mem := by
  have hold := holdCheck_mem s h need
  unfold storing
  split <;> next heq => rw [heq] at hold; exact hold

theorem State.imageWrite_wf (s : State) (x : Op) (hinv : s.mem.wf = true) : (s.imageWrite x).s.mem.wf = true := by
  unfold imageWrite
  have h := s.imageSegment_wf x.o.offset.toNat x.o.data hinv
  dsimp only
  (repeat' split) <;> simp [Ans.of, hinv, h]

theorem State.putWrite_wf (s : State) (x : Op) (e : DEntry) (h : Holdup) (hinv : s.mem.wf = true) :
    (s.putWrite x e h).s.mem.wf = true := by
  unfold putWrite
  dsimp only
  (repeat' split) <;> simp [applyWrite_wf, hinv]

@[simp] theorem State.failHeld_mem (s : State) (x : Op) (code : W16) : (s.failHeld x code).mem = s.mem := by
  unfold failHeld
  (repeat' split) <;> simp

@[simp] theorem State.holdWrite_mem (s : State) (x : Op) : (s.holdWrite x).s.mem = s.mem := by
  unfold holdWrite
  dsimp only
  (repeat' split) <;> simp

theorem State.commit_wf (s : State) (k : Session) (b : BWrite) (h : Holdup) (hinv : s.mem.wf = true) :
    (s.commit k b h).s.mem.wf = true := by
  unfold commit
  dsimp only
  split
  · simpa using hinv
  split
  · simpa using hinv
  split
  · have hh : (s.holdCheck h needParam).1.mem.wf = true := by rw [holdCheck_mem]; exact hinv
    split
    · next hc => rw [hc] at hh; simpa using hh
    · next hc => rw [hc] at hh; simpa using hh
  · exact foldl_wf (fun s m h => s.applyWrite_wf _ _ h) _ (by simpa using hinv)

theorem State.bundleCommand_wf (s : State) (x : Op) (h : Holdup) (hinv : s.mem.wf = true) :
    (s.bundleCommand x h).s.mem.wf = true := by
  unfold bundleCommand
  (repeat' split) <;> simp [commit_wf, hinv]

@[simp] theorem State.defaultsCommand_mem (s : State) (h : Holdup) : (s.defaultsCommand h).s.mem = s.mem := by
  unfold defaultsCommand
  split <;> simp

theorem State.fabricResetCommand_wf (s : State) (hinv : s.mem.wf = true) : (s.fabricResetCommand).s.mem.wf = true := by
  unfold fabricResetCommand
  (repeat' split) <;> simp [beginFabricReset_wf, hinv]

@[simp] theorem State.installCommand_mem (s : State) : (s.installCommand).s.mem = s.mem := by
  unfold installCommand
  split <;> simp

theorem State.startCommand_wf (s : State) (h : Holdup) (hinv : s.mem.wf = true) : (s.startCommand h).s.mem.wf = true := by
  unfold startCommand
  (repeat' split) <;> simp [startPack_wf, hinv]

theorem State.haltCommand_wf (s : State) (hinv : s.mem.wf = true) : (s.haltCommand).s.mem.wf = true := by
  unfold haltCommand
  split <;> simp [haltPack_wf, hinv]

@[simp] theorem State.diagCommand_mem (s : State) (c : Nat) : (s.diagCommand c).s.mem = s.mem := by
  unfold diagCommand
  (repeat' split) <;> simp

@[simp] theorem State.calStoreCommand_mem (s : State) (arg : Byte) (h : Holdup) : (s.calStoreCommand arg h).s.mem = s.mem := by
  unfold calStoreCommand
  split
  · rfl
  split
  · rfl
  · dsimp only
    split <;> simp

@[simp] theorem State.selfCalCommand_mem (s : State) (arg : Byte) : (s.selfCalCommand arg).s.mem = s.mem := by
  unfold selfCalCommand
  (repeat' split) <;> simp

theorem State.commandOp_wf (s : State) (x : Op) (h : Holdup) (hinv : s.mem.wf = true) : (s.commandOp x h).s.mem.wf = true := by
  unfold commandOp
  split
  · simpa using hinv
  · exact s.fabricResetCommand_wf hinv
  · simpa [Ans.of] using hinv
  · simpa using hinv
  · exact s.startCommand_wf _ hinv
  · exact s.haltCommand_wf hinv
  · simpa [Ans.of] using hinv
  · simpa using hinv
  · simpa using hinv
  · simpa using hinv
  · exact s.bundleCommand_wf _ _ hinv

theorem State.doOp_wf (s : State) (x : Op) (e : DEntry) (h : Holdup) (hinv : s.mem.wf = true) :
    (s.doOp x e h).s.mem.wf = true := by
  unfold doOp
  (repeat' split) <;> simp [putWrite_wf, imageWrite_wf, commandOp_wf, hinv]

@[simp] theorem State.refuseOp_mem (s : State) (x : Op) (e : DEntry) (code : W16) : (s.refuseOp x e code).s.mem = s.mem := by
  unfold refuseOp
  split <;> simp

theorem State.runOp_wf (s : State) (x : Op) (h : Holdup) (hinv : s.mem.wf = true) :
    ∀ t, s.runOp x h = some t → t.s.mem.wf = true := by
  intro t ht
  unfold runOp at ht
  split at ht
  · split at ht
    · cases ht
      simpa using hinv
    · cases ht
      exact hinv
  · split at ht
    · split at ht
      · cases ht
      · cases ht
        exact hinv
    · split at ht
      · cases ht
        exact hinv
      · split at ht
        · cases ht
          simpa using hinv
        · cases ht
          exact doOp_wf _ _ _ _ hinv

@[simp] theorem State.authFailed_mem (s : State) : (s.authFailed).mem = s.mem := rfl

@[simp] theorem State.accept_mem (s : State) (m : Msg) (svc : Bool) : (s.accept m svc).1.mem = s.mem := by
  unfold accept
  dsimp only
  (repeat' split) <;> simp

@[simp] theorem State.useAddrs_mem (s : State) : (s.useAddrs).mem = s.mem := rfl

@[simp] theorem State.closeAll_mem (s : State) : (s.closeAll).mem = s.mem := by
  unfold closeAll
  dsimp only
  (repeat' split) <;> simp

@[simp] theorem State.respond_mem (s : State) (c : Cur) (results : List Byte) : (s.respond c results).mem = s.mem := by
  unfold respond
  dsimp only
  (repeat' split) <;> simp

theorem State.runOps_wf (h : Holdup) (c : Cur) (x2 : List Op) (x3 : List Byte) (x4 : State) (hinv : x4.mem.wf = true) :
    ∀ t, State.runOps h c x2 x3 x4 = some t → t.mem.wf = true := by
  induction x2 generalizing x3 x4 with
  | nil =>
    rintro t ⟨⟩
    simpa using hinv
  | cons x ops ih =>
    intro t ht
    unfold runOps at ht
    split at ht
    · cases ht
    · next a ha =>
      have hw := x4.runOp_wf x h hinv a ha
      dsimp only at ht
      split at ht
      · cases ht
        simpa using hinv
      · split at ht
        · exact ih _ _ hw _ ht
        · cases ht
          simpa using hw

theorem State.request_wf (s : State) (peer : Peer) (sid mseq : W32) (enc : Bool) (body : List Byte) (h : Holdup) (hinv : s.mem.wf = true) :
    ∀ t, s.request peer sid mseq enc body h = some t → t.mem.wf = true := by
  intro t ht
  unfold request at ht
  split at ht
  · exact runOps_wf _ _ _ _ _ hinv _ ht
  · cases ht
    exact hinv

@[simp] theorem State.openFail_mem (s : State) (peer : Peer) (mseq : W32) (status : W16) (retry : Nat) :
    (s.openFail peer mseq status retry).mem = s.mem := by
  unfold openFail
  simp

@[simp] theorem State.openSession_mem (s : State) (peer : Peer) (m : Msg) : (s.openSession peer m).mem = s.mem := by
  unfold openSession
  dsimp only
  (repeat' split) <;> simp

@[simp] theorem State.closeSession_mem (s : State) (sid : W32) : (s.closeSession sid).mem = s.mem := rfl

@[simp] theorem State.confirmSession_mem (s : State) (peer : Peer) (m : Msg) : (s.confirmSession peer m).mem = s.mem := by
  unfold confirmSession
  (repeat' split) <;> simp

theorem State.handleMsg_wf (s : State) (peer : Peer) (m : Msg) (h : Holdup) (hinv : s.mem.wf = true) :
    ∀ t, s.handleMsg peer m h = some t → t.mem.wf = true := by
  intro t ht
  have ha : (s.accept m false).1.mem.wf = true := by rw [accept_mem]; exact hinv
  unfold handleMsg at ht
  split at ht
  · cases ht
    exact wf_ite (by simpa using hinv) hinv
  split at ht
  · cases ht
    simpa using hinv
  split at ht
  · split at ht
    · exact request_wf _ _ _ _ _ _ _ hinv _ ht
    · split at ht
      · next hx => exact request_wf _ _ _ _ _ _ _ (by rw [hx] at ha; exact ha) _ ht
      · next hx =>
        cases ht
        rw [hx] at ha; simpa using ha
  split at ht
  · split at ht
    · next hx =>
      cases ht
      rw [hx] at ha; simpa using ha
    · next hx =>
      cases ht
      rw [hx] at ha; simpa using ha
  · cases ht
    exact hinv

theorem State.handleOp_wf (s : State) (x : Op) (h : Holdup) (hinv : s.mem.wf = true) :
    ∀ t, s.handleOp x h = some t → t.mem.wf = true := by
  intro t ht
  unfold handleOp at ht
  dsimp only at ht
  have run : ∀ s : State, s.mem.wf = true → (match s.runOp x h with
      | none => none
      | some a =>
        match a.job with
        | some j => some (a.s.beginStore j (.single x))
        | none =>
          some (if 1400 < (resultBytes a.status a.retry a.data).length then a.s
            else (a.s.emit (.result x.o a.status (BitVec.ofNat 16 a.retry) a.data)).closeAll)) = some t → t.mem.wf = true := by
    intro s hinv ht
    split at ht
    · cases ht
    · next a ha =>
      have hw := s.runOp_wf x h hinv a ha
      split at ht
      · cases ht
        simpa using hw
      · cases ht
        exact wf_ite hw (by simpa using hw)
  split at ht
  · exact run _ hinv ht
  split at ht
  · split at ht
    · exact run _ (by simpa using hinv) ht
    · cases ht
      exact hinv
  · cases ht
    exact hinv

@[simp] theorem State.enqueue_mem (s : State) (r : Rx) : (s.enqueue r).mem = s.mem := by
  unfold enqueue
  split <;> simp

theorem State.handleRx_wf (s : State) (h : Holdup) (x2 : Rx) (hinv : s.mem.wf = true) :
    ∀ t, s.handleRx h x2 = some t → t.mem.wf = true := by
  intro t ht
  unfold handleRx at ht
  split at ht
  · split at ht
    · exact s.handleMsg_wf _ _ _ hinv _ ht
    · cases ht
      exact hinv
  · exact s.handleOp_wf _ _ hinv _ ht

theorem State.drainRx_wf (h : Holdup) (x1 : Nat) (x2 : State) (hinv : x2.mem.wf = true) :
    ∀ t, State.drainRx h x1 x2 = some t → t.mem.wf = true := by
  induction x1 generalizing x2 with
  | zero =>
    rintro t ⟨⟩
    exact hinv
  | succ n ih =>
    intro t ht
    unfold drainRx at ht
    split at ht
    · cases ht
      exact hinv
    split at ht
    · cases ht
      exact hinv
    split at ht
    · cases ht
    · next hx => exact ih _ (handleRx_wf _ _ _ (by exact hinv) _ hx) _ ht

theorem State.receive_wf (s : State) (typ : Byte) (peer : Peer) (bytes : List Byte) (h : Holdup) (hinv : s.mem.wf = true) :
    Answers (s.receive typ peer bytes h) fun t => t.mem.wf = true := by
  unfold receive
  split
  · simpa using hinv
  split
  · simpa using hinv
  split
  · simpa using hinv
  split
  · simpa using hinv
  · exact answers_outcome (s.handleMsg_wf _ _ _ hinv)

theorem State.single_wf (s : State) (x : Op) (h : Holdup) (hinv : s.mem.wf = true) :
    Answers (s.single x h) fun t => t.mem.wf = true := by
  unfold single
  split
  · simpa using hinv
  split
  · simpa using hinv
  · exact answers_outcome (s.handleOp_wf _ _ hinv)

theorem State.answerWaiter_wf (s : State) (h : Holdup) (who : StoreFor) (data : List Byte) (hinv : s.mem.wf = true) :
    ∀ t, s.answerWaiter h who data = some t → t.mem.wf = true := by
  intro t ht
  unfold answerWaiter at ht
  dsimp only at ht
  split at ht
  · cases ht
  · next hr =>
    refine drainRx_wf _ _ _ ?_ _ ht
    split at hr
    · cases hr
      exact hinv
    · cases hr
      simpa using hinv
    · split at hr
      · split at hr
        · cases hr
          simpa using hinv
        · exact runOps_wf _ _ _ _ _ hinv _ hr
      · cases hr
        exact hinv

theorem State.finishCoreRead_wf (s : State) (h : Holdup) (c : CoreId) (left : List Nat) (got : List Byte) (n : Nat) (seg : Option Nat) (who : StoreFor) (hinv : s.mem.wf = true) :
    ∀ t, s.finishCoreRead h c left got n seg who = some t → t.mem.wf = true := by
  intro t ht
  unfold finishCoreRead at ht
  split at ht
  · cases ht
    exact hinv
  split at ht
  · cases ht
    exact hinv
  dsimp only at ht
  split at ht
  · cases ht
    simpa using hinv
  · exact answerWaiter_wf _ _ _ _ (by exact hinv) _ ht

theorem State.finishStore_wf (s : State) (h : Holdup) (hinv : s.mem.wf = true) :
    ∀ t, s.finishStore h = some t → t.mem.wf = true := by
  intro t ht
  unfold finishStore at ht
  split at ht
  · cases ht
    exact hinv
  · exact s.finishCoreRead_wf _ _ _ _ _ _ _ hinv _ ht
  · exact answerWaiter_wf _ _ _ _ (completeJob_wf _ _ (by exact hinv)) _ ht

theorem execParameterStoreDone_wf (h : Holdup) (s : State) (hinv : s.mem.wf = true) :
    Answers (execParameterStoreDone h s) fun t => t.mem.wf = true := by
  unfold execParameterStoreDone
  exact answers_outcome (s.finishStore_wf _ hinv)

theorem execRequest_wf (peer : Peer) (bytes : List Byte) (h : Holdup) (s : State) (hinv : s.mem.wf = true) :
    Answers (execRequest peer bytes h s) fun t => t.mem.wf = true := by
  unfold execRequest
  simp [receive_wf, hinv]

theorem execOpenSession_wf (peer : Peer) (bytes : List Byte) (s : State) (hinv : s.mem.wf = true) :
    Answers (execOpenSession peer bytes s) fun t => t.mem.wf = true := by
  unfold execOpenSession
  simp [receive_wf, hinv]

theorem execConfirm_wf (peer : Peer) (bytes : List Byte) (s : State) (hinv : s.mem.wf = true) :
    Answers (execConfirm peer bytes s) fun t => t.mem.wf = true := by
  unfold execConfirm
  simp [receive_wf, hinv]

theorem execClose_wf (peer : Peer) (bytes : List Byte) (s : State) (hinv : s.mem.wf = true) :
    Answers (execClose peer bytes s) fun t => t.mem.wf = true := by
  unfold execClose
  simp [receive_wf, hinv]

theorem execSessionIdleTimeout_mem (sid : W32) (s : State) :
    Answers (execSessionIdleTimeout sid s) fun t => t.mem = s.mem := by
  unfold execSessionIdleTimeout
  (repeat' split) <;> simp

theorem execRead_wf (index : W16) (o : OpReq) (s : State) (hinv : s.mem.wf = true) :
    Answers (execRead index o s) fun t => t.mem.wf = true := by
  unfold execRead
  simp [single_wf, hinv]

theorem execSegmentRead_wf (index : W16) (o : OpReq) (s : State) (hinv : s.mem.wf = true) :
    Answers (execSegmentRead index o s) fun t => t.mem.wf = true := by
  unfold execSegmentRead
  simp [single_wf, hinv]

theorem execRegisterWrite_wf (index : W16) (o : OpReq) (h : Holdup) (s : State) (hinv : s.mem.wf = true) :
    Answers (execRegisterWrite index o h s) fun t => t.mem.wf = true := by
  unfold execRegisterWrite
  simp [single_wf, hinv]

theorem execPackImage_wf (o : OpReq) (s : State) (hinv : s.mem.wf = true) :
    Answers (execPackImage o s) fun t => t.mem.wf = true := by
  unfold execPackImage
  simp [single_wf, hinv]

theorem execFwImage_wf (o : OpReq) (s : State) (hinv : s.mem.wf = true) :
    Answers (execFwImage o s) fun t => t.mem.wf = true := by
  unfold execFwImage
  simp [single_wf, hinv]

theorem execWimgManifest_wf (o : OpReq) (s : State) (hinv : s.mem.wf = true) :
    Answers (execWimgManifest o s) fun t => t.mem.wf = true := by
  unfold execWimgManifest
  simp [single_wf, hinv]

theorem execWimgData_wf (o : OpReq) (s : State) (hinv : s.mem.wf = true) :
    Answers (execWimgData o s) fun t => t.mem.wf = true := by
  unfold execWimgData
  simp [single_wf, hinv]

theorem execPackInstall_wf (o : OpReq) (s : State) (hinv : s.mem.wf = true) :
    Answers (execPackInstall o s) fun t => t.mem.wf = true := by
  unfold execPackInstall
  simp [single_wf, hinv]

theorem execPackStart_wf (o : OpReq) (h : Holdup) (s : State) (hinv : s.mem.wf = true) :
    Answers (execPackStart o h s) fun t => t.mem.wf = true := by
  unfold execPackStart
  simp [single_wf, hinv]

theorem execPackHalt_wf (o : OpReq) (s : State) (hinv : s.mem.wf = true) :
    Answers (execPackHalt o s) fun t => t.mem.wf = true := by
  unfold execPackHalt
  simp [single_wf, hinv]

theorem execFabricReset_wf (o : OpReq) (s : State) (hinv : s.mem.wf = true) :
    Answers (execFabricReset o s) fun t => t.mem.wf = true := by
  unfold execFabricReset
  simp [single_wf, hinv]

theorem execParamDefaults_wf (o : OpReq) (h : Holdup) (s : State) (hinv : s.mem.wf = true) :
    Answers (execParamDefaults o h s) fun t => t.mem.wf = true := by
  unfold execParamDefaults
  simp [single_wf, hinv]

theorem execFwInstall_wf (o : OpReq) (h : Holdup) (s : State) (hinv : s.mem.wf = true) :
    Answers (execFwInstall o h s) fun t => t.mem.wf = true := by
  unfold execFwInstall
  simp [single_wf, hinv]

theorem execWimgLoad_wf (o : OpReq) (s : State) (hinv : s.mem.wf = true) :
    Answers (execWimgLoad o s) fun t => t.mem.wf = true := by
  unfold execWimgLoad
  simp [single_wf, hinv]

theorem execCalStore_wf (o : OpReq) (h : Holdup) (s : State) (hinv : s.mem.wf = true) :
    Answers (execCalStore o h s) fun t => t.mem.wf = true := by
  unfold execCalStore
  simp [single_wf, hinv]

theorem execSelfCal_wf (o : OpReq) (s : State) (hinv : s.mem.wf = true) :
    Answers (execSelfCal o s) fun t => t.mem.wf = true := by
  unfold execSelfCal
  simp [single_wf, hinv]

theorem execArrayDiag_wf (o : OpReq) (s : State) (hinv : s.mem.wf = true) :
    Answers (execArrayDiag o s) fun t => t.mem.wf = true := by
  unfold execArrayDiag
  simp [single_wf, hinv]

theorem execBwOpen_wf (o : OpReq) (s : State) (hinv : s.mem.wf = true) :
    Answers (execBwOpen o s) fun t => t.mem.wf = true := by
  unfold execBwOpen
  simp [single_wf, hinv]

theorem execBwCommit_wf (o : OpReq) (h : Holdup) (s : State) (hinv : s.mem.wf = true) :
    Answers (execBwCommit o h s) fun t => t.mem.wf = true := by
  unfold execBwCommit
  simp [single_wf, hinv]

theorem execBwAbort_wf (o : OpReq) (s : State) (hinv : s.mem.wf = true) :
    Answers (execBwAbort o s) fun t => t.mem.wf = true := by
  unfold execBwAbort
  simp [single_wf, hinv]

theorem execAttestChallenge_wf (o : OpReq) (s : State) (hinv : s.mem.wf = true) :
    Answers (execAttestChallenge o s) fun t => t.mem.wf = true := by
  unfold execAttestChallenge
  simp [single_wf, hinv]

theorem execOwnerEnrol_wf (o : OpReq) (h : Holdup) (s : State) (hinv : s.mem.wf = true) :
    Answers (execOwnerEnrol o h s) fun t => t.mem.wf = true := by
  unfold execOwnerEnrol
  simp [single_wf, hinv]

theorem execLogFetch_wf (o : OpReq) (s : State) (hinv : s.mem.wf = true) :
    Answers (execLogFetch o s) fun t => t.mem.wf = true := by
  unfold execLogFetch
  simp [single_wf, hinv]

theorem execStepTarget_wf (o : OpReq) (h : Holdup) (s : State) (hinv : s.mem.wf = true) :
    Answers (execStepTarget o h s) fun t => t.mem.wf = true := by
  unfold execStepTarget
  simp [single_wf, hinv]

theorem execPowerCap_wf (o : OpReq) (h : Holdup) (s : State) (hinv : s.mem.wf = true) :
    Answers (execPowerCap o h s) fun t => t.mem.wf = true := by
  unfold execPowerCap
  simp [single_wf, hinv]

theorem execRegulatorSplit_wf (o : OpReq) (s : State) (hinv : s.mem.wf = true) :
    Answers (execRegulatorSplit o s) fun t => t.mem.wf = true := by
  unfold execRegulatorSplit
  simp [single_wf, hinv]

theorem execSlicePartition_wf (o : OpReq) (s : State) (hinv : s.mem.wf = true) :
    Answers (execSlicePartition o s) fun t => t.mem.wf = true := by
  unfold execSlicePartition
  simp [single_wf, hinv]

theorem execDomainRequest_wf (o : OpReq) (s : State) (hinv : s.mem.wf = true) :
    Answers (execDomainRequest o s) fun t => t.mem.wf = true := by
  unfold execDomainRequest
  simp [single_wf, hinv]

theorem execLogbookMode_wf (o : OpReq) (h : Holdup) (s : State) (hinv : s.mem.wf = true) :
    Answers (execLogbookMode o h s) fun t => t.mem.wf = true := by
  unfold execLogbookMode
  simp [single_wf, hinv]

theorem execValveOwner_wf (o : OpReq) (h : Holdup) (s : State) (hinv : s.mem.wf = true) :
    Answers (execValveOwner o h s) fun t => t.mem.wf = true := by
  unfold execValveOwner
  simp [single_wf, hinv]

theorem execMaintenance_wf (o : OpReq) (s : State) (hinv : s.mem.wf = true) :
    Answers (execMaintenance o s) fun t => t.mem.wf = true := by
  unfold execMaintenance
  simp [single_wf, hinv]

theorem execArrayRepairMap_wf (o : OpReq) (h : Holdup) (s : State) (hinv : s.mem.wf = true) :
    Answers (execArrayRepairMap o h s) fun t => t.mem.wf = true := by
  unfold execArrayRepairMap
  simp [single_wf, hinv]

theorem execCoreRepairMap_wf (o : OpReq) (h : Holdup) (s : State) (hinv : s.mem.wf = true) :
    Answers (execCoreRepairMap o h s) fun t => t.mem.wf = true := by
  unfold execCoreRepairMap
  simp [single_wf, hinv]

theorem execGlRouteTable_wf (o : OpReq) (h : Holdup) (s : State) (hinv : s.mem.wf = true) :
    Answers (execGlRouteTable o h s) fun t => t.mem.wf = true := by
  unfold execGlRouteTable
  simp [single_wf, hinv]

theorem execScoutThreshold_wf (o : OpReq) (s : State) (hinv : s.mem.wf = true) :
    Answers (execScoutThreshold o s) fun t => t.mem.wf = true := by
  unfold execScoutThreshold
  simp [single_wf, hinv]

theorem execScoutDisable_wf (o : OpReq) (s : State) (hinv : s.mem.wf = true) :
    Answers (execScoutDisable o s) fun t => t.mem.wf = true := by
  unfold execScoutDisable
  simp [single_wf, hinv]

theorem execCoreCtrl_wf (o : OpReq) (s : State) (hinv : s.mem.wf = true) :
    Answers (execCoreCtrl o s) fun t => t.mem.wf = true := by
  unfold execCoreCtrl
  simp [single_wf, hinv]

theorem execCoreSelect_wf (o : OpReq) (s : State) (hinv : s.mem.wf = true) :
    Answers (execCoreSelect o s) fun t => t.mem.wf = true := by
  unfold execCoreSelect
  simp [single_wf, hinv]

theorem execModuleId_wf (o : OpReq) (h : Holdup) (s : State) (hinv : s.mem.wf = true) :
    Answers (execModuleId o h s) fun t => t.mem.wf = true := by
  unfold execModuleId
  simp [single_wf, hinv]

theorem execVendorConsent_wf (o : OpReq) (h : Holdup) (s : State) (hinv : s.mem.wf = true) :
    Answers (execVendorConsent o h s) fun t => t.mem.wf = true := by
  unfold execVendorConsent
  simp [single_wf, hinv]

theorem execCalibrationEntry_wf (index : W16) (o : OpReq) (s : State) (hinv : s.mem.wf = true) :
    Answers (execCalibrationEntry index o s) fun t => t.mem.wf = true := by
  unfold execCalibrationEntry
  split <;> simp [single_wf, hinv]

theorem State.updateBlock_wf (s : State) (w : FlashTry) (hinv : s.mem.wf = true) : (s.updateBlock w).mem.wf = true := by
  unfold updateBlock
  have hb : (s.fwBlock w.h).1.mem.wf = true := by rw [fwBlock_mem]; exact hinv
  split
  · next hx => exact moduleReset_wf _ _ (by (rw [hx] at hb; simpa using hb))
  · next hx => (rw [hx] at hb; simpa using hb)

theorem execFwBlockWrite_wf (w : FlashTry) (s : State) (hinv : s.mem.wf = true) :
    Answers (execFwBlockWrite w s) fun t => t.mem.wf = true := by
  unfold execFwBlockWrite
  split <;> simp [updateBlock_wf, hinv]

theorem execFwBlockRetry_wf (w : FlashTry) (s : State) (hinv : s.mem.wf = true) :
    Answers (execFwBlockRetry w s) fun t => t.mem.wf = true := by
  unfold execFwBlockRetry
  split <;> simp [updateBlock_wf, hinv]

@[simp] theorem State.recoverySay_mem (s : State) (peer : Peer) (status : W16) (retry : Nat) :
    (s.recoverySay peer status retry).mem = s.mem := by
  unfold recoverySay
  simp

@[simp] theorem State.recoveryAnew_mem (s : State) : (s.recoveryAnew).mem = s.mem := rfl

theorem State.recoveryEnd_wf (s : State) (peer : Peer) (straps : Straps) (hinv : s.mem.wf = true) :
    (s.recoveryEnd peer straps).mem.wf = true := by
  unfold recoveryEnd
  dsimp only
  (repeat' split) <;> simp [moduleReset_wf, hinv]

theorem State.recoveryBlock_wf (s : State) (peer : Peer) (w : FlashTry) (hinv : s.mem.wf = true) :
    (s.recoveryBlock peer w).mem.wf = true := by
  unfold recoveryBlock
  have hb : (s.holdCheck w.h needBlock).1.mem.wf = true := by rw [holdCheck_mem]; exact hinv
  dsimp only
  split
  · split
    · simpa using hinv
    split
    · split
      · next hx => (rw [hx] at hb; simpa using hb)
      · next hx => exact recoveryEnd_wf _ _ _ (by (rw [hx] at hb; simpa using hb))
    · simpa using hinv
  · split
    · next hx => (rw [hx] at hb; simpa using hb)
    · next hx => exact wf_ite (by (rw [hx] at hb; simpa using hb)) (recoveryEnd_wf _ _ _ (by (rw [hx] at hb; simpa using hb)))

theorem execRecoveryData_wf (peer : Peer) (bytes : List Byte) (w : FlashTry) (s : State) (hinv : s.mem.wf = true) :
    Answers (execRecoveryData peer bytes w s) fun t => t.mem.wf = true := by
  unfold execRecoveryData
  dsimp only
  (repeat' split) <;> simp [recoveryBlock_wf, hinv]

theorem execRecoveryQuery_mem (peer : Peer) (bytes : List Byte) (s : State) :
    Answers (execRecoveryQuery peer bytes s) fun t => t.mem = s.mem := by
  unfold execRecoveryQuery
  split <;> simp

theorem execPortStart_mem (p : Port) (s : State) : Answers (execPortStart p s) fun t => t.mem = s.mem := by
  unfold execPortStart
  dsimp only
  (repeat' split) <;> simp

theorem execPortTrainingDone_mem (p : Port) (locked : Bool) (found : LinkFound) (s : State) :
    Answers (execPortTrainingDone p locked found s) fun t => t.mem = s.mem := by
  unfold execPortTrainingDone
  dsimp only
  (repeat' split) <;> simp

theorem execPortTrainRetry_mem (p : Port) (s : State) : Answers (execPortTrainRetry p s) fun t => t.mem = s.mem := by
  unfold execPortTrainRetry
  dsimp only
  (repeat' split) <;> simp

theorem execPortFail_mem (p : Port) (lostLock : Bool) (s : State) :
    Answers (execPortFail p lostLock s) fun t => t.mem = s.mem := by
  unfold execPortFail
  dsimp only
  (repeat' split) <;> simp

@[simp] theorem State.sendBlock_mem (s : State) (p : Port) (moves : Bool) (b : PBlock) :
    (s.sendBlock p moves b).mem = s.mem := by
  unfold sendBlock
  simp

@[simp] theorem State.flitPosition_mem (s : State) (p : Port) (dpk : Bool) : (s.flitPosition p dpk).mem = s.mem := by
  unfold flitPosition
  dsimp only
  (repeat' split) <;> simp

@[simp] theorem State.ctlPosition_mem (s : State) (p : Port) : (s.ctlPosition p).mem = s.mem := by
  unfold ctlPosition
  dsimp only
  (repeat' split) <;> simp

theorem execFlitTransmit_mem (p : Port) (s : State) : Answers (execFlitTransmit p s) fun t => t.mem = s.mem := by
  unfold execFlitTransmit
  dsimp only
  (repeat' split) <;> simp

@[simp] theorem State.discardFlit_mem (s : State) (n : Nat) (off : Option Nat) : (s.discardFlit n off).mem = s.mem := by
  unfold discardFlit
  dsimp only
  (repeat' split) <;> simp

theorem execFlitReceive_mem (p : Port) (codewordOk : Bool) (fixed : Nat) (header : BitVec 256) (blocks : List PBlock) (s : State) :
    Answers (execFlitReceive p codewordOk fixed header blocks s) fun t => t.mem = s.mem := by
  unfold execFlitReceive
  dsimp only
  (repeat' split) <;> simp

theorem execAck_mem (p : Port) (payload : BitVec 256) (s : State) : Answers (execAck p payload s) fun t => t.mem = s.mem := by
  unfold execAck
  dsimp only
  (repeat' split) <;> simp

theorem execNak_mem (p : Port) (payload : BitVec 256) (s : State) : Answers (execNak p payload s) fun t => t.mem = s.mem := by
  unfold execNak
  dsimp only
  (repeat' split) <;> simp

theorem execFlitEdgeDeliver_mem (p : Port) (past : Nat) (s : State) :
    Answers (execFlitEdgeDeliver p past s) fun t => t.mem = s.mem := by
  unfold execFlitEdgeDeliver
  dsimp only
  (repeat' split) <;> simp

@[simp] theorem State.remoteRead_mem (s : State) (port : Nat) (h : FHead) (i : Nat) : (s.remoteRead port h i).mem = s.mem := by
  unfold remoteRead
  dsimp only
  (repeat' split) <;> simp

theorem execReadReq_mem (p : Port) (s : State) : Answers (execReadReq p s) fun t => t.mem = s.mem := by
  unfold execReadReq
  split
  · simp
  next heq =>
    have htake := takeFlit_mem _ _ _ _ heq
    rw [answers_next, foldl_mem (by simp)]
    exact htake

theorem execReadData_mem (p : Port) (s : State) : Answers (execReadData p s) fun t => t.mem = s.mem := by
  unfold execReadData
  split
  · simp
  next heq =>
    have htake := takeFlit_mem _ _ _ _ heq
    rw [answers_next, foldl_mem (fun s x => by split <;> simp)]
    exact htake

theorem State.remoteWrite_wf (s : State) (port id : Nat) (h : FHead) (i a : Nat) (q : Parcel) (hinv : s.mem.wf = true) :
    (s.remoteWrite port id h i a q).mem.wf = true := by
  unfold remoteWrite
  (repeat' split) <;> simp [writeIn_wf, hinv]

theorem execWrite_wf (p : Port) (s : State) (hinv : s.mem.wf = true) : Answers (execWrite p s) fun t => t.mem.wf = true := by
  unfold execWrite
  split
  · simpa using hinv
  · next hx =>
    have ht := s.takeFlit_mem _ _ _ hx
    dsimp only at ht
    refine answers_ite (answers_next.mpr hinv) (answers_ite (answers_next.mpr ?_) (answers_next.mpr ?_))
    · simpa [ht] using hinv
    · exact foldl_wf (fun s x h => s.remoteWrite_wf _ _ _ _ _ _ h) _ (by simpa [ht] using hinv)

theorem execWriteDone_mem (p : Port) (s : State) : Answers (execWriteDone p s) fun t => t.mem = s.mem := by
  unfold execWriteDone
  split
  · simp
  next heq =>
    have htake := takeFlit_mem _ _ _ _ heq
    dsimp only
    split
    · split <;> simpa using htake
    · simpa using htake

theorem execNode_mem (n : NodeIn) (s : State) : Answers (execNode n s) fun t => t.mem = s.mem := by
  unfold execNode
  split
  · simp
  next heq =>
    have htake := takeFlit_mem _ _ _ _ heq
    dsimp only
    split
    · simpa using htake
    · rw [answers_next]
      split <;> simpa using htake

theorem execSymbolResend_mem (p : Port) (s : State) : Answers (execSymbolResend p s) fun t => t.mem = s.mem := by
  unfold execSymbolResend
  dsimp only
  (repeat' split) <;> simp

theorem execArrive_mem (p : Port) (payload : BitVec 256) (s : State) :
    Answers (execArrive p payload s) fun t => t.mem = s.mem := by
  unfold execArrive
  dsimp only
  (repeat' split) <;> simp

theorem execRelease_mem (p : Port) (payload : BitVec 256) (s : State) :
    Answers (execRelease p payload s) fun t => t.mem = s.mem := by
  unfold execRelease
  dsimp only
  (repeat' split) <;> simp

theorem execReady_mem (p : Port) (payload : BitVec 256) (s : State) :
    Answers (execReady p payload s) fun t => t.mem = s.mem := by
  unfold execReady
  dsimp only
  (repeat' split) <;> simp

theorem execStart_mem (p : Port) (payload : BitVec 256) (s : State) :
    Answers (execStart p payload s) fun t => t.mem = s.mem := by
  unfold execStart
  dsimp only
  (repeat' split) <;> simp

theorem execStartRelease_mem (s : State) : Answers (execStartRelease s) fun t => t.mem = s.mem := by
  unfold execStartRelease
  (repeat' split) <;> simp

theorem execTimeSend_mem (p : Port) (frac : BitVec 6) (s : State) :
    Answers (execTimeSend p frac s) fun t => t.mem = s.mem := by
  unfold execTimeSend
  dsimp only
  (repeat' split) <;> simp

theorem execTime_mem (p : Port) (payload : BitVec 256) (t4 : W64) (t4frac : BitVec 6) (s : State) :
    Answers (execTime p payload t4 t4frac s) fun t => t.mem = s.mem := by
  unfold execTime
  dsimp only
  (repeat' split) <;> simp

theorem execSyncLock_mem (s : State) : Answers (execSyncLock s) fun t => t.mem = s.mem := by
  unfold execSyncLock
  split <;> simp

theorem execRateReq_mem (p : Port) (payload : BitVec 256) (s : State) :
    Answers (execRateReq p payload s) fun t => t.mem = s.mem := by
  unfold execRateReq
  dsimp only
  (repeat' split) <;> simp

theorem execRateSet_mem (p : Port) (payload : BitVec 256) (s : State) :
    Answers (execRateSet p payload s) fun t => t.mem = s.mem := by
  unfold execRateSet
  dsimp only
  (repeat' split) <;> simp

theorem execRateSetApply_mem (s : State) : Answers (execRateSetApply s) fun t => t.mem = s.mem := by
  unfold execRateSetApply
  (repeat' split) <;> simp

theorem execRefinLoss_mem (s : State) : Answers (execRefinLoss s) fun t => t.mem = s.mem := by
  unfold execRefinLoss
  split <;> simp

theorem execRefinReturn_mem (s : State) : Answers (execRefinReturn s) fun t => t.mem = s.mem := by
  unfold execRefinReturn
  simp

theorem execNop_mem (c : CoreId) (w : W64) (s : State) :
    Answers (execNop c w s) fun t => t.mem = s.mem := issue_mem _ _ _ _ (by split <;> simp)

theorem State.scalar_mem (s : State) (c : CoreId) (i : Instr) (rd : BitVec 4) (v : W64) :
    Answers (s.scalar c i rd v) fun t => t.mem = s.mem := issue_mem _ _ _ _ (by simp)

theorem execAdd_mem (c : CoreId) (f : Scalar) (s : State) : Answers (execAdd c f s) fun t => t.mem = s.mem := by
  unfold execAdd
  simp only [scalar_mem]

theorem execSub_mem (c : CoreId) (f : Scalar) (s : State) : Answers (execSub c f s) fun t => t.mem = s.mem := by
  unfold execSub
  simp only [scalar_mem]

theorem execMul_mem (c : CoreId) (f : Scalar) (s : State) : Answers (execMul c f s) fun t => t.mem = s.mem := by
  unfold execMul
  simp only [scalar_mem]

theorem execAnd_mem (c : CoreId) (f : Scalar) (s : State) : Answers (execAnd c f s) fun t => t.mem = s.mem := by
  unfold execAnd
  simp only [scalar_mem]

theorem execOr_mem (c : CoreId) (f : Scalar) (s : State) : Answers (execOr c f s) fun t => t.mem = s.mem := by
  unfold execOr
  simp only [scalar_mem]

theorem execShl_mem (c : CoreId) (f : Scalar) (s : State) : Answers (execShl c f s) fun t => t.mem = s.mem := by
  unfold execShl
  simp only [scalar_mem]

theorem execShr_mem (c : CoreId) (f : Scalar) (s : State) : Answers (execShr c f s) fun t => t.mem = s.mem := by
  unfold execShr
  simp only [scalar_mem]

theorem execLdi_mem (c : CoreId) (f : Scalar) (s : State) : Answers (execLdi c f s) fun t => t.mem = s.mem := by
  unfold execLdi
  simp only [scalar_mem]

theorem execLds_mem (c : CoreId) (f : Scalar) (s : State) : Answers (execLds c f s) fun t => t.mem = s.mem := by
  unfold execLds
  simp only [scalar_mem]

theorem execSts_wf (c : CoreId) (bm : Bool) (f : Scalar) (s : State) (hinv : s.mem.wf = true) :
    Answers (execSts c bm f s) fun t => t.mem.wf = true := by
  unfold execSts
  dsimp only
  refine s.issue_wf _ _ _ hinv (wf_ite (wf_ite (by simpa using hinv) (by simpa using hinv)) (s.storeLocal_wf _ _ _ hinv))

@[simp] theorem State.gatherReq_mem (s : State) (r : Req) (off : Nat) (frag : List Byte) :
    (s.gatherReq r off frag).mem = s.mem := by
  unfold gatherReq
  dsimp only
  split <;> rfl

@[simp] theorem State.submitHere_mem (s : State) (r : Req) (off : Nat) (frag : List Byte) :
    (s.submitHere r off frag).mem = s.mem := by
  unfold submitHere
  (repeat' split) <;> simp

@[simp] theorem State.submitForward_mem (s : State) (r : Req) (m : SubmitMsg) : (s.submitForward r m).mem = s.mem := by
  unfold submitForward
  dsimp only
  (repeat' split) <;> simp

@[simp] theorem State.serviceIn_mem (s : State) (peer : Peer) (m : Msg) : (s.serviceIn peer m).1.mem = s.mem := by
  have hacc := accept_mem s m true
  unfold serviceIn
  dsimp only
  split
  · split <;> next heq => rw [heq] at hacc; simpa using hacc
  · split
    · next heq => rw [heq] at hacc; exact hacc
    · next heq =>
      rw [heq] at hacc
      split
      · simpa using hacc
      split
      · simpa using hacc
      · exact hacc

theorem execSubmit_mem (peer : Peer) (bytes : List Byte) (s : State) :
    Answers (execSubmit peer bytes s) fun t => t.mem = s.mem := by
  unfold execSubmit
  split
  · simp
  next m _ =>
    have hin := serviceIn_mem s peer m
    split
    · next heq => rw [heq] at hin; simpa using hin
    · next heq =>
      rw [heq] at hin
      replace hin : State.mem _ = s.mem := hin
      split
      · simpa using hin
      · dsimp only
        rw [answers_next]
        split <;> simpa using hin

theorem execSubmitFragmentTimeout_mem (sid : W32) (reqId : W64) (s : State) :
    Answers (execSubmitFragmentTimeout sid reqId s) fun t => t.mem = s.mem := by
  unfold execSubmitFragmentTimeout
  simp

@[simp] theorem State.serviceBack_mem (s : State) (kind : Nat) (head frag : List Byte) :
    (s.serviceBack kind head frag).mem = s.mem := by
  unfold serviceBack
  dsimp only
  (repeat' split) <;> simp

theorem execService_mem (p : Port) (s : State) : Answers (execService p s) fun t => t.mem = s.mem := by
  unfold execService
  split
  · simp
  next heq =>
    have htake := takeFlit_mem _ _ _ _ heq
    dsimp only
    split
    · simpa using htake
    split
    · simpa using htake
    split <;> simpa using htake

theorem execAdmission_wf (ch : BitVec 4) (s : State) (hinv : s.mem.wf = true) :
    Answers (execAdmission ch s) fun t => t.mem.wf = true := by
  unfold execAdmission
  (repeat' split) <;> simp [beginAdmission_wf, sendHeader_wf, hinv]

theorem execEpochRollover_mem (h : Holdup) (s : State) : Answers (execEpochRollover h s) fun t => t.mem = s.mem := by
  unfold execEpochRollover
  split
  · have hold := holdCheck_mem (s.alert .epochWait) h needParam
    split <;> next heq => rw [heq] at hold; simpa using hold
  · simp

theorem execOutputHeaderPoll_mem (ch : BitVec 4) (s : State) : Answers (execOutputHeaderPoll ch s) fun t => t.mem = s.mem := by
  unfold execOutputHeaderPoll
  (repeat' split) <;> simp

theorem execRecordSign_mem (s : State) : Answers (execRecordSign s) fun t => t.mem = s.mem := by
  unfold execRecordSign
  split <;> simp

theorem execFetch_mem (peer : Peer) (bytes : List Byte) (s : State) :
    Answers (execFetch peer bytes s) fun t => t.mem = s.mem := by
  unfold execFetch
  split
  · simp
  next m _ =>
    have hin := serviceIn_mem s peer m
    split
    · next heq => rw [heq] at hin; simpa using hin
    · next heq =>
      rw [heq] at hin
      replace hin : State.mem _ = s.mem := hin
      split
      · simpa using hin
      · dsimp only
        split
        · simpa using hin
        · rw [answers_next]
          split <;> simpa using hin

theorem execFetchWindowExpiry_mem (sid : W32) (reqId : W64) (s : State) :
    Answers (execFetchWindowExpiry sid reqId s) fun t => t.mem = s.mem := by
  unfold execFetchWindowExpiry
  simp

@[simp] theorem State.tapLoad_mem (s : State) (i : Byte) : (s.tapLoad i).mem = s.mem := by
  unfold tapLoad
  split <;> simp

theorem execExtest_mem (s : State) : Answers (execExtest s) fun t => t.mem = s.mem := by
  unfold execExtest
  simp

theorem execIdcode_mem (s : State) : Answers (execIdcode s) fun t => t.mem = s.mem := by
  unfold execIdcode
  simp

theorem execSamplePreload_mem (cells : BitVec 22) (s : State) :
    Answers (execSamplePreload cells s) fun t => t.mem = s.mem := by
  unfold execSamplePreload
  split <;> simp

theorem execClamp_mem (s : State) : Answers (execClamp s) fun t => t.mem = s.mem := by
  unfold execClamp
  simp

theorem execTrace_mem (s : State) : Answers (execTrace s) fun t => t.mem = s.mem := by
  unfold execTrace
  simp

theorem execBypass_mem (s : State) : Answers (execBypass s) fun t => t.mem = s.mem := by
  unfold execBypass
  simp

theorem execTraceEnWrite_mem (v : Byte) (s : State) : Answers (execTraceEnWrite v s) fun t => t.mem = s.mem := by
  unfold execTraceEnWrite
  (repeat' split) <;> simp

theorem execTestLogicReset_mem (s : State) : Answers (execTestLogicReset s) fun t => t.mem = s.mem := by
  unfold execTestLogicReset
  simp

theorem execMgmtLinkUp_mem (cr : Bool) (s : State) : Answers (execMgmtLinkUp cr s) fun t => t.mem = s.mem := by
  unfold execMgmtLinkUp
  split <;> simp

theorem execMgmtLinkDown_mem (s : State) : Answers (execMgmtLinkDown s) fun t => t.mem = s.mem := by
  unfold execMgmtLinkDown
  simp

theorem execArpRequest_mem (peer : Peer) (target : W32) (s : State) :
    Answers (execArpRequest peer target s) fun t => t.mem = s.mem := by
  unfold execArpRequest
  split <;> simp

theorem execEchoRequest_mem (peer : Peer) (v6 : Bool) (target : BitVec 128) (data : List Byte) (s : State) :
    Answers (execEchoRequest peer v6 target data s) fun t => t.mem = s.mem := by
  unfold execEchoRequest
  (repeat' split) <;> simp

theorem execNeighbourSolicitation_mem (peer : Peer) (target : BitVec 128) (s : State) :
    Answers (execNeighbourSolicitation peer target s) fun t => t.mem = s.mem := by
  unfold execNeighbourSolicitation
  split <;> simp

@[simp] theorem State.vecCounts_mem (s : State) (c bad nonfin : Nat) : (s.vecCounts c bad nonfin).mem = s.mem := by
  unfold vecCounts
  simp

@[simp] theorem State.capViolation_mem (s : State) (c : Nat) : (s.capViolation c).mem = s.mem := by
  unfold capViolation
  simp

@[simp] theorem State.setVInstr_mem (s : State) (c : Nat) (x : VInstr) : (s.setVInstr c x).mem = s.mem := by
  unfold setVInstr
  simp

@[simp] theorem State.pushLeaf_mem (s : State) (c : Nat) (l : VLeaf) : (s.pushLeaf c l).mem = s.mem := by
  unfold pushLeaf
  simp

@[simp] theorem State.vecDone_mem (s : State) (c : Nat) (x : VInstr) (d : Nat) : (s.vecDone c x d).mem = s.mem := by
  unfold vecDone
  simp

@[simp] theorem State.addVector_mem (s : State) (c : Nat) (k : VKind) (f : VecF) : (s.addVector c k f).mem = s.mem := by
  unfold addVector
  dsimp only
  (repeat' split) <;> simp

theorem execMvd_mem (c : CoreId) (f : VecF) (s : State) : Answers (execMvd c f s) fun t => t.mem = s.mem := by
  unfold execMvd
  simp only [addVector_mem, issue_mem]

theorem execMvsRow_mem (c : CoreId) (f : VecF) (s : State) : Answers (execMvsRow c f s) fun t => t.mem = s.mem := by
  unfold execMvsRow
  simp only [addVector_mem, issue_mem]

theorem execMvsGather_mem (c : CoreId) (f : VecF) (s : State) : Answers (execMvsGather c f s) fun t => t.mem = s.mem := by
  unfold execMvsGather
  simp only [addVector_mem, issue_mem]

theorem execIsxDot_mem (c : CoreId) (f : VecF) (s : State) : Answers (execIsxDot c f s) fun t => t.mem = s.mem := by
  unfold execIsxDot
  simp only [addVector_mem, issue_mem]

theorem execIsxSampled_mem (c : CoreId) (f : VecF) (s : State) : Answers (execIsxSampled c f s) fun t => t.mem = s.mem := by
  unfold execIsxSampled
  simp only [addVector_mem, issue_mem]

theorem execMrg_mem (c : CoreId) (f : VecF) (s : State) : Answers (execMrg c f s) fun t => t.mem = s.mem := by
  unfold execMrg
  simp only [addVector_mem, issue_mem]

theorem execSct_mem (c : CoreId) (f : VecF) (s : State) : Answers (execSct c f s) fun t => t.mem = s.mem := by
  unfold execSct
  simp only [addVector_mem, issue_mem]

@[simp] theorem State.placeBlock_mem (s : State) (c : Nat) (x : VInstr) (second : Bool) (need : Nat × Nat × Nat × Nat × Bool) :
    (s.placeBlock c x second need).mem = s.mem := by
  unfold placeBlock
  dsimp only
  (repeat' split) <;> simp

theorem execVecFillStart_mem (c : CoreId) (s : State) : Answers (execVecFillStart c s) fun t => t.mem = s.mem := by
  unfold execVecFillStart
  dsimp only
  (repeat' split) <;> simp

theorem execVecFillDone_mem (c : CoreId) (second : Bool) (s : State) :
    Answers (execVecFillDone c second s) fun t => t.mem = s.mem := by
  unfold execVecFillDone
  dsimp only
  (repeat' split) <;> simp

@[simp] theorem State.endSweep_mem (s : State) (c : Nat) (x : VInstr) (chunk endAt : Nat) (last : Bool) :
    (s.endSweep c x chunk endAt last).mem = s.mem := by
  unfold endSweep
  split <;> simp

@[simp] theorem State.mvdBand_mem (s : State) (c : Nat) (x : VInstr) (bk : Bank) (start : Nat) :
    (s.mvdBand c x bk start).mem = s.mem := by
  unfold mvdBand
  dsimp only
  (repeat' split) <;> simp

@[simp] theorem State.sctBand_mem (s : State) (c : Nat) (x : VInstr) (bk : Bank) (start : Nat) :
    (s.sctBand c x bk start).mem = s.mem := by
  unfold sctBand
  simp

@[simp] theorem State.gatherChunk_mem (s : State) (c : Nat) (x : VInstr) (start : Nat) :
    (s.gatherChunk c x start).mem = s.mem := by
  unfold gatherChunk
  dsimp only
  have hs : ∀ (s : State) (b d : Prop) [Decidable b] [Decidable d], (if b then (if d then s.countPoison c 1 else s).capViolation c else if d then s.countPoison c 1 else s).mem = s.mem := by
    intro s b d _ _
    exact mem_ite (by rw [capViolation_mem]; exact mem_ite (countPoison_mem _ _ _) rfl) (mem_ite (countPoison_mem _ _ _) rfl)
  refine mem_ite ?_ (mem_ite ?_ ?_)
  · rw [setVInstr_mem]
    exact hs _ _ _
  · rw [vecDone_mem, pushLeaf_mem, setVec_mem, vecCounts_mem]
    exact hs _ _ _
  · rw [setVInstr_mem, setVec_mem, vecCounts_mem]
    exact hs _ _ _

theorem execVecBand_mem (c : CoreId) (s : State) : Answers (execVecBand c s) fun t => t.mem = s.mem := by
  unfold execVecBand
  dsimp only
  (repeat' split) <;> simp

theorem execVecLeafEntry_wf (c : CoreId) (s : State) (hinv : s.mem.wf = true) :
    Answers (execVecLeafEntry c s) fun t => t.mem.wf = true := by
  unfold execVecLeafEntry
  dsimp only
  (repeat' split) <;> simp [enterLeaf_wf, hinv]

theorem State.writeMerge_wf (s : State) (c : Nat) (x : VInstr) (hinv : s.mem.wf = true) :
    (s.writeMerge c x).mem.wf = true := by
  unfold writeMerge
  simp [writeChunks_wf, hinv]

@[simp] theorem State.beginStreams_mem (s : State) (c : Nat) (x : VInstr) (start : Nat) :
    (s.beginStreams c x start).1.mem = s.mem := by
  unfold beginStreams
  dsimp only
  (repeat' split) <;> simp

theorem execIntersectStep_wf (c : CoreId) (s : State) (hinv : s.mem.wf = true) :
    Answers (execIntersectStep c s) fun t => t.mem.wf = true := by
  unfold execIntersectStep
  dsimp only
  (repeat' split) <;> simp [writeMerge_wf, hinv]

theorem execSctSelectDone_wf (c : CoreId) (s : State) (hinv : s.mem.wf = true) :
    Answers (execSctSelectDone c s) fun t => t.mem.wf = true := by
  unfold execSctSelectDone
  dsimp only
  (repeat' split) <;> simp [writeChunks_wf, hinv]

@[simp] theorem State.goesOn_mem (s : State) (c : CoreId) : (s.goesOn c).mem = s.mem := by
  unfold goesOn
  simp

@[simp] theorem State.touch_mem (s : State) (o : OpReq) : (s.touch o).mem = s.mem := by
  unfold touch
  split <;> simp

@[simp] theorem State.answered_mem (s : State) (o : OpReq) (status : W16) (data : List Byte) :
    (s.answered o status data).mem = s.mem := by
  unfold answered
  simp

/-- Where an outcome's next state has the memory of `s`, its memory has the canonical form that memory of `s` has. -/
theorem Answers.wf {o : Host.Outcome State Fault Refusal} {s : State} (h : Answers o fun t => t.mem = s.mem)
    (hinv : s.mem.wf = true) : Answers o fun t => t.mem.wf = true :=
  fun t ht => (congrArg (fun m => m.wf) (h t ht)).trans hinv

/-- Every instruction and command keeps memory in its canonical form. -/
theorem exec_wf (i : Instr) (s : State) (hinv : s.mem.wf = true) : Answers (exec i s) fun t => t.mem.wf = true := by
  cases i with
  | nop c w => exact (execNop_mem c w s).wf hinv
  | add c f => exact (execAdd_mem c f s).wf hinv
  | sub c f => exact (execSub_mem c f s).wf hinv
  | mul c f => exact (execMul_mem c f s).wf hinv
  | and c f => exact (execAnd_mem c f s).wf hinv
  | or c f => exact (execOr_mem c f s).wf hinv
  | shl c f => exact (execShl_mem c f s).wf hinv
  | shr c f => exact (execShr_mem c f s).wf hinv
  | ldi c f => exact (execLdi_mem c f s).wf hinv
  | lds c f => exact (execLds_mem c f s).wf hinv
  | sts c bm f => exact execSts_wf c bm f s hinv
  | wld c ia tile => exact (execWld_mem c ia tile s).wf hinv
  | pass c f => exact execPass_wf c f s hinv
  | aclr c ia base depthM1 integer => exact execAclr_wf c ia base depthM1 integer s hinv
  | drain c f => exact (execDrain_mem c f s).wf hinv
  | drainSplitNode c f => exact (execDrainSplitNode_mem c f s).wf hinv
  | mvd c f => exact (execMvd_mem c f s).wf hinv
  | mvsRow c f => exact (execMvsRow_mem c f s).wf hinv
  | mvsGather c f => exact (execMvsGather_mem c f s).wf hinv
  | isxDot c f => exact (execIsxDot_mem c f s).wf hinv
  | isxSampled c f => exact (execIsxSampled_mem c f s).wf hinv
  | mrg c f => exact (execMrg_mem c f s).wf hinv
  | sct c f => exact (execSct_mem c f s).wf hinv
  | arm c bm ia eng list => exact (execArm_mem c bm ia eng list s).wf hinv
  | waits c mask => exact (execWaits_mem c mask s).wf hinv
  | waitany c rd mask => exact (execWaitany_mem c rd mask s).wf hinv
  | dpkOut c bm ia lenM1 areg loc => exact (execDpkOut_mem c bm ia lenM1 areg loc s).wf hinv
  | dpkIn c ia lenM1 areg loc => exact execDpkIn_wf c ia lenM1 areg loc s hinv
  | cbar c ch => exact execCbar_wf c ch s hinv
  | csig c ch => exact execCsig_wf c ch s hinv
  | bopen c pwp ch => exact (execBopen_mem c pwp ch s).wf hinv
  | bcommit c rd => exact execBcommit_wf c rd s hinv
  | babort c rd => exact execBabort_wf c rd s hinv
  | tkt c rd ia ctr => exact (execTkt_mem c rd ia ctr s).wf hinv
  | tktset c ra clr ia ctr => exact (execTktset_mem c ra clr ia ctr s).wf hinv
  | loop c lc ia endIdx count => exact (execLoop_mem c lc ia endIdx count s).wf hinv
  | endl c lc body => exact (execEndl_mem c lc body s).wf hinv
  | br c cond ra ia target => exact (execBr_mem c cond ra ia target s).wf hinv
  | bkt c rd ra src btab => exact (execBkt_mem c rd ra src btab s).wf hinv
  | halt c => exact (execHalt_mem c s).wf hinv
  | chain c ia cfg rec => exact (execChain_mem c ia cfg rec s).wf hinv
  | stepCtr c rd => exact (execStepCtr_mem c rd s).wf hinv
  | instructionFetch c => exact (execInstructionFetch_mem c s).wf hinv
  | feederFillStart c => exact (execFeederFillStart_mem c s).wf hinv
  | feederFillDone c second => exact (execFeederFillDone_mem c second s).wf hinv
  | feederRelease c => exact (execFeederRelease_mem c s).wf hinv
  | cellTokenStart c r j => exact (execCellTokenStart_mem c r j s).wf hinv
  | cellStep c r j => exact (execCellStep_mem c r j s).wf hinv
  | tokenSlotEnd c r j => exact (execTokenSlotEnd_mem c r j s).wf hinv
  | rowLoadRead c => exact (execRowLoadRead_mem c s).wf hinv
  | shadowCopy c r j => exact (execShadowCopy_mem c r j s).wf hinv
  | bottomStage c r j => exact execBottomStage_wf c r j s hinv
  | accCombine c base e => exact execAccCombine_wf c base e s hinv
  | aclrTakeEffect c => exact execAclrTakeEffect_wf c s hinv
  | drainRowRead c => exact execDrainRowRead_wf c s hinv
  | splitNodeArrival c => exact execSplitNodeArrival_wf c s hinv
  | chainStage c k => exact execChainStage_wf c k s hinv
  | packerEmit c => exact execPackerEmit_wf c s hinv
  | vecFillStart c => exact (execVecFillStart_mem c s).wf hinv
  | vecFillDone c second => exact (execVecFillDone_mem c second s).wf hinv
  | vecBand c => exact (execVecBand_mem c s).wf hinv
  | vecLeafEntry c => exact execVecLeafEntry_wf c s hinv
  | intersectStep c => exact execIntersectStep_wf c s hinv
  | sctSelectDone c => exact execSctSelectDone_wf c s hinv
  | tktServe ctr => exact (execTktServe_mem ctr s).wf hinv
  | tktsetServe ctr => exact (execTktsetServe_mem ctr s).wf hinv
  | queuedArmStart c e => exact (execQueuedArmStart_mem c e s).wf hinv
  | bundledArmStart c e => exact (execBundledArmStart_mem c e s).wf hinv
  | descEntry c e => exact (execDescEntry_mem c e s).wf hinv
  | rawEntry c e => exact (execRawEntry_mem c e s).wf hinv
  | listChain c e => exact (execListChain_mem c e s).wf hinv
  | streamElementRead c e => exact (execStreamElementRead_mem c e s).wf hinv
  | streamElementWrite c e => exact execStreamElementWrite_wf c e s hinv
  | streamReadTimeout c e => exact (execStreamReadTimeout_mem c e s).wf hinv
  | streamWriteTimeout c e => exact (execStreamWriteTimeout_mem c e s).wf hinv
  | portDelivery c e => exact (execPortDelivery_mem c e s).wf hinv
  | armComplete c e => exact (execArmComplete_mem c e s).wf hinv
  | listHoldApply => exact execListHoldApply_wf s hinv
  | regulatorWindow => exact (execRegulatorWindow_mem s).wf hinv
  | regulatorGrant ch => exact (execRegulatorGrant_mem ch s).wf hinv
  | daypackStep plane router out => exact execDaypackStep_wf plane router out s hinv
  | daypackLand c k => exact execDaypackLand_wf c k s hinv
  | trailSlot plane router out => exact execTrailSlot_wf plane router out s hinv
  | phaseTablesStart => exact (execPhaseTablesStart_mem s).wf hinv
  | whistleFlitHop k => exact (execWhistleFlitHop_mem k s).wf hinv
  | remoteArm c => exact (execRemoteArm_mem c s).wf hinv
  | errorNotice => exact (execErrorNotice_mem s).wf hinv
  | controlBlockWrite c => exact (execControlBlockWrite_mem c s).wf hinv
  | cairnBarrierComplete ch => exact execCairnBarrierComplete_wf ch s hinv
  | cairnTimeout ch => exact execCairnTimeout_wf ch s hinv
  | bundleVoteComplete ch => exact execBundleVoteComplete_wf ch s hinv
  | bundleWritesLanded ch => exact execBundleWritesLanded_wf ch s hinv
  | sliceStep k => exact execSliceStep_wf k s hinv
  | sliceLineFill k => exact execSliceLineFill_wf k s hinv
  | lpddr6Read ch bad => exact execLpddr6Read_wf ch bad s hinv
  | lpddr6Write w => exact execLpddr6Write_wf w s hinv
  | refresh ch band => exact (execRefresh_mem ch band s).wf hinv
  | patrolScrub ch bad => exact execPatrolScrub_wf ch bad s hinv
  | lpddr6Training ch seedsOk defaultOk => exact execLpddr6Training_wf ch seedsOk defaultOk s hinv
  | portStart p => exact (execPortStart_mem p s).wf hinv
  | portTrainingDone p locked found => exact (execPortTrainingDone_mem p locked found s).wf hinv
  | portTrainRetry p => exact (execPortTrainRetry_mem p s).wf hinv
  | portFail p lostLock => exact (execPortFail_mem p lostLock s).wf hinv
  | flitTransmit p => exact (execFlitTransmit_mem p s).wf hinv
  | flitReceive p codewordOk fixed header blocks => exact (execFlitReceive_mem p codewordOk fixed header blocks s).wf hinv
  | ack p payload => exact (execAck_mem p payload s).wf hinv
  | nak p payload => exact (execNak_mem p payload s).wf hinv
  | flitEdgeDeliver p past => exact (execFlitEdgeDeliver_mem p past s).wf hinv
  | readReq p => exact (execReadReq_mem p s).wf hinv
  | readData p => exact (execReadData_mem p s).wf hinv
  | write p => exact execWrite_wf p s hinv
  | writeDone p => exact (execWriteDone_mem p s).wf hinv
  | node n => exact (execNode_mem n s).wf hinv
  | service p => exact (execService_mem p s).wf hinv
  | symbolResend p => exact (execSymbolResend_mem p s).wf hinv
  | arrive p payload => exact (execArrive_mem p payload s).wf hinv
  | release p payload => exact (execRelease_mem p payload s).wf hinv
  | moduleWideComplete ch => exact execModuleWideComplete_wf ch s hinv
  | moduleWideTimeout ch => exact execModuleWideTimeout_wf ch s hinv
  | ready p payload => exact (execReady_mem p payload s).wf hinv
  | start p payload => exact (execStart_mem p payload s).wf hinv
  | startRelease => exact (execStartRelease_mem s).wf hinv
  | timeSend p frac => exact (execTimeSend_mem p frac s).wf hinv
  | time p payload t4 t4frac => exact (execTime_mem p payload t4 t4frac s).wf hinv
  | syncLock => exact (execSyncLock_mem s).wf hinv
  | rateReq p payload => exact (execRateReq_mem p payload s).wf hinv
  | rateSet p payload => exact (execRateSet_mem p payload s).wf hinv
  | rateSetApply => exact (execRateSetApply_mem s).wf hinv
  | refinLoss => exact (execRefinLoss_mem s).wf hinv
  | stepPermit late => exact (execStepPermit_mem late s).wf hinv
  | damperInterval slack => exact execDamperInterval_wf slack s hinv
  | loweringApply => exact (execLoweringApply_mem s).wf hinv
  | thermalCheck => exact (execThermalCheck_mem s).wf hinv
  | rateRestore => exact (execRateRestore_mem s).wf hinv
  | stepTargetApply => exact (execStepTargetApply_mem s).wf hinv
  | powerWindowEnd meanW => exact (execPowerWindowEnd_mem meanW s).wf hinv
  | loopPeriodEnd r => exact (execLoopPeriodEnd_mem r s).wf hinv
  | thermalTrip => exact execThermalTrip_wf s hinv
  | domainTransition => exact execDomainTransition_wf s hinv
  | basecampHeartbeatMiss => exact execBasecampHeartbeatMiss_wf s hinv
  | rangerRestart cause => exact execRangerRestart_wf cause s hinv
  | parameterStoreDone h => exact execParameterStoreDone_wf h s hinv
  | request peer bytes h => exact execRequest_wf peer bytes h s hinv
  | read index o => exact execRead_wf index o s hinv
  | segmentRead index o => exact execSegmentRead_wf index o s hinv
  | registerWrite index o h => exact execRegisterWrite_wf index o h s hinv
  | openSession peer bytes => exact execOpenSession_wf peer bytes s hinv
  | confirm peer bytes => exact execConfirm_wf peer bytes s hinv
  | close peer bytes => exact execClose_wf peer bytes s hinv
  | sessionIdleTimeout sid => exact (execSessionIdleTimeout_mem sid s).wf hinv
  | submit peer bytes => exact (execSubmit_mem peer bytes s).wf hinv
  | submitFragmentTimeout sid reqId => exact (execSubmitFragmentTimeout_mem sid reqId s).wf hinv
  | admission ch => exact execAdmission_wf ch s hinv
  | epochRollover h => exact (execEpochRollover_mem h s).wf hinv
  | outputHeaderPoll ch => exact (execOutputHeaderPoll_mem ch s).wf hinv
  | recordSign => exact (execRecordSign_mem s).wf hinv
  | fetch peer bytes => exact (execFetch_mem peer bytes s).wf hinv
  | fetchWindowExpiry sid reqId => exact (execFetchWindowExpiry_mem sid reqId s).wf hinv
  | packImage o => exact execPackImage_wf o s hinv
  | packInstall o => exact execPackInstall_wf o s hinv
  | packCheckComplete => exact (execPackCheckComplete_mem s).wf hinv
  | packStart o h => exact execPackStart_wf o h s hinv
  | packHalt o => exact execPackHalt_wf o s hinv
  | packFatalHalt => exact execPackFatalHalt_wf s hinv
  | fabricReset o => exact execFabricReset_wf o s hinv
  | fabricResetComplete seedsOk defaultOk => exact execFabricResetComplete_wf seedsOk defaultOk s hinv
  | paramDefaults o h => exact execParamDefaults_wf o h s hinv
  | fwImage o => exact execFwImage_wf o s hinv
  | fwInstall o h => exact execFwInstall_wf o h s hinv
  | fwBlockWrite w => exact execFwBlockWrite_wf w s hinv
  | fwBlockRetry w => exact execFwBlockRetry_wf w s hinv
  | wimgManifest o => exact execWimgManifest_wf o s hinv
  | wimgData o => exact execWimgData_wf o s hinv
  | wimgLoad o => exact execWimgLoad_wf o s hinv
  | wimgHashComplete => exact (execWimgHashComplete_mem s).wf hinv
  | calStore o h => exact execCalStore_wf o h s hinv
  | selfCal o => exact execSelfCal_wf o s hinv
  | selfCalDone h => exact (execSelfCalDone_mem h s).wf hinv
  | arrayDiag o => exact execArrayDiag_wf o s hinv
  | arrayDiagDone fails => exact (execArrayDiagDone_mem fails s).wf hinv
  | bwOpen o => exact execBwOpen_wf o s hinv
  | bwCommit o h => exact execBwCommit_wf o h s hinv
  | bwAbort o => exact execBwAbort_wf o s hinv
  | attestChallenge o => exact execAttestChallenge_wf o s hinv
  | ownerEnrol o h => exact execOwnerEnrol_wf o h s hinv
  | logFetch o => exact execLogFetch_wf o s hinv
  | stepTarget o h => exact execStepTarget_wf o h s hinv
  | powerCap o h => exact execPowerCap_wf o h s hinv
  | regulatorSplit o => exact execRegulatorSplit_wf o s hinv
  | slicePartition o => exact execSlicePartition_wf o s hinv
  | domainRequest o => exact execDomainRequest_wf o s hinv
  | logbookMode o h => exact execLogbookMode_wf o h s hinv
  | valveOwner o h => exact execValveOwner_wf o h s hinv
  | maintenance o => exact execMaintenance_wf o s hinv
  | arrayRepairMap o h => exact execArrayRepairMap_wf o h s hinv
  | coreRepairMap o h => exact execCoreRepairMap_wf o h s hinv
  | glRouteTable o h => exact execGlRouteTable_wf o h s hinv
  | scoutThreshold o => exact execScoutThreshold_wf o s hinv
  | scoutDisable o => exact execScoutDisable_wf o s hinv
  | coreCtrl o => exact execCoreCtrl_wf o s hinv
  | coreSelect o => exact execCoreSelect_wf o s hinv
  | moduleId o h => exact execModuleId_wf o h s hinv
  | vendorConsent o h => exact execVendorConsent_wf o h s hinv
  | calibrationEntry index o => exact execCalibrationEntry_wf index o s hinv
  | recoveryData peer bytes w => exact execRecoveryData_wf peer bytes w s hinv
  | recoveryQuery peer bytes => exact (execRecoveryQuery_mem peer bytes s).wf hinv
  | pwrEnRise => exact (execPwrEnRise_mem s).wf hinv
  | pwrGoodRetry => exact (execPwrGoodRetry_mem s).wf hinv
  | pwrGoodRise straps => exact execPwrGoodRise_wf straps s hinv
  | firmwareBootCheck => exact (execFirmwareBootCheck_mem s).wf hinv
  | domainRamp d => exact (execDomainRamp_mem d s).wf hinv
  | fullParameterService => exact (execFullParameterService_mem s).wf hinv
  | basecampReady => exact (execBasecampReady_mem s).wf hinv
  | pwrEnFall => exact execPwrEnFall_wf s hinv
  | undervoltageTrip => exact execUndervoltageTrip_wf s hinv
  | overvoltageTrip => exact execOvervoltageTrip_wf s hinv
  | powerDownHoldEnd => exact (execPowerDownHoldEnd_mem s).wf hinv
  | modResetNFall straps => exact execModResetNFall_wf straps s hinv
  | modResetNRise => exact (execModResetNRise_mem s).wf hinv
  | extest => exact (execExtest_mem s).wf hinv
  | idcode => exact (execIdcode_mem s).wf hinv
  | samplePreload cells => exact (execSamplePreload_mem cells s).wf hinv
  | clamp => exact (execClamp_mem s).wf hinv
  | trace => exact (execTrace_mem s).wf hinv
  | bypass => exact (execBypass_mem s).wf hinv
  | traceEnWrite v => exact (execTraceEnWrite_mem v s).wf hinv
  | mgmtLinkUp cr => exact (execMgmtLinkUp_mem cr s).wf hinv
  | mgmtLinkDown => exact (execMgmtLinkDown_mem s).wf hinv
  | arpRequest peer target => exact (execArpRequest_mem peer target s).wf hinv
  | echoRequest peer v6 target data => exact (execEchoRequest_mem peer v6 target data s).wf hinv
  | neighbourSolicitation peer target => exact (execNeighbourSolicitation_mem peer target s).wf hinv
  | refinReturn => exact (execRefinReturn_mem s).wf hinv
  | inputInRange => exact (execInputInRange_mem s).wf hinv
  | rangerRestartDone => exact (execRangerRestartDone_mem s).wf hinv
  | testLogicReset => exact (execTestLogicReset_mem s).wf hinv
  | channelSyncLoss ch => exact execChannelSyncLoss_wf ch s hinv
  | observerAccessStart => exact (execObserverAccessStart_mem s).wf hinv

theorem step_wf (s : State) (hinv : s.mem.wf = true) : Answers (step s) fun t => t.mem.wf = true := by
  unfold step
  split
  · simpa using hinv
  · exact exec_wf _ _ hinv

/-- Settles O4: each instruction and command either leaves memory as it is or changes it by operations that keep its
canonical form. -/
theorem invariantIsKept : Obligations.InvariantIsKept := by
  unfold Obligations.InvariantIsKept
  exact fun s t hinv h => step_wf s hinv t h

end Sys2Proof.Machine

end

section
/-! PROOFS. O7, O11, O13, O14, O16: what the sequencer of a core does with its own registers, its PC and its faults. -/

namespace Sys2Proof.Machine

open State

/-! ## Scalar results (O7) -/

theorem shl_mod_eq (a : W64) (n : Nat) : a <<< n = BitVec.ofNat 64 (a.toNat * 2 ^ n) := by
  apply BitVec.eq_of_toNat_eq
  simp [BitVec.toNat_shiftLeft, Nat.shiftLeft_eq]

theorem ushr_eq (a : W64) (n : Nat) : a >>> n = BitVec.ofNat 64 (a.toNat / 2 ^ n) := by
  apply BitVec.eq_of_toNat_eq
  rw [BitVec.toNat_ushiftRight, Nat.shiftRight_eq_div_pow, BitVec.toNat_ofNat,
    Nat.mod_eq_of_lt (Nat.lt_of_le_of_lt (Nat.div_le_self _ _) a.isLt)]

theorem sshr_eq (a : W64) (n : Nat) : a.sshiftRight n = BitVec.ofInt 64 (a.toInt / 2 ^ n) := by
  rw [BitVec.sshiftRight, Int.shiftRight_eq_div_pow]
  simp

theorem append_eq_ofNat (hi : W32) (x : W64) :
    hi ++ x.truncate 32 = BitVec.ofNat 64 (hi.toNat * 2 ^ 32 + x.toNat % 2 ^ 32) := by
  apply BitVec.eq_of_toNat_eq
  have hlt : x.toNat % 2 ^ 32 < 2 ^ 32 := Nat.mod_lt _ (by decide)
  have hhi := hi.isLt
  rw [BitVec.toNat_append, BitVec.toNat_ofNat, ← Nat.shiftLeft_add_eq_or_of_lt (by simpa using hlt), Nat.shiftLeft_eq]
  simp only [BitVec.truncate_eq_setWidth, BitVec.toNat_setWidth]
  omega

theorem signExtend_eq_ofInt (x : W32) : x.signExtend 64 = BitVec.ofInt 64 x.toInt := by
  rw [BitVec.signExtend]

theorem arithmeticResults : Claim.ArithmeticResults := by
  intro s c f q a b hpc
  refine ⟨fun h => ?_, fun h => ?_, fun h => ?_, fun h => ?_, fun h => ?_⟩
  · refine (scalar_eq s c _ f.rd _ h hpc).trans ?_
    rw [BitVec.ofNat_add, BitVec.ofNat_toNat, BitVec.ofNat_toNat, BitVec.setWidth_eq, BitVec.setWidth_eq]
    rfl
  · refine (scalar_eq s c _ f.rd _ h hpc).trans ?_
    have hsub : a - b = BitVec.ofNat 64 (2 ^ 64 + a.toNat - b.toNat) := by
      rw [BitVec.sub_def]
      congr 1
      have := b.isLt
      omega
    rw [← hsub]
    rfl
  · refine (scalar_eq s c _ f.rd _ h hpc).trans ?_
    rw [BitVec.ofNat_mul, BitVec.ofNat_toNat, BitVec.ofNat_toNat, BitVec.setWidth_eq, BitVec.setWidth_eq]
    rfl
  · exact ⟨a &&& b, scalar_eq s c _ f.rd _ h hpc, fun i => BitVec.getLsbD_and⟩
  · exact ⟨a ||| b, scalar_eq s c _ f.rd _ h hpc, fun i => BitVec.getLsbD_or⟩

theorem shiftAndLoadResults : Claim.ShiftAndLoadResults := by
  intro s c f rd q a n hpc
  refine ⟨fun h => ?_, fun h hvar => ?_, fun h hvar => ?_, fun h hvar => ?_, fun h hvar => ?_, fun h => ?_⟩
  · rw [← shl_mod_eq]
    exact scalar_eq s c _ f.rd _ h hpc
  · rw [← ushr_eq]
    refine (scalar_eq s c _ f.rd _ h hpc).trans ?_
    rw [shrResult, hvar, if_neg Bool.false_ne_true]
    rfl
  · rw [← sshr_eq]
    refine (scalar_eq s c _ f.rd _ h hpc).trans ?_
    rw [shrResult, hvar, if_pos rfl]
    rfl
  · rw [← signExtend_eq_ofInt]
    refine (scalar_eq s c _ f.rd _ h hpc).trans ?_
    rw [ldiResult, hvar, if_neg Bool.false_ne_true]
  · rw [← append_eq_ofNat]
    refine (scalar_eq s c _ f.rd _ h hpc).trans ?_
    rw [ldiResult, hvar, if_pos rfl]
  · exact scalar_eq s c _ rd _ h hpc

theorem nopAndIllegalWords : Claim.NopAndIllegalWords := by
  intro s c w hpc h
  refine ⟨fun hw => ?_, fun hw => ?_⟩
  · refine (issue_ready s c _ _ h ?_).trans ?_
    · rwa [if_pos hw]
    · rw [if_pos hw]
  · refine (issue_ready s c _ _ h ?_).trans ?_
    · rw [if_neg hw, coreFault_pc]
      exact hpc
    · rw [if_neg hw]
      rfl

/-- Settles O7: each result is that of the operation on words, and a scalar instruction writes RD and goes on. -/
theorem scalarResults : Obligations.ScalarResults :=
  ⟨arithmeticResults, shiftAndLoadResults, nopAndIllegalWords⟩

/-! ## Waits on engines (O14) -/

theorem mem_maskEngines {m : Byte} {e : Nat} : e ∈ maskEngines m ↔ e < 8 ∧ m.getLsbD e = true := by simp [maskEngines]

/-- The first engine of a mask without an arm is the lowest one. -/
theorem find_maskEngines {m : Byte} {p : Nat → Bool} {e : Nat} (he : e < 8) (hm : m.getLsbD e = true) (hp : p e = true)
    (hlow : ∀ d < e, m.getLsbD d = true → p d = false) : (maskEngines m).find? p = some e := by
  unfold maskEngines
  rw [List.find?_filter, List.find?_range_eq_some]
  refine ⟨by simp [hm, hp], by simpa using he, fun d hd => ?_⟩
  cases hmd : m.getLsbD d with
  | false => simp
  | true => simp [hlow d hd hmd]

@[simp] theorem State.countTdc_seq (s : State) (c k : Nat) : (s.countTdc c).seq k = s.seq k := rfl

theorem State.setReg_seq_same (s : State) (c : Nat) (rd : BitVec 4) (v : W64) :
    (s.setReg c rd v).seq c = (s.seq c).setReg rd v := by simp [setReg]

/-- Counting a timing-dependent choice changes no register. -/
theorem State.countTdc_setReg_goesOn (s : State) (c : CoreId) (rd : BitVec 4) (v : W64) :
    ((s.setReg c.toNat rd v).countTdc c.toNat).goesOn c =
      (s.countTdc c.toNat).setSeq c.toNat ((s.seq c.toNat).writes s.now rd v) := by
  have h : ((s.setReg c.toNat rd v).countTdc c.toNat).goesOn c =
      ((s.countTdc c.toNat).setReg c.toNat rd v).setSeq c.toNat (((s.setReg c.toNat rd v).seq c.toNat).goesOn s.now) := rfl
  rw [h, setReg_seq_same, setReg, setSeq_setSeq]
  rfl

theorem State.issue_setReg_countTdc {s : State} {c : CoreId} {i : Instr} {rd : BitVec 4} (v : W64) (h : s.canIssue c i = true)
    (hpc : (s.seq c.toNat).pc ≠ 4095) :
    s.issue c i true ((s.setReg c.toNat rd v).countTdc c.toNat) =
      .next ((s.countTdc c.toNat).setSeq c.toNat ((s.seq c.toNat).writes s.now rd v)) := by
  rw [issue_ready s c i _ h, countTdc_setReg_goesOn]
  rw [countTdc_seq, setReg_seq_same]
  exact hpc

/-- Settles O14: the mask's engines are tried in ascending order. -/
theorem waitsOnEngines : Obligations.WaitsOnEngines := by
  intro s c rd mask q free hpc
  refine ⟨fun h hfree => ?_, fun h hbusy => ?_, fun h hstrict => ?_, fun h hrelaxed hmask => ?_, fun h hrelaxed e he hm hfree hlow => ?_⟩
  · have hall : ((maskEngines mask).all fun e => !s.engBusy c.toNat e) = true := by
      rw [List.all_eq_true]
      intro e he
      obtain ⟨he8, hm⟩ := mem_maskEngines.mp he
      simpa using hfree e he8 hm
    refine Eq.trans ?_ (issue_ready s c _ s h hpc)
    exact congrArg (fun r => s.issue c _ r s) hall
  · have hall : ((maskEngines mask).all fun e => !s.engBusy c.toNat e) = false := by
      obtain ⟨e, he8, hm, hb⟩ := hbusy
      rw [List.all_eq_false]
      exact ⟨e, mem_maskEngines.mpr ⟨he8, hm⟩, by simpa [free] using hb⟩
    refine Eq.trans ?_ (issue_waits s c _ s h)
    exact congrArg (fun r => s.issue c _ r s) hall
  · refine Eq.trans ?_ (issue_ready s c _ (s.coreFault c.toNat 2 q.pc) h (by rw [coreFault_pc]; exact hpc))
    exact if_pos hstrict
  · refine Eq.trans ?_ (issue_setReg_countTdc (BitVec.allOnes 64) h hpc)
    exact (if_neg (by simp [hrelaxed])).trans (if_pos hmask)
  · have hmask : mask ≠ 0 := by
      rintro rfl
      simp at hm
    have hfind : (maskEngines mask).find? (fun e => !s.engBusy c.toNat e) = some e :=
      find_maskEngines he hm (by simpa [free] using hfree) (fun d hd hmd => by simpa [free] using hlow d hd hmd)
    refine Eq.trans ?_ (issue_setReg_countTdc (BitVec.ofNat 64 e) h hpc)
    refine (if_neg (by simp [hrelaxed])).trans ((if_neg hmask).trans ?_)
    rw [hfind]

/-! ## What a reply to a client or another module leaves as it was -/

/-- The state without what a reply reaches: the messages sent, the numbers of the sessions, the ports and the sums. -/
def State.besidesReplies (s : State) : State :=
  { s with out := [], gl := .reset, rng := { s.rng with sessions := [] }, sums := {} }

section
variable (s : State)

@[simp] theorem State.emit_besidesReplies (o : Out) : (s.emit o).besidesReplies = s.besidesReplies := rfl

@[simp] theorem State.setSession_besidesReplies (k : Session) : (s.setSession k).besidesReplies = s.besidesReplies := rfl

@[simp] theorem State.setPort_besidesReplies (p : Nat) (v : GPort) : (s.setPort p v).besidesReplies = s.besidesReplies := rfl

@[simp] theorem State.countUnroutable_besidesReplies : s.countUnroutable.besidesReplies = s.besidesReplies := rfl

@[simp] theorem State.verifyFlit_besidesReplies (h : FHead) (ps : List Parcel) :
    (s.verifyFlit h ps).1.besidesReplies = s.besidesReplies := by
  unfold verifyFlit
  refine foldl_keeps (fun x : State × List Parcel => x.1.besidesReplies) (fun _ _ _ => ?_) (s, [])
  dsimp only
  split <;> rfl

@[simp] theorem State.queueFlit_besidesReplies (p : Nat) (h : FHead) (ps : List Parcel) :
    (s.queueFlit p h ps).besidesReplies = s.besidesReplies := by simp [queueFlit]

@[simp] theorem State.flushEdge_besidesReplies (p : Nat) : (s.flushEdge p).besidesReplies = s.besidesReplies := by
  unfold flushEdge
  split <;> simp

@[simp] theorem State.portFlit_besidesReplies (p : Nat) (h : FHead) (ps : List Parcel) :
    (s.portFlit p h ps).besidesReplies = s.besidesReplies := by
  unfold portFlit
  split <;> simp

@[simp] theorem State.sendFlit_besidesReplies (h : FHead) (ps : List Parcel) :
    (s.sendFlit h ps).besidesReplies = s.besidesReplies := by
  unfold sendFlit
  split <;> simp

@[simp] theorem State.sendService_besidesReplies (sid : W32) (peer : Peer) (typ : Byte) (body : List Byte) :
    (s.sendService sid peer typ body).besidesReplies = s.besidesReplies := by
  unfold sendService
  split
  · rfl
  · simp [sendAs]

@[simp] theorem State.sendServicePieces_besidesReplies (dmod kind : Nat) (reqId : W64) (origin : Nat) (svc : Byte) (seq : W64)
    (status : W16) (total off : Nat) (data : List Byte) :
    (s.sendServicePieces dmod kind reqId origin svc seq status total off data).besidesReplies = s.besidesReplies := by
  unfold sendServicePieces
  exact foldl_keeps besidesReplies (fun _ _ t => t.sendFlit_besidesReplies _ _) s

@[simp] theorem State.sendServiceFlits_besidesReplies (dmod kind : Nat) (reqId : W64) (origin : Nat) (svc : Byte) (seq : W64)
    (status : W16) (data record : List Byte) :
    (s.sendServiceFlits dmod kind reqId origin svc seq status data record).besidesReplies = s.besidesReplies := by
  unfold sendServiceFlits
  dsimp only
  split <;> simp

@[simp] theorem State.replyTo_besidesReplies (r : Req) (status : W16) (seq : W64) (retry : Nat) :
    (s.replyTo r status seq retry).besidesReplies = s.besidesReplies := by
  unfold replyTo
  split <;> simp

@[simp] theorem State.resultTo_besidesReplies (r : Req) (seq : W64) (status : W16) (data record : List Byte) :
    (s.resultTo r seq status data record).besidesReplies = s.besidesReplies := by
  unfold resultTo
  split
  · exact foldl_keeps besidesReplies (fun _ _ t => t.sendService_besidesReplies _ _ _ _) s
  · simp

/-- The open results are answered, and the queues of requests are empty. -/
def State.besidesResults (s : State) : State :=
  { s.besidesReplies with
    log := { s.log with open_ := [], leaves := [] }, svc := { s.svc with waiting := [], adm := [], taking := [], table := [] } }

theorem State.besidesResults_of_replies {s t : State} (h : t.besidesReplies = s.besidesReplies) :
    t.besidesResults = s.besidesResults := by
  have hlog : t.log = s.log := show t.besidesReplies.log = s.besidesReplies.log from congrArg State.log h
  have hsvc : t.svc = s.svc := show t.besidesReplies.svc = s.besidesReplies.svc from congrArg State.svc h
  simp only [besidesResults, h, hlog, hsvc]

theorem State.besidesResults_cores : s.besidesResults.cores = s.cores := rfl
theorem State.besidesResults_pack : s.besidesResults.pack = s.pack := rfl

@[simp] theorem State.discardOpen_besidesResults : s.discardOpen.besidesResults = s.besidesResults := by
  have hdiscard (t : State) : besidesResults { t with
      log := { t.log with open_ := [], leaves := [] }, svc := { t.svc with waiting := [], adm := [], taking := [], table := [] } } =
      t.besidesResults := rfl
  unfold discardOpen
  dsimp only
  rw [hdiscard]
  apply besidesResults_of_replies
  rw [foldl_keeps besidesReplies (fun _ _ t => t.resultTo_besidesReplies _ _ _ _ _),
    foldl_keeps besidesReplies (fun _ _ t => t.replyTo_besidesReplies _ _ _ _),
    foldl_keeps besidesReplies (fun _ _ t => t.replyTo_besidesReplies _ _ _ _)]
  refine foldl_keeps besidesReplies (fun _ _ t => ?_) s
  split <;> simp

@[simp] theorem State.discardOpen_cores : s.discardOpen.cores = s.cores := by
  rw [← besidesResults_cores, discardOpen_besidesResults, besidesResults_cores]

@[simp] theorem State.discardOpen_pack : s.discardOpen.pack = s.pack := by
  rw [← besidesResults_pack, discardOpen_besidesResults, besidesResults_pack]

@[simp] theorem State.checkAllHalted_cores : s.checkAllHalted.cores = s.cores := by
  unfold checkAllHalted
  split <;> simp

@[simp] theorem State.checkAllHalted_seq (k : Nat) : s.checkAllHalted.seq k = s.seq k := by
  rw [seq, checkAllHalted_cores, seq]

/-- The pack has halted once every core of it has. -/
theorem State.checkAllHalted_pack_of_halted (hrun : s.pack.state = .running) (hall : s.allHalted = true) :
    s.checkAllHalted.pack.state = .halted := by
  unfold checkAllHalted
  simp [hrun, hall]

theorem State.checkAllHalted_of_not_halted (hall : s.allHalted = false) : s.checkAllHalted = s := by
  simp [checkAllHalted, hall]

@[simp] theorem State.haltCore_seq_same (c : Nat) (st : BitVec 3) : (s.haltCore c st).seq c = { s.seq c with st, wait := .none } := by
  simp [haltCore]

theorem State.haltCore_seq_other (c : Nat) (st : BitVec 3) {k : Nat} (h : c ≠ k) : (s.haltCore c st).seq k = s.seq k := by
  simp [haltCore, setSeq_seq_other _ _ _ h]

end

/-! ## Loops and branches (O11) -/

/-- A jump within the instruction region. -/
theorem issueAt_eq {s : State} {c : CoreId} {i : Instr} (h : s.canIssue c i = true) (q : Seq) {t : Nat} (ht : t < 4096) (steps : Nat) :
    s.issueAt c i (s.setSeq c.toNat q) t steps = .next (s.setSeq c.toNat (q.jumps s.now t steps)) := by
  rw [issueAt, issueTo_ready s c i _ h, goTo_eq _ _ _ _ ht]
  simp

theorem issueAt_self {s : State} {c : CoreId} {i : Instr} (h : s.canIssue c i = true) {t : Nat} (ht : t < 4096) (steps : Nat) :
    s.issueAt c i s t steps = .next (s.setSeq c.toNat ((s.seq c.toNat).jumps s.now t steps)) := by
  rw [issueAt, issueTo_ready s c i _ h, goTo_eq _ _ _ _ ht]

theorem brTaken_iff (cond : BitVec 4) (r : W64) : brTaken cond r = true ↔
    (cond = 0) ∨ (cond = 1 ∧ r = 0) ∨ (cond = 2 ∧ r ≠ 0) ∨ (cond = 3 ∧ r.toInt < 0) ∨ (cond = 4 ∧ 0 ≤ r.toInt) := by
  have hneg : r.toInt < 0 ↔ r.msb = true := BitVec.msb_eq_toInt ▸ by simp
  have hpos : 0 ≤ r.toInt ↔ r.msb = false := by rw [← not_lt, hneg, Bool.not_eq_true]
  rw [hneg, hpos]
  have hcond (k : BitVec 4) : cond = k ↔ cond.toNat = k.toNat := BitVec.toNat_inj.symm
  simp only [hcond, brTaken]
  split
  · next h => simp [h]
  · next h => simp [h]
  · next h => simp [h]
  · next h => simp [h]
  · next h => simp [h]
  · next h0 h1 h2 h3 h4 =>
    have hno : cond.toNat ≠ 0 ∧ cond.toNat ≠ 1 ∧ cond.toNat ≠ 2 ∧ cond.toNat ≠ 3 ∧ cond.toNat ≠ 4 := ⟨h0, h1, h2, h3, h4⟩
    simp [hno]

theorem loopsAndBranches : Claim.LoopsAndBranches := by
  intro s c lc ia e body target count cond ra q n left to_ r holds
  refine ⟨fun h hn hpc => ?_, fun h hn he => ?_, fun h hl hpc => ?_, fun h hl => ?_, fun h hh => ?_, fun h hc hh hpc => ?_⟩
  · refine (if_neg hn).trans ((issueAt_eq h _ (pc_lt hpc) 1).trans ?_)
    exact congrArg (fun x => Host.Outcome.next (s.setSeq c.toNat x)) (Seq.jumps_next { q with lc := _ } s.now 1)
  · refine (if_pos hn).trans ((issueAt_eq h _ (pc_lt he) 2).trans ?_)
    have hn' : fieldMod q ia count 24 = 0 := hn
    rw [hn']
    rfl
  · refine (if_pos hl).trans ((issueAt_eq h _ (pc_lt hpc) 1).trans ?_)
    have hl' : (s.seq c.toNat).lc[lc.toNat] - 1 = 0 := hl
    rw [hl']
    exact congrArg (fun x => Host.Outcome.next (s.setSeq c.toNat x)) (Seq.jumps_next { q with lc := _ } s.now 1)
  · refine (if_neg hl).trans ((issueAt_eq h _ body.isLt 2).trans ?_)
    rfl
  · refine (if_pos ((brTaken_iff cond r).mpr hh)).trans (issueAt_self h (Nat.mod_lt _ (by decide)) 2)
  · refine (if_neg fun ht => hh ((brTaken_iff cond r).mp ht)).trans ((issueAt_self h (pc_lt hpc) 1).trans ?_)
    rw [Seq.jumps_next]
    rfl

/-- Going on past the last index (R171). -/
theorem goTo_past (s : State) (c : Nat) {t : Nat} (ht : 4096 ≤ t) (steps : Nat) :
    s.goTo c t steps = (s.coreFault c 7 4095).haltCore c 4 := if_neg (Nat.not_lt.mpr ht)

@[simp] theorem State.coreFault_seq_same (s : State) (c : Nat) (code : BitVec 4) (pc : BitVec 12) :
    (s.coreFault c code pc).seq c =
      { s.seq c with
        fCount := min ((s.seq c).fCount + 1) 255, fValid := true, fPc := if (s.seq c).fValid then (s.seq c).fPc else pc,
        fCode := if (s.seq c).fValid then (s.seq c).fCode else code } := by
  simp [coreFault]

theorem State.coreFault_seq_other (s : State) {c k : Nat} (h : c ≠ k) (code : BitVec 4) (pc : BitVec 12) :
    (s.coreFault c code pc).seq k = s.seq k := by
  simp [coreFault, setSeq_seq_other _ _ _ h]

theorem pastTheLastIndex : Claim.PastTheLastIndex := by
  intro s c hpc h
  refine ⟨(s.coreFault c.toNat 7 4095).haltCore c.toNat 4, ?_, by simp, by simp, fun hv => by simp [hv], by simp⟩
  have hpast : s.advance c.toNat = (s.coreFault c.toNat 7 4095).haltCore c.toNat 4 :=
    goTo_past s c.toNat (by simp [hpc]) 1
  rw [← hpast]
  exact issueTo_ready s c (.nop c 0) _ h

/-- Settles O11: a jump moves PC and keeps the buffer where it holds the target; index 4,096 is no index. -/
theorem branches : Obligations.Branches := ⟨loopsAndBranches, pastTheLastIndex⟩

/-! ## HALT and the fetch (O13) -/

theorem haltStopsTheCore : Claim.HaltStopsTheCore := by
  intro s c h
  refine ⟨s.haltCore c.toNat 3, issueTo_ready s c _ _ h, by simp, by simp, fun k hk => s.haltCore_seq_other _ _ hk.symm,
    fun hrun hall => checkAllHalted_pack_of_halted _ hrun hall, fun hall => ?_⟩
  rw [haltCore, checkAllHalted_of_not_halted _ hall]
  rfl

/-- Each byte of a little-endian number is the byte that its list has there. -/
theorem leNat_byte (bs : List Byte) (j : Nat) : leNat bs / 256 ^ j % 256 = (bs.getD j 0).toNat := by
  induction bs generalizing j with
  | nil => simp [leNat]
  | cons b bs ih =>
    have hb := b.isLt
    cases j with
    | zero =>
      simp only [leNat, Nat.pow_zero, Nat.div_one, List.getD_cons_zero]
      omega
    | succ j =>
      rw [List.getD_cons_succ, ← ih j, leNat, Nat.pow_succ', ← Nat.div_div_eq_div_mul]
      congr 2
      omega

theorem leNat_bytesAt_lt (m : Memory) (k n : Nat) : leNat (m.bytesAt k n) < 256 ^ n := by
  simpa [Memory.bytesAt] using leNat_lt (m.bytesAt k n)

/-- Each byte of a word read from memory is the byte that memory has there. -/
theorem word_byte (m : Memory) (k : Nat) {j : Nat} (hj : j < 8) :
    (BitVec.ofNat 64 (leNat (m.bytesAt k 8))).toNat / 256 ^ j % 256 = (m.byte (k + j)).toNat := by
  rw [BitVec.toNat_ofNat, Nat.mod_eq_of_lt (show _ < 2 ^ 64 from leNat_bytesAt_lt m k 8), leNat_byte]
  simp [Memory.bytesAt, hj]

theorem instructionFetchFillsTheBuffer : Claim.InstructionFetchFillsTheBuffer := by
  intro s c q hi hst hlast hlen hbase
  refine ⟨(List.range 16).map fun i => BitVec.ofNat 64 (leNat (s.mem.bytesAt (coreAddr c.toNat (8 * hi) + 8 * i) 8)), by simp, ?_, ?_⟩
  · intro i hi16 j hj
    rw [← word_byte s.mem _ hj]
    simp [hi16]
  · have hroom : (q.st = 1 ∨ q.st = 2) ∧ hi < 4096 ∧ hi ≤ max q.pc.toNat q.bufBase + 16 := ⟨hst, by omega, by omega⟩
    have hn : min 16 (4096 - hi) = 16 := by omega
    refine (if_pos hroom).trans ?_
    simp only [q, hi] at hn
    rw [hn]
    have hdrop (l : List W64) (hl : l.length = 16) : (q.buf ++ l).length - 32 = 0 := by
      rw [List.length_append]
      omega
    rw [hdrop _ (by simp)]
    rfl

/-- Settles O13: `HALT` halts the core, and the fetch appends the next 16 words. -/
theorem haltAndFetch : Obligations.HaltAndFetch := ⟨haltStopsTheCore, instructionFetchFillsTheBuffer⟩

/-! ## Faults of a core (O16) -/

theorem firstFaultIsKept : Claim.FirstFaultIsKept := by
  intro s c code pc q t
  refine ⟨by simp [t, q], fun k hk => s.coreFault_seq_other hk.symm _ _, by simp [t, coreFault, whistleSend], ?_⟩
  simp only [t, coreFault_seq_same]
  rfl

@[simp] theorem Group.finish_base (g : Group) (no gen n d : Nat) : (g.finish no gen n d).base = g.base := rfl
@[simp] theorem Group.finish_faulted (g : Group) (no gen n d : Nat) : (g.finish no gen n d).faulted = g.faulted := rfl
@[simp] theorem Group.finish_work (g : Group) (no gen n d : Nat) : (g.finish no gen n d).work = g.work := rfl
@[simp] theorem Group.finish_stack (g : Group) (no gen n d : Nat) : (g.finish no gen n d).stack = g.stack := rfl

theorem Group.fault_keeps {γ : Type} (p : Group → γ) (h : ∀ g no gen n d, p (Group.finish g no gen n d) = p g) (g : Group) (d : Nat) :
    p (g.fault d) = p { g with faulted := true, work := [] } :=
  foldl_keeps p (f := fun (g : Group) (w : Work) => g.finish w.no w.gen 1 d) (fun _ _ _ => h _ _ _ _ _) _

theorem Acc.group_base {a : Acc} {base : Nat} {g : Group} (h : a.group base = some g) : g.base = base := by
  simpa using List.find?_some h

/-- A group replaced in its accumulator is the group found under its base. -/
theorem Acc.group_setGroup_same {a : Acc} {base : Nat} {g h : Group} (hg : a.group base = some g) (hbase : h.base = g.base) :
    (a.setGroup h).group base = some h := by
  have hgb := Acc.group_base hg
  unfold Acc.group Acc.setGroup at *
  rw [List.find?_map]
  have hcomp : ((fun x : Group => decide (x.base = base)) ∘ fun x => if x.base = h.base then h else x) = fun x => decide (x.base = base) := by
    funext x
    by_cases hx : x.base = base <;> simp [hx, hbase, hgb]
  rw [hcomp, hg, Option.map_some, if_pos hbase.symm]

theorem State.group_setGroup_same {s : State} {c base : Nat} {g h : Group} (hg : s.group c base = some g) (hbase : h.base = g.base) :
    (s.setGroup c h).group c base = some h := by
  rw [group, setGroup, setAcc_acc_same]
  exact Acc.group_setGroup_same hg hbase

@[simp] theorem State.coreFault_acc (s : State) (c : Nat) (code : BitVec 4) (pc : BitVec 12) (k : Nat) :
    (s.coreFault c code pc).acc k = s.acc k := rfl

@[simp] theorem State.setGroup_seq (s : State) (c k : Nat) (g : Group) : (s.setGroup c g).seq k = s.seq k := rfl
@[simp] theorem State.setGroup_sums (s : State) (c : Nat) (g : Group) : (s.setGroup c g).sums = s.sums := rfl

/-- The sequencer with an accumulator fault in ACC_FAULT. -/
def Seq.accFault (q : Seq) (code : BitVec 4) (base no : Nat) : Seq :=
  { q with
    aCount := min (q.aCount + 1) 255, aValid := true, aPass := if q.aValid then q.aPass else BitVec.ofNat 8 no,
    aSlot := if q.aValid then q.aSlot else BitVec.ofNat 3 base, aCode := if q.aValid then q.aCode else code }

/-- An accumulator fault in the fault registers and the sums, before its group is marked. -/
def State.noteAccFault (s : State) (c : Nat) (code : BitVec 4) (base no : Nat) (pc : BitVec 12) : State :=
  ({ s.setSeq c ((s.seq c).accFault code base no) with sums := { s.sums with accFault := s.sums.accFault + 1 } } : State).coreFault c 1 pc

section
variable (s : State) (c : Nat) (code : BitVec 4) (base no : Nat) (pc : BitVec 12)

theorem State.accFault_of_group {g : Group} (hcode : code ≠ 1) (hg : s.group c base = some g) :
    s.accFault c code base no pc = (s.noteAccFault c code base no pc).setGroup c (g.fault s.now) := by
  refine (if_neg hcode).trans ?_
  have hg' : (s.noteAccFault c code base no pc).group c base = some g := hg
  unfold noteAccFault at hg' ⊢
  split
  · next hnone => exact absurd (hnone.symm.trans hg') (by simp)
  · next g' hsome =>
    obtain rfl : g' = g := Option.some.inj (hsome.symm.trans hg')
    rfl

/-- Marking a group changes no register. -/
theorem State.accFault_seq (k : Nat) : (s.accFault c code base no pc).seq k = (s.noteAccFault c code base no pc).seq k := by
  unfold accFault noteAccFault
  dsimp only
  split
  · rfl
  · split <;> rfl

theorem State.accFault_sums : (s.accFault c code base no pc).sums = { s.sums with accFault := s.sums.accFault + 1 } := by
  unfold accFault
  dsimp only
  split
  · rfl
  · split <;> rfl

theorem State.noteAccFault_seq_same : (s.noteAccFault c code base no pc).seq c =
    { (s.seq c).accFault code base no with
      fCount := min ((s.seq c).fCount + 1) 255, fValid := true, fPc := if (s.seq c).fValid then (s.seq c).fPc else pc,
      fCode := if (s.seq c).fValid then (s.seq c).fCode else 1 } := by
  rw [noteAccFault, coreFault_seq_same]
  have h (t : State) (m : Sums) : ({ t with sums := m } : State).seq c = t.seq c := rfl
  rw [h, setSeq_seq_same]
  rfl

end

theorem accumulatorFault : Claim.AccumulatorFault := by
  intro s k code base no pc q t
  have hseq : t.seq k = _ := (s.accFault_seq k code base no pc k).trans (s.noteAccFault_seq_same k code base no pc)
  refine ⟨by rw [hseq]; rfl, by rw [hseq]; rfl, fun h => ?_, fun h => ?_, by rw [hseq], fun h => ?_, ?_, s.accFault_mem _ _ _ _ _, fun h => ?_,
    fun g hcode hg => ⟨g.fault s.now, ?_, ?_, ?_, ?_, fun hw => ?_⟩⟩
  · rw [hseq]
    simp [Seq.accFault, show (s.seq k).aValid = false from h]
  · rw [hseq]
    simp [Seq.accFault, q, show (s.seq k).aValid = true from h]
  · rw [hseq]
    simp [show (s.seq k).fValid = false from h]
  · exact congrArg Sums.accFault (s.accFault_sums k code base no pc)
  · subst h
    rfl
  · simp only [t, s.accFault_of_group k code base no pc hcode hg]
    refine group_setGroup_same (g := g) hg ?_
    exact Group.fault_keeps Group.base (fun _ _ _ _ _ => rfl) g s.now
  · exact Group.fault_keeps Group.faulted (fun _ _ _ _ _ => rfl) g s.now
  · exact Group.fault_keeps Group.work (fun _ _ _ _ _ => rfl) g s.now
  · exact Group.fault_keeps Group.stack (fun _ _ _ _ _ => rfl) g s.now
  · unfold Group.fault
    rw [hw]
    rfl

/-- Settles O16: a fault writes the fault registers of its core, sends its notice and, for a group, ends the group's work. -/
theorem faultsOfACore : Obligations.FaultsOfACore := ⟨firstFaultIsKept, accumulatorFault⟩

end Sys2Proof.Machine

end

section
/-! PROOFS. O8, O9, O15: the core-local space, bundles and work counters. -/

namespace Sys2Proof.Machine

open State

/-! ## Arrivals on a Cairn channel -/

theorem mwProgress_of_local {s : State} {ch : BitVec 4} (h : mwOn (s.cairnCh ch.toNat) = false) : s.mwProgress ch = s := by
  simp [mwProgress, h]

theorem allArrived_iff (k : CairnCh) : allArrived k = true ↔ ∀ c ∈ k.parts, ∃ x ∈ k.arrived, x.core = c := by
  simp [allArrived]

/-- A participant that has not arrived joins the barrier (R268). -/
theorem joinBarrier_of_new {s : State} {ch : BitVec 4} {a : Arrival}
    (hnew : ((s.cairnCh ch.toNat).arrived.any fun x => x.core = a.core) = false) :
    s.joinBarrier ch a = (s.setCairn ch.toNat ((s.cairnCh ch.toNat).joined a)).mwProgress ch := by
  unfold joinBarrier CairnCh.joined
  simp only [hnew, Bool.false_and, Bool.false_eq_true, if_false]
  refine congrArg (fun k => (s.setCairn ch.toNat k).mwProgress ch) ?_
  generalize s.cairnCh ch.toNat = k
  simp only [mwOn, allArrived, Bool.or_eq_true, Bool.and_eq_true, Bool.not_eq_true', List.all_eq_true, List.any_eq_true,
    decide_eq_true_eq, or_assoc]

@[simp] theorem State.setSeq_opensTo (s : State) (c : Nat) (q : Seq) (ch : BitVec 4) (k : Nat) :
    (s.setSeq c q).opensTo ch k = s.opensTo ch k := rfl
@[simp] theorem State.setBnd_opensTo (s : State) (c : Nat) (b : Bnd) (ch : BitVec 4) (k : Nat) :
    (s.setBnd c b).opensTo ch k = s.opensTo ch k := rfl

/-- An arrival on a channel that is open to its core joins the barrier. -/
theorem arrive_of_open {s : State} {ch : BitVec 4} {a : Arrival} (h : s.opensTo ch a.core = true) :
    s.arrive ch a = (s.setCairn ch.toNat ((s.cairnCh ch.toNat).joined a)).mwProgress ch := by
  simp only [opensTo, Bool.and_eq_true, Bool.not_eq_true'] at h
  obtain ⟨⟨hdead, hdue⟩, hnew⟩ := h
  simp only [arrive, hdue, hdead, Bool.false_and, Bool.false_eq_true, if_false]
  exact joinBarrier_of_new hnew

/-- On a channel of this module alone an arrival does no more than join. -/
theorem arrive_of_open_local {s : State} {ch : BitVec 4} {a : Arrival} (h : s.opensTo ch a.core = true)
    (hmw : mwOn (s.cairnCh ch.toNat) = false) :
    s.arrive ch a = s.setCairn ch.toNat ((s.cairnCh ch.toNat).joined a) := by
  rw [arrive_of_open h, mwProgress_of_local]
  rw [setCairn_cairnCh_same]
  exact hmw

/-! ## Bundles (O9) -/

theorem bundleOpens : Claim.BundleOpens := by
  intro s c pwp ch k b hpc h
  refine ⟨fun hb => ?_, fun hb => ?_⟩
  · have hb' : ¬ (s.bnd c.toNat).isOpen = true := by simpa using hb
    refine Eq.trans ?_ (issue_ready s c (.bopen c pwp ch) (s.setBnd k { b with isOpen := true, ch := ch, pwp := pwp, acts := [], parcels := 0, cause := 0, status := 0 }) h hpc)
    exact congrArg (fun t => s.issue c (.bopen c pwp ch) true t) (if_neg hb')
  · refine Eq.trans ?_ (issue_ready s c (.bopen c pwp ch) (s.setBnd k { b with cause := b.cause ||| 0x0080 }) h hpc)
    exact congrArg (fun t => s.issue c (.bopen c pwp ch) true t) ((if_pos hb).trans (if_pos hb))

theorem bundledStore : Claim.BundledStore := by
  intro s c f q b hpc hb h cause
  have hcause : (if 64 < (b.acts ++ [BAct.sts (localAddr q f) (q.reg f.rd)]).length ∨ 512 < b.parcels + 1 then b.cause ||| causeOverflow
      else b.cause) = cause := by
    simp only [List.length_append, List.length_singleton, Nat.lt_succ_iff]
    rfl
  have hadd : s.addAction c.toNat (.sts (localAddr q f) (q.reg f.rd)) 1 = s.setBnd c.toNat
      { b with acts := b.acts ++ [.sts (localAddr q f) (q.reg f.rd)], parcels := b.parcels + 1, cause := cause } := by
    rw [← hcause]
    rfl
  rw [← hadd]
  refine Eq.trans ?_ (issue_ready s c (.sts c true f) _ h (by rw [hadd]; exact hpc))
  exact congrArg (fun t => s.issue c (.sts c true f) true t) (if_pos hb)

/-- A vote with a bundle open arrives on its channel with the causes found (R197). -/
theorem closeVote_of_open {s : State} {c : CoreId} {i : Instr} {rd : BitVec 4} {explicit cause : W16} {own : Bool}
    (h : s.canIssue c i = true) (hb : (s.bnd c.toNat).isOpen = true) (hdrained : (s.bnd c.toNat).drained = true)
    (hopen : s.opensTo (s.bnd c.toNat).ch c.toNat = true) (hmw : mwOn (s.cairnCh (s.bnd c.toNat).ch.toNat) = false)
    (hf : (s.seq c.toNat).fValid = false) (hstop : (s.seq c.toNat).stop = false)
    (hcause : (s.bnd c.toNat).cause ||| explicit = cause)
    (hown : (decide (cause &&& ~~~causePoison ≠ 0) || (decide (cause &&& causePoison ≠ 0) && !((s.bnd c.toNat).pwp && s.poisonCommit))) = own) :
    s.closeVote c i rd explicit = .next (((s.setBnd c.toNat { s.bnd c.toNat with cause := cause }).setSeq c.toNat
      { s.seq c.toNat with wait := .vote (s.bnd c.toNat).ch rd, st := 2 }).setCairn (s.bnd c.toNat).ch.toNat
        ((s.cairnCh (s.bnd c.toNat).ch.toNat).joined
          { core := c.toNat, at_ := s.now, pc := (s.seq c.toNat).pc, csig := false, cbar := false, fault := false, stop := false,
            abort := own })) := by
  refine (if_pos hb).trans ?_
  have hc : (s.bnd c.toNat).cause ||| explicit ||| (if (s.seq c.toNat).fValid = true then causeFault else 0) = cause := by
    rw [hf, if_neg Bool.false_ne_true, ← hcause]
    exact BitVec.or_zero
  simp only [hc, hown, hdrained, arrival]
  rw [issueTo_ready s c i _ h, arrive_of_open_local (by simpa using hopen) (by simpa using hmw)]
  simp [hf, hstop]

theorem bundleVotes : Claim.BundleVotes := by
  intro s c rd k q b arrives hb hdrained hopen hmw hf hstop
  refine ⟨fun h hc => ?_, fun h hc hpwp hpol => ?_, fun h hc hno => ?_, fun h => ?_⟩
  · exact closeVote_of_open h hb hdrained hopen hmw hf hstop (by rw [hc]; rfl) (by simp)
  · exact closeVote_of_open h hb hdrained hopen hmw hf hstop (by rw [hc]; rfl) (by simp [causePoison, show (s.bnd c.toNat).pwp = true from hpwp, hpol])
  · have hno' : ((s.bnd c.toNat).pwp && s.poisonCommit) = false := Bool.and_eq_false_iff.mpr hno
    exact closeVote_of_open h hb hdrained hopen hmw hf hstop (by rw [hc]; rfl) (by rw [hno']; simp [causePoison])
  · refine closeVote_of_open h hb hdrained hopen hmw hf hstop rfl ?_
    have hbit : (b.cause ||| causeExplicit) &&& ~~~causePoison ≠ 0 := by
      intro h0
      have := congrArg (fun x : W16 => x.getLsbD 5) h0
      simp [causeExplicit, causePoison] at this
    rw [show (s.bnd c.toNat).cause ||| 0x0020 = b.cause ||| causeExplicit from rfl, decide_eq_true hbit, Bool.true_or]

/-- A bundle and a sequencer are set in either order. -/
theorem State.setBnd_setSeq (s : State) (c k : Nat) (q : Seq) (b : Bnd) : (s.setSeq c q).setBnd k b = (s.setBnd k b).setSeq c q := rfl

theorem noBundleToClose : Claim.NoBundleToClose := by
  intro s c rd k q b hpc hb hf hstop
  have hclose (i : Instr) (explicit : W16) (h : s.canIssue c i = true) : s.closeVote c i rd explicit =
      .next ((s.setBnd k { b with lastCause := 8 }).setSeq k (q.writes s.now rd 0x0608)) := by
    refine (if_neg (by simpa using hb)).trans ?_
    have hmarked : ((s.seq c.toNat).fValid || (s.seq c.toNat).stop) = false := by rw [show (s.seq c.toNat).fValid = false from hf, show (s.seq c.toNat).stop = false from hstop]; rfl
    simp only [hmarked]
    refine (issueTo_ready s c i _ h).trans ?_
    rw [if_neg Bool.false_ne_true, advance_eq _ _ (by simpa [setReg, Seq.setReg] using hpc)]
    rw [goesOn, setReg, setBnd_setSeq, setSeq_setSeq]
    simp [Seq.setReg, Seq.goesOn, Seq.writes, q, b, k]
  exact ⟨hclose _ _, hclose _ _⟩

/-- Settles O9: a vote is an arrival on the bundle's channel. -/
theorem bundlesHold : Obligations.BundlesHold := ⟨bundleOpens, bundledStore, bundleVotes, noBundleToClose⟩

/-! ## Work counters (O15) -/

theorem setWidth_toNat_low (v : W64) : (v.truncate 32).toNat = v.toNat % 2 ^ 32 := BitVec.toNat_setWidth ..

theorem setWidth_toNat_high (v : W64) : ((v >>> 32).truncate 32).toNat = v.toNat / 2 ^ 32 := by
  have := v.isLt
  rw [BitVec.truncate_eq_setWidth, BitVec.toNat_setWidth, BitVec.toNat_ushiftRight, Nat.shiftRight_eq_div_pow]
  omega

theorem ticketsLeaveTheCore : Claim.TicketsLeaveTheCore := by
  intro s c rd ra clr ia ctr q k
  have hk : k < 64 := Nat.mod_lt _ (by decide)
  refine ⟨fun h hstrict hpc => ?_, fun h hrelaxed => ?_, fun h hpc => ⟨_, _, _, issue_ready s c _ _ h hpc, setWidth_toNat_low _, setWidth_toNat_high _, ?_⟩⟩
  · exact (if_pos hstrict).trans (issue_ready s c _ _ h (by rw [coreFault_pc]; exact hpc))
  · exact (if_neg (by simp [hrelaxed])).trans (issueTo_ready s c _ _ h)
  · have hc := c.isLt
    have hlt : k + (if clr then 64 else 0) + 128 * c.toNat < 2 ^ 32 := by
      split <;> omega
    exact (BitVec.toNat_ofNat _ _).trans (Nat.mod_eq_of_lt hlt)

/-- The first message by the home's order is one of the list's and precedes every other. -/
theorem firstServed_spec {l : List WMsg} {m : WMsg} (h : firstServed l = some m) : m ∈ l ∧ ∀ x ∈ l, m.order ≤ x.order := by
  induction l generalizing m with
  | nil => cases h
  | cons a l ih =>
    unfold firstServed at h
    split at h
    · next hnone =>
      obtain rfl := Option.some.inj h
      have hl : l = [] := by
        cases l with
        | nil => rfl
        | cons b l =>
          unfold firstServed at hnone
          split at hnone
          · cases hnone
          · split at hnone <;> cases hnone
      simp [hl]
    · next x hx =>
      obtain ⟨hmem, hle⟩ := ih hx
      split at h
      · next hlt =>
        obtain rfl := Option.some.inj h
        exact ⟨List.mem_cons_of_mem _ hmem, List.forall_mem_cons.mpr ⟨hlt.le, hle⟩⟩
      · next hge =>
        obtain rfl := Option.some.inj h
        exact ⟨List.mem_cons_self, List.forall_mem_cons.mpr ⟨le_rfl, fun y hy => (not_lt.mp hge).trans (hle y hy)⟩⟩

/-- The message that is served next, among those that wait for the counter. -/
theorem nextServed_spec {s : State} {k : BitVec 6} {m : WMsg} (h : s.nextServed k = some m) :
    (m.typ = 2 ∨ m.typ = 4) ∧ ∀ x ∈ s.boxOf (counterHome k.toNat).toNat, (x.typ = 2 ∨ x.typ = 4) → x.ctr = k.toNat → x.at_ < s.now →
      m.order ≤ x.order := by
  obtain ⟨hmem, hle⟩ := firstServed_spec h
  simp only [List.mem_filter, Bool.and_eq_true, Bool.or_eq_true, decide_eq_true_eq] at hmem hle
  obtain ⟨-, ⟨htyp, -⟩, -⟩ := hmem
  exact ⟨htyp, fun x hx ht hc ha => hle x ⟨hx, ⟨ht, hc⟩, ha⟩⟩

theorem ticketsServedInOrder : Claim.TicketsServedInOrder := by
  intro s k m x h hx ht hc ha
  obtain ⟨hm, hle⟩ := nextServed_spec h
  have hle := hle x hx ht hc ha
  have hms := m.src.isLt
  have hxs := x.src.isLt
  unfold WMsg.order at hle
  obtain hm | hm := hm <;> obtain ht | ht := ht <;> simp [hm, ht] at hle ⊢ <;> omega

theorem workCountersServe : Claim.WorkCountersServe := by
  intro s k m h w home u
  refine ⟨fun htyp hlt => ?_, fun htyp hlt => ?_, fun htyp => ?_⟩
  · change execTktServe k s = _
    unfold execTktServe
    rw [h]
    refine (if_neg (not_not_intro htyp)).trans ((if_pos hlt).trans ?_)
    rfl
  · change execTktServe k s = _
    unfold execTktServe
    rw [h]
    exact (if_neg (not_not_intro htyp)).trans (if_neg hlt)
  · change execTktsetServe k s = _
    unfold execTktsetServe
    rw [h]
    exact if_neg (not_not_intro htyp)

/-- Settles O15: the home's order compares arrival steps, then the kind, then the core. -/
theorem workCounters : Obligations.WorkCounters := ⟨ticketsLeaveTheCore, workCountersServe, ticketsServedInOrder⟩

/-! ## Bytes of words and parcels -/

theorem leBytes_getD (n x : Nat) {i : Nat} (hi : i < n) : ((leBytes n x).getD i 0).toNat = x / 256 ^ i % 256 := by
  induction n generalizing x i with
  | zero => omega
  | succ n ih =>
    cases i with
    | zero => simp [leBytes]
    | succ i =>
      rw [leBytes, List.getD_cons_succ, ih _ (by omega), Nat.div_div_eq_div_mul, ← Nat.pow_succ']

theorem extractByte_toNat {n : Nat} (x : BitVec n) (i : Nat) : (x.extractLsb' (8 * i) 8).toNat = x.toNat / 256 ^ i % 256 := by
  rw [BitVec.extractLsb'_toNat, Nat.shiftRight_eq_div_pow, Nat.pow_mul]

theorem bytesParcel_byte (bs : List Byte) {i : Nat} (hi : i < 32) : (bytesParcel bs).extractLsb' (8 * i) 8 = bs.getD i 0 := by
  apply BitVec.eq_of_toNat_eq
  have hlt : leNat (bs.take 32) < 2 ^ 256 :=
    (leNat_lt _).trans_le (Nat.pow_le_pow_right (by decide : 0 < 256) (List.length_take_le _ _))
  rw [extractByte_toNat, bytesParcel, BitVec.toNat_ofNat, Nat.mod_eq_of_lt hlt, leNat_byte]
  simp [List.getD, hi]

theorem parcelBytes_getD (d : BitVec 256) {i : Nat} (hi : i < 32) : (parcelBytes d).getD i 0 = d.extractLsb' (8 * i) 8 := by
  apply BitVec.eq_of_toNat_eq
  rw [parcelBytes, leBytes_getD 32 _ hi, extractByte_toNat]

@[simp] theorem parcelBytes_length (d : BitVec 256) : (parcelBytes d).length = 32 := leBytes_length 32 _

/-- A parcel with the bytes of a list put in at a place. -/
def spliceParcel (d : BitVec 256) (at_ : Nat) (bs : List Byte) : BitVec 256 :=
  bytesParcel ((parcelBytes d).take at_ ++ bs ++ (parcelBytes d).drop (at_ + bs.length))

theorem spliceParcel_byte_in (d : BitVec 256) {at_ i : Nat} {bs : List Byte} (hfit : at_ + bs.length ≤ 32) (hi : i < bs.length) :
    (spliceParcel d at_ bs).extractLsb' (8 * (at_ + i)) 8 = bs.getD i 0 := by
  have hlen : ((parcelBytes d).take at_).length = at_ := by
    rw [List.length_take, parcelBytes_length]
    omega
  rw [spliceParcel, bytesParcel_byte _ (by omega), List.append_assoc]
  simp only [List.getD]
  rw [List.getElem?_append_right (by omega), hlen, Nat.add_sub_cancel_left, List.getElem?_append_left hi]

theorem spliceParcel_byte_out (d : BitVec 256) {at_ i : Nat} {bs : List Byte} (hfit : at_ + bs.length ≤ 32) (hi : i < 32)
    (hout : i < at_ ∨ at_ + bs.length ≤ i) : (spliceParcel d at_ bs).extractLsb' (8 * i) 8 = d.extractLsb' (8 * i) 8 := by
  have hlen : ((parcelBytes d).take at_).length = at_ := by
    rw [List.length_take, parcelBytes_length]
    omega
  rw [spliceParcel, bytesParcel_byte _ hi, ← parcelBytes_getD d hi]
  simp only [List.getD]
  obtain hlo | hhi := hout
  · rw [List.append_assoc, List.getElem?_append_left (by omega), List.getElem?_take_of_lt hlo]
  · rw [List.getElem?_append_right (by simp [hlen]; omega), List.getElem?_drop]
    congr 3
    simp [hlen]
    omega

/-! ## The core-local space (O8) -/

theorem localAddr_dvd (q : Seq) (f : Scalar) : 8 ∣ localAddr q f := Dvd.intro_left _ rfl

/-- A word of the core store lies within one parcel. -/
theorem coreAddr_localAddr_mod (c : Nat) (q : Seq) (f : Scalar) : coreAddr c (localAddr q f) % 32 + 8 ≤ 32 := by
  have h := localAddr_dvd q f
  unfold coreAddr
  omega

theorem loadsOfTheLocalSpace : Claim.LoadsOfTheLocalSpace := by
  intro s c f q a k hpc h
  refine ⟨s.loadLocal c.toNat a (s.controlReg c.toNat), scalar_eq s c _ f.rd _ h hpc, fun ha hheld hp i hi => ?_, fun ha hheld hp => ?_,
    fun p ha hheld => ⟨fun hp i hi => ?_, fun hp => ?_⟩, fun ha ha' => ?_, fun ha => ?_⟩
  · have hload : s.loadLocal c.toNat a (s.controlReg c.toNat) = BitVec.ofNat 64 (leNat (s.mem.bytesAt k 8)) := by
      rw [loadLocal, if_pos ha, loadWord]
      rw [show s.heldAt none (coreAddr c.toNat a / 32 * 32) = none from hheld]
      exact if_neg (by simpa using hp)
    rw [hload, word_byte s.mem k hi]
  · rw [loadLocal, if_pos ha, loadWord]
    rw [show s.heldAt none (coreAddr c.toNat a / 32 * 32) = none from hheld]
    exact if_pos hp
  · have hload : s.loadLocal c.toNat a (s.controlReg c.toNat) = BitVec.ofNat 64 (p.data.toNat >>> (8 * (k % 32))) := by
      rw [loadLocal, if_pos ha, loadWord]
      rw [show s.heldAt none (coreAddr c.toNat a / 32 * 32) = some p from hheld]
      exact if_neg (by simp [hp])
    have hbyte : ∀ n : Nat, n % 2 ^ 64 / 256 ^ i % 256 = n / 256 ^ i % 256 := by
      intro n
      have h64 : (2 : Nat) ^ 64 = 256 ^ i * 256 ^ (8 - i) := by
        rw [← Nat.pow_add, show i + (8 - i) = 8 by omega]
        rfl
      rw [h64, Nat.mod_mul_right_div_self, Nat.mod_mod_of_dvd _ (dvd_pow_self 256 (by omega))]
    rw [hload, BitVec.toNat_ofNat, hbyte, extractByte_toNat, Nat.shiftRight_eq_div_pow, Nat.pow_mul, Nat.div_div_eq_div_mul, ← Nat.pow_add]
  · rw [loadLocal, if_pos ha, loadWord]
    rw [show s.heldAt none (coreAddr c.toNat a / 32 * 32) = some p from hheld]
    exact if_pos hp
  · rw [loadLocal, if_neg (by omega), if_pos ha']
  · rw [loadLocal, if_neg (by omega), if_neg (by omega)]

/-- Past its named registers the control block has the engines' and the view of the scalar registers. -/
theorem controlReg_of_ge (s : State) (c : Nat) {off : Nat} (h : 0x70 ≤ off) : s.controlReg c off =
    if 0x100 ≤ off ∧ off < 0x140 ∧ off % 8 = 0 then (s.eng c ((off - 0x100) / 8)).statReg
    else if 0x200 ≤ off ∧ off < 0x280 ∧ off % 8 = 0 then (s.seq c).view ((off - 0x200) / 8)
    else 0 := by
  unfold controlReg
  split
  case h_15 => rfl
  all_goals omega

theorem controlBlockReads : Claim.ControlBlockReads := by
  intro s c q r n
  have hbn (b : Bool) : bn b = n b := rfl
  refine ⟨rfl, rfl, rfl, rfl, rfl, rfl, rfl, rfl, rfl, rfl, rfl, rfl, fun e he => ?_, fun i => ?_, fun off hoff => ?_⟩
  · rw [show r = s.controlReg c from rfl, controlReg_of_ge s c (by omega), if_pos (by omega)]
    congr 2
    omega
  · have hi := i.isLt
    rw [show r = s.controlReg c from rfl, controlReg_of_ge s c (by omega), if_neg (by omega), if_pos (by omega)]
    have hidx : (0x200 + 8 * i.toNat - 0x200) / 8 = i.toNat := by omega
    rw [hidx, Seq.view, BitVec.ofNat_toNat, BitVec.setWidth_eq]
    simp [q]
  · rw [show r = s.controlReg c from rfl, controlReg_of_ge s c (by omega), if_neg (by omega), if_neg (by omega)]

/-- Outside the list ranges no store waits for the hold. -/
theorem storeStalls_of_not_listRange {s : State} {c a : Nat} (h : s.inListRange (coreAddr c a / 32 * 32) = false) :
    s.storeStalls c a = false := by
  simp [storeStalls, holdFull, h]

/-- STS without BM stores where its hold has room, and goes on. -/
theorem execSts_of_room {s : State} {c : CoreId} {f : Scalar} (h : s.canIssue c (.sts c false f) = true)
    (hroom : s.storeStalls c.toNat (localAddr (s.seq c.toNat) f) = false)
    {t : State} (ht : s.storeLocal c.toNat (localAddr (s.seq c.toNat) f) ((s.seq c.toNat).reg f.rd) = t) (hpc : (t.seq c.toNat).pc ≠ 4095) :
    exec (.sts c false f) s = .next (t.goesOn c) := by
  refine Eq.trans ?_ (issue_ready s c (.sts c false f) t h hpc)
  change s.issue c _ (false || !s.storeStalls c.toNat (localAddr (s.seq c.toNat) f)) (s.storeLocal c.toNat _ _) = _
  rw [hroom, ht]
  rfl

theorem storesOfTheLocalSpace : Claim.StoresOfTheLocalSpace := by
  intro s c f q a k hpc h
  refine ⟨fun hlo hhi hlist hp => ⟨s.mem.patch k (leBytes 8 (q.reg f.rd).toNat), ?_, fun i hi => ?_, fun x hx => ?_⟩,
    fun hlo hhi hlist hp => ?_, fun ha => ?_, fun ha => ?_⟩
  · refine execSts_of_room h (storeStalls_of_not_listRange hlist) ?_ hpc
    rw [storeLocal, if_neg (Nat.not_lt.mpr hlo), if_pos hhi, storeWord]
    exact if_neg (by simpa using hlist)
  · rw [Memory.patch, if_neg (by simpa using hp), Memory.setSide_byte, Memory.setBytes_byte _ _ _ _ (by simpa using hi), leBytes_getD 8 _ hi]
  · exact Memory.patch_byte_other _ _ _ _ (by simpa using hx)
  · refine execSts_of_room h (storeStalls_of_not_listRange hlist) ?_ hpc
    rw [storeLocal, if_neg (Nat.not_lt.mpr hlo), if_pos hhi, storeWord]
    refine (if_neg (by simpa using hlist)).trans ?_
    rw [Memory.patch, if_pos hp]
    rfl
  · refine execSts_of_room h ?_ (if_pos ha) hpc
    simp [storeStalls, show ¬ 0x8000 ≤ localAddr (s.seq c.toNat) f from Nat.not_le.mpr ha]
  · refine execSts_of_room h ?_ ?_ hpc
    · simp [storeStalls, show ¬ localAddr (s.seq c.toNat) f < 0x40000 from Nat.not_lt.mpr ha]
    · rw [storeLocal, if_neg (Nat.not_lt.mpr (Nat.le_trans (by decide) ha)), if_neg (Nat.not_lt.mpr ha)]

theorem storesIntoListRanges : Claim.StoresIntoListRanges := by
  intro s c f q a k at_ old hpc h hlo hhi hlist
  have hfit : at_ + (leBytes 8 (q.reg f.rd).toNat).length ≤ 32 := coreAddr_localAddr_mod c.toNat q f
  refine ⟨fun hlen => ⟨if old.poison then poisonedParcel k else
      { old with data := spliceParcel old.data at_ (leBytes 8 (q.reg f.rd).toNat), check := checkOf (spliceParcel old.data at_ (leBytes 8 (q.reg f.rd).toNat)) k },
      ?_, ?_, fun hp => ⟨fun i hi => ?_, fun i hi hout => ?_⟩⟩, fun hlen => ?_⟩
  · refine execSts_of_room h ?_ ?_ hpc
    · simp [storeStalls, holdFull, Nat.not_le.mpr hlen]
    · rw [storeLocal, if_neg (Nat.not_lt.mpr hlo), if_pos hhi, storeWord]
      exact (if_pos hlist).trans rfl
  · by_cases hp : old.poison = true
    · rw [if_pos hp, hp]
      rfl
    · rw [if_neg hp]
  · rw [if_neg (by simp [hp])]
    dsimp only
    rw [spliceParcel_byte_in _ hfit (by simpa using hi), leBytes_getD 8 _ hi]
  · rw [if_neg (by simp [hp])]
    dsimp only
    exact spliceParcel_byte_out _ hfit hi (by simpa using hout)
  · refine Eq.trans ?_ (issue_waits s c (.sts c false f) s h)
    have hstall : s.storeStalls c.toNat (localAddr (s.seq c.toNat) f) = true := by
      have h1 : (0x8000 ≤ localAddr (s.seq c.toNat) f ∧ localAddr (s.seq c.toNat) f < 0x40000) := ⟨hlo, hhi⟩
      have h2 : s.inListRange (coreAddr c.toNat (localAddr (s.seq c.toNat) f) / 32 * 32) = true := hlist
      simp [storeStalls, holdFull, h1, h2, hlen]
    change s.issue c _ (false || !s.storeStalls c.toNat (localAddr (s.seq c.toNat) f)) _ = _
    rw [hstall]
    simp [issue, h]

/-- Settles O8: a word lies within one parcel, and a byte of it is a byte of the parcel. -/
theorem localSpace : Obligations.LocalSpace :=
  ⟨loadsOfTheLocalSpace, controlBlockReads, storesOfTheLocalSpace, storesIntoListRanges⟩

end Sys2Proof.Machine

end

section
/-! PROOFS. O17: PASS over an EMPTY tile goes on at once where its group number names no group of the eight. -/

namespace Sys2Proof.Machine

open State

/-- PASS over an EMPTY tile, with an open group of its form: its leaf of zeros enters, and the sequencer goes on. -/
theorem execPass_of_empty {s : State} {c : CoreId} {f : PassF} {g : Group} {tl : Tile} {base : Nat}
    (hbase : fieldOr (s.seq c.toNat) f.ia f.grp = base) (hcan : s.canIssue c (.pass c f) = true)
    (hvec : s.vecEntering c.toNat base = false) (htile : (s.arr c.toNat).tile (s.arr c.toNat).lastTid = some tl)
    (hempty : tl.empty = true) (hroom : (s.arr c.toNat).passes.length < 4) (hslots : base < (s.acc c.toNat).slots)
    (hg : s.group c.toNat base = some g)
    (hint : ∀ act, passInteger act (some tl) g.integer = g.integer) (hidle : g.inflight = [])
    (hreads : s.drainReads c.toNat base g.gen = false) (hat : g.emptyAt ≤ s.now) :
    ∃ t : State, exec (.pass c f) s = .next (t.goTo c.toNat ((s.seq c.toNat).pc.toNat + 1) (1 + if base = 8 then 0 else chainSteps g.nextNo)) := by
  have hnamed : s.namedGroup c.toNat base = (s, some g) := by
    rw [namedGroup, if_neg (Nat.not_le.mpr hslots), hg]
  change ∃ t : State, execPass c f s = _
  unfold execPass
  have hg' : (s.acc c.toNat).group base = some g := hg
  have hform : formBad tl f.shape = false := by simp [formBad, hempty]
  simp only [hbase, hnamed, htile, hempty, hint, hform, hvec, hidle, hreads, hat, hroom, hg', Option.elim_some, Bool.true_or, if_true,
    bne_self_eq_false, Bool.false_eq_true, if_false, Option.isSome_some, Bool.not_false, Bool.and_true, decide_true, List.isEmpty_nil]
  exact ⟨_, issueTo_ready s c _ _ hcan⟩

/-- Going on after other steps leaves another state. -/
theorem goTo_steps_inj {s t : State} {c i a b : Nat} (hi : i < 4096) (h : s.goTo c i a = t.goTo c i b) : a = b := by
  rw [goTo_eq _ _ _ _ hi, goTo_eq _ _ _ _ hi] at h
  have hnow : s.now = t.now := by simpa using congrArg State.now h
  have hissue : s.now + a = t.now + b := by simpa [Seq.jumps] using congrArg (fun u : State => (u.seq c).nextIssue) h
  omega

/-- A PASS whose group number comes from register 1. -/
def indirectPass : PassF :=
  { ia := true, ib := false, shape := 0, tcode := 0, piece := 0, part := false, grp := 1, cplx := false, astride := 0, block := 0 }

def emptyTile : Tile :=
  { tid := 0, addr := 0, form := 0, etype := 4, wexp := 0, whalf := false, scales := [], scalePoison := [], empty := true, bad := false,
    slotFault := false, used := false }

/-- The open group of number 8, whose pass 1 is next. -/
def ninthGroup : Group := { newGroup Acc.reset 8 1 false 0 with nextNo := 1 }

/-- Core 0 has nine slots and its group 8 open, and issues a PASS to it over an EMPTY tile. -/
def ninthGroupState : State :=
  ((State.reset.setSeq 0 { Seq.reset with sreg := Seq.reset.sreg.set 1 8, buf := [0x1140004000000000], st := 1 }).setArr 0
    { Arr.reset with tiles := [emptyTile] }).setAcc 0 { Acc.reset with slots := 9, groups := [ninthGroup] }

theorem ninthGroupState_canIssue : ninthGroupState.canIssue 0 (.pass 0 indirectPass) = true := by decide +kernel

/-- An empty tile's PASS has the form of its group where the activation block's header is no block's. -/
theorem passInteger_of_float (act : Option Nat) : passInteger act (some emptyTile) false = false := by
  cases act with
  | none => rfl
  | some et => exact Bool.and_false _

/-- Refutes O17: its clause on PASS over an EMPTY tile counts the combines that the pass triggers for every group number below the
number of slots, which may be 8 in a state of nine slots, and the model counts none there: group 8 is where it puts a PASS of no group. -/
theorem not_arrayWorkIssues : ¬ Obligations.ArrayWorkIssues := by
  rintro ⟨-, hpass, -⟩
  have hgroup : ninthGroupState.group 0 8 = some ninthGroup := by decide +kernel
  obtain ⟨-, hempty, -⟩ := hpass ninthGroupState 0 indirectPass ninthGroup emptyTile (by decide +kernel) ninthGroupState_canIssue
    (by decide +kernel) (by decide +kernel) (by decide) rfl
  have hclaim := hempty rfl (by decide +kernel) (by decide +kernel) hgroup (passInteger_of_float _) rfl (by decide +kernel) (by decide +kernel)
  obtain ⟨t, hmodel⟩ := execPass_of_empty (base := 8) (by decide +kernel) ninthGroupState_canIssue (by decide +kernel) (by decide +kernel) rfl
    (by decide +kernel) (by decide +kernel) hgroup passInteger_of_float rfl (by decide +kernel) (by decide +kernel)
  have hsteps := goTo_steps_inj (by decide +kernel) (Host.Outcome.next.inj (hclaim.symm.trans hmodel))
  exact absurd hsteps (by decide)

end Sys2Proof.Machine

end

section
/-! PROOFS. O18, O19, O20: DRAIN, the vector instructions, CHAIN, ARM and DPK at issue. -/

namespace Sys2Proof.Machine

open State

/-! ## DRAIN (O18) -/

theorem State.accFault_pc (s : State) (c : Nat) (code : BitVec 4) (base no : Nat) (pc : BitVec 12) (k : Nat) :
    ((s.accFault c code base no pc).seq k).pc = (s.seq k).pc := by
  rw [accFault_seq, noteAccFault, coreFault_pc]
  by_cases hk : c = k
  · subst hk
    have h (t : State) (m : Sums) : ({ t with sums := m } : State).seq c = t.seq c := rfl
    rw [h, setSeq_seq_same]
    rfl
  · have h (t : State) (m : Sums) : ({ t with sums := m } : State).seq k = t.seq k := rfl
    rw [h, setSeq_seq_other _ _ _ hk]

/-- A group number that names an open group (R137, R138). -/
theorem namedGroup_of_open {s : State} {c base : Nat} {g : Group} (hslots : base < (s.acc c).slots) (hg : s.group c base = some g) :
    s.namedGroup c base = (s, some g) := by
  rw [namedGroup, if_neg (Nat.not_le.mpr hslots), hg]

theorem namedGroup_of_past {s : State} {c base : Nat} (hslots : (s.acc c).slots ≤ base) :
    s.namedGroup c base = (s.accFault c 1 base 0 (s.seq c).pc, none) := if_pos hslots

theorem namedGroup_of_closed {s : State} {c base : Nat} (hslots : base < (s.acc c).slots) (hg : s.group c base = none) :
    s.namedGroup c base = (s.accFault c 2 base 0 (s.seq c).pc, none) := by
  rw [namedGroup, if_neg (Nat.not_le.mpr hslots), hg]
  rfl

@[simp] theorem State.addDrain_seq (s : State) (c : Nat) (f : DrainF) (g : Group) (split : Bool) (k : Nat) :
    (s.addDrain c f g split).seq k = s.seq k := rfl

section
variable {s : State} {c : CoreId} {f : DrainF} {g : Group} (hreading : (s.drn c.toNat).reading < 2)
include hreading

/-- DRAIN without BM, or with a bundle open, hands its drain over. -/
theorem execDrain_of_open (hnamed : s.namedGroup c.toNat (fieldOr (s.seq c.toNat) f.ia f.grp) = (s, some g))
    (hbundle : f.bm = true → (s.bnd c.toNat).isOpen = true) (h : s.canIssue c (.drain c f) = true) (hpc : (s.seq c.toNat).pc ≠ 4095) :
    execDrain c f s = .next ((if f.bm then (s.addDrain c.toNat f g false).addAction c.toNat (.drain (s.drn c.toNat).nextId [] false none []) 0
      else s.addDrain c.toNat f g false).goesOn c) := by
  have hstray : (f.bm && !(s.bnd c.toNat).isOpen) = false := by
    cases hbm : f.bm with
    | false => rfl
    | true => simp [hbundle hbm]
  unfold execDrain
  simp only [hnamed, hstray, Bool.false_eq_true, if_false, decide_eq_true hreading]
  exact issue_ready s c _ _ h (by split <;> exact hpc)

theorem execDrain_of_no_group {t : State} (hnamed : s.namedGroup c.toNat (fieldOr (s.seq c.toNat) f.ia f.grp) = (t, none))
    (hbm : f.bm = false) (h : s.canIssue c (.drain c f) = true) (hpc : (t.seq c.toNat).pc ≠ 4095) :
    execDrain c f s = .next (t.goesOn c) := by
  unfold execDrain
  simp only [hnamed, hbm, Bool.false_and, Bool.false_eq_true, if_false, decide_eq_true hreading]
  exact issue_ready s c _ _ h hpc

theorem execDrainSplitNode_of_open (hnamed : s.namedGroup c.toNat (fieldOr (s.seq c.toNat) f.ia f.grp) = (s, some g))
    (h : s.canIssue c (.drainSplitNode c f) = true) (hpc : (s.seq c.toNat).pc ≠ 4095) :
    execDrainSplitNode c f s = .next ((s.addDrain c.toNat f g true).goesOn c) := by
  unfold execDrainSplitNode
  simp only [hnamed, decide_eq_true hreading]
  exact issue_ready s c _ _ h hpc

end

/-- A bundle with one more action (R196). -/
def Bnd.add (b : Bnd) (act : BAct) (parcels : Nat) : Bnd :=
  let b' := { b with acts := b.acts ++ [act], parcels := b.parcels + parcels }
  { b' with cause := if 64 < b'.acts.length ∨ 512 < b'.parcels then b'.cause ||| causeOverflow else b'.cause }

theorem drainIssues : Claim.DrainIssues := by
  intro s c f g k q d base dest after hpc hreading hslots hg
  have hnamed := namedGroup_of_open hslots hg
  refine ⟨fun h hbm => ?_, fun h hbm hopen =>
    ⟨(s.bnd k).add (.drain d.nextId [] false none []) 0, ?_, rfl, rfl⟩, fun h => ?_⟩
  · refine (execDrain_of_open hreading hnamed (by simp [hbm]) h hpc).trans ?_
    rw [hbm]
    rfl
  · refine (execDrain_of_open hreading hnamed (fun _ => hopen) h hpc).trans ?_
    rw [hbm]
    rfl
  · exact execDrainSplitNode_of_open hreading hnamed h hpc

theorem drainOfNoGroup : Claim.DrainOfNoGroup := by
  intro s c f k q base hpc hreading hbm h
  exact ⟨fun hslots => execDrain_of_no_group hreading (namedGroup_of_past hslots) hbm h (by rw [accFault_pc]; exact hpc),
    fun hslots hg => execDrain_of_no_group hreading (namedGroup_of_closed hslots hg) hbm h (by rw [accFault_pc]; exact hpc)⟩

/-- Settles O18: a DRAIN's group number names an open group or is a fault. -/
theorem drainsIssue : Obligations.DrainsIssue := ⟨drainIssues, drainOfNoGroup⟩

/-! ## Vector instructions and CHAIN (O19) -/

/-- Every vector instruction issues in one way. -/
theorem exec_vectorRow (kind : VKind) (c : CoreId) (f : VecF) (s : State) :
    exec (kind.row c f) s = s.issue c (kind.row c f) (s.vectorReady c.toNat kind f) (s.addVector c.toNat kind f) := by
  cases kind <;> rfl

/-- The registers that an instruction leaves as they are where it records an accumulator fault. -/
def Seq.besidesFaults (q : Seq) : Seq :=
  { q with
    fCount := 0, fPc := 0, fValid := false, fCode := 0, aCount := 0, aPass := 0, aSlot := 0, aValid := false, aCode := 0 }

theorem pc_of_besidesFaults {q r : Seq} (h : q.besidesFaults = r.besidesFaults) : q.pc = r.pc :=
  show q.besidesFaults.pc = r.besidesFaults.pc from congrArg Seq.pc h

theorem sreg_of_besidesFaults {q r : Seq} (h : q.besidesFaults = r.besidesFaults) : q.sreg = r.sreg :=
  show q.besidesFaults.sreg = r.besidesFaults.sreg from congrArg Seq.sreg h

theorem State.accFault_besidesFaults (s : State) (c : Nat) (code : BitVec 4) (base no : Nat) (pc : BitVec 12) :
    ((s.accFault c code base no pc).seq c).besidesFaults = (s.seq c).besidesFaults := by
  rw [accFault_seq, noteAccFault_seq_same]
  rfl

theorem State.accFault_vec (s : State) (c : Nat) (code : BitVec 4) (base no : Nat) (pc : BitVec 12) (k : Nat) :
    (s.accFault c code base no pc).vec k = s.vec k := by
  unfold accFault
  dsimp only
  split
  · rfl
  · split <;> rfl

/-- What joining a group or recording its fault keeps of a state. -/
structure KeepsIssue (s t : State) (c : Nat) : Prop where
  vec : t.vec c = s.vec c
  seq : (t.seq c).besidesFaults = (s.seq c).besidesFaults
  now : t.now = s.now

theorem KeepsIssue.accFault (s : State) (c : Nat) (code : BitVec 4) (base no : Nat) (pc : BitVec 12) :
    KeepsIssue s (s.accFault c code base no pc) c := by
  refine ⟨accFault_vec .., accFault_besidesFaults .., ?_⟩
  unfold State.accFault
  dsimp only
  split
  · rfl
  · split <;> rfl

theorem KeepsIssue.setGroup (s : State) (c : Nat) (g : Group) : KeepsIssue s (s.setGroup c g) c := ⟨rfl, rfl, rfl⟩

theorem KeepsIssue.namedGroup (s : State) (c v : Nat) : KeepsIssue s (s.namedGroup c v).1 c := by
  unfold State.namedGroup
  split
  · exact KeepsIssue.accFault s c 1 v 0 _
  · split
    · exact KeepsIssue.accFault s c 2 v 0 _
    · exact ⟨rfl, rfl, rfl⟩

theorem KeepsIssue.named (s : State) (c v : Nat) (b : Bool) :
    KeepsIssue s (if b then s.namedGroup c v else (s, none)).1 c := by
  split
  · exact .namedGroup ..
  · exact ⟨rfl, rfl, rfl⟩

theorem KeepsIssue.trans {s t u : State} {c : Nat} (h : KeepsIssue s t c) (h' : KeepsIssue t u c) : KeepsIssue s u c :=
  ⟨h'.vec.trans h.vec, h'.seq.trans h.seq, h'.now.trans h.now⟩

theorem KeepsIssue.ite {s t u : State} {c : Nat} {p : Prop} [Decidable p] (ht : KeepsIssue s t c) (hu : KeepsIssue s u c) :
    KeepsIssue s (if p then t else u) c := by
  split
  · exact ht
  · exact hu

theorem KeepsIssue.countPoison (s : State) (c n : Nat) : KeepsIssue s (s.countPoison c n) c := ⟨rfl, rfl, rfl⟩

/-- A vector instruction joins its group, or its fault is recorded, and it enters the queue. -/
theorem addVector_cases (s : State) (c : Nat) (k : VKind) (f : VecF) : ∃ (t : State) (x : VInstr) (o : Bool),
    s.addVector c k f =
      (if o then (t.setVec c { t.vec c with nextId := (t.vec c).nextId + 1, q := (t.vec c).q ++ [x] }).capViolation c
        else t.setVec c { t.vec c with nextId := (t.vec c).nextId + 1, q := (t.vec c).q ++ [x] }) ∧
    KeepsIssue s t c ∧ x.kind = k ∧ x.vp = (s.vparam c (fieldMod (s.seq c) f.ib f.vpr 18)).1 ∧ x.pc = (s.seq c).pc ∧
    x.workDone = false ∧ x.band = 0 := by
  unfold addVector
  dsimp only
  refine ⟨_, _, _, rfl, ?_, rfl, rfl, rfl, rfl, rfl⟩
  refine (KeepsIssue.countPoison s c (s.vparam c (fieldMod (s.seq c) f.ib f.vpr 18)).2.2).trans ?_
  have hnamed := KeepsIssue.named (s.countPoison c (s.vparam c (fieldMod (s.seq c) f.ib f.vpr 18)).2.2) c (fieldOr (s.seq c) f.ia f.grp)
    (decide (leafCount k (s.vparam c (fieldMod (s.seq c) f.ib f.vpr 18)).1 ≠ 0) || k = .mvd || k = .mvsRow)
  split
  · exact .ite (hnamed.trans (.accFault ..)) (hnamed.trans (.setGroup ..))
  · exact hnamed

@[simp] theorem State.capViolation_seq (s : State) (c k : Nat) : (s.capViolation c).seq k = s.seq k := rfl

theorem State.capViolation_q (s : State) (c : Nat) : ((s.capViolation c).vec c).q = (s.vec c).q := by
  have h : (s.capViolation c).vec c = (s.setVec c { s.vec c with capViol := (s.vec c).capViol + 1 }).vec c := rfl
  rw [h, setVec_vec_same]

/-- After a vector instruction has entered the queue. -/
theorem addVector_spec (s : State) (c : Nat) (k : VKind) (f : VecF) : ∃ x : VInstr,
    ((s.addVector c k f).vec c).q = (s.vec c).q ++ [x] ∧ ((s.addVector c k f).seq c).besidesFaults = (s.seq c).besidesFaults ∧
    (s.addVector c k f).now = s.now ∧
    x.kind = k ∧ x.vp = (s.vparam c (fieldMod (s.seq c) f.ib f.vpr 18)).1 ∧ x.pc = (s.seq c).pc ∧ x.workDone = false ∧ x.band = 0 := by
  obtain ⟨t, x, o, heq, hkeep, hx⟩ := addVector_cases s c k f
  refine ⟨x, ?_, ?_, ?_, hx⟩
  · rw [heq, ← hkeep.vec]
    split
    · rw [State.capViolation_q, setVec_vec_same]
    · rw [setVec_vec_same]
  · rw [heq, ← hkeep.seq]
    split <;> rfl
  · rw [heq, ← hkeep.now]
    split <;> rfl

theorem vectorInstructionsIssue : Claim.VectorInstructionsIssue := by
  intro s c f kind k q off hpc h
  refine ⟨fun hready => ?_, fun hready => ?_⟩
  · obtain ⟨x, hq, hseq, hnow, hkind, hvp, hxpc, hdone, hband⟩ := addVector_spec s k kind f
    have hpc' : ((s.addVector k kind f).seq k).pc = q.pc := pc_of_besidesFaults hseq
    refine ⟨(s.addVector k kind f).goesOn c, x, ?_, ?_, hkind, hvp, hxpc, hdone, hband, ?_, ?_, ?_, ?_⟩
    · rw [exec_vectorRow, hready]
      exact issue_ready s c _ _ h (by rw [hpc']; exact hpc)
    · exact hq
    · exact State.addVector_mem s k kind f
    · rw [goesOn, setSeq_seq_same]
      exact congrArg (· + 1) hpc'
    · rw [goesOn, setSeq_seq_same, ← hnow]
      rfl
    · rw [goesOn, setSeq_seq_same]
      exact (sreg_of_besidesFaults hseq : ((s.addVector k kind f).seq k).sreg = (s.seq k).sreg)
  · rw [exec_vectorRow, hready]
    exact issue_waits s c _ _ h

theorem chainLoadsAConfiguration : Claim.ChainLoadsAConfiguration := by
  intro s c ia cfg rec k q d r hpc h
  refine ⟨fun hfree => ?_, fun hused => ?_⟩
  · have hall : (d.q.all fun x => x.cfgNo ≠ cfg.toNat) = true := by simpa using hfree
    have hdrn : ((((s.setDrn k { d with cfgs := Sparse.set Cfg.empty d.cfgs cfg.toNat r.1 }).countPoison k r.2).goesOn c).drn k) =
        { d with cfgs := Sparse.set Cfg.empty d.cfgs cfg.toNat r.1 } := setDrn_drn_same ..
    refine ⟨((s.setDrn k { d with cfgs := Sparse.set Cfg.empty d.cfgs cfg.toNat r.1 }).countPoison k r.2).goesOn c, ?_, ?_, fun j hj => ?_, ?_⟩
    · refine Eq.trans ?_ (issue_ready s c (.chain c ia cfg rec) _ h hpc)
      exact congrArg (fun b => s.issue c _ b _) hall
    · rw [hdrn]
      exact Sparse.get_set_same ..
    · rw [hdrn]
      exact Sparse.get_set_other _ _ _ hj.symm
    · rw [hdrn]
  · have hall : (d.q.all fun x => x.cfgNo ≠ cfg.toNat) = false := by
      obtain ⟨x, hx, hc⟩ := hused
      rw [List.all_eq_false]
      exact ⟨x, hx, by simp [hc]⟩
    refine Eq.trans ?_ (issue_waits s c (.chain c ia cfg rec) s h)
    exact congrArg (fun b => s.issue c _ b _) hall

/-- Settles O19: the parameter record is read before the instruction's group is joined, and no configuration in use is loaded anew. -/
theorem vectorAndChainIssue : Obligations.VectorAndChainIssue := ⟨vectorInstructionsIssue, chainLoadsAConfiguration⟩

/-! ## ARM (O20) -/

theorem State.bundleCause_of_open {s : State} {c : Nat} (h : (s.bnd c).isOpen = true) (m : W16) :
    s.bundleCause c m = s.setBnd c { (s.bnd c) with cause := (s.bnd c).cause ||| m } := if_pos h

theorem State.bundleCause_seq (s : State) (c : Nat) (m : W16) (k : Nat) : (s.bundleCause c m).seq k = s.seq k := by
  unfold bundleCause
  dsimp only
  split <;> rfl

theorem State.bundleCause_eng (s : State) (c : Nat) (m : W16) (k e : Nat) : (s.bundleCause c m).eng k e = s.eng k e := by
  unfold bundleCause
  dsimp only
  split <;> rfl

theorem getLsbD_or_causeArmFull (x : W16) : (x ||| causeArmFull).getLsbD 4 = true := by
  rw [BitVec.getLsbD_or, show causeArmFull.getLsbD 4 = true from rfl, Bool.or_true]

theorem getLsbD_or_causePoison (x : W16) : (x ||| causePoison).getLsbD 1 = true := by
  rw [BitVec.getLsbD_or, show causePoison.getLsbD 1 = true from rfl, Bool.or_true]

/-- The list that an ARM names (R228). -/
def Seq.armList (q : Seq) (ia : Bool) (l : LAddr) : Nat := fieldOr q ia l % 2 ^ 42

theorem exec_arm (s : State) (c : CoreId) (bm ia : Bool) (e : BitVec 3) (l : LAddr) :
    exec (.arm c bm ia e l) s = s.issue c (.arm c bm ia e l)
      (((s.vec c.toNat).q.all fun v => v.kind ≠ .sct) || !s.namesSct c.toNat ((s.seq c.toNat).armList ia l / 16 * 16))
      (if bm then
        (if (s.bnd c.toNat).isOpen then s.reserveArm c.toNat e.toNat ((s.seq c.toNat).armList ia l) else s.stray c.toNat)
      else s.acceptArm c.toNat e.toNat ((s.seq c.toNat).armList ia l)) := rfl

theorem armReady_iff (s : State) (k list : Nat) :
    (((s.vec k).q.all fun v => v.kind ≠ .sct) || !s.namesSct k list) = true ↔
      (∀ x ∈ (s.vec k).q, x.kind ≠ .sct) ∨ s.namesSct k list = false := by
  simp

theorem acceptArm_seq (s : State) (c e list k : Nat) : (s.acceptArm c e list).seq k = s.seq k := by
  unfold acceptArm
  dsimp only
  (repeat' split) <;> rfl

theorem reserveArm_seq (s : State) (c e list k : Nat) : (s.reserveArm c e list).seq k = s.seq k := by
  unfold reserveArm
  dsimp only
  split
  · rfl
  · split
    · rfl
    · exact bundleCause_seq ..

section
variable {s : State} {c e list : Nat}

theorem acceptArm_of_idle (hlist : s.inListRange (list / 16 * 16) = true) (ha : (s.eng c e).active = none)
    (hq : (s.eng c e).queued = none) : s.acceptArm c e list = s.setEng c e { (s.eng c e) with active := some (s.newArm list) } := by
  simp [acceptArm, hlist, ha, hq]

theorem acceptArm_of_active (hlist : s.inListRange (list / 16 * 16) = true) (ha : (s.eng c e).active ≠ none)
    (hq : (s.eng c e).queued = none) (hr : (s.eng c e).reserved = none) :
    s.acceptArm c e list = s.setEng c e { (s.eng c e) with queued := some (s.newArm list) } := by
  simp [acceptArm, hlist, ha, hq, hr]

theorem acceptArm_of_full (hlist : s.inListRange (list / 16 * 16) = true) (ha : (s.eng c e).active ≠ none)
    (hfull : (s.eng c e).queued ≠ none ∨ (s.eng c e).reserved ≠ none) : s.acceptArm c e list = s.engReject c e 1 := by
  have h : ¬ ((s.eng c e).queued = none ∧ (s.eng c e).reserved = none) := by tauto
  simp [acceptArm, hlist, ha, h]

theorem acceptArm_of_bad_list (hlist : s.inListRange (list / 16 * 16) = false) : s.acceptArm c e list = s.engReject c e 2 := by
  simp [acceptArm, hlist]

theorem reserveArm_of_free (hlist : s.inListRange (list / 16 * 16) = true) (hq : (s.eng c e).queued = none)
    (hr : (s.eng c e).reserved = none) : s.reserveArm c e list =
      (s.addAction c (.arm e true) 0).setEng c e { (s.eng c e) with reserved := some (s.newArm list) } := by
  simp [reserveArm, hlist, hq, hr]

theorem reserveArm_of_full (hlist : s.inListRange (list / 16 * 16) = true)
    (hfull : (s.eng c e).queued ≠ none ∨ (s.eng c e).reserved ≠ none) :
    s.reserveArm c e list = ((s.addAction c (.arm e false) 0).engReject c e 1).bundleCause c causeArmFull := by
  have h : ¬ ((s.eng c e).queued = none ∧ (s.eng c e).reserved = none) := by tauto
  simp [reserveArm, hlist, h]

end

theorem armIssues : Claim.ArmIssues := by
  intro s c ia e l k n q b g list a free hpc
  refine ⟨fun h hfree => ?_, fun h hfree hopen hlist => ?_, fun bm h hfree => ?_⟩
  · have hexec : exec (.arm c false ia e l) s = .next ((s.acceptArm k n (q.armList ia l)).goesOn c) := by
      rw [exec_arm, (armReady_iff s c.toNat ((s.seq c.toNat).armList ia l / 16 * 16)).mpr hfree]
      exact issue_ready s c _ _ h (by rw [if_neg Bool.false_ne_true, acceptArm_seq]; exact hpc)
    refine ⟨fun hlist ha hq => hexec.trans ?_, fun hlist ha hq hr => hexec.trans ?_, fun hlist ha hfull => hexec.trans ?_,
      fun hlist => hexec.trans ?_⟩
    · rw [acceptArm_of_idle (list := q.armList ia l) hlist ha hq]
      rfl
    · rw [acceptArm_of_active (list := q.armList ia l) hlist ha hq hr]
      rfl
    · rw [acceptArm_of_full (list := q.armList ia l) hlist ha hfull]
      rfl
    · rw [acceptArm_of_bad_list (list := q.armList ia l) hlist]
      rfl
  · have hexec : exec (.arm c true ia e l) s = .next ((s.reserveArm k n (q.armList ia l)).goesOn c) := by
      rw [exec_arm, (armReady_iff s c.toNat ((s.seq c.toNat).armList ia l / 16 * 16)).mpr hfree, if_pos rfl, if_pos hopen]
      exact issue_ready s c _ _ h (by rw [reserveArm_seq]; exact hpc)
    refine ⟨fun hq hr => hexec.trans ?_, fun hfull => ⟨_, hexec, ?_⟩⟩
    · rw [reserveArm_of_free (list := q.armList ia l) hlist hq hr]
      rfl
    · have hopen' : (((s.addAction k (.arm n false) 0).engReject k n 1).bnd k).isOpen = true := by
        rw [show ((s.addAction k (.arm n false) 0).engReject k n 1).bnd k = b.add (.arm n false) 0 from setBnd_bnd_same ..]
        exact hopen
      have hbnd : (((s.reserveArm k n (q.armList ia l)).goesOn c).bnd k) =
          { b.add (.arm n false) 0 with cause := (b.add (.arm n false) 0).cause ||| causeArmFull } := by
        rw [reserveArm_of_full (list := q.armList ia l) hlist hfull, bundleCause_of_open hopen']
        refine (setBnd_bnd_same ..).trans ?_
        rw [show ((s.addAction k (.arm n false) 0).engReject k n 1).bnd k = b.add (.arm n false) 0 from setBnd_bnd_same ..]
      refine ⟨?_, ?_, ?_⟩
      · rw [reserveArm_of_full (list := q.armList ia l) hlist hfull]
        exact (bundleCause_eng ..).trans (setEng_eng_same ..)
      · rw [hbnd]
        exact getLsbD_or_causeArmFull _
      · rw [hbnd]
        rfl
  · rw [exec_arm, Bool.eq_false_iff.mpr (fun hready => hfree ((armReady_iff s c.toNat ((s.seq c.toNat).armList ia l / 16 * 16)).mp hready))]
    exact issue_waits s c _ _ h

/-! ## DPK (O20) -/

/-- The state but for what a Daypack instruction touches: the transfers and counters of the cores, the Daypack parcels on their way, and
what counts errors. -/
def State.besidesDaypack (s : State) : State :=
  { s with
    cores := { s.cores with cnt := [], dpk := [] }
    trail := { s.trail with dpk := [] }
    gl := { s.gl with unroutable := 0 }
    sums := { s.sums with poison := 0 } }

theorem seq_of_besidesDaypack {s t : State} (h : s.besidesDaypack = t.besidesDaypack) (k : Nat) : s.seq k = t.seq k :=
  show s.besidesDaypack.seq k = t.besidesDaypack.seq k from congrArg (·.seq k) h

theorem State.dpkPut_besidesDaypack (s : State) (c : Nat) (d : Dpk) (i : Nat) (p : Parcel) :
    (s.dpkPut c d i p).besidesDaypack = s.besidesDaypack := by
  obtain h | h | ⟨_, _, h⟩ := s.dpkPut_cases c d i p <;> rw [h] <;> rfl

theorem State.consumeAt_besidesDaypack (s : State) (c : Nat) (p : Parcel) (a : Nat) :
    (s.consumeAt c p a).1.besidesDaypack = s.besidesDaypack := by
  unfold consumeAt
  dsimp only
  split <;> rfl

theorem State.dpkFetched_besidesDaypack (s : State) (c id i src router input avail : Nat) (p : Parcel) :
    (s.dpkFetched c id i src router input avail p).besidesDaypack = s.besidesDaypack := by
  unfold dpkFetched
  split
  · rfl
  · exact s.consumeAt_besidesDaypack c p src

theorem State.dpkAsk_besidesDaypack (s : State) (c : Nat) (d : Dpk) (i : Nat) :
    (s.dpkAsk c d i).besidesDaypack = s.besidesDaypack := by
  unfold dpkAsk
  dsimp only
  split
  · exact dpkFetched_besidesDaypack ..
  · split <;> rfl

theorem State.dpkStart_besidesDaypack (s : State) (c : Nat) (d : Dpk) : (s.dpkStart c d).besidesDaypack = s.besidesDaypack := by
  unfold dpkStart
  dsimp only
  split
  · exact foldl_keeps besidesDaypack (fun x _ t => t.dpkPut_besidesDaypack c _ x.1 x.2) _
  · exact foldl_keeps besidesDaypack (fun i _ t => t.dpkAsk_besidesDaypack c _ i) _

theorem State.dpkStart_pc (s : State) (c : Nat) (d : Dpk) (k : Nat) : ((s.dpkStart c d).seq k).pc = (s.seq k).pc :=
  congrArg Seq.pc (seq_of_besidesDaypack (s.dpkStart_besidesDaypack c d) k)

/-- The state but for the counts of poisoned errors. -/
def State.besidesPoison (s : State) : State :=
  { s with cores := { s.cores with cnt := [] }, sums := { s.sums with poison := 0 } }

theorem State.consumeAt_besidesPoison (s : State) (c : Nat) (p : Parcel) (a : Nat) :
    (s.consumeAt c p a).1.besidesPoison = s.besidesPoison := by
  unfold consumeAt
  dsimp only
  split <;> rfl

/-- Reading the local parcels of a DPK only counts the poisoned ones (R198, R238). -/
theorem State.dpkRead_besidesPoison (s : State) (c off n : Nat) : (s.dpkRead c off n).1.besidesPoison = s.besidesPoison := by
  unfold dpkRead
  exact foldl_keeps (fun x : State × List Parcel => x.1.besidesPoison) (fun i _ x => x.1.consumeAt_besidesPoison ..) (s, [])

theorem State.dpkRead_length (s : State) (c off n : Nat) : (s.dpkRead c off n).2.length = n := by
  unfold dpkRead
  induction n with
  | zero => rfl
  | succ n ih =>
    rw [List.range_succ, List.foldl_append, List.foldl_cons, List.foldl_nil, List.length_append, ih]
    rfl

theorem seq_of_besidesPoison {s t : State} (h : s.besidesPoison = t.besidesPoison) (k : Nat) : s.seq k = t.seq k :=
  show s.besidesPoison.seq k = t.besidesPoison.seq k from congrArg (·.seq k) h

theorem bnd_of_besidesPoison {s t : State} (h : s.besidesPoison = t.besidesPoison) (k : Nat) : s.bnd k = t.bnd k :=
  show s.besidesPoison.bnd k = t.besidesPoison.bnd k from congrArg (·.bnd k) h

theorem dpkq_of_besidesPoison {s t : State} (h : s.besidesPoison = t.besidesPoison) (k : Nat) : s.dpkq k = t.dpkq k :=
  show s.besidesPoison.dpkq k = t.besidesPoison.dpkq k from congrArg (·.dpkq k) h

theorem dpkFull_of_lt {s : State} {c : Nat} (h : (s.dpkq c).length < 32) : s.dpkFull c = false := decide_eq_false (Nat.not_le.mpr h)

theorem dpkFull_of_le {s : State} {c : Nat} (h : 32 ≤ (s.dpkq c).length) : s.dpkFull c = true := decide_eq_true h

theorem bundleCause_dpkq (s : State) (c : Nat) (m : W16) (k : Nat) : (s.bundleCause c m).dpkq k = s.dpkq k := by
  unfold bundleCause
  dsimp only
  split <;> rfl

theorem storeParcel_seq (s : State) (who : Requester) (key a : Nat) (p : Parcel) (k : Nat) :
    (s.storeParcel who key a p).seq k = s.seq k := by
  unfold storeParcel
  split
  · rfl
  · unfold markAcc
    dsimp only
    (repeat' split) <;> rfl

theorem putParcel_seq (s : State) (a : Nat) (p : Parcel) (k : Nat) : (s.putParcel a p).seq k = s.seq k := by
  unfold putParcel putParcelFor
  dsimp only
  split
  · rfl
  · split
    · rfl
    · exact storeParcel_seq ..

/-- A core's own store above its instruction region may be written. -/
theorem writable_coreAddr (s : State) {c off : Nat} (hc : c < 2048) (hlow : 0x8000 ≤ off) (hoff : off < 0x40000) :
    s.writable (coreAddr c off) = true := by
  have hmod : coreAddr c off = 0x020000000000 + c * 0x40000 + off := by rw [coreAddr, Nat.mod_eq_of_lt hoff]
  have hkey : (s.keyOf (coreAddr c off)).isSome = true := by
    rw [keyOf, if_neg (by omega), if_neg (by omega), if_pos (by omega)]
    rfl
  have hregion : inInstrRegion (coreAddr c off) = false := by
    rw [inInstrRegion, Bool.and_eq_false_iff, decide_eq_false_iff_not]
    omega
  rw [writable, hkey, hregion]
  rfl

section
variable {s : State} {c : CoreId} {ia : Bool} {len : BitVec 3} {areg : BitVec 4} {loc : BitVec 18}

theorem exec_dpkOut_of_room (h : s.canIssue c (.dpkOut c false ia len areg loc) = true) (hroom : (s.dpkq c.toNat).length < 32)
    (hpc : (s.seq c.toNat).pc ≠ 4095) :
    let r := s.dpkRead c.toNat (dpkLocal (s.seq c.toNat) ia loc) (len.toNat + 1)
    exec (.dpkOut c false ia len areg loc) s =
      .next ((r.1.dpkStart c.toNat (s.outDpk (dpkAddr (s.seq c.toNat) areg) (dpkLocal (s.seq c.toNat) ia loc) r.2)).goesOn c) := by
  intro r
  change execDpkOut c false ia len areg loc s = _
  unfold execDpkOut
  dsimp only
  rw [if_neg (by simp), if_neg (by simp [dpkFull_of_lt hroom]), if_neg Bool.false_ne_true]
  refine issue_ready s c _ _ h ?_
  rw [dpkStart_pc, seq_of_besidesPoison (s.dpkRead_besidesPoison ..)]
  exact hpc

theorem exec_dpkOut_of_full (h : s.canIssue c (.dpkOut c false ia len areg loc) = true) (hfull : 32 ≤ (s.dpkq c.toNat).length)
    (hpc : (s.seq c.toNat).pc ≠ 4095) :
    exec (.dpkOut c false ia len areg loc) s = .next ((s.countPoison c.toNat 1).goesOn c) := by
  change execDpkOut c false ia len areg loc s = _
  unfold execDpkOut
  dsimp only
  rw [if_neg (by simp), if_pos (by simp [dpkFull_of_le hfull])]
  exact issue_ready s c _ _ h hpc

/-- A DPK out that joins the open bundle: one action of its parcels, poison its cause (R194, R197). -/
def State.bundleDpk (s : State) (c a off : Nat) (ps : List Parcel) (n : Nat) : State :=
  if ps.any (·.poison) then (s.addAction c (.dpk a off ps) n).bundleCause c causePoison else s.addAction c (.dpk a off ps) n

theorem State.bundleDpk_seq (s : State) (c a off : Nat) (ps : List Parcel) (n k : Nat) :
    (s.bundleDpk c a off ps n).seq k = s.seq k := by
  unfold bundleDpk
  split
  · exact bundleCause_seq ..
  · rfl

theorem State.bundleDpk_dpkq (s : State) (c a off : Nat) (ps : List Parcel) (n k : Nat) :
    (s.bundleDpk c a off ps n).dpkq k = s.dpkq k := by
  unfold bundleDpk
  split
  · exact bundleCause_dpkq ..
  · rfl

theorem State.bundleDpk_mem (s : State) (c a off : Nat) (ps : List Parcel) (n : Nat) :
    (s.bundleDpk c a off ps n).mem = s.mem := by
  unfold bundleDpk
  split
  · exact bundleCause_mem ..
  · rfl

theorem State.bundleDpk_bnd {s : State} {c : Nat} (hopen : (s.bnd c).isOpen = true) (a off : Nat) (ps : List Parcel) (n : Nat) :
    (s.bundleDpk c a off ps n).bnd c =
      { (s.bnd c).add (.dpk a off ps) n with
        cause := if ps.any (·.poison) then ((s.bnd c).add (.dpk a off ps) n).cause ||| causePoison
          else ((s.bnd c).add (.dpk a off ps) n).cause } := by
  have hadd : (s.addAction c (.dpk a off ps) n).bnd c = (s.bnd c).add (.dpk a off ps) n := setBnd_bnd_same ..
  unfold bundleDpk
  split
  · rw [bundleCause_of_open (by rw [hadd]; exact hopen), hadd]
    exact setBnd_bnd_same ..
  · exact hadd

theorem exec_dpkOut_of_bundle (h : s.canIssue c (.dpkOut c true ia len areg loc) = true) (hopen : (s.bnd c.toNat).isOpen = true)
    (hpc : (s.seq c.toNat).pc ≠ 4095) :
    let r := s.dpkRead c.toNat (dpkLocal (s.seq c.toNat) ia loc) (len.toNat + 1)
    exec (.dpkOut c true ia len areg loc) s = .next ((r.1.bundleDpk c.toNat (dpkAddr (s.seq c.toNat) areg)
      (dpkLocal (s.seq c.toNat) ia loc) r.2 (len.toNat + 1)).goesOn c) := by
  intro r
  change execDpkOut c true ia len areg loc s = _
  unfold execDpkOut
  dsimp only
  rw [if_neg (by simp [hopen]), if_neg (by simp), if_pos rfl]
  refine issue_ready s c _ (r.1.bundleDpk ..) h ?_
  rw [bundleDpk_seq, seq_of_besidesPoison (s.dpkRead_besidesPoison ..)]
  exact hpc

end

theorem daypackIssues : Claim.DaypackIssues := by
  intro s c ia len areg loc k q n off r hpc
  refine ⟨fun h hroom => ⟨s.dpkRead_length k off n, exec_dpkOut_of_room h hroom hpc⟩, fun h hfull => exec_dpkOut_of_full h hfull hpc,
    fun h hopen => ⟨_, exec_dpkOut_of_bundle h hopen hpc, ?_⟩, fun h hroom => ?_, fun h hfull hn hoff => ?_⟩
  · have hread : r.1.besidesPoison = s.besidesPoison := s.dpkRead_besidesPoison k off n
    have hbnd : r.1.bnd k = s.bnd k := bnd_of_besidesPoison hread k
    have hnew := bundleDpk_bnd (s := r.1) (c := k) (by rw [hbnd]; exact hopen) (dpkAddr q areg) off r.2 n
    rw [hbnd] at hnew
    refine ⟨(congrArg Bnd.acts hnew).trans rfl, (congrArg Bnd.parcels hnew).trans rfl, ?_, ?_, ?_, fun hpoison => ?_⟩
    · exact (bundleDpk_dpkq ..).trans (dpkq_of_besidesPoison hread k)
    · exact (bundleDpk_mem ..).trans (dpkRead_mem ..)
    · have hseq : (r.1.bundleDpk k (dpkAddr q areg) off r.2 n).seq k = q := (bundleDpk_seq ..).trans (seq_of_besidesPoison hread k)
      rw [goesOn, setSeq_seq_same]
      exact congrArg (fun q : Seq => q.pc + 1) hseq
    · refine (congrArg (fun b : Bnd => b.cause.getLsbD 1) hnew).trans ?_
      rw [if_pos hpoison]
      exact getLsbD_or_causePoison _
  · change execDpkIn c ia len areg loc s = _
    unfold execDpkIn
    dsimp only
    rw [if_neg (Bool.eq_false_iff.mp (dpkFull_of_lt hroom))]
    exact issue_ready s c _ _ h (by rw [dpkStart_pc]; exact hpc)
  · change execDpkIn c ia len areg loc s = _
    unfold execDpkIn
    dsimp only
    rw [if_pos (dpkFull_of_le hfull), show len.toNat + 1 = 1 from hn]
    have hlt : off < 0x40000 := by
      have := Nat.mod_lt (if ia then (q.reg (loc.setWidth 4)).toNat else loc.toNat) (show 0 < 2 ^ 18 by decide)
      omega
    have hwrite : (s.countPoison k 1).writable (coreAddr k off) = true := writable_coreAddr _ (by have := c.isLt; omega) hoff hlt
    have hone : ((List.range 1).foldl (fun s j =>
        let a := coreAddr k ((off + 32 * j) % 0x40000)
        if s.writable a then s.putParcel a (poisonedParcel a) else s) (s.countPoison k 1)) =
          (s.countPoison k 1).putParcel (coreAddr k off) (poisonedParcel (coreAddr k off)) := by
      change (if (s.countPoison k 1).writable (coreAddr k ((off + 0) % 0x40000)) then _ else _) = _
      rw [Nat.add_zero, Nat.mod_eq_of_lt hlt, if_pos hwrite]
    exact (congrArg (fun t => s.issue c (.dpkIn c ia len areg loc) true t) hone).trans
      (issue_ready s c _ _ h (by rw [putParcel_seq]; exact hpc))

/-- Settles O20: what an ARM or a DPK issues is decided by its engine's queue, its bundle and the transfers outstanding. -/
theorem armAndDaypackIssue : Obligations.ArmAndDaypackIssue := ⟨armIssues, daypackIssues⟩

end Sys2Proof.Machine

end

section
/-! PROOFS. O21: Cairn barriers. -/

namespace Sys2Proof.Machine

open State

/-! ## Arrivals (O21) -/

theorem nestedOn_of_nested {s : State} {c : Nat} {ch : BitVec 4} (hopen : (s.bnd c).isOpen = true) (hch : (s.bnd c).ch = ch) :
    s.nestedOn c ch = s.setBnd c { s.bnd c with cause := (s.bnd c).cause ||| 0x0080 } := by
  unfold nestedOn
  rw [if_pos (by simp [hopen, hch]), bundleCause_of_open hopen]
  rfl

theorem nestedOn_of_not_nested {s : State} {c : Nat} {ch : BitVec 4} (h : ¬ ((s.bnd c).isOpen = true ∧ (s.bnd c).ch = ch)) :
    s.nestedOn c ch = s := if_neg (by simpa using h)

/-- The mark on a bundle changes nothing of any core but its bundle. -/
theorem State.nestedOn_cases (s : State) (c : Nat) (ch : BitVec 4) : s.nestedOn c ch = s ∨ ∃ b, s.nestedOn c ch = s.setBnd c b := by
  by_cases h : (s.bnd c).isOpen = true ∧ (s.bnd c).ch = ch
  · exact .inr ⟨_, nestedOn_of_nested h.1 h.2⟩
  · exact .inl (nestedOn_of_not_nested h)

theorem nestedOn_seq (s : State) (c : Nat) (ch : BitVec 4) (k : Nat) : (s.nestedOn c ch).seq k = s.seq k := by
  obtain h | ⟨b, h⟩ := s.nestedOn_cases c ch
  · rw [h]
  · rw [h]
    rfl

theorem nestedOn_mem (s : State) (c : Nat) (ch : BitVec 4) : (s.nestedOn c ch).mem = s.mem := by
  obtain h | ⟨b, h⟩ := s.nestedOn_cases c ch
  · rw [h]
  · rw [h]
    rfl

theorem nestedOn_cairn (s : State) (c : Nat) (ch : BitVec 4) : (s.nestedOn c ch).cairn = s.cairn := by
  obtain h | ⟨b, h⟩ := s.nestedOn_cases c ch
  · rw [h]
  · rw [h]
    rfl

theorem nestedOn_now (s : State) (c : Nat) (ch : BitVec 4) : (s.nestedOn c ch).now = s.now := by
  obtain h | ⟨b, h⟩ := s.nestedOn_cases c ch
  · rw [h]
  · rw [h]
    rfl

theorem cairnCh_of_cairn {s t : State} (h : t.cairn = s.cairn) (k : Nat) : t.cairnCh k = s.cairnCh k := by rw [cairnCh, h, cairnCh]

theorem timeoutDue_of_cairn {s t : State} (h : t.cairn = s.cairn) (hnow : t.now = s.now) (ch : BitVec 4) :
    t.timeoutDue ch = s.timeoutDue ch := by rw [timeoutDue, cairnCh_of_cairn h, hnow, timeoutDue]

theorem opensTo_of_cairn {s t : State} (h : t.cairn = s.cairn) (hnow : t.now = s.now) (ch : BitVec 4) (c : Nat) :
    t.opensTo ch c = s.opensTo ch c := by rw [opensTo, cairnCh_of_cairn h, timeoutDue_of_cairn h hnow, opensTo]

/-- A core's arrival at a channel that is open to it, from a state that differs in its core alone. -/
theorem arrive_of_open_cairn {s t : State} {ch : BitVec 4} {a : Arrival} (hcairn : t.cairn = s.cairn) (hnow : t.now = s.now)
    (h : s.opensTo ch a.core = true) :
    t.arrive ch a = (t.setCairn ch.toNat ((s.cairnCh ch.toNat).joined a)).mwProgress ch := by
  rw [arrive_of_open (by rw [opensTo_of_cairn hcairn hnow]; exact h), cairnCh_of_cairn hcairn]

/-- A participant that has arrived meets no timeout of the barrier. -/
theorem arrive_of_on {s : State} {ch : BitVec 4} {a : Arrival} (hdead : (s.cairnCh ch.toNat).dead = false)
    (hon : ((s.cairnCh ch.toNat).arrived.any fun x => x.core = a.core) = true) : s.arrive ch a = s.joinBarrier ch a := by
  simp only [arrive, hon, Bool.not_true, Bool.and_false, Bool.false_eq_true, if_false, hdead]

/-- A CSIG of a participant that has arrived is kept for the next barrier (R180). -/
theorem joinBarrier_of_early {s : State} {ch : BitVec 4} {a : Arrival}
    (hon : ((s.cairnCh ch.toNat).arrived.any fun x => x.core = a.core) = true) (hf : a.fault = false) (hstop : a.stop = false)
    (hcbar : a.cbar = false) :
    s.joinBarrier ch a = s.setCairn ch.toNat { s.cairnCh ch.toNat with early := (s.cairnCh ch.toNat).early ++ [a] } := by
  simp [joinBarrier, hon, hf, hstop, hcbar]

/-- A CBAR after the core's own CSIG arrives no second time (R180). -/
theorem joinBarrier_of_repeated {s : State} {ch : BitVec 4} {a : Arrival}
    (hon : ((s.cairnCh ch.toNat).arrived.any fun x => x.core = a.core) = true) (hf : a.fault = false) (hstop : a.stop = false)
    (habort : a.abort = false) (hcbar : a.cbar = true) (hmw : mwOn (s.cairnCh ch.toNat) = false)
    (hdue : (s.cairnCh ch.toNat).due = none → allArrived (s.cairnCh ch.toNat) = false) (hfirst : (s.cairnCh ch.toNat).first ≠ none) :
    s.joinBarrier ch a = s.setCairn ch.toNat (s.cairnCh ch.toNat) := by
  unfold joinBarrier
  simp only [hon, hf, hstop, habort, hcbar, Bool.not_true, Bool.and_false, Bool.false_eq_true, if_false, Bool.or_false, if_true]
  generalize s.cairnCh ch.toNat = k at hmw hdue hfirst
  obtain ⟨f, hf⟩ := Option.ne_none_iff_exists'.mp hfirst
  have hkeepFirst : { k with first := some (k.first.getD a.at_) } = k := by
    rw [show some (k.first.getD a.at_) = k.first by rw [hf]; rfl]
  have hkeepDue : (if k.due.isSome = true then k.due else if (false || !mwOn k && allArrived k) = true then some (a.at_ + 48) else none) =
      k.due := by
    cases hd : k.due with
    | some d => rfl
    | none => simp [hdue hd]
  have hkeep : { k with
      first := some (k.first.getD a.at_)
      due := if k.due.isSome = true then k.due else if (false || !mwOn k && allArrived k) = true then some (a.at_ + 48) else none } =
        k := by
    rw [hkeepDue]
    exact hkeepFirst
  refine (congrArg (fun k => (s.setCairn ch.toNat k).mwProgress ch) hkeep).trans (mwProgress_of_local ?_)
  rw [setCairn_cairnCh_same]
  exact hmw

theorem exec_cbar {s : State} {c : CoreId} {ch : BitVec 4} (h : s.canIssue c (.cbar c ch) = true) (hf : s.fenced c.toNat = true) :
    exec (.cbar c ch) s = .next (((s.nestedOn c.toNat ch).setSeq c.toNat
      { s.seq c.toNat with wait := .barrier ch, st := 2 }).arrive ch (s.arrival c.toNat false true false)) := by
  change execCbar c ch s = _
  unfold execCbar
  dsimp only
  rw [hf, nestedOn_seq]
  exact issueTo_ready s c _ _ h

theorem exec_csig {s : State} {c : CoreId} {ch : BitVec 4} (h : s.canIssue c (.csig c ch) = true) (hf : s.fenced c.toNat = true)
    (hpc : (s.seq c.toNat).pc ≠ 4095) :
    exec (.csig c ch) s = .next ((if (s.seq c.toNat).fValid = true ∨ (s.seq c.toNat).stop = true then
      (s.nestedOn c.toNat ch).setSeq c.toNat { s.seq c.toNat with wait := .barrier ch, st := 2 }
      else (s.nestedOn c.toNat ch).goesOn c).arrive ch (s.arrival c.toNat true false false)) := by
  change execCsig c ch s = _
  unfold execCsig
  dsimp only
  rw [hf, nestedOn_seq, advance_eq _ c (by rw [nestedOn_seq]; exact hpc), issueTo_ready s c _ _ h]
  simp only [Bool.or_eq_true]
  rfl

theorem barrierInstructionsArrive : Claim.BarrierInstructionsArrive := by
  intro s c ch k q x nested u a waits hpc
  have hcairn : u.cairn = s.cairn := nestedOn_cairn s k ch
  have hnow : u.now = s.now := nestedOn_now s k ch
  refine ⟨fun ⟨hopen, hch⟩ => nestedOn_of_nested hopen hch, nestedOn_of_not_nested, fun h hf hopen => ?_, fun h hf hopen => ?_,
    fun h hf hdead hmw hdue hfirst hon hfv hstop => ?_, fun h hf hdead hon hfv hstop => ?_, fun h hf => ?_, fun h hf => ?_⟩
  · rw [exec_cbar h hf]
    exact congrArg Host.Outcome.next (arrive_of_open_cairn hcairn hnow hopen)
  · rw [exec_csig h hf hpc]
    refine congrArg Host.Outcome.next ((arrive_of_open_cairn (s := s) ?_ ?_ hopen).trans rfl)
    · split <;> exact hcairn
    · split <;> exact hnow
  · refine ⟨_, exec_cbar h hf, ?_⟩
    have hx : waits.cairnCh ch.toNat = x := cairnCh_of_cairn hcairn _
    have hon' : ((waits.cairnCh ch.toNat).arrived.any fun y => y.core = k) = true := by
      rw [hx]
      simpa using hon
    have harr : waits.arrive ch (s.arrival k false true false) = waits.setCairn ch.toNat x := by
      rw [arrive_of_on (by rw [hx]; exact hdead) hon', joinBarrier_of_repeated hon' hfv hstop rfl rfl (by rw [hx]; exact hmw) ?_
        (by rw [hx]; exact hfirst), hx]
      rw [hx]
      intro hd
      obtain ⟨p, hp, hno⟩ := hdue hd
      rw [Bool.eq_false_iff, ne_eq, allArrived_iff]
      intro hall
      obtain ⟨y, hy, hyp⟩ := hall p hp
      exact hno y hy hyp
    change (waits.arrive ch (s.arrival k false true false)).seq k = _ ∧ (waits.arrive ch (s.arrival k false true false)).cairnCh _ = _ ∧
      (waits.arrive ch (s.arrival k false true false)).mem = _
    rw [harr]
    exact ⟨setSeq_seq_same .., setCairn_cairnCh_same .., nestedOn_mem s k ch⟩
  · rw [exec_csig h hf hpc, if_neg (by rw [show (s.seq c.toNat).fValid = false from hfv, show (s.seq c.toNat).stop = false from hstop]; simp)]
    have hx : (u.goesOn c).cairnCh ch.toNat = x := cairnCh_of_cairn hcairn _
    have hon' : (((u.goesOn c).cairnCh ch.toNat).arrived.any fun y => y.core = k) = true := by
      rw [hx]
      simpa using hon
    refine congrArg Host.Outcome.next ?_
    refine (arrive_of_on (s := u.goesOn c) (by rw [hx]; exact hdead) hon').trans ?_
    rw [joinBarrier_of_early hon' hfv hstop rfl, hx]
    rfl
  · change execCbar c ch s = _
    unfold execCbar
    dsimp only
    rw [hf]
    exact issueTo_waits s c _ _ h
  · change execCsig c ch s = _
    unfold execCsig
    dsimp only
    rw [hf]
    exact issueTo_waits s c _ _ h

/-! ## Module-wide barriers go on (O21) -/

/-- The state but for what is sent on the links. -/
def State.besidesSyms (s : State) : State := { s with gl := { s.gl with ports := [] } }

theorem sendArrive_besidesSyms (s : State) (ch : BitVec 4) (k : CairnCh) : (s.sendArrive ch k).besidesSyms = s.besidesSyms := by
  unfold sendArrive
  split <;> rfl

theorem sendRelease_besidesSyms (s : State) (ch : BitVec 4) (k : CairnCh) (step : Nat) :
    (s.sendRelease ch k step).besidesSyms = s.besidesSyms := by
  unfold sendRelease
  exact foldl_keeps besidesSyms (f := fun (t : State) p => t.sendSym p 0x11 _) (fun _ _ _ => rfl) s

/-- ARRIVE to the parent and RELEASE to the children (R339). -/
theorem sent_besidesSyms (s : State) (ch : BitVec 4) (k : CairnCh) (step : Nat) :
    ((s.sendArrive ch k).sendRelease ch k step).besidesSyms = s.besidesSyms := by
  rw [sendRelease_besidesSyms, sendArrive_besidesSyms]

section
variable {s t : State} (h : s.besidesSyms = t.besidesSyms)
include h

theorem cairn_of_besidesSyms : s.cairn = t.cairn := show s.besidesSyms.cairn = t.besidesSyms.cairn from congrArg State.cairn h

theorem cores_of_besidesSyms : s.cores = t.cores := show s.besidesSyms.cores = t.besidesSyms.cores from congrArg State.cores h

theorem mem_of_besidesSyms : s.mem = t.mem := show s.besidesSyms.mem = t.besidesSyms.mem from congrArg State.mem h

theorem now_of_besidesSyms : s.now = t.now := show s.besidesSyms.now = t.besidesSyms.now from congrArg State.now h

end

/-- Everything that a module-wide barrier waits for has arrived (R339). -/
def CairnCh.AllIn (k : CairnCh) : Prop :=
  (∀ c ∈ k.parts, ∃ a ∈ k.arrived, a.core = c) ∧ (∀ p ∈ (List.range 12).filter fun p => k.mw.toNat.testBit (16 + p), p ∈ k.childArr) ∧
    (k.first ≠ none ∨ k.parts = [])

theorem mwChildren_eq (k : CairnCh) : mwChildren k = (List.range 12).filter fun p => k.mw.toNat.testBit (16 + p) := rfl

/-- A module-wide barrier that goes on now (R339). -/
def CairnCh.GoesOn (k : CairnCh) : Prop :=
  mwOn k = true ∧ k.sentUp = false ∧ k.release = none ∧ k.due = none ∧ k.AllIn

theorem mwGoesOn_iff (k : CairnCh) :
    (mwOn k && !k.sentUp && k.release.isNone && k.due.isNone && allArrived k &&
      (mwChildren k).all (fun p => k.childArr.contains p) && (k.first.isSome || k.parts.isEmpty)) = true ↔ k.GoesOn := by
  rw [CairnCh.GoesOn, CairnCh.AllIn, ← mwChildren_eq, ← allArrived_iff]
  simp [Option.isSome_iff_ne_none, and_assoc]

section
variable {s : State} {ch : BitVec 4}

theorem mwProgress_of_waits (h : ¬ (s.cairnCh ch.toNat).GoesOn) : s.mwProgress ch = s :=
  if_neg fun hgo => h ((mwGoesOn_iff _).mp hgo)

theorem mwProgress_of_root (h : (s.cairnCh ch.toNat).GoesOn) (hroot : mwParent (s.cairnCh ch.toNat) = none) :
    s.mwProgress ch = (s.setCairn ch.toNat { s.cairnCh ch.toNat with
      sentUp := true, release := some (s.now + mwLead (s.cairnCh ch.toNat)) }).sendRelease ch (s.cairnCh ch.toNat)
        (s.now + mwLead (s.cairnCh ch.toNat)) :=
  (if_pos ((mwGoesOn_iff _).mpr h)).trans (by rw [hroot])

theorem mwProgress_of_child (h : (s.cairnCh ch.toNat).GoesOn) {p : Nat} (hp : mwParent (s.cairnCh ch.toNat) = some p) :
    s.mwProgress ch = (s.setCairn ch.toNat { s.cairnCh ch.toNat with sentUp := true }).sendArrive ch (s.cairnCh ch.toNat) :=
  (if_pos ((mwGoesOn_iff _).mpr h)).trans (by rw [hp])

end

theorem mwParent_eq (k : CairnCh) : mwParent k = if k.mw.toNat / 2 ^ 12 % 16 = 15 then none else some (k.mw.toNat / 2 ^ 12 % 16) := by
  rw [mwParent, bitsOf, Nat.shiftRight_eq_div_pow]
  rfl

theorem mwLead_eq (k : CairnCh) : mwLead k = k.mw.toNat / 2 ^ 32 % 2 ^ 32 := by
  rw [mwLead, bitsOf, Nat.shiftRight_eq_div_pow]

theorem moduleWideBarriersProgress : Claim.ModuleWideBarriersProgress := by
  intro s ch x children all
  refine ⟨mwProgress_of_local, fun _ hwait => mwProgress_of_waits ?_, fun hmw hall hup hrel hdue => ?_⟩
  · rintro ⟨-, hup, hrel, hdue, hall⟩
    obtain h | h | h | h := hwait
    · exact h hall
    · exact Bool.false_ne_true (hup.symm.trans h)
    · exact h hrel
    · exact h hdue
  · have hgo : x.GoesOn := ⟨hmw, hup, hrel, hdue, hall⟩
    by_cases hroot : x.mw.toNat / 2 ^ 12 % 16 = 15
    · rw [mwProgress_of_root hgo ((mwParent_eq _).trans (if_pos hroot)), mwLead_eq]
      have hkeep := sendRelease_besidesSyms (s.setCairn ch.toNat { x with
        sentUp := true, release := some (s.now + x.mw.toNat / 2 ^ 32 % 2 ^ 32) }) ch x (s.now + x.mw.toNat / 2 ^ 32 % 2 ^ 32)
      refine ⟨fun _ => ?_, fun hne => absurd hroot hne, (cores_of_besidesSyms hkeep).trans rfl,
        (mem_of_besidesSyms hkeep).trans rfl⟩
      exact (cairnCh_of_cairn (cairn_of_besidesSyms hkeep) _).trans (setCairn_cairnCh_same ..)
    · rw [mwProgress_of_child hgo ((mwParent_eq _).trans (if_neg hroot))]
      have hkeep := sendArrive_besidesSyms (s.setCairn ch.toNat { x with sentUp := true }) ch x
      refine ⟨fun h => absurd h hroot, fun _ => ?_, (cores_of_besidesSyms hkeep).trans rfl,
        (mem_of_besidesSyms hkeep).trans rfl⟩
      exact (cairnCh_of_cairn (cairn_of_besidesSyms hkeep) _).trans (setCairn_cairnCh_same ..)

/-! ## Barriers complete (O21) -/

/-- Of cores, clock, memory and barriers, only core `c` differs. -/
structure State.OnlyCore (s t : State) (c : Nat) : Prop where
  now : t.now = s.now
  mem : t.mem = s.mem
  cairn : t.cairn = s.cairn
  other : ∀ k, c ≠ k → t.seq k = s.seq k

theorem State.OnlyCore.refl (s : State) (c : Nat) : s.OnlyCore s c := ⟨rfl, rfl, rfl, fun _ _ => rfl⟩

theorem State.OnlyCore.trans {s t u : State} {c : Nat} (h : s.OnlyCore t c) (h' : t.OnlyCore u c) : s.OnlyCore u c :=
  ⟨h'.now.trans h.now, h'.mem.trans h.mem, h'.cairn.trans h.cairn, fun k hk => (h'.other k hk).trans (h.other k hk)⟩

theorem setSeq_onlyCore (s : State) (c : Nat) (q : Seq) : s.OnlyCore (s.setSeq c q) c :=
  ⟨rfl, rfl, rfl, fun _ hk => setSeq_seq_other _ _ _ hk⟩

/-- The state but for the answers to clients and the engines, bundles and pack. -/
def State.besidesHalting (s : State) : State :=
  { s.besidesResults with cores := { s.cores with eng := [], bnd := [] }, pack := { s.pack with state := .none } }

theorem discardOpen_besidesHalting (s : State) : s.discardOpen.besidesHalting = s.besidesHalting := by
  rw [besidesHalting, discardOpen_besidesResults, discardOpen_cores, discardOpen_pack, besidesHalting]

theorem checkAllHalted_besidesHalting (s : State) : s.checkAllHalted.besidesHalting = s.besidesHalting := by
  unfold checkAllHalted
  split
  · rw [discardOpen_besidesHalting]
    rfl
  · rfl

theorem freeReserved_besidesHalting (s : State) (c : Nat) : (s.freeReserved c).besidesHalting = s.besidesHalting := by
  unfold freeReserved
  exact foldl_keeps besidesHalting (f := fun (t : State) e => t.setEng c e { (t.eng c e) with reserved := none }) (fun _ _ _ => rfl) s

theorem onlyCore_of_besidesHalting {s t : State} (h : t.besidesHalting = s.besidesHalting) (c : Nat) : s.OnlyCore t c :=
  ⟨show t.besidesHalting.now = s.besidesHalting.now from congrArg State.now h,
    show t.besidesHalting.mem = s.besidesHalting.mem from congrArg State.mem h,
    show t.besidesHalting.cairn = s.besidesHalting.cairn from congrArg State.cairn h,
    fun k _ => show t.besidesHalting.seq k = s.besidesHalting.seq k from congrArg (·.seq k) h⟩

theorem seq_of_besidesHalting {s t : State} (h : t.besidesHalting = s.besidesHalting) (k : Nat) : t.seq k = s.seq k :=
  show t.besidesHalting.seq k = s.besidesHalting.seq k from congrArg (·.seq k) h

theorem haltMarked_onlyCore (s : State) (c : Nat) : s.OnlyCore (s.haltMarked c) c := by
  unfold haltMarked haltCore
  dsimp only
  refine .trans ?_ (onlyCore_of_besidesHalting (checkAllHalted_besidesHalting _) c)
  refine .trans (onlyCore_of_besidesHalting (t := (s.freeReserved c).setBnd c ((s.freeReserved c).bnd c).closed) ?_ c) (setSeq_onlyCore ..)
  exact (freeReserved_besidesHalting s c)

theorem haltMarked_seq (s : State) (c : Nat) : (s.haltMarked c).seq c = { s.seq c with st := 4, wait := .none } := by
  unfold haltMarked
  dsimp only
  rw [haltCore_seq_same]
  have hseq : ((s.freeReserved c).setBnd c ((s.freeReserved c).bnd c).closed).seq c = s.seq c :=
    seq_of_besidesHalting (freeReserved_besidesHalting s c) c
  rw [hseq]

/-- A core that a barrier halts, with fault 6 where the barrier has timed out (R184, R268, R269). -/
def Seq.haltsAt (q : Seq) (pc : BitVec 12) (timedOut : Bool) : Seq :=
  { q with
    st := 4, wait := .none
    fCount := if timedOut then min (q.fCount + 1) 255 else q.fCount
    fValid := q.fValid || timedOut
    fPc := if timedOut && !q.fValid then pc else q.fPc
    fCode := if timedOut && !q.fValid then 6 else q.fCode }

theorem coreFault_onlyCore (s : State) (c : Nat) (code : BitVec 4) (pc : BitVec 12) : s.OnlyCore (s.coreFault c code pc) c :=
  ⟨rfl, rfl, rfl, fun _ hk => coreFault_seq_other s hk code pc⟩

theorem haltAtBarrier_onlyCore (s : State) (c : Nat) (pc : BitVec 12) (timedOut : Bool) :
    s.OnlyCore (s.haltAtBarrier c pc timedOut) c := by
  unfold haltAtBarrier
  split
  · exact (coreFault_onlyCore ..).trans (haltMarked_onlyCore ..)
  · exact haltMarked_onlyCore ..

theorem haltAtBarrier_seq (s : State) (c : Nat) (pc : BitVec 12) (timedOut : Bool) :
    (s.haltAtBarrier c pc timedOut).seq c = (s.seq c).haltsAt pc timedOut := by
  unfold haltAtBarrier
  rw [haltMarked_seq]
  cases timedOut with
  | false => simp [Seq.haltsAt]
  | true => cases h : (s.seq c).fValid <;> simp [Seq.haltsAt, h]

/-- A participant that waits in CBAR, or came by CSIG and does not wait. -/
def Seq.plainAt (q : Seq) (ch : BitVec 4) (a : Arrival) : Prop := q.wait = .barrier ch ∨ (a.csig = true ∧ q.wait = .none)

/-- What a participant becomes where the barrier halts (R184, R268). -/
def Seq.haltedAt (q : Seq) (a : Arrival) (timedOut : Bool) : Seq :=
  if q.wait = .none ∧ ¬ (q.st = 1 ∨ q.st = 2) then q else q.haltsAt a.pc timedOut

/-- What a participant becomes where the barrier completes without a mark (R268). -/
def Seq.leavesAt (q : Seq) (now : Nat) : Seq :=
  if q.wait = .none then q else { q.goesOn now with wait := .none, nextIssue := now }

section
variable {s : State} {ch : BitVec 4} {a : Arrival} {timedOut : Bool} {vote : Bool × Bool}

theorem completeOne_of_barrier_halting (h : (s.seq a.core).wait = .barrier ch) :
    s.completeOne ch true timedOut vote a = s.haltAtBarrier a.core a.pc timedOut := by
  simp [completeOne, h]

theorem completeOne_of_barrier (h : (s.seq a.core).wait = .barrier ch) :
    s.completeOne ch false timedOut vote a = s.resume a.core := by
  simp [completeOne, h]

theorem completeOne_of_none_halting (h : (s.seq a.core).wait = .none) :
    s.completeOne ch true timedOut vote a =
      if (s.seq a.core).st = 1 ∨ (s.seq a.core).st = 2 then s.haltAtBarrier a.core a.pc timedOut else s := by
  simp [completeOne, h]

theorem completeOne_of_none (h : (s.seq a.core).wait = .none) : s.completeOne ch false timedOut vote a = s := by
  simp [completeOne, h]

theorem completeOne_halting (h : (s.seq a.core).plainAt ch a) :
    s.OnlyCore (s.completeOne ch true timedOut vote a) a.core ∧
      (s.completeOne ch true timedOut vote a).seq a.core = (s.seq a.core).haltedAt a timedOut := by
  obtain hw | ⟨-, hw⟩ := h
  · rw [completeOne_of_barrier_halting hw, haltAtBarrier_seq, Seq.haltedAt, if_neg (by simp [hw])]
    exact ⟨haltAtBarrier_onlyCore .., rfl⟩
  · rw [completeOne_of_none_halting hw, Seq.haltedAt]
    by_cases hst : (s.seq a.core).st = 1 ∨ (s.seq a.core).st = 2
    · rw [if_pos hst, if_neg fun h => h.2 hst, haltAtBarrier_seq]
      exact ⟨haltAtBarrier_onlyCore .., rfl⟩
    · rw [if_neg hst, if_pos ⟨hw, hst⟩]
      exact ⟨.refl .., rfl⟩

theorem resume_eq {c : Nat} (hpc : (s.seq c).pc ≠ 4095) :
    s.resume c = s.setSeq c { (s.seq c).goesOn s.now with wait := .none, nextIssue := s.now } := by
  have hseq : (s.setSeq c { s.seq c with wait := .none }).seq c = { s.seq c with wait := .none } := setSeq_seq_same ..
  unfold resume
  dsimp only
  refine (goTo_next _ c 0 rfl (by rw [hseq]; exact hpc)).trans ?_
  rw [hseq, setSeq_setSeq]
  rfl

theorem completeOne_leaving (h : (s.seq a.core).plainAt ch a) (hpc : (s.seq a.core).pc ≠ 4095) :
    s.OnlyCore (s.completeOne ch false timedOut vote a) a.core ∧
      (s.completeOne ch false timedOut vote a).seq a.core = (s.seq a.core).leavesAt s.now := by
  obtain hw | ⟨-, hw⟩ := h
  · rw [completeOne_of_barrier hw, resume_eq hpc, setSeq_seq_same, Seq.leavesAt, if_neg (by simp [hw])]
    exact ⟨setSeq_onlyCore .., rfl⟩
  · rw [completeOne_of_none hw, Seq.leavesAt, if_pos hw]
    exact ⟨.refl .., rfl⟩

end

/-- What a fold over participants with different cores does to each of them, when a step on one touches its core alone. -/
theorem foldl_onlyCore {f : State → Arrival → State} {P : Arrival → Seq → Prop} {g : Arrival → Seq → Seq} {n : Nat}
    (hf : ∀ t a, t.now = n → P a (t.seq a.core) → t.OnlyCore (f t a) a.core ∧ (f t a).seq a.core = g a (t.seq a.core))
    (l : List Arrival) (hl : (l.map (·.core)).Nodup) (s : State) (hn : s.now = n) (hP : ∀ a ∈ l, P a (s.seq a.core)) :
    (l.foldl f s).now = s.now ∧ (l.foldl f s).mem = s.mem ∧ (l.foldl f s).cairn = s.cairn ∧
      (∀ a ∈ l, (l.foldl f s).seq a.core = g a (s.seq a.core)) ∧ ∀ c, (∀ a ∈ l, a.core ≠ c) → (l.foldl f s).seq c = s.seq c := by
  induction l generalizing s with
  | nil => exact ⟨rfl, rfl, rfl, by simp, fun _ _ => rfl⟩
  | cons a l ih =>
    rw [List.map_cons, List.nodup_cons] at hl
    obtain ⟨honly, hseq⟩ := hf s a hn (hP a List.mem_cons_self)
    have hne : ∀ b ∈ l, a.core ≠ b.core := fun b hb heq => hl.1 (heq ▸ List.mem_map_of_mem (f := (·.core)) hb)
    obtain ⟨hnow, hmem, hcairn, hon, hoff⟩ := ih hl.2 (f s a) (honly.now.trans hn) fun b hb => by
      rw [honly.other _ (hne b hb)]
      exact hP b (List.mem_cons_of_mem _ hb)
    rw [List.foldl_cons]
    refine ⟨hnow.trans honly.now, hmem.trans honly.mem, hcairn.trans honly.cairn, fun b hb => ?_, fun c hc => ?_⟩
    · obtain rfl | hb := List.mem_cons.mp hb
      · rw [hoff _ fun d hd => (hne d hd).symm, hseq]
      · rw [hon b hb, honly.other _ (hne b hb)]
    · rw [hoff c fun d hd => hc d (List.mem_cons_of_mem _ hd), honly.other c (hc a List.mem_cons_self)]

/-- The channel as a barrier leaves it for the next one (R184, R268). -/
def CairnCh.next (k : CairnCh) (halting timedOut : Bool) : CairnCh :=
  { CairnCh.reset with
    parts := k.parts, timeout := k.timeout, phase := k.phase, mw := k.mw, gen := k.gen + 1,
    fault := halting && k.fault, stop := halting && k.stop, dead := halting && !allArrived k, timedOut := timedOut }

/-- What the participants of a barrier become; no other core, no memory and no other barrier changes. -/
structure State.EndsBarrier (s t : State) (ch : BitVec 4) (k : CairnCh) (g : Arrival → Seq → Seq) : Prop where
  mem : t.mem = s.mem
  cairn : t.cairnCh ch.toNat = k
  on : ∀ a ∈ (s.cairnCh ch.toNat).arrived, t.seq a.core = g a (s.seq a.core)
  off : ∀ c, (∀ a ∈ (s.cairnCh ch.toNat).arrived, a.core ≠ c) → t.seq c = s.seq c

section
variable {s : State} {ch : BitVec 4} {timedOut : Bool}

theorem completeBarrier_of_all (halting : Bool) (P : Arrival → Seq → Prop) (g : Arrival → Seq → Seq)
    (hhalting : ((s.cairnCh ch.toNat).fault || (s.cairnCh ch.toNat).stop || timedOut) = halting)
    (hchild : (s.cairnCh ch.toNat).childEarly = []) (hearly : halting = true ∨ (s.cairnCh ch.toNat).early = [])
    (hnodup : ((s.cairnCh ch.toNat).arrived.map (·.core)).Nodup)
    (hP : ∀ a ∈ (s.cairnCh ch.toNat).arrived, P a (s.seq a.core))
    (hone : ∀ (t : State) (vote : Bool × Bool) (a : Arrival), t.now = s.now → P a (t.seq a.core) → t.OnlyCore (t.completeOne ch halting timedOut vote a) a.core ∧
      (t.completeOne ch halting timedOut vote a).seq a.core = g a (t.seq a.core)) :
    s.EndsBarrier (s.completeBarrier ch timedOut) ch ((s.cairnCh ch.toNat).next halting timedOut) g := by
  have hjoined : (if halting = true then [] else (s.cairnCh ch.toNat).early) = ([] : List Arrival) := by
    obtain h | h := hearly
    · rw [if_pos h]
    · rw [h, ite_self]
  unfold completeBarrier
  dsimp only
  rw [hhalting, hchild, hjoined, List.foldl_nil, List.foldl_nil]
  generalize State.voteCommits _ _ _ = vote
  obtain ⟨-, hmem, hcairn, hon, hoff⟩ := foldl_onlyCore (n := s.now) (fun t a hn hp => hone t vote a hn hp)
    (s.cairnCh ch.toNat).arrived hnodup (s.setCairn ch.toNat ((s.cairnCh ch.toNat).next halting timedOut)) rfl hP
  have hdone : s.EndsBarrier ((s.cairnCh ch.toNat).arrived.foldl (fun s a => s.completeOne ch halting timedOut vote a)
      (s.setCairn ch.toNat ((s.cairnCh ch.toNat).next halting timedOut))) ch ((s.cairnCh ch.toNat).next halting timedOut) g :=
    ⟨hmem, (cairnCh_of_cairn hcairn _).trans (setCairn_cairnCh_same ..), hon, hoff⟩
  split
  · exact ⟨hdone.mem, hdone.cairn, hdone.on, hdone.off⟩
  · exact hdone

/-- A barrier with a mark, or past its TIMEOUT, halts its participants (R184, R268, R269). -/
theorem completeBarrier_of_halting (hhalting : ((s.cairnCh ch.toNat).fault || (s.cairnCh ch.toNat).stop || timedOut) = true)
    (hchild : (s.cairnCh ch.toNat).childEarly = []) (hnodup : ((s.cairnCh ch.toNat).arrived.map (·.core)).Nodup)
    (hplain : ∀ a ∈ (s.cairnCh ch.toNat).arrived, (s.seq a.core).plainAt ch a) :
    s.EndsBarrier (s.completeBarrier ch timedOut) ch ((s.cairnCh ch.toNat).next true timedOut) (fun a q => q.haltedAt a timedOut) :=
  completeBarrier_of_all true (fun a q => q.plainAt ch a) _ hhalting hchild (.inl rfl) hnodup hplain
    fun _ _ _ _ hp => completeOne_halting hp

/-- A barrier without a mark lets its participants go on (R268). -/
theorem completeBarrier_of_clean (hf : (s.cairnCh ch.toNat).fault = false) (hstop : (s.cairnCh ch.toNat).stop = false)
    (hearly : (s.cairnCh ch.toNat).early = []) (hchild : (s.cairnCh ch.toNat).childEarly = [])
    (hnodup : ((s.cairnCh ch.toNat).arrived.map (·.core)).Nodup)
    (hplain : ∀ a ∈ (s.cairnCh ch.toNat).arrived, (s.seq a.core).plainAt ch a)
    (hpc : ∀ a ∈ (s.cairnCh ch.toNat).arrived, (s.seq a.core).pc ≠ 4095) :
    s.EndsBarrier (s.completeBarrier ch false) ch ((s.cairnCh ch.toNat).next false false) (fun _ q => q.leavesAt s.now) :=
  completeBarrier_of_all false (fun a q => q.plainAt ch a ∧ q.pc ≠ 4095) _ (by rw [hf, hstop]; rfl) hchild (.inr hearly) hnodup
    (fun a ha => ⟨hplain a ha, hpc a ha⟩) fun _ _ _ hn ⟨hp, hpc⟩ => hn ▸ completeOne_leaving hp hpc

theorem landAll_of_not_landed {cs : List Nat} (h : ∀ c ∈ cs, (s.seq c).wait = .none) : s.landAll cs = s := by
  unfold landAll
  induction cs with
  | nil => rfl
  | cons c cs ih =>
    rw [List.foldl_cons, show s.landArrive c = s by simp [landArrive, h c List.mem_cons_self]]
    exact ih fun d hd => h d (List.mem_cons_of_mem _ hd)

theorem anyVotes_of_plain (hplain : ∀ a ∈ (s.cairnCh ch.toNat).arrived, (s.seq a.core).plainAt ch a) : s.anyVotes ch = false := by
  rw [anyVotes, List.any_eq_false]
  intro a ha
  obtain h | ⟨h, -⟩ := hplain a ha <;> simp [h, votes]

theorem anyLands_of_plain (hplain : ∀ a ∈ (s.cairnCh ch.toNat).arrived, (s.seq a.core).plainAt ch a) : s.anyLands ch = false := by
  rw [anyLands, List.any_eq_false]
  intro a ha
  obtain h | ⟨h, -⟩ := hplain a ha <;> simp [h, lands]

/-- A barrier after which no participant waits ends with that. -/
theorem finishBarrier_eq {k : CairnCh} {g : Arrival → Seq → Seq} (h : s.EndsBarrier (s.completeBarrier ch false) ch k g)
    (hg : ∀ a ∈ (s.cairnCh ch.toNat).arrived, (g a (s.seq a.core)).wait = .none) : s.finishBarrier ch = s.completeBarrier ch false := by
  refine landAll_of_not_landed fun c hc => ?_
  obtain ⟨a, ha, rfl⟩ := List.mem_map.mp hc
  rw [h.on a ha]
  exact hg a ha

end

theorem haltedAt_wait (q : Seq) (a : Arrival) (timedOut : Bool) : (q.haltedAt a timedOut).wait = .none := by
  unfold Seq.haltedAt
  split
  · next h => exact h.1
  · rfl

theorem leavesAt_wait (q : Seq) (now : Nat) : (q.leavesAt now).wait = .none := by
  unfold Seq.leavesAt
  split
  · next h => exact h
  · rfl

theorem haltedAt_of_halts {q : Seq} {ch : BitVec 4} (h : q.wait = .barrier ch ∨ q.st = 1 ∨ q.st = 2) (a : Arrival) (timedOut : Bool) :
    q.haltedAt a timedOut = q.haltsAt a.pc timedOut := by
  refine if_neg fun ⟨hw, hst⟩ => ?_
  obtain h | h := h
  · simp [hw] at h
  · exact hst h

section
variable {s : State} {ch : BitVec 4}

theorem exec_cairnBarrierComplete (hmw : mwOn (s.cairnCh ch.toNat) = false) {due : Nat} (hdue : (s.cairnCh ch.toNat).due = some due)
    (hnow : due ≤ s.now) (hplain : ∀ a ∈ (s.cairnCh ch.toNat).arrived, (s.seq a.core).plainAt ch a) :
    exec (.cairnBarrierComplete ch) s = .next (s.finishBarrier ch) := by
  refine if_pos ?_
  rw [anyVotes_of_plain hplain, anyLands_of_plain hplain, hmw]
  simp [barrierDue, hmw, hdue, hnow]

theorem exec_moduleWideComplete (hmw : mwOn (s.cairnCh ch.toNat) = true) {rel : Nat}
    (hrel : (s.cairnCh ch.toNat).release = some rel) (hnow : rel ≤ s.now)
    (hplain : ∀ a ∈ (s.cairnCh ch.toNat).arrived, (s.seq a.core).plainAt ch a) :
    exec (.moduleWideComplete ch) s = .next (s.finishBarrier ch) := by
  refine if_pos ?_
  rw [anyVotes_of_plain hplain, anyLands_of_plain hplain, hmw]
  simp [barrierDue, hmw, hrel, hnow]

/-- A clean barrier, as its participants and the other cores see it. -/
theorem finishBarrier_of_clean (hf : (s.cairnCh ch.toNat).fault = false) (hstop : (s.cairnCh ch.toNat).stop = false)
    (hearly : (s.cairnCh ch.toNat).early = []) (hchild : (s.cairnCh ch.toNat).childEarly = [])
    (hnodup : ((s.cairnCh ch.toNat).arrived.map (·.core)).Nodup)
    (hplain : ∀ a ∈ (s.cairnCh ch.toNat).arrived, (s.seq a.core).plainAt ch a)
    (hpc : ∀ a ∈ (s.cairnCh ch.toNat).arrived, (s.seq a.core).pc ≠ 4095) :
    (∀ c, (∃ a ∈ (s.cairnCh ch.toNat).arrived, a.core = c) → (s.seq c).wait = .barrier ch →
      (s.finishBarrier ch).seq c = { (s.seq c).goesOn s.now with wait := .none, nextIssue := s.now }) ∧
    (∀ c, (¬ (∃ a ∈ (s.cairnCh ch.toNat).arrived, a.core = c) ∨ (s.seq c).wait = .none) →
      (s.finishBarrier ch).seq c = s.seq c) ∧
    (s.finishBarrier ch).mem = s.mem ∧ (s.finishBarrier ch).cairnCh ch.toNat = (s.cairnCh ch.toNat).next false false := by
  have hend := completeBarrier_of_clean hf hstop hearly hchild hnodup hplain hpc
  rw [finishBarrier_eq hend fun _ _ => leavesAt_wait _ _]
  refine ⟨?_, fun c hc => ?_, hend.mem, hend.cairn⟩
  · rintro c ⟨a, ha, rfl⟩ hw
    rw [hend.on a ha, Seq.leavesAt, if_neg (by simp [hw])]
  · by_cases hon : ∃ a ∈ (s.cairnCh ch.toNat).arrived, a.core = c
    · obtain ⟨a, ha, rfl⟩ := hon
      rw [hend.on a ha, Seq.leavesAt, if_pos (hc.resolve_left fun h => h ⟨a, ha, rfl⟩)]
    · exact hend.off c fun a ha heq => hon ⟨a, ha, heq⟩

end

theorem barrierCompletes : Claim.BarrierCompletes := by
  intro s ch due k on hmw hdue hnow hchild hnodup hplain
  have hexec := exec_cairnBarrierComplete hmw hdue hnow hplain
  refine ⟨fun hf hstop hearly hpc => ⟨_, hexec, ?_⟩, fun hmark => ⟨_, hexec, ?_⟩⟩
  · obtain ⟨hon, hoff, hmem, hch⟩ := finishBarrier_of_clean hf hstop hearly hchild hnodup hplain hpc
    exact ⟨hon, hoff, hmem, hch⟩
  · have hend := completeBarrier_of_halting (timedOut := false)
      (show (k.fault || k.stop || false) = true by simpa using hmark) hchild hnodup hplain
    rw [finishBarrier_eq hend fun _ _ => haltedAt_wait _ _ _]
    refine ⟨?_, fun c hc => hend.off c fun a ha heq => hc ⟨a, ha, heq⟩, hend.mem, congrArg CairnCh.arrived hend.cairn⟩
    rintro c ⟨a, ha, rfl⟩ hhalts
    rw [hend.on a ha, haltedAt_of_halts hhalts]
    exact ⟨rfl, rfl⟩

theorem moduleWideBarrierCompletes : Claim.ModuleWideBarrierCompletes := by
  intro s ch rel k on hmw hrel hnow hchild hnodup hplain hf hstop hearly hpc
  obtain ⟨hon, hoff, hmem, hch⟩ := finishBarrier_of_clean hf hstop hearly hchild hnodup hplain hpc
  exact ⟨_, exec_moduleWideComplete hmw hrel hnow hplain, hon, hoff, hmem, congrArg CairnCh.gen hch, congrArg CairnCh.arrived hch⟩

/-! ## Barriers time out (O21) -/

section
variable {s : State} {ch : BitVec 4}

theorem exec_timeout (h : s.timeoutDue ch = true) :
    exec (if mwOn (s.cairnCh ch.toNat) = true then .moduleWideTimeout ch else .cairnTimeout ch) s = .next (s.timeoutBarrier ch) := by
  cases hmw : mwOn (s.cairnCh ch.toNat) with
  | true =>
    refine (if_neg (by rw [hmw]; decide)).trans (if_pos h)
  | false => exact if_pos (by rw [hmw, h]; rfl)

theorem exec_moduleWideTimeout_of_mark (hmw : mwOn (s.cairnCh ch.toNat) = true) (htimeout : s.timeoutDue ch = false) {due : Nat}
    (hdue : (s.cairnCh ch.toNat).due = some due) (hnow : due ≤ s.now) :
    exec (.moduleWideTimeout ch) s = .next (((s.sendArrive ch (s.cairnCh ch.toNat)).sendRelease ch (s.cairnCh ch.toNat) s.now).completeBarrier
      ch false) := by
  change execModuleWideTimeout ch s = _
  simp [execModuleWideTimeout, hmw, htimeout, hdue, hnow]

/-- A halting barrier, from a state that differs in what it has sent on the links and in the channel's marks. -/
theorem completeBarrier_of_halting_sent {t : State} {k : CairnCh} (hcores : t.cores = s.cores) (hmem : t.mem = s.mem)
    (hch : t.cairnCh ch.toNat = k) {timedOut : Bool} (harr : k.arrived = (s.cairnCh ch.toNat).arrived)
    (hhalting : (k.fault || k.stop || timedOut) = true)
    (hchild : k.childEarly = []) (hnodup : ((s.cairnCh ch.toNat).arrived.map (·.core)).Nodup)
    (hplain : ∀ a ∈ (s.cairnCh ch.toNat).arrived, (s.seq a.core).plainAt ch a) :
    s.EndsBarrier (t.completeBarrier ch timedOut) ch (k.next true timedOut) (fun a q => q.haltedAt a timedOut) := by
  have hseq (c : Nat) : t.seq c = s.seq c := by rw [seq, hcores, seq]
  have hend := completeBarrier_of_halting (s := t) (ch := ch) (timedOut := timedOut) (by rw [hch]; exact hhalting) (by rw [hch]; exact hchild)
    (by rw [hch, harr]; exact hnodup) (by rw [hch, harr]; simpa only [hseq] using hplain)
  rw [hch] at hend
  refine ⟨hend.mem.trans hmem, hend.cairn, fun a ha => ?_, fun c hc => ?_⟩
  · rw [hend.on a (by rw [hch, harr]; exact ha), hseq]
  · rw [hend.off c (by rw [hch, harr]; exact hc), hseq]

theorem timeoutBarrier_ends (hchild : (s.cairnCh ch.toNat).childEarly = []) (hnodup : ((s.cairnCh ch.toNat).arrived.map (·.core)).Nodup)
    (hplain : ∀ a ∈ (s.cairnCh ch.toNat).arrived, (s.seq a.core).plainAt ch a) :
    s.EndsBarrier (s.timeoutBarrier ch) ch ({ s.cairnCh ch.toNat with fault := true }.next true true)
      (fun a q => q.haltedAt a true) := by
  unfold timeoutBarrier
  dsimp only
  have hmarked : (s.setCairn ch.toNat { s.cairnCh ch.toNat with fault := true }).cairnCh ch.toNat =
      { s.cairnCh ch.toNat with fault := true } := setCairn_cairnCh_same ..
  split
  · have hsyms := sent_besidesSyms (s.setCairn ch.toNat { s.cairnCh ch.toNat with fault := true }) ch
      { s.cairnCh ch.toNat with fault := true } s.now
    exact completeBarrier_of_halting_sent (s := s) ((cores_of_besidesSyms hsyms).trans rfl) ((mem_of_besidesSyms hsyms).trans rfl)
      ((cairnCh_of_cairn (cairn_of_besidesSyms hsyms) _).trans hmarked) rfl (by simp) hchild hnodup hplain
  · exact completeBarrier_of_halting_sent (s := s) (t := s.setCairn ch.toNat { s.cairnCh ch.toNat with fault := true }) rfl rfl hmarked
      rfl (by simp) hchild hnodup hplain

end

theorem barrierTimesOut : Claim.BarrierTimesOut := by
  intro s ch k on halts hchild hnodup hplain
  refine ⟨fun hdue => ⟨_, exec_timeout hdue, ?_⟩, fun due hmw htimeout hdue hnow hmark =>
    ⟨_, exec_moduleWideTimeout_of_mark hmw htimeout hdue hnow, ?_⟩⟩
  · have hend := timeoutBarrier_ends hchild hnodup hplain
    refine ⟨fun a ha hhalts => ?_, fun c hc => hend.off c fun a ha heq => hc ⟨a, ha, heq⟩, hend.mem, congrArg CairnCh.arrived hend.cairn,
      congrArg CairnCh.gen hend.cairn⟩
    rw [hend.on a ha, haltedAt_of_halts hhalts]
    refine ⟨rfl, Bool.or_true _, fun hfree => ?_⟩
    simp [Seq.haltsAt, hfree]
  · have hsyms := sent_besidesSyms s ch k s.now
    have hend := completeBarrier_of_halting_sent (s := s) (k := k) (timedOut := false) (cores_of_besidesSyms hsyms)
      (mem_of_besidesSyms hsyms) (cairnCh_of_cairn (cairn_of_besidesSyms hsyms) _) rfl (by simpa using hmark) hchild hnodup hplain
    exact ⟨fun a ha hhalts => by rw [hend.on a ha, haltedAt_of_halts hhalts]; rfl,
      fun c hc => hend.off c fun a ha heq => hc ⟨a, ha, heq⟩, hend.mem, congrArg CairnCh.arrived hend.cairn⟩

/-- Settles O21: a barrier ends for its participants alone. -/
theorem barriers : Obligations.Barriers :=
  ⟨barrierInstructionsArrive, moduleWideBarriersProgress, barrierCompletes, barrierTimesOut, moduleWideBarrierCompletes⟩

end Sys2Proof.Machine

end

section
/-! PROOFS. O23, O24, O25: the feeder, the cells and the bottom of the array. -/

namespace Sys2Proof.Machine

open State

/-! ## The feeder (O23) -/

/-- The fill of a buffer with the block of a pass (R79, R80). -/
def State.fillOf (s : State) (c : Nat) (p : Pass) : Block :=
  let b : Block :=
    { addr := p.block, astride := p.astride, shape := p.shape, toks := p.toks, cplx := p.cplx, due := 0, filled := false,
      etype := p.etype, pass := p.id, elems := [] }
  let n := ((blockTiles b).map fun x => (s.actTile c (tileAddr b x.1 x.2)).parcels).sum
  { b with due := s.now + (n + 3) / 4 + 4 }

theorem exec_feederFillStart {s : State} {c : CoreId} {p : Pass}
    (h : (newBlocks (s.arr c.toNat).passes).find? (fun p => !(s.arr c.toNat).hasBlock p) = some p) :
    exec (.feederFillStart c) s =
      if (s.arr c.toNat).bufA.isNone ∧ (s.arr c.toNat).freeA ≤ s.now then
        .next (s.setArr c.toNat { s.arr c.toNat with bufA := some (s.fillOf c.toNat p) })
      else if (s.arr c.toNat).bufB.isNone ∧ (s.arr c.toNat).freeB ≤ s.now then
        .next (s.setArr c.toNat { s.arr c.toNat with bufB := some (s.fillOf c.toNat p) })
      else .next s := by
  change execFeederFillStart c s = _
  unfold execFeederFillStart
  dsimp only
  rw [h]
  rfl

theorem exec_feederFillDone {s : State} {c : CoreId} {second : Bool} {b : Block}
    (h : (if second then (s.arr c.toNat).bufB else (s.arr c.toNat).bufA) = some b) (hfilled : b.filled = false) (hdue : b.due ≤ s.now) :
    exec (.feederFillDone c second) s = .next ((s.setArr c.toNat
      (if second then { s.arr c.toNat with bufB := some { b with filled := true, elems := (s.readBlock c.toNat b).1 } }
       else { s.arr c.toNat with bufA := some { b with filled := true, elems := (s.readBlock c.toNat b).1 } })).countPoison c.toNat
        (s.readBlock c.toNat b).2) := by
  change execFeederFillDone c second s = _
  unfold execFeederFillDone
  dsimp only
  rw [h]
  exact if_neg (by simp [hfilled]; omega)

theorem feederFills : Claim.FeederFills := by
  intro s c p b k a nb n
  refine ⟨fun h hA hfree => ?_, fun h hbusy hB hfree => ?_, fun h hfilled hdue => ?_, fun h hfilled hdue => ?_⟩
  · rw [exec_feederFillStart h]
    exact if_pos ⟨by rw [show (s.arr c.toNat).bufA = none from hA]; rfl, hfree⟩
  · rw [exec_feederFillStart h]
    refine (if_neg fun hA => ?_).trans (if_pos ⟨by rw [show (s.arr c.toNat).bufB = none from hB]; rfl, hfree⟩)
    obtain hne | hlt := hbusy
    · exact hne (Option.isNone_iff_eq_none.mp hA.1)
    · exact absurd hA.2 (Nat.not_le.mpr hlt)
  · exact exec_feederFillDone h hfilled hdue
  · exact exec_feederFillDone h hfilled hdue

section
variable {s : State} {c : CoreId} {p : Pass} {rest : List Pass} {tl : Tile}

/-- The feeder's step where cell (0, 0) can take a token slot of the shape that runs (R81, R83). -/
theorem exec_feederRelease (hp : (s.arr c.toNat).passes = p :: rest) (hbusy : ((s.arr c.toNat).cell 0 0).busy = none)
    (hin : ((s.arr c.toNat).cell 0 0).inRow = []) (hdone : ((s.arr c.toNat).cell 0 0).done ≤ s.now)
    (hshape : (s.arr c.toNat).runShape = some p.shape) (htile : (s.arr c.toNat).tile p.tid = some tl) :
    exec (.feederRelease c) s =
      (let a := { s.arr c.toNat with lane := (s.arr c.toNat).lane + 1 }
      let b := (s.arr c.toNat).blockFor p
      if laneBubble p.shape (s.arr c.toNat).lane || !(b.elim false (·.filled)) || s.slotDraining c.toNat p then
        .next (s.setArr c.toNat (a.feed (slotWindows none p none 0 (tileSteps tl.form.toNat) s.now false false)))
      else
        let last := decide (p.next + 1 = p.toks)
        let lead := p.next = 0 && a.markTid ≠ p.tid
        let trail := if last then a.trails p else none
        let p' := { p with next := p.next + 1 }
        let a := { a with markTid := trail.getD p.tid, live := if p.next = 0 then a.live ++ [p'] else a.live }
        let a := a.feed (slotWindows b p (some p.next) tl.wexp (tileSteps tl.form.toNat) s.now lead trail.isSome)
        if last then .next (s.setArr c.toNat { (a.freeBlock p s.now) with passes := rest })
        else .next (s.setArr c.toNat { a with passes := p' :: rest })) := by
  change execFeederRelease c s = _
  unfold execFeederRelease
  dsimp only
  split
  · next h => exact absurd (hp.symm.trans h) (List.cons_ne_nil _ _)
  · next p' rest' h =>
    obtain ⟨rfl, rfl⟩ := List.cons.inj (hp.symm.trans h)
    have hsame : ¬ (s.arr c.toNat).runShape ≠ some p.shape := fun hne => hne hshape
    rw [if_neg (by simp [hbusy, hin, hdone]), if_neg (by simp [hshape]), if_neg hsame, htile, ← hshape]
    rfl

end

theorem feederReleases : Claim.FeederReleases := by
  intro s c p rest b tl k a x n hp hbusy hin hdone hshape htile
  have hexec := exec_feederRelease hp hbusy hin hdone hshape htile
  refine ⟨fun hbubble => hexec.trans (if_pos ?_), fun hlane hb hfilled hdrain htoks hnext => hexec.trans ((if_neg ?_).trans ?_)⟩
  · obtain h | h | h := hbubble
    · rw [show laneBubble p.shape (s.arr c.toNat).lane = true from h]
      rfl
    · rw [show (s.arr c.toNat).blockFor p = none from h, Bool.or_assoc]
      exact Bool.or_true _
    · rw [show s.slotDraining c.toNat p = true from h]
      exact Bool.or_true _
  · rw [show laneBubble p.shape (s.arr c.toNat).lane = false from hlane, show (s.arr c.toNat).blockFor p = some b from hb,
      show s.slotDraining c.toNat p = false from hdrain]
    simp [hfilled]
  · dsimp only
    rw [decide_eq_false (show p.next + 1 ≠ p.toks by omega), decide_eq_false hnext, if_neg hnext,
      show (s.arr c.toNat).blockFor p = some b from hb]
    rfl

/-- Settles O23: a block is filled before its tokens are released. -/
theorem feederWorks : Obligations.FeederWorks := ⟨feederFills, feederReleases⟩

/-! ## Rows of tiles, and cells (O24) -/

theorem setCell_cell_same (a : Arr) (r j : Nat) (x : Cell) : (a.setCell r j x).cell r j = x := Sparse.get_set_same ..

theorem setCell_cell_other (a : Arr) (r j : Nat) (x : Cell) {r' j' : Nat} (h : 64 * r + j ≠ 64 * r' + j') :
    (a.setCell r j x).cell r' j' = a.cell r' j' := Sparse.get_set_other _ _ _ h

theorem countPoison_arr (s : State) (c n k : Nat) : (s.countPoison c n).arr k = s.arr k := rfl

/-- What a row load register holds of a row of a tile (R86). -/
def State.rowLoadOf (s : State) (c : Nat) (t : Tile) (r : Nat) : RowLoad :=
  { tid := t.tid, sets := (s.tileRow c t r).map fun ss => ({ tid := t.tid, form := t.form, etype := t.etype, slots := ss } : CellSet),
    copied := [] }

/-- The row read of the load engine where the row load register is empty (R86). -/
theorem exec_rowLoadRead {s : State} {c : CoreId} {l : Load} {tl : Tile} (hload : (s.arr c.toNat).load = some l)
    (htile : (s.arr c.toNat).tile l.tid = some tl) (hempty : Sparse.get none (s.arr c.toNat).rows l.nextRow = none) :
    let m := l.read (Sparse.get 0 (s.arr c.toNat).rowFree l.nextRow) (State.rowParcels tl l.nextRow).length
    exec (.rowLoadRead c) s =
      if s.now + 1 < m.step + (if m.used = 0 then 0 else 1) then .next s
      else
        .next ((s.setArr c.toNat { s.arr c.toNat with
          rows := Sparse.set none (s.arr c.toNat).rows l.nextRow (some (s.rowLoadOf c.toNat tl l.nextRow)),
          load := if l.nextRow = 63 then none else some { m with nextRow := l.nextRow + 1 } }).countPoison c.toNat
            ((State.rowParcels tl l.nextRow).map fun k => (s.tileParcels c.toNat tl.addr k 1).2).sum) := by
  intro m
  change execRowLoadRead c s = _
  unfold execRowLoadRead
  dsimp only
  split
  · next h => cases hload.symm.trans h
  · next l' h =>
    cases hload.symm.trans h
    split
    · next t' h _ =>
      cases htile.symm.trans h
      rfl
    · next hno => exact absurd hempty (hno _ htile)

theorem exec_rowLoadRead_of_full {s : State} {c : CoreId} {l : Load} {x : RowLoad} (hload : (s.arr c.toNat).load = some l)
    (hfull : Sparse.get none (s.arr c.toNat).rows l.nextRow = some x) : exec (.rowLoadRead c) s = .next s := by
  change execRowLoadRead c s = _
  unfold execRowLoadRead
  dsimp only
  split
  · rfl
  · next l' h =>
    cases hload.symm.trans h
    split
    · next h => cases hfull.symm.trans h
    · rfl

theorem Load.read_spec (l : Load) (free n : Nat) :
    (l.read free n).used < 4 ∧ (l.read free n).nextRow = l.nextRow ∧
      4 * (l.read free n).step + (l.read free n).used = n + (if l.step < free then 4 * free else 4 * l.step + l.used) := by
  unfold Load.read
  dsimp only
  split
  · exact ⟨by omega, rfl, by dsimp only; omega⟩
  · exact ⟨by omega, rfl, by omega⟩

theorem exec_shadowCopy {s : State} {c : CoreId} {r j : BitVec 6} {reg : RowLoad}
    (hreg : Sparse.get none (s.arr c.toNat).rows r.toNat = some reg) (hshadow : ((s.arr c.toNat).cell r.toNat j.toNat).hasShadow = false)
    (hready : ((s.arr c.toNat).cell r.toNat j.toNat).shReady ≤ s.now) (hmarker : ((s.arr c.toNat).cell r.toNat j.toNat).marker = false)
    (hnew : j.toNat ∉ reg.copied) :
    exec (.shadowCopy c r j) s = .next (s.setArr c.toNat
      { (s.arr c.toNat).setCell r.toNat j.toNat { (s.arr c.toNat).cell r.toNat j.toNat with
          shadow := reg.sets.getD j.toNat .empty, hasShadow := true, shReady := s.now + 1 } with
        rows := Sparse.set none (s.arr c.toNat).rows r.toNat
          (if reg.copied.length = 63 then none else some { reg with copied := j.toNat :: reg.copied })
        rowFree := if reg.copied.length = 63 then Sparse.set 0 (s.arr c.toNat).rowFree r.toNat (s.now + 1)
          else (s.arr c.toNat).rowFree }) := by
  change execShadowCopy c r j s = _
  unfold execShadowCopy
  dsimp only
  rw [hreg]
  simp [hshadow, hready, hmarker, hnew, Arr.setCell]

theorem tileRowsLoad : Claim.TileRowsLoad := by
  intro s c l tl r j reg k a x m granted
  refine ⟨fun hload htile hempty hgranted => ?_, fun hload htile hwait => ?_, fun free n => Load.read_spec l free n,
    fun hreg hshadow hready hmarker hnew => ?_⟩
  · refine ⟨_, s.rowLoadOf k tl l.nextRow, (exec_rowLoadRead hload htile hempty).trans (if_neg (Nat.not_lt.mpr hgranted)),
      ?_, rfl, rfl, ?_, ?_, rfl⟩
    · rw [countPoison_arr, setArr_arr_same]
      exact Sparse.get_set_same none (some (s.rowLoadOf k tl l.nextRow)) a.rows l.nextRow
    · rw [countPoison_arr, setArr_arr_same]
    · rw [countPoison_arr, setArr_arr_same]
  · cases hempty : Sparse.get none a.rows l.nextRow with
    | none => exact (exec_rowLoadRead hload htile hempty).trans (if_pos hwait)
    | some x => exact exec_rowLoadRead_of_full hload hempty
  · refine ⟨_, exec_shadowCopy hreg hshadow hready hmarker hnew, ?_, fun r' j' hne => ?_, ?_, ?_⟩
    · rw [setArr_arr_same]
      exact setCell_cell_same a r.toNat j.toNat _
    · rw [setArr_arr_same]
      exact setCell_cell_other a r.toNat j.toNat _ hne.symm
    · rw [setArr_arr_same]
      exact Sparse.get_set_same (none : Option RowLoad) ..
    · rw [setArr_arr_same]

section
variable {s : State} {c : CoreId} {r j : BitVec 6} {w : RowReg} {ws : List RowReg} {ps : PSum} {pss : List PSum} {i : Nat}

theorem exec_cellTokenStart (hbusy : ((s.arr c.toNat).cell r.toNat j.toNat).busy = none)
    (hrow : ((s.arr c.toNat).cell r.toNat j.toNat).inRow = w :: ws) (htop : topRow w.shape r.toNat = false)
    (hps : ((s.arr c.toNat).cell r.toNat j.toNat).inPs = ps :: pss) (htok : w.tok ≠ none)
    (htid : ((s.arr c.toNat).cell r.toNat j.toNat).active.tid = w.tid)
    (hstart : max (max ((s.arr c.toNat).cell r.toNat j.toNat).done w.stamp)
      (max ps.stamp ((s.arr c.toNat).cell r.toNat j.toNat).readyAt) ≤ s.now) :
    exec (.cellTokenStart c r j) s = .next (s.setArr c.toNat ((s.arr c.toNat).setCell r.toNat j.toNat
      { (s.arr c.toNat).cell r.toNat j.toNat with
        row := some w, ps := some ps, busy := some 0,
        start := max (max ((s.arr c.toNat).cell r.toNat j.toNat).done w.stamp)
          (max ps.stamp ((s.arr c.toNat).cell r.toNat j.toNat).readyAt)
        inRow := ws, inPs := pss })) := by
  obtain ⟨tok, htok⟩ := Option.ne_none_iff_exists'.mp htok
  change execCellTokenStart c r j s = _
  unfold execCellTokenStart
  dsimp only
  generalize (s.arr c.toNat).cell r.toNat j.toNat = x at hbusy hrow hps htid hstart
  rw [hbusy, hrow]
  simp [htop, hps, htok, htid]
  exact fun h => absurd hstart (by omega)

theorem exec_cellTokenStart_of_other_tile (hbusy : ((s.arr c.toNat).cell r.toNat j.toNat).busy = none)
    (hrow : ((s.arr c.toNat).cell r.toNat j.toNat).inRow = w :: ws)
    (hps : ((s.arr c.toNat).cell r.toNat j.toNat).inPs = ps :: pss) (htok : w.tok ≠ none)
    (htid : ((s.arr c.toNat).cell r.toNat j.toNat).active.tid ≠ w.tid)
    (hshadow : ((s.arr c.toNat).cell r.toNat j.toNat).hasShadow = false) :
    exec (.cellTokenStart c r j) s = .next (s.setArr c.toNat ((s.arr c.toNat).setCell r.toNat j.toNat
      { (s.arr c.toNat).cell r.toNat j.toNat with marker := true })) := by
  obtain ⟨tok, htok⟩ := Option.ne_none_iff_exists'.mp htok
  change execCellTokenStart c r j s = _
  unfold execCellTokenStart
  dsimp only
  generalize (s.arr c.toNat).cell r.toNat j.toNat = x at hbusy hrow hps htid hshadow
  rw [hbusy, hrow]
  simp [hps, htok, htid, hshadow, hbusy, hrow]

theorem exec_cellStep (hbusy : ((s.arr c.toNat).cell r.toNat j.toNat).busy = some i)
    (hrow : ((s.arr c.toNat).cell r.toNat j.toNat).row = some w) (hps : ((s.arr c.toNat).cell r.toNat j.toNat).ps = some ps)
    (hi : i < w.n) (hnow : ((s.arr c.toNat).cell r.toNat j.toNat).start + i ≤ s.now) :
    exec (.cellStep c r j) s = .next (s.setArr c.toNat ((s.arr c.toNat).setCell r.toNat j.toNat
      { (s.arr c.toNat).cell r.toNat j.toNat with
        busy := some (i + 1), ps := some (cellProduct ((s.arr c.toNat).cell r.toNat j.toNat).active w ps i) })) := by
  change execCellStep c r j s = _
  unfold execCellStep
  dsimp only
  generalize (s.arr c.toNat).cell r.toNat j.toNat = x at hbusy hrow hps hnow
  rw [hbusy, hrow, hps]
  exact if_pos ⟨hi, hnow⟩

/-- The end of a token slot in the inside of a sub-array (R82, R98). -/
theorem exec_tokenSlotEnd (hbusy : ((s.arr c.toNat).cell r.toNat j.toNat).busy = some w.n)
    (hrow : ((s.arr c.toNat).cell r.toNat j.toNat).row = some w) (hps : ((s.arr c.toNat).cell r.toNat j.toNat).ps = some ps)
    (hnow : ((s.arr c.toNat).cell r.toNat j.toNat).start + w.n ≤ s.now + 1) (htrail : w.trail = false)
    (hj : (j.toNat + 1) % shapeH w.shape ≠ 0) (hr : (r.toNat + 1) % shapeH w.shape ≠ 0) :
    let x := (s.arr c.toNat).cell r.toNat j.toNat
    let a := (s.arr c.toNat).setCell r.toNat j.toNat { x with busy := none, row := none, ps := none, done := x.start + w.n }
    let a := a.setCell r.toNat (j.toNat + 1) { a.cell r.toNat (j.toNat + 1) with
      inRow := (a.cell r.toNat (j.toNat + 1)).inRow ++ [{ w with stamp := x.start + w.n }] }
    exec (.tokenSlotEnd c r j) s = .next (s.setArr c.toNat (a.setCell (r.toNat + 1) j.toNat { a.cell (r.toNat + 1) j.toNat with
      inPs := (a.cell (r.toNat + 1) j.toNat).inPs ++ [{ ps with stamp := x.start + w.n }] })) := by
  intro x
  change execTokenSlotEnd c r j s = _
  unfold execTokenSlotEnd
  dsimp only
  rw [hbusy, hrow, hps]
  refine (if_pos ⟨rfl, hnow⟩).trans ?_
  rw [htrail, if_neg hj, if_neg hr]
  rfl

end

theorem cellsWork : Claim.CellsWork := by
  intro s c r j w ws ps pss i k a x start
  refine ⟨fun hbusy hrow htop hps htok htid hstart => exec_cellTokenStart hbusy hrow htop hps htok htid hstart,
    fun hbusy hrow _ hps htok htid hshadow => exec_cellTokenStart_of_other_tile hbusy hrow hps htok htid hshadow,
    fun hbusy hrow hps hi hnow => exec_cellStep hbusy hrow hps hi hnow,
    fun hbusy hrow hps hnow htrail hj hr => ⟨_, exec_tokenSlotEnd hbusy hrow hps hnow htrail hj hr, ?_⟩⟩
  have hjlt := j.isLt
  rw [setArr_arr_same]
  refine ⟨rfl, ?_, ?_, ?_⟩
  · rw [setCell_cell_other _ _ _ _ (by omega), setCell_cell_other _ _ _ _ (by omega)]
    exact setCell_cell_same ..
  · rw [setCell_cell_other _ _ _ _ (by omega), setCell_cell_same, setCell_cell_other _ _ _ _ (by omega)]
  · rw [setCell_cell_same, setCell_cell_other _ _ _ _ (by omega), setCell_cell_other _ _ _ _ (by omega)]

/-- Settles O24: cells hand on to their neighbours, and to no other. -/
theorem cellsOfTheArray : Obligations.CellsOfTheArray := ⟨tileRowsLoad, cellsWork⟩

/-! ## Products and the bottom of a column (O25) -/

/-- The weight in a slot of a type of at most 8 bits (R45). -/
def CellSet.weight (cs : CellSet) (sl : Slot) : Num :=
  if sl.poison then .fin false 0 0 else decodeNum cs.etype.toNat sl.val.toNat

theorem slotWeight_of_8_bit {cs : CellSet} {i : Nat} {sl : Slot} (h : is16Bit cs.etype.toNat = false) (hsl : cs.slots[i]? = some sl) :
    slotWeight cs i = (cs.weight sl, cs.weight sl) := by
  unfold slotWeight CellSet.weight
  simp only [h, Bool.false_eq_true, if_false, hsl, Option.elim]
  split <;> rfl

/-- One product of a type of at most 8 bits, its slot and its window entry named (R45, R95). -/
theorem cellProduct_eq {cs : CellSet} {w : RowReg} {ps : PSum} {i : Nat} {tk : Tok} {sl : Slot} {en : Entry} (htok : w.tok = some tk)
    (h8 : is16Bit cs.etype.toNat = false) (hsl : cs.slots[i]? = some sl)
    (hen : w.entries[if w.shape = 1 then 0 else sl.code.toNat % 8]? = some en) :
    cellProduct cs w ps i =
      (let wt := cs.weight sl
      let poison := ps.poison || sl.poison || (sl.code.getLsbD 3 && en.poison)
      if !sl.code.getLsbD 3 || Num.isZero en.v then { ps with poison }
      else if Num.isNonFin en.v || Num.isNonFin wt then { ps with poison, nonfin := true }
      else
        let p := alignedProduct w.integer ps.e en.v wt
        { ps with poison, sum := ps.sum + BitVec.ofInt 48 p, res := (ps.res + (p % 7).toNat) % 7 }) := by
  unfold cellProduct
  rw [htok]
  simp only [h8, Bool.false_eq_true, if_false, hsl, Option.getD_some, hen, slotWeight_of_8_bit h8 hsl]

theorem claim_cellProduct : Claim.CellProduct := by
  intro cs w ps i tk sl en htok h8 hsl hen wt r
  have hr : r = _ := cellProduct_eq htok h8 hsl hen
  refine ⟨fun hinvalid => ?_, fun hvalid => ?_, fun hvalid hzero => ?_, fun hvalid hzero hnonfin => ?_,
    fun hvalid hzero hen hwt => ?_⟩
  · rw [hr]
    simp only [hinvalid, Bool.not_false, Bool.true_or, if_true, Bool.false_and, Bool.or_false]
  · rw [hr]
    simp only [hvalid, Bool.true_and, Bool.not_true, Bool.false_or]
    split
    · rfl
    · split <;> rfl
  · rw [hr]
    simp [hzero]
  · rw [hr]
    simp only [hvalid, hzero, Bool.not_true, Bool.or_false, Bool.false_eq_true, if_false]
    rw [if_pos (show (Num.isNonFin en.v || Num.isNonFin (cs.weight sl)) = true from hnonfin)]
    exact ⟨rfl, rfl⟩
  · rw [hr]
    simp only [hvalid, hzero, hen, Bool.not_true, Bool.or_false, Bool.false_eq_true, if_false, Bool.false_or]
    rw [if_neg (Bool.eq_false_iff.mp (show Num.isNonFin (cs.weight sl) = false from hwt))]
    exact ⟨rfl, rfl, rfl⟩

/-- The errors of a column result that are counted (R94). -/
def State.columnErrors (s : State) (c j : Nat) (x : VRes × Bool × Bool × Bool) : State :=
  let s := if x.2.2.1 then s.residueError c j else s
  if x.2.2.2 then s.countNonfin c 1 else s

theorem columnErrors_of_none {s : State} {c j : Nat} {x : VRes × Bool × Bool × Bool} (hres : x.2.2.1 = false)
    (hnonfin : x.2.2.2 = false) : s.columnErrors c j x = s := by
  simp [columnErrors, hres, hnonfin]

theorem bottomStageEnters : Claim.BottomStageEnters := by
  intro s c r j ps rest tk p k a key exit u x hbottom hexit
  refine ⟨fun htok => ?_, fun htok hlive hlast hlt hres hnonfin => ?_, fun hres hnonfin => ?_⟩
  · change execBottomStage c r j s = _
    unfold execBottomStage
    dsimp only
    rw [hbottom]
    dsimp only
    rw [if_neg (Nat.not_lt.mpr hexit), htok]
  · change execBottomStage c r j s = _
    unfold execBottomStage
    dsimp only
    rw [hbottom]
    dsimp only
    rw [if_neg (Nat.not_lt.mpr hexit)]
    split
    · next tk' p' htk hp =>
      cases htok.symm.trans htk
      cases hlive.symm.trans hp
      rw [hlast, if_neg Bool.false_ne_true, if_pos hlt]
      change Host.Outcome.next (((u.columnErrors k j.toNat x).land k p.grp p.no p.gen false p.pc).enterElem k p.grp p.no p.gen
        ((r.toNat + 1 - shapeH ps.shape + tk.t) * 64 + j.toNat) x.1 x.2.1 exit) = _
      rw [columnErrors_of_none hres hnonfin]
    · next hno => exact absurd hlive (hno tk p htok)
  · exact (if_neg (by simp [hnonfin])).trans (if_pos hres)

/-- Settles O25: every product is exact, and every column result is checked before it enters. -/
theorem productsAndSums : Obligations.ProductsAndSums := ⟨claim_cellProduct, bottomStageEnters⟩

end Sys2Proof.Machine

end

section
/-! PROOFS. O27: combines in the accumulator, and split nodes. -/

namespace Sys2Proof.Machine

open State

/-! ## An element of a slot (O27) -/

theorem elem_of_keeps {s t : State} {c slot e : Nat} (hmem : t.mem = s.mem) (hmarks : (t.acc c).marks = (s.acc c).marks) :
    t.elem c slot e = s.elem c slot e := by
  rw [elem, elemDW, elemMark, hmem, hmarks, elem, elemDW, elemMark]

@[simp] theorem setGroup_elem (s : State) (c k : Nat) (g : Group) (slot e : Nat) : (s.setGroup c g).elem k slot e = s.elem k slot e := by
  refine elem_of_keeps rfl ?_
  by_cases h : c = k
  · subst h
    rw [setGroup, setAcc_acc_same, Acc.setGroup]
  · rw [setGroup, setAcc_acc_other _ _ _ h]

theorem markSat_elem (s : State) (c k slot : Nat) (b : Bool) (slot' e : Nat) :
    (s.markSat c slot b).elem k slot' e = s.elem k slot' e := by
  unfold markSat
  dsimp only
  split
  · refine elem_of_keeps rfl ?_
    by_cases h : c = k
    · subst h
      rw [setAcc_acc_same]
    · rw [setAcc_acc_other _ _ _ h]
  · rfl

theorem bytesAt_setBytes_same (m : Memory) (k : Nat) (bs : List Byte) : (m.setBytes k bs).bytesAt k bs.length = bs := by
  refine List.ext_getElem (by simp [Memory.bytesAt]) fun i hi _ => ?_
  simp only [Memory.bytesAt, List.length_map, List.length_range] at hi
  simp [Memory.bytesAt, Memory.setBytes_byte m k i bs hi, hi]

theorem bytesAt_setBytes_other (m : Memory) {k j n : Nat} {bs : List Byte} (h : j + n ≤ k ∨ k + bs.length ≤ j) :
    (m.setBytes k bs).bytesAt j n = m.bytesAt j n := by
  refine List.map_congr_left fun i hi => m.setBytes_byte_other _ _ _ ?_
  have := List.mem_range.mp hi
  omega

/-- The words of an element, as they are stored (R106). -/
theorem word_leBytes (x : DW) :
    ({ hi := BitVec.ofNat 32 (leNat (leBytes 4 x.hi.toNat ++ leBytes 4 x.lo.toNat))
       lo := BitVec.ofNat 32 (leNat (leBytes 4 x.hi.toNat ++ leBytes 4 x.lo.toNat) / 2 ^ 32) } : DW) = x := by
  obtain ⟨hi, lo⟩ := x
  have hnat : leNat (leBytes 4 hi.toNat ++ leBytes 4 lo.toNat) = hi.toNat + 2 ^ 32 * lo.toNat := by
    rw [leNat_append, leNat_leBytes, leNat_leBytes, leBytes_length, Nat.mod_eq_of_lt (show hi.toNat < 256 ^ 4 from hi.isLt),
      Nat.mod_eq_of_lt (show lo.toNat < 256 ^ 4 from lo.isLt)]
    norm_num
  have hlow : (hi.toNat + 2 ^ 32 * lo.toNat) % 2 ^ 32 = hi.toNat := by
    rw [Nat.add_mul_mod_self_left, Nat.mod_eq_of_lt hi.isLt]
  have hhigh : (hi.toNat + 2 ^ 32 * lo.toNat) / 2 ^ 32 % 2 ^ 32 = lo.toNat := by
    rw [Nat.add_mul_div_left _ _ (by decide), Nat.div_eq_of_lt hi.isLt, Nat.zero_add, Nat.mod_eq_of_lt lo.isLt]
  dsimp only
  rw [hnat]
  exact congrArg₂ DW.mk (BitVec.eq_of_toNat_eq (by rw [BitVec.toNat_ofNat, hlow])) (BitVec.eq_of_toNat_eq (by rw [BitVec.toNat_ofNat, hhigh]))

theorem setElem_mem (s : State) (c slot e : Nat) (x : VRes) :
    (s.setElem c slot e x).mem =
      (s.mem.setBytes (elemAddr c slot e) (leBytes 4 x.v.hi.toNat ++ leBytes 4 x.v.lo.toNat)).setSide (elemAddr c slot e) .clean := rfl

theorem setElem_acc (s : State) (c slot e : Nat) (x : VRes) :
    (s.setElem c slot e x).acc c = { s.acc c with marks := Sparse.set false (s.acc c).marks (slot * 4096 + e) x.poison } :=
  setAcc_acc_same ..

theorem bytesAt_setSide (m : Memory) (k : Nat) (sd : Side) (j n : Nat) : (m.setSide k sd).bytesAt j n = m.bytesAt j n := rfl

@[simp] theorem setElem_elem_same (s : State) (c slot e : Nat) (x : VRes) : (s.setElem c slot e x).elem c slot e = x := by
  have hdw : (s.setElem c slot e x).elemDW c slot e = x.v := by
    have hbytes : (s.setElem c slot e x).mem.bytesAt (elemAddr c slot e) 8 = leBytes 4 x.v.hi.toNat ++ leBytes 4 x.v.lo.toNat := by
      rw [setElem_mem, bytesAt_setSide]
      exact bytesAt_setBytes_same s.mem (elemAddr c slot e) (leBytes 4 x.v.hi.toNat ++ leBytes 4 x.v.lo.toNat)
    rw [elemDW, hbytes]
    exact word_leBytes x.v
  rw [elem, hdw, elemMark, setElem_acc]
  exact congrArg (fun b => { v := x.v, poison := b : VRes }) (Sparse.get_set_same ..)

theorem setElem_elem_other (s : State) (c : Nat) {slot e slot' e' : Nat} (x : VRes) (hslot : slot < 8) (he : e < 4096)
    (hslot' : slot' < 8) (he' : e' < 4096) (hne : slot' ≠ slot ∨ e' ≠ e) :
    (s.setElem c slot e x).elem c slot' e' = s.elem c slot' e' := by
  have hdw : (s.setElem c slot e x).elemDW c slot' e' = s.elemDW c slot' e' := by
    have hbytes : (s.setElem c slot e x).mem.bytesAt (elemAddr c slot' e') 8 = s.mem.bytesAt (elemAddr c slot' e') 8 := by
      rw [setElem_mem, bytesAt_setSide, bytesAt_setBytes_other]
      simp only [elemAddr, accAddr, List.length_append, leBytes_length]
      omega
    rw [elemDW, hbytes, elemDW]
  rw [elem, hdw, elemMark, setElem_acc, elem, elemMark]
  refine congrArg (fun b => { v := s.elemDW c slot' e', poison := b : VRes }) (Sparse.get_set_other _ _ _ ?_)
  omega

/-! ## Combines (O27) -/

/-- What a combine leaves in its two nodes' elements (R114, R118). -/
theorem combineAt_elem_same (s : State) (c : Nat) (integer : Bool) (s1 s2 e : Nat) :
    (s.combineAt c integer s1 s2 e).elem c s1 e =
      { v := (combineElem integer (s.elem c s1 e).v (s.elem c s2 e).v).1
        poison := (s.elem c s1 e).poison || (s.elem c s2 e).poison } := by
  unfold combineAt
  dsimp only
  rw [markSat_elem, setElem_elem_same]

theorem combineAt_elem_other (s : State) (c : Nat) (integer : Bool) {s1 e slot e' : Nat} (s2 : Nat) (hs1 : s1 < 8) (he : e < 4096)
    (hslot : slot < 8) (he' : e' < 4096) (hne : slot ≠ s1 ∨ e' ≠ e) :
    (s.combineAt c integer s1 s2 e).elem c slot e' = s.elem c slot e' := by
  unfold combineAt
  dsimp only
  rw [markSat_elem, setElem_elem_other s c _ hs1 he hslot he' hne]

theorem markSat_seq (s : State) (c slot : Nat) (b : Bool) : (s.markSat c slot b).cores.seq = s.cores.seq := by
  unfold markSat
  dsimp only
  split <;> rfl

theorem combineAt_seq (s : State) (c : Nat) (integer : Bool) (s1 s2 e : Nat) :
    (s.combineAt c integer s1 s2 e).cores.seq = s.cores.seq := by
  unfold combineAt
  exact markSat_seq ..

/-- A combine that is due, and what it leaves of its group (R119). -/
theorem combineNext_of_due {s : State} {c base e lim : Nat} {g : Group} {w : Work} {s1 s2 : Nat} {rest : List (Nat × Nat)}
    (hg : s.group c base = some g) (hw : g.work.find? (fun w => w.e = e) = some w) (hchain : w.chain = (s1, s2) :: rest)
    (hdue : w.due ≤ lim) : ∃ h, s.combineNext c base e lim = (s.combineAt c g.integer s1 s2 e).setGroup c h := by
  unfold combineNext
  simp only [hg, hw, hchain, if_neg (Nat.not_lt.mpr hdue)]
  cases rest with
  | nil => exact ⟨_, rfl⟩
  | cons _ _ => exact ⟨_, rfl⟩

theorem combineJoinsTwoNodes : Claim.CombineJoinsTwoNodes := by
  intro s c base e g w s1 s2 rest k old new hg hw hchain hdue hs1
  obtain ⟨h, heq⟩ := combineNext_of_due hg hw hchain hdue
  refine ⟨_, congrArg Host.Outcome.next heq, ?_, ?_, fun slot e' hslot he' hne => ?_, ?_⟩
  · rw [setGroup_elem, combineAt_elem_same]
  · rw [setGroup_elem, combineAt_elem_same]
  · rw [setGroup_elem]
    exact combineAt_elem_other s k g.integer s2 hs1 e.isLt hslot he' hne
  · exact combineAt_seq ..

/-! ## Split nodes (O27) -/

/-- Is this the node of a group that a beat belongs to? -/
def NodeTag.isOf (n : NodeTag) (gen : Nat) (x : WNode) : Bool :=
  decide (x.gen = gen ∧ x.level = n.level ∧ x.first = n.first ∧ x.logS = n.logS)

/-- A slot's elements of a beat written, with its saturation flag (R127, R129). -/
def State.writeBeat (s : State) (c slot : Nat) (integer : Bool) (b : Beat) : State :=
  ((List.range (nodeElems integer)).foldl (fun s i =>
    s.setElem c slot ((NodeTag.ofBits b.hdr).beat * nodeElems integer + i) ((beatElems integer b).getD i VRes.zero)) s).markSat c slot
      (integer && b.sat)

/-- What clearing and writing a slot leaves as it was: the clock, the Trail and every group. -/
structure State.KeepsGroups (s t : State) : Prop where
  now : t.now = s.now
  trail : t.trail = s.trail
  group : ∀ k base, t.group k base = s.group k base

theorem State.KeepsGroups.trans {s t u : State} (h : s.KeepsGroups t) (h' : t.KeepsGroups u) : s.KeepsGroups u :=
  ⟨h'.now.trans h.now, h'.trail.trans h.trail, fun k base => (h'.group k base).trans (h.group k base)⟩

theorem keepsGroups_setAcc {s : State} {c : Nat} {v : Acc} (h : v.groups = (s.acc c).groups) : s.KeepsGroups (s.setAcc c v) := by
  refine ⟨rfl, rfl, fun k base => ?_⟩
  by_cases hk : c = k
  · subst hk
    rw [State.group, setAcc_acc_same, Acc.group, h, State.group, Acc.group]
  · rw [State.group, setAcc_acc_other _ _ _ hk, State.group]

theorem keepsGroups_setMem (s : State) (m : Memory) : s.KeepsGroups (s.setMem m) := ⟨rfl, rfl, fun _ _ => rfl⟩

theorem clearSlot_keepsGroups (s : State) (c slot : Nat) : s.KeepsGroups (s.clearSlot c slot) :=
  (keepsGroups_setMem s _).trans (keepsGroups_setAcc rfl)

theorem setElem_keepsGroups (s : State) (c slot e : Nat) (x : VRes) : s.KeepsGroups (s.setElem c slot e x) :=
  (keepsGroups_setMem s _).trans (keepsGroups_setAcc rfl)

theorem markSat_keepsGroups (s : State) (c slot : Nat) (m : Bool) : s.KeepsGroups (s.markSat c slot m) := by
  unfold markSat
  dsimp only
  split
  · exact keepsGroups_setAcc rfl
  · exact ⟨rfl, rfl, fun _ _ => rfl⟩

theorem foldl_setElem_keepsGroups (c slot : Nat) (f : Nat → Nat) (v : Nat → VRes) (l : List Nat) (s : State) :
    s.KeepsGroups (l.foldl (fun s i => s.setElem c slot (f i) (v i)) s) := by
  induction l generalizing s with
  | nil => exact ⟨rfl, rfl, fun _ _ => rfl⟩
  | cons i l ih => exact (setElem_keepsGroups ..).trans (ih _)

theorem writeBeat_keepsGroups (s : State) (c slot : Nat) (integer : Bool) (b : Beat) :
    s.KeepsGroups ((s.clearSlot c slot).writeBeat c slot integer b) :=
  (clearSlot_keepsGroups ..).trans ((foldl_setElem_keepsGroups ..).trans (markSat_keepsGroups ..))

theorem writeBeat_now (s : State) (c slot : Nat) (integer : Bool) (b : Beat) :
    ((s.clearSlot c slot).writeBeat c slot integer b).now = s.now := (writeBeat_keepsGroups ..).now

/-- A fold that writes different elements of a slot leaves each at what was written to it. -/
theorem foldl_setElem_elem (c : Nat) {slot : Nat} (f : Nat → Nat) (v : Nat → VRes) (hslot : slot < 8) (l : List Nat) (hl : l.Nodup)
    (hf : ∀ i ∈ l, f i < 4096) (hinj : ∀ i ∈ l, ∀ j ∈ l, f i = f j → i = j) {i : Nat} (hi : i ∈ l) (s : State) :
    (l.foldl (fun s i => s.setElem c slot (f i) (v i)) s).elem c slot (f i) = v i := by
  induction l using List.reverseRecOn with
  | nil => cases hi
  | append_singleton l j ih =>
    rw [List.foldl_append, List.foldl_cons, List.foldl_nil]
    have hj : j ∈ l ++ [j] := by simp
    by_cases hij : i = j
    · subst hij
      exact setElem_elem_same ..
    · have hil : i ∈ l := by simpa [hij] using hi
      rw [setElem_elem_other _ c _ hslot (hf j hj) hslot (hf i hi) (.inr fun h => hij (hinj i hi j hj h))]
      exact ih (hl.sublist (List.sublist_append_left ..)) (fun k hk => hf k (by simp [hk]))
        (fun a ha b hb => hinj a (by simp [ha]) b (by simp [hb])) hil

theorem nodeElems_dvd (integer : Bool) : nodeElems integer ∣ 4096 := by cases integer <;> decide

theorem writeBeat_elem (s : State) (c : Nat) {slot : Nat} (integer : Bool) (b : Beat) {i : Nat} (hslot : slot < 8)
    (hi : i < nodeElems integer) (hle : (NodeTag.ofBits b.hdr).beat * nodeElems integer + i < 4096) :
    (s.writeBeat c slot integer b).elem c slot ((NodeTag.ofBits b.hdr).beat * nodeElems integer + i) =
      (beatElems integer b).getD i VRes.zero := by
  have hall : ∀ j ∈ List.range (nodeElems integer), (NodeTag.ofBits b.hdr).beat * nodeElems integer + j < 4096 := by
    intro j hj
    obtain ⟨m, hm⟩ := nodeElems_dvd integer
    have hj := List.mem_range.mp hj
    have hlt : (NodeTag.ofBits b.hdr).beat < m := by
      by_contra h
      have := Nat.mul_le_mul_right (nodeElems integer) (Nat.not_lt.mp h)
      rw [Nat.mul_comm m, ← hm] at this
      omega
    have := Nat.mul_le_mul_right (nodeElems integer) (Nat.succ_le_of_lt hlt)
    rw [Nat.mul_comm m, ← hm, Nat.succ_mul] at this
    omega
  rw [writeBeat, markSat_elem]
  exact foldl_setElem_elem c (fun i => (NodeTag.ofBits b.hdr).beat * nodeElems integer + i) (fun i => (beatElems integer b).getD i VRes.zero)
    hslot _ List.nodup_range hall (fun _ _ _ _ h => Nat.add_left_cancel h) (List.mem_range.mpr hi) s

/-- The slots of a group that hold no node, lowest first. -/
def Group.freeSlots (g : Group) : List Nat := ((List.range g.depth).map (g.base + ·)).filter fun x => !(g.nodes.any fun n => n.slot = x)

/-- A group with a node of one beat opened in a slot (R127). -/
def Group.openNode (g : Group) (n : NodeTag) (gen slot now : Nat) : Group :=
  { g with
    nodes := g.nodes ++ [{ gen, slot, level := n.level, first := n.first, logS := n.logS, beats := [n.beat], joined := 0 }]
    quietAt := max g.quietAt (now + 1), beatIn := Sparse.set 0 g.beatIn n.beat (now + 16) }

section
variable {s : State} {c : Nat} {b : Beat} {g : Group}

theorem nodeGen_of_read (h : ∀ d ∈ (s.drn c).q, d.grp = g.base → d.readDone = true) : s.nodeGen c g = g.gen := by
  have hnone : (s.drn c).q.find? (fun d => d.grp = g.base && !d.readDone && d.await && !(g.nodeDone d.gen && g.nodesQuiet d.gen)) = none := by
    rw [List.find?_eq_none]
    intro d hd hgo
    simp only [Bool.and_eq_true, decide_eq_true_eq, Bool.not_eq_true'] at hgo
    obtain ⟨⟨⟨hgrp, hread⟩, -⟩, -⟩ := hgo
    exact Bool.false_ne_true (hread.symm.trans (h d hd hgrp))
  unfold nodeGen
  rw [hnone]

theorem not_reads_of_read (h : ∀ d ∈ (s.drn c).q, d.grp = g.base → d.readDone = true) (gen : Nat) :
    ((s.drn c).q.any fun d => d.grp = g.base && !d.readDone && decide (d.gen < gen)) = false := by
  rw [List.any_eq_false]
  intro d hd hgo
  simp only [Bool.and_eq_true, decide_eq_true_eq, Bool.not_eq_true'] at hgo
  obtain ⟨⟨hgrp, hread⟩, -⟩ := hgo
  exact Bool.false_ne_true (hread.symm.trans (h d hd hgrp))

variable (hg : s.group c (NodeTag.ofBits b.hdr).base = some g) (hf : g.faulted = false)
  (hread : ∀ d ∈ (s.drn c).q, d.grp = g.base → d.readDone = true)
include hg hf hread

/-- A beat that its group holds, or that follows the one before it too soon, waits (R119). -/
theorem nodeArrives_of_waits
    (h : s.now < Sparse.get 0 g.beatIn (NodeTag.ofBits b.hdr).beat ∨
      ∃ x ∈ g.nodes, (NodeTag.ofBits b.hdr).isOf g.gen x = true ∧ (NodeTag.ofBits b.hdr).beat ∈ x.beats) :
    s.nodeArrives c b = none := by
  unfold nodeArrives
  simp only [hg, nodeGen_of_read hread]
  refine (if_neg (Bool.eq_false_iff.mp hf)).trans (if_pos ?_)
  obtain h | ⟨x, hx, hof, hbeat⟩ := h
  · simp [h]
  · rw [Bool.or_assoc, Bool.or_eq_true]
    refine .inl (List.any_eq_true.mpr ⟨x, hx, ?_⟩)
    rw [Bool.and_eq_true]
    exact ⟨hof, List.contains_iff_mem.mpr hbeat⟩

variable (hbeat : Sparse.get 0 g.beatIn (NodeTag.ofBits b.hdr).beat ≤ s.now)
  (hnew : ∀ x ∈ g.nodes, x.gen = g.gen → x.level ≠ (NodeTag.ofBits b.hdr).level)
include hbeat hnew

omit hg hf hread hbeat in
theorem not_isOf_of_new {x : WNode} (hx : x ∈ g.nodes) : (NodeTag.ofBits b.hdr).isOf g.gen x = false := by
  rw [NodeTag.isOf, decide_eq_false_iff_not]
  rintro ⟨hgen, hlevel, -⟩
  exact hnew x hx hgen hlevel

/-- A beat for which no node is there opens one, or finds no slot (R127, R137). -/
theorem nodeArrives_of_new :
    s.nodeArrives c b = some (match g.freeSlots.head? with
      | none => s.accFault c 3 (NodeTag.ofBits b.hdr).base (NodeTag.ofBits b.hdr).first g.aclrPc
      | some slot => ((((s.clearSlot c slot).writeBeat c slot g.integer b).setGroup c
          (g.openNode (NodeTag.ofBits b.hdr) g.gen slot s.now)).joinBeat c (NodeTag.ofBits b.hdr).base g.gen (NodeTag.ofBits b.hdr).beat 15
            (NodeTag.ofBits b.hdr).level (NodeTag.ofBits b.hdr).first)) := by
  have hfind : g.nodes.find? (fun x => decide (x.gen = g.gen ∧ x.level = (NodeTag.ofBits b.hdr).level ∧
      x.first = (NodeTag.ofBits b.hdr).first ∧ x.logS = (NodeTag.ofBits b.hdr).logS)) = none :=
    List.find?_eq_none.mpr fun x hx => Bool.eq_false_iff.mp (not_isOf_of_new hnew hx)
  have hknown : (g.nodes.any fun x => decide (x.gen = g.gen ∧ x.level = (NodeTag.ofBits b.hdr).level ∧
      x.first = (NodeTag.ofBits b.hdr).first ∧ x.logS = (NodeTag.ofBits b.hdr).logS)) = false :=
    List.any_eq_false.mpr fun x hx => Bool.eq_false_iff.mp (not_isOf_of_new hnew hx)
  have hholds : (g.nodes.any fun x => (NodeTag.ofBits b.hdr).isOf g.gen x && x.beats.contains (NodeTag.ofBits b.hdr).beat) = false :=
    List.any_eq_false.mpr fun x hx => by simp [not_isOf_of_new hnew hx]
  have hslot : ((List.range g.depth).map (g.base + ·)).find? (fun x => !(g.nodes.any fun n => n.slot = x)) = g.freeSlots.head? :=
    (List.head?_filter ..).symm
  unfold nodeArrives
  simp only [hg, nodeGen_of_read hread]
  refine (if_neg (Bool.eq_false_iff.mp hf)).trans ((if_neg ?_).trans ?_)
  · rw [not_reads_of_read hread, Bool.or_false, Bool.or_eq_true, not_or]
    exact ⟨Bool.eq_false_iff.mp hholds, by simpa using hbeat⟩
  · rw [hfind]
    simp only [hslot, hknown]
    cases g.freeSlots.head? with
    | none => rfl
    | some slot =>
      rw [← writeBeat_now s c slot g.integer b]
      rfl

end

/-- A node alone at its level joins no other (R126). -/
theorem joinBeat_of_alone {s : State} {c base gen beat level first : Nat} {h : Group} (hg : s.group c base = some h) {n : WNode}
    (halone : ∀ x ∈ h.nodes, x.gen = gen → x.level = level → x.first = n.first) (fuel : Nat) :
    s.joinBeat c base gen beat fuel level first = s := by
  cases fuel with
  | zero => rfl
  | succ fuel =>
    rw [joinBeat, hg]
    dsimp only
    split
    · next a b ha hb =>
      have hfirst {x : WNode} {i : Nat} (hx : h.node gen level i = some x) : i = n.first := by
        have hmem := List.mem_of_find?_eq_some hx
        have hp := List.find?_some hx
        simp only [Bool.and_eq_true, decide_eq_true_eq] at hp
        obtain ⟨⟨hgen, hlevel⟩, hfirst⟩ := hp
        rw [← hfirst]
        exact halone x hmem hgen hlevel
      have := hfirst ha
      have := hfirst hb
      have := Nat.two_pow_pos level
      omega
    · rfl

theorem exec_splitNodeArrival_of_some {s t : State} {c : CoreId} {b : Beat}
    (hbox : (Sparse.get [] s.trail.inbox c.toNat).find? (fun b => b.kind = 2) = some b) (h : s.nodeArrives c.toNat b = some t) :
    exec (.splitNodeArrival c) s = .next { t with trail := { t.trail with
      inbox := Sparse.set [] t.trail.inbox c.toNat ((Sparse.get [] s.trail.inbox c.toNat).erase b) } } := by
  change execSplitNodeArrival c s = _
  unfold execSplitNodeArrival
  simp only [hbox, h]

theorem exec_splitNodeArrival_of_none {s : State} {c : CoreId} {b : Beat}
    (hbox : (Sparse.get [] s.trail.inbox c.toNat).find? (fun b => b.kind = 2) = some b) (h : s.nodeArrives c.toNat b = none) :
    exec (.splitNodeArrival c) s = .next s := by
  change execSplitNodeArrival c s = _
  unfold execSplitNodeArrival
  simp only [hbox, h]

theorem splitNodesArrive : Claim.SplitNodesArrive := by
  intro s c b g k box n per slots hbox hg hf hread
  have hbase : g.base = n.base := Acc.group_base hg
  refine ⟨fun hbeat hnew => ?_, fun hwait => exec_splitNodeArrival_of_none hbox (nodeArrives_of_waits hg hf hread ?_)⟩
  · have harrives := nodeArrives_of_new hg hf hread hbeat hnew
    refine ⟨fun x rest hslots => ?_, fun hslots => ?_⟩
    · have hkeep := writeBeat_keepsGroups s k x g.integer b
      have hgroup : ((((s.clearSlot k x).writeBeat k x g.integer b).setGroup k (g.openNode n g.gen x s.now))).group k n.base =
          some (g.openNode n g.gen x s.now) :=
        group_setGroup_same ((hkeep.group k n.base).trans hg) rfl
      rw [show g.freeSlots = x :: rest from hslots] at harrives
      have hjoin := joinBeat_of_alone (beat := n.beat) (level := n.level) (first := n.first) (gen := g.gen) hgroup
        (n := { gen := g.gen, slot := x, level := n.level, first := n.first, logS := n.logS, beats := [n.beat], joined := 0 })
        (fun y hy hgen hlevel => by
          obtain hy | hy := List.mem_append.mp hy
          · exact absurd hlevel (hnew y hy hgen)
          · rw [List.mem_singleton.mp hy]) 15
      refine ⟨_, _, exec_splitNodeArrival_of_some hbox (harrives.trans (congrArg some hjoin)), ?_, hgroup, rfl, fun i hi hx hle => ?_⟩
      · exact Sparse.get_set_same ..
      · refine Eq.trans (b := (((s.clearSlot k x).writeBeat k x g.integer b).setGroup k (g.openNode n g.gen x s.now)).elem k x
          (n.beat * per + i)) rfl ?_
        rw [setGroup_elem]
        exact writeBeat_elem _ k g.integer b hx hi hle
    · rw [show g.freeSlots = [] from hslots] at harrives
      have hseq := (s.accFault_seq k 3 n.base n.first g.aclrPc k).trans (s.noteAccFault_seq_same k 3 n.base n.first g.aclrPc)
      refine ⟨_, exec_splitNodeArrival_of_some hbox harrives, ?_, ?_, fun hfree => ?_⟩
      · exact Sparse.get_set_same ..
      · exact congrArg Seq.aValid hseq
      · exact (congrArg Seq.aCode hseq).trans (if_neg (Bool.eq_false_iff.mp hfree))
  · obtain h | ⟨x, hx, hgen, hlevel, hfirst, hlogS, hmem⟩ := hwait
    · exact .inl h
    · exact .inr ⟨x, hx, decide_eq_true ⟨hgen, hlevel, hfirst, hlogS⟩, hmem⟩

/-- Settles O27: a combine and a split node's beat each write one node. -/
theorem nodesJoin : Obligations.NodesJoin := ⟨combineJoinsTwoNodes, splitNodesArrive⟩

end Sys2Proof.Machine

end

section
/-! PROOFS. O28: the drain chain and the Packer. -/

namespace Sys2Proof.Machine

open State

/-! ## Rows are read (O28) -/

/-- What emptying a group leaves as it was. -/
theorem foldl_clearSlot_keepsGroups (c : Nat) (l : List Nat) (s : State) :
    s.KeepsGroups (l.foldl (fun s x => s.clearSlot c x) s) := by
  induction l generalizing s with
  | nil => exact ⟨rfl, rfl, fun _ _ => rfl⟩
  | cons x l ih => exact (clearSlot_keepsGroups ..).trans (ih _)

theorem emptyGroup_drn (s : State) (c : Nat) (g : Group) (gen d k : Nat) : (s.emptyGroup c g gen d).drn k = s.drn k := by
  unfold emptyGroup
  exact foldl_keeps (fun t : State => t.drn k) (f := fun (t : State) x => t.clearSlot c x) (fun _ _ _ => rfl) s

theorem emptyGroup_group {s : State} {c base : Nat} {g : Group} (hg : s.group c base = some g) (gen d : Nat) :
    (s.emptyGroup c g gen d).group c base =
      some { g with stack := [], freed := [], nodes := g.nodes.filter fun n => gen < n.gen, emptyAt := d + 1 } := by
  unfold emptyGroup
  exact group_setGroup_same (((foldl_clearSlot_keepsGroups ..).group c base).trans hg) rfl

/-- The row that a DRAIN reads into the chain (R132, R133). -/
def State.readRow (s : State) (k : Nat) (d : DrainRec) (g : Group) : CRow :=
  { id := d.id, t := d.next, stage := d.cfg.nextStage 0, due := stageDue (d.cfg.nextStage 0) s.now,
    vals := (List.range 64).map fun j => firstElem d (s.foldAt k g d.gen (64 * d.next + j)).1 }

/-- The DRAIN after the read of its next row. -/
def State.afterRow (s : State) (k : Nat) (d : DrainRec) (g : Group) : DrainRec :=
  { d with
    next := d.next + 1, readDone := decide (d.next + 1 = d.rows)
    satur := d.satur || (((List.range 64).map fun j => s.foldAt k g d.gen (64 * d.next + j)).any (·.2)) }

/-- The chain after the read of a row. -/
def State.drnAfterRow (s : State) (k : Nat) (d : DrainRec) (g : Group) : Drn :=
  { s.drn k with
    q := (s.drn k).q.map fun x => if x.id = d.id then s.afterRow k d g else x
    rows := (s.drn k).rows ++ [s.readRow k d g]
    pk := if d.cfg.on 6 && d.next = 0 then
      (s.drn k).pk ++ [{ id := d.id, rows := [], full := false, due := 0, out := [], addr := d.dest }] else (s.drn k).pk
    free := s.now + 1 }

/-- A drained group that has saturated is counted (R129). -/
def State.countDrained (s : State) (k : Nat) (sat : Bool) : State :=
  if sat then s.setAcc k { s.acc k with drained := (s.acc k).drained + 1 } else s

theorem countDrained_keepsGroups (s : State) (k : Nat) (sat : Bool) : s.KeepsGroups (s.countDrained k sat) := by
  unfold countDrained
  split
  · exact keepsGroups_setAcc rfl
  · exact ⟨rfl, rfl, fun _ _ => rfl⟩

theorem countDrained_drn (s : State) (k : Nat) (sat : Bool) (j : Nat) : (s.countDrained k sat).drn j = s.drn j := by
  unfold countDrained
  split <;> rfl

section
variable {s : State} {c : CoreId} {d : DrainRec} {g : Group}

theorem exec_drainRowRead (hd : (s.drn c.toNat).q.find? (fun x => !x.readDone) = some d) (hg : s.group c.toNat d.grp = some g)
    (hf : g.faulted = false) (hrecv : g.recv = false) (hsplit : d.split = false) (hawait : d.await = false)
    (hrefused : d.cfg.refused = false) (hflight : ∀ x ∈ g.inflight, d.gen < x)
    (hfirst : max (max (d.issued + 1) g.quietAt) (s.drn c.toNat).free + (if d.next = 0 then 2 * (g.stack.length - 1) else 0) ≤ s.now)
    (htakes : (s.drn c.toNat).takes d s.now = true) :
    exec (.drainRowRead c) s = .next
      (let t := (s.setDrn c.toNat (s.drnAfterRow c.toNat d g)).countDrained c.toNat
        (decide (d.next + 1 = d.rows) && (s.afterRow c.toNat d g).satur)
      if d.next + 1 = d.rows then t.emptyGroup c.toNat g d.gen t.now else t) := by
  have hall : (g.inflight.all fun x => decide (d.gen < x)) = true := by simpa using hflight
  change execDrainRowRead c s = _
  unfold execDrainRowRead
  simp only [hd, hg]
  refine (if_neg (Bool.eq_false_iff.mp hf)).trans ?_
  refine (if_neg ?_).trans ?_
  · rw [hrecv, hawait, hall, htakes, Bool.not_eq_true, Bool.not_eq_false']
    simpa using hfirst
  · have hns : ¬ d.split = true := Bool.eq_false_iff.mp hsplit
    have hnr (p : Bool) : ¬ (p && d.cfg.refused) = true := by simp [hrefused]
    have hnl (p : Bool) : ¬ (d.split && p) = true := by simp [hsplit]
    simp only [if_neg hns, if_neg (hnr _), if_neg (hnl _), List.map_map]
    rfl

end

theorem drainReadsRows : Claim.DrainReadsRows := by
  intro s c d g k dn st vals hd hg hf hrecv hsplit hawait hrefused hflight hfirst htakes
  have hexec := exec_drainRowRead hd hg hf hrecv hsplit hawait hrefused hflight hfirst htakes
  have hdrn : (s.setDrn k (s.drnAfterRow k d g)).drn k = s.drnAfterRow k d g := setDrn_drn_same ..
  by_cases hlast : d.next + 1 = d.rows
  · rw [if_pos hlast] at hexec
    refine ⟨_, hexec, ?_, ?_, fun hlt => absurd hlast (Nat.ne_of_lt hlt), fun _ => ⟨_, emptyGroup_group ?_ _ _, rfl, ?_, rfl, rfl⟩⟩
    · rw [emptyGroup_drn, countDrained_drn, hdrn]
      rfl
    · rw [emptyGroup_drn, countDrained_drn, hdrn]
      rfl
    · rw [(countDrained_keepsGroups ..).group]
      exact hg
    · exact congrArg (· + 1) (countDrained_keepsGroups ..).now
  · rw [if_neg hlast, decide_eq_false hlast] at hexec
    exact ⟨_, hexec, congrArg Drn.rows hdrn, congrArg Drn.free hdrn, fun _ => ⟨rfl, rfl⟩, fun h => absurd h hlast⟩

/-! ## Stages and outputs (O28) -/

/-- The output of a DRAIN that no bundle holds goes to memory. -/
theorem drainOut_of_unbundled {s : State} {c : Nat} {d : DrainRec} (h : d.bundled = false) (ks : List Chunk) (counted : Bool) :
    s.drainOut c d ks counted = s.writeChunks c ks := if_neg (Bool.eq_false_iff.mp h)

section
variable {s : State} {c : CoreId} {r : CRow} {rest : List CRow} {d : DrainRec}
  (hrows : (s.drn c.toNat).rows = r :: rest) (hd : (s.drn c.toNat).q.find? (fun x => x.id = r.id) = some d) (hdue : r.due ≤ s.now)
include hrows hd hdue

/-- SCALE, BIAS and ACT take a row element by element (R189, R190). -/
theorem exec_chainStage_of_element (hstage : r.stage < 3) :
    exec (.chainStage c 0) s = .next (s.setDrn c.toNat { s.drn c.toNat with
      rows := { r with
        vals := (enumFrom0 r.vals).map fun x => stageElem d.cfg r.stage [] x.1 x.2, stage := d.cfg.nextStage (r.stage + 1)
        due := stageDue (d.cfg.nextStage (r.stage + 1)) r.due } :: rest }) := by
  have hrow : (s.drn c.toNat).rows[0]? = some r := by rw [hrows, List.getElem?_cons_zero]
  have hset (x : CRow) : (s.drn c.toNat).rows.set 0 x = x :: rest := by rw [hrows, List.set_cons_zero]
  change execChainStage c 0 s = _
  unfold execChainStage
  simp only [hrow, hd, hset]
  refine (if_neg (by simpa using hdue)).trans ?_
  split
  · next h => omega
  · next h => omega
  · next h => omega
  · next h => omega
  · next h => omega
  · rfl

/-- A row's bytes leave at the output (R189). -/
theorem exec_chainStage_of_output (hstage : r.stage = 8) (hbundled : d.bundled = false)
    (hstall : s.chunksStall (State.chunksOf c.toNat (d.dest + r.t * (8 * elemBits d.outType)) (rowBytesOut d.outType r.vals).1
      (rowBytesOut d.outType r.vals).2 0) = false) (hdigest : d.cfg.on 7 = false) (hmore : d.outRows + 1 < d.rows) :
    exec (.chainStage c 0) s = .next ((s.setDrn c.toNat { s.drn c.toNat with
      rows := rest, q := (s.drn c.toNat).q.map fun x => if x.id = d.id then { d with outRows := d.outRows + 1 } else x }).writeChunks
        c.toNat (State.chunksOf c.toNat (d.dest + r.t * (8 * elemBits d.outType)) (rowBytesOut d.outType r.vals).1
          (rowBytesOut d.outType r.vals).2 0)) := by
  have hrow : (s.drn c.toNat).rows[0]? = some r := by rw [hrows, List.getElem?_cons_zero]
  have herase : (s.drn c.toNat).rows.eraseIdx 0 = rest := by rw [hrows, List.eraseIdx_cons_zero]
  change execChainStage c 0 s = _
  unfold execChainStage
  simp only [hrow, hd, herase, hstage]
  refine (if_neg (by simpa using hdue)).trans ((if_neg (by rw [hstall, Bool.and_false]; decide)).trans ?_)
  rw [if_neg (Nat.ne_of_lt hmore), drainOut_of_unbundled hbundled]
  simp only [hdigest, Bool.false_eq_true, if_false]

end

theorem chainStages : Claim.ChainStages := by
  intro s c r rest d k dn st ks hrows hd hdue
  exact ⟨fun hstage => exec_chainStage_of_element hrows hd hdue hstage,
    fun hstage hbundled hstall hdigest hmore => exec_chainStage_of_output hrows hd hdue hstage hbundled hstall hdigest hmore⟩

theorem packerEmits : Claim.PackerEmits := by
  intro s c t ts d k dn ks hpk hd hfull hdigest hdue hbundled hstall hlen
  have hpk' : (s.drn c.toNat).pk = t :: ts := hpk
  have hd' : (s.drn c.toNat).q.find? (fun x => x.id = t.id) = some d := hd
  have hmore : (t.out.drop 4).isEmpty = false := by
    rw [List.isEmpty_eq_false_iff, ne_eq, List.drop_eq_nil_iff]
    omega
  change execPackerEmit c s = _
  unfold execPackerEmit
  dsimp only
  split
  · next h => exact absurd (hpk'.symm.trans h) (List.cons_ne_nil _ _)
  · next t' ts' h =>
    obtain ⟨rfl, rfl⟩ := List.cons.inj (hpk'.symm.trans h)
    rw [hd']
    refine (if_neg (by simp [hfull, hdigest, hdue])).trans ((if_neg ?_).trans ?_)
    · rw [hbundled]
      exact Bool.eq_false_iff.mp hstall
    · rw [drainOut_of_unbundled hbundled]
      simp only [hmore, hdigest, Bool.false_eq_true, if_false]
      rfl

/-- Settles O28: a row leaves the chain at its own place. -/
theorem drainChainWorks : Obligations.DrainChainWorks := ⟨drainReadsRows, chainStages, packerEmits⟩

end Sys2Proof.Machine

end

section
/-! PROOFS. O29: the vector path. -/

namespace Sys2Proof.Machine

open State

/-! ## Banks (O29) -/

/-- The bank that an instruction's block takes up next. -/
def VInstr.uses (x : VInstr) (n : Nat) : VInstr := if x.bank = 0 then { x with bank := n } else { x with bankB := n }

/-- A bank as a fill leaves it, due ⌈p / 4⌉ + 4 steps on (R141). -/
def State.fillBank (s : State) (k : Nat) (x : VInstr) (need : Nat × Nat × Nat × Nat × Bool) : Bank :=
  let b : Bank := { addr := need.1, t := need.2.1, k := need.2.2.1, etype := need.2.2.2.1, sampled := need.2.2.2.2,
                    astride := x.vp.astride, due := 0, filled := false, elems := [] }
  { b with due := s.now + (((s.bankTiles k b).map (·.parcels)).sum + 3) / 4 + 4 }

theorem uses_eq (x : VInstr) (n : Nat) :
    (if decide (x.bank ≠ 0) = true then { x with bankB := n } else { x with bank := n } : VInstr) = x.uses n := by
  unfold VInstr.uses
  by_cases h : x.bank = 0
  · rw [if_pos h, if_neg (by simpa using h)]
  · rw [if_neg h, if_pos (by simpa using h)]

section
variable {s : State} {c : CoreId} {x : VInstr} {need : Nat × Nat × Nat × Nat × Bool}
  (hx : (s.vec c.toNat).q.find? (fun x => !x.workDone &&
    ((x.bank = 0 && (bankNeed x.kind x.vp false).isSome) || (x.bankB = 0 && (bankNeed x.kind x.vp true).isSome))) = some x)
  (hneed : bankNeed x.kind x.vp (decide (x.bank ≠ 0)) = some need)
include hx hneed

theorem exec_vecFillStart : exec (.vecFillStart c) s = .next (s.placeBlock c.toNat x (decide (x.bank ≠ 0)) need) := by
  change execVecFillStart c s = _
  unfold execVecFillStart
  simp only [hx]
  by_cases h : x.bank = 0
  · have hsecond : decide (x.bank ≠ 0) = false := by simpa using h
    rw [hsecond] at hneed
    rw [if_pos h, hneed, hsecond]
  · have hsecond : decide (x.bank ≠ 0) = true := by simpa using h
    rw [hsecond] at hneed
    rw [if_neg h, hneed, hsecond]

/-- Where the block of an instruction is placed. -/
theorem exec_vecFillStart_eq :
    exec (.vecFillStart c) s = .next
      (if (s.vec c.toNat).bankA.any (fun b => b.holds need) then s.setVInstr c.toNat (x.uses 1)
      else if (s.vec c.toNat).bankB.any (fun b => b.holds need) then s.setVInstr c.toNat (x.uses 2)
      else if (s.vec c.toNat).bankFree 1 s.now then
        (s.setVec c.toNat { s.vec c.toNat with bankA := some (s.fillBank c.toNat x need) }).setVInstr c.toNat (x.uses 1)
      else if (s.vec c.toNat).bankFree 2 s.now then
        (s.setVec c.toNat { s.vec c.toNat with bankB := some (s.fillBank c.toNat x need) }).setVInstr c.toNat (x.uses 2)
      else s) := by
  rw [exec_vecFillStart hx hneed, ← uses_eq, ← uses_eq]
  rfl

end

theorem exec_vecFillDone {s : State} {c : CoreId} {second : Bool} {b : Bank} (hb : (s.vec c.toNat).bank (if second then 2 else 1) = some b) :
    exec (.vecFillDone c second) s =
      if b.filled ∨ s.now < b.due then .next s
      else .next ((s.setVec c.toNat (if second then
          { s.vec c.toNat with bankB := some { b with filled := true, elems := bankElems b (s.bankTiles c.toNat b) } }
        else { s.vec c.toNat with bankA := some { b with filled := true, elems := bankElems b (s.bankTiles c.toNat b) } })).countPoison
          c.toNat ((s.bankTiles c.toNat b).map (·.errors)).sum) := by
  have hbank : (if second then (s.vec c.toNat).bankB else (s.vec c.toNat).bankA) = some b := by
    cases second <;> exact hb
  change execVecFillDone c second s = _
  unfold execVecFillDone
  simp only [hbank]

theorem banksFill : Claim.BanksFill := by
  intro s c x n need b second k v uses fresh fill holds
  refine ⟨fun hx hneed hn => ?_, fun hb hfilled => ?_⟩
  · have hexec := exec_vecFillStart_eq hx hneed
    refine ⟨fun hholds hfirst => hexec.trans ?_, fun h1 h2 hfree hfirst => hexec.trans ?_, fun h1 h2 hfree1 hfree2 => hexec.trans ?_⟩
    · obtain rfl | rfl := hn
      · rw [if_pos (show (s.vec c.toNat).bankA.any (fun b => b.holds need) = true from hholds)]
        rfl
      · rw [if_neg (Bool.eq_false_iff.mp (show (s.vec c.toNat).bankA.any (fun b => b.holds need) = false from hfirst rfl)),
          if_pos (show (s.vec c.toNat).bankB.any (fun b => b.holds need) = true from hholds)]
        rfl
    · rw [if_neg (Bool.eq_false_iff.mp (show (s.vec c.toNat).bankA.any (fun b => b.holds need) = false from h1)),
        if_neg (Bool.eq_false_iff.mp (show (s.vec c.toNat).bankB.any (fun b => b.holds need) = false from h2))]
      obtain rfl | rfl := hn
      · rw [if_pos (show (s.vec c.toNat).bankFree 1 s.now = true from hfree)]
        rfl
      · rw [if_neg (Bool.eq_false_iff.mp (show (s.vec c.toNat).bankFree 1 s.now = false from hfirst rfl)),
          if_pos (show (s.vec c.toNat).bankFree 2 s.now = true from hfree)]
        rfl
    · rw [if_neg (Bool.eq_false_iff.mp (show (s.vec c.toNat).bankA.any (fun b => b.holds need) = false from h1)),
        if_neg (Bool.eq_false_iff.mp (show (s.vec c.toNat).bankB.any (fun b => b.holds need) = false from h2)),
        if_neg (Bool.eq_false_iff.mp (show (s.vec c.toNat).bankFree 1 s.now = false from hfree1)),
        if_neg (Bool.eq_false_iff.mp (show (s.vec c.toNat).bankFree 2 s.now = false from hfree2))]
  · refine ⟨fun hdue => (exec_vecFillDone hb).trans (if_neg ?_), fun hdue => (exec_vecFillDone hb).trans (if_pos (.inr hdue))⟩
    rw [hfilled]
    simpa using hdue

/-! ## Bands, sweeps and leaves (O29) -/

theorem exec_vecBand_of_mvd {s : State} {c : CoreId} {x : VInstr} {bk : Bank} {at_ : Nat} (hx : s.vecHead c.toNat = some x)
    (hkind : x.kind = .mvd) (hat : (s.vec c.toNat).blocksAt x = some at_) (hbk : (s.vec c.toNat).bank x.bank = some bk) (hk : x.vp.k ≠ 0) :
    exec (.vecBand c) s =
      if s.now < max (max x.due at_) (s.vec c.toNat).free then .next s
      else .next (s.mvdBand c.toNat x bk (max (max x.due at_) (s.vec c.toNat).free)) := by
  change execVecBand c s = _
  unfold execVecBand
  simp only [hx, hat, hkind, hbk, if_neg hk]

theorem bandsOfMvd : Claim.BandsOfMvd := by
  intro s c x bk at_ k p nb ch start per r sweep y t hx hkind hat hbk hk
  have hexec := exec_vecBand_of_mvd hx hkind hat hbk hk
  refine ⟨fun hnow => ⟨fun hmore => hexec.trans ((if_neg (Nat.not_lt.mpr hnow)).trans ?_),
    fun hlast => hexec.trans ((if_neg (Nat.not_lt.mpr hnow)).trans ?_)⟩, fun hnow => hexec.trans (if_pos hnow)⟩
  · exact congrArg Host.Outcome.next (if_neg (Nat.ne_of_lt hmore))
  · exact congrArg Host.Outcome.next (if_pos hlast)

theorem pushLeaf_vec (s : State) (c : Nat) (l : VLeaf) :
    (s.pushLeaf c l).vec c = { s.vec c with leaves := (s.vec c).leaves ++ [l] } := setVec_vec_same ..

theorem setVInstr_vec (s : State) (c : Nat) (x : VInstr) :
    (s.setVInstr c x).vec c = { s.vec c with q := (s.vec c).q.map fun y => if y.id = x.id then x else y } := setVec_vec_same ..

/-- An instruction whose work is done stays until its leaves have entered (R152). -/
theorem vecDone_vec_of_leaf {s : State} {c : Nat} {x : VInstr} {l : VLeaf} (hl : l ∈ (s.vec c).leaves) (hid : l.instr = x.id) (d : Nat) :
    (s.vecDone c x d).vec c = { s.vec c with
      free := d, q := (s.vec c).q.map fun z => if z.id = x.id then { x with workDone := true, due := d } else z } := by
  have hany : ((s.vec c).leaves.any fun l => l.instr = x.id) = true := List.any_eq_true.mpr ⟨l, hl, decide_eq_true hid⟩
  unfold vecDone
  simp only [setVInstr_vec, setVec_vec_same, hany, Bool.not_true, Bool.and_false, Bool.not_false, List.filter_true]

theorem sweepsEnd : Claim.SweepsEnd := by
  intro s k x chunk endAt d leaf y
  refine ⟨?_, ?_⟩
  · have h : (s.endSweep k x chunk endAt false).vec k = ((s.pushLeaf k leaf).setVInstr k y).vec k := rfl
    rw [h, setVInstr_vec, pushLeaf_vec]
  · have h : (s.endSweep k x chunk endAt true).vec k = ((s.pushLeaf k leaf).vecDone k y d).vec k := rfl
    rw [h, vecDone_vec_of_leaf (x := y) (l := leaf) (by rw [pushLeaf_vec]; simp) rfl, pushLeaf_vec]

theorem exec_vecLeafEntry {s : State} {c : CoreId} {l : VLeaf} {rest : List VLeaf} {x : VInstr} {g : Group}
    (hl : (s.vec c.toNat).leaves = l :: rest) (hx : (s.vec c.toNat).q.find? (fun x => x.id = l.instr) = some x)
    (hg : s.group c.toNat x.grp = some g) :
    exec (.vecLeafEntry c) s =
      if decide (s.now < l.due) || s.drainReads c.toNat x.grp x.gen || decide (s.now < g.emptyAt ∨ s.now < g.lastIn) then .next s
      else .next ((s.setVec c.toNat { s.vec c.toNat with
        leaves := rest
        q := (s.vec c.toNat).q.filter fun y => !(y.workDone && y.id = x.id && !(rest.any fun z => z.instr = x.id)) }).enterLeaf
          c.toNat x.grp l.no x.gen l.vals l.sat (max l.due g.lastIn) x.pc) := by
  change execVecLeafEntry c s = _
  unfold execVecLeafEntry
  dsimp only
  split
  · next h => exact absurd (hl.symm.trans h) (List.cons_ne_nil _ _)
  · next l' rest' h =>
    obtain ⟨rfl, rfl⟩ := List.cons.inj (hl.symm.trans h)
    simp only [hx, hg]
    rfl

theorem leavesEnter : Claim.LeavesEnter := by
  intro s c l rest x g k v hl hx hg
  have hexec := exec_vecLeafEntry hl hx hg
  refine ⟨fun hdue hread hempty hin => hexec.trans (if_neg ?_), fun hwait => hexec.trans (if_pos ?_)⟩
  · rw [show s.drainReads c.toNat x.grp x.gen = false from hread]
    simp only [Bool.or_false, Bool.or_eq_true, decide_eq_true_eq]
    omega
  · obtain h | h | h | h := hwait
    · simp [h]
    · simp [show s.drainReads c.toNat x.grp x.gen = true from h]
    · simp [h]
    · simp [h]

/-- Settles O29: every block is in a bank before a band reads it, and every leaf waits for its sweep. -/
theorem vectorPathWorks : Obligations.VectorPathWorks := ⟨banksFill, bandsOfMvd, sweepsEnd, leavesEnter⟩

end Sys2Proof.Machine

end

section
/-! PROOFS. O31: the arms, timeouts and ports of the stream engines. -/

namespace Sys2Proof.Machine

open State

/-! ## Arms start and complete (O31) -/

theorem startQueued_of_queued {s : State} {c e : Nat} {a : Arm} (h : (s.eng c e).queued = some a) (bundled : Bool) :
    s.startQueued c e bundled =
      if (s.eng c e).active.isNone && a.bundled = bundled then
        s.setEng c e { s.eng c e with active := some a, queued := none }
      else s := by
  unfold startQueued
  simp only [h]

theorem startQueued_of_idle {s : State} {c e : Nat} {a : Arm} {bundled : Bool} (hactive : (s.eng c e).active = none)
    (hq : (s.eng c e).queued = some a) (hb : a.bundled = bundled) :
    s.startQueued c e bundled = s.setEng c e { s.eng c e with active := some a, queued := none } := by
  rw [startQueued_of_queued hq]
  exact if_pos (by simp [hactive, hb])

theorem startQueued_of_busy {s : State} {c e : Nat} (h : (s.eng c e).active ≠ none ∨ (s.eng c e).queued = none) (bundled : Bool) :
    s.startQueued c e bundled = s := by
  cases hq : (s.eng c e).queued with
  | none =>
    unfold startQueued
    simp only [hq]
  | some a =>
    have hactive : (s.eng c e).active ≠ none := h.resolve_right (by simp [hq])
    rw [startQueued_of_queued hq]
    exact if_neg (by simp [hactive])

/-- Nothing of an arm is on its way any more (R230). -/
def Eng.isDone (g : Eng) (a : Arm) : Bool :=
  a.ended && a.run.isNone && g.flight.isEmpty && g.tile.isEmpty && g.sent.isEmpty && g.portOut.isEmpty && !(g.cov.any fun x => x.2.dirty)

theorem isDone_iff (g : Eng) (a : Arm) :
    g.isDone a = true ↔ a.ended = true ∧ a.run = none ∧ g.flight = [] ∧ g.tile = [] ∧ g.sent = [] ∧ g.portOut = [] ∧
      ∀ x ∈ g.cov, x.2.dirty = false := by
  simp [Eng.isDone, and_assoc]

theorem exec_armComplete {s : State} {c : CoreId} {e : BitVec 3} {a : Arm} (h : (s.eng c.toNat e.toNat).active = some a) :
    exec (.armComplete c e) s =
      if (s.eng c.toNat e.toNat).isDone a then
        let idle := s.setEng c.toNat e.toNat { s.eng c.toNat e.toNat with
          active := none, ctl := [], cov := [], covEntry := 0, portN := 0, portData := 0, portMark := false }
        .next (if a.resid && !(s.drn c.toNat).residEnd.contains e.toNat then
          idle.setDrn c.toNat { s.drn c.toNat with residEnd := (s.drn c.toNat).residEnd ++ [e.toNat] } else idle)
      else .next s := by
  change execArmComplete c e s = _
  unfold execArmComplete
  simp only [h]
  rfl

theorem armsStartAndComplete : Claim.ArmsStartAndComplete := by
  intro s c e a k n g d starts idle
  refine ⟨fun hactive hq hb => ⟨congrArg Host.Outcome.next ?_, congrArg Host.Outcome.next ?_⟩,
    fun hactive hq hb => ⟨congrArg Host.Outcome.next ?_, congrArg Host.Outcome.next ?_⟩,
    fun h => ⟨congrArg Host.Outcome.next (startQueued_of_busy h false), congrArg Host.Outcome.next (startQueued_of_busy h true)⟩,
    fun hactive hended hrun hflight htile hsent hport hcov => ?_, fun hactive hbusy => ?_, fun hactive => ?_⟩
  · exact startQueued_of_idle hactive hq hb
  · rw [startQueued_of_queued hq]
    exact if_neg (by simp [hb])
  · exact startQueued_of_idle hactive hq hb
  · rw [startQueued_of_queued hq]
    exact if_neg (by simp [hb])
  · have hdone := (exec_armComplete hactive).trans
      (if_pos ((isDone_iff _ _).mpr ⟨hended, hrun, hflight, htile, hsent, hport, hcov⟩))
    refine ⟨fun hresid hnew => hdone.trans (congrArg Host.Outcome.next (if_pos ?_)),
      fun hno => hdone.trans (congrArg Host.Outcome.next (if_neg ?_))⟩
    · rw [hresid, Bool.true_and, Bool.not_eq_true', ← Bool.not_eq_true, List.contains_iff_mem]
      exact hnew
    · rw [Bool.and_eq_true, Bool.not_eq_true', ← Bool.not_eq_true, List.contains_iff_mem]
      rintro ⟨hresid, hnew⟩
      obtain h | h := hno
      · exact Bool.false_ne_true (h.symm.trans hresid)
      · exact hnew h
  · refine (exec_armComplete hactive).trans (if_neg fun hdone => ?_)
    obtain ⟨hended, hrun, hflight, htile, hsent, hport, hcov⟩ := (isDone_iff _ _).mp hdone
    obtain h | h | h | h | h | h | ⟨x, hx, h⟩ := hbusy
    · exact Bool.false_ne_true (h.symm.trans hended)
    · exact h hrun
    · exact h hflight
    · exact h htile
    · exact h hsent
    · exact h hport
    · exact Bool.false_ne_true ((hcov x hx).symm.trans h)
  · change execArmComplete c e s = _
    unfold execArmComplete
    simp only [show (s.eng c.toNat e.toNat).active = none from hactive]

/-! ## Timeouts (O31) -/

/-- A poisoned parcel for all that wait for a read (R245). -/
def State.gotPoison (s : State) (k n : Nat) (who : Requester) (a : Nat) : State :=
  match who with
  | .engine _ _ rid => s.engineGot k n rid (poisonedParcel a)
  | .merge _ _ rid => s.mergeGot k n rid (poisonedParcel a)
  | .ctl _ _ rid => s.ctlGot k n rid (poisonedParcel a)
  | _ => s

theorem exec_streamReadTimeout {s : State} {c : CoreId} {e : BitVec 3} {who : Requester} {a : Nat} {others : List (Requester × Nat)}
    (h : s.overdue c.toNat e.toNat = (who, a) :: others) :
    exec (.streamReadTimeout c e) s = .next (((s.gotPoison c.toNat e.toNat who a).setEng c.toNat e.toNat
      { (s.gotPoison c.toNat e.toNat who a).eng c.toNat e.toNat with last := 4 }).countPoison c.toNat 1) := by
  change execStreamReadTimeout c e s = _
  unfold execStreamReadTimeout
  simp only [h]
  rfl

theorem exec_streamWriteTimeout (s : State) (c : CoreId) (e : BitVec 3) :
    exec (.streamWriteTimeout c e) s =
      match (s.eng c.toNat e.toNat).sent.find? fun x => decide (x.1 + 1048576 ≤ s.now) with
      | some x => .next ((s.setEng c.toNat e.toNat
          { s.eng c.toNat e.toNat with sent := (s.eng c.toNat e.toNat).sent.erase x, last := 4 }).countPoison c.toNat 1)
      | none => .next s := rfl

/-- A read on its way for too long is overdue. -/
theorem overdue_ne_nil_of_part {s : State} {c e : Nat} {f : Flight} {y : Part} (hf : f ∈ (s.eng c e).flight) (hy : y ∈ f.srcs)
    (hgot : y.got = none) (hlate : y.asked + 1048576 ≤ s.now) : s.overdue c e ≠ [] := by
  have hmem : y ∈ (((s.eng c e).flight ++ (s.eng c e).tile).flatMap (·.srcs)).filter
      fun x => x.got.isNone && decide (x.asked + 1048576 ≤ s.now) := by
    rw [List.mem_filter, List.mem_flatMap]
    exact ⟨⟨f, List.mem_append_left _ hf, hy⟩, by simp [hgot, hlate]⟩
  unfold overdue
  dsimp only
  intro hnil
  have hparts := (List.append_eq_nil_iff.mp (List.append_eq_nil_iff.mp hnil).1).1
  rw [List.map_eq_nil_iff] at hparts
  rw [hparts] at hmem
  cases hmem

theorem streamTimeouts : Claim.StreamTimeouts := by
  intro s c e rid a others x k n g p fill
  refine ⟨fun h => ?_, fun h => ?_, fun h => ?_, fun h => ?_, fun f hf y hy hgot hlate => overdue_ne_nil_of_part hf hy hgot hlate,
    fun h => ?_, fun h => ?_⟩
  · rw [exec_streamReadTimeout h]
    simp only [gotPoison, engineGot, setEng_eng_same, setEng_setEng]
    rfl
  · rw [exec_streamReadTimeout h]
    simp only [gotPoison, mergeGot, setEng_eng_same, setEng_setEng]
    rfl
  · rw [exec_streamReadTimeout h]
    simp only [gotPoison, ctlGot, setEng_eng_same, setEng_setEng]
    rfl
  · change execStreamReadTimeout c e s = _
    unfold execStreamReadTimeout
    simp only [show s.overdue c.toNat e.toNat = [] from h]
  · rw [exec_streamWriteTimeout, h]
  · have hnone : (s.eng c.toNat e.toNat).sent.find? (fun x => decide (x.1 + 1048576 ≤ s.now)) = none :=
      List.find?_eq_none.mpr fun y hy => by simpa using h y hy
    rw [exec_streamWriteTimeout, hnone]

/-! ## Ports (O31) -/

section
variable {s : State} {c : CoreId} {e : BitVec 3}

theorem exec_portDelivery {port : Nat} {p : Parcel} {rest : List (Nat × Parcel)}
    (h : (s.eng c.toNat e.toNat).portOut = (port, p) :: rest) :
    exec (.portDelivery c e) s =
      (let q := s.consumeAt c.toNat p 0
      let taken := q.1.setEng c.toNat e.toNat { (q.1.eng c.toNat e.toNat) with
        portOut := rest
        poisoned := if q.2.poison then (s.eng c.toNat e.toNat).poisoned + 1 else (s.eng c.toNat e.toNat).poisoned }
      if port = 0xFFFE then
        if (s.drn c.toNat).q.any fun x => x.cfg.on 3 && x.cfg.residEng = e then
          .next (taken.setDrn c.toNat { s.drn c.toNat with
            resid := Sparse.set [] (s.drn c.toNat).resid e.toNat (Sparse.get [] (s.drn c.toNat).resid e.toNat ++ [q.2]) })
        else .next s
      else if port = 0xFFFD then
        if (s.vec c.toNat).q.any fun x => x.kind = .mvsGather then
          .next (taken.setVec c.toNat { s.vec c.toNat with wport := (s.vec c.toNat).wport ++ [q.2] }) else .next s
      else .next ((s.setEng c.toNat e.toNat { s.eng c.toNat e.toNat with portOut := rest }).engUndec c.toNat e.toNat)) := by
  change execPortDelivery c e s = _
  unfold execPortDelivery
  dsimp only
  split
  · next h' => exact absurd (h.symm.trans h') (List.cons_ne_nil _ _)
  · next port' p' rest' h' =>
    obtain ⟨heq, rfl⟩ := List.cons.inj (h.symm.trans h')
    obtain ⟨rfl, rfl⟩ := Prod.mk.inj heq
    rfl

end

/-- Reading a parcel counts an error at most, and changes no engine. -/
theorem consumeAt_eng (s : State) (c : Nat) (p : Parcel) (a k n : Nat) : (s.consumeAt c p a).1.eng k n = s.eng k n := by
  unfold consumeAt
  dsimp only
  split <;> rfl

theorem portsTakeParcels : Claim.PortsTakeParcels := by
  intro s c e port p rest k n g d v q u taken reads gathers
  refine ⟨fun h => ?_, fun h => ?_⟩
  · change execPortDelivery c e s = _
    unfold execPortDelivery
    simp only [show (s.eng c.toNat e.toNat).portOut = [] from h]
  · have hexec := exec_portDelivery h
    have htaken : (s.consumeAt k p 0).1.setEng k n { (s.consumeAt k p 0).1.eng k n with
        portOut := rest, poisoned := if (s.consumeAt k p 0).2.poison then g.poisoned + 1 else g.poisoned } = taken := by
      rw [consumeAt_eng]
      rfl
    refine ⟨fun hport hreads => hexec.trans ?_, fun hport hreads => hexec.trans ?_, fun hport hgathers => hexec.trans ?_,
      fun hport hgathers => hexec.trans ?_, fun hresid hwport => hexec.trans ?_⟩
    · refine (if_pos hport).trans ((if_pos hreads).trans ?_)
      exact congrArg (fun t : State => Host.Outcome.next (t.setDrn k
        { d with resid := Sparse.set [] d.resid n (Sparse.get [] d.resid n ++ [q]) })) htaken
    · exact (if_pos hport).trans (if_neg (Bool.eq_false_iff.mp hreads))
    · refine (if_neg (by omega)).trans ((if_pos hport).trans ((if_pos hgathers).trans ?_))
      exact congrArg (fun t : State => Host.Outcome.next (t.setVec k { v with wport := v.wport ++ [q] })) htaken
    · exact (if_neg (by omega)).trans ((if_pos hport).trans (if_neg (Bool.eq_false_iff.mp hgathers)))
    · refine (if_neg hresid).trans ((if_neg hwport).trans ?_)
      unfold engUndec
      simp only [setEng_eng_same, setEng_setEng]
      rfl

/-- Settles O31: an engine is idle only once nothing of its arm is on its way. -/
theorem enginesRun : Obligations.EnginesRun := ⟨armsStartAndComplete, streamTimeouts, portsTakeParcels⟩

end Sys2Proof.Machine

end

section
/-! PROOFS. O32: list entries and descriptors, and what an engine fetches for them. -/

namespace Sys2Proof.Machine

open State

/-! ## List entries (O32) -/

theorem badList_eq (s : State) (c e : Nat) (a : Arm) :
    s.badList c e a = s.setEng c e { s.eng c e with active := some { a with ended := true }, ctl := [], last := 2 } := by
  unfold badList setArm
  dsimp only
  rw [setEng_eng_same, setEng_setEng]

section
variable {s : State} {k n kind : Nat} {take : State → Arm → Nat → State} {a : Arm}

theorem takeEntry_of_none (h : s.walking k n = none) : s.takeEntry k n kind take = s := by
  unfold takeEntry
  simp only [h]

variable (h : s.walking k n = some a)
include h

theorem takeEntry_of_waits (hhere : (s.fetchEntry k n a).entryHere k n a = false) : s.takeEntry k n kind take = s.fetchEntry k n a := by
  unfold takeEntry
  simp only [h, hhere]
  rfl

variable (hhere : (s.fetchEntry k n a).entryHere k n a = true)
include hhere

theorem takeEntry_of_bad (hbad : ((s.fetchEntry k n a).listEntry k n a).2 = true ∨ 2 < ((s.fetchEntry k n a).listEntry k n a).1 % 16) :
    s.takeEntry k n kind take = (s.fetchEntry k n a).badList k n a := by
  unfold takeEntry
  simp only [h, hhere, Bool.not_true, Bool.false_eq_true, if_false]
  exact if_pos (by simpa using hbad)

theorem takeEntry_of_kind (hgood : ((s.fetchEntry k n a).listEntry k n a).2 = false)
    (hkind : ((s.fetchEntry k n a).listEntry k n a).1 % 16 = kind) (hle : kind ≤ 2) :
    s.takeEntry k n kind take = take (s.fetchEntry k n a) a ((s.fetchEntry k n a).listEntry k n a).1 := by
  unfold takeEntry
  simp only [h, hhere, Bool.not_true, Bool.false_eq_true, if_false, hgood, Bool.false_or]
  refine (if_neg ?_).trans (if_pos hkind)
  rw [decide_eq_true_eq]
  omega

theorem takeEntry_of_other (hgood : ((s.fetchEntry k n a).listEntry k n a).2 = false)
    (hne : ((s.fetchEntry k n a).listEntry k n a).1 % 16 ≠ kind) (hle : ((s.fetchEntry k n a).listEntry k n a).1 % 16 ≤ 2) :
    s.takeEntry k n kind take = s.fetchEntry k n a := by
  unfold takeEntry
  simp only [h, hhere, Bool.not_true, Bool.false_eq_true, if_false, hgood, Bool.false_or]
  refine (if_neg ?_).trans (if_neg hne)
  rw [decide_eq_true_eq]
  omega

end

theorem listEntries : Claim.ListEntries := by
  intro s c e a k n t g x v list goesOn ends copy all
  have hends : t.badList k n a = ends := badList_eq t k n a
  refine ⟨fun h => ?_, fun h hhere => ?_, fun h hhere => ⟨fun hbad => ?_, fun hgood hkind => ?_, fun hgood hkind hrange => ?_,
    fun hgood hkind hrange => ?_, fun hgood hkind => ?_, fun hgood hkind => ?_, fun hgood hkind => ?_⟩⟩
  · exact ⟨congrArg Host.Outcome.next (takeEntry_of_none h), congrArg Host.Outcome.next (takeEntry_of_none h),
      congrArg Host.Outcome.next (takeEntry_of_none h)⟩
  · exact ⟨congrArg Host.Outcome.next (takeEntry_of_waits h hhere), congrArg Host.Outcome.next (takeEntry_of_waits h hhere),
      congrArg Host.Outcome.next (takeEntry_of_waits h hhere)⟩
  · exact ⟨congrArg Host.Outcome.next ((takeEntry_of_bad h hhere hbad).trans hends),
      congrArg Host.Outcome.next ((takeEntry_of_bad h hhere hbad).trans hends),
      congrArg Host.Outcome.next ((takeEntry_of_bad h hhere hbad).trans hends)⟩
  · refine congrArg Host.Outcome.next ((takeEntry_of_kind h hhere hgood hkind (by decide)).trans ?_)
    unfold startRaw
    simp only [bitsOf_eq]
    rfl
  · refine congrArg Host.Outcome.next ((takeEntry_of_kind h hhere hgood hkind (by decide)).trans ?_)
    unfold chainTo
    simp only [bitsOf_eq]
    exact if_pos hrange
  · refine congrArg Host.Outcome.next ((takeEntry_of_kind h hhere hgood hkind (by decide)).trans ?_)
    unfold chainTo
    simp only [bitsOf_eq]
    exact (if_neg (Bool.eq_false_iff.mp hrange)).trans hends
  all_goals
    have hv : v % 16 ≤ 2 := by omega
    refine ⟨congrArg Host.Outcome.next (takeEntry_of_other h hhere hgood ?_ hv),
      congrArg Host.Outcome.next (takeEntry_of_other h hhere hgood ?_ hv)⟩
  all_goals exact fun heq => absurd (hkind.symm.trans heq) (by decide)

/-! ## Descriptor entries (O32) -/

theorem origin_eq (v lo : Nat) :
    origin v lo = (List.range 5).map (fun d => signedOf 8 (v / 2 ^ (lo + 8 * d) % 2 ^ 8)) := by
  unfold origin
  refine List.map_congr_left fun d _ => ?_
  rw [bitsOf_eq]
  congr 3
  omega

theorem anyPoisoned_iff (m n : Nat) (x y : List Byte × Bool) :
    ([(if m < 0xFFF0 then some x else none), (if n < 0xFFF0 then some y else none)].any fun r => r.any fun z => z.2) = true ↔
      (m < 0xFFF0 ∧ x.2 = true) ∨ (n < 0xFFF0 ∧ y.2 = true) := by
  by_cases hm : m < 0xFFF0 <;> by_cases hn : n < 0xFFF0 <;> simp [hm, hn]

theorem map_descriptorAt (m : Nat) (x : List Byte × Bool) :
    (if m < 0xFFF0 then some x else none).map (fun y => parseDesc y.1) = if m < 0xFFF0 then some (parseDesc x.1) else none := by
  split <;> rfl

/-- The run that a descriptor entry `v` starts for arm `a`, over the tensors it names. -/
def descRun (s : State) (a : Arm) (v srcN dstN : Nat) (src dst : Option Desc) (ext : List Nat) (total : Nat) : Run :=
  { no := a.taken, raw := false, src, dst, port := if dstN < 0xFFF0 then none else some dstN, add := bitOf v 5, ext,
    total, idx := 0, sorg := origin v 48, dorg := origin v 88, saddr := 0, daddr := 0, readyAt := s.now + 8,
    mode := modeOf src dst dst.isNone ext (origin v 88), slotAt := 0, used := 0, lastRd := none,
    tiled := modeOf src dst dst.isNone ext (origin v 88) = .tile &&
      (src.bind fun x => dst.map fun y => apart s.ownId x y) = some true,
    sown := none, down := none }

section
variable {s : State} {c e v srcN dstN : Nat} {a : Arm} (hsrc : bitsOf v 31 16 = srcN) (hdst : bitsOf v 47 32 = dstN)
include hsrc hdst

theorem startDesc_of_poisoned (hp : (srcN < 0xFFF0 ∧ (lookBytes (s.ctlLook c e) (s.descAddr srcN) 64).2 = true) ∨
    (dstN < 0xFFF0 ∧ (lookBytes (s.ctlLook c e) (s.descAddr dstN) 64).2 = true)) :
    s.startDesc c e a v = s.badList c e a := by
  subst hdst
  subst hsrc
  exact if_pos ((anyPoisoned_iff ..).mpr hp)

theorem startDesc_of_good (hp : ¬((srcN < 0xFFF0 ∧ (lookBytes (s.ctlLook c e) (s.descAddr srcN) 64).2 = true) ∨
      (dstN < 0xFFF0 ∧ (lookBytes (s.ctlLook c e) (s.descAddr dstN) 64).2 = true)))
    {src dst : Option Desc} {given : Option (List Nat)} {total : Nat}
    (hg : given = match dst with
      | some d => if d.gen then src.map Desc.extents else some d.extents
      | none => src.map Desc.extents)
    (ht : total = if given.isNone || src.elim false Desc.isEmpty || dst.elim false Desc.isEmpty then 0
      else (given.getD []).foldl (· * ·) 1)
    (hs : src = if srcN < 0xFFF0 then some (parseDesc (lookBytes (s.ctlLook c e) (s.descAddr srcN) 64).1) else none)
    (hd : dst = if dstN < 0xFFF0 then some (parseDesc (lookBytes (s.ctlLook c e) (s.descAddr dstN) 64).1) else none) :
    s.startDesc c e a v = (if src.isNone then s.engUndec c e else s).setArm c e
      { a.took (bitOf v 4) (if total = 0 then none else some (descRun s a v srcN dstN src dst (given.getD []) total)) with
        resid := a.resid || decide (dstN = 0xFFFE) } := by
  subst ht hg hsrc hdst
  rw [← map_descriptorAt _ (lookBytes _ _ _)] at hs hd
  subst hs hd
  exact if_neg fun hbad => hp ((anyPoisoned_iff ..).mp hbad)

end

theorem descriptorEntries : Claim.DescriptorEntries := by
  intro s c e a k n t x v srcN dstN read src dst poisoned given ext total u h hhere hgood hkind
  have htake : exec (.descEntry c e) s = .next (t.startDesc k n a v) :=
    congrArg Host.Outcome.next (takeEntry_of_kind h hhere hgood hkind (by decide))
  have hsrc : bitsOf v 31 16 = srcN := bitsOf_eq v 31 16
  have hdst : bitsOf v 47 32 = dstN := bitsOf_eq v 47 32
  let run : Run := descRun t a v srcN dstN src dst ext total
  refine ⟨fun hp => ?_, fun hp => ?_⟩
  · refine htake.trans (congrArg Host.Outcome.next ?_)
    rw [← badList_eq]
    exact startDesc_of_poisoned hsrc hdst hp
  · refine ⟨{ a.took (bitOf v 4) (if total = 0 then none else some run) with resid := a.resid || decide (dstN = 0xFFFE) }, ?_,
      rfl, rfl, rfl, rfl, rfl, rfl, rfl, rfl, fun h0 => if_pos h0, fun h0 => ⟨run, if_neg h0, rfl, rfl, rfl, rfl, rfl, rfl, rfl, rfl,
        rfl, rfl, origin_eq v 48, origin_eq v 88, rfl⟩⟩
    refine htake.trans (congrArg Host.Outcome.next ?_)
    exact startDesc_of_good hsrc hdst hp rfl rfl rfl rfl

/-! ## What an engine fetches for an entry (O32) -/

theorem get_map_value {α : Type} (f : α → α) (m : SMap (Option α)) (i : Nat) :
    Sparse.get none (m.map fun x => (x.1, x.2.map f)) i = (Sparse.get none m i).map f := by
  induction m with
  | nil => rfl
  | cons x m ih =>
    obtain ⟨k, v⟩ := x
    change (if k = i then v.map f else _) = (if k = i then v else _).map f
    split
    · rfl
    · exact ih

theorem ctlLook_ctlGot {t : State} {k n a rid asked : Nat}
    (h : Sparse.get none (t.eng k n).ctl a = some { rid, asked, got := none }) (p : Parcel) :
    (t.ctlGot k n rid p).ctlLook k n a = some p := by
  unfold ctlGot ctlLook
  dsimp only
  rw [setEng_eng_same]
  dsimp only
  rw [get_map_value, h]
  simp

theorem ctlLook_engUndec (t : State) (k n a : Nat) : (t.engUndec k n).ctlLook k n a = t.ctlLook k n a := by
  unfold ctlLook
  have heng : (t.engUndec k n).eng k n = { t.eng k n with undec := (t.eng k n).undec + 1, last := 3 } :=
    setEng_eng_same ..
  rw [heng]

theorem keyOf_of_parcelFor {s : State} {sees : Option Nat} {a : Nat} {p : Parcel} (h : s.parcelFor sees a = some p) :
    (s.keyOf a).isNone = false := by
  cases hk : s.keyOf a with
  | none =>
    unfold parcelFor at h
    simp only [hk] at h
    cases h
  | some _ => rfl

theorem countPoison_cnt_same (t : State) (k m : Nat) : ((t.countPoison k m).cnt k).poison = (t.cnt k).poison + m := by
  have hcnt : (t.countPoison k m).cnt k = { t.cnt k with poison := (t.cnt k).poison + m } := setCnt_cnt_same ..
  rw [hcnt]

theorem consumeAt_cnt_poison (t : State) (k : Nat) (p : Parcel) (a : Nat) :
    ((t.consumeAt k p a).1.cnt k).poison = (t.cnt k).poison + (if (consume p a).2 then 1 else 0) := by
  unfold consumeAt
  dsimp only
  split
  · exact countPoison_cnt_same ..
  · rfl

theorem consumeAt_trail (t : State) (k : Nat) (p : Parcel) (a : Nat) : (t.consumeAt k p a).1.trail = t.trail := by
  unfold consumeAt
  dsimp only
  split <;> rfl

theorem putPkt_of_exit {t : State} {p : Pkt} {d : Nat} (h : t.pktExit p = some d) (k avail : Nat) :
    t.putPkt k avail p = t.putBeat k avail (mkBeat d [p]) := by
  unfold putPkt
  rw [h]

theorem askFor_of_exit (t : State) (c a : Nat) (who : Requester) (sees : Option Nat) {d : Nat} (h : placeExit a = some d) :
    t.askFor c a who sees = t.putBeat (sourceKey 0 c 4) t.now
      (mkBeat d [{ flow := .request (readReq a who sees (some (sourceKey 0 c 4))), addr := a, parcel := {} }]) := by
  have hpkt : t.pktExit { flow := .request (readReq a who sees (some (sourceKey 0 c 4))), addr := a, parcel := {} } = some d := h
  exact putPkt_of_exit hpkt ..

theorem entriesAreFetched : Claim.EntriesAreFetched := by
  intro s k n sees a g asked t u
  have hctl : Sparse.get none (t.eng k n).ctl a = some { rid := g.nextRid, asked := s.now, got := none } := by
    change Sparse.get none ((s.setEng k n asked).eng k n).ctl a = _
    rw [setEng_eng_same]
    exact Sparse.get_set_same none (some { rid := g.nextRid, asked := s.now, got := none }) g.ctl a
  refine ⟨fun hk => ?_, fun p hp hexit => ?_, fun hk d hexit hd => ?_⟩
  · have hu : u = (t.ctlGot k n g.nextRid (poisonedParcel a)).engUndec k n :=
      if_pos (by rw [hk]; rfl)
    rw [hu]
    refine ⟨(ctlLook_engUndec ..).trans (ctlLook_ctlGot hctl _), ?_, ?_, rfl⟩
    · have hgot : ((t.ctlGot k n g.nextRid (poisonedParcel a)).eng k n).undec = (t.eng k n).undec := by
        unfold ctlGot
        dsimp only
        rw [setEng_eng_same]
      have ht : (t.eng k n).undec = g.undec := by
        change ((s.setEng k n asked).eng k n).undec = _
        rw [setEng_eng_same]
      have hun : ∀ v : State, ((v.engUndec k n).eng k n).undec = (v.eng k n).undec + 1 := by
        intro v
        have heng : (v.engUndec k n).eng k n = { v.eng k n with undec := (v.eng k n).undec + 1, last := 3 } := setEng_eng_same ..
        rw [heng]
      rw [hun, hgot, ht]
    · exact countPoison_cnt_same ..
  · have hu : u = (t.consumeAt k p a).1.ctlGot k n g.nextRid (t.consumeAt k p a).2 := by
      refine (if_neg (Bool.eq_false_iff.mp (keyOf_of_parcelFor hp))).trans ((if_pos hexit).trans ?_)
      rw [hp]
      rfl
    rw [hu]
    refine ⟨?_, ?_, ?_, ?_⟩
    · exact ctlLook_ctlGot (by rw [consumeAt_eng]; exact hctl) _
    · exact consumeAt_cnt_poison ..
    · exact consumeAt_trail ..
    · exact consumeAt_mem ..
  · have hkey : (t.keyOf a).isNone ≠ true := by
      exact fun hnone => Option.isSome_iff_ne_none.mp hk (Option.isNone_iff_eq_none.mp hnone)
    have hplace : placeExit a ≠ some (k * 8 + 4) := fun heq => hd (Option.some.inj (hexit.symm.trans heq))
    refine (if_neg hkey).trans ((if_neg hplace).trans ?_)
    exact askFor_of_exit t k a _ _ hexit

/-- Settles O32: an entry is taken once all that it needs has come. -/
theorem entriesAreRead : Obligations.EntriesAreRead := ⟨listEntries, descriptorEntries, entriesAreFetched⟩

end Sys2Proof.Machine

end

section
/-! PROOFS. O33: elements of a transfer. -/

namespace Sys2Proof.Machine

open State

/-! ## A write that stalls on a list range its own address lies outside (O33) -/

/-- One byte into a parcel of core 1. -/
def unalignedAddr : Nat := coreAddr 1 0x8001

/-- A whole parcel for `unalignedAddr`, whose value has come. -/
def unalignedFlight : Flight :=
  { entry := 0, srcs := [{ module := 0, addr := 0, rid := 0, asked := 0, got := some {} }], lo := 0, srcNibs := 64, mark := false,
    dst := .mem [{ undec := false, module := State.reset.ownId, addr := unalignedAddr, lo := 0, n := 64 }], dstNibs := 64, add := false,
    etype := 0, last := true, col := 0 }

/-- Engine 0 of core 0 has that parcel to write, the list hold is full, and a list range covers the first byte of the parcel only. -/
def stallingState : State :=
  { State.reset.setEng 0 0 { Eng.reset with flight := [unalignedFlight] } with
    holdq := List.replicate 1024 { at_ := 0, addr := 0, parcel := {}, who := .nobody },
    pack := { State.reset.pack with ranges := [(coreAddr 1 0x8000, 1)] } }

theorem stallingState_flight : (stallingState.eng 0 0).flight = [unalignedFlight] := rfl

theorem landStalls_stallingState : stallingState.landStalls unalignedFlight = true := by
  have hfull : stallingState.holdFull unalignedAddr = true := by
    have hlen : stallingState.holdq.length = 1024 := List.length_replicate ..
    unfold holdFull
    rw [hlen]
    decide
  refine List.any_eq_true.mpr ⟨_, List.mem_singleton.mpr rfl, ?_⟩
  rw [hfull]
  exact (Bool.and_true _).trans (decide_eq_true rfl)

theorem exec_elementWrite_of_stalls {s : State} {c : CoreId} {e : BitVec 3} {f : Flight} {rest : List Flight} {v : Nat × Bool × BitVec 3}
    (hflight : (s.eng c.toNat e.toNat).flight = f :: rest) (hvalue : State.Flight.value f = some v)
    (hentry : f.entry = (s.eng c.toNat e.toNat).covEntry) (hstalls : s.landStalls f = true) :
    exec (.streamElementWrite c e) s = .next s := by
  change execStreamElementWrite c e s = _
  unfold execStreamElementWrite
  simp only [hflight, hvalue, hentry, hstalls, ne_eq, not_true, decide_false, Bool.false_and, Bool.false_eq_true, if_false, if_true]

theorem exec_stallingState : exec (.streamElementWrite 0 0) stallingState = .next stallingState :=
  exec_elementWrite_of_stalls stallingState_flight rfl rfl landStalls_stallingState

/-- Refutes O33: its clause on a write through the Trail names the address that it writes, which need not be a parcel's, and asks that
this byte lies outside the list ranges; a full hold stalls the write where the parcel's first byte lies inside one. -/
theorem not_elementsMove : ¬ Obligations.ElementsMove := by
  intro h
  obtain ⟨-, -, -, hland, -⟩ := h
  obtain ⟨-, htrail⟩ := hland stallingState 0 0 unalignedFlight [] {} 0 unalignedAddr stallingState_flight rfl rfl rfl rfl rfl rfl rfl
    rfl rfl
  obtain ⟨t, q, hexec, hflight, -⟩ := htrail rfl (by decide) 12 (by decide) (by decide) (by decide) (by decide)
  cases Host.Outcome.next.inj (exec_stallingState.symm.trans hexec)
  cases stallingState_flight.symm.trans hflight

end Sys2Proof.Machine

end

section
/-! PROOFS. O34: the bandwidth regulator and the shared slices. -/

namespace Sys2Proof.Machine

open State

/-! ## The regulator (O34) -/

theorem get_map_values {α : Type} (d : α) (f : α → α) (m : SMap α) (i : Nat) :
    Sparse.get d (m.map fun x => (x.1, f x.2)) i = f (Sparse.get d m i) ∨
      (Sparse.get d (m.map fun x => (x.1, f x.2)) i = d ∧ Sparse.get d m i = d) := by
  induction m with
  | nil => exact .inr ⟨rfl, rfl⟩
  | cons x m ih =>
    obtain ⟨k, v⟩ := x
    by_cases hk : k = i
    · exact .inl ((if_pos hk).trans (congrArg f (if_pos hk).symm))
    · refine ih.imp (fun h => ?_) (fun h => ?_)
      · exact (if_neg hk).trans (h.trans (congrArg f (if_neg hk).symm))
      · exact ⟨(if_neg hk).trans h.1, (if_neg hk).trans h.2⟩

/-- The state once the budgets of the window from step `w` on are set. -/
def windowSet (s : State) (w : Nat) : State :=
  { s with mm := { s.mm with
    winStart := w, total := (budgets s.stepTarget s.split).1, budget := (budgets s.stepTarget s.split).2,
    chans := s.mm.chans.map fun x => (x.1, { x.2 with used := [0, 0, 0] }) } }

theorem chan_windowSet (s : State) (w k : Nat) :
    (windowSet s w).chan k = { s.chan k with used := [0, 0, 0] } ∨ ((windowSet s w).chan k = Chan.reset ∧ s.chan k = Chan.reset) :=
  get_map_values Chan.reset (fun c => { c with used := [0, 0, 0] }) s.mm.chans k

theorem not_grantable_of_barred {used budget : List Nat} {before q : List MReq} {x : MReq}
    (h : ¬ used.getD x.cls 0 + x.n ≤ budget.getD x.cls 0 ∨ ∃ b ∈ before ++ q.take 0, b.meets x = true) :
    ¬(used.getD x.cls 0 + x.n ≤ budget.getD x.cls 0 && before.all fun b => !b.meets x) = true := by
  rw [List.take_zero, List.append_nil] at h
  simp only [Bool.and_eq_true, decide_eq_true_eq, List.all_eq_true, Bool.not_eq_true']
  rintro ⟨hle, hall⟩
  obtain hno | ⟨b, hb, hmeets⟩ := h
  · exact hno hle
  · exact absurd ((hall b hb).symm.trans hmeets) (by decide)

theorem grantable_of_first {used budget : List Nat} {m : MReq} : ∀ (q before : List MReq) (i : Nat),
    q[i]? = some m → used.getD m.cls 0 + m.n ≤ budget.getD m.cls 0 → (∀ b ∈ before ++ q.take i, b.meets m = false) →
    (∀ j < i, ∀ y, q[j]? = some y → ¬ used.getD y.cls 0 + y.n ≤ budget.getD y.cls 0 ∨ ∃ b ∈ before ++ q.take j, b.meets y = true) →
    grantable used budget before q = some m := by
  intro q
  induction q with
  | nil => intro before i h; cases h
  | cons x q ih =>
    intro before i h hroom hfree hothers
    unfold grantable
    cases i with
    | zero =>
      cases h
      refine if_pos ((Bool.and_eq_true _ _).mpr ⟨decide_eq_true hroom, List.all_eq_true.mpr fun b hb => ?_⟩)
      rw [hfree b (List.mem_append_left _ hb)]
      rfl
    | succ i =>
      have hx := not_grantable_of_barred (hothers 0 (Nat.succ_pos i) x rfl)
      refine (if_neg hx).trans (ih (before ++ [x]) i h hroom ?_ ?_)
      · intro b hb
        exact hfree b (by simpa using hb)
      · intro j hj y hy
        refine (hothers (j + 1) (Nat.succ_lt_succ hj) y hy).imp id ?_
        rintro ⟨b, hb, hmeets⟩
        exact ⟨b, by simpa using hb, hmeets⟩

theorem grantable_eq_none {used budget : List Nat} : ∀ (q before : List MReq),
    (∀ j y, q[j]? = some y → ¬ used.getD y.cls 0 + y.n ≤ budget.getD y.cls 0 ∨ ∃ b ∈ before ++ q.take j, b.meets y = true) →
    grantable used budget before q = none := by
  intro q
  induction q with
  | nil => intro before _; rfl
  | cons x q ih =>
    intro before hothers
    unfold grantable
    have hx := not_grantable_of_barred (hothers 0 x rfl)
    refine (if_neg hx).trans (ih (before ++ [x]) fun j y hy => (hothers (j + 1) y hy).imp id ?_)
    rintro ⟨b, hb, hmeets⟩
    exact ⟨b, by simpa using hb, hmeets⟩

theorem mem_take_iff {α : Type} {q : List α} {i : Nat} {b : α} : b ∈ q.take i ↔ ∃ l < i, q[l]? = some b := by
  simp only [List.mem_iff_getElem?, List.getElem?_take]
  refine exists_congr fun l => ?_
  split <;> simp [*]

theorem erase_eq_eraseIdx_of_first {α : Type} [DecidableEq α] {m : α} : ∀ (q : List α) (i : Nat),
    q[i]? = some m → (∀ j < i, q[j]? ≠ some m) → q.erase m = q.eraseIdx i := by
  intro q
  induction q with
  | nil => intro i h; cases h
  | cons x q ih =>
    intro i h hfirst
    cases i with
    | zero =>
      cases h
      exact List.erase_cons_head ..
    | succ i =>
      have hx : x ≠ m := fun heq => hfirst 0 (Nat.succ_pos i) (congrArg some heq)
      rw [List.erase_cons_tail (by simpa using hx), List.eraseIdx_cons_succ]
      exact congrArg (x :: ·) (ih i h fun j hj => hfirst (j + 1) (Nat.succ_lt_succ hj))

theorem regulatorWindowsAndGrants : Claim.RegulatorWindowsAndGrants := by
  intro s ch m i n c total room barred
  have hbarred : ∀ j x, barred j x ↔ ∃ b ∈ [] ++ c.wait.take j, b.meets x = true := by
    intro j x
    simp only [List.nil_append, mem_take_iff]
    exact ⟨fun ⟨l, hl, y, hy, hm⟩ => ⟨y, ⟨l, hl, hy⟩, hm⟩, fun ⟨y, ⟨l, hl, hy⟩, hm⟩ => ⟨l, hl, y, hy, hm⟩⟩
  refine ⟨fun h => ⟨windowSet s (s.now / 4096 * 4096), if_neg h, rfl, rfl, rfl, fun k => ?_, fun k => ?_, fun k => ?_, rfl⟩,
    fun h => if_pos h, fun h hm hroom hfree hothers => ?_, fun h hothers => ?_, fun h => if_pos h⟩
  · exact (chan_windowSet s _ k).imp (fun hc => by rw [hc]) fun hc => hc.1
  · obtain hc | ⟨hc, hs⟩ := chan_windowSet s (s.now / 4096 * 4096) k
    · rw [hc]
    · rw [hc, hs]
  · obtain hc | ⟨hc, hs⟩ := chan_windowSet s (s.now / 4096 * 4096) k
    · rw [hc]
    · rw [hc, hs]
  · have hgrant : grantable c.used s.mm.budget [] c.wait = some m :=
      grantable_of_first c.wait [] i hm hroom
        (fun b hb => Bool.eq_false_iff.mpr fun hmeets => hfree ((hbarred i m).mpr ⟨b, hb, hmeets⟩))
        (fun j hj y hy => (hothers j hj y hy).imp id (hbarred j y).mp)
    have herase : c.wait.erase m = c.wait.eraseIdx i := by
      refine erase_eq_eraseIdx_of_first _ _ hm fun j hj hy => ?_
      obtain hno | ⟨l, hl, y, hy', hmeets⟩ := hothers j hj m hy
      · exact hno hroom
      · exact hfree ⟨l, hl.trans hj, y, hy', hmeets⟩
    change execRegulatorGrant ch s = _
    unfold execRegulatorGrant
    dsimp only
    refine (if_neg (not_not.mpr h)).trans ?_
    change (match grantable c.used s.mm.budget [] c.wait with | none => _ | some m => _) = _
    rw [hgrant, ← herase]
  · have hgrant : grantable c.used s.mm.budget [] c.wait = none :=
      grantable_eq_none c.wait [] fun j y hy => (hothers j y hy).imp id (hbarred j y).mp
    change execRegulatorGrant ch s = _
    unfold execRegulatorGrant
    dsimp only
    refine (if_neg (not_not.mpr h)).trans ?_
    change (match grantable c.used s.mm.budget [] c.wait with | none => _ | some m => _) = _
    rw [hgrant]

/-! ## One request at a slice (O34) -/

/-- What the slices' requests to their channels leave as it is. -/
def State.besidesSlices (s : State) : State := { s with trail := .reset, slices := [], sliceWb := 0, gl := .reset }

theorem putPkt_besidesSlices (s : State) (k avail : Nat) (p : Pkt) : (s.putPkt k avail p).besidesSlices = s.besidesSlices := by
  unfold putPkt
  split <;> rfl

theorem chanReq_besidesSlices (s : State) (m : MReq) : (s.chanReq m).besidesSlices = s.besidesSlices := by
  unfold chanReq
  refine (putPkt_besidesSlices ..).trans ?_
  split <;> rfl

theorem chanLine_besidesSlices (s : State) (k line cls : Nat) (wr : Bool) (ps : List Parcel) :
    (s.chanLine k line cls wr ps).besidesSlices = s.besidesSlices :=
  (chanReq_besidesSlices ..).trans (chanReq_besidesSlices ..)

theorem allocLine_besidesSlices (s : State) (k line : Nat) (ps : List Parcel) :
    (s.allocLine k line ps).besidesSlices = s.besidesSlices := by
  unfold allocLine
  dsimp only
  split
  · exact chanLine_besidesSlices ..
  · rfl

theorem line_eq (a : Nat) : a >>> 8 = a / 256 := Nat.shiftRight_eq_div_pow a 8

theorem allocLine_cacheWays (s : State) (k line : Nat) (ps : List Parcel) : (s.allocLine k line ps).cacheWays = s.cacheWays :=
  show (s.allocLine k line ps).besidesSlices.cacheWays = s.besidesSlices.cacheWays from
    congrArg State.cacheWays (allocLine_besidesSlices ..)

theorem allocLine_now (s : State) (k line : Nat) (ps : List Parcel) : (s.allocLine k line ps).now = s.now :=
  show (s.allocLine k line ps).besidesSlices.now = s.besidesSlices.now from congrArg State.now (allocLine_besidesSlices ..)

section
variable {s : State} {k w : Nat} {r : SReq}

theorem serveLine_of_write (hwr : r.wr = true) (avail : Nat) :
    s.serveLine k w avail r = (s.setSlice k { s.sliceAt k with
      clock := (s.sliceAt k).clock + 1,
      lines := Sparse.set Line.invalid (s.sliceAt k).lines w { Sparse.get Line.invalid (s.sliceAt k).lines w with
        used := (s.sliceAt k).clock + 1, dirty := true,
        ps := (Sparse.get Line.invalid (s.sliceAt k).lines w).ps.set (r.addr / 32 % 8)
          (r.apply ((Sparse.get Line.invalid (s.sliceAt k).lines w).ps.getD (r.addr / 32 % 8) {})) } }).wroteAt r
      ((Sparse.get Line.invalid (s.sliceAt k).lines w).ps.getD (r.addr / 32 % 8) {}) := by
  unfold serveLine
  simp only [hwr, Bool.or_true, if_true]

theorem serveLine_of_read (hwr : r.wr = false) (avail : Nat) :
    s.serveLine k w avail r = (s.setSlice k { s.sliceAt k with
      clock := (s.sliceAt k).clock + 1,
      lines := Sparse.set Line.invalid (s.sliceAt k).lines w
        { Sparse.get Line.invalid (s.sliceAt k).lines w with used := (s.sliceAt k).clock + 1 } }).answer (sliceRouter k) 5 avail r
      ((Sparse.get Line.invalid (s.sliceAt k).lines w).ps.getD (r.addr / 32 % 8) {}) := by
  unfold serveLine
  simp only [hwr, Bool.or_false, Bool.false_eq_true, if_false]

end

section
variable {s : State} {k key : Nat} {r : SReq} {wholes : List Nat} (hkey : s.keyOf r.addr = some key)
include hkey

/-- A request of scratch memory is done at once. -/
theorem sliceOne_of_scratch (hmem : isLpddr r.addr = false) :
    s.sliceOne k wholes r =
      (if r.wr then (s.setMem (s.mem.setParcel key r.addr (r.apply (s.mem.parcel key r.addr)))).wroteAt r (s.mem.parcel key r.addr)
       else s.answer (sliceRouter k) 5 (s.now + 10) r (s.mem.parcel key r.addr), true) := by
  unfold sliceOne
  simp only [hkey, hmem, Bool.not_false, if_true]

variable (hmem : isLpddr r.addr = true)
include hmem

theorem sliceOne_of_no_ways (hways : s.cacheWays = 0) :
    s.sliceOne k wholes r =
      (let t := s.chanReq
        { cls := r.who.cls r.wr, wr := r.wr, addr := r.addr, n := 1, ch := s.chanOf r.addr, slice := k, req := some r, ps := [] }
       (if r.wr then t.wrote r.who else t, true)) := by
  unfold sliceOne
  simp only [hkey, hmem, Bool.not_true, Bool.false_eq_true, if_false, hways, if_true]

variable (hways : s.cacheWays ≠ 0)
include hways

theorem sliceOne_of_hit {w : Nat} (hfind : (s.sliceAt k).find s.cacheWays (r.addr / 256) = some w) :
    s.sliceOne k wholes r = (s.serveLine k w (s.now + 10) r, true) := by
  unfold sliceOne
  simp only [hkey, hmem, Bool.not_true, Bool.false_eq_true, if_false, hways, line_eq, hfind]

variable (hfind : (s.sliceAt k).find s.cacheWays (r.addr / 256) = none)
include hfind

theorem sliceOne_of_missed (hmiss : r.addr / 256 ∈ (s.sliceAt k).missq) :
    s.sliceOne k wholes r = (s.setSlice k { s.sliceAt k with waiting := (s.sliceAt k).waiting ++ [r] }, true) := by
  unfold sliceOne
  simp only [hkey, hmem, Bool.not_true, Bool.false_eq_true, if_false, hways, line_eq, hfind, List.contains_iff_mem, hmiss, if_true]

variable (hmiss : r.addr / 256 ∉ (s.sliceAt k).missq)
include hmiss

theorem sliceOne_of_whole {w : Nat} (hwr : r.wr = true) (hwhole : r.addr / 256 ∈ wholes)
    (hfound : ((({ s with sliceMiss := s.sliceMiss + 1 } : State).allocLine k (r.addr / 256) (List.replicate 8 {})).sliceAt k).find
      s.cacheWays (r.addr / 256) = some w) :
    s.sliceOne k wholes r =
      ((({ s with sliceMiss := s.sliceMiss + 1 } : State).allocLine k (r.addr / 256) (List.replicate 8 {})).serveLine k w
        (s.now + 10) r, true) := by
  have hsame := allocLine_cacheWays { s with sliceMiss := s.sliceMiss + 1 } k (r.addr / 256) (List.replicate 8 {})
  have hnow := allocLine_now { s with sliceMiss := s.sliceMiss + 1 } k (r.addr / 256) (List.replicate 8 {})
  unfold sliceOne
  simp only [hkey, hmem, Bool.not_true, Bool.false_eq_true, if_false, hways, line_eq, hfind, List.contains_iff_mem, hmiss, hwr, hwhole,
    Bool.true_and, if_true, hsame, hfound, hnow]
  rfl

variable (hread : r.wr = true → r.addr / 256 ∉ wholes)
include hread

theorem sliceOne_of_miss (hroom : (s.sliceAt k).missq.length < 64) :
    s.sliceOne k wholes r =
      (({ s.setSlice k { s.sliceAt k with
        missq := (s.sliceAt k).missq ++ [r.addr / 256], waiting := (s.sliceAt k).waiting ++ [r] } with
          sliceMiss := s.sliceMiss + 1 }).chanLine k (r.addr / 256) (r.who.cls false) false [], true) := by
  have hpart : ¬(r.wr && wholes.contains (r.addr / 256)) = true := by simpa using hread
  unfold sliceOne
  simp only [hkey, hmem, Bool.not_true, Bool.false_eq_true, if_false, hways, line_eq, hfind, List.contains_iff_mem, hmiss]
  exact (if_neg hpart).trans (if_pos hroom)

theorem sliceOne_of_full (hfull : 64 ≤ (s.sliceAt k).missq.length) : s.sliceOne k wholes r = (s, false) := by
  have hpart : ¬(r.wr && wholes.contains (r.addr / 256)) = true := by simpa using hread
  unfold sliceOne
  simp only [hkey, hmem, Bool.not_true, Bool.false_eq_true, if_false, hways, line_eq, hfind, List.contains_iff_mem, hmiss]
  exact (if_neg hpart).trans (if_neg (Nat.not_lt.mpr hfull))

end

theorem slicesServe : Claim.SlicesServe := by
  intro s k r wholes w key n sl line x i q go ws rs one miss old dirty used
  refine ⟨rfl, fun h => ?_, fun hkey => ⟨fun hmem hwr => ?_, fun hmem hwr => ?_, fun hmem hways hwr => ?_, fun hmem hways hwr => ?_,
    fun hmem hways hfind => ⟨fun hwr => ?_, fun hwr => ?_⟩, fun hmem hways hfind hmiss => sliceOne_of_missed hkey hmem hways hfind hmiss,
    fun ⟨hmem, hways, hfind, hmiss⟩ hread hroom => sliceOne_of_miss hkey hmem hways hfind hmiss hread hroom,
    fun ⟨hmem, hways, hfind, hmiss⟩ hread hfull => sliceOne_of_full hkey hmem hways hfind hmiss hread hfull,
    fun ⟨hmem, hways, hfind, hmiss⟩ hwr hwhole hfound => ?_⟩⟩
  · change s.sliceOne n wholes r = _
    unfold sliceOne
    simp only [h]
  · exact (sliceOne_of_scratch hkey hmem).trans (by rw [hwr]; rfl)
  · exact (sliceOne_of_scratch hkey hmem).trans (by rw [hwr]; rfl)
  · exact (sliceOne_of_no_ways hkey hmem hways).trans (by rw [hwr]; rfl)
  · exact (sliceOne_of_no_ways hkey hmem hways).trans (by rw [hwr]; rfl)
  · exact (sliceOne_of_hit hkey hmem hways hfind).trans (congrArg (·, true) (serveLine_of_write hwr _))
  · exact (sliceOne_of_hit hkey hmem hways hfind).trans (congrArg (·, true) (serveLine_of_read hwr _))
  · exact sliceOne_of_whole hkey hmem hways hfind hmiss hwr hwhole hfound

/-! ## A line that comes from its channel (O34) -/

theorem foldl_victim_eq (f : Nat → Line) (keys : List Nat) (b : Nat) (h : (f b).ps = []) :
    keys.foldl (fun (b : Nat) i =>
      if (f b).ps.isEmpty then b else if (f i).ps.isEmpty || decide ((f i).used < (f b).used) then i else b) b = b := by
  induction keys with
  | nil => rfl
  | cons i keys ih =>
    refine Eq.trans ?_ ih
    exact congrArg (fun b => List.foldl _ b keys) (if_pos (List.isEmpty_iff.mpr h))

/-- A line goes into way 0 of its set where that way is empty, and nothing is written back. -/
theorem allocLine_of_invalid {s : State} {k line : Nat} (h : Sparse.get Line.invalid (s.sliceAt k).lines (homeSet line * 16) = Line.invalid)
    (ps : List Parcel) :
    s.allocLine k line ps = s.setSlice k { s.sliceAt k with
      clock := (s.sliceAt k).clock + 1,
      lines := Sparse.set Line.invalid (s.sliceAt k).lines (homeSet line * 16)
        { tag := line, dirty := false, ps, used := (s.sliceAt k).clock + 1 } } := by
  unfold allocLine
  dsimp only
  have hclean : ¬(Sparse.get Line.invalid (s.sliceAt k).lines (homeSet line * 16)).dirty = true := by rw [h]; decide
  rw [foldl_victim_eq _ _ _ (congrArg Line.ps h), if_neg hclean]

theorem find_of_first {sl : Slice} {ways line : Nat} {x : Line} (hways : 0 < ways)
    (h : Sparse.get Line.invalid sl.lines (homeSet line * 16) = x) (hps : x.ps ≠ []) (htag : x.tag = line) :
    sl.find ways line = some (homeSet line * 16) := by
  obtain ⟨n, rfl⟩ := Nat.exists_eq_add_of_lt hways
  unfold Slice.find
  rw [Nat.zero_add, List.range_succ_eq_map, List.map_cons]
  refine List.find?_cons_of_pos ?_
  simpa [h, htag] using hps

section
variable {s : State} {k : Byte} {lo hi : MReq} (hone : (s.sliceAt k.toNat).filled.find? (fun m => m.req.isSome) = none)
include hone

theorem exec_sliceLineFill_of_none
    (hwhole : ((s.sliceAt k.toNat).filled.find? fun m => m.addr % 256 = 0 &&
      ((s.sliceAt k.toNat).filled.find? fun x => x.addr = m.addr + 128).isSome) = none) :
    exec (.sliceLineFill k) s = .next s := by
  change execSliceLineFill k s = _
  unfold execSliceLineFill
  simp only [hone, hwhole]

theorem exec_sliceLineFill_of_halves
    (hwhole : ((s.sliceAt k.toNat).filled.find? fun m => m.addr % 256 = 0 &&
      ((s.sliceAt k.toNat).filled.find? fun x => x.addr = m.addr + 128).isSome) = some lo)
    (hother : ((s.sliceAt k.toNat).filled.find? fun x => x.addr = lo.addr + 128) = some hi) {u : State}
    (hu : u = (s.setSlice k.toNat { s.sliceAt k.toNat with filled := ((s.sliceAt k.toNat).filled.erase lo).erase hi }).allocLine k.toNat
      (lo.addr / 256) (lo.ps ++ hi.ps)) :
    exec (.sliceLineFill k) s = .next (((u.sliceAt k.toNat).waiting.filter fun r => r.addr >>> 8 = lo.addr / 256).foldl
      (fun s r =>
        match (s.sliceAt k.toNat).find s.cacheWays (lo.addr / 256) with
        | some w => s.serveLine k.toNat w s.now r
        | none => s)
      (u.setSlice k.toNat { u.sliceAt k.toNat with
        missq := (u.sliceAt k.toNat).missq.filter (· ≠ lo.addr / 256),
        waiting := (u.sliceAt k.toNat).waiting.filter fun r => r.addr >>> 8 ≠ lo.addr / 256 })) := by
  subst hu
  change execSliceLineFill k s = _
  unfold execSliceLineFill
  simp only [hone, hwhole, hother] <;> rfl

end

theorem linesFill : Claim.LinesFill := by
  intro s k m lo hi r n sl line other one whole u v
  refine ⟨fun hone hreq => ?_, fun hone hwhole hother => ?_, fun hone hwhole hother hways hps hinvalid hwaiting => ?_,
    fun hone hwhole => ?_⟩
  · change execSliceLineFill k s = _
    unfold execSliceLineFill
    simp only [show ((s.sliceAt k.toNat).filled.find? fun m => m.req.isSome) = some m from hone, hreq]
    rfl
  · exact exec_sliceLineFill_of_halves hone hwhole hother rfl
  · have hexec := exec_sliceLineFill_of_halves hone hwhole hother (u := u) rfl
    have hfirst : Sparse.get Line.invalid sl.lines (homeSet line * 16) = Line.invalid := by
      simpa using hinvalid 0 hways
    have hsl : (s.setSlice n { sl with filled := (sl.filled.erase lo).erase hi }).sliceAt n =
        { sl with filled := (sl.filled.erase lo).erase hi } := setSlice_sliceAt_same ..
    let put : Slice := { sl with
      filled := (sl.filled.erase lo).erase hi, clock := sl.clock + 1,
      lines := Sparse.set Line.invalid sl.lines (homeSet line * 16)
        { tag := line, dirty := false, ps := lo.ps ++ hi.ps, used := sl.clock + 1 } }
    have hu : u.sliceAt n = put := by
      change (allocLine _ n line _).sliceAt n = _
      rw [allocLine_of_invalid (by rw [hsl]; exact hfirst), hsl, setSlice_sliceAt_same]
    have hwait : (u.sliceAt n).waiting = [] := by rw [hu]; exact hwaiting
    have hv : v.sliceAt n = { put with
        missq := put.missq.filter (· ≠ line), waiting := put.waiting.filter fun r => r.addr >>> 8 ≠ line } := by
      refine (setSlice_sliceAt_same ..).trans ?_
      rw [hu]
    have hline : Sparse.get Line.invalid (v.sliceAt n).lines (homeSet line * 16) =
        { tag := line, dirty := false, ps := lo.ps ++ hi.ps, used := sl.clock + 1 } := by
      rw [hv]
      exact Sparse.get_set_same ..
    refine ⟨v, ?_, ?_, ?_, ?_, ?_⟩
    · have hnone : (u.sliceAt n).waiting.filter (fun r => r.addr >>> 8 = line) = [] := by rw [hwait]; rfl
      exact hexec.trans (congrArg (fun q => Host.Outcome.next (List.foldl _ v q)) hnone)
    · exact allocLine_mem _ n line (lo.ps ++ hi.ps)
    · exact find_of_first hways hline hps rfl
    · rw [hline]
    · rw [hv]
      simp
  · exact exec_sliceLineFill_of_none hone hwhole

/-- Settles O34: what a slice or the regulator does with one request rests on that request and the queue before it. -/
theorem slicesAndRegulator : Obligations.SlicesAndRegulator := ⟨regulatorWindowsAndGrants, slicesServe, linesFill⟩

end Sys2Proof.Machine

end

section
/-! PROOFS. O35: the memory channels. -/

namespace Sys2Proof.Machine

open State

/-! ## Module-fatal errors (O35) -/

/-- The state but for the alerts that show. -/
def State.besidesAlerts (s : State) : State := { s with rng := { s.rng with alerts := [] } }

theorem alert_besidesAlerts (s : State) (a : AlertSrc) : (s.alert a).besidesAlerts = s.besidesAlerts := by
  unfold alert
  split <;> rfl

theorem alert_mm (s : State) (a : AlertSrc) : (s.alert a).mm = s.mm :=
  show (s.alert a).besidesAlerts.mm = s.besidesAlerts.mm from congrArg State.mm (alert_besidesAlerts s a)

theorem mem_alert_self (s : State) (a : AlertSrc) : a ∈ (s.alert a).rng.alerts := by
  unfold alert
  split
  · next h => exact List.contains_iff_mem.mp h
  · exact List.mem_append_right _ (List.mem_singleton.mpr rfl)

theorem mem_alert_of_mem {s : State} {a b : AlertSrc} (h : b ∈ s.rng.alerts) : b ∈ (s.alert a).rng.alerts := by
  unfold alert
  split
  · exact h
  · exact List.mem_append_left _ h

/-- The state but for the Whistle network. -/
def State.besidesWhistle (s : State) : State := { s with whistle := .reset, free := 0 }

theorem reask_mm (s : State) : s.reask.mm = s.mm := by
  unfold reask
  split <;> rfl

theorem discardOpen_mm (s : State) : s.discardOpen.mm = s.mm :=
  show s.discardOpen.besidesResults.mm = s.besidesResults.mm from congrArg State.mm (discardOpen_besidesResults s)

theorem fabricLost_failMap (s : State) : s.fabricLost.mm.failMap = s.mm.failMap := by
  unfold fabricLost
  rw [reask_mm]

theorem degrade_mm (s : State) : s.degrade.mm = s.mm := alert_mm ..

theorem degrade_chan (s : State) (n : Nat) : s.degrade.chan n = s.chan n := by
  unfold State.chan
  rw [degrade_mm]

theorem degrade_degraded (s : State) : s.degrade.rng.degraded = true := rfl

theorem mem_degrade_alerts (s : State) : AlertSrc.degraded ∈ s.degrade.rng.alerts := mem_alert_self ..

theorem mem_degrade_alerts_of_mem {s : State} {a : AlertSrc} (h : a ∈ s.rng.alerts) : a ∈ s.degrade.rng.alerts :=
  mem_alert_of_mem (s := s.setDomains 2 41 0) h

theorem moduleFatal_failMap (s : State) (cause : Fatal) : (s.moduleFatal cause).mm.failMap = s.mm.failMap := by
  have hlost : (s.discardOpen.fabricLost.alert .moduleFatal).mm.failMap = s.mm.failMap := by
    rw [alert_mm, fabricLost_failMap, discardOpen_mm]
  unfold moduleFatal
  dsimp only
  split
  · rw [degrade_mm]
    exact hlost
  · exact hlost

theorem mem_moduleFatal_alerts (s : State) (cause : Fatal) : AlertSrc.moduleFatal ∈ (s.moduleFatal cause).rng.alerts := by
  have hshown : AlertSrc.moduleFatal ∈ (s.discardOpen.fabricLost.alert .moduleFatal).rng.alerts := mem_alert_self ..
  unfold moduleFatal
  dsimp only
  split
  · exact mem_degrade_alerts_of_mem hshown
  · exact hshown

theorem getLsbD_markFailed (m : BitVec 256) {n : Nat} (hn : n < 256) : (m ||| (1 : BitVec 256) <<< n).getLsbD n = true := by
  simp [hn]

theorem failChannel_failMap (s : State) {n : Nat} (hn : n < 256) : (s.failChannel n).mm.failMap.getLsbD n = true := by
  unfold failChannel
  rw [moduleFatal_failMap]
  exact getLsbD_markFailed _ hn

theorem mem_failChannel_alerts (s : State) (n : Nat) : AlertSrc.moduleFatal ∈ (s.failChannel n).rng.alerts := mem_moduleFatal_alerts ..

/-! ## Reads (O35) -/

theorem readerOf_of_slices {s t : State} {m : MReq} (h : s.slices = t.slices) : s.readerOf m = t.readerOf m := by
  unfold readerOf sliceAt
  rw [h]

section
variable {s t : State} {ch : Byte} {bad fails : Nat} {c : Chan} {m : MReq}

/-- What a channel's read leaves: the count of failing reads, and the request with its parcel. -/
def readTaken (t : State) (n fails : Nat) (c : Chan) (m : MReq) (p : Parcel) : State :=
  let u := t.setChan n { c with
    badRun := if fails < 4 then 0 else c.badRun + 1,
    granted := if m.ps.length + 1 = m.n then c.granted.erase m
      else c.granted.map fun x => if x = m then { m with ps := m.ps ++ [p], hit := false } else x }
  { u with mm := { u.mm with
    retry := t.mm.retry + (if 0 < fails ∧ fails < 4 then 1 else 0), uncorr := t.mm.uncorr + (if fails < 4 then 0 else 1) } }

/-- With its last parcel the request goes back to its slice. -/
def readBack (t : State) (n now : Nat) (m : MReq) (p : Parcel) : State :=
  if m.ps.length + 1 = m.n then
    t.putPkt (planeKey (chanPlane n) (chanRouter n) 6) now
      { flow := .fromChan { m with ps := m.ps ++ [p], hit := false }, addr := m.addr, parcel := {} }
  else t

variable (ht : s.collide ch.toNat = t) (hc : t.chan ch.toNat = c) (hgranted : t.firstGranted c false [] c.granted = some m)
  (hfails : (if t.burstOk ((t.keyOf m.nextAddr).getD 0) m.nextAddr then bad else 4) = fails)
include ht hc hgranted hfails

theorem exec_lpddr6Read_of_pass (hpass : fails < 4) :
    exec (.lpddr6Read ch bad) s = .next
      (readBack (readTaken t ch.toNat fails c m (t.mem.parcel ((t.keyOf m.nextAddr).getD 0) m.nextAddr)) ch.toNat t.now m
        (t.mem.parcel ((t.keyOf m.nextAddr).getD 0) m.nextAddr)) := by
  have hlost : decide (4 ≤ fails) = false := decide_eq_false (by omega)
  change execLpddr6Read ch bad s = _
  unfold execLpddr6Read readBack readTaken
  simp only [ht, hc, hgranted, hfails, hlost, hpass, List.length_append, List.length_singleton, decide_eq_true_eq, Bool.false_eq_true,
    if_false, if_true, Bool.not_false, and_true]
  by_cases hz : 0 < fails
  · simp only [hz, if_true]
    rfl
  · simp only [hz, if_false]
    rfl

theorem exec_lpddr6Read_of_loss (hlost : ¬ fails < 4) :
    exec (.lpddr6Read ch bad) s = .next
      (if 16 ≤ c.badRun + 1 then
        (readBack ((t.readerOf m).elim (readTaken t ch.toNat fails c m (poisonedParcel m.nextAddr)).countEdgePoison fun r =>
          (readTaken t ch.toNat fails c m (poisonedParcel m.nextAddr)).countPoison r 1) ch.toNat t.now m
          (poisonedParcel m.nextAddr)).failChannel ch.toNat
       else readBack ((t.readerOf m).elim (readTaken t ch.toNat fails c m (poisonedParcel m.nextAddr)).countEdgePoison fun r =>
          (readTaken t ch.toNat fails c m (poisonedParcel m.nextAddr)).countPoison r 1) ch.toNat t.now m
          (poisonedParcel m.nextAddr)) := by
  have hle : decide (4 ≤ fails) = true := decide_eq_true (by omega)
  change execLpddr6Read ch bad s = _
  unfold execLpddr6Read readBack readTaken
  simp only [ht, hc, hgranted, hfails, hle, hlost, List.length_append, List.length_singleton, decide_eq_true_eq, Bool.false_eq_true,
    if_false, if_true, Bool.not_true, and_false]
  cases hr : t.readerOf m with
  | none =>
    rw [readerOf_of_slices (t := t), hr]
    · rfl
    · rfl
  | some r =>
    rw [readerOf_of_slices (t := t), hr]
    · rfl
    · rfl

end

theorem channelReads : Claim.ChannelReads := by
  intro s ch bad m n t c a key fails p run read done u v w back z
  have hexec : t.firstGranted c false [] c.granted = some m →
      exec (.lpddr6Read ch bad) s = .next (if 16 ≤ run then z.failChannel n else z) := by
    intro h
    by_cases hpass : fails < 4
    · have hp : p = t.mem.parcel key a := if_pos hpass
      have hw : w = v := if_pos hpass
      have hrun : run = 0 := if_pos hpass
      refine (exec_lpddr6Read_of_pass rfl rfl h rfl hpass).trans (congrArg Host.Outcome.next ?_)
      refine Eq.trans ?_ (if_neg (by rw [hrun]; decide)).symm
      change readBack (readTaken t n fails c m (t.mem.parcel key a)) n t.now m (t.mem.parcel key a) = readBack w n t.now m p
      rw [hw, ← hp]
      rfl
    · have hp : p = poisonedParcel a := if_neg hpass
      have hw : w = (t.readerOf m).elim v.countEdgePoison fun r => v.countPoison r 1 := if_neg hpass
      have hrun : run = c.badRun + 1 := if_neg hpass
      refine (exec_lpddr6Read_of_loss rfl rfl h rfl hpass).trans (congrArg Host.Outcome.next ?_)
      rw [hrun]
      change _ = if 16 ≤ c.badRun + 1 then (readBack w n t.now m p).failChannel n else readBack w n t.now m p
      rw [hw, ← hp]
      rfl
  refine ⟨fun h => ⟨fun hrun => ?_, fun hrun => ⟨?_, failChannel_failMap z ch.isLt, mem_failChannel_alerts z n⟩⟩, fun h => ?_⟩
  · exact (hexec h).trans (congrArg Host.Outcome.next (if_neg (Nat.not_le.mpr hrun)))
  · exact (hexec h).trans (congrArg Host.Outcome.next (if_pos hrun))
  · change execLpddr6Read ch bad s = _
    unfold execLpddr6Read
    simp only [show (s.collide ch.toNat).firstGranted ((s.collide ch.toNat).chan ch.toNat) false []
      ((s.collide ch.toNat).chan ch.toNat).granted = none from h]
    rfl

/-! ## Writes and refreshes (O35) -/

/-- The state with the granted requests of channel `n` replaced and one more collision counted. -/
def collided (s : State) (n : Nat) (g : List MReq) : State :=
  let t := s.setChan n { s.chan n with granted := g }
  { t with mm := { t.mm with collide := t.mm.collide + 1 } }

/-- A request whose bank was closed is counted once, and marked. -/
theorem collide_cases (s : State) (n : Nat) : s.collide n = s ∨ ∃ g, s.collide n = collided s n g ∧
    g.map (fun m => { m with hit := false }) = (s.chan n).granted.map (fun m => { m with hit := false }) := by
  unfold collide
  dsimp only
  split
  · next m hm =>
    split
    · exact .inl rfl
    · refine .inr ⟨_, rfl, ?_⟩
      rw [List.map_map]
      refine List.map_congr_left fun x _ => ?_
      by_cases hx : x = m
      · subst hx
        exact congrArg (fun y : MReq => { y with hit := false }) (if_pos rfl)
      · exact congrArg (fun y : MReq => { y with hit := false }) (if_neg hx)
  · exact .inl rfl

theorem collided_chan (s : State) (n : Nat) (g : List MReq) : (collided s n g).chan n = { s.chan n with granted := g } :=
  setChan_chan_same ..

theorem collide_chan (s : State) (n : Nat) : (s.collide n).chan n = { s.chan n with granted := ((s.collide n).chan n).granted } := by
  obtain h | ⟨g, h, -⟩ := collide_cases s n
  · rw [h]
  · rw [h, collided_chan]

theorem collide_granted (s : State) (n : Nat) :
    ((s.collide n).chan n).granted.map (fun m => { m with hit := false }) =
      (s.chan n).granted.map (fun m => { m with hit := false }) := by
  obtain h | ⟨g, h, hg⟩ := collide_cases s n
  · rw [h]
  · rw [h, collided_chan]
    exact hg

theorem collide_map (s : State) (n : Nat) : (s.collide n).mm.map = s.mm.map := by
  obtain h | ⟨g, h, -⟩ := collide_cases s n
  · rw [h]
  · rw [h]
    rfl

theorem collide_cacheWays (s : State) (n : Nat) : (s.collide n).cacheWays = s.cacheWays := by
  obtain h | ⟨g, h, -⟩ := collide_cases s n
  · rw [h]
  · rw [h]
    rfl

theorem collide_bandMax (s : State) (n : Nat) : (s.collide n).mm.bandMax = s.mm.bandMax := by
  obtain h | ⟨g, h, -⟩ := collide_cases s n
  · rw [h]
  · rw [h]
    rfl

theorem keyOf_of_map {s t : State} (hmap : t.mm.map = s.mm.map) (hways : t.cacheWays = s.cacheWays) (a : Nat) :
    t.keyOf a = s.keyOf a := by
  unfold keyOf
  rw [hmap, hways]

theorem countFor_besidesPoison (s : State) (who : Requester) : (s.countFor who).besidesPoison = s.besidesPoison := by
  unfold countFor
  split <;> rfl

/-- A write counts one poisoned error for its writer where it merges with a parcel that fails. -/
def writeCounted (s : State) (m : MReq) (old : Parcel) : State :=
  match m.req with
  | some r => if mergeFails old m.addr r.mask then s.countFor r.who else s
  | none => s

theorem writeCounted_besidesPoison (s : State) (m : MReq) (old : Parcel) :
    (writeCounted s m old).besidesPoison = s.besidesPoison := by
  unfold writeCounted
  split
  · split
    · exact countFor_besidesPoison ..
    · rfl
  · rfl

theorem chanStore_mem_of_mem {s t : State} (h : t.mem = s.mem) (k a : Nat) (p : Parcel) (flip : BitVec 288) :
    (t.chanStore k a p flip).mem = (s.chanStore k a p flip).mem := by
  unfold chanStore
  change (t.mem.setBytes _ _).setSide _ _ = (s.mem.setBytes _ _).setSide _ _
  rw [h]

theorem chanStore_byte_other (s : State) {k x : Nat} (a : Nat) (p : Parcel) (flip : BitVec 288) (hx : x < k ∨ k + 32 ≤ x) :
    (s.chanStore k a p flip).mem.byte x = s.mem.byte x :=
  Memory.setBytes_byte_other _ _ _ _ (by rwa [parcelBytes_length])

theorem chanStore_byte_of_whole (s : State) (k a : Nat) (p : Parcel) {i : Nat} (hi : i < 32) :
    (s.chanStore k a p 0).mem.byte (k + i) = (if p.poison then 0 else p.data).extractLsb' (8 * i) 8 := by
  have hdata : (if p.poison then 0 else p.data) ^^^ (0 : BitVec 288).truncate 256 = if p.poison then 0 else p.data := by
    simp
  refine (Memory.setBytes_byte _ _ _ _ (by rwa [parcelBytes_length])).trans ?_
  rw [parcelBytes_getD _ hi, hdata]

/-- What a channel's write of the parcel at the front of request `m` leaves. -/
def writtenBy (s : State) (n : Nat) (m : MReq) (key : Nat) (p : Parcel) (flip : BitVec 288) : State :=
  let c := s.chan n
  let rest := { m with addr := m.addr + 32, n := m.n - 1, ps := m.ps.drop 1, hit := false }
  let t := (writeCounted (s.setChan n { c with
    granted := if m.n ≤ 1 then c.granted.erase m else c.granted.map fun x => if x = m then rest else x }) m
      (s.mem.parcel key m.addr)).chanStore key m.addr p flip
  if m.n ≤ 1 then
    t.setSlice m.slice { t.sliceAt m.slice with wb := (t.sliceAt m.slice).wb.eraseP fun x => x.meets m && x.req = m.req }
  else t

theorem exec_lpddr6Write_of_granted {s t : State} {ch : Byte} {m : MReq} {key : Nat} (flip : BitVec 288) (ht : s.collide ch.toNat = t)
    (hgranted : t.firstGranted (t.chan ch.toNat) true [] (t.chan ch.toNat).granted = some m) (hkey : t.keyOf m.addr = some key) :
    exec (.lpddr6Write ⟨ch, flip⟩) s = .next (writtenBy t ch.toNat m key
      (match m.req with | some r => r.apply (t.mem.parcel key m.addr) | none => m.ps.getD 0 {}) flip) := by
  have hcounted : ∀ (u : State) (old : Parcel), u.keyOf m.addr = some key →
      ((writeCounted u m old).keyOf m.addr).isSome = true := by
    intro u old hu
    have hkept := writeCounted_besidesPoison u m old
    have hsame : (writeCounted u m old).keyOf m.addr = u.keyOf m.addr :=
      keyOf_of_map (show (writeCounted u m old).besidesPoison.mm.map = u.besidesPoison.mm.map by rw [hkept])
        (show (writeCounted u m old).besidesPoison.cacheWays = u.besidesPoison.cacheWays by rw [hkept]) _
    rw [hsame, hu]
    rfl
  have hstore := hcounted (t.setChan ch.toNat { t.chan ch.toNat with
      granted := if m.n ≤ 1 then (t.chan ch.toNat).granted.erase m
        else (t.chan ch.toNat).granted.map fun x => if x = m then
          { m with addr := m.addr + 32, n := m.n - 1, ps := m.ps.drop 1, hit := false } else x }) (t.mem.parcel key m.addr) hkey
  change execLpddr6Write ⟨ch, flip⟩ s = _
  unfold execLpddr6Write writtenBy
  simp only [ht, hgranted, hkey, decide_eq_true_eq, Option.getD_some]
  unfold writeCounted at hstore ⊢
  cases hreq : m.req with
  | none =>
    simp only [hreq] at hstore ⊢
    simp only [hstore, if_true]
  | some r =>
    simp only [hreq] at hstore ⊢
    simp only [hstore, if_true]

section
variable (s : State) (n : Nat) (m : MReq) (key : Nat) (p : Parcel) (flip : BitVec 288)

theorem writtenBy_mem : (writtenBy s n m key p flip).mem = (s.chanStore key m.addr p flip).mem := by
  have hmem : ∀ (u : State) (old : Parcel), (writeCounted u m old).mem = u.mem := fun u old =>
    show (writeCounted u m old).besidesPoison.mem = u.besidesPoison.mem by rw [writeCounted_besidesPoison]
  unfold writtenBy
  dsimp only
  split <;> exact chanStore_mem_of_mem (hmem ..) ..

theorem writtenBy_granted : ((writtenBy s n m key p flip).chan n).granted =
    if m.n ≤ 1 then (s.chan n).granted.erase m
    else (s.chan n).granted.map fun x => if x = m then
      { m with addr := m.addr + 32, n := m.n - 1, ps := m.ps.drop 1, hit := false } else x := by
  have hmm : ∀ (u : State) (old : Parcel), (writeCounted u m old).mm = u.mm := fun u old =>
    show (writeCounted u m old).besidesPoison.mm = u.besidesPoison.mm by rw [writeCounted_besidesPoison]
  have hchan : ∀ (u v : State), v.mm = u.mm → (v.chan n).granted = (u.chan n).granted := fun u v h => by
    unfold State.chan
    rw [h]
  have hsame : ((writtenBy s n m key p flip).chan n).granted = ((s.setChan n { s.chan n with
      granted := if m.n ≤ 1 then (s.chan n).granted.erase m
        else (s.chan n).granted.map fun x => if x = m then
          { m with addr := m.addr + 32, n := m.n - 1, ps := m.ps.drop 1, hit := false } else x }).chan n).granted := by
    apply hchan
    unfold writtenBy
    dsimp only
    split <;> exact hmm ..
  rw [hsame, setChan_chan_same]

end

theorem channelWritesAndRefreshes : Claim.ChannelWritesAndRefreshes := by
  intro s ch m key band flip n c cc old p rest
  refine ⟨fun h hkey => ?_, fun h => ?_, fun hband hlive => ?_, fun hband hlive => ?_, fun hband => if_pos hband⟩
  · have hkey' : (s.collide n).keyOf m.addr = some key := (keyOf_of_map (collide_map s n) (collide_cacheWays s n) _).trans hkey
    have hexec := exec_lpddr6Write_of_granted flip rfl h hkey'
    rw [collide_mem] at hexec
    have hmem : (writtenBy (s.collide n) n m key p flip).mem = (s.chanStore key m.addr p flip).mem :=
      (writtenBy_mem ..).trans (chanStore_mem_of_mem (collide_mem ..) ..)
    refine ⟨writtenBy (s.collide n) n m key p flip, hexec, hmem, fun x hx => ?_, fun hflip i hi => ?_, writtenBy_granted ..⟩
    · rw [hmem, chanStore_byte_other s m.addr p flip hx]
    · rw [hmem, hflip, chanStore_byte_of_whole s key m.addr p hi]
  · change execLpddr6Write ⟨ch, flip⟩ s = _
    unfold execLpddr6Write
    simp only [show (s.collide ch.toNat).firstGranted ((s.collide ch.toNat).chan ch.toNat) true []
      ((s.collide ch.toNat).chan ch.toNat).granted = none from h]
    rfl
  · let b := if c.bank = 0 then band else c.band
    let u := s.setChan n { c with
      bank := (c.bank + 1) % 16, band := b, closed := c.bank, openAt := s.now + refreshSteps s.rate,
      granted := c.granted.map fun m => { m with hit := false } }
    let v : State := { u with mm := { u.mm with bandMax := max s.mm.bandMax b.toNat } }
    have hchan : v.chan n = { c with
        bank := (c.bank + 1) % 16, band := b, closed := c.bank, openAt := s.now + refreshSteps s.rate,
        granted := c.granted.map fun m => { m with hit := false } } := setChan_chan_same ..
    have hfield := collide_chan v n
    rw [hchan] at hfield
    refine ⟨v.collide n, (if_neg hband).trans (if_neg (by rw [hlive]; decide)), ?_, ?_, ?_, ?_, ?_, collide_mem .., ?_⟩
    · exact congrArg Chan.bank hfield
    · exact congrArg Chan.closed hfield
    · exact congrArg Chan.openAt hfield
    · exact congrArg Chan.band hfield
    · rw [collide_bandMax, show ((v.collide n).chan n).band = b from congrArg Chan.band hfield]
    · rw [collide_granted, hchan]
      exact List.map_map ..
  · exact (if_neg hband).trans (if_pos (by rw [hlive]; rfl))

/-! ## The patrol scrub and training (O35) -/

/-- The scrub's tally over the parcels of a line: the failing reads in a row, and whether they ever reached 16. -/
def scrubTally (lost : Nat → Bool) (is : List Nat) (x : Nat × Bool) : Nat × Bool :=
  is.foldl (fun x i => (if lost i then x.1 + 1 else 0, x.2 || decide (16 ≤ if lost i then x.1 + 1 else 0))) x

theorem scrubTally_of_clean {lost : Nat → Bool} {is : List Nat} (h : ∀ i ∈ is, lost i = false) (hne : is ≠ []) (run : Nat) :
    scrubTally lost is (run, false) = (0, false) := by
  have hclean : ∀ (js : List Nat), (∀ i ∈ js, lost i = false) → scrubTally lost js (0, false) = (0, false) := by
    intro js
    induction js with
    | nil => intro _; rfl
    | cons j js ih =>
      intro hjs
      have hj := hjs j List.mem_cons_self
      refine Eq.trans ?_ (ih fun i hi => hjs i (List.mem_cons_of_mem _ hi))
      unfold scrubTally
      rw [List.foldl_cons, hj]
      rfl
  cases is with
  | nil => exact absurd rfl hne
  | cons j js =>
    have hj := h j List.mem_cons_self
    refine Eq.trans ?_ (hclean js fun i hi => h i (List.mem_cons_of_mem _ hi))
    unfold scrubTally
    rw [List.foldl_cons, hj]
    rfl

theorem scrubTally_of_few {lost : Nat → Bool} : ∀ (is : List Nat) (run : Nat), run + is.length < 16 →
    (scrubTally lost is (run, false)).2 = false := by
  intro is
  induction is with
  | nil => intro _ _; rfl
  | cons j js ih =>
    intro run hrun
    rw [List.length_cons] at hrun
    have hstep : ∀ r, r < 16 → scrubTally lost js (r, false || decide (16 ≤ r)) = scrubTally lost js (r, false) := by
      intro r hr
      rw [decide_eq_false (by omega), Bool.false_or]
    refine (congrArg Prod.snd (hstep (if lost j then run + 1 else 0) (by split <;> omega))).trans (ih _ ?_)
    split <;> omega

theorem scrubTally_of_reached {lost : Nat → Bool} : ∀ (is : List Nat) (run : Nat), (scrubTally lost is (run, true)).2 = true := by
  intro is
  induction is with
  | nil => intro _; rfl
  | cons j js ih => exact fun _ => ih _

theorem scrubTally_of_many {lost : Nat → Bool} {i : Nat} {is : List Nat} (hlost : lost i = true) {run : Nat} (hrun : 15 ≤ run) :
    (scrubTally lost (i :: is) (run, false)).2 = true := by
  refine Eq.trans ?_ (scrubTally_of_reached (lost := lost) is (run + 1))
  unfold scrubTally
  rw [List.foldl_cons, hlost]
  simp only [if_true, Bool.false_or]
  rw [decide_eq_true (by omega)]

/-- On how many attempts a scrub's read of parcel `i` of the next line fails. -/
def scrubFails (s : State) (n bad i : Nat) : Nat :=
  if s.burstOk (chanKey n (s.chan n).scrub i) (chanLocal s.mm.map n ((s.chan n).scrub * 256) + 32 * i) then (if i = 0 then bad else 0)
  else 4

/-- What the patrol scrub of the next line leaves, but for the failure of the channel. -/
def scrubbed (s : State) (n bad run : Nat) : State :=
  let c := s.chan n
  let u := s.setChan n { c with scrub := (c.scrub + 1) % 0x800000, badRun := run }
  { u with mm := { u.mm with
    retry := if 0 < scrubFails s n bad 0 ∧ scrubFails s n bad 0 < 4 then s.mm.retry + 1 else s.mm.retry,
    uncorr := s.mm.uncorr + ((List.range 8).filter fun i => 4 ≤ scrubFails s n bad i).length } }

theorem scrubbed_of_clean {s : State} {n bad : Nat} (hfails : scrubFails s n bad 0 = bad) (hbad : bad < 4)
    (hnone : (List.range 8).filter (fun i => 4 ≤ scrubFails s n bad i) = []) {u : State}
    (hu : s.setChan n { s.chan n with scrub := ((s.chan n).scrub + 1) % 0x800000, badRun := 0 } = u) :
    scrubbed s n bad 0 = { u with mm := { u.mm with retry := s.mm.retry + (if 0 < bad then 1 else 0) } } := by
  subst hu
  unfold scrubbed
  simp only [hfails, hnone]
  by_cases hz : 0 < bad
  · simp only [hz, hbad, and_self, if_true]
    rfl
  · simp only [hz, false_and, if_false]
    rfl

theorem scrubLost_eq (s : State) (n bad i : Nat) :
    decide (4 ≤ scrubFails s n bad i) =
      (!s.burstOk (chanKey n (s.chan n).scrub i) (chanLocal s.mm.map n ((s.chan n).scrub * 256) + 32 * i) ||
        (decide (i = 0) && decide (4 ≤ bad))) := by
  unfold scrubFails
  split
  · next h =>
    rw [h]
    split
    · next hi => simp [hi]
    · next hi => simp [hi]
  · next h => simp [h]

theorem exec_patrolScrub_of_live {s : State} {ch : Byte} (bad : Nat) (hidle : s.pack.state ≠ .running)
    (hlive : s.chanLive ch.toNat = true) {r : Nat × Bool}
    (hr : scrubTally (fun i => decide (4 ≤ scrubFails s ch.toNat bad i)) (List.range 8) ((s.chan ch.toNat).badRun, false) = r) :
    exec (.patrolScrub ch bad) s = .next
      (if r.2 then (scrubbed s ch.toNat bad r.1).failChannel ch.toNat else scrubbed s ch.toNat bad r.1) := by
  subst hr
  have hgo : ¬(decide (s.pack.state = .running) || !s.chanLive ch.toNat) = true := by simp [hidle, hlive]
  change execPatrolScrub ch bad s = _
  unfold execPatrolScrub
  refine (if_neg hgo).trans ?_
  unfold scrubTally scrubbed scrubFails
  simp only [decide_eq_true_eq]
  rfl

/-- A channel's training runs where the channel is powered and has neither trained nor failed. -/
theorem trains_iff {s : State} {n : Nat} :
    ¬(decide (s.pwr.phase ≠ .good) || (s.chan n).trained || (s.chan n).failed || decide (s.pwr.domains.getD (38 + n / 64) 0 ≠ 2) ||
      decide (s.nowMs < s.pwr.goodAt + 400)) = true ↔
    s.pwr.phase = .good ∧ (s.chan n).trained = false ∧ (s.chan n).failed = false ∧ s.pwr.domains.getD (38 + n / 64) 0 = 2 ∧
      s.pwr.goodAt + 400 ≤ s.nowMs := by
  simp [and_assoc]

theorem scrubAndTraining : Claim.ScrubAndTraining := by
  intro s ch bad a b n c ok ready
  refine ⟨fun hrun hlive => ⟨fun hok hbad => ?_, fun hfew => ?_, fun hmany hlost => ?_⟩, fun h => ?_, fun hready => ⟨?_, ?_, ?_⟩,
    fun hready => ?_, fun hgood => ?_, fun hgood => if_neg hgood⟩
  · have hfails : ∀ i < 8, scrubFails s n bad i = if i = 0 then bad else 0 := fun i hi => if_pos (hok i hi)
    have hclean : ∀ i ∈ List.range 8, decide (4 ≤ scrubFails s n bad i) = false := by
      intro i hi
      rw [hfails i (List.mem_range.mp hi), decide_eq_false_iff_not]
      split <;> omega
    have hexec := exec_patrolScrub_of_live bad hrun hlive (scrubTally_of_clean hclean (by decide) c.badRun)
    have hnone : (List.range 8).filter (fun i => 4 ≤ scrubFails s n bad i) = [] :=
      List.filter_eq_nil_iff.mpr fun i hi => Bool.eq_false_iff.mp (hclean i hi)
    exact hexec.trans (congrArg Host.Outcome.next (scrubbed_of_clean (hfails 0 (by decide)) hbad hnone rfl))
  · have hexec := exec_patrolScrub_of_live bad hrun hlive rfl
    have hle : (s.chan ch.toNat).badRun + (List.range 8).length < 16 := by
      rw [List.length_range]
      exact Nat.add_lt_add_right hfew 8
    refine ⟨_, hexec.trans (congrArg Host.Outcome.next (if_neg (Bool.eq_false_iff.mp (scrubTally_of_few _ _ hle)))), rfl, ?_⟩
    refine congrArg (fun l : List Nat => s.mm.uncorr + l.length) (List.filter_congr fun i hi => ?_)
    exact scrubLost_eq s n bad i
  · have hzero : decide (4 ≤ scrubFails s n bad 0) = true := by
      rw [show scrubFails s n bad 0 = 4 from if_neg (Bool.eq_false_iff.mp hlost)]
      rfl
    have hmany' := scrubTally_of_many (lost := fun i => decide (4 ≤ scrubFails s n bad i)) (is := List.range' 1 7) hzero hmany
    have hexec := exec_patrolScrub_of_live bad hrun hlive rfl
    refine ⟨_, hexec.trans (congrArg Host.Outcome.next (if_pos hmany')), failChannel_failMap _ ch.isLt, mem_failChannel_alerts ..⟩
  · refine if_pos ?_
    simpa using h
  · refine (if_neg (trains_iff.mpr hready)).trans (if_pos rfl)
  · refine ⟨_, (if_neg (trains_iff.mpr hready)).trans ((if_neg Bool.false_ne_true).trans (if_pos rfl)), ?_, rfl, rfl, fun x hlo hhi => ?_,
      fun x hx => ?_⟩
    · exact congrArg Chan.trained (setChan_chan_same ..)
    · exact (Memory.wipe_byte ..).trans (if_pos ⟨hlo, hhi⟩)
    · exact (Memory.wipe_byte ..).trans (if_neg (by omega))
  · refine ⟨_, (if_neg (trains_iff.mpr hready)).trans ((if_neg Bool.false_ne_true).trans (if_neg Bool.false_ne_true)), ?_, ?_, rfl,
      mem_degrade_alerts ..⟩
    · rw [degrade_mm]
      exact getLsbD_markFailed _ ch.isLt
    · rw [degrade_chan]
      exact congrArg Chan.failed (setChan_chan_same ..)
  · refine if_pos (Decidable.byContradiction fun hgo => hready (trains_iff.mp hgo))
  · exact ⟨s.failChannel n, if_pos hgood, failChannel_failMap s ch.isLt, mem_failChannel_alerts s n⟩

/-- Settles O35: a channel takes the first granted request that it may, and fails with its sixteenth failing read. -/
theorem channelsWork : Obligations.ChannelsWork := ⟨channelReads, channelWritesAndRefreshes, scrubAndTraining⟩

end Sys2Proof.Machine

end

section
/-! PROOFS. O36: the Trail and the Daypack path. -/

namespace Sys2Proof.Machine

open State

/-! ## A Daypack step (O36) -/

theorem findSome?_of_first {α β : Type} [DecidableEq α] {f : α → Option β} {i : α} {x : β} (hi : f i = some x) :
    ∀ (l : List α), i ∈ l → (∀ j ∈ l.takeWhile (· ≠ i), f j = none) → l.findSome? f = some x := by
  intro l
  induction l with
  | nil => intro h; cases h
  | cons j l ih =>
    intro hmem hbefore
    by_cases hj : j = i
    · subst hj
      rw [List.findSome?_cons, hi]
    · have htake : (j :: l).takeWhile (· ≠ i) = j :: l.takeWhile (· ≠ i) := List.takeWhile_cons_of_pos (decide_eq_true hj)
      rw [htake] at hbefore
      rw [List.findSome?_cons, hbefore j List.mem_cons_self]
      exact ih ((List.mem_cons.mp hmem).resolve_left fun h => hj h.symm) fun k hk => hbefore k (List.mem_cons_of_mem _ hk)

/-- The oldest parcel of input `j` that output `o` may take in this step. -/
def dpkPick (s : State) (p r o j : Nat) : Option (Nat × DpkParcel × List DpkParcel) :=
  match s.dpkAt p r j with
  | q :: rest => if q.avail ≤ s.now ∧ s.dpkWants r q = some o ∧ s.dpkRoom p r o q = true then some (j, q, rest) else none
  | [] => none

theorem dpkPick_eq_none {s : State} {p r o j : Nat}
    (h : ¬∃ x y, s.dpkAt p r j = x :: y ∧ x.avail ≤ s.now ∧ s.dpkWants r x = some o ∧ s.dpkRoom p r o x = true) :
    dpkPick s p r o j = none := by
  unfold dpkPick
  split
  · next q rest hq => exact if_neg fun hgoes => h ⟨q, rest, hq, hgoes⟩
  · rfl

theorem dpkPick_of_goes {s : State} {p r o j : Nat} {q : DpkParcel} {rest : List DpkParcel} (hq : s.dpkAt p r j = q :: rest)
    (h : ∃ x y, s.dpkAt p r j = x :: y ∧ x.avail ≤ s.now ∧ s.dpkWants r x = some o ∧ s.dpkRoom p r o x = true) :
    dpkPick s p r o j = some (j, q, rest) := by
  obtain ⟨x, y, hx, hgoes⟩ := h
  obtain ⟨rfl, rfl⟩ := List.cons.inj (hq.symm.trans hx)
  unfold dpkPick
  rw [hq]
  exact if_pos hgoes

/-- The state once output `o` has taken parcel `q` from input `i`. -/
def dpkTook (s : State) (p r o i : Nat) (q : DpkParcel) (rest : List DpkParcel) : State :=
  ({ s with trail := { s.trail with
    dpk := Sparse.set [] s.trail.dpk (planeKey p r i) rest,
    dpkHoldMax := max s.trail.dpkHoldMax ((s.now - q.avail) / 16) } }).markOut p r o

/-- What a Daypack step does with the parcel that it picked. -/
def dpkMoved (s : State) (p r o : Nat) : Option (Nat × DpkParcel × List DpkParcel) → Host.Outcome State Fault Refusal
  | none => .next s
  | some (i, q, rest) =>
    if o < 4 then .next ((dpkTook s p r o i q rest).injectDpk p (hop r o).1 (hop r o).2.1 { q with avail := s.now + (hop r o).2.2 })
    else .next ((dpkTook s p r o i q rest).dpkArrive q r o)

section
variable {s : State} {plane : BitVec 2} {router : CoreId} {out : BitVec 3} (hout : out ≠ 7)
include hout

theorem out_toNat_ne : out.toNat ≠ 7 := fun h => hout (BitVec.eq_of_toNat_eq h)

theorem exec_daypackStep_eq :
    exec (.daypackStep plane router out) s =
      if s.now % 16 ≠ 15 ∨ hasOutput plane.toNat router.toNat out.toNat = false ∨
        s.outDone plane.toNat router.toNat out.toNat = true then .next s
      else dpkMoved s plane.toNat router.toNat out.toNat
        (inputOrder.findSome? (dpkPick s plane.toNat router.toNat out.toNat)) := by
  change execDaypackStep plane router out s = _
  unfold execDaypackStep
  refine (if_neg (out_toNat_ne hout)).trans ?_
  rfl

theorem exec_daypackStep_of_idle
    (h : s.now % 16 ≠ 15 ∨ hasOutput plane.toNat router.toNat out.toNat = false ∨ s.outDone plane.toNat router.toNat out.toNat = true ∨
      inputOrder.findSome? (dpkPick s plane.toNat router.toNat out.toNat) = none) :
    exec (.daypackStep plane router out) s = .next s := by
  rw [exec_daypackStep_eq hout]
  split
  · rfl
  · next hrow =>
    rw [show inputOrder.findSome? (dpkPick s plane.toNat router.toNat out.toNat) = none by tauto]
    rfl

theorem exec_daypackStep_of_pick (hstep : s.now % 16 = 15) (hhas : hasOutput plane.toNat router.toNat out.toNat = true)
    (hdone : s.outDone plane.toNat router.toNat out.toNat = false) {i : Nat} {q : DpkParcel} {rest : List DpkParcel}
    (hpick : inputOrder.findSome? (dpkPick s plane.toNat router.toNat out.toNat) = some (i, q, rest)) :
    exec (.daypackStep plane router out) s =
      if out.toNat < 4 then .next ((dpkTook s plane.toNat router.toNat out.toNat i q rest).injectDpk plane.toNat
        (hop router.toNat out.toNat).1 (hop router.toNat out.toNat).2.1 { q with avail := s.now + (hop router.toNat out.toNat).2.2 })
      else .next ((dpkTook s plane.toNat router.toNat out.toNat i q rest).dpkArrive q router.toNat out.toNat) := by
  have hrow : ¬(s.now % 16 ≠ 15 ∨ hasOutput plane.toNat router.toNat out.toNat = false ∨
      s.outDone plane.toNat router.toNat out.toNat = true) := by
    rw [hstep, hhas, hdone]
    decide
  rw [exec_daypackStep_eq hout, if_neg hrow, hpick]
  rfl

end

theorem daypackParcelsMove : Claim.DaypackParcelsMove := by
  intro s plane router out i q rest p r o h goes u
  refine ⟨fun hout => if_pos (congrArg BitVec.toNat hout), fun hout hno => exec_daypackStep_of_idle hout ?_,
    fun hout hstep hhas hdone hi hgoes hbefore hq => ?_⟩
  · exact hno.imp id (Or.imp id (Or.imp id fun hnone => List.findSome?_eq_none_iff.mpr fun j hj => dpkPick_eq_none (hnone j hj)))
  · have hpick : inputOrder.findSome? (dpkPick s p r o) = some (i, q, rest) :=
      findSome?_of_first (dpkPick_of_goes hq hgoes) inputOrder hi fun j hj => dpkPick_eq_none (hbefore j hj)
    have hexec := exec_daypackStep_of_pick hout hstep hhas hdone hpick
    exact ⟨fun ho => hexec.trans (if_pos ho), fun ho => hexec.trans (if_neg (Nat.not_lt.mpr ho))⟩

/-! ## A Daypack parcel at its device (O36) -/

theorem bytesParcel_parcelBytes (d : BitVec 256) : bytesParcel (parcelBytes d) = d := by
  have hlen : (leBytes 32 d.toNat).length = 32 := leBytes_length 32 _
  apply BitVec.eq_of_toNat_eq
  rw [bytesParcel, parcelBytes, List.take_of_length_le hlen.le, leNat_leBytes, BitVec.toNat_ofNat]
  have := d.isLt
  omega

/-- A parcel stored without a poison mark reads back as it was. -/
theorem parcel_setParcel_same (m : Memory) (k a : Nat) {p : Parcel} (h : p.poison = false) : (m.setParcel k a p).parcel k a = p := by
  obtain ⟨data, check, poison, cclass⟩ := p
  cases h
  have hbytes : (m.setBytes k (parcelBytes data)).bytesAt k 32 = parcelBytes data := by
    have hsame := bytesAt_setBytes_same m k (parcelBytes data)
    rwa [parcelBytes_length] at hsame
  unfold Memory.setParcel Memory.parcel
  dsimp only
  rw [bytesAt_setSide, if_neg Bool.false_ne_true, hbytes, bytesParcel_parcelBytes, Memory.setSide_sideAt, if_pos rfl]
  dsimp only
  rw [if_neg Bool.false_ne_true]
  cases hv : verifies ⟨data, check, false, cclass⟩ a with
  | false => rfl
  | true =>
    have hcheck : check = checkOf data a := of_decide_eq_true hv
    simp only [Bool.false_or, if_true, Option.getD_none]
    rw [← hcheck]

theorem setParcel_byte_same (m : Memory) (k a : Nat) {p : Parcel} (h : p.poison = false) {i : Nat} (hi : i < 32) :
    (m.setParcel k a p).byte (k + i) = p.data.extractLsb' (8 * i) 8 := by
  refine (Memory.setBytes_byte _ _ _ _ (by rwa [parcelBytes_length])).trans ?_
  rw [h, parcelBytes_getD _ hi]
  rfl

theorem coreAddr_eq (c : Nat) {off : Nat} (hoff : off < 0x40000) : coreAddr c off = 0x020000000000 + c * 0x40000 + off := by
  rw [coreAddr, Nat.mod_eq_of_lt hoff]

section
variable {s : State} {c off : Nat} (hc : c < 2048) (hoff : off < 0x40000)
include hc hoff

theorem keyOf_coreAddr : s.keyOf (coreAddr c off) = some (coreAddr c off) := by
  have hmod := coreAddr_eq c hoff
  rw [keyOf, if_neg (by omega), if_neg (by omega), if_pos (by omega)]

theorem isSliced_coreAddr : isSliced (coreAddr c off) = false := by
  have hmod := coreAddr_eq c hoff
  rw [isSliced, Bool.or_eq_false_iff, decide_eq_false_iff_not, decide_eq_false_iff_not]
  omega

theorem accAt_coreAddr : accAt (coreAddr c off) = none := by
  have hmod := coreAddr_eq c hoff
  rw [accAt, if_neg (by omega)]

/-- A parcel for a core store, outside the list ranges, is stored there, and nothing else changes. -/
theorem putParcelFor_coreAddr (halign : off % 32 = 0) (hlist : s.inListRange (coreAddr c off) = false) (who : Requester) (p : Parcel) :
    s.putParcelFor who (coreAddr c off) p = s.setMem (s.mem.setParcel (coreAddr c off) (coreAddr c off) p) := by
  have hmod := coreAddr_eq c hoff
  have hparcel : coreAddr c off / 32 * 32 = coreAddr c off := by omega
  unfold putParcelFor storeParcel markAcc
  dsimp only
  rw [hparcel]
  simp only [keyOf_coreAddr hc hoff, hlist, isSliced_coreAddr hc hoff, accAt_coreAddr hc hoff, Bool.false_eq_true, if_false]

end

section
variable {s : State} {q : DpkParcel}

theorem dpkStore_coreAddr {c off : Nat} (hc : c < 2048) (hlow : 0x8000 ≤ off) (hoff : off < 0x40000) (halign : off % 32 = 0)
    (hlist : s.inListRange (coreAddr c off) = false) (core id i : Nat) (p : Parcel) :
    s.dpkStore core id i (coreAddr c off) p = (s.setMem (s.mem.setParcel (coreAddr c off) (coreAddr c off) p), true) := by
  unfold dpkStore putParcel
  rw [writable_coreAddr s hc hlow hoff, isSliced_coreAddr hc hoff, putParcelFor_coreAddr hc hoff halign hlist, hlist]
  rfl

theorem dpkStore_of_not_writable {a : Nat} (h : s.writable a = false) (c id i : Nat) (p : Parcel) :
    s.dpkStore c id i a p = (s.countPoison c 1, true) := by
  unfold dpkStore
  rw [h]
  rfl

variable (hask : q.ask = false)
include hask

theorem dpkArrive_of_write (hinto : q.into = false) (hhead : q.head = none) (router : Nat) {u : State}
    (hstore : s.dpkStore q.core q.id q.i (q.dest % 2 ^ 42) q.parcel = (u, true)) :
    s.dpkArrive q router 4 = u.dpkLanded q.core q.id 1 := by
  unfold dpkArrive dpkWrite
  simp only [hask, hinto, hhead, hstore, Bool.false_eq_true, if_false, if_true]
  rfl

theorem dpkArrive_of_read (hinto : q.into = true) (router : Nat) :
    s.dpkArrive q router 4 =
      if (s.dpkq q.core).any fun d => d.id = q.id && !d.out then
        (s.dpkStore q.core q.id q.i (q.dest % 2 ^ 42) q.parcel).1.dpkTaken q.core q.id q.i q.parcel
      else s := by
  unfold dpkArrive
  simp only [hask, hinto, Bool.false_eq_true, if_false, if_true]
  rfl

theorem dpkArrive_of_port (hhead : q.head = none) {router p : Nat} (hport : portAtRouter router = some p) :
    s.dpkArrive q router 6 = s.portFlit p
      { ftype := 1, vmask := 1, dmod := q.dest / 2 ^ 42, smod := s.ownId, addr := q.dest % 2 ^ 42, core := q.core, dpk := true }
      [q.parcel] := by
  unfold dpkArrive dpkFlit
  simp only [hask, hhead, hport]
  rfl

end

theorem daypackParcelsArrive : Claim.DaypackParcelsArrive := by
  intro s q r off p x a t waits landed
  refine ⟨fun hask hhead hdest hr hlow hoff halign hlist hpoison => ?_, fun hask hinto hhead hwritable => ?_,
    fun hport hask hhead => dpkArrive_of_port hask hhead hport, fun hask hhead hx halign hheld => ?_⟩
  · have hmod := coreAddr_eq r hoff
    have haddr : q.dest % 2 ^ 42 = a := by
      rw [hdest]
      change (s.ownId * 2 ^ 42 + coreAddr r off) % 2 ^ 42 = coreAddr r off
      omega
    have hstore := dpkStore_coreAddr hr hlow hoff halign hlist q.core q.id q.i q.parcel
    have hwrite : q.into = false → t = (s.setMem (s.mem.setParcel a a q.parcel)).dpkLanded q.core q.id 1 := fun hinto =>
      dpkArrive_of_write hask hinto hhead r (by rw [haddr]; exact hstore)
    have hread : q.into = true → waits = true →
        t = (s.setMem (s.mem.setParcel a a q.parcel)).dpkTaken q.core q.id q.i q.parcel := fun hinto hwaits => by
      refine (dpkArrive_of_read hask hinto r).trans ((if_pos hwaits).trans ?_)
      rw [haddr]
      exact congrArg (fun x : State × Bool => x.1.dpkTaken q.core q.id q.i q.parcel) hstore
    refine ⟨fun htaken => ?_, fun hinto => ?_, fun hinto hwaits => ?_, fun hinto hwaits => ?_⟩
    · have hmem : t.mem = s.mem.setParcel a a q.parcel := by
        cases hinto : q.into with
        | false => rw [hwrite hinto]; rfl
        | true =>
          have hwaits : waits = true := htaken.resolve_left (by rw [hinto]; decide)
          rw [hread hinto hwaits]
          rfl
      rw [hmem]
      exact ⟨fun i hi => setParcel_byte_same _ _ _ hpoison hi, fun x hx => Memory.setParcel_byte_other _ _ _ _ _ hx,
        parcel_setParcel_same _ _ _ hpoison⟩
    · rw [hwrite hinto]
      exact setDpkq_dpkq_same ..
    · rw [hread hinto hwaits]
      exact setDpkq_dpkq_same ..
    · exact (dpkArrive_of_read hask hinto r).trans (if_neg (Bool.eq_false_iff.mp hwaits))
  · exact dpkArrive_of_write hask hinto hhead r (dpkStore_of_not_writable hwritable ..)
  · have hparcel : q.dest % 2 ^ 42 / 32 * 32 = q.dest % 2 ^ 42 := by omega
    have hx' : s.parcelFor none (q.dest % 2 ^ 42) = some x := by
      rw [← hparcel]
      exact hx
    change s.dpkArrive q r 4 = _
    unfold dpkArrive dpkServe answer readReq
    simp only [hask, hhead, hx']
    have hfree : s.heldAt none (q.dest % 2 ^ 42) (.daypack q.core q.id q.i) = none := hheld
    refine (if_neg (by decide)).trans ((if_pos trivial).trans ((if_neg (by decide)).trans ?_))
    rw [hfree]
    rfl

/-! ## Transfers that land (O36) -/

theorem landArrive_of_not_waiting {s : State} {c : Nat} (h : ∀ ch rd, (s.seq c).wait ≠ .landed ch rd) : s.landArrive c = s := by
  unfold landArrive
  split
  · next ch rd hwait => exact absurd hwait (h ch rd)
  · rfl

theorem dpkDone_of_none {s : State} {c : Nat} (k : Nat) (h : (s.bnd c).late = []) :
    s.dpkDone c k = s.setDpkq c ((s.dpkq c).eraseIdx k) := by
  unfold dpkDone
  simp only [setDpkq_bnd, h]

theorem dpkDone_of_late {s : State} {c k gaddr loc : Nat} {ps : List Parcel} {late : List (Nat × Nat × List Parcel)}
    (h : (s.bnd c).late = (gaddr, loc, ps) :: late) (hk : (s.dpkq c)[k]? ≠ none) (hle : (s.dpkq c).length ≤ 32) {t : State}
    (ht : s.setDpkq c ((s.dpkq c).eraseIdx k) = t) :
    s.dpkDone c k = (t.setBnd c { t.bnd c with late := late }).dpkStart c (t.outDpk gaddr loc ps) := by
  have hlate : (t.bnd c).late = (gaddr, loc, ps) :: late := by
    rw [← ht]
    exact h
  have hlt : k < (s.dpkq c).length := by
    by_contra hge
    exact hk (List.getElem?_eq_none (Nat.not_lt.mp hge))
  have hroom : ¬ t.dpkFull c = true := by
    unfold dpkFull
    rw [← ht, setDpkq_dpkq_same, List.length_eraseIdx_of_lt hlt, decide_eq_true_eq]
    omega
  unfold dpkDone
  simp only [ht, hlate]
  exact if_neg hroom

theorem daypackTransfersLand : Claim.DaypackTransfersLand := by
  intro s c k d gaddr loc ps late cc missing counted poisoned
  have hexec : ∀ (x : Option Dpk), (s.dpkq c.toNat)[k]? = x → exec (.daypackLand c k) s =
      match x with
      | none => .next s
      | some d =>
        if d.len ≤ d.landed then .next ((s.dpkDone cc k).landArrive cc)
        else if d.issued + 1048576 ≤ s.now then
          .next (((if d.out then s.countPoison cc (d.len - d.landed) else
            ((List.range d.len).filter fun i => !d.got.any fun x => x.1 = i).foldl (fun s i =>
              let a := coreAddr cc ((d.loc + 32 * i) % 0x40000)
              if s.writable a then s.putParcel a (poisonedParcel a) else s) (s.countPoison cc (d.len - d.landed))).dpkDone cc k).landArrive cc)
        else .next s := by
    intro x hx
    subst hx
    rfl
  refine ⟨fun h => hexec none h, fun h => ⟨fun hall => ?_, fun hpart hlate hout => ?_, fun hpart hlate hout => ?_, fun hpart hsoon => ?_⟩,
    fun h => dpkDone_of_none k h, fun h hk hle => dpkDone_of_late h hk hle rfl, landArrive_of_not_waiting⟩
  · exact (hexec _ h).trans (if_pos hall)
  · refine (hexec _ h).trans ((if_neg (Nat.not_le.mpr hpart)).trans ((if_pos hlate).trans ?_))
    rw [hout]
    rfl
  · refine (hexec _ h).trans ((if_neg (Nat.not_le.mpr hpart)).trans ((if_pos hlate).trans ?_))
    rw [hout]
    rfl
  · exact (hexec _ h).trans ((if_neg (Nat.not_le.mpr hpart)).trans (if_neg (Nat.not_le.mpr hsoon)))

/-! ## Trail slots (O36) -/

/-- What a joined beat, or a lone one, leaves at an output: the sums of two beats that do not join stay apart, counted. -/
def combOut (s : State) (p r o : Nat) : Option Beat → Option Beat → State
  | some a, some b =>
    match joinBeats a b with
    | some j => s.beatOut p r o j
    | none => ({ s with trail := { s.trail with comb := s.trail.comb + 1 } }).beatOut p r o (refusedJoin a)
  | some a, none => s.beatOut p r o a
  | none, some b => s.beatOut p r o b
  | none, none => s

theorem combOut_of_join {a b j : Beat} (h : joinBeats a b = some j) (s : State) (p r o : Nat) :
    combOut s p r o (some a) (some b) = s.beatOut p r o j := by
  unfold combOut
  simp only [h]

theorem combOut_of_refused {a b : Beat} (h : joinBeats a b = none) (s : State) (p r o : Nat) :
    combOut s p r o (some a) (some b) =
      ({ s with trail := { s.trail with comb := s.trail.comb + 1 } }).beatOut p r o (refusedJoin a) := by
  unfold combOut
  simp only [h]

/-- What entry `e` of an output does with the beats that its inputs give. -/
def runEntry (s : State) (p r o e : Nat) : State :=
  if e / 2 ^ 14 % 4 = 1 then
    let x := s.takeInput p r (e / 2 ^ 11 % 8)
    x.2.elim x.1 fun b => x.1.beatOut p r o b
  else if e / 2 ^ 14 % 4 = 2 then
    let x := s.takeInput p r (e / 2 ^ 11 % 8)
    let y := x.1.takeInput p r (e / 2 ^ 8 % 8)
    combOut y.1 p r o x.2 y.2
  else s

section
variable {s t : State} {plane : BitVec 2} {router : CoreId} {out : BitVec 3} (ht : s.dropStale plane.toNat router.toNat = t) (hout : out ≠ 7)
include ht hout

theorem exec_trailSlot_of_idle
    (h : ¬(t.now % 16 ≠ 15 ∧ hasOutput plane.toNat router.toNat out.toNat = true ∧ t.outDone plane.toNat router.toNat out.toNat = false)) :
    exec (.trailSlot plane router out) s = .next t := by
  change execTrailSlot plane router out s = _
  unfold execTrailSlot
  simp only [ht]
  refine (if_neg (out_toNat_ne hout)).trans (if_pos ?_)
  by_contra hno
  simp only [not_or, Bool.not_eq_false, Bool.not_eq_true] at hno
  exact h hno

theorem exec_trailSlot_of_runs (hstep : t.now % 16 ≠ 15) (hhas : hasOutput plane.toNat router.toNat out.toNat = true)
    (hdone : t.outDone plane.toNat router.toNat out.toNat = false) :
    exec (.trailSlot plane router out) s = .next (runEntry
      ((t.markOut plane.toNat router.toNat out.toNat).uniformStep plane.toNat router.toNat out.toNat) plane.toNat router.toNat out.toNat
      (t.slotEntryAt t.now plane.toNat router.toNat out.toNat)) := by
  have hgo : ¬(t.now % 16 = 15 ∨ hasOutput plane.toNat router.toNat out.toNat = false ∨
      t.outDone plane.toNat router.toNat out.toNat = true) := by
    rw [hhas, hdone]
    simpa using hstep
  change execTrailSlot plane router out s = _
  unfold execTrailSlot
  simp only [ht]
  refine (if_neg (out_toNat_ne hout)).trans ((if_neg hgo).trans ?_)
  generalize t.slotEntryAt t.now plane.toNat router.toNat out.toNat = e
  generalize (t.markOut plane.toNat router.toNat out.toNat).uniformStep plane.toNat router.toNat out.toNat = v
  have hkind : bitsOf e 15 14 = e / 2 ^ 14 % 4 := bitsOf_eq e 15 14
  have hfirst : bitsOf e 13 11 = e / 2 ^ 11 % 8 := bitsOf_eq e 13 11
  have hsecond : bitsOf e 10 8 = e / 2 ^ 8 % 8 := bitsOf_eq e 10 8
  unfold runEntry
  rw [hkind, hfirst, hsecond]
  split
  · next h1 =>
    rw [if_pos h1]
    dsimp only
    split
    · next b hb => rw [hb]; rfl
    · next hb => rw [hb]; rfl
  · next h2 =>
    rw [if_neg (by omega), if_pos h2]
    dsimp only
    generalize v.takeInput plane.toNat router.toNat (e / 2 ^ 11 % 8) = x
    generalize x.1.takeInput plane.toNat router.toNat (e / 2 ^ 8 % 8) = y
    unfold combOut
    rcases x.2 with _ | a <;> rcases y.2 with _ | b
    · rfl
    · rfl
    · rfl
    · dsimp only
      cases joinBeats a b <;> rfl
  · next h1 h2 => rw [if_neg h1, if_neg h2]

end

theorem trailSlotsRun : Claim.TrailSlotsRun := by
  intro s plane router out u p r o t e v x y runs
  have hexec : runs → exec (.trailSlot plane router out) s = .next (runEntry v p r o e) := fun ⟨hout, hstep, hhas, hdone⟩ =>
    exec_trailSlot_of_runs rfl hout hstep hhas hdone
  have hfwd : e / 2 ^ 14 % 4 = 1 → runEntry v p r o e = x.2.elim x.1 fun b => x.1.beatOut p r o b := fun h => if_pos h
  have hcomb : e / 2 ^ 14 % 4 = 2 → runEntry v p r o e = combOut y.1 p r o x.2 y.2 := fun h =>
    (if_neg (by omega)).trans (if_pos h)
  have hphase : ∀ w, s.trail.holdUntil = w → exec .phaseTablesStart s = match w with
      | some u => if u ≤ s.now then .next { s with trail := { s.trail with
          curSet := s.trail.nextSet, phaseBase := u, holdUntil := none, missed := [] } } else .next s
      | none => .next s := by
    intro w hw
    subst hw
    rfl
  refine ⟨fun hout => if_pos (congrArg BitVec.toNat hout), fun hout hno => exec_trailSlot_of_idle rfl hout fun hruns => hno ⟨hout, hruns⟩,
    fun hruns hkind => ⟨fun b hb => ?_, fun hx => ?_⟩,
    fun hruns hkind => ⟨fun a b j ha hb hj => ?_, fun a b ha hb hj => ?_, fun a ha hb => ?_, fun b ha hb => ?_, fun ha hb => ?_⟩,
    fun hruns h1 h2 => ?_, fun hw hle => ?_, fun hw hlt => ?_, fun hw => hphase none hw⟩
  · rw [hexec hruns, hfwd hkind, hb]
    rfl
  · rw [hexec hruns, hfwd hkind, hx]
    rfl
  · rw [hexec hruns, hcomb hkind, ha, hb, combOut_of_join hj]
  · rw [hexec hruns, hcomb hkind, ha, hb, combOut_of_refused hj]
  · rw [hexec hruns, hcomb hkind, ha, hb]
    rfl
  · rw [hexec hruns, hcomb hkind, ha, hb]
    rfl
  · rw [hexec hruns, hcomb hkind, ha, hb]
    rfl
  · rw [hexec hruns]
    exact congrArg Host.Outcome.next ((if_neg h1).trans (if_neg h2))
  · exact (hphase _ hw).trans (if_pos hle)
  · exact (hphase _ hw).trans (if_neg (Nat.not_le.mpr hlt))

/-! ## Beats on the mesh (O36) -/

theorem dropStale_eq_self {s : State} {p r : Nat}
    (h : ∀ x < 4, ∀ y ∈ Sparse.get [] s.trail.beats (planeKey p r x), s.now ≤ y.avail) : s.dropStale p r = s := by
  have hone : ∀ x < 4, ((Sparse.get [] s.trail.beats (planeKey p r x)).filter fun b => decide (b.avail < s.now)).isEmpty = true := by
    intro x hx
    rw [List.isEmpty_iff, List.filter_eq_nil_iff]
    intro b hb
    have := h x hx b hb
    simpa using this
  have hfold : ∀ l : List Nat, (∀ x ∈ l, x < 4) → l.foldl (fun (s : State) i =>
      let k := planeKey p r i
      let q := Sparse.get [] s.trail.beats k
      let old := q.filter fun b => decide (b.avail < s.now)
      if old.isEmpty then s
      else { s with trail := { s.trail with
        beats := Sparse.set [] s.trail.beats k (q.filter fun b => decide (s.now ≤ b.avail)),
        drop := s.trail.drop + (old.filter fun b => !b.taken).length } }) s = s := by
    intro l
    induction l with
    | nil => intro _; rfl
    | cons x l ih =>
      intro hl
      rw [List.foldl_cons]
      dsimp only
      rw [if_pos (hone x (hl x List.mem_cons_self))]
      exact ih fun y hy => hl y (List.mem_cons_of_mem _ hy)
  exact hfold [0, 1, 2, 3] (by decide)

theorem planeKey_inj {p r r' n n' : Nat} (hn : n < 8) (hn' : n' < 8) (h : planeKey p r n = planeKey p r' n') : r = r' ∧ n = n' := by
  unfold planeKey at h
  omega

/-- A mesh output leads to another router. -/
theorem hop_ne_self {p r o : Nat} (ho : o < 4) (h : hasOutput p r o = true) : (hop r o).1 ≠ r := by
  match o, ho with
  | 0, _ =>
    have hrow : r / 64 ≠ 0 := of_decide_eq_true h
    change r - 64 ≠ r
    omega
  | 1, _ => exact Nat.succ_ne_self r
  | 2, _ =>
    change r + 64 ≠ r
    omega
  | 3, _ =>
    have hcol : r % 64 ≠ 0 := of_decide_eq_true h
    change r - 1 ≠ r
    omega

theorem hop_input_lt (r o : Nat) : (hop r o).2.1 < 8 := by
  unfold hop
  split <;> simp

section
variable {s : State} {p r i : Nat} (hi : i < 4)
include hi

theorem takeInput_of_mesh {a : QBeat} {rest : List QBeat} (hq : Sparse.get [] s.trail.beats (planeKey p r i) = a :: rest)
    (ha : a.avail = s.now) :
    s.takeInput p r i = ({ s with trail := { s.trail with
      beats := Sparse.set [] s.trail.beats (planeKey p r i) ((a :: rest).map fun x => if x = a then { x with taken := true } else x) } },
      some a.beat) := by
  unfold takeInput
  rw [if_pos hi]
  dsimp only
  have hfind : (a :: rest).find? (fun b => decide (b.avail = s.now)) = some a := List.find?_cons_of_pos (by simpa using ha)
  rw [hq]
  simp only [hfind]

end

/-- The state once a beat has been taken from mesh input `i`, whose beats are now `q`. -/
def meshTaken (s : State) (p r i : Nat) (q : List QBeat) : State :=
  { s with trail := { s.trail with beats := Sparse.set [] s.trail.beats (planeKey p r i) q } }

theorem meshTaken_input_other (s : State) {p r i key : Nat} (q : List QBeat) (h : planeKey p r i ≠ key) :
    Sparse.get [] (meshTaken s p r i q).trail.beats key = Sparse.get [] s.trail.beats key :=
  Sparse.get_set_other ([] : List QBeat) q s.trail.beats h

theorem beatOut_of_mesh {o : Nat} (ho : o < 4) (s : State) (p r : Nat) (b : Beat) :
    s.beatOut p r o b = { s with trail := { s.trail with
      beats := Sparse.set [] s.trail.beats (planeKey p (hop r o).1 (hop r o).2.1)
        (Sparse.get [] s.trail.beats (planeKey p (hop r o).1 (hop r o).2.1) ++
          [{ avail := s.now + (hop r o).2.2, taken := false, beat := b }]) } } := by
  unfold beatOut
  exact if_pos ho

theorem beatOut_of_mesh_input {o : Nat} (ho : o < 4) (s : State) (p r : Nat) (b : Beat) :
    Sparse.get [] (s.beatOut p r o b).trail.beats (planeKey p (hop r o).1 (hop r o).2.1) =
      Sparse.get [] s.trail.beats (planeKey p (hop r o).1 (hop r o).2.1) ++
        [{ avail := s.now + (hop r o).2.2, taken := false, beat := b }] := by
  rw [beatOut_of_mesh ho]
  exact Sparse.get_set_same ..

theorem beatsCrossTheMesh : Claim.BeatsCrossTheMesh := by
  intro s plane router out a b i j p r o e h at_ input hstep hhas hdone ho ha hb hfresh hi hj hij
  have hout : out ≠ 7 := by
    rintro rfl
    exact absurd ho (by decide)
  have hexec := exec_trailSlot_of_runs (dropStale_eq_self hfresh) hout hstep hhas hdone
  rw [show (s.markOut plane.toNat router.toNat out.toNat).uniformStep plane.toNat router.toNat out.toNat =
    s.markOut plane.toNat router.toNat out.toNat from if_pos ho] at hexec
  have hkey : ∀ x < 4, planeKey p r x ≠ planeKey p h.1 h.2.1 := fun x hx heq =>
    hop_ne_self (p := p) ho hhas (planeKey_inj (by omega) (hop_input_lt r o) heq).1.symm
  refine ⟨fun rest hkind hfirst hq => ?_, fun ra rb hkind hfirst hsecond hqa hqb => ?_, fun hkind => ?_⟩
  · have htake := takeInput_of_mesh (s := s.markOut p r o) hi hq ha
    have hrun : runEntry (s.markOut p r o) p r o e = (meshTaken (s.markOut p r o) p r i
        ((a :: rest).map fun x => if x = a then { x with taken := true } else x)).beatOut p r o a.beat := by
      unfold runEntry
      rw [if_pos (by omega), hfirst, htake]
      rfl
    refine ⟨_, hexec.trans (congrArg Host.Outcome.next hrun), ?_, ?_, ?_⟩
    · refine (beatOut_of_mesh_input ho ..).trans (congrArg (· ++ _) ?_)
      exact meshTaken_input_other (s.markOut p r o) _ (hkey i hi)
    · rw [beatOut_of_mesh ho]
      rfl
    · rw [beatOut_of_mesh ho]
      rfl
  · let u := meshTaken (s.markOut p r o) p r i ((a :: ra).map fun x => if x = a then { x with taken := true } else x)
    let v := meshTaken u p r j ((b :: rb).map fun x => if x = b then { x with taken := true } else x)
    have htake : (s.markOut p r o).takeInput p r i = (u, some a.beat) := takeInput_of_mesh hi hqa ha
    have hother : planeKey p r i ≠ planeKey p r j := fun heq => hij (planeKey_inj (by omega) (by omega) heq).2
    have hqb' : Sparse.get [] u.trail.beats (planeKey p r j) = b :: rb :=
      (meshTaken_input_other (s.markOut p r o) _ hother).trans hqb
    have htake' : u.takeInput p r j = (v, some b.beat) := takeInput_of_mesh hj hqb' hb
    have hrun : runEntry (s.markOut p r o) p r o e = combOut v p r o (some a.beat) (some b.beat) := by
      unfold runEntry
      rw [if_neg (by omega), if_pos (by omega), hfirst, hsecond]
      dsimp only
      rw [htake, htake']
    have hinput : Sparse.get [] v.trail.beats (planeKey p h.1 h.2.1) = input s :=
      (meshTaken_input_other u _ (hkey j hj)).trans (meshTaken_input_other (s.markOut p r o) _ (hkey i hi))
    refine ⟨_, hexec.trans (congrArg Host.Outcome.next hrun), ?_, fun x hx => ?_, fun hx => ?_⟩
    · cases hx : joinBeats a.beat b.beat with
      | none =>
        rw [combOut_of_refused hx, beatOut_of_mesh ho]
        rfl
      | some x =>
        rw [combOut_of_join hx, beatOut_of_mesh ho]
        rfl
    · rw [combOut_of_join hx]
      refine ⟨(beatOut_of_mesh_input ho ..).trans (congrArg (· ++ _) hinput), ?_⟩
      rw [beatOut_of_mesh ho]
      rfl
    · rw [combOut_of_refused hx]
      refine ⟨(beatOut_of_mesh_input ho ..).trans (congrArg (· ++ _) hinput), ?_⟩
      rw [beatOut_of_mesh ho]
      rfl
  · have hrun : runEntry (s.markOut p r o) p r o e = s.markOut p r o := (if_neg (by omega)).trans (if_neg (by omega))
    exact ⟨_, hexec.trans (congrArg Host.Outcome.next hrun), rfl, rfl⟩

/-! ## Beats that leave the network (O36) -/

theorem beatsLeaveTheTrail : Claim.BeatsLeaveTheTrail := by
  intro s plane router out at_ port b h x more t lost tag n
  refine ⟨fun hkind hout => ?_, fun hkind hout hport => ?_, fun hkind hout hno => ?_, fun hkind hpkts hflow hout hport => ?_,
    fun hkind hpkts hno => ?_, fun hkind hpkts => ?_⟩
  · exact (if_pos hkind).trans (if_pos hout)
  · subst hout
    refine (if_pos hkind).trans ((if_neg (by decide)).trans ?_)
    rw [hport]
    rfl
  · refine (if_pos hkind).trans ((if_neg hout).trans ?_)
    split
    · next p hp => exact absurd hno (by simp [hp])
    · rfl
  · subst hout
    change s.exitBeat plane router 6 at_ b = _
    unfold exitBeat Beat.flow awayFlit
    simp only [hport, hpkts, List.head?_cons, Option.map_some, hflow]
    refine (if_neg hkind).trans ?_
    have hlen : n = (x :: more).length := congrArg List.length hpkts
    rw [hlen]
    rfl
  · change s.exitBeat plane router out at_ b = _
    unfold exitBeat Beat.flow
    simp only [hpkts, List.head?_cons, Option.map_some]
    refine (if_neg hkind).trans ?_
    split
    · next y p hflow hp => exact absurd (hno ⟨y, Option.some.inj hflow⟩) (by simp [hp])
    · rfl
    · next hnone => cases hnone
  · change s.exitBeat plane router out at_ b = _
    unfold exitBeat Beat.flow
    simp only [hpkts, List.head?_nil, Option.map_none]
    exact if_neg hkind

/-- Settles O36: an output sends one beat or one Daypack parcel in a step, and a beat acts where it leaves. -/
theorem trailAndDaypack : Obligations.TrailAndDaypack :=
  ⟨daypackParcelsMove, daypackParcelsArrive, daypackTransfersLand, trailSlotsRun, beatsCrossTheMesh, beatsLeaveTheTrail⟩

end Sys2Proof.Machine

end

section
/-! PROOFS. O37: the Whistle network. -/

namespace Sys2Proof.Machine

open State

/-! ## Hops (O37) -/

theorem wClass_le (typ : BitVec 5) : wClass typ ≤ 2 := by
  unfold wClass
  split
  · decide
  · split <;> decide

/-- The step of a class that a flit reaches is one of its class, and later. -/
theorem classStep_later {cls now n : Nat} (hcls : cls ≤ 2) (hnow : stepClass now = cls) (hn : 1 ≤ n) :
    now < classStep cls (classCount cls now + n) ∧ stepClass (classStep cls (classCount cls now + n)) = cls := by
  unfold stepClass at hnow ⊢
  match cls, hcls with
  | 0, _ =>
    have hmod : now % 16 = 0 := by
      split at hnow
      · assumption
      · split at hnow <;> cases hnow
    rw [show classStep 0 (classCount 0 now + n) = 16 * ((now + 15) / 16 + n) from rfl]
    refine ⟨by omega, if_pos (by omega)⟩
  | 1, _ =>
    have hmod : now % 16 = 8 := by
      split at hnow
      · cases hnow
      · split at hnow
        · assumption
        · cases hnow
    rw [show classStep 1 (classCount 1 now + n) = 16 * ((now + 7) / 16 + n) + 8 from rfl]
    refine ⟨by omega, (if_neg (by omega)).trans (if_pos (by omega))⟩
  | 2, _ =>
    have hmod : now % 16 ≠ 0 ∧ now % 16 ≠ 8 := by
      split at hnow
      · cases hnow
      · split at hnow
        · cases hnow
        · exact ⟨by assumption, by assumption⟩
    have hcount : classCount 2 now = now - (now + 15) / 16 - (now + 7) / 16 := rfl
    have hstep : ∀ k, classStep 2 k = k / 14 * 16 + if k % 14 < 7 then k % 14 + 1 else k % 14 + 2 := fun _ => rfl
    have hclass : ∀ k, classStep 2 k % 16 ≠ 0 ∧ classStep 2 k % 16 ≠ 8 := by
      intro k
      rw [hstep]
      split <;> omega
    refine ⟨?_, (if_neg (hclass _).1).trans (if_neg (hclass _).2)⟩
    rw [hstep, hcount]
    split <;> omega

theorem whistleFlitsHop : Claim.WhistleFlitsHop := by
  intro s k f w r o h cls sent goes
  have hexec : w.flits[k]? = some f → exec (.whistleFlitHop k) s =
      if wReserved f.msg.typ then .next { s with whistle := { w with flits := w.flits.eraseIdx k, drop := w.drop + 1 } }
      else if !f.ready s.now || s.whistlePick r o cls ≠ some k || Sparse.get 0 w.done (8 * r + o) = s.now + 1 then .next s
      else if o < 4 then
        .next { s with whistle := { w with
          flits := w.flits.eraseIdx k ++
            [{ f with pos := BitVec.ofNat 11 h.1, inp := h.2.1, avail := classStep cls (classCount cls s.now + if h.2.2 = 18 then 8 else 1) }],
          done := Sparse.set 0 w.done (8 * r + o) (s.now + 1) } }
      else .next (if f.last then sent.whistleDeliver f.msg else sent) := by
    intro hf
    change execWhistleFlitHop k s = _
    unfold execWhistleFlitHop
    simp only [show s.whistle.flits[k]? = some f from hf]
    rfl
  have hknown : f.msg.typ ≠ 0 → f.msg.typ < 9 → ¬wReserved f.msg.typ = true := by
    intro h0 h9 hres
    obtain hz | hbig := Bool.or_eq_true_iff.mp hres
    · exact h0 (of_decide_eq_true hz)
    · exact absurd (of_decide_eq_true hbig) (Nat.not_le.mpr (BitVec.lt_def.mp h9))
  have hgo : f.ready s.now = true → s.whistlePick r o cls = some k → Sparse.get 0 w.done (8 * r + o) ≠ s.now + 1 →
      ¬(!f.ready s.now || decide (s.whistlePick r o cls ≠ some k) || decide (Sparse.get 0 w.done (8 * r + o) = s.now + 1)) = true := by
    intro hready hpick hfree
    rw [hready, decide_eq_false (not_not.mpr hpick), decide_eq_false hfree]
    decide
  refine ⟨fun hf => ?_, fun hf => ⟨fun htyp => ?_, fun h0 h9 hgoes => ⟨fun ho => ?_, fun ho hlast => ?_, fun ho hlast => ?_⟩,
    fun h0 h9 hgoes => ?_⟩⟩
  · change execWhistleFlitHop k s = _
    unfold execWhistleFlitHop
    simp only [show s.whistle.flits[k]? = none from hf]
  · refine (hexec hf).trans (if_pos (Bool.or_eq_true_iff.mpr (htyp.imp decide_eq_true fun h9 => decide_eq_true h9)))
  · obtain ⟨hready, hpick, hfree⟩ := hgoes
    have hgo := (hexec hf).trans ((if_neg (hknown h0 h9)).trans (if_neg (hgo hready hpick hfree)))
    have hnow : stepClass s.now = cls := of_decide_eq_true (Bool.and_eq_true_iff.mp (Bool.and_eq_true_iff.mp hready).1).1
    have hlater := classStep_later (wClass_le f.msg.typ) hnow (n := if h.2.2 = 18 then 8 else 1) (by split <;> decide)
    refine ⟨_, _, hgo.trans (if_pos ho), rfl, rfl, rfl, ?_, rfl, hlater.1, hlater.2, rfl⟩
    exact BitVec.toNat_ofNat ..
  · obtain ⟨hready, hpick, hfree⟩ := hgoes
    refine (hexec hf).trans ((if_neg (hknown h0 h9)).trans ((if_neg (hgo hready hpick hfree)).trans ((if_neg (by omega)).trans ?_)))
    rw [hlast]
    rfl
  · obtain ⟨hready, hpick, hfree⟩ := hgoes
    refine (hexec hf).trans ((if_neg (hknown h0 h9)).trans ((if_neg (hgo hready hpick hfree)).trans ((if_neg (by omega)).trans ?_)))
    rw [hlast]
    rfl
  · refine (hexec hf).trans ((if_neg (hknown h0 h9)).trans (if_pos ?_))
    by_contra hno
    simp only [Bool.or_eq_true, Bool.not_eq_true', decide_eq_true_eq, not_or, Bool.not_eq_false, not_not] at hno
    exact hgoes ⟨hno.1.1, hno.1.2, hno.2⟩

/-! ## Messages that arrive (O37) -/

theorem whistleDeliver_of_ticket {s : State} {m : WMsg} {rd : BitVec 4} (hbridge : m.bridge = false) (htyp : m.typ = 3)
    (hwait : (s.seq m.dst.toNat).wait = .ticket rd) (hpc : (s.seq m.dst.toNat).pc ≠ 4095) :
    s.whistleDeliver m = s.setSeq m.dst.toNat { (s.seq m.dst.toNat).writes s.now rd
      (BitVec.ofNat 64 ((m.body.getD 0 0).toNat + (m.body.getD 1 0).toNat * 2 ^ 32)) with wait := .none } := by
  unfold whistleDeliver
  simp only [hbridge, htyp, hwait]
  refine (if_neg Bool.false_ne_true).trans ((if_neg (by decide)).trans ((if_pos trivial).trans ?_))
  rw [setReg_seq_same, advance_eq _ _ (by rw [setSeq_seq_same]; exact hpc)]
  unfold goesOn
  rw [setSeq_seq_same, setReg, setSeq_setSeq, setSeq_setSeq]
  rfl

theorem whistleDeliver_of_ticket_gone {s : State} {m : WMsg} (hbridge : m.bridge = false) (htyp : m.typ = 3)
    (hwait : ∀ x, (s.seq m.dst.toNat).wait ≠ .ticket x) : s.whistleDeliver m = s := by
  unfold whistleDeliver
  simp only [hbridge, htyp]
  refine (if_neg Bool.false_ne_true).trans ((if_neg (by decide)).trans ((if_pos trivial)))

theorem whistleMessagesArrive : Claim.WhistleMessagesArrive := by
  intro s m rd c k t v off reg
  refine ⟨fun hbridge => if_pos hbridge, fun hbridge htyp hwait hpc => ?_,
    fun hbridge htyp hwait => whistleDeliver_of_ticket_gone hbridge htyp hwait, fun hbridge htyp hbox => ?_,
    fun hbridge h3 h6 => (if_neg (Bool.eq_false_iff.mp hbridge)).trans ((if_neg h6).trans (if_neg h3))⟩
  · have ht : t = _ := whistleDeliver_of_ticket hbridge htyp hwait hpc
    rw [ht]
    exact ⟨rfl, setSeq_seq_same .., fun j hj => setSeq_seq_other _ _ _ hj.symm⟩
  · refine (if_neg (Bool.eq_false_iff.mp hbridge)).trans ((if_pos htyp).trans ?_)
    unfold answerCore
    dsimp only
    rw [show (s.boxOf m.dst.toNat).filter (fun x => x.typ = 7) = [] from hbox]
    rfl

/-! ## Messages that act (O37) -/

theorem acceptArm_of_taken {s : State} {c e list : Nat} (hlist : s.inListRange (list / 16 * 16) = true)
    (h : (s.eng c e).queued ≠ none ∨ ((s.eng c e).active ≠ none ∧ (s.eng c e).reserved ≠ none)) :
    s.acceptArm c e list = s.engReject c e 1 := by
  unfold acceptArm
  dsimp only
  rw [if_neg (by rw [hlist]; decide), if_neg, if_neg]
  · simp only [Bool.and_eq_true, Option.isNone_iff_eq_none]
    exact fun ⟨hq, hr⟩ => h.elim (fun h => h hq) fun h => h.2 hr
  · simp only [Bool.and_eq_true, Option.isNone_iff_eq_none]
    exact fun ⟨ha, hq⟩ => h.elim (fun h => h hq) fun h => h.1 ha

theorem execRemoteArm_of_message {s : State} {c : CoreId} {m : WMsg} (h : ((s.boxOf c.toNat).find? fun x => x.typ = 1) = some m) :
    exec (.remoteArm c) s = .next ((s.unbox c.toNat m).acceptArm c.toNat
      (((m.body.getD 0 0).toNat + (m.body.getD 1 0).toNat * 2 ^ 32) / 2 ^ 42 % 8)
      (((m.body.getD 0 0).toNat + (m.body.getD 1 0).toNat * 2 ^ 32) % 2 ^ 42)) := by
  change execRemoteArm c s = _
  unfold execRemoteArm
  simp only [h, bitsOf_eq]
  rw [pow_zero, Nat.div_one]
  rfl

theorem execControlBlockWrite_of_message {s : State} {c : CoreId} {m : WMsg} (h : ((s.boxOf c.toNat).find? fun x => x.typ = 7) = some m) :
    exec (.controlBlockWrite c) s = .next ((s.unbox c.toNat m).controlWrite c.toNat (m.body.getD 0 0).toNat
      ((m.body.getD 1 0).toNat + (m.body.getD 2 0).toNat * 2 ^ 32)) := by
  change execControlBlockWrite c s = _
  unfold execControlBlockWrite
  simp only [h]
  rfl

theorem bitOf_lowWord (x y : W32) {i : Nat} (hi : i < 32) : bitOf (x.toNat + y.toNat * 2 ^ 32) i = x.getLsbD i := by
  have hmod : (x.toNat + y.toNat * 2 ^ 32) % 2 ^ 32 = x.toNat := by
    have := x.isLt
    omega
  have hbit := Nat.testBit_mod_two_pow (x.toNat + y.toNat * 2 ^ 32) 32 i
  rw [hmod, decide_eq_true hi, Bool.true_and] at hbit
  exact hbit.symm

/-! ## The pack-fatal notice (O37) -/

/-- The state but for the pack-fatal alert and the halt that it sets. -/
def State.besidesFatal (s : State) : State := { s with rng := { s.rng with alerts := [], packFatalAt := none } }

theorem alert_besidesFatal (s : State) (a : AlertSrc) : (s.alert a).besidesFatal = s.besidesFatal := by
  unfold alert
  split <;> rfl

theorem packFatalNotice_besidesFatal (s : State) : s.packFatalNotice.besidesFatal = s.besidesFatal := by
  unfold packFatalNotice
  dsimp only
  split
  · split <;> exact alert_besidesFatal ..
  · rfl

theorem packFatalNotice_of_shown {s : State}
    (h : (s.pack.state = .running || (s.pack.state = .halted && !s.rng.alerts.contains .packFatal)) = true) {due : Nat}
    (hdue : (if s.pack.state = .halted then s.now else s.now + 1048576) = due) :
    AlertSrc.packFatal ∈ s.packFatalNotice.rng.alerts ∧ s.packFatalNotice.rng.packFatalAt = some (s.rng.packFatalAt.getD due) := by
  subst hdue
  have hat : (s.alert .packFatal).rng.packFatalAt = s.rng.packFatalAt :=
    show (s.alert .packFatal).besidesAlerts.rng.packFatalAt = s.besidesAlerts.rng.packFatalAt by rw [alert_besidesAlerts]
  have hshown : AlertSrc.packFatal ∈ (s.alert .packFatal).rng.alerts := mem_alert_self ..
  unfold packFatalNotice
  dsimp only
  rw [if_pos h]
  cases hp : s.rng.packFatalAt with
  | none =>
    rw [if_neg (by rw [hat, hp]; decide)]
    exact ⟨hshown, rfl⟩
  | some n =>
    rw [if_pos (by rw [hat, hp]; rfl)]
    exact ⟨hshown, hat.trans hp⟩

theorem packFatalNotice_of_kept {s : State}
    (h : (s.pack.state = .running || (s.pack.state = .halted && !s.rng.alerts.contains .packFatal)) = false) :
    s.packFatalNotice = s := by
  unfold packFatalNotice
  exact if_neg (Bool.eq_false_iff.mp h)

theorem whistleMessagesAct : Claim.WhistleMessagesAct := by
  intro s c m k v e list g u off arm box notice gone
  refine ⟨fun hm => ⟨fun hlist ha hq => ?_, fun hlist ha hq hr => ?_, fun hlist hfull => ?_, fun hlist => ?_⟩, fun hnone => ?_,
    fun hm => ⟨fun hoff => ?_, fun hoff => ?_⟩, fun hnone => ?_, fun h => ?_, fun hup hm => ?_⟩
  · exact (execRemoteArm_of_message hm).trans (congrArg Host.Outcome.next (acceptArm_of_idle (s := u) hlist ha hq))
  · exact (execRemoteArm_of_message hm).trans (congrArg Host.Outcome.next (acceptArm_of_active (s := u) hlist ha hq hr))
  · exact (execRemoteArm_of_message hm).trans (congrArg Host.Outcome.next (acceptArm_of_taken (s := u) hlist hfull))
  · exact (execRemoteArm_of_message hm).trans (congrArg Host.Outcome.next (acceptArm_of_bad_list (s := u) hlist))
  · change execRemoteArm c s = _
    unfold execRemoteArm
    simp only [show ((s.boxOf c.toNat).find? fun x => x.typ = 1) = none from hnone]
  · refine (execControlBlockWrite_of_message hm).trans (congrArg Host.Outcome.next ((if_pos hoff).trans ?_))
    rw [bitOf_lowWord _ _ (by decide), bitOf_lowWord _ _ (by decide)]
    rfl
  · exact (execControlBlockWrite_of_message hm).trans (congrArg Host.Outcome.next (if_neg hoff))
  · change execControlBlockWrite c s = _
    unfold execControlBlockWrite
    simp only [show ((s.boxOf c.toNat).find? fun x => x.typ = 7) = none from hnone]
  · change execErrorNotice s = _
    unfold execErrorNotice
    obtain h | h := h
    · exact if_pos h
    · simp only [show (s.whistle.bridge.find? fun x => x.typ = 5) = none from h, ite_self]
  · have hexec : exec .errorNotice s = .next gone.packFatalNotice := by
      change execErrorNotice s = _
      unfold execErrorNotice
      refine (if_neg (Bool.eq_false_iff.mp hup)).trans ?_
      simp only [show (s.whistle.bridge.find? fun x => x.typ = 5) = some m from hm]
      rfl
    have hkept : gone.packFatalNotice.besidesFatal = gone.besidesFatal := packFatalNotice_besidesFatal gone
    refine ⟨gone.packFatalNotice, hexec, ?_, fun hrun => ?_, fun hhalt hnew => ?_, fun hhalt hold => ?_, fun hrun hhalt => ?_, ?_, ?_⟩
    · exact show gone.packFatalNotice.besidesFatal.whistle = gone.besidesFatal.whistle from congrArg State.whistle hkept
    · refine packFatalNotice_of_shown (s := gone) ?_ (if_neg ?_)
      · exact Bool.or_eq_true_iff.mpr (.inl (decide_eq_true hrun))
      · exact fun hhalt : s.pack.state = .halted => absurd (hrun.symm.trans hhalt) (by decide)
    · refine packFatalNotice_of_shown (s := gone) ?_ (if_pos hhalt)
      refine Bool.or_eq_true_iff.mpr (.inr (Bool.and_eq_true_iff.mpr ⟨decide_eq_true hhalt, ?_⟩))
      simpa using hnew
    · refine packFatalNotice_of_kept (s := gone) (Bool.or_eq_false_iff.mpr ⟨decide_eq_false ?_, Bool.and_eq_false_iff.mpr (.inr ?_)⟩)
      · exact fun hrun : s.pack.state = .running => absurd (hhalt.symm.trans hrun) (by decide)
      · simpa using hold
    · exact packFatalNotice_of_kept (s := gone)
        (Bool.or_eq_false_iff.mpr ⟨decide_eq_false hrun, Bool.and_eq_false_iff.mpr (.inl (decide_eq_false hhalt))⟩)
    · exact show gone.packFatalNotice.besidesFatal.cores = gone.besidesFatal.cores from congrArg State.cores hkept
    · exact show gone.packFatalNotice.besidesFatal.mem = gone.besidesFatal.mem from congrArg State.mem hkept

/-- Settles O37: a flit hops when its output takes it, and a whole message acts at its destination. -/
theorem whistleWorks : Obligations.WhistleWorks := ⟨whistleFlitsHop, whistleMessagesArrive, whistleMessagesAct⟩

end Sys2Proof.Machine

end

section
/-! PROOFS. O38: Guyline ports train and fail. -/

namespace Sys2Proof.Machine

open State

/-! ## Training (O38) -/

theorem exec_portTrainingDone_of_locked {s : State} {p : Port} {found : LinkFound} (hstate : (s.gport p.val).state = 2)
    (hrtt : found.rttPs ≤ 350000) :
    exec (.portTrainingDone p true found) s = .next ((s.setPort p.val { (s.gport p.val).fresh with
      state := 3, misses := 0, lastTime := s.now, delay := BitVec.ofNat 32 ((found.rttPs * s.rate * 32 + 500000000) / 1000000000),
      inverted := found.inverted, reversed := found.reversed, seeds := s.free }).draw).resync :=
  (if_neg (not_not.mpr hstate)).trans (if_pos ⟨rfl, hrtt⟩)

theorem exec_portTrainingDone_of_miss {s : State} {p : Port} {found : LinkFound} {locked : Bool} (hstate : (s.gport p.val).state = 2)
    (hmiss : locked = false ∨ 350000 < found.rttPs) :
    exec (.portTrainingDone p locked found) s =
      if 2 ≤ (s.gport p.val).misses then
        .next (s.setPort p.val { s.gport p.val with
          state := 4, misses := (s.gport p.val).misses + 1, retryAt := s.nowMs + 1000 })
      else .next (s.setPort p.val { s.gport p.val with misses := (s.gport p.val).misses + 1 }) := by
  have hno : ¬(locked = true ∧ found.rttPs ≤ 350000) := by
    rintro ⟨rfl, hle⟩
    exact hmiss.elim (by decide) (Nat.not_lt.mpr hle)
  exact (if_neg (not_not.mpr hstate)).trans (if_neg hno)

/-- The state once port `n` has failed, but for what its failure means to a pack. -/
def portDown (s : State) (n : Nat) : State :=
  let t := (s.setPort n { s.gport n with state := 4, retryAt := s.nowMs + 1000, replay := [], resend := [], replays := 0 }).resync
  { t with gl := { t.gl with portFail := t.gl.portFail ||| (1 : BitVec 12) <<< n } }

theorem exec_portFail_of_failed {s : State} {p : Port} {lost : Bool} (hstate : (s.gport p.val).state = 3)
    (hlost : lost = true ∨ 16 ≤ (s.gport p.val).replays) :
    exec (.portFail p lost) s = .next
      (if s.gl.usedPorts.contains p.val then (portDown s p.val).packFatalNotice else portDown s p.val) := by
  have hgo : ¬((s.gport p.val).state ≠ 3 ∨ (lost = false ∧ (s.gport p.val).replays < 16)) := by
    rintro (hno | ⟨rfl, hlt⟩)
    · exact hno hstate
    · exact hlost.elim (by decide) (Nat.not_le.mpr hlt)
  exact if_neg hgo

theorem packFatalNotice_gl (s : State) : s.packFatalNotice.gl = s.gl :=
  show s.packFatalNotice.besidesFatal.gl = s.besidesFatal.gl from congrArg State.gl (packFatalNotice_besidesFatal s)

theorem portDown_gport_same (s : State) (n : Nat) : (portDown s n).gport n =
    { s.gport n with state := 4, retryAt := s.nowMs + 1000, replay := [], resend := [], replays := 0 } :=
  s.setPort_gport_same n { s.gport n with state := 4, retryAt := s.nowMs + 1000, replay := [], resend := [], replays := 0 }

theorem portDown_gport_other (s : State) {n m : Nat} (h : m ≠ n) : (portDown s n).gport m = s.gport m :=
  s.setPort_gport_other n { s.gport n with state := 4, retryAt := s.nowMs + 1000, replay := [], resend := [], replays := 0 } h.symm

theorem portDown_portFail (s : State) {n : Nat} (hn : n < 12) : (portDown s n).gl.portFail.getLsbD n = true := by
  have hbit : (s.gl.portFail ||| (1 : BitVec 12) <<< n).getLsbD n = true := by simp [hn]
  exact hbit

theorem gport_of_gl {s t : State} (h : t.gl = s.gl) (n : Nat) : t.gport n = s.gport n := by
  unfold gport
  rw [h]

/-- Settles O38: a port trains from electrical idle, and what it kept for replay is gone when it fails. -/
theorem portsTrainAndFail : Obligations.PortsTrainAndFail := by
  intro s p rtt locked lost reversed inverted n g starts done
  refine ⟨fun h => if_pos h, fun h => if_neg h, fun h => if_pos h, fun hstate hlocked hrtt => ?_,
    fun hstate hmiss hfew => (exec_portTrainingDone_of_miss hstate hmiss).trans (if_neg (Nat.not_le.mpr hfew)),
    fun hstate hmiss hmany => (exec_portTrainingDone_of_miss hstate hmiss).trans (if_pos hmany),
    fun hstate hdue => if_pos ⟨hstate, hdue⟩, fun h => ?_, fun hstate hlost => ?_, fun h => if_pos h⟩
  · subst hlocked
    let h : GPort := { g.fresh with
      state := 3, misses := 0, lastTime := s.now, delay := BitVec.ofNat 32 ((rtt * s.rate * 32 + 500000000) / 1000000000),
      inverted, reversed, seeds := s.free }
    let t := ((s.setPort n h).draw).resync
    have ht : t.gport n = h := s.setPort_gport_same n h
    refine ⟨t, exec_portTrainingDone_of_locked hstate hrtt, ?_⟩
    rw [ht]
    exact ⟨rfl, rfl, rfl, rfl, rfl, rfl, rfl, rfl, rfl, rfl, rfl, fun m hm => s.setPort_gport_other n h hm.symm, rfl⟩
  · refine if_neg fun ⟨hstate, hdue⟩ => ?_
    exact h.elim (fun hno => hno hstate) fun hlt => Nat.not_le.mpr hlt hdue
  · refine ⟨_, exec_portFail_of_failed hstate hlost, ?_⟩
    have hgl : (if s.gl.usedPorts.contains n then (portDown s n).packFatalNotice else portDown s n).gl = (portDown s n).gl := by
      split
      · exact packFatalNotice_gl _
      · rfl
    have hport := gport_of_gl hgl
    rw [hport, portDown_gport_same, hgl]
    refine ⟨rfl, rfl, rfl, portDown_portFail s p.isLt, rfl, fun m hm => (hport m).trans (portDown_gport_other s hm), fun hused hrun => ?_,
      fun hunused => ?_⟩
    · rw [if_pos (List.contains_iff_mem.mpr hused)]
      refine packFatalNotice_of_shown (s := portDown s n) (Bool.or_eq_true_iff.mpr (.inl (decide_eq_true hrun))) (if_neg ?_)
      exact fun hhalt : s.pack.state = .halted => absurd (hrun.symm.trans hhalt) (by decide)
    · rw [if_neg (fun hc => hunused (List.contains_iff_mem.mp hc))]
      rfl

end Sys2Proof.Machine

end

section
/-! PROOFS. O39: flits between two ports. -/

namespace Sys2Proof.Machine

open State

/-! ## Blocks that leave a port (O39) -/

theorem sendBlock_setPort (s : State) (p : Port) (h : GPort) (moves : Bool) (b : PBlock) :
    (s.setPort p.val h).sendBlock p moves b =
      (s.setPort p.val { h with blockNo := h.blockNo + 1, pos := if moves then (h.pos + 1) % 40 else h.pos }).emit (.block p b) := by
  unfold sendBlock
  dsimp only
  rw [setPort_gport_same, setPort_setPort]

section
variable {s : State} {p : Port}

theorem flitPosition_of_block {b : PBlock} {bs : List PBlock} (h : (s.gport p.val).cur = b :: bs) :
    s.flitPosition p false = (s.setPort p.val { s.gport p.val with
      pos := ((s.gport p.val).pos + 1) % 40, blockNo := (s.gport p.val).blockNo + 1, cur := bs }).emit (.block p b) := by
  unfold flitPosition
  simp only [h, Bool.false_eq_true, if_false]
  exact sendBlock_setPort ..

theorem flitPosition_of_dpkBlock {b : PBlock} {bs : List PBlock} (h : (s.gport p.val).curDpk = b :: bs) :
    s.flitPosition p true = (s.setPort p.val { s.gport p.val with
      pos := ((s.gport p.val).pos + 1) % 40, blockNo := (s.gport p.val).blockNo + 1, curDpk := bs }).emit (.block p b) := by
  unfold flitPosition
  simp only [h, if_true]
  exact sendBlock_setPort ..

theorem flitPosition_of_flit (h : (s.gport p.val).cur = []) {f : Flit} {g : GPort} (hnext : nextFlit (s.gport p.val) false = some (f, g)) :
    s.flitPosition p false = (s.setPort p.val { g with
      pos := (g.pos + 1) % 40, blockNo := g.blockNo + 1, cur := f.blocks }).emit (.block p { ctl := 0, data := f.header }) := by
  unfold flitPosition
  simp only [h, hnext, Bool.false_eq_true, if_false]
  exact sendBlock_setPort ..

theorem flitPosition_of_dpkFlit (h : (s.gport p.val).curDpk = []) {f : Flit} {g : GPort}
    (hnext : nextFlit (s.gport p.val) true = some (f, g)) :
    s.flitPosition p true = (s.setPort p.val { g with
      pos := (g.pos + 1) % 40, blockNo := g.blockNo + 1, curDpk := f.blocks }).emit (.block p { ctl := 0, data := f.header }) := by
  unfold flitPosition
  simp only [h, hnext, if_true]
  exact sendBlock_setPort ..

theorem flitPosition_of_none {dpk : Bool} (h : (if dpk then (s.gport p.val).curDpk else (s.gport p.val).cur) = [])
    (hnext : nextFlit (s.gport p.val) dpk = none) : s.flitPosition p dpk = s.sendBlock p true idleBlock := by
  unfold flitPosition
  simp only [h, hnext]

end

section
variable {g : GPort} {dpk : Bool} {f : Flit} {rest : List Flit}

theorem nextFlit_of_resend (h : g.resend = f :: rest) (hdpk : (FHead.ofBits f.header).dpk = dpk) :
    nextFlit g dpk = some (f, { g with resend := rest }) := by
  unfold nextFlit
  simp only [h]
  exact if_pos hdpk

theorem nextFlit_of_other_resend (h : g.resend = f :: rest) (hdpk : (FHead.ofBits f.header).dpk ≠ dpk) : nextFlit g dpk = none := by
  unfold nextFlit
  simp only [h]
  exact if_neg hdpk

theorem nextFlit_of_new (hresend : g.resend = []) (h : (if dpk then g.dpkTxq else g.txq) = f :: rest) (hcredits : g.credits ≠ 0)
    (hkept : g.replay.length < 256) :
    nextFlit g dpk = some (f.sealed g.seq, if dpk then
      { g with credits := g.credits - 1, seq := g.seq + 1, replay := g.replay ++ [f.sealed g.seq], dpkTxq := rest }
      else { g with credits := g.credits - 1, seq := g.seq + 1, replay := g.replay ++ [f.sealed g.seq], txq := rest }) := by
  have hgo : ¬(g.credits = 0 ∨ 256 ≤ g.replay.length) := by omega
  unfold nextFlit
  simp only [hresend, h]
  exact if_neg hgo

theorem nextFlit_of_held (hresend : g.resend = [])
    (h : (if dpk then g.dpkTxq else g.txq) = [] ∨ g.credits = 0 ∨ 256 ≤ g.replay.length) : nextFlit g dpk = none := by
  unfold nextFlit
  simp only [hresend]
  split
  · next f rest hq => exact if_pos (h.resolve_left fun hnil => by rw [hq] at hnil; cases hnil)
  · rfl

end

theorem verifyFlit_gl (s : State) (h : FHead) (ps : List Parcel) : (s.verifyFlit h ps).1.gl = s.gl := by
  unfold verifyFlit
  refine foldl_keeps (fun x : State × List Parcel => x.1.gl) (fun y _ x => ?_) (s, [])
  dsimp only
  split <;> rfl

theorem queueFlit_gport (s : State) (n : Nat) (h : FHead) (ps : List Parcel) :
    ∃ q dq, (s.queueFlit n h ps).gport n = { s.gport n with txq := q, dpkTxq := dq } := by
  have hsame : (s.verifyFlit h ps).1.gport n = s.gport n := gport_of_gl (verifyFlit_gl s h ps) n
  unfold queueFlit
  dsimp only
  rw [setPort_gport_same, hsame]
  split
  · exact ⟨_, _, rfl⟩
  · exact ⟨_, _, rfl⟩

theorem flushEdge_gport {s : State} {n : Nat} {x : Nat × Nat × FHead × List Parcel} (h : (s.gport n).lastEdge = some x) :
    ∃ q dq, (s.flushEdge n).gport n = { s.gport n with lastEdge := none, txq := q, dpkTxq := dq } := by
  obtain ⟨at_, plane, head, ps⟩ := x
  unfold flushEdge
  simp only [h]
  obtain ⟨q, dq, hq⟩ := queueFlit_gport (s.setPort n { s.gport n with lastEdge := none }) n head ps
  rw [setPort_gport_same] at hq
  exact ⟨q, dq, hq⟩

theorem lastEdge_not_due {s : State} {p : Port} (hedge : ∀ x, (s.gport p.val).lastEdge = some x → s.now ≤ x.1) :
    ¬((s.gport p.val).lastEdge.any fun x => decide (x.1 < s.now)) = true := by
  cases h : (s.gport p.val).lastEdge with
  | none => exact Bool.false_ne_true
  | some x =>
    have := hedge x h
    simpa using this

section
variable {s : State} {p : Port} (hup : (s.gport p.val).state = 3)
include hup

theorem exec_flitTransmit_of_due {x : Nat × Nat × FHead × List Parcel} (hx : (s.gport p.val).lastEdge = some x) (hdue : x.1 < s.now) :
    exec (.flitTransmit p) s = exec (.flitTransmit p) (s.flushEdge p.val) := by
  obtain ⟨q, dq, hq⟩ := flushEdge_gport hx
  have hstate : ((s.flushEdge p.val).gport p.val).state = 3 := by rw [hq]; exact hup
  have hnone : ¬(((s.flushEdge p.val).gport p.val).lastEdge.any fun x => decide (x.1 < (s.flushEdge p.val).now)) = true := by
    rw [hq]
    exact Bool.false_ne_true
  have hany : ((s.gport p.val).lastEdge.any fun x => decide (x.1 < s.now)) = true := by
    rw [hx]
    exact decide_eq_true hdue
  change execFlitTransmit p s = execFlitTransmit p (s.flushEdge p.val)
  unfold execFlitTransmit
  dsimp only
  rw [if_neg (not_not.mpr hup), if_neg (not_not.mpr hstate), if_pos hany, if_neg hnone]

variable (hedge : ∀ x, (s.gport p.val).lastEdge = some x → s.now ≤ x.1)
include hedge

theorem exec_flitTransmit_of_sym {y : SentSym} (hsym : ((s.gport p.val).syms.find? fun y => y.sentAt.isNone) = some y) :
    exec (.flitTransmit p) s = .next ((s.setPort p.val { s.gport p.val with
      blockNo := (s.gport p.val).blockNo + 1,
      syms := (s.gport p.val).syms.map fun (z : SentSym) =>
        if z.sseq = y.sseq then { z with sentAt := some (s.gport p.val).blockNo } else z }).emit
          (.block p { ctl := 0x80, data := symPayload y.stype y.sseq.toNat (s.symFields p.val y.stype y.fields) })) := by
  change execFlitTransmit p s = _
  unfold execFlitTransmit
  dsimp only
  rw [if_neg (not_not.mpr hup), if_neg (lastEdge_not_due hedge)]
  simp only [hsym]
  exact congrArg Host.Outcome.next (sendBlock_setPort ..)

theorem exec_flitTransmit_of_no_sym (hsym : ((s.gport p.val).syms.find? fun y => y.sentAt.isNone) = none) :
    exec (.flitTransmit p) s = .next (if (s.gport p.val).pos < 36 then s.flitPosition p false
      else if (s.gport p.val).pos < 38 then s.flitPosition p true else s.ctlPosition p) := by
  change execFlitTransmit p s = _
  unfold execFlitTransmit
  dsimp only
  rw [if_neg (not_not.mpr hup), if_neg (lastEdge_not_due hedge)]
  simp only [hsym]

end

theorem ctlPosition_of_symbol {s : State} {p : Port} {st fields : Nat} {ctl : List (Nat × Nat)}
    (h : (s.gport p.val).ctlq = (st, fields) :: ctl) :
    s.ctlPosition p = (s.setPort p.val { s.gport p.val with
      pos := ((s.gport p.val).pos + 1) % 40, blockNo := (s.gport p.val).blockNo + 1, ctlq := ctl }).emit
        (.block p { ctl := 0x80, data := symPayload st (s.gport p.val).sseq.toNat (s.symFields p.val st fields) }) := by
  unfold ctlPosition
  simp only [h]
  exact sendBlock_setPort ..

theorem ctlPosition_of_nil {s : State} {p : Port} (h : (s.gport p.val).ctlq = []) : s.ctlPosition p = s.sendBlock p true idleBlock := by
  unfold ctlPosition
  simp only [h]

theorem blocksLeave : Claim.BlocksLeave := by
  intro s p f rest b bs y st fields ctl n g moved head sent idle tx
  refine ⟨fun h => if_pos h, fun hup ⟨x, hx, hdue⟩ => exec_flitTransmit_of_due hup hx hdue,
    fun hup hedge => ⟨fun hsym => exec_flitTransmit_of_sym hup hedge hsym, fun hsym => ?_⟩⟩
  have hexec := exec_flitTransmit_of_no_sym hup hedge hsym
  have hflit : g.pos < 36 → tx = .next (s.flitPosition p false) := fun hpos => hexec.trans (congrArg Host.Outcome.next (if_pos hpos))
  have hdpk : 36 ≤ g.pos → g.pos < 38 → tx = .next (s.flitPosition p true) := fun hlo hhi =>
    hexec.trans (congrArg Host.Outcome.next ((if_neg (Nat.not_lt.mpr hlo)).trans (if_pos hhi)))
  have hctl : 38 ≤ g.pos → tx = .next (s.ctlPosition p) := fun hlo =>
    hexec.trans (congrArg Host.Outcome.next ((if_neg (Nat.not_lt.mpr (le_trans (by decide) hlo))).trans (if_neg (Nat.not_lt.mpr hlo))))
  refine ⟨fun hpos hcur => ?_, fun hpos hcur hre hd => ?_, fun hpos hcur hre hq hcr hrep => ?_, fun hpos hcur hre hno => ?_,
    fun hpos hcur hre hd => ?_, fun hlo hhi hcur => ?_, fun hlo hhi hcur hre hd => ?_, fun hlo hhi hcur hre hq hcr hrep => ?_,
    fun hlo hhi hcur hre hno => ?_, fun hlo hhi hcur hre hd => ?_, fun hlo hq => ?_, fun hlo hq => ?_⟩
  · exact (hflit hpos).trans (congrArg Host.Outcome.next (flitPosition_of_block hcur))
  · exact (hflit hpos).trans (congrArg Host.Outcome.next (flitPosition_of_flit hcur (nextFlit_of_resend hre hd)))
  · exact (hflit hpos).trans (congrArg Host.Outcome.next (flitPosition_of_flit hcur (nextFlit_of_new (dpk := false) hre hq hcr hrep)))
  · exact (hflit hpos).trans (congrArg Host.Outcome.next (flitPosition_of_none hcur (nextFlit_of_held (dpk := false) hre hno)))
  · exact (hflit hpos).trans (congrArg Host.Outcome.next
      (flitPosition_of_none hcur (nextFlit_of_other_resend hre (by rw [hd]; decide))))
  · exact (hdpk hlo hhi).trans (congrArg Host.Outcome.next (flitPosition_of_dpkBlock hcur))
  · exact (hdpk hlo hhi).trans (congrArg Host.Outcome.next (flitPosition_of_dpkFlit hcur (nextFlit_of_resend hre hd)))
  · exact (hdpk hlo hhi).trans (congrArg Host.Outcome.next
      (flitPosition_of_dpkFlit hcur (nextFlit_of_new (dpk := true) hre hq hcr hrep)))
  · exact (hdpk hlo hhi).trans (congrArg Host.Outcome.next
      (flitPosition_of_none (dpk := true) hcur (nextFlit_of_held (dpk := true) hre hno)))
  · exact (hdpk hlo hhi).trans (congrArg Host.Outcome.next
      (flitPosition_of_none (dpk := true) hcur (nextFlit_of_other_resend hre (by rw [hd]; decide))))
  · exact (hctl hlo).trans (congrArg Host.Outcome.next (ctlPosition_of_symbol hq))
  · exact (hctl hlo).trans (congrArg Host.Outcome.next (ctlPosition_of_nil hq))

/-! ## Flits that arrive (O39) -/

theorem flitsAreTaken : Claim.FlitsAreTaken := by
  intro s p ok fixed header blocks d n g f t off good nak rx
  have hrx : blocks.length ≤ 8 → g.state = 3 → rx = .next
      (if (ok && f.ok) = true then
        (if off = 0 ∧ g.rxq.length < 128 then t.setPort n { g with rxq := g.rxq ++ [f], rxExp := g.rxExp + 1, nakOut := none }
         else if off = 0 then t else t.discardFlit n (some off))
       else t.discardFlit n (if g.nakOut.isSome ∧ off = 0 then some 0 else none)) := by
    intro hlen hup
    refine (if_neg (Nat.not_lt.mpr hlen)).trans ((if_neg (not_not.mpr hup)).trans ?_)
    by_cases hgood : good
    · by_cases hnext : off = 0 ∧ g.rxq.length < 128
      · exact (if_pos hgood).trans ((if_pos hnext).trans (congrArg Host.Outcome.next ((if_pos hgood).trans (if_pos hnext)).symm))
      · exact (if_pos hgood).trans ((if_neg hnext).trans (congrArg Host.Outcome.next ((if_pos hgood).trans (if_neg hnext)).symm))
    · exact (if_neg hgood).trans (congrArg Host.Outcome.next (if_neg hgood).symm)
  have hdiscard : ∀ off, t.discardFlit n off = match g.nakOut, off with
      | none, none => nak 0
      | none, some _ => t
      | some d, none => t.setPort n { g with nakOut := some (d + 1) }
      | some d, some o => if o ≤ d then nak o else t.setPort n { g with nakOut := some o } := fun _ => rfl
  refine ⟨fun hlen => if_pos hlen, fun hlen hdown => (if_neg (Nat.not_lt.mpr hlen)).trans (if_pos hdown), fun hlen hup =>
    ⟨fun hgood hoff hroom => ?_, fun hgood hoff hfull => ?_, fun hgood hoff hnak => ?_, fun hbad hnak => ?_, fun hnak hlater =>
      ⟨fun hagain => ?_, fun hgood hfar => ?_, fun hbad hoff => ?_⟩⟩⟩
  all_goals refine (hrx hlen hup).trans (congrArg Host.Outcome.next ?_)
  · exact (if_pos hgood).trans (if_pos ⟨hoff, hroom⟩)
  · exact (if_pos hgood).trans ((if_neg fun h => Nat.not_lt.mpr hfull h.2).trans (if_pos hoff))
  · refine (if_pos hgood).trans ((if_neg fun h => hoff h.1).trans ((if_neg hoff).trans ?_))
    rw [hdiscard, hnak]
  · refine (if_neg hbad).trans ?_
    rw [hdiscard, hnak]
    rfl
  · by_cases hgood : good
    · have hoff := hlater hgood
      have hle : off ≤ d := hagain.elim (fun h => absurd h hoff) fun h => h.2
      refine (if_pos hgood).trans ((if_neg fun h => hoff h.1).trans ((if_neg hoff).trans ?_))
      rw [hdiscard, hnak, if_pos hgood]
      exact if_pos hle
    · have hoff : off = 0 := hagain.elim id fun h => absurd h.1 hgood
      refine (if_neg hgood).trans ?_
      rw [if_pos ⟨by rw [hnak]; rfl, hoff⟩, hdiscard, hnak, if_neg hgood]
      exact if_pos (Nat.zero_le d)
  · have hoff := hlater hgood
    refine (if_pos hgood).trans ((if_neg fun h => hoff h.1).trans ((if_neg hoff).trans ?_))
    rw [hdiscard, hnak]
    exact if_neg (Nat.not_le.mpr hfar)
  · refine (if_neg hbad).trans ?_
    rw [if_neg fun h => hoff h.2, hdiscard, hnak]

/-! ## Acknowledgements (O39) -/

theorem flitsAreAcknowledged : Claim.FlitsAreAcknowledged := by
  intro s p payload y n g x first k firstSym j keep due counted
  have hsym : ∀ {t : Nat}, (g.state ≠ 3 ∨ State.symOk payload t = false) → (!s.portUp n || !State.symOk payload t) = true := by
    rintro t (h | h)
    · rw [show s.portUp n = false from decide_eq_false h]
      rfl
    · rw [h, Bool.not_false, Bool.or_true]
  have hup : ∀ {t : Nat}, g.state = 3 → State.symOk payload t = true → ¬(!s.portUp n || !State.symOk payload t) = true := by
    intro t h ht
    rw [show s.portUp n = true from decide_eq_true h, ht]
    decide
  refine ⟨fun hstate hok => ?_, fun h => if_pos (hsym h), fun hstate hok hkeep => ?_, fun h => ?_, fun hstate hdue => ?_, fun h => ?_⟩
  · let k' := if k ≤ g.replay.length then k else 0
    let j' := if j ≤ g.syms.length then j else 0
    have hk : k ≤ g.replay.length → k' = k := fun hle => if_pos hle
    have hj : j ≤ g.syms.length → j' = j := fun hle => if_pos hle
    have hk0 : g.replay.length < k → k' = 0 := fun hlt => if_neg (Nat.not_le.mpr hlt)
    have hj0 : g.syms.length < j → j' = 0 := fun hlt => if_neg (Nat.not_le.mpr hlt)
    refine ⟨{ g with
        replay := g.replay.drop k', replays := if k' = 0 then g.replays else 0,
        credits := min 128 (g.credits + x / 2 ^ 220 % 256), syms := g.syms.drop j' }, ?_, rfl, fun hle => ⟨?_, fun hpos => ?_, fun hz => ?_⟩,
      fun hlt => ⟨?_, ?_⟩, fun hle => ?_, fun hlt => ?_⟩
    · refine (if_neg (hup hstate hok)).trans ?_
      simp only [bitsOf_eq]
      rfl
    · exact congrArg (List.drop · g.replay) (hk hle)
    · exact if_neg (by rw [hk hle]; exact hpos.ne')
    · exact if_pos ((hk hle).trans hz)
    · exact congrArg (List.drop · g.replay) (hk0 hlt)
    · exact if_pos (hk0 hlt)
    · exact congrArg (List.drop · g.syms) (hj hle)
    · exact congrArg (List.drop · g.syms) (hj0 hlt)
  · refine (if_neg (hup hstate hok)).trans ((if_neg ?_).trans ?_)
    · rw [bitsOf_eq, List.isEmpty_iff]
      exact hkeep
    · simp only [bitsOf_eq]
      rfl
  · by_cases hgo : (!s.portUp n || !State.symOk payload 0x02) = true
    · exact if_pos hgo
    · have hempty : keep = [] := by
        obtain hno | hno | hempty := h
        · exact absurd (hsym (.inl hno)) hgo
        · exact absurd (hsym (.inr hno)) hgo
        · exact hempty
      refine (if_neg hgo).trans (if_pos ?_)
      rw [bitsOf_eq, List.isEmpty_iff]
      exact hempty
  · change execSymbolResend p s = _
    unfold execSymbolResend
    simp only [show ((s.gport p.val).syms.find? fun y => y.sentAt.any fun t => decide (t + 64 ≤ (s.gport p.val).blockNo)) = some y from hdue]
    exact if_pos hstate
  · change execSymbolResend p s = _
    unfold execSymbolResend
    dsimp only
    split
    · next z hz => exact if_neg (h.resolve_right fun hnone => by cases hz.symm.trans hnone)
    · rfl

/-! ## Flits at the edge router (O39) -/

theorem routeExits_setPort (s : State) (n : Nat) (v : GPort) : ∀ fuel plane router input step,
    (s.setPort n v).routeExits fuel plane router input step = s.routeExits fuel plane router input step := by
  intro fuel
  induction fuel with
  | zero => intros; rfl
  | succ fuel ih =>
    intro plane router input step
    unfold routeExits
    simp only [ih]
    rfl

theorem routePort_setPort {s : State} {n : Nat} {v : GPort} (hv : v.state = (s.gport n).state) (m : Nat) :
    (s.setPort n v).routePort m = s.routePort m := by
  have hstate : ∀ e, ((s.setPort n v).gport e).state = (s.gport e).state := by
    intro e
    by_cases he : n = e
    · subst he
      rw [setPort_gport_same, hv]
    · rw [setPort_gport_other _ _ _ he]
  unfold routePort
  simp only [hstate]
  rfl

theorem flitExits_setPort {s : State} {n : Nat} {v : GPort} (hv : v.state = (s.gport n).state) (h : FHead) :
    (s.setPort n v).flitExits h = s.flitExits h := by
  unfold flitExits awayExit
  simp only [routePort_setPort hv]
  rfl

/-- Has the slot of a flit passed empty, or did the tables give its route a slot `past` steps ago? -/
def flitMissed (s : State) (n : Nat) (h : FHead) (past : Nat) : Prop :=
  (∃ x ∈ s.flitExits h, Sparse.get false s.trail.missed (State.routeKey x.1 (portRouter n) x.2) = true) ∨
    (0 < past ∧ s.trail.phaseBase + past ≤ s.now ∧
      ∃ x ∈ s.flitExits h, x.2 ∈ s.routeExits 256 x.1 (portRouter n) 6 (s.now - past))

section
variable {s : State} {n : Nat} {v : GPort} {h : FHead} {past : Nat} (hv : v.state = (s.gport n).state)
include hv

theorem late_iff :
    (((((s.setPort n v).flitExits h).map fun x => routeKey x.1 (portRouter n) x.2).any
        fun k => Sparse.get false (s.setPort n v).trail.missed k) || (s.setPort n v).slotWas n h past) = true ↔ flitMissed s n h past := by
  have hexits : (s.setPort n v).flitExits h = s.flitExits h := flitExits_setPort hv h
  have htrail : (s.setPort n v).trail = s.trail := rfl
  have hnow : (s.setPort n v).now = s.now := rfl
  unfold slotWas flitMissed
  simp only [hexits, htrail, hnow, routeExits_setPort, List.any_map, Bool.or_eq_true, Bool.and_eq_true, decide_eq_true_eq,
    List.any_eq_true, Function.comp, List.contains_iff_mem, and_assoc]

theorem countLate_of_missed (hmissed : flitMissed s n h past) :
    ((s.setPort n v).countLate n h past).gl = { (s.setPort n v).gl with lateFlit := s.gl.lateFlit + 1 } := by
  unfold countLate
  dsimp only
  rw [if_pos ((late_iff hv).mpr hmissed)]
  rfl

theorem countLate_of_not_missed (hmissed : ¬flitMissed s n h past) :
    (s.setPort n v).countLate n h past = s.setPort n v := by
  unfold countLate
  exact if_neg fun hlate => hmissed ((late_iff hv).mp hlate)

theorem countLate_gport :
    ((s.setPort n v).countLate n h past).gport n = v := by
  by_cases hmissed : flitMissed s n h past
  · unfold gport
    rw [countLate_of_missed hv hmissed]
    exact s.setPort_gport_same n v
  · rw [countLate_of_not_missed hv hmissed, setPort_gport_same]

end

/-- The state in which the port's edge list is `e`, the flit is off the receive buffer, and a late one has been counted. -/
def State.atEdge (s : State) (n : Nat) (f : Flit) (rest : List Flit) (past : Nat) (e : List Flit) : State :=
  (s.setPort n { s.gport n with rxq := rest, edge := e }).countLate n (FHead.ofBits f.header) past

theorem countLate_ownId (s : State) (n : Nat) (h : FHead) (past : Nat) : (s.countLate n h past).ownId = s.ownId := by
  unfold countLate
  dsimp only
  split <;> rfl

theorem countLate_mem (s : State) (n : Nat) (h : FHead) (past : Nat) : (s.countLate n h past).mem = s.mem := by
  unfold countLate
  dsimp only
  split <;> rfl

theorem exec_flitEdgeDeliver_of_cons {s : State} {p : Port} {past : Nat} {f : Flit} {rest e : List Flit}
    (hq : (s.gport p.val).rxq = f :: rest)
    (hedge : (if ((decide ((FHead.ofBits f.header).dmod = s.ownId) && decide (1 ≤ (FHead.ofBits f.header).ftype ∧
        (FHead.ofBits f.header).ftype ≤ 6)) || decide ((FHead.ofBits f.header).ftype = 4)) = true
      then (s.gport p.val).edge ++ [f] else (s.gport p.val).edge) = e)
    {u : State} (hu : (if (FHead.ofBits f.header).dmod = s.ownId ∨ (FHead.ofBits f.header).ftype = 4
      then s.atEdge p.val f rest past e else (s.atEdge p.val f rest past e).passOn p.val f) = u) :
    exec (.flitEdgeDeliver p past) s = .next (if (s.gport p.val).state = 3 then u.sendAck p.val 1 else u) := by
  subst hedge hu
  change execFlitEdgeDeliver p past s = _
  unfold execFlitEdgeDeliver
  simp only [hq, countLate_ownId]
  rfl

theorem flitsAreDelivered : Claim.FlitsAreDelivered := by
  intro s p past f rest n g h stays t u missed
  have hkeep : ((decide (h.dmod = s.ownId) && decide (1 ≤ h.ftype ∧ h.ftype ≤ 6)) || decide (h.ftype = 4)) = true ↔ stays := by
    simp only [Bool.or_eq_true, Bool.and_eq_true, decide_eq_true_eq]
    exact Iff.rfl
  have hedge : (if ((decide (h.dmod = s.ownId) && decide (1 ≤ h.ftype ∧ h.ftype ≤ 6)) || decide (h.ftype = 4)) = true
      then g.edge ++ [f] else g.edge) = if stays then g.edge ++ [f] else g.edge := by
    by_cases hs : stays
    · exact (if_pos (hkeep.mpr hs)).trans (if_pos hs).symm
    · exact (if_neg fun hk => hs (hkeep.mp hk)).trans (if_neg hs).symm
  have hexec : g.rxq = f :: rest → exec (.flitEdgeDeliver p past) s = .next (if g.state = 3 then u.sendAck n 1 else u) :=
    fun hq => exec_flitEdgeDeliver_of_cons hq hedge rfl
  refine ⟨fun hq => ?_, fun hq => ⟨fun hup => ?_, fun hdown => ?_, fun hup hstays => ?_⟩⟩
  · change execFlitEdgeDeliver p past s = _
    unfold execFlitEdgeDeliver
    simp only [show (s.gport p.val).rxq = [] from hq]
  · exact (hexec hq).trans (congrArg Host.Outcome.next (if_pos hup))
  · exact (hexec hq).trans (congrArg Host.Outcome.next (if_neg hdown))
  · have hut : u = s.atEdge n f rest past (g.edge ++ [f]) :=
      (if_pos (hstays.imp And.left id)).trans
        (congrArg (fun e => s.atEdge n f rest past e) (if_pos hstays))
    have hport : (s.atEdge n f rest past (g.edge ++ [f])).gport n = { g with rxq := rest, edge := g.edge ++ [f] } :=
      countLate_gport (s := s) (n := n) (v := { g with rxq := rest, edge := g.edge ++ [f] }) rfl
    have hacked : (u.sendAck n 1).gport n = { g with rxq := rest, edge := g.edge ++ [f], ctlq := g.ctlq ++ [(1, 1)] } := by
      rw [hut]
      exact (setPort_gport_same _ _ _).trans (congrArg (fun v : GPort => { v with ctlq := v.ctlq ++ [(1, 1)] }) hport)
    have hlate : (u.sendAck n 1).gl.lateFlit = (s.atEdge n f rest past (g.edge ++ [f])).gl.lateFlit := by
      rw [hut]
      rfl
    refine ⟨u.sendAck n 1, (hexec hq).trans (congrArg Host.Outcome.next (if_pos hup)), fun hmissed => ?_, fun hmissed => ?_,
      congrArg GPort.edge hacked, congrArg GPort.rxq hacked, congrArg GPort.ctlq hacked, ?_⟩
    · exact hlate.trans (congrArg Guyline.lateFlit
        (countLate_of_missed (s := s) (v := { g with rxq := rest, edge := g.edge ++ [f] }) rfl hmissed))
    · have hkept : s.atEdge n f rest past (g.edge ++ [f]) = s.setPort n { g with rxq := rest, edge := g.edge ++ [f] } :=
        countLate_of_not_missed (s := s) (v := { g with rxq := rest, edge := g.edge ++ [f] }) rfl hmissed
      exact hlate.trans (by rw [hkept]; rfl)
    · exact (congrArg (fun t : State => (t.sendAck n 1).mem) hut).trans (countLate_mem _ _ _ _)

/-- Settles O39: a port sends one block at a time, keeps each flit until it is acknowledged, and takes the next in order only. -/
theorem flitsInOrder : Obligations.FlitsInOrder := ⟨blocksLeave, flitsAreTaken, flitsAreAcknowledged, flitsAreDelivered⟩

end Sys2Proof.Machine

end

section
/-! PROOFS. Delivered flits act by their type: reads, answers, writes and split nodes of other modules. -/

namespace Sys2Proof.Machine
open State

/-! ## The oldest delivered flit (O40) -/

section
variable {s : State} {p : Nat} {f : Flit} {rest : List Flit} {ftype : Nat}

theorem takeFlit_of_type (hedge : (s.gport p).edge = f :: rest) (htype : (FHead.ofBits f.header).ftype = ftype) :
    s.takeFlit p ftype = some (FHead.ofBits f.header, f.blocks, s.setPort p { s.gport p with edge := rest }) := by
  unfold takeFlit
  simp only [hedge]
  exact if_pos htype

theorem takeFlit_of_none (h : (s.gport p).edge = [] ∨ ((s.gport p).edge = f :: rest ∧ (FHead.ofBits f.header).ftype ≠ ftype)) :
    s.takeFlit p ftype = none := by
  unfold takeFlit
  rcases h with hedge | ⟨hedge, htype⟩
  · simp only [hedge]
  · simp only [hedge]
    exact if_neg htype

end

theorem remoteReads : Claim.RemoteReads := by
  intro s p f rest i d u n g h taken a ask src
  refine ⟨fun hedge htype => ?_, fun hnone => ?_, fun hkey => ?_, fun hkey hdpk => ?_, fun hkey hdpk hexit => ?_⟩
  · change execReadReq p s = _
    unfold execReadReq
    rw [takeFlit_of_type hedge htype]
    rfl
  · change execReadReq p s = _
    unfold execReadReq
    rw [takeFlit_of_none hnone]
  · exact if_pos (by rw [hkey]; rfl)
  · have hsome : ¬(u.keyOf a).isNone = true := by
      rw [Option.isSome_iff_exists] at hkey
      obtain ⟨k, hk⟩ := hkey
      rw [hk]
      exact Bool.false_ne_true
    exact (if_neg hsome).trans (if_pos hdpk)
  · have hsome : ¬(u.keyOf a).isNone = true := by
      rw [Option.isSome_iff_exists] at hkey
      obtain ⟨k, hk⟩ := hkey
      rw [hk]
      exact Bool.false_ne_true
    have hpkt : u.pktExit { flow := .request (readReq a (.remote ask) none (some src)), addr := a, parcel := {} } = some d := hexit
    exact (if_neg hsome).trans ((if_neg (by rw [hdpk]; exact Bool.false_ne_true)).trans (putPkt_of_exit hpkt _ _))

theorem remoteAnswers : Claim.RemoteAnswers := by
  intro s p f rest d n g h taken e key has
  have hdata : ∀ t, s.takeFlit n 3 = some (h, f.blocks, t) → exec (.readData p) s = .next ((flitParcels h f.blocks).foldl (fun s x =>
      if h.dpk then s.dpkAnswer h.core (globalKey h.smod x.2.1) (portRouter n) x.2.2
      else s.putEdge n x.1 { flow := .away { h with vmask := 1, addr := x.2.1 }, addr := x.2.1, parcel := x.2.2 }) t) := by
    intro t ht
    change execReadData p s = _
    unfold execReadData
    rw [ht]
  refine ⟨fun hedge htype hdpk => ?_, fun hedge htype hdpk => ?_, fun hnone => ?_, fun hedge htype hdpk => ?_, fun hedge htype hdpk hhas => ?_,
    fun hedge htype hdpk hhas => ?_, fun hnone => ?_⟩
  · rw [hdata taken (takeFlit_of_type hedge htype)]
    simp only [hdpk, Bool.false_eq_true, if_false]
  · rw [hdata taken (takeFlit_of_type hedge htype)]
    simp only [hdpk, if_true]
  · change execReadData p s = _
    unfold execReadData
    rw [takeFlit_of_none hnone]
  · change execWriteDone p s = _
    unfold execWriteDone
    rw [takeFlit_of_type hedge htype]
    exact if_neg (by rw [show (FHead.ofBits f.header).dpk = false from hdpk]; exact Bool.false_ne_true)
  · change execWriteDone p s = _
    unfold execWriteDone
    rw [takeFlit_of_type hedge htype]
    refine (if_pos hdpk).trans ?_
    split
    · rename_i found hfound
      cases hfound.symm.trans hhas
      rfl
    · rename_i hfound
      cases hfound.symm.trans hhas
  · change execWriteDone p s = _
    unfold execWriteDone
    rw [takeFlit_of_type hedge htype]
    refine (if_pos hdpk).trans ?_
    split
    · rename_i found hfound
      cases hfound.symm.trans hhas
    · rfl
  · change execWriteDone p s = _
    unfold execWriteDone
    rw [takeFlit_of_none hnone]

theorem remoteWrites : Claim.RemoteWrites := by
  intro s p f rest i d id q u n g h taken ps a src nw started request
  refine ⟨fun hedge htype => ⟨fun hfull => ?_, fun hroom hps => ?_, fun hps => ?_⟩, fun hnone => ?_, fun hw hl hdpk => ?_,
    fun hw hl hdpk hexit => ?_, fun hw => ?_, fun hw hl => ?_, fun w hfound => ⟨fun hleft => ?_, fun hleft => ?_⟩⟩
  · change execWrite p s = _
    unfold execWrite
    rw [takeFlit_of_type hedge htype]
    exact if_pos (List.any_eq_true.mpr hfull)
  · change execWrite p s = _
    unfold execWrite
    rw [takeFlit_of_type hedge htype]
    have hnot : ¬(ps.any fun x => s.holdFull x.2.1) = true := fun hany => by
      obtain ⟨x, hx, hxf⟩ := List.any_eq_true.mp hany
      rw [hroom x hx] at hxf
      exact Bool.false_ne_true hxf
    exact (if_neg hnot).trans (if_neg hps)
  · change execWrite p s = _
    unfold execWrite
    rw [takeFlit_of_type hedge htype]
    have hnot : ¬(ps.any fun x => s.holdFull x.2.1) = true := by
      rw [hps]
      exact Bool.false_ne_true
    exact (if_neg hnot).trans (if_pos hps)
  · change execWrite p s = _
    unfold execWrite
    rw [takeFlit_of_none hnone]
  · exact (if_neg (by rw [hw, hl]; exact Bool.false_ne_true)).trans (if_pos hdpk)
  · have hpkt : u.pktExit (writePkt request) = some d := hexit
    exact (if_neg (by rw [hw, hl]; exact Bool.false_ne_true)).trans
      ((if_neg (by rw [hdpk]; exact Bool.false_ne_true)).trans (putPkt_of_exit hpkt _ _))
  · exact (if_pos (by rw [hw]; rfl)).trans (if_pos (by rw [hw]; rfl))
  · refine ⟨_, (if_pos (by rw [hw, hl]; rfl)).trans ((if_neg (by rw [hw]; exact Bool.false_ne_true)).trans (if_pos hl))⟩
  · unfold wrote
    simp only [hfound]
    exact if_pos hleft
  · unfold wrote
    simp only [hfound]
    exact if_neg (Nat.not_le.mpr hleft)

theorem nodeExit_setPort {s : State} {n : Nat} {v : GPort} (hv : v.state = (s.gport n).state) (h : FHead) :
    (if h.dmod = (s.setPort n v).ownId then some (h.addr / 2 ^ 31 % 2 ^ 11 * 8 + 4) else (s.setPort n v).awayExit h.dmod) =
      if h.dmod = s.ownId then some (h.addr / 2 ^ 31 % 2 ^ 11 * 8 + 4) else s.awayExit h.dmod := by
  unfold awayExit
  rw [routePort_setPort hv]
  rfl

/-- A beat of a split-node flit, `k` of its two, from its tag and its blocks. -/
def flitNodeBeat (h : FHead) (bs : List PBlock) (integer sat : Bool) (dst k : Nat) : Beat :=
  let low := ((List.range 4).filter fun i => h.vmask.testBit i).length
  { kind := 2, vmask := BitVec.ofNat 4 (h.vmask / 16 ^ k % 16),
    hdr := NodeTag.bits {
        core := h.addr / 2 ^ 31 % 2 ^ 11, base := h.addr / 2 ^ 28 % 8, logS := h.addr / 2 ^ 24 % 16, level := h.addr / 2 ^ 20 % 16,
        first := h.addr / 2 ^ 6 % 2 ^ 14, module := h.dmod, beat := h.beat + k },
    ps := (enumFrom0 (if k = 0 then bs.take low else bs.drop low)).map fun x =>
        blockParcel x.2 (128 * (h.beat + k) + 32 * x.1), integer, sat, pkts := [], dst }

section
variable {s : State} {p : Port} {integer sat : Bool} {f : Flit} {rest : List Flit} {h : FHead}
  (hedge : (s.gport p.val).edge = f :: rest) (hh : FHead.ofBits f.header = h) (htype : h.ftype = 4)
include hedge hh htype

theorem exec_node_of_none (hway : (if h.dmod = s.ownId then some (h.addr / 2 ^ 31 % 2 ^ 11 * 8 + 4) else s.awayExit h.dmod) = none) :
    exec (.node ⟨p, integer, sat⟩) s = .next (s.setPort p.val { s.gport p.val with edge := rest }).countUnroutable := by
  have hno := (nodeExit_setPort (v := { s.gport p.val with edge := rest }) rfl h).trans hway
  subst hh
  change execNode ⟨p, integer, sat⟩ s = _
  unfold execNode
  rw [takeFlit_of_type hedge htype]
  simp only [bitsOf_eq]
  dsimp only [Nat.reduceAdd, Nat.reduceSub]
  rw [hno]

theorem exec_node_of_exit {dst : Nat}
    (hway : (if h.dmod = s.ownId then some (h.addr / 2 ^ 31 % 2 ^ 11 * 8 + 4) else s.awayExit h.dmod) = some dst)
    {t : State} (ht : s.setPort p.val { s.gport p.val with edge := rest } = t) :
    exec (.node ⟨p, integer, sat⟩) s = .next (
      let put := fun (s : State) (k : Nat) =>
        s.putBeat (planeKey (2 + k) (portRouter p.val) 6) s.now (flitNodeBeat h f.blocks integer sat dst k)
      if 16 ≤ h.vmask then put (put t 0) 1 else put t 0) := by
  subst ht
  have hyes := (nodeExit_setPort (v := { s.gport p.val with edge := rest }) rfl h).trans hway
  subst hh
  change execNode ⟨p, integer, sat⟩ s = _
  unfold execNode
  rw [takeFlit_of_type hedge htype]
  simp only [bitsOf_eq]
  dsimp only [Nat.reduceAdd, Nat.reduceSub]
  rw [hyes]
  rfl

end

theorem remoteNodes : Claim.RemoteNodes := by
  intro s p integer sat f rest exit n g h taken core low src way is
  have his : ∀ k, is k { avail := s.now, taken := false, beat := flitNodeBeat h f.blocks integer sat exit k } := fun k =>
    ⟨rfl, rfl, rfl, rfl, (BitVec.toNat_ofNat _ _).trans (Nat.mod_mod _ _), rfl, rfl, rfl, rfl⟩
  refine ⟨fun hedge htype hway hlow => ⟨_, his 0, ?_⟩, fun hedge htype hway hhigh => ⟨_, _, his 0, his 1, ?_⟩, fun hedge htype hway => ?_,
    fun hnone => ?_⟩
  · exact (exec_node_of_exit hedge rfl htype hway rfl).trans (congrArg Host.Outcome.next (if_neg (Nat.not_le.mpr hlow)))
  · refine (exec_node_of_exit hedge rfl htype hway rfl).trans (congrArg Host.Outcome.next ((if_pos hhigh).trans ?_))
    have hsrc : src 0 ≠ src 1 := by
      change (2 * 2048 + portRouter n) * 8 + 6 ≠ (3 * 2048 + portRouter n) * 8 + 6
      omega
    have hkept := Sparse.get_set_other [] (s.srcAt (src 0) ++
      [({ avail := s.now, taken := false, beat := flitNodeBeat h f.blocks integer sat exit 0 } : QBeat)]) s.trail.srcq hsrc
    exact congrArg (fun l : List QBeat => ({ taken with trail := { s.trail with
      srcq := Sparse.set [] (Sparse.set [] s.trail.srcq (src 0) (s.srcAt (src 0) ++
        [({ avail := s.now, taken := false, beat := flitNodeBeat h f.blocks integer sat exit 0 } : QBeat)])) (src 1) (l ++
          [({ avail := s.now, taken := false, beat := flitNodeBeat h f.blocks integer sat exit 1 } : QBeat)]) } } : State)) hkept
  · exact exec_node_of_none hedge rfl htype hway
  · change execNode ⟨p, integer, sat⟩ s = _
    unfold execNode
    rw [takeFlit_of_none hnone]

/-- Settles O40: a delivered flit acts by its type, each READ_REQ, READ_DATA, WRITE, NODE and WRITE_DONE in its own row. -/
theorem remoteTraffic : Obligations.RemoteTraffic := ⟨remoteReads, remoteAnswers, remoteWrites, remoteNodes⟩

end Sys2Proof.Machine

end

section
/-! PROOFS. Symbols on the links: each acts once, and the barrier symbols count and release. -/

namespace Sys2Proof.Machine
open State

/-! ## A symbol acts once (O41) -/

/-- The next SSEQ to come has passed over received ones only. -/
theorem advanceSseq_passes : ∀ fuel (n : Byte) seen, ∃ j, (advanceSseq fuel n seen).1 = n + BitVec.ofNat 8 j ∧
    ∀ i < j, n + BitVec.ofNat 8 i ∈ seen := by
  intro fuel
  induction fuel with
  | zero => exact fun n seen => ⟨0, (BitVec.add_zero n).symm, fun i hi => absurd hi (Nat.not_lt_zero i)⟩
  | succ fuel ih =>
    intro n seen
    by_cases hn : seen.contains n = true
    · obtain ⟨j, hj, hpassed⟩ := ih (n + 1) (seen.erase n)
      have hshift : ∀ i, n + 1 + BitVec.ofNat 8 i = n + BitVec.ofNat 8 (i + 1) := fun i => by
        rw [BitVec.add_assoc, Nat.add_comm i 1, BitVec.ofNat_add]
        rfl
      refine ⟨j + 1, (congrArg Prod.fst (if_pos hn)).trans (hj.trans (hshift j)), fun i hi => ?_⟩
      match i, hi with
      | 0, _ => exact (BitVec.add_zero n).symm ▸ List.contains_iff_mem.mp hn
      | i + 1, hi => exact hshift i ▸ List.mem_of_mem_erase (hpassed i (Nat.lt_of_succ_lt_succ hi))
    · exact ⟨0, (congrArg Prod.fst (if_neg hn)).trans (BitVec.add_zero n).symm, fun i hi => absurd hi (Nat.not_lt_zero i)⟩

theorem mem_of_before_advanceSseq {fuel : Nat} {n x : Byte} {seen : List Byte}
    (hx : (x - n).toNat < ((advanceSseq fuel n seen).1 - n).toNat) : x ∈ seen := by
  obtain ⟨j, hj, hpassed⟩ := advanceSseq_passes fuel n seen
  have hbefore : (x - n).toNat < j := by
    have hle : ((advanceSseq fuel n seen).1 - n).toNat ≤ j := by
      rw [hj, show n + BitVec.ofNat 8 j - n = BitVec.ofNat 8 j by bv_omega, BitVec.toNat_ofNat]
      exact Nat.mod_le _ _
    exact hx.trans_le hle
  have hmem := hpassed _ hbefore
  rwa [BitVec.ofNat_toNat, BitVec.setWidth_eq, show n + (x - n) = x by bv_omega] at hmem

theorem advanceSseq_of_not_mem {n : Byte} {seen : List Byte} (h : n ∉ seen) (fuel : Nat) : advanceSseq fuel n seen = (n, seen) := by
  match fuel with
  | 0 => rfl
  | fuel + 1 => exact if_neg fun hn => h (List.contains_iff_mem.mp hn)

/-- The symbols received at a port out of order, with the one of SSEQ `k` when it is new. -/
def seenWith (g : GPort) (k : Byte) : List Byte :=
  if (!g.seenSyms.contains k && decide ((k - g.rxSseq).toNat < 128)) = true then g.seenSyms ++ [k] else g.seenSyms

theorem new_iff (g : GPort) (k : Byte) :
    (!g.seenSyms.contains k && decide ((k - g.rxSseq).toNat < 128)) = true ↔ k ∉ g.seenSyms ∧ (k - g.rxSseq).toNat < 128 := by
  simp only [Bool.and_eq_true, Bool.not_eq_true', decide_eq_true_eq, List.contains_eq_mem, decide_eq_false_iff_not]

theorem takeSym_of_taken {s : State} {n : Nat} {payload : BitVec 256} {stype : Nat} (hup : (s.gport n).state = 3)
    (hok : symOk payload stype = true) {k : Byte} (hk : BitVec.ofNat 8 (payload.toNat / 2 ^ 240 % 256) = k) :
    s.takeSym n payload stype =
      ((s.setPort n { s.gport n with
          rxSseq := (advanceSseq (seenWith (s.gport n) k).length (s.gport n).rxSseq (seenWith (s.gport n) k)).1,
          seenSyms := (advanceSseq (seenWith (s.gport n) k).length (s.gport n).rxSseq (seenWith (s.gport n) k)).2 }).sendAck n 0,
        !(s.gport n).seenSyms.contains k && decide ((k - (s.gport n).rxSseq).toNat < 128)) := by
  subst hk
  have hportUp : s.portUp n = true := decide_eq_true hup
  unfold takeSym
  rw [if_neg (by rw [hportUp, hok]; exact Bool.false_ne_true), bitsOf_eq]
  rfl

theorem takeSym_of_dropped {s : State} {n : Nat} {payload : BitVec 256} {stype : Nat}
    (h : (s.gport n).state ≠ 3 ∨ symOk payload stype = false) : s.takeSym n payload stype = (s, false) := by
  unfold takeSym
  refine if_pos ?_
  rcases h with hdown | hbad
  · rw [show s.portUp n = false from decide_eq_false hdown]
    rfl
  · rw [hbad, Bool.not_false, Bool.or_true]

theorem symbolsActOnce : Claim.SymbolsActOnce := by
  intro s p payload stype n g k r new
  refine ⟨takeSym_of_dropped, fun hup hok => ?_⟩
  have hr := takeSym_of_taken hup hok (k := k) rfl
  have hport : r.1.gport n = { g with
      rxSseq := (advanceSseq (seenWith g k).length g.rxSseq (seenWith g k)).1,
      seenSyms := (advanceSseq (seenWith g k).length g.rxSseq (seenWith g k)).2,
      ctlq := g.ctlq ++ [(1, 0)] } := by
    rw [show r = _ from hr]
    refine (setPort_gport_same _ _ _).trans ?_
    rw [setPort_gport_same]
  refine ⟨(iff_of_eq (congrArg (· = true) (congrArg Prod.snd hr))).trans (new_iff g k), congrArg GPort.ctlq hport, fun m hm => ?_,
    ⟨_, _, congrArg Prod.fst hr, fun hnew x hx => ?_⟩, fun hnew hseen hk => ?_, fun hold hnext => ?_⟩
  · rw [show r = _ from hr]
    exact (setPort_gport_other _ _ _ (Ne.symm hm)).trans (setPort_gport_other _ _ _ (Ne.symm hm))
  · have hwith : seenWith g k = g.seenSyms ++ [k] := if_pos ((new_iff g k).mpr hnew)
    have hmem : x ∈ g.seenSyms ++ [k] := hwith ▸ mem_of_before_advanceSseq hx
    exact (List.mem_append.mp hmem).imp_right List.mem_singleton.mp
  · have hwith : seenWith g k = [k] := (if_pos ((new_iff g k).mpr hnew)).trans (by rw [hseen]; rfl)
    have hadv : advanceSseq (seenWith g k).length g.rxSseq (seenWith g k) = (g.rxSseq + 1, []) := by
      rw [hwith, ← hk]
      exact (if_pos (List.contains_iff_mem.mpr List.mem_cons_self)).trans (by rw [List.erase_cons_head]; rfl)
    rw [show r = _ from hr]
    change (s.setPort n { g with
      rxSseq := (advanceSseq (seenWith g k).length g.rxSseq (seenWith g k)).1,
      seenSyms := (advanceSseq (seenWith g k).length g.rxSseq (seenWith g k)).2 }).sendAck n 0 = _
    rw [hadv, ← hseen]
  · have hwith : seenWith g k = g.seenSyms := if_neg fun h => hold ((new_iff g k).mp h)
    have hadv : advanceSseq (seenWith g k).length g.rxSseq (seenWith g k) = (g.rxSseq, g.seenSyms) := by
      rw [hwith]
      exact advanceSseq_of_not_mem hnext _
    rw [show r = _ from hr]
    change (s.setPort n { g with
      rxSseq := (advanceSseq (seenWith g k).length g.rxSseq (seenWith g k)).1,
      seenSyms := (advanceSseq (seenWith g k).length g.rxSseq (seenWith g k)).2 }).sendAck n 0 = _
    rw [hadv]

theorem takeSym_besidesSyms (s : State) (n : Nat) (payload : BitVec 256) (stype : Nat) :
    (s.takeSym n payload stype).1.besidesSyms = s.besidesSyms := by
  unfold takeSym
  split <;> rfl

section
variable {s : State} {p : Port} {payload : BitVec 256}

/-- The channel that a barrier symbol names. -/
def symChannel (payload : BitVec 256) : Nat := payload.toNat / 2 ^ 236 % 16

theorem symChannel_toNat : (BitVec.ofNat 4 (bitsOf payload.toNat 239 236)).toNat = symChannel payload := by
  rw [bitsOf_eq, BitVec.toNat_ofNat, symChannel]
  omega

theorem takeSym_cairnCh (n stype m : Nat) : (s.takeSym n payload stype).1.cairnCh m = s.cairnCh m :=
  cairnCh_of_cairn (cairn_of_besidesSyms (takeSym_besidesSyms s n payload stype)) m

theorem childMark_eq {t : State} {ch : BitVec 4} {chn n now : Nat} {k : CairnCh} {fault abort : Bool} (hch : ch.toNat = chn)
    (hk : t.cairnCh chn = k) (hnow : t.now = now) :
    t.childMark ch n fault abort = (t.setCairn chn { k with
      childArr := if n ∈ k.childArr then k.childArr else k.childArr ++ [n], fault := k.fault || fault,
      abort := k.abort || abort, due := if fault then some now else k.due }).mwProgress ch := by
  subst hch hk hnow
  unfold childMark
  simp only [List.contains_iff_mem]

theorem exec_arrive {k : CairnCh} (hk : s.cairnCh (symChannel payload) = k) :
    exec (.arrive p payload) s = .next (
      let r := s.takeSym p.val payload 0x10
      let x := payload.toNat
      let gen := BitVec.ofNat 16 (x / 2 ^ 218 % 2 ^ 16)
      if !r.2 || !mwOn k || !(mwChildren k).contains p.val then r.1
      else if gen = k.gen then r.1.childMark (BitVec.ofNat 4 (symChannel payload)) p.val (x.testBit 235) (x.testBit 234)
      else if gen = k.gen + 1 then r.1.setCairn (symChannel payload) { k with
        childEarly := k.childEarly ++ [(p.val, x.testBit 235, x.testBit 234)] }
      else r.1) := by
  subst hk
  change execArrive p payload s = _
  unfold execArrive
  simp only [symChannel_toNat, takeSym_cairnCh]
  simp only [bitsOf_eq, apply_ite Host.Outcome.next]
  rfl

theorem exec_release {k : CairnCh} (hk : s.cairnCh (symChannel payload) = k) :
    exec (.release p payload) s = .next (
      let r := s.takeSym p.val payload 0x11
      let x := payload.toNat
      let at_ := x / 2 ^ 154 % 2 ^ 64
      let late := decide (at_ ≤ r.1.now)
      let k' := { k with
        fault := k.fault || x.testBit 235, abort := k.abort || x.testBit 234, release := some (if late then r.1.now + 1 else at_) }
      let u := { r.1 with gl := { r.1.gl with lateRelease := if late then r.1.gl.lateRelease + 1 else r.1.gl.lateRelease } }
      if !r.2 || !mwOn k || mwParent k ≠ some p.val || BitVec.ofNat 16 (x / 2 ^ 218 % 2 ^ 16) ≠ k.gen || k.release.isSome then r.1
      else (u.setCairn (symChannel payload) k').sendRelease (BitVec.ofNat 4 (symChannel payload)) k' at_) := by
  subst hk
  change execRelease p payload s = _
  unfold execRelease
  simp only [symChannel_toNat, takeSym_cairnCh]
  simp only [bitsOf_eq, apply_ite Host.Outcome.next]
  rfl

end

theorem barrierSymbols : Claim.BarrierSymbols := by
  intro s p payload n x chn ch gen at_ ra rr k counts marked releases released u
  have hch : ch.toNat = chn := by
    change x / 2 ^ 236 % 16 % 2 ^ 4 = x / 2 ^ 236 % 16
    omega
  have hcounts : (!ra.2 || !mwOn k || !(mwChildren k).contains n) = true ↔ ¬counts := by
    rw [← Bool.not_and, ← Bool.not_and, Bool.not_eq_true', ← Bool.not_eq_true, Bool.and_eq_true, Bool.and_eq_true,
      List.contains_iff_mem, and_assoc]
  have harrive := exec_arrive (s := s) (p := p) (payload := payload) (k := k) rfl
  have hrel : (!rr.2 || !mwOn k || mwParent k ≠ some n || gen ≠ k.gen || k.release.isSome) = true ↔ ¬releases := by
    simp only [Bool.or_eq_true, Bool.not_eq_true', ← Bool.not_eq_true, decide_eq_true_eq, Option.isSome_iff_ne_none, or_assoc]
    simp only [ne_eq, ← not_and_or]
    exact Iff.rfl
  have hrelease := exec_release (s := s) (p := p) (payload := payload) (k := k) rfl
  have hnow : rr.1.now = s.now := now_of_besidesSyms (takeSym_besidesSyms s n payload 0x11)
  have hlate : rr.1.gl.lateRelease = s.gl.lateRelease :=
    show rr.1.besidesSyms.gl.lateRelease = s.besidesSyms.gl.lateRelease by rw [takeSym_besidesSyms]
  have hcount : (if decide (at_ ≤ rr.1.now) = true then rr.1.gl.lateRelease + 1 else rr.1.gl.lateRelease) =
      s.gl.lateRelease + if at_ ≤ s.now then 1 else 0 := by
    simp only [hnow, hlate, decide_eq_true_eq]
    by_cases hpast : at_ ≤ s.now
    · rw [if_pos hpast, if_pos hpast]
    · rw [if_neg hpast, if_neg hpast, Nat.add_zero]
  have hstep : (if decide (at_ ≤ rr.1.now) = true then rr.1.now + 1 else at_) = if at_ ≤ s.now then s.now + 1 else at_ := by
    simp only [hnow, decide_eq_true_eq]
  have hkept : (({ rr.1 with gl := { rr.1.gl with
        lateRelease := if decide (at_ ≤ rr.1.now) then rr.1.gl.lateRelease + 1 else rr.1.gl.lateRelease } } : State).setCairn chn
      { k with
        fault := k.fault || x.testBit 235, abort := k.abort || x.testBit 234,
        release := some (if decide (at_ ≤ rr.1.now) then rr.1.now + 1 else at_) }).sendRelease ch
      { k with
        fault := k.fault || x.testBit 235, abort := k.abort || x.testBit 234,
        release := some (if decide (at_ ≤ rr.1.now) then rr.1.now + 1 else at_) } at_ =
      (u.setCairn chn released).sendRelease ch released at_ := by
    rw [hcount, hstep]
  have hframe : ((u.setCairn chn released).sendRelease ch released at_).besidesSyms = (u.setCairn chn released).besidesSyms :=
    sendRelease_besidesSyms ..
  have hsent : releases → exec (.release p payload) s = .next ((u.setCairn chn released).sendRelease ch released at_) := by
    intro h
    exact hrelease.trans (congrArg Host.Outcome.next ((if_neg fun hno => hrel.mp hno h).trans hkept))
  refine ⟨fun h hgen => ?_, fun h hgen hnext => ?_, fun h hgen hnext => ?_, fun h => ?_, hsent, fun h => ⟨_, hsent h, ?_, ?_, ?_, ?_⟩, fun h => ?_⟩
  · refine harrive.trans (congrArg Host.Outcome.next ((if_neg fun hno => hcounts.mp hno h).trans ((if_pos hgen).trans ?_)))
    have hk : ra.1.cairnCh chn = k := takeSym_cairnCh n 0x10 _
    exact childMark_eq hch hk (now_of_besidesSyms (takeSym_besidesSyms s n payload 0x10))
  · exact harrive.trans (congrArg Host.Outcome.next ((if_neg fun hno => hcounts.mp hno h).trans ((if_neg hgen).trans (if_pos hnext))))
  · exact harrive.trans (congrArg Host.Outcome.next ((if_neg fun hno => hcounts.mp hno h).trans ((if_neg hgen).trans (if_neg hnext))))
  · exact harrive.trans (congrArg Host.Outcome.next (if_pos (hcounts.mpr h)))
  · exact (cairnCh_of_cairn (cairn_of_besidesSyms hframe) chn).trans (setCairn_cairnCh_same ..)
  · exact show ((u.setCairn chn released).sendRelease ch released at_).besidesSyms.gl.lateRelease = _ by rw [hframe]; rfl
  · have htaken : rr.1.mem = s.mem := mem_of_besidesSyms (takeSym_besidesSyms s n payload 0x11)
    exact (mem_of_besidesSyms hframe).trans htaken
  · have htaken : rr.1.cores = s.cores := cores_of_besidesSyms (takeSym_besidesSyms s n payload 0x11)
    exact (cores_of_besidesSyms hframe).trans htaken
  · exact hrelease.trans (congrArg Host.Outcome.next (if_pos (hrel.mpr h)))

/-- Settles O41: a symbol acts once, and ARRIVE and RELEASE count by generation. -/
theorem symbolsOnTheLinks : Obligations.SymbolsOnTheLinks := ⟨symbolsActOnce, barrierSymbols⟩

end Sys2Proof.Machine

end

section
/-! PROOFS. A system in step: its start, its time and its rates. -/

namespace Sys2Proof.Machine
open State

/-! ## The start of a system (O42) -/

theorem sendStart_besidesSyms (s : State) (tStart hops master target : Nat) :
    (s.sendStart tStart hops master target).besidesSyms = s.besidesSyms := by
  unfold sendStart
  exact foldl_keeps besidesSyms (f := fun (t : State) p => t.sendSym p 0x21 _) (fun _ _ _ => rfl) s

theorem sendSym_ready (s : State) (p stype fields n : Nat) : ((s.sendSym p stype fields).gport n).ready = (s.gport n).ready := by
  unfold sendSym
  by_cases hp : p = n
  · subst hp
    rw [setPort_gport_same]
  · rw [setPort_gport_other _ _ _ hp]

theorem sendStart_ready (s : State) (tStart hops master target n : Nat) :
    ((s.sendStart tStart hops master target).gport n).ready = (s.gport n).ready := by
  unfold sendStart
  exact foldl_keeps (fun t : State => (t.gport n).ready) (f := fun (t : State) p => t.sendSym p 0x21 _)
    (fun _ _ _ => sendSym_ready ..) s

theorem takeSym_delay (s : State) (n : Nat) (payload : BitVec 256) (stype : Nat) :
    ((s.takeSym n payload stype).1.gport n).delay = (s.gport n).delay := by
  unfold takeSym
  split
  · rfl
  · simp only [sendAck, sendSymOnce, setPort_gport_same]

section
variable {s t : State} (h : s.besidesSyms = t.besidesSyms)
include h

theorem upstream_of_besidesSyms : s.upstream = t.upstream :=
  show s.besidesSyms.upstream = t.besidesSyms.upstream from congrArg upstream h

theorem pace_of_besidesSyms : s.pace = t.pace := show s.besidesSyms.pace = t.besidesSyms.pace from congrArg State.pace h

theorem tStart_of_besidesSyms : s.gl.tStart = t.gl.tStart :=
  show s.besidesSyms.gl.tStart = t.besidesSyms.gl.tStart from congrArg (fun u : State => u.gl.tStart) h

theorem startLate_of_besidesSyms : s.gl.startLate = t.gl.startLate :=
  show s.besidesSyms.gl.startLate = t.besidesSyms.gl.startLate from congrArg (fun u : State => u.gl.startLate) h

theorem rateSets_of_besidesSyms : s.gl.rateSets = t.gl.rateSets :=
  show s.besidesSyms.gl.rateSets = t.besidesSyms.gl.rateSets from congrArg (fun u : State => u.gl.rateSets) h

end

/-- The state whose step counter is `step` and a fraction, with the start of the system at `t0`. -/
def State.clockSet (s : State) (step : Nat) (frac : BitVec 6) (target t0 : Nat) : State :=
  { s with
    pace := { s.pace with step, frac, target },
    gl := { s.gl with startLate := s.gl.startLate || decide (t0 ≤ step), tStart := if decide (t0 ≤ step) then none else some t0 } }

theorem exec_start_of_taken {s : State} {p : Port} {payload : BitVec 256} {v : Nat} (htaken : (s.takeSym p.val payload 0x21).2 = true)
    (hup : s.upstream = some p.val)
    (hv : payload.toNat / 2 ^ 112 % 2 ^ 64 * 64 + payload.toNat / 2 ^ 106 % 64 + (s.gport p.val).delay.toNat = v) :
    exec (.start p payload) s = .next (((s.takeSym p.val payload 0x21).1.clockSet (v / 64 % 2 ^ 64) (BitVec.ofNat 6 v)
      (payload.toNat / 2 ^ 65 % 2 ^ 21) (payload.toNat / 2 ^ 176 % 2 ^ 64)).sendStart (payload.toNat / 2 ^ 176 % 2 ^ 64)
        (payload.toNat / 2 ^ 100 % 64 + 1) (payload.toNat / 2 ^ 86 % 2 ^ 14) (payload.toNat / 2 ^ 65 % 2 ^ 21)) := by
  subst hv
  change execStart p payload s = _
  unfold execStart
  have hup' : (s.takeSym p.val payload 0x21).1.upstream = some p.val :=
    (upstream_of_besidesSyms (takeSym_besidesSyms ..)).trans hup
  simp only [htaken, hup', takeSym_delay, bitsOf_eq]
  exact (if_neg (by rw [decide_eq_false fun h => h rfl]; exact Bool.false_ne_true)).trans rfl

theorem exec_start_of_dropped {s : State} {p : Port} {payload : BitVec 256}
    (h : (s.takeSym p.val payload 0x21).2 = false ∨ s.upstream ≠ some p.val) :
    exec (.start p payload) s = .next (s.takeSym p.val payload 0x21).1 := by
  change execStart p payload s = _
  unfold execStart
  refine if_pos ?_
  rcases h with htaken | hup
  · rw [htaken]
    rfl
  · have hup' : (s.takeSym p.val payload 0x21).1.upstream ≠ some p.val := by
      rwa [upstream_of_besidesSyms (takeSym_besidesSyms ..)]
    rw [decide_eq_true hup', Bool.or_true]

section
variable {u : State}

/-- The module's own cores are placed, no start is set, and all children are ready. -/
def State.StartGoes (u : State) : Prop :=
  u.gl.placed = true ∧ u.gl.tStart = none ∧ ∀ q ∈ u.startChildren, (u.gport q).ready = true

theorem startWaits_iff :
    (!u.gl.placed || u.gl.tStart.isSome || !(u.startChildren.all fun p => (u.gport p).ready)) = true ↔ ¬u.StartGoes := by
  rw [StartGoes, not_and_or, not_and_or, Bool.or_eq_true, Bool.or_eq_true, or_assoc, Bool.not_eq_true', ← Bool.not_eq_true,
    Option.isSome_iff_ne_none, Bool.not_eq_true', ← Bool.not_eq_true, List.all_eq_true]

theorem progressStart_of_waits (h : ¬u.StartGoes) : u.progressStart = u := if_pos (startWaits_iff.mpr h)

theorem progressStart_of_master (h : u.StartGoes) (hm : u.isMaster = true) :
    u.progressStart =
      ({ u with gl := { u.gl with tStart := some (u.now + 65536) } }).sendStart (u.now + 65536) 0 u.ownId u.pace.target :=
  (if_neg fun hw => startWaits_iff.mp hw h).trans (if_pos hm)

theorem progressStart_of_sent (h : u.StartGoes) (hm : u.isMaster = false) (hsent : u.gl.sentReady = true) : u.progressStart = u :=
  (if_neg fun hw => startWaits_iff.mp hw h).trans ((if_neg (by rw [hm]; exact Bool.false_ne_true)).trans (if_pos hsent))

theorem progressStart_of_unsent (h : u.StartGoes) (hm : u.isMaster = false) (hsent : u.gl.sentReady = false) :
    u.progressStart = match u.upstream with
      | some p => ({ u with gl := { u.gl with sentReady := true } }).sendSym p 0x20 0
      | none => u :=
  (if_neg fun hw => startWaits_iff.mp hw h).trans ((if_neg (by rw [hm]; exact Bool.false_ne_true)).trans
    (if_neg (by rw [hsent]; exact Bool.false_ne_true)))

end

/-! ## The release of the cores -/

/-- A placed core begins to run at the step of the state. -/
def releaseSeq (s : State) (x : Nat × Seq) : State :=
  if x.2.inPack then s.setSeq x.1 { x.2 with st := 1, nextIssue := s.now } else s

theorem releaseSeq_now (s : State) (x : Nat × Seq) : (releaseSeq s x).now = s.now := by
  unfold releaseSeq
  split <;> rfl

theorem releaseSeqs_now (s : State) (l : List (Nat × Seq)) : (l.foldl releaseSeq s).now = s.now :=
  foldl_keeps State.now (fun x _ t => releaseSeq_now t x) s

theorem releaseSeqs_placed {c now : Nat} {q : Seq} (hq : q.inPack = true) : ∀ (l : List (Nat × Seq)) (t : State), t.now = now →
    (∀ z ∈ l, z.1 = c → z.2 = q) → (t.seq c = { q with st := 1, nextIssue := now } ∨ ∃ z ∈ l, z.1 = c) →
    (l.foldl releaseSeq t).seq c = { q with st := 1, nextIssue := now } := by
  intro l
  induction l with
  | nil =>
    intro t _ _ h
    obtain h | ⟨z, hz, -⟩ := h
    · exact h
    · exact absurd hz List.not_mem_nil
  | cons x l ih =>
    intro t hnow hall h
    rw [List.foldl_cons]
    refine ih _ ((releaseSeq_now t x).trans hnow) (fun z hz => hall z (List.mem_cons_of_mem _ hz)) ?_
    by_cases hx : x.1 = c
    · refine .inl ?_
      have hxq : x.2 = q := hall x List.mem_cons_self hx
      unfold releaseSeq
      rw [hxq, if_pos hq, hx, setSeq_seq_same, hnow]
    · obtain h | ⟨z, hz, hzc⟩ := h
      · refine .inl (Eq.trans ?_ h)
        unfold releaseSeq
        split
        · exact setSeq_seq_other _ _ _ hx
        · rfl
      · exact .inr ⟨z, (List.mem_cons.mp hz).resolve_left fun he => hx (he ▸ hzc), hzc⟩

theorem releaseSeqs_other {c : Nat} {l : List (Nat × Seq)} (s : State) (h : ∀ z ∈ l, z.1 = c → z.2.inPack = false) :
    (l.foldl releaseSeq s).seq c = s.seq c := by
  refine foldl_keeps (fun t : State => t.seq c) (fun x hx t => ?_) s
  unfold releaseSeq
  split
  · next hin => exact setSeq_seq_other _ _ _ fun hxc => Bool.false_ne_true ((h x hx hxc).symm.trans hin)
  · rfl

theorem releaseCores_seq (s : State) (c : Nat) : s.releaseCores.seq c = (s.cores.seq.foldl releaseSeq s).seq c := rfl

theorem startInStep : Claim.StartInStep := by
  intro s p payload c at_ up n x v t0 rs rd u go
  have hready : rd.2 = true → exec (.ready p payload) s = .next u.progressStart := fun h => by
    change execReady p payload s = _
    unfold execReady
    exact if_pos h
  have hunow : u.now = s.now := now_of_besidesSyms (takeSym_besidesSyms s n payload 0x20)
  refine ⟨fun htaken hup => ?_, exec_start_of_dropped, fun htaken hgo hm => ?_, fun htaken hgo hm hsent hup => ?_, fun htaken hno => ?_,
    fun htaken => ?_, fun ht hdue hplaced => ?_, fun ht hwait => ?_, fun ht => ?_⟩
  · have hframe : (((rs.1.clockSet (v / 64 % 2 ^ 64) (BitVec.ofNat 6 v) (x / 2 ^ 65 % 2 ^ 21) t0).sendStart t0
        (x / 2 ^ 100 % 64 + 1) (x / 2 ^ 86 % 2 ^ 14) (x / 2 ^ 65 % 2 ^ 21))).besidesSyms =
        (rs.1.clockSet (v / 64 % 2 ^ 64) (BitVec.ofNat 6 v) (x / 2 ^ 65 % 2 ^ 21) t0).besidesSyms := sendStart_besidesSyms ..
    have hrs : rs.1.besidesSyms = s.besidesSyms := takeSym_besidesSyms ..
    have hpace := pace_of_besidesSyms hframe
    have hnow : _ = v / 64 % 2 ^ 64 := now_of_besidesSyms hframe
    have hcores : (rs.1.clockSet (v / 64 % 2 ^ 64) (BitVec.ofNat 6 v) (x / 2 ^ 65 % 2 ^ 21) t0).cores = s.cores :=
      show rs.1.cores = s.cores from cores_of_besidesSyms hrs
    have hmem : (rs.1.clockSet (v / 64 % 2 ^ 64) (BitVec.ofNat 6 v) (x / 2 ^ 65 % 2 ^ 21) t0).mem = s.mem :=
      show rs.1.mem = s.mem from mem_of_besidesSyms hrs
    refine ⟨_, _, exec_start_of_taken htaken hup rfl, rfl, hnow, congrArg Pace.frac hpace, congrArg Pace.target hpace, fun hlt => ?_, fun hle => ?_,
      (cores_of_besidesSyms hframe).trans hcores, (mem_of_besidesSyms hframe).trans hmem⟩
    · have hearly : decide (t0 ≤ v / 64 % 2 ^ 64) = false := decide_eq_false (Nat.not_le.mpr (hnow.symm.trans_lt hlt))
      refine ⟨(tStart_of_besidesSyms hframe).trans (if_neg (by rw [hearly]; exact Bool.false_ne_true)), ?_⟩
      refine (startLate_of_besidesSyms hframe).trans ?_
      change (rs.1.gl.startLate || decide (t0 ≤ v / 64 % 2 ^ 64)) = _
      rw [hearly, Bool.or_false, startLate_of_besidesSyms hrs]
    · have hlate : decide (t0 ≤ v / 64 % 2 ^ 64) = true := decide_eq_true (hle.trans_eq hnow)
      refine ⟨(tStart_of_besidesSyms hframe).trans (if_pos hlate), (startLate_of_besidesSyms hframe).trans ?_⟩
      change (rs.1.gl.startLate || decide (t0 ≤ v / 64 % 2 ^ 64)) = _
      rw [hlate, Bool.or_true]
  · have hframe : (({ u with gl := { u.gl with tStart := some (s.now + 65536) } } : State).sendStart
        (s.now + 65536) 0 u.ownId u.pace.target).besidesSyms =
        ({ u with gl := { u.gl with tStart := some (s.now + 65536) } } : State).besidesSyms := sendStart_besidesSyms ..
    refine ⟨_, (hready htaken).trans (congrArg Host.Outcome.next ((progressStart_of_master hgo hm).trans (by rw [hunow]))), rfl,
      tStart_of_besidesSyms hframe, ?_, ?_⟩
    · refine (sendStart_ready ..).trans ?_
      exact congrArg GPort.ready (setPort_gport_same rd.1 n { rd.1.gport n with ready := true })
    · have hcores : u.cores = s.cores := cores_of_besidesSyms (takeSym_besidesSyms s n payload 0x20)
      exact (cores_of_besidesSyms hframe).trans hcores
  · refine (hready htaken).trans (congrArg Host.Outcome.next ((progressStart_of_unsent hgo hm hsent).trans ?_))
    rw [hup]
  · refine (hready htaken).trans (congrArg Host.Outcome.next ?_)
    by_cases hgo : go
    · obtain ⟨hm, hsent⟩ := hno.resolve_left fun h => h hgo
      rcases hb : u.gl.sentReady with _ | _
      · refine (progressStart_of_unsent hgo hm hb).trans ?_
        rw [hsent.resolve_left fun h => Bool.false_ne_true (hb.symm.trans h)]
      · exact progressStart_of_sent hgo hm hb
    · exact progressStart_of_waits hgo
  · change execReady p payload s = _
    unfold execReady
    exact if_neg (by rw [show (s.takeSym p.val payload 0x20).2 = false from htaken]; exact Bool.false_ne_true)
  · have hexec : exec .startRelease s = .next s.releaseCores := by
      change execStartRelease s = _
      unfold execStartRelease
      rw [ht]
      exact if_pos ⟨hdue, hplaced⟩
    refine ⟨_, hexec, rfl, rfl, releaseSeqs_now s s.cores.seq, releaseCores_mem s, fun hsame hin hpack => ?_, fun hout => ?_⟩
    · have hseq := releaseSeqs_placed hpack s.cores.seq s rfl hsame (.inr hin)
      rw [releaseCores_seq, hseq]
      exact ⟨rfl, rfl, rfl⟩
    · exact releaseSeqs_other s hout
  · change execStartRelease s = _
    unfold execStartRelease
    rw [ht]
    refine if_neg fun h => ?_
    rcases hwait with hlt | hplaced
    · exact Nat.not_le.mpr hlt h.1
    · exact Bool.false_ne_true (hplaced.symm.trans h.2)
  · change execStartRelease s = _
    unfold execStartRelease
    rw [ht]

/-! ## Time and synchronisation -/

theorem mem_unalert {s : State} {a b : AlertSrc} : b ∈ (s.unalert a).rng.alerts ↔ b ∈ s.rng.alerts ∧ b ≠ a := by
  unfold unalert
  rw [List.mem_filter, decide_eq_true_eq]

theorem timeAndSync : Claim.TimeAndSync := by
  intro s p payload t4 fr n g x at_ echo rtt named u fields
  refine ⟨fun hup hdue => ?_, fun hno => if_pos (hno.imp_right id), fun hup hok => ?_, fun hno => ?_, fun hsync hm => if_pos ⟨hsync, hm⟩,
    fun hno => ?_, fun href => ?_, fun href => if_neg (by rw [href]; exact Bool.false_ne_true), ?_⟩
  · change execTimeSend p fr s = _
    unfold execTimeSend
    refine (if_neg fun h => ?_).trans ?_
    · exact h.elim (fun h => h hup) (Nat.not_lt.mpr hdue)
    · change Host.Outcome.next (u.sendSymOnce n 0x30 fields) = _
      unfold sendSymOnce
      rw [setPort_gport_same, setPort_setPort]
  · change execTime p payload t4 fr s = _
    unfold execTime
    refine (if_neg ?_).trans ?_
    · rw [show s.portUp p.val = true from decide_eq_true hup, hok]
      exact Bool.false_ne_true
    · simp only [bitsOf_eq]
      rfl
  · change execTime p payload t4 fr s = _
    unfold execTime
    refine if_pos ?_
    rcases hno with hdown | hbad
    · rw [show s.portUp p.val = false from decide_eq_false hdown]
      rfl
    · rw [hbad, Bool.not_false, Bool.or_true]
  · refine if_neg fun h => ?_
    rcases hno with hsync | hm
    · exact hsync h.1
    · exact Bool.false_ne_true (h.2.symm.trans hm)
  · have hframe := alert_besidesAlerts { s with gl := { s.gl with refLost := true } } .refin
    refine ⟨_, if_pos href, ?_, mem_alert_self _ _, ?_⟩
    · exact show (({ s with gl := { s.gl with refLost := true } } : State).alert .refin).besidesAlerts.gl.refLost = true by rw [hframe]; rfl
    · exact show (({ s with gl := { s.gl with refLost := true } } : State).alert .refin).besidesAlerts.pace = s.pace by rw [hframe]; rfl
  · refine ⟨_, rfl, rfl, fun h => (mem_unalert.mp h).2 rfl, fun a ha => ⟨fun h => (mem_unalert.mp h).1, fun h => mem_unalert.mpr ⟨h, ha⟩⟩⟩

/-! ## The rates of a system -/

theorem exec_rateReq_of_child {s : State} {p : Port} {payload : BitVec 256} (htaken : (s.takeSym p.val payload 0x40).2 = true)
    (hchild : p.val ∈ (s.takeSym p.val payload 0x40).1.startChildren) {r : State} (hr : (s.takeSym p.val payload 0x40).1 = r) :
    exec (.rateReq p payload) s = .next (
      if r.isMaster then r.masterRequest
      else match r.upstream with
        | some u => r.sendSym u 0x40 (payload.toNat / 2 ^ 226 % 2 ^ 14 * 2 ^ 226)
        | none => r) := by
  subst hr
  change execRateReq p payload s = _
  unfold execRateReq
  refine (if_neg ?_).trans ?_
  · rw [htaken, List.contains_iff_mem.mpr hchild]
    exact Bool.false_ne_true
  · simp only [bitsOf_eq]
    by_cases hm : (s.takeSym p.val payload 0x40).1.isMaster = true
    · rw [if_pos hm, if_pos hm]
    · rw [if_neg hm, if_neg hm]
      cases (s.takeSym p.val payload 0x40).1.upstream <;> rfl

theorem anyDecrement_of_none {l : List (Nat × Nat × Bool)} (h : ∀ y ∈ l, y.2.2 = false) : ¬(l.any fun x => x.2.2) = true := fun hany => by
  obtain ⟨y, hy, hyt⟩ := List.any_eq_true.mp hany
  exact Bool.false_ne_true ((h y hy).symm.trans hyt)

theorem masterRequest_eq {r asked : State} (hasked : { r with gl := { r.gl with rateReqAt := r.nowMs } } = asked) {ahead : Nat × Nat}
    (hahead : asked.rateAhead = ahead) :
    r.masterRequest = if asked.gl.rateSets.any fun x => x.2.2 then asked
      else if canLower ahead.1 ahead.2 then asked.masterSet (rateOf ahead.1 (ahead.2 + 1)) true
      else asked.floorHit := by
  subst hasked hahead
  rfl

theorem exec_rateSet_of_taken {s : State} {p : Port} {payload : BitVec 256} (htaken : (s.takeSym p.val payload 0x41).2 = true)
    {r : State} (hr : (s.takeSym p.val payload 0x41).1 = r) (hup : r.upstream = some p.val) :
    exec (.rateSet p payload) s = .next (({ r with gl := { r.gl with
      rateSets := r.gl.rateSets ++ [(payload.toNat / 2 ^ 219 % 2 ^ 21, payload.toNat / 2 ^ 155 % 2 ^ 64, false)] } }).sendRateSet
        (payload.toNat / 2 ^ 219 % 2 ^ 21) (payload.toNat / 2 ^ 155 % 2 ^ 64)) := by
  subst hr
  change execRateSet p payload s = _
  unfold execRateSet
  refine (if_neg ?_).trans ?_
  · rw [htaken, decide_eq_false fun h => h hup]
    exact Bool.false_ne_true
  · simp only [bitsOf_eq]

theorem exec_rateSetApply_of_due {s : State} {rate at_ : Nat} {dec : Bool} {rest : List (Nat × Nat × Bool)}
    (h : s.gl.rateSets = (rate, at_, dec) :: rest) (hdue : at_ ≤ s.now) :
    exec .rateSetApply s = .next (({ s with gl := { s.gl with rateSets := rest } }).applyRate rate) := by
  change execRateSetApply s = _
  unfold execRateSetApply
  rw [h]
  exact if_pos hdue

theorem systemRates : Claim.SystemRates := by
  intro s p payload rate at_ up dec rest n x rq st asked ahead lower newRate newAt child pops
  have hrq : rq.1.besidesSyms = s.besidesSyms := takeSym_besidesSyms ..
  have hst : st.1.besidesSyms = s.besidesSyms := takeSym_besidesSyms ..
  have hsets : rq.1.gl.rateSets = s.gl.rateSets := rateSets_of_besidesSyms hrq
  have hnow : rq.1.now = s.now := now_of_besidesSyms hrq
  have hpace : rq.1.pace = s.pace := pace_of_besidesSyms hrq
  have hms : rq.1.nowMs = s.nowMs := show rq.1.besidesSyms.nowMs = s.besidesSyms.nowMs from congrArg State.nowMs hrq
  have hasked : { rq.1 with gl := { rq.1.gl with rateReqAt := rq.1.nowMs } } = asked := by rw [hms]
  have hahead : asked.rateAhead = ahead := show rq.1.besidesSyms.rateAhead = s.besidesSyms.rateAhead from congrArg rateAhead hrq
  have hmaster : child → rq.1.isMaster = true → exec (.rateReq p payload) s = .next (
      if asked.gl.rateSets.any fun x => x.2.2 then asked
      else if canLower ahead.1 ahead.2 then asked.masterSet lower true
      else asked.floorHit) := fun hchild hm =>
    (exec_rateReq_of_child hchild.1 hchild.2 rfl).trans (congrArg Host.Outcome.next ((if_pos hm).trans (masterRequest_eq hasked hahead)))
  refine ⟨fun hchild hm hnone hlow => ?_, fun hchild hm hany => ?_, fun hchild hm hnone hlow => ?_, fun hchild hm hup => ?_,
    fun hchild hm hup => ?_, fun hno => ?_, fun htaken hup => ?_, fun hno => ?_, fun hsets => ⟨fun hdue hlt hrate => ?_,
    fun hdue hnot hlevel hrate => ?_, fun hdue hnot hnot' => ?_, fun hwait => ?_⟩, fun hsets => ?_⟩
  · refine (hmaster hchild hm).trans (congrArg Host.Outcome.next ?_)
    refine (if_neg (anyDecrement_of_none (hsets ▸ hnone))).trans ((if_pos hlow).trans ?_)
    unfold masterSet
    rw [show asked.now = s.now from hnow, show asked.gl.rateSets = s.gl.rateSets from hsets]
  · refine (hmaster hchild hm).trans (congrArg Host.Outcome.next (if_pos ?_))
    obtain ⟨y, hy, hyt⟩ := hany
    exact List.any_eq_true.mpr ⟨y, hsets ▸ hy, hyt⟩
  · have hframe : asked.floorHit.besidesAlerts = ({ asked with pace := { asked.pace with floorHits := asked.pace.floorHits + 1 } } : State).besidesAlerts :=
      alert_besidesAlerts ..
    refine ⟨asked.floorHit, (hmaster hchild hm).trans (congrArg Host.Outcome.next ((if_neg (anyDecrement_of_none (hsets ▸ hnone))).trans
      (if_neg (by rw [hlow]; exact Bool.false_ne_true)))), ?_, mem_alert_self _ _, ?_⟩
    · change asked.floorHit.besidesAlerts.pace.floorHits = _
      rw [hframe]
      exact congrArg (fun q : Pace => q.floorHits + 1) hpace
    · change asked.floorHit.besidesAlerts.gl.rateSets = _
      rw [hframe]
      exact hsets
  · refine (exec_rateReq_of_child hchild.1 hchild.2 rfl).trans (congrArg Host.Outcome.next ?_)
    refine (if_neg (by rw [show (s.takeSym p.val payload 0x40).1.isMaster = false from hm]; exact Bool.false_ne_true)).trans ?_
    rw [show (s.takeSym p.val payload 0x40).1.upstream = some up from hup]
  · refine (exec_rateReq_of_child hchild.1 hchild.2 rfl).trans (congrArg Host.Outcome.next ?_)
    refine (if_neg (by rw [show (s.takeSym p.val payload 0x40).1.isMaster = false from hm]; exact Bool.false_ne_true)).trans ?_
    rw [show (s.takeSym p.val payload 0x40).1.upstream = none from hup]
  · change execRateReq p payload s = _
    unfold execRateReq
    refine if_pos ?_
    rw [← Bool.not_and, Bool.not_eq_true', ← Bool.not_eq_true, Bool.and_eq_true, List.contains_iff_mem]
    exact hno
  · refine (exec_rateSet_of_taken htaken rfl hup).trans ?_
    rw [show (s.takeSym p.val payload 0x41).1.gl.rateSets = s.gl.rateSets from rateSets_of_besidesSyms hst]
  · change execRateSet p payload s = _
    unfold execRateSet
    refine if_pos ?_
    rcases hno with htaken | hup
    · rw [show (s.takeSym p.val payload 0x41).2 = false from htaken]
      rfl
    · rw [decide_eq_true hup, Bool.or_true]
  · refine ⟨_, (exec_rateSetApply_of_due hsets hdue).trans (congrArg Host.Outcome.next (if_pos ⟨hlt, hrate⟩)), rfl, rfl, rfl, rfl, hrate.symm⟩
  · refine ⟨_, (exec_rateSetApply_of_due hsets hdue).trans (congrArg Host.Outcome.next ((if_neg hnot).trans (if_pos ⟨hlevel, hrate⟩))),
      rfl, rfl, rfl, hrate.symm, fun h => (mem_unalert.mp h).2 rfl⟩
  · exact (exec_rateSetApply_of_due hsets hdue).trans (congrArg Host.Outcome.next ((if_neg hnot).trans (if_neg hnot')))
  · change execRateSetApply s = _
    unfold execRateSetApply
    rw [hsets]
    exact if_neg (Nat.not_le.mpr hwait)
  · change execRateSetApply s = _
    unfold execRateSetApply
    rw [hsets]

/-- Settles O42: a system starts at one step, keeps its time, and changes its rate at one step. -/
theorem systemsRunInStep : Obligations.SystemsRunInStep := ⟨startInStep, timeAndSync, systemRates⟩

end Sys2Proof.Machine

end

section
/-! PROOFS. Step permits, the Damper, and the levels of the rate. -/

namespace Sys2Proof.Machine
open State

/-! ## Pacing (O43) -/

theorem stepPermitsCount : Claim.StepPermitsCount := by
  intro s late
  refine ⟨fun hrun => (if_pos hrun).trans ?_, fun hrun => if_neg (by rw [hrun]; exact Bool.false_ne_true)⟩
  cases late <;> rfl

section
variable (atFloor : Bool) (rate slack : Nat) (b : VBlock)

/-- Whether a lowering is pending at the block after its action. -/
def dampPending : Bool :=
  if atFloor then decide (slack < 6 ∧ 114 ≤ b.code) else b.pending || (decide (slack < 6 ∧ 114 ≤ b.code) && !b.pending)

theorem damp_asks : (damp atFloor rate slack b).2 = true ↔ slack < 6 ∧ 114 ≤ b.code ∧ b.pending = false := by
  change (decide (slack < 6 ∧ 114 ≤ b.code) && !b.pending) = true ↔ _
  rw [Bool.and_eq_true, decide_eq_true_eq, Bool.not_eq_true', and_assoc]

/-- The code of a block above 114 with nothing pending steps down. -/
theorem damp_code_of_high (h : 114 < b.code) (hp : dampPending atFloor slack b = false) :
    (damp atFloor rate slack b).1.code = b.code - 1 :=
  if_pos ⟨h, by rw [show (if atFloor then decide (slack < 6 ∧ 114 ≤ b.code) else _) = false from hp]; rfl⟩

/-- Any other code goes by the slack, up to the top. -/
theorem damp_code_of_low (h : b.code ≤ 114 ∨ dampPending atFloor slack b = true) :
    (damp atFloor rate slack b).1.code =
      if slack < 2 then max b.code (min (if dampPending atFloor slack b then 120 else 114) (b.code + 4))
      else if slack < 6 then max b.code (min (if dampPending atFloor slack b then 120 else 114) (b.code + 1))
      else if (if 14 < slack then min 4 (b.high + 1) else 0) = 4 then b.code - 1 else b.code := by
  refine if_neg fun hhigh => ?_
  rcases h with hlow | hp
  · exact Nat.not_lt.mpr hlow hhigh.1
  · have hnot := hhigh.2
    rw [show (if atFloor then decide (slack < 6 ∧ 114 ≤ b.code) else _) = true from hp] at hnot
    exact Bool.false_ne_true hnot

end

theorem damperMovesTheVoltage : Claim.DamperMovesTheVoltage := by
  intro atFloor rate slack b hcode r
  have htop : 114 ≤ (if dampPending atFloor slack b then 120 else 114) ∧ (if dampPending atFloor slack b then 120 else 114) ≤ 120 := by
    split <;> decide
  have hlow := damp_code_of_low atFloor rate slack b
  have hhigh := damp_code_of_high atFloor rate slack b
  have hcases : (b.code ≤ 114 ∨ dampPending atFloor slack b = true) ∨ (114 < b.code ∧ dampPending atFloor slack b = false) := by
    cases dampPending atFloor slack b
    · exact (Nat.lt_or_ge 114 b.code).elim (fun h => .inr ⟨h, rfl⟩) fun h => .inl (.inl h)
    · exact .inl (.inr rfl)
  have hrange : r.1.code ≤ 120 ∧ b.code ≤ r.1.code + 1 ∧ r.1.code ≤ b.code + 4 := by
    rcases hcases with h | ⟨h, hp⟩
    · rw [show r.1.code = _ from hlow h]
      split_ifs <;> omega
    · rw [show r.1.code = _ from hhigh h hp]
      omega
  obtain ⟨hmax, hdown, hup⟩ := hrange
  refine ⟨hmax, hdown, hup, fun hb hs => ?_, fun hb hs hs' => ?_, fun hb hs hs' => ?_, fun hb hs hh => ?_, fun hb hp => ?_, fun hb hp => hhigh hb hp,
    (damp_asks ..).mp⟩
  · rw [show r.1.code = _ from hlow (.inl (by omega)), if_pos hs]
    omega
  · rw [show r.1.code = _ from hlow (.inl (by omega)), if_neg (by omega), if_pos hs']
    omega
  · rw [show r.1.code = _ from hlow (.inl hb), if_neg (by omega), if_neg (by omega), if_neg (by split <;> omega)]
  · rw [show r.1.code = _ from hlow (.inl hb), if_neg (by omega), if_neg (by omega), if_pos hs, if_pos (by omega)]
  · rw [show r.1.code = _ from hlow (.inl hb), show dampPending atFloor slack b = false from hp, if_neg Bool.false_ne_true]
    split_ifs <;> omega

theorem rateOfTheLevel : Claim.RateOfTheLevel := by
  intro target d htarget hd
  refine ⟨Nat.le_max_left .., Nat.max_le.mpr ⟨htarget, ?_⟩, fun hcan => ?_, ?_⟩
  · exact Nat.div_le_of_le_mul (by rw [Nat.mul_comm]; exact Nat.mul_le_mul_right _ (Nat.sub_le 50 d))
  · have hfloor : 400000 ≤ target * (50 - (d + 1)) / 50 := of_decide_eq_true hcan
    have hnext : rateOf target (d + 1) = target * (50 - (d + 1)) / 50 := Nat.max_eq_right hfloor
    refine ⟨hnext, hnext ▸ lt_of_lt_of_le ?_ (Nat.le_max_right ..)⟩
    have hsplit : target * (50 - d) = target * (50 - (d + 1)) + target := by
      rw [show 50 - d = 50 - (d + 1) + 1 by omega, Nat.mul_succ]
    rw [hsplit]
    omega
  · unfold rateOf
    omega

/-- The blocks of the Damper with their actions in an interval. -/
def dampBlocks (s : State) (slack : List Nat) : List (VBlock × Bool) :=
  (s.pace.blocks.zip slack).map fun x => damp (!canLower s.pace.target s.pace.level) s.rate x.2 x.1

/-- The state once every block has taken its action of this interval. -/
def State.damped (s : State) (slack : List Nat) : State :=
  { s with pace := { s.pace with interval := s.now / 16384, blocks := (dampBlocks s slack).map (·.1) } }

theorem exec_damperInterval {s : State} {slack : List Nat} (hlen : slack.length = 32) (hrun : s.pace.running = true)
    (hdue : s.pace.interval < s.now / 16384) (hfloor : ∀ x ∈ dampBlocks s slack, x.1.floorRun ≠ 1024) :
    exec (.damperInterval slack) s = .next
      (if (dampBlocks s slack).any (·.2) then (s.damped slack).decideLowering 1 else s.damped slack) := by
  have hwaits : ¬(!s.pace.running || decide (s.now / 16384 ≤ s.pace.interval)) = true := by
    rw [hrun, decide_eq_false (Nat.not_le.mpr hdue)]
    exact Bool.false_ne_true
  have hfatal : ¬((dampBlocks s slack).map (·.1)).any (fun b => decide (b.floorRun = 1024)) = true := fun hany => by
    obtain ⟨b, hb, hrun⟩ := List.any_eq_true.mp hany
    obtain ⟨x, hx, rfl⟩ := List.mem_map.mp hb
    exact hfloor x hx (of_decide_eq_true hrun)
  exact (if_neg fun h => h hlen).trans ((if_neg hwaits).trans (congrArg Host.Outcome.next (if_neg hfatal)))

theorem decideLowering_of_local {s : State} (hgl : s.glRun = false) (cause : Byte) :
    s.decideLowering cause =
      if canLower s.pace.target (s.pace.level + s.pace.lowerings.length) then
        { s with pace := { s.pace with lowerings := s.pace.lowerings ++ [((s.now / 16384 + 2) * 16384, cause)] } }
      else s.floorHit :=
  if_neg (by rw [hgl]; exact Bool.false_ne_true)

theorem floorHit_besidesAlerts (s : State) :
    s.floorHit.besidesAlerts = ({ s with pace := { s.pace with floorHits := s.pace.floorHits + 1 } } : State).besidesAlerts :=
  alert_besidesAlerts ..

theorem floorHit_pace (s : State) : s.floorHit.pace = { s.pace with floorHits := s.pace.floorHits + 1 } :=
  show s.floorHit.besidesAlerts.pace = _ by rw [floorHit_besidesAlerts]; rfl

theorem applyLowering_cause (s : State) (cause : Byte) : (s.applyLowering cause).pace.cause = cause := by
  change ((cause.toNat : Nat) : Byte) = cause
  simp only [BitVec.natCast_eq_ofNat, BitVec.ofNat_toNat, BitVec.setWidth_eq]

/-- What is appended to a log stays its last entry when the log is cut to its newest 64. -/
theorem getLast?_drop_append {α : Type} (log : List α) (e : α) :
    ((log ++ [e]).drop ((log ++ [e]).length - 64)).getLast? = some e := by
  rw [List.getLast?_drop, if_neg (by rw [List.length_append, List.length_singleton]; omega), List.getLast?_concat]

theorem length_drop_newest {α : Type} (l : List α) : (l.drop (l.length - 64)).length ≤ 64 := by
  rw [List.length_drop]
  omega

theorem dampingLowersTheRate : Claim.DampingLowersTheRate := by
  intro s slack at_ cause rest p floor r
  refine ⟨fun hlen => if_pos hlen, fun hlen hrun hdue hgl hfloor => ⟨fun hnone => ?_, fun hsome hcan => ?_, fun hsome hcan => ?_⟩,
    fun hlow hdue => ?_, fun hlow hwait => ?_⟩
  · refine (exec_damperInterval hlen hrun hdue hfloor).trans (congrArg Host.Outcome.next (if_neg fun hany => ?_))
    obtain ⟨x, hx, hasks⟩ := List.any_eq_true.mp hany
    exact Bool.false_ne_true ((hnone x hx).symm.trans hasks)
  · refine (exec_damperInterval hlen hrun hdue hfloor).trans (congrArg Host.Outcome.next ((if_pos (List.any_eq_true.mpr hsome)).trans ?_))
    exact (decideLowering_of_local (s := s.damped slack) hgl 1).trans (if_pos hcan)
  · have hexec := (exec_damperInterval hlen hrun hdue hfloor).trans (congrArg Host.Outcome.next ((if_pos (List.any_eq_true.mpr hsome)).trans
      ((decideLowering_of_local (s := s.damped slack) hgl 1).trans
        (if_neg (show ¬canLower p.target (p.level + p.lowerings.length) = true by rw [hcan]; exact Bool.false_ne_true)))))
    have hpace := floorHit_pace (s.damped slack)
    exact ⟨_, hexec, congrArg Pace.floorHits hpace, (congrArg Pace.level hpace).trans rfl, mem_alert_self _ _,
      (congrArg Pace.lowerings hpace).trans rfl⟩
  · have hexec : exec .loweringApply s = .next (({ s with pace := { s.pace with lowerings := rest } } : State).applyLowering cause) := by
      change execLoweringApply s = _
      unfold execLoweringApply
      rw [show s.pace.lowerings = (at_, cause) :: rest from hlow]
      exact if_pos hdue
    refine ⟨_, _, hexec, rfl, applyLowering_cause .., rfl, rfl, rfl, getLast?_drop_append p.log _, rfl, rfl, rfl, rfl, fun _ => ?_, rfl⟩
    exact length_drop_newest _
  · change execLoweringApply s = _
    unfold execLoweringApply
    rw [show s.pace.lowerings = (at_, cause) :: rest from hlow]
    exact if_neg (Nat.not_le.mpr hwait)

/-- Settles O43: a permit is one step, the Damper moves the voltage by the slack and lowers the rate by levels of 2 %. -/
theorem pacingWorks : Obligations.PacingWorks := ⟨stepPermitsCount, damperMovesTheVoltage, dampingLowersTheRate, rateOfTheLevel⟩

end Sys2Proof.Machine

end

section
/-! PROOFS. The power cap, the coolant loop and the power domains. -/

namespace Sys2Proof.Machine
open State

/-! ## The rate follows heat and power (O45) -/

/-- The state with another pace. -/
def State.withPace (s : State) (p : Pace) : State := { s with pace := p }

theorem exec_thermalCheck_of_due {s : State} (hrun : s.pace.running = true) (hrest : s.rng.restarting = false)
    (hdue : s.pace.lastThermal + 1000 ≤ s.nowMs) :
    exec .thermalCheck s = .next (
      if decide (1520 < s.cool.hotspot) && (s.trayValve || decide (s.cool.duty = 100000))
      then (s.withPace { s.pace with lastThermal := s.nowMs }).decideLowering 2
      else s.withPace { s.pace with lastThermal := s.nowMs }) :=
  if_neg (by rw [hrun, hrest, decide_eq_false (Nat.not_lt.mpr hdue)]; exact Bool.false_ne_true)

theorem hot_iff (s : State) :
    (decide (1520 < s.cool.hotspot) && (s.trayValve || decide (s.cool.duty = 100000))) = true ↔
      1520 < s.cool.hotspot ∧ (s.cool.owner = 1 ∨ s.cool.duty = 100000) := by
  unfold trayValve
  rw [Bool.and_eq_true, Bool.or_eq_true, decide_eq_true_eq, decide_eq_true_eq, decide_eq_true_eq]

theorem exec_rateRestore_of_due {s : State} (hdue : s.pace.lastRestore + 100 ≤ s.nowMs) (hmay : s.mayRestore = true) :
    exec .rateRestore s =
      if (s.withPace { s.pace with lastRestore := s.nowMs }).glRun then
        if s.isMaster && s.gl.rateSets.isEmpty && decide (s.gl.rateReqAt + 1000 ≤ s.nowMs) then
          .next ((s.withPace { s.pace with lastRestore := s.nowMs }).masterSet (rateOf s.pace.target (s.pace.level - 1)) false)
        else .next (s.withPace { s.pace with lastRestore := s.nowMs })
      else .next ((s.withPace { s.pace with lastRestore := s.nowMs, level := s.pace.level - 1 }).unalert .floorHit) :=
  if_neg (by rw [hmay, decide_eq_false (Nat.not_lt.mpr hdue)]; exact Bool.false_ne_true)

theorem decideLowering_of_upstream {s : State} {up : Nat} (hgl : s.glRun = true) (hm : s.isMaster = false)
    (hcan : canLower s.pace.target s.pace.level = true) (hup : s.upstream = some up) (cause : Byte) :
    s.decideLowering cause = s.sendSym up 0x40 (s.ownId % 16384 * 2 ^ 226) := by
  unfold decideLowering
  rw [if_pos hgl, if_neg (by rw [hm]; exact Bool.false_ne_true), if_pos hcan, hup]

/-- The state at the end of a power window, with the cap of the dictionary in force. -/
def State.windowEnded (s : State) (mean : Nat) : State :=
  { s with pwr := { s.pwr with
      winEnd := s.nowMs / 10 * 10, cap := leNat (s.dictVal 0x200200 (leBytes 4 2800)), inputW := mean,
      windows := (s.pwr.windows ++ [mean]).drop ((s.pwr.windows ++ [mean]).length - 10) } }

theorem exec_powerWindowEnd_of_due {s : State} {mean : Nat} (hphase : s.pwr.phase = .good) (hdue : s.pwr.winEnd + 10 ≤ s.nowMs)
    (hrest : s.rng.restarting = false) :
    exec (.powerWindowEnd mean) s = .next (
      if s.pwr.cap < mean ∧ s.pace.running = true then (s.windowEnded mean).decideLowering 3 else s.windowEnded mean) := by
  refine (if_neg ?_).trans (if_neg (by rw [hrest]; exact Bool.false_ne_true))
  rw [decide_eq_false (Nat.not_lt.mpr hdue), decide_eq_false (fun h => h hphase)]
  exact Bool.false_ne_true

theorem decideLowering_pwr {s : State} (hgl : s.glRun = false) (cause : Byte) : (s.decideLowering cause).pwr = s.pwr := by
  rw [decideLowering_of_local hgl]
  split
  · rfl
  · exact show s.floorHit.besidesAlerts.pwr = s.pwr by rw [floorHit_besidesAlerts]; rfl

theorem getLast?_drop_append_ten {α : Type} (l : List α) (e : α) : ((l ++ [e]).drop ((l ++ [e]).length - 10)).getLast? = some e := by
  rw [List.getLast?_drop, if_neg (by rw [List.length_append, List.length_singleton]; omega), List.getLast?_concat]

theorem dictVal_of_get {s : State} {key : Nat} {v : List Byte} (h : Sparse.get [] s.dict.val key = v) (hv : v ≠ []) (dflt : List Byte) :
    s.dictVal key dflt = v := by
  unfold dictVal
  rw [h]
  cases v with
  | nil => exact absurd rfl hv
  | cons => rfl

theorem rateFollowsHeatAndPower : Claim.RateFollowsHeatAndPower := by
  intro s at_ target mean p dl hot room
  refine ⟨fun hrun hrest hdue hgl => ⟨fun hhot hroom => ?_, fun hhot => ?_⟩, fun hdue hmay hgl => ?_, ?_, fun hno => ?_,
    fun hrun hrest hdue hgl hm hhot hcan up hup => ?_, fun hno => ?_, fun hat hdue => ?_, fun hat hwait => ?_, fun hphase hdue hrest hgl => ?_⟩
  · refine (exec_thermalCheck_of_due hrun hrest hdue).trans (congrArg Host.Outcome.next ((if_pos ((hot_iff s).mpr hhot)).trans ?_))
    exact (decideLowering_of_local (s := s.withPace { s.pace with lastThermal := s.nowMs }) hgl 2).trans (if_pos hroom)
  · exact (exec_thermalCheck_of_due hrun hrest hdue).trans (congrArg Host.Outcome.next (if_neg fun h => hhot ((hot_iff s).mp h)))
  · refine ⟨_, (exec_rateRestore_of_due hdue hmay).trans (if_neg ?_), rfl, fun h => (mem_unalert.mp h).2 rfl⟩
    rw [show (s.withPace { s.pace with lastRestore := s.nowMs }).glRun = false from hgl]
    exact Bool.false_ne_true
  · intro hdue hmay hgl master noted
    have hmaster : (s.isMaster && s.gl.rateSets.isEmpty && decide (s.gl.rateReqAt + 1000 ≤ s.nowMs)) = true ↔ master := by
      rw [Bool.and_eq_true, Bool.and_eq_true, List.isEmpty_iff, decide_eq_true_eq, and_assoc]
    have hexec := (exec_rateRestore_of_due hdue hmay).trans (if_pos hgl)
    exact ⟨fun h => hexec.trans (if_pos (hmaster.mpr h)), fun h => hexec.trans (if_neg fun hb => h (hmaster.mp hb))⟩
  · refine if_pos ?_
    rcases hno with hmay | hearly
    · rw [hmay, Bool.not_false, Bool.or_true]
    · rw [decide_eq_true hearly, Bool.true_or]
  · refine (exec_thermalCheck_of_due hrun hrest hdue).trans (congrArg Host.Outcome.next ((if_pos ((hot_iff s).mpr hhot)).trans ?_))
    exact decideLowering_of_upstream (s := s.withPace { s.pace with lastThermal := s.nowMs }) hgl hm hcan hup 2
  · refine if_pos ?_
    rcases hno with hrun | hrest | hearly
    · rw [hrun, Bool.not_false, Bool.or_true, Bool.true_or]
    · rw [hrest, Bool.or_true]
    · rw [decide_eq_true hearly, Bool.true_or, Bool.true_or]
  · change execStepTargetApply s = _
    unfold execStepTargetApply
    rw [show s.pace.targetAt = some (at_, target) from hat]
    exact if_pos hdue
  · change execStepTargetApply s = _
    unfold execStepTargetApply
    rw [show s.pace.targetAt = some (at_, target) from hat]
    exact if_neg (Nat.not_le.mpr hwait)
  · have hexec := exec_powerWindowEnd_of_due (mean := mean) hphase hdue hrest
    have hpwr : (if s.pwr.cap < mean ∧ s.pace.running = true then (s.windowEnded mean).decideLowering 3 else s.windowEnded mean).pwr =
        (s.windowEnded mean).pwr := by
      split
      · exact decideLowering_pwr (s := s.windowEnded mean) hgl 3
      · rfl
    refine ⟨_, hexec, congrArg Power.inputW hpwr, ?_, fun hover hrun hroom => ?_, fun hunder => ?_, fun v hv hlt => ?_⟩
    · exact (congrArg (fun w : Power => w.windows.getLast?) hpwr).trans (getLast?_drop_append_ten s.pwr.windows mean)
    · rw [if_pos ⟨hover, hrun⟩, decideLowering_of_local (s := s.windowEnded mean) hgl 3]
      exact congrArg State.pace (if_pos hroom)
    · rw [if_neg fun h => Nat.not_le.mpr h.1 hunder]
      rfl
    · refine (congrArg Power.cap hpwr).trans ?_
      change leNat (s.dictVal 0x200200 (leBytes 4 2800)) = v
      rw [dictVal_of_get hv (List.cons_ne_nil _ _), leNat_leBytes]
      exact Nat.mod_eq_of_lt hlt

/-! ## The coolant loop -/

/-- The corrected readings of the die sensors (R390). -/
def State.loopRead (s : State) (dies : List Int) : List Int :=
  (enumFrom0 dies).map fun x => x.2 + signedOf 32 (leNat (s.calValue 0xA001 (x.1 + 1)))

/-- How often in a row each sensor of the loop has been silent. -/
def loopMissed (r : CoolReading) (c : Cool) : List Nat :=
  [if r.inlet.isNone then c.missed.getD 0 0 + 1 else 0, if r.outlet.isNone then c.missed.getD 1 0 + 1 else 0,
    if r.flow.isNone then c.missed.getD 2 0 + 1 else 0]

/-- A sensor of the loop has been silent for three periods. -/
def loopSilent (r : CoolReading) (c : Cool) : Bool := (loopMissed r c).any fun n => decide (3 ≤ n)

/-- The three alert bits of the loop, each with the periods since its cause was last there. -/
def loopAlertBits (r : CoolReading) (c : Cool) : (Bool × Nat) × (Bool × Nat) × (Bool × Nat) :=
  (alertBit (c.alert.getLsbD 0) (decide (r.flow.getD c.flow < 4000)) (c.absent.getD 0 0),
    alertBit (c.alert.getLsbD 1) (decide (720 < r.inlet.getD c.inlet ∨ r.inlet.getD c.inlet < 272)) (c.absent.getD 1 0),
    alertBit (c.alert.getLsbD 2) (loopSilent r c) (c.absent.getD 2 0))

/-- The alert register of the loop from its three bits. -/
def loopAlert (b : (Bool × Nat) × (Bool × Nat) × (Bool × Nat)) : BitVec 3 :=
  BitVec.ofNat 3 ((if b.1.1 then 1 else 0) + (if b.2.1.1 then 2 else 0) + if b.2.2.1 then 4 else 0)

/-- The state of the loop at the end of a period (R390 to R393). -/
def State.loopCool (s : State) (r : CoolReading) : Cool :=
  let c := s.cool
  let hot := (s.loopRead r.dies).foldl max ((s.loopRead r.dies).headD 0)
  let e := hot - 16 * s.thermalTarget
  let owner := leNat (s.dictVal 0x201000 [0])
  let back := c.owner = 1 ∧ owner ≠ 1
  let uPrev := if c.first ∨ back then 3200 else c.u
  let dPrev := if c.first ∨ back then 100000 else c.duty
  let ePrev := if c.first then e else c.e.getD e
  let u := if owner = 1 then uPrev else loopLaw uPrev e ePrev
  let duty := if loopSilent r c then 100000 else min (max (s.valveDuty u) (dPrev - 1000)) (dPrev + 1000)
  { c with
    hotspot := hot, inlet := r.inlet.getD c.inlet, outlet := r.outlet.getD c.outlet, flow := r.flow.getD c.flow, u,
    duty := if owner = 1 then dPrev else duty, e := some e, owner, alert := loopAlert (loopAlertBits r c),
    absent := [(loopAlertBits r c).1.2, (loopAlertBits r c).2.1.2, (loopAlertBits r c).2.2.2], missed := loopMissed r c, first := false }

/-- The trace output at the end of a period (R393, R459). -/
def State.loopTap (s : State) : TestPort :=
  let owner := leNat (s.dictVal 0x201000 [0])
  let back := s.cool.owner = 1 ∧ owner ≠ 1
  let tap := if back ∧ s.tap.active = true then { s.tap with active := false, denied := true } else s.tap
  if owner = 1 ∧ s.tap.traceEn = true then { tap with active := true } else tap

/-- The state at the end of a period of the loop, before its alert. -/
def State.looped (s : State) (r : CoolReading) : State :=
  { s.comparators r.dies with cool := s.loopCool r, tap := s.loopTap }

theorem exec_loopPeriodEnd {s : State} {r : CoolReading} (hlen : r.dies.length = 64) (hphase : s.pwr.phase = .good) (hboot : s.rng.boot ≠ .held)
    (hrest : s.rng.restarting = false) (hdue : s.pwr.goodAt + 100 ≤ s.nowMs) :
    exec (.loopPeriodEnd r) s = .next (if (s.loopCool r).alert = 0 then (s.looped r).unalert .cool else (s.looped r).alert .cool) := by
  refine (if_neg fun h => h hlen).trans ((if_neg fun h => h hphase).trans ((if_neg ?_).trans rfl))
  rw [hrest, decide_eq_false hboot, decide_eq_false (Nat.not_lt.mpr hdue)]
  exact Bool.false_ne_true

theorem le_foldl_max (l : List Int) : ∀ a : Int, a ≤ l.foldl max a ∧ (∀ x ∈ l, x ≤ l.foldl max a) ∧ (l.foldl max a = a ∨ l.foldl max a ∈ l) := by
  induction l with
  | nil => exact fun a => ⟨le_refl a, fun x hx => absurd hx List.not_mem_nil, .inl rfl⟩
  | cons y l ih =>
    intro a
    obtain ⟨hge, hall, hmem⟩ := ih (max a y)
    refine ⟨(le_max_left a y).trans hge, fun x hx => ?_, ?_⟩
    · rcases List.mem_cons.mp hx with rfl | hx
      · exact (le_max_right a x).trans hge
      · exact hall x hx
    · rcases hmem with heq | hmem
      · rcases le_total a y with h | h
        · exact .inr (List.mem_cons.mpr (.inl (heq.trans (max_eq_right h))))
        · exact .inl (heq.trans (max_eq_left h))
      · exact .inr (List.mem_cons_of_mem _ hmem)

theorem mem_loopRead {s : State} {dies : List Int} (hlen : dies.length = 64) (x : Int) :
    x ∈ s.loopRead dies ↔ ∃ i < 64, dies.getD i 0 + signedOf 32 (leNat (s.calValue 0xA001 (i + 1))) = x := by
  unfold loopRead enumFrom0
  rw [List.mem_iff_getElem]
  simp only [List.length_map, List.length_zip, List.length_range, Nat.min_self, hlen, List.getElem_map, List.getElem_zip, List.getElem_range]
  constructor
  · rintro ⟨i, hi, h⟩
    exact ⟨i, hi, by rw [List.getD_eq_getElem _ _ (hlen ▸ hi)]; exact h⟩
  · rintro ⟨i, hi, h⟩
    exact ⟨i, hi, by rw [List.getD_eq_getElem _ _ (hlen ▸ hi)] at h; exact h⟩

theorem loopCool_hotspot_le {s : State} {r : CoolReading} {x : Int} (hx : x ∈ s.loopRead r.dies) :
    x ≤ (s.loopCool r).hotspot := (le_foldl_max _ _).2.1 x hx

theorem loopCool_hotspot_mem {s : State} {r : CoolReading} (hlen : r.dies.length = 64) : (s.loopCool r).hotspot ∈ s.loopRead r.dies := by
  have hhead : (s.loopRead r.dies).headD 0 ∈ s.loopRead r.dies := by
    rcases hl : s.loopRead r.dies with _ | ⟨x, l⟩
    · have hmem := (mem_loopRead (s := s) hlen _).mpr ⟨0, by decide, rfl⟩
      rw [hl] at hmem
      exact absurd hmem List.not_mem_nil
    · exact List.mem_cons_self
  rcases (le_foldl_max (s.loopRead r.dies) ((s.loopRead r.dies).headD 0)).2.2 with h | h
  · exact (show (s.loopCool r).hotspot = _ from h) ▸ hhead
  · exact h

theorem alertOfBits_getLsbD : ∀ a b c : Bool,
    (BitVec.ofNat 3 ((if a then 1 else 0) + (if b then 2 else 0) + if c then 4 else 0)).getLsbD 0 = a ∧
      (BitVec.ofNat 3 ((if a then 1 else 0) + (if b then 2 else 0) + if c then 4 else 0)).getLsbD 2 = c := by decide

/-- A bit of the loop's alert register is set when its own bit is. -/
theorem loopAlert_getLsbD (b : (Bool × Nat) × (Bool × Nat) × (Bool × Nat)) :
    (loopAlert b).getLsbD 0 = b.1.1 ∧ (loopAlert b).getLsbD 2 = b.2.2.1 := alertOfBits_getLsbD ..

theorem loopSilent_of_inlet {r : CoolReading} {c : Cool} (hin : r.inlet = none) (hmiss : 2 ≤ c.missed.getD 0 0) : loopSilent r c = true := by
  refine List.any_eq_true.mpr ⟨_, List.mem_cons_self, decide_eq_true ?_⟩
  rw [hin]
  exact Nat.succ_le_succ hmiss

theorem loopSilent_of_all {r : CoolReading} (c : Cool) (hin : r.inlet.isSome = true) (hout : r.outlet.isSome = true)
    (hflow : r.flow.isSome = true) : loopSilent r c = false := by
  have hnone : ∀ {α : Type} {o : Option α}, o.isSome = true → ¬o.isNone = true := fun h hn => by
    rw [Option.isNone_iff_eq_none] at hn
    rw [hn] at h
    exact Bool.false_ne_true h
  unfold loopSilent loopMissed
  rw [if_neg (hnone hin), if_neg (hnone hout), if_neg (hnone hflow)]
  rfl

theorem loopCool_u (s : State) (r : CoolReading) {owner : Nat} (ho : leNat (s.dictVal 0x201000 [0]) = owner) {e : Int}
    (he : (s.loopCool r).hotspot - 16 * s.thermalTarget = e) :
    (s.loopCool r).u =
      if owner = 1 then (if s.cool.first = true ∨ (s.cool.owner = 1 ∧ owner ≠ 1) then 3200 else s.cool.u)
      else loopLaw (if s.cool.first = true ∨ (s.cool.owner = 1 ∧ owner ≠ 1) then 3200 else s.cool.u) e
        (if s.cool.first = true then e else s.cool.e.getD e) := by
  subst ho he
  rfl

theorem loopCool_duty (s : State) (r : CoolReading) {owner : Nat} (ho : leNat (s.dictVal 0x201000 [0]) = owner) :
    (s.loopCool r).duty =
      let dPrev := if s.cool.first = true ∨ (s.cool.owner = 1 ∧ owner ≠ 1) then 100000 else s.cool.duty
      if owner = 1 then dPrev
      else if loopSilent r s.cool then 100000
      else min (max (s.valveDuty (s.loopCool r).u) (dPrev - 1000)) (dPrev + 1000) := by
  subst ho
  rfl

theorem coolantLoopRuns : Claim.CoolantLoopRuns := by
  intro s r at_ c owner target
  refine ⟨fun hlen => if_pos hlen, fun hlen hphase hboot hrest hdue => ⟨_, exec_loopPeriodEnd hlen hphase hboot hrest hdue, ?_⟩⟩
  have hframe : (if (s.loopCool r).alert = 0 then (s.looped r).unalert .cool else (s.looped r).alert .cool).besidesAlerts =
      (s.looped r).besidesAlerts := by
    split
    · rfl
    · exact alert_besidesAlerts ..
  have hcool : (if (s.loopCool r).alert = 0 then (s.looped r).unalert .cool else (s.looped r).alert .cool).cool = s.loopCool r :=
    show (if (s.loopCool r).alert = 0 then (s.looped r).unalert .cool else (s.looped r).alert .cool).besidesAlerts.cool = _ by rw [hframe]; rfl
  have hpwr : (if (s.loopCool r).alert = 0 then (s.looped r).unalert .cool else (s.looped r).alert .cool).pwr = (s.looped r).pwr :=
    show (if (s.loopCool r).alert = 0 then (s.looped r).unalert .cool else (s.looped r).alert .cool).besidesAlerts.pwr = _ by rw [hframe]; rfl
  generalize hu : (if (s.loopCool r).alert = 0 then (s.looped r).unalert .cool else (s.looped r).alert .cool) = t at hframe hcool hpwr
  rw [hcool, hpwr]
  have hown : (s.loopCool r).owner = owner := rfl
  refine ⟨show t.besidesAlerts.pace = s.pace by rw [hframe]; rfl, show t.besidesAlerts.mem = s.mem by rw [hframe]; rfl,
    show t.besidesAlerts.cores = s.cores by rw [hframe]; rfl, ?_, fun i hi => ?_, ?_, rfl, rfl, fun ho hc hf e0 he => ?_,
    fun ho hc hf hin hout hflow hmiss => ?_, fun ho hc hf => ?_, fun f hflow hlow => ?_, fun hin hmiss => ?_⟩
  · change (s.pwr.thermTrip && !(s.pwr.tripReset && !r.dies.any fun x => decide (1600 ≤ x))) = true ↔ _
    rw [Bool.and_eq_true, Bool.not_and, Bool.not_not, Bool.or_eq_true, Bool.not_eq_true', List.any_eq_true]
    simp only [decide_eq_true_eq]
  · exact loopCool_hotspot_le ((mem_loopRead hlen _).mpr ⟨i, hi, rfl⟩)
  · exact (mem_loopRead hlen _).mp (loopCool_hotspot_mem hlen)
  · have hsteady : ¬(s.cool.first = true ∨ (s.cool.owner = 1 ∧ owner ≠ 1)) := fun h =>
      h.elim (fun h => Bool.false_ne_true (hf.symm.trans h)) fun h => Nat.zero_ne_one (hc.symm.trans h.1)
    rw [loopCool_u s r (owner := owner) rfl rfl, if_neg (by rw [ho]; decide), if_neg hsteady,
      if_neg (fun h => Bool.false_ne_true (hf.symm.trans h)), show s.cool.e = some e0 from he]
    rfl
  · have hsteady : ¬(s.cool.first = true ∨ (s.cool.owner = 1 ∧ owner ≠ 1)) := fun h =>
      h.elim (fun h => Bool.false_ne_true (hf.symm.trans h)) fun h => Nat.zero_ne_one (hc.symm.trans h.1)
    rw [loopCool_duty s r (owner := owner) rfl]
    dsimp only
    rw [if_neg hsteady, if_neg (by rw [ho]; decide), loopSilent_of_all _ hin hout hflow, if_neg Bool.false_ne_true]
    change min (max _ (c.duty - 1000)) (c.duty + 1000) ≤ c.duty + 1000 ∧ c.duty ≤ min (max _ (c.duty - 1000)) (c.duty + 1000) + 1000
    omega
  · have hsteady : ¬(s.cool.first = true ∨ (s.cool.owner = 1 ∧ owner ≠ 1)) := fun h =>
      h.elim (fun h => Bool.false_ne_true (hf.symm.trans h)) fun h => h.2 ho
    rw [loopCool_duty s r (owner := owner) rfl, loopCool_u s r (owner := owner) rfl rfl]
    dsimp only
    rw [if_pos ho, if_pos ho, if_neg hsteady, if_neg hsteady]
    exact ⟨rfl, rfl⟩
  · have hbit : (s.loopCool r).alert.getLsbD 0 = true := by
      refine (loopAlert_getLsbD _).1.trans ?_
      have hlow' : decide (r.flow.getD s.cool.flow < 4000) = true := decide_eq_true (by rw [hflow]; exact hlow)
      exact (congrArg (fun b => (alertBit _ b _).1) hlow').trans rfl
    refine ⟨hbit, ?_⟩
    have hset : ¬(s.loopCool r).alert = 0 := fun h => by
      rw [h] at hbit
      exact Bool.false_ne_true hbit
    rw [← hu, if_neg hset]
    exact mem_alert_self _ _
  · have hsilent : loopSilent r s.cool = true := loopSilent_of_inlet hin hmiss
    refine ⟨(loopAlert_getLsbD _).2.trans ((congrArg (fun b => (alertBit _ b _).1) hsilent).trans rfl), fun ho => ?_⟩
    rw [loopCool_duty s r (owner := owner) rfl]
    dsimp only
    rw [if_neg (by rw [ho]; decide), if_pos hsilent]

/-! ## The power domains -/

/-- The state without what a domain that is turned on or off takes with it. -/
def State.besidesDomains (s : State) : State :=
  { s with
    cores := State.reset.cores, mem := State.reset.mem, slices := [], mm := State.reset.mm, wimg := State.reset.wimg, gl := .reset,
    log := State.reset.log, svc := State.reset.svc, rng := { s.rng with baseReady := false }, pwr := { s.pwr with domains := [] } }

/-- What the state holds besides its cores and memory, its domains among it. -/
def State.besidesFabric (s : State) : State :=
  { s with
    cores := State.reset.cores, mem := State.reset.mem, slices := [], mm := State.reset.mm, wimg := State.reset.wimg, gl := .reset,
    log := State.reset.log, svc := State.reset.svc, rng := { s.rng with baseReady := false } }

theorem domainLost_besidesFabric (s : State) (d : Nat) : (s.domainLost d).besidesFabric = s.besidesFabric := by
  unfold domainLost
  split_ifs <;> rfl

theorem portIdle_besidesFabric (s : State) (p : Nat) : (s.portIdle p).besidesFabric = s.besidesFabric := rfl

theorem resync_besidesFabric (s : State) : s.resync.besidesFabric = s.besidesFabric := rfl

theorem linksChange_besidesFabric (s : State) (d : Nat) : (s.linksChange d).besidesFabric = s.besidesFabric :=
  (resync_besidesFabric _).trans (foldl_keeps besidesFabric (fun _ _ t => portIdle_besidesFabric t _) s)

theorem toDomain_of_same {s : State} {d v : Nat} (h : s.pwr.domains.getD d 0 = v) : s.toDomain d v = s := if_pos h

theorem toDomain_besidesFabric {s : State} {d v : Nat} (h : s.pwr.domains.getD d 0 ≠ v) :
    (s.toDomain d v).besidesFabric = (s.setDomains d d v).besidesFabric := by
  unfold toDomain
  rw [if_neg h]
  dsimp only
  have hlost : (if v = 0 then (s.setDomains d d v).domainLost d else s.setDomains d d v).besidesFabric = (s.setDomains d d v).besidesFabric := by
    split
    · exact domainLost_besidesFabric ..
    · rfl
  generalize (if v = 0 then (s.setDomains d d v).domainLost d else s.setDomains d d v) = t at hlost ⊢
  have hbase : (if d = 1 ∧ v = 1 then ({ t with rng := { t.rng with baseReady := false } } : State).loseOpen else t).besidesFabric =
      t.besidesFabric := by
    split <;> rfl
  split
  · exact (linksChange_besidesFabric ..).trans (hbase.trans hlost)
  · exact hbase.trans hlost

theorem toDomain_besidesDomains (s : State) (d v : Nat) : (s.toDomain d v).besidesDomains = s.besidesDomains := by
  by_cases h : s.pwr.domains.getD d 0 = v
  · rw [toDomain_of_same h]
  · have hframe := toDomain_besidesFabric h
    exact (congrArg (fun t : State => ({ t with pwr := { t.pwr with domains := [] } } : State)) hframe).trans rfl

theorem getD_enumFrom0_map (l : List Nat) (p : Nat → Prop) [DecidablePred p] (v i : Nat) :
    ((enumFrom0 l).map fun x => if p x.1 then v else x.2).getD i 0 = if p i ∧ i < l.length then v else l.getD i 0 := by
  by_cases hi : i < l.length
  · have hlen : i < ((enumFrom0 l).map fun x => if p x.1 then v else x.2).length := by
      simpa only [List.length_map, enumFrom0, List.length_zip, List.length_range, Nat.min_self] using hi
    rw [List.getD_eq_getElem _ _ hlen, List.getD_eq_getElem _ _ hi]
    simp only [enumFrom0, List.getElem_map, List.getElem_zip, List.getElem_range, hi, and_true]
  · have hlen : ((enumFrom0 l).map fun x => if p x.1 then v else x.2).length ≤ i := by
      simpa only [List.length_map, enumFrom0, List.length_zip, List.length_range, Nat.min_self, Nat.not_lt] using hi
    rw [List.getD_eq_default _ _ hlen, if_neg fun h => hi h.2, List.getD_eq_default _ _ (Nat.not_lt.mp hi)]

theorem toDomain_pwr {s : State} {d v : Nat} (h : s.pwr.domains.getD d 0 ≠ v) : (s.toDomain d v).pwr = (s.setDomains d d v).pwr :=
  show (s.toDomain d v).besidesFabric.pwr = (s.setDomains d d v).besidesFabric.pwr from congrArg State.pwr (toDomain_besidesFabric h)

theorem toDomain_domains (s : State) (d v i : Nat) :
    (s.toDomain d v).pwr.domains.getD i 0 =
      if i = d ∧ i < s.pwr.domains.length then v else s.pwr.domains.getD i 0 := by
  by_cases h : s.pwr.domains.getD d 0 = v
  · rw [toDomain_of_same h]
    split
    · next hi => rw [hi.1, h]
    · rfl
  · rw [toDomain_pwr h]
    refine (getD_enumFrom0_map s.pwr.domains (fun j => d ≤ j ∧ j ≤ d) v i).trans ?_
    simp only [show (d ≤ i ∧ i ≤ d) ↔ i = d by omega]

theorem toDomain_length (s : State) (d v : Nat) : (s.toDomain d v).pwr.domains.length = s.pwr.domains.length := by
  by_cases h : s.pwr.domains.getD d 0 = v
  · rw [toDomain_of_same h]
  · rw [toDomain_pwr h]
    simp only [setDomains, enumFrom0, List.length_map, List.length_zip, List.length_range, Nat.min_self]

/-- The domains that a list names are turned, one after the other. -/
def State.toDomains (s : State) (l : List (Nat × Nat)) : State := l.foldl (fun s x => s.toDomain x.1 x.2) s

theorem toDomains_besidesDomains (l : List (Nat × Nat)) (s : State) : (s.toDomains l).besidesDomains = s.besidesDomains :=
  foldl_keeps besidesDomains (fun _ _ t => toDomain_besidesDomains t _ _) s

theorem toDomains_other {i : Nat} {l : List (Nat × Nat)} (s : State) (hi : ∀ x ∈ l, x.1 ≠ i) :
    (s.toDomains l).pwr.domains.getD i 0 = s.pwr.domains.getD i 0 :=
  foldl_keeps (fun t : State => t.pwr.domains.getD i 0)
    (fun x hx t => (toDomain_domains t x.1 x.2 i).trans (if_neg fun h => hi x hx h.1.symm)) s

theorem toDomains_length (l : List (Nat × Nat)) (s : State) : (s.toDomains l).pwr.domains.length = s.pwr.domains.length :=
  foldl_keeps (fun t : State => t.pwr.domains.length) (fun _ _ t => toDomain_length t _ _) s

theorem toDomains_of_mem {i v : Nat} : ∀ (l : List (Nat × Nat)) (s : State), (l.map Prod.fst).Nodup → (i, v) ∈ l → i < s.pwr.domains.length →
    (s.toDomains l).pwr.domains.getD i 0 = v := by
  intro l
  induction l with
  | nil => exact fun s _ hmem => absurd hmem List.not_mem_nil
  | cons x l ih =>
    intro s hnodup hmem hlen
    rw [List.map_cons, List.nodup_cons] at hnodup
    rcases List.mem_cons.mp hmem with rfl | hmem
    · have hlast : ((s.toDomain i v).toDomains l).pwr.domains.getD i 0 = (s.toDomain i v).pwr.domains.getD i 0 :=
        toDomains_other _ fun y hy hyi => hnodup.1 (List.mem_map.mpr ⟨y, hy, hyi⟩)
      exact hlast.trans ((toDomain_domains ..).trans (if_pos ⟨rfl, hlen⟩))
    · exact ih _ hnodup.2 hmem ((toDomain_length ..).symm ▸ hlen)

section
variable {s t : State} (h : s.besidesDomains = t.besidesDomains)
include h

theorem out_of_besidesDomains : s.out = t.out := show s.besidesDomains.out = t.besidesDomains.out from congrArg State.out h

theorem pack_of_besidesDomains : s.pack = t.pack := show s.besidesDomains.pack = t.besidesDomains.pack from congrArg State.pack h

theorem trips_of_besidesDomains : s.pwr.trips = t.pwr.trips :=
  show s.besidesDomains.pwr.trips = t.besidesDomains.pwr.trips from congrArg (fun u : State => u.pwr.trips) h

theorem domReq_of_besidesDomains : s.pwr.domReq = t.pwr.domReq :=
  show s.besidesDomains.pwr.domReq = t.besidesDomains.pwr.domReq from congrArg (fun u : State => u.pwr.domReq) h

end

theorem toDomain_degraded (s : State) (d v : Nat) : (s.toDomain d v).rng.degraded = s.rng.degraded :=
  show (s.toDomain d v).besidesDomains.rng.degraded = s.besidesDomains.rng.degraded from
    congrArg (fun u : State => u.rng.degraded) (toDomain_besidesDomains s d v)

theorem domainLost_open {s : State} (h : s.log.open_ = []) (d : Nat) : (s.domainLost d).log.open_ = [] := by
  unfold domainLost
  split_ifs
  · rfl
  all_goals exact h

theorem linksChange_log (s : State) (d : Nat) : (s.linksChange d).log = s.log :=
  (show (s.linksChange d).log = ((List.range 6).foldl (fun s i => s.portIdle (6 * (d - 42) + i)) s).log from rfl).trans
    (foldl_keeps State.log (fun _ _ t => (show (t.portIdle _).log = t.log from rfl)) s)

/-- A turn of a domain opens no result. -/
theorem toDomain_open {s : State} (h : s.log.open_ = []) (d v : Nat) : (s.toDomain d v).log.open_ = [] := by
  unfold toDomain
  split
  · exact h
  · dsimp only
    have hlost : (if v = 0 then (s.setDomains d d v).domainLost d else s.setDomains d d v).log.open_ = [] := by
      split
      · exact domainLost_open (s := s.setDomains d d v) h d
      · exact h
    generalize (if v = 0 then (s.setDomains d d v).domainLost d else s.setDomains d d v) = t at hlost ⊢
    have hbase : (if d = 1 ∧ v = 1 then ({ t with rng := { t.rng with baseReady := false } } : State).loseOpen else t).log.open_ = [] := by
      split
      · rfl
      · exact hlost
    split
    · rw [linksChange_log]
      exact hbase
    · exact hbase

theorem toDomains_open {s : State} (h : s.log.open_ = []) (l : List (Nat × Nat)) : (s.toDomains l).log.open_ = [] :=
  List.foldlRecOn l _ (motive := fun t : State => t.log.open_ = []) h fun _ ht x _ => toDomain_open ht x.1 x.2

/-- The state of a thermal trip before its domains are off. -/
def State.tripping (s : State) : State :=
  if s.rng.fatals.any fun x => x.1 = .thermal && decide (s.nowMs < x.2 + 600000)
  then ({ s.loseOpen with rng := { s.loseOpen.rng with degraded := true } } : State).alert .degraded else s.loseOpen

/-- D1 to D43, each off. -/
def tripDomains : List (Nat × Nat) := (List.range 43).map fun i => (i + 1, 0)

theorem exec_thermalTrip_of_good {s : State} (hphase : s.pwr.phase = .good) (htrip : s.pwr.thermTrip = false)
    {u : State} (hu : s.tripping.toDomains tripDomains = u) :
    exec .thermalTrip s = .next { u with
      pwr := { u.pwr with thermTrip := true, tripReset := u.pwr.modResetLow, warm := true, trips := u.pwr.trips + 1 },
      pace := { u.pace with running := false },
      pack := { u.pack with state := if u.pack.state = PackState.running then PackState.halted else u.pack.state },
      rng := { u.rng with packFatalAt := none, fabReset := false, fatals := u.rng.fatals ++ [(.thermal, u.nowMs)] } } := by
  have hfold : (List.range 43).foldl (fun s i => s.toDomain (i + 1) 0) s.tripping = u := by
    rw [← hu, toDomains, tripDomains, List.foldl_map]
  have hgood : ¬(decide (s.pwr.phase ≠ .good) || s.pwr.thermTrip) = true := by
    rw [htrip, decide_eq_false (fun h => h hphase)]
    exact Bool.false_ne_true
  change execThermalTrip s = _
  unfold execThermalTrip
  generalize List.range 43 = l at hfold ⊢
  subst hfold
  exact (if_neg hgood).trans rfl

theorem tripping_facts (s : State) :
    s.tripping.pwr = s.pwr ∧ s.tripping.log.open_ = [] ∧ s.tripping.out = s.out ∧ s.tripping.pack = s.pack := by
  unfold tripping
  split
  · have hframe := alert_besidesAlerts ({ s.loseOpen with rng := { s.loseOpen.rng with degraded := true } } : State) .degraded
    generalize ({ s.loseOpen with rng := { s.loseOpen.rng with degraded := true } } : State).alert .degraded = t at hframe
    exact ⟨show t.besidesAlerts.pwr = s.pwr by rw [hframe]; rfl, show t.besidesAlerts.log.open_ = [] by rw [hframe]; rfl,
      show t.besidesAlerts.out = s.out by rw [hframe]; rfl, show t.besidesAlerts.pack = s.pack by rw [hframe]; rfl⟩
  · exact ⟨rfl, rfl, rfl, rfl⟩

/-- The domains of a request that a module takes: not D0, and of a degraded module not D2 to D41. -/
def takenDomains (degraded : Bool) (want : List Nat) : List (Nat × Nat) :=
  (enumFrom0 want).filter fun x => !decide (x.1 = 0 ∨ (degraded = true ∧ 2 ≤ x.1 ∧ x.1 ≤ 41))

theorem foldl_toDomain_of_degraded {degraded : Bool} : ∀ (l : List (Nat × Nat)) (s : State), s.rng.degraded = degraded →
    l.foldl (fun s x => if x.1 = 0 ∨ (s.rng.degraded = true ∧ 2 ≤ x.1 ∧ x.1 ≤ 41) then s else s.toDomain x.1 x.2) s =
      s.toDomains (l.filter fun x => !decide (x.1 = 0 ∨ (degraded = true ∧ 2 ≤ x.1 ∧ x.1 ≤ 41))) := by
  intro l
  induction l with
  | nil => exact fun _ _ => rfl
  | cons x l ih =>
    intro s hs
    rw [List.foldl_cons, List.filter_cons]
    by_cases hx : x.1 = 0 ∨ (degraded = true ∧ 2 ≤ x.1 ∧ x.1 ≤ 41)
    · rw [if_pos (hs ▸ hx), decide_eq_true hx]
      exact ih s hs
    · rw [if_neg (hs ▸ hx), decide_eq_false hx]
      exact ih _ ((toDomain_degraded ..).trans hs)

theorem enumFrom0_keys {α : Type} (l : List α) : (enumFrom0 l).map Prod.fst = List.range l.length := by
  unfold enumFrom0
  exact List.map_fst_zip (by rw [List.length_range])

theorem mem_enumFrom0_getD {l : List Nat} {i : Nat} (hi : i < l.length) : (i, l.getD i 0) ∈ enumFrom0 l := by
  unfold enumFrom0
  rw [List.getD_eq_getElem _ _ hi]
  refine List.mem_iff_getElem.mpr ⟨i, by simpa only [List.length_zip, List.length_range, Nat.min_self] using hi, ?_⟩
  rw [List.getElem_zip, List.getElem_range]

theorem exec_domainTransition_of_request {s : State} {want : List Nat} {at_ : Nat} (hreq : s.pwr.domReq = some (want, at_))
    (htrip : s.pwr.thermTrip = false) (hfab : s.rng.fabReset = false) :
    exec .domainTransition s =
      .next (({ s with pwr := { s.pwr with domReq := none } } : State).toDomains (takenDomains s.rng.degraded want)) := by
  change execDomainTransition s = _
  unfold execDomainTransition
  rw [hreq]
  refine (if_neg (by rw [htrip, hfab]; exact Bool.false_ne_true)).trans (congrArg Host.Outcome.next ?_)
  exact foldl_toDomain_of_degraded _ _ rfl

theorem domainsChange : Claim.DomainsChange := by
  intro s
  refine ⟨fun hphase htrip => ?_, fun hno => if_pos ?_, fun want at_ hreq hwant hlen htrip hfab => ?_, fun hno => ?_, fun hreq => ?_⟩
  · obtain ⟨hpwr, hopen, hout, hpack⟩ := tripping_facts s
    obtain ⟨u, hu⟩ : ∃ u, s.tripping.toDomains tripDomains = u := ⟨_, rfl⟩
    have hframe : u.besidesDomains = s.tripping.besidesDomains := hu ▸ toDomains_besidesDomains tripDomains s.tripping
    have hpk : u.pack = s.pack := (pack_of_besidesDomains hframe).trans hpack
    have hopened : u.log.open_ = [] := hu ▸ toDomains_open hopen tripDomains
    refine ⟨_, exec_thermalTrip_of_good hphase htrip hu, rfl, ?_, fun d hd hd' => ?_, ?_, rfl, hopened,
      (out_of_besidesDomains hframe).trans hout, fun hrun => ?_⟩
    · exact congrArg (· + 1) ((trips_of_besidesDomains hframe).trans (congrArg Power.trips hpwr))
    · change u.pwr.domains.getD d 0 = 0
      rw [← hu]
      by_cases hlen : d < s.tripping.pwr.domains.length
      · refine toDomains_of_mem tripDomains _ (by decide) ?_ hlen
        exact List.mem_map.mpr ⟨d - 1, List.mem_range.mpr (by omega), by rw [Nat.sub_add_cancel hd]⟩
      · exact List.getD_eq_default _ _ (by rw [toDomains_length]; exact Nat.not_lt.mp hlen)
    · change u.pwr.domains.getD 0 0 = s.pwr.domains.getD 0 0
      rw [← hu, ← hpwr]
      refine toDomains_other _ fun x hx => ?_
      obtain ⟨i, -, rfl⟩ := List.mem_map.mp hx
      exact Nat.succ_ne_zero i
    · change (if u.pack.state = PackState.running then PackState.halted else _) = PackState.halted
      rw [hpk]
      exact if_pos hrun
  · rcases hno with htrip | hphase
    · rw [htrip, Bool.or_true]
    · rw [decide_eq_true hphase, Bool.true_or]
  · have hkeys : ((takenDomains s.rng.degraded want).map Prod.fst).Nodup := by
      refine List.Nodup.sublist (List.Sublist.map _ List.filter_sublist) ?_
      rw [enumFrom0_keys]
      exact List.nodup_range
    refine ⟨_, exec_domainTransition_of_request hreq htrip hfab, domReq_of_besidesDomains (toDomains_besidesDomains ..), ?_, fun d hd hd' => ?_⟩
    · refine toDomains_other _ fun x hx hx0 => ?_
      have hkept := (List.mem_filter.mp hx).2
      rw [decide_eq_true (Or.inl hx0)] at hkept
      exact Bool.false_ne_true hkept
    · split
      · next hskip =>
        refine toDomains_other _ fun x hx hxd => ?_
        have hkept := (List.mem_filter.mp hx).2
        rw [decide_eq_true (Or.inr (hxd ▸ hskip))] at hkept
        exact Bool.false_ne_true hkept
      · next htake =>
        refine toDomains_of_mem _ _ hkeys (List.mem_filter.mpr ⟨mem_enumFrom0_getD (by omega), ?_⟩) (show d < s.pwr.domains.length by omega)
        rw [decide_eq_false]
        · rfl
        · exact fun h => h.elim (fun h => absurd h (by omega)) htake
  · change execDomainTransition s = _
    unfold execDomainTransition
    split
    · rfl
    · refine if_pos ?_
      rcases hno with h | h
      · rw [h, Bool.true_or]
      · rw [h, Bool.or_true]
  · change execDomainTransition s = _
    unfold execDomainTransition
    rw [hreq]

/-- Settles O45: heat and power lower the rate, the loop follows its law, and the domains turn as they are asked to. -/
theorem heatAndPower : Obligations.HeatAndPower := ⟨rateFollowsHeatAndPower, coolantLoopRuns, domainsChange⟩

end Sys2Proof.Machine

end

section
/-! PROOFS. How Ranger serves one operation: the checks of R428 in their order, and what is answered; reads, and messages on its port. -/

namespace Sys2Proof.Machine
open State

/-! ## The checks of one operation -/

section
variable {s : State} {x : Op} {w : Nat} {b : Option BWrite} {h : Holdup}

theorem touch_closeDue (o : OpReq) : (s.touch o).rng.closeDue = s.rng.closeDue := by
  rw [touch_eq]

theorem touch_entry (o : OpReq) (key : Nat) : (s.touch o).entry key = s.entry key := by
  rw [touch_eq]
  rfl

theorem checkReady_of_serves (hserves : s.servesIn x.o w b) : (s.touch x.o).checkReady x = none := by
  obtain ⟨-, -, hlevel, hfw, -⟩ := hserves
  rw [touch_eq]
  exact checkReady_of_not_fwBusy hlevel hfw

/-- An operation that ends with a bare status is answered with it, and its session is kept open. -/
theorem single_of_status (hserves : s.servesIn x.o w b) {code : W16}
    (hrun : (s.touch x.o).runOp x h = some { s := s.touch x.o, status := code }) :
    s.single x h = .next ((s.touch x.o).answered x.o code []) := by
  have hdue : (s.touch x.o).rng.closeDue = false := by
    obtain ⟨-, -, -, -, hdue, -⟩ := hserves
    rw [touch_closeDue, hdue]
  rw [single_of_serves hserves h hrun, afterOp_of_status _ _ _ hdue]

theorem runOp_of_no_entry (hready : s.checkReady x = none) (hindex : x.index < 0xF000) (hentry : s.entry x.key = none) :
    s.runOp x h = some { s, status := 0x0102 } := by
  simp only [runOp, hready, if_neg (BitVec.not_le.mpr hindex), hentry]

theorem runOp_of_refused {e : DEntry} {code : W16} (hready : s.checkReady x = none) (hindex : x.index < 0xF000)
    (hentry : s.entry x.key = some e) (hrefused : s.checkOp x e = some code) : s.runOp x h = some (s.refuseOp x e code) := by
  simp only [runOp, hready, if_neg (BitVec.not_le.mpr hindex), hentry, hrefused]

theorem refuseOp_of_not_write {e : DEntry} {code : W16} (hop : x.op ≠ opWrite) : s.refuseOp x e code = { s, status := code } := by
  unfold refuseOp
  rw [if_neg fun h => hop h.1]

theorem checkOp_of_access {e : DEntry} {code : W16} (h : s.checkAccess x e = some code) : s.checkOp x e = some code := by
  simp only [checkOp, h]
  rfl

theorem checkOp_of_role {e : DEntry} {code : W16} (haccess : s.checkAccess x e = none) (h : s.checkRole x e = some code) :
    s.checkOp x e = some code := by
  simp only [checkOp, haccess, h]
  rfl

theorem checkOp_of_form {e : DEntry} {code : W16} (haccess : s.checkAccess x e = none) (hrole : s.checkRole x e = none)
    (h : checkForm x e = some code) : s.checkOp x e = some code := by
  simp only [checkOp, haccess, hrole, h]
  rfl

theorem checkOp_of_bundle {e : DEntry} (haccess : s.checkAccess x e = none) (hrole : s.checkRole x e = none)
    (hform : checkForm x e = none) : s.checkOp x e = s.checkBundle x e := by
  simp only [checkOp, haccess, hrole, hform]
  rfl

/-- A session whose role has a smaller code than the entry asks for fails step 4. -/
theorem checkRole_of_low {k : Session} (hk : (s.touch x.o).sessionOf x.o.sid = some k) (hvendor : k.role ≠ .vendor) {e : DEntry}
    (hlow : k.role.code < if x.reads then e.rd else e.wr) : (s.touch x.o).checkRole x e = some 0x0101 := by
  have hmay : roleMay (some k.role) x e = false := by
    cases hr : k.role with
    | vendor => exact absurd hr hvendor
    | observer | operator | owner => exact decide_eq_false (Nat.not_le.mpr (hr ▸ hlow))
  unfold checkRole
  rw [hk, Option.map_some, hmay]
  rfl

end

/-! ## Reads (O46) -/

section
variable {s : State} {x : Op} {e : DEntry} (hop : x.op = opRead ∨ x.op = opSegRead)
include hop

theorem checkAccess_of_read (hwo : e.acc ≠ .wo) (hcmd : e.acc ≠ .cmd) : s.checkAccess x e = none := by
  unfold checkAccess
  rw [if_pos (Op.reads_of_read hop), if_neg fun h => h.elim hwo hcmd]

theorem checkAccess_of_hidden (hacc : e.acc = .wo ∨ e.acc = .cmd) : s.checkAccess x e = some 0x0105 := by
  unfold checkAccess
  rw [if_pos (Op.reads_of_read hop), if_pos hacc]

theorem checkForm_of_read (htyp : x.o.typ = 0 ∨ x.o.typ = e.typ) (hseg : x.op = opSegRead → e.typ = tBlob) (hdata : x.o.data = []) :
    checkForm x e = none := by
  have hform : ¬((x.o.typ ≠ 0 ∧ x.o.typ ≠ e.typ) ∨ ((x.op = opSegWrite ∨ x.op = opSegRead) ∧ e.typ ≠ tBlob)) := by
    rintro (⟨h0, he⟩ | ⟨hs, hb⟩)
    · exact htyp.elim h0 he
    · rcases hs with hs | hs
      · rcases hop with h | h <;> rw [hs] at h <;> exact absurd h (by decide)
      · exact hb (hseg hs)
  unfold checkForm
  dsimp only
  rw [if_neg hform, if_pos (Op.reads_of_read hop), hdata, if_pos List.length_nil]

theorem checkForm_of_read_data (htyp : x.o.typ = 0 ∨ x.o.typ = e.typ) (hseg : x.op = opSegRead → e.typ = tBlob) (hdata : x.o.data ≠ []) :
    checkForm x e = some 0x0202 := by
  have hform : ¬((x.o.typ ≠ 0 ∧ x.o.typ ≠ e.typ) ∨ ((x.op = opSegWrite ∨ x.op = opSegRead) ∧ e.typ ≠ tBlob)) := by
    rintro (⟨h0, he⟩ | ⟨hs, hb⟩)
    · exact htyp.elim h0 he
    · rcases hs with hs | hs
      · rcases hop with h | h <;> rw [hs] at h <;> exact absurd h (by decide)
      · exact hb (hseg hs)
  unfold checkForm
  dsimp only
  rw [if_neg hform, if_pos (Op.reads_of_read hop), if_neg fun h => hdata (List.eq_nil_of_length_eq_zero h)]

theorem checkBundle_of_read : s.checkBundle x e = none := by
  unfold checkBundle
  split
  · rw [if_neg fun h => Op.not_command_of_read hop h.1]
  · rw [if_pos (Op.reads_of_read hop)]

end

theorem resultBytes_length (status : W16) (retry : Nat) (data : List Byte) :
    (resultBytes status retry data).length = 8 + (data.length + 3) / 4 * 4 := by
  simp only [resultBytes, List.length_append, leBytes_length, List.length_replicate, List.length_cons, List.length_nil]
  omega

/-- The part of an entry's value that a read asks for: all, or 1,024 bytes from its offset. -/
def Op.segment (x : Op) : Option Nat := if x.op = opSegRead then some x.o.offset.toNat else none

section
variable {s : State} {x : Op} {w : Nat} {b : Option BWrite} {h : Holdup} {e : DEntry}

theorem readOp_of_shown (hshown : coreRegs x.key = none ∨ s.pwr.domains.getD 2 0 ≠ 2) :
    s.readOp x = { s, data := cutRead x.segment (s.readEntry x.o.sid x.key) } := by
  unfold readOp
  rcases hregs : coreRegs x.key with _ | ⟨_ | ⟨off, rest⟩, n⟩
  · rfl
  · rfl
  · exact if_neg (hshown.resolve_left fun hnone => by rw [hnone] at hregs; cases hregs)

theorem readOp_of_asked {off n : Nat} {rest : List Nat} (hregs : coreRegs x.key = some (off :: rest, n)) (hon : s.pwr.domains.getD 2 0 = 2) :
    s.readOp x = { s := s.askCore (BitVec.ofNat 11 s.dict.coreSelect.toNat) off,
                   job := some (.coreRead (BitVec.ofNat 11 s.dict.coreSelect.toNat) (off :: rest) [] n x.segment) } := by
  unfold readOp
  simp only [hregs]
  exact if_pos hon

theorem doOp_of_read (hop : x.op = opRead ∨ x.op = opSegRead) : s.doOp x e h = s.readOp x := if_pos (Op.reads_of_read hop)

/-- A read that passes the checks of R428. -/
theorem runOp_of_read (hop : x.op = opRead ∨ x.op = opSegRead) (hserves : s.servesIn x.o w b) (hindex : x.index < 0xF000)
    (hentry : s.entry x.key = some e) (hwo : e.acc ≠ .wo) (hcmd : e.acc ≠ .cmd) (hrd : e.rd ≤ w) (htyp : x.o.typ = 0 ∨ x.o.typ = e.typ)
    (hseg : x.op = opSegRead → e.typ = tBlob) (hdata : x.o.data = []) : (s.touch x.o).runOp x h = some ((s.touch x.o).readOp x) := by
  have hrole : (s.touch x.o).checkRole x e = none :=
    checkRole_of_serves hserves (by rw [Op.reads_of_read hop, if_pos rfl]; exact hrd)
  have hchecked : (s.touch x.o).checkOp x e = none := by
    rw [checkOp_of_bundle (checkAccess_of_read hop hwo hcmd) hrole (checkForm_of_read hop htyp hseg hdata)]
    exact checkBundle_of_read hop
  rw [runOp_of_checked h (checkReady_of_serves hserves) hindex ((touch_entry ..).trans hentry) hchecked, doOp_of_read hop]

/-- An operation that fails a check of R428 and is no write of a bundle. -/
theorem single_of_refused (hop : x.op ≠ opWrite) (hserves : s.servesIn x.o w b) (hindex : x.index < 0xF000)
    (hentry : s.entry x.key = some e) {code : W16} (hrefused : (s.touch x.o).checkOp x e = some code) :
    s.single x h = .next ((s.touch x.o).answered x.o code []) := by
  refine single_of_status hserves ?_
  rw [runOp_of_refused (checkReady_of_serves hserves) hindex ((touch_entry ..).trans hentry) hrefused, refuseOp_of_not_write hop]

theorem afterOp_of_data {data : List Byte} (hdue : s.rng.closeDue = false) (hfits : data.length ≤ 1392) :
    afterOp x { s, data } = s.answered x.o 0 data := by
  have hshort : ¬1400 < (resultBytes 0 0 data).length := by
    rw [resultBytes_length]
    omega
  unfold afterOp
  exact (if_neg hshort).trans (closeAll_of_not_due hdue)

theorem afterOp_of_long {data : List Byte} (hlong : 1392 < data.length) : afterOp x { s, data } = s := by
  have hlong' : 1400 < (resultBytes 0 0 data).length := by
    rw [resultBytes_length]
    omega
  exact if_pos hlong'

end

theorem opRead_ne_write : opRead ≠ opWrite := by decide

theorem reads : Claim.Reads := by
  intro s index o key u shown core hserves hindex
  have hdue : u.rng.closeDue = false := (touch_closeDue o).trans hserves.2.2.2.2.1
  have hread : (⟨opRead, index, o⟩ : Op).op = opRead ∨ (⟨opRead, index, o⟩ : Op).op = opSegRead := .inl rfl
  have hsegRead : (⟨opSegRead, index, o⟩ : Op).op = opRead ∨ (⟨opSegRead, index, o⟩ : Op).op = opSegRead := .inr rfl
  have hnotSeg : ∀ e : DEntry, (⟨opRead, index, o⟩ : Op).op = opSegRead → e.typ = tBlob := fun e h => absurd h (by decide : opRead ≠ opSegRead)
  have hcore : u.dict.coreSelect = s.dict.coreSelect := by
    change (s.touch o).dict.coreSelect = _
    rw [touch_eq]
  have hpwr : u.pwr = s.pwr := by
    change (s.touch o).pwr = _
    rw [touch_eq]
  have hshown' : shown → ∀ op, coreRegs (⟨op, index, o⟩ : Op).key = none ∨ u.pwr.domains.getD 2 0 ≠ 2 := fun h _ => hpwr.symm ▸ h
  have hon' : s.pwr.domains.getD 2 0 = 2 → u.pwr.domains.getD 2 0 = 2 := fun h => hpwr.symm ▸ h
  have hregs' : ∀ op {r : List Nat × Nat}, coreRegs key = some r → coreRegs (⟨op, index, o⟩ : Op).key = some r := fun _ _ h => h
  refine ⟨fun hentry => ?_, fun e hentry => ⟨fun hacc => ?_, fun hwo hcmd => ⟨fun k hk hlow => ?_, fun hserves htyp htyp' => ?_,
    fun hserves htyp hdata => ?_, fun hserves htyp hdata => ⟨fun hshown hfits => ?_, fun hshown hlong => ?_, fun hshown hblob => ?_,
    fun hblob => ?_, fun off more n hregs hon => ⟨?_, fun hblob => ?_⟩⟩⟩⟩⟩
  · exact single_of_status (x := ⟨opRead, index, o⟩) hserves
      (runOp_of_no_entry (checkReady_of_serves (x := ⟨opRead, index, o⟩) hserves) hindex ((touch_entry ..).trans hentry))
  · exact single_of_refused (x := ⟨opRead, index, o⟩) opRead_ne_write hserves hindex hentry
      (checkOp_of_access (checkAccess_of_hidden hread hacc))
  · obtain ⟨k', hk', -, hvendor, -⟩ := hserves.2.2.2.2.2.2.2
    have hsame : k' = k := Option.some.inj (hk'.symm.trans hk)
    refine single_of_refused (x := ⟨opRead, index, o⟩) opRead_ne_write hserves hindex hentry
      (checkOp_of_role (checkAccess_of_read hread hwo hcmd)
        (checkRole_of_low (x := ⟨opRead, index, o⟩) (sessionOf_touch hk) (show k.role ≠ .vendor from hsame ▸ hvendor) ?_))
    rw [Op.reads_of_read hread]
    exact hlow
  · refine single_of_refused (x := ⟨opRead, index, o⟩) opRead_ne_write hserves hindex hentry
      (checkOp_of_form (checkAccess_of_read hread hwo hcmd) (checkRole_of_serves (x := ⟨opRead, index, o⟩) hserves ?_) ?_)
    · rw [Op.reads_of_read hread]
      exact le_refl _
    · exact if_pos (.inl ⟨htyp, htyp'⟩)
  · refine single_of_refused (x := ⟨opRead, index, o⟩) opRead_ne_write hserves hindex hentry
      (checkOp_of_form (checkAccess_of_read hread hwo hcmd) (checkRole_of_serves (x := ⟨opRead, index, o⟩) hserves ?_) ?_)
    · rw [Op.reads_of_read hread]
      exact le_refl _
    · exact checkForm_of_read_data hread htyp (hnotSeg e) hdata
  · refine (single_of_serves (x := ⟨opRead, index, o⟩) hserves noHoldup
      ((runOp_of_read hread hserves hindex hentry hwo hcmd (le_refl _) htyp (hnotSeg e) hdata).trans
        (congrArg some (readOp_of_shown (hshown' hshown _))))).trans (congrArg Host.Outcome.next ?_)
    exact afterOp_of_data hdue hfits
  · refine (single_of_serves (x := ⟨opRead, index, o⟩) hserves noHoldup
      ((runOp_of_read hread hserves hindex hentry hwo hcmd (le_refl _) htyp (hnotSeg e) hdata).trans
        (congrArg some (readOp_of_shown (hshown' hshown _))))).trans (congrArg Host.Outcome.next ?_)
    exact afterOp_of_long hlong
  · refine (single_of_serves (x := ⟨opSegRead, index, o⟩) hserves noHoldup
      ((runOp_of_read hsegRead hserves hindex hentry hwo hcmd (le_refl _) htyp (fun _ => hblob) hdata).trans
        (congrArg some (readOp_of_shown (hshown' hshown _))))).trans (congrArg Host.Outcome.next ?_)
    refine afterOp_of_data hdue ((List.length_take_le _ _).trans (by decide))
  · refine single_of_refused (x := ⟨opSegRead, index, o⟩) (by decide : opSegRead ≠ opWrite) hserves hindex hentry
      (checkOp_of_form (checkAccess_of_read hsegRead hwo hcmd) (checkRole_of_serves (x := ⟨opSegRead, index, o⟩) hserves ?_) ?_)
    · rw [Op.reads_of_read hsegRead]
      exact le_refl _
    · exact if_pos (.inr ⟨.inr rfl, hblob⟩)
  · exact (single_of_serves (x := ⟨opRead, index, o⟩) hserves noHoldup
      ((runOp_of_read hread hserves hindex hentry hwo hcmd (le_refl _) htyp (hnotSeg e) hdata).trans
        (congrArg some (readOp_of_asked (hregs' _ hregs) (hon' hon))))).trans (congrArg Host.Outcome.next (by rw [hcore]; rfl))
  · exact (single_of_serves (x := ⟨opSegRead, index, o⟩) hserves noHoldup
      ((runOp_of_read hsegRead hserves hindex hentry hwo hcmd (le_refl _) htyp (fun _ => hblob) hdata).trans
        (congrArg some (readOp_of_asked (hregs' _ hregs) (hon' hon))))).trans (congrArg Host.Outcome.next (by rw [hcore]; rfl))

/-! ## The vendor range -/

theorem any_vendor_touch {s : State} {o : OpReq} {k : Session} (hk : s.sessionOf o.sid = some k) :
    ((s.touch o).sessionOf o.sid).any (fun k => k.role = .vendor) = decide (k.role = .vendor) := by
  rw [sessionOf_touch hk]
  rfl

theorem vendorRange : Claim.VendorRange := by
  intro s index o hindex
  refine ⟨fun hserves => ?_, fun hlisten hstore hlevel hfw hsid k hk hconf hvendor => ?_⟩
  · refine single_of_status (x := ⟨opRead, index, o⟩) hserves ?_
    have hready := checkReady_of_serves (x := ⟨opRead, index, o⟩) hserves
    obtain ⟨k, hk, -, hvendor, -⟩ := hserves.2.2.2.2.2.2.2
    unfold runOp
    rw [hready]
    dsimp only
    rw [if_pos hindex, any_vendor_touch hk, decide_eq_false hvendor]
    rfl
  · change s.single ⟨opRead, index, o⟩ noHoldup = _
    have htouch : s.touch o = s.setSession { k with enc := o.enc, last := s.nowMs } := by simp only [touch, hk]
    have hready : (s.touch o).checkReady ⟨opRead, index, o⟩ = none := by
      rw [touch_eq]
      exact checkReady_of_not_fwBusy hlevel hfw
    have hrun : (s.touch o).runOp ⟨opRead, index, o⟩ noHoldup = none := by
      unfold runOp
      rw [hready]
      dsimp only
      rw [if_pos hindex, any_vendor_touch hk, decide_eq_true hvendor]
      rfl
    unfold single handleOp
    simp only [hlisten, hstore, Bool.not_true, Bool.false_eq_true, if_false, if_neg hsid, hk, if_pos hconf, ← htouch, hrun]
    rfl

/-! ## Messages on the port of the Parameter Protocol -/

/-- The operations of a body carry the session of their message. -/
theorem parseOps_sid {sid : W32} {enc : Bool} : ∀ {fuel : Nat} {bs : List Byte} {ops : List Op}, parseOps sid enc fuel bs = some ops →
    ∀ x ∈ ops, x.o.sid = sid := by
  intro fuel
  induction fuel with
  | zero =>
    intro bs ops h x hx
    unfold parseOps at h
    split at h
    · cases h
      exact absurd hx List.not_mem_nil
    · cases h
  | succ fuel ih =>
    intro bs ops h x hx
    unfold parseOps at h
    split at h
    · cases h
      exact absurd hx List.not_mem_nil
    · next code more =>
      dsimp only at h
      generalize (if code = opSegWrite ∨ code = opSegRead then 16 else 8) = at_ at h
      split at h
      · cases h
      · obtain ⟨r, hr, rfl⟩ := Option.map_eq_some_iff.mp h
        rcases List.mem_cons.mp hx with rfl | hx
        · rfl
        · exact ih hr x hx

/-- Only entries of a core's control block are read from the core, and an Observer reads none of them. -/
theorem coreRegs_of_observer {s : State} {key : Nat} {e : DEntry} (he : s.entry key = some e) (hrd : e.rd = 0) : coreRegs key = none := by
  unfold coreRegs
  split_ifs with h200 h300
  · subst h200
    cases he
    exact absurd hrd (by decide)
  · subst h300
    cases he
    exact absurd hrd (by decide)
  · rfl

theorem receive_of_msg {s : State} {peer : Peer} {bytes : List Byte} {h : Holdup} {m : Msg} {typ : Byte} (hlisten : s.listening = true)
    (hm : parseMsg bytes = some m) (htyp : m.typ = typ) :
    s.receive typ peer bytes h = if s.storing? then .next (s.enqueue (.msg peer bytes)) else outcome (s.handleMsg peer m h) := by
  unfold receive
  rw [hlisten, hm]
  exact (if_neg Bool.false_ne_true).trans (if_neg fun hne => hne htyp)

theorem receive_of_deaf {s : State} {peer : Peer} {bytes : List Byte} {h : Holdup} {typ : Byte} (hlisten : s.listening = false) :
    s.receive typ peer bytes h = .next s := if_pos (by rw [hlisten]; rfl)

theorem receive_of_no_msg {s : State} {peer : Peer} {bytes : List Byte} {h : Holdup} {typ : Byte} (hm : parseMsg bytes = none) :
    s.receive typ peer bytes h = .next s := by
  unfold receive
  rw [hm]
  exact ite_self _

/-- A read by an Observer outside a session, which passes the checks of R428. -/
theorem runOp_of_observer {s : State} {x : Op} {e : DEntry} {h : Holdup} (hop : x.op = opRead) (hindex : x.index < 0xF000) (hsid : x.o.sid = 0)
    (hlevel : s.rng.level = 2) (hfw : s.fwBusy = false) (hsession : s.sessionOf 0 = none) (hentry : s.entry x.key = some e)
    (hwo : e.acc ≠ .wo) (hcmd : e.acc ≠ .cmd) (hrd : e.rd = 0) (htyp : x.o.typ = 0 ∨ x.o.typ = e.typ) (hdata : x.o.data = []) :
    s.runOp x h = some { s, data := s.readEntry 0 x.key } := by
  have hread : x.op = opRead ∨ x.op = opSegRead := .inl hop
  have hnotSeg : x.op = opSegRead → e.typ = tBlob := fun hs => absurd (hop.symm.trans hs) (by decide)
  have hrole : s.checkRole x e = none := by
    unfold checkRole
    rw [hsid, hsession, Option.map_none]
    have hmay : roleMay none x e = true := by
      unfold roleMay
      rw [decide_eq_true hop, decide_eq_true hrd]
      rfl
    rw [hmay]
    exact (if_neg Bool.false_ne_true).trans (if_neg fun h => h.1 rfl)
  have hchecked : s.checkOp x e = none := by
    rw [checkOp_of_bundle (checkAccess_of_read hread hwo hcmd) hrole (checkForm_of_read hread htyp hnotSeg hdata)]
    exact checkBundle_of_read hread
  rw [runOp_of_checked h (checkReady_of_not_fwBusy hlevel hfw) hindex hentry hchecked, doOp_of_read hread,
    readOp_of_shown (.inl (coreRegs_of_observer hentry hrd)), hsid]
  unfold Op.segment
  rw [if_neg (by rw [hop]; decide)]
  rfl

theorem requestsAreAnswered : Claim.RequestsAreAnswered := by
  intro s peer bytes h m x e
  refine ⟨receive_of_deaf, receive_of_no_msg, fun hlisten hm htyp hstore hroom => ?_, fun hlisten hm htyp hstore hsid hops hop hindex hlevel
    hfw hdue hsession hentry hwo hcmd hrd htypx hdata hfits => ?_⟩
  · refine (receive_of_msg hlisten hm htyp).trans ((if_pos hstore).trans (congrArg Host.Outcome.next ?_))
    exact if_neg (Nat.not_le.mpr hroom)
  · refine (receive_of_msg hlisten hm htyp).trans ((if_neg (by rw [hstore]; exact Bool.false_ne_true)).trans ?_)
    have hmsg : s.handleMsg peer m h = s.request peer 0 m.mseq false m.body h := by
      unfold handleMsg
      rw [htyp, hsid]
      rfl
    have hx : x.o.sid = 0 := parseOps_sid hops x List.mem_cons_self
    have hrun := runOp_of_observer (h := h) hop hindex hx hlevel hfw hsession hentry hwo hcmd hrd htypx hdata
    have hreply : s.request peer 0 m.mseq false m.body h = some (s.respond
        { peer, session := 0, mseq := m.mseq, enc := false, ops := [], results := [] } ([] ++ resultBytes 0 0 (s.readEntry 0 x.key))) := by
      unfold State.request
      rw [hops]
      dsimp only
      unfold runOps
      rw [hrun]
      dsimp only
      refine (if_neg ?_).trans rfl
      rw [resultBytes_length, List.length_nil]
      omega
    rw [hmsg, hreply]
    refine congrArg Host.Outcome.next ?_
    exact closeAll_of_not_due (s := ({ s with rng := { s.rng with cur := none } } : State).sendPlain peer portKpp 0x02 m.mseq
      ([] ++ resultBytes 0 0 (s.readEntry 0 x.key))) hdue

/-- Settles O46: reads and requests are answered, with the first failing check of R428, or with the value. -/
theorem messagesAreAnswered : Obligations.MessagesAreAnswered := ⟨reads, vendorRange, requestsAreAnswered⟩

end Sys2Proof.Machine

end

section
/-! PROOFS. Sessions of the Parameter Protocol: opened, confirmed, closed, expired. -/

namespace Sys2Proof.Machine
open State

/-! ## Sessions (O47) -/

section
variable {s : State} {peer : Peer} {bytes : List Byte} {m : Msg} (hlisten : s.listening = true) (hstore : s.storing? = false)
  (hm : parseMsg bytes = some m)
include hlisten hstore hm

theorem receive_of_served {h : Holdup} {typ : Byte} (htyp : m.typ = typ) : s.receive typ peer bytes h = outcome (s.handleMsg peer m h) :=
  (receive_of_msg hlisten hm htyp).trans (if_neg (by rw [hstore]; exact Bool.false_ne_true))

theorem exec_openSession_of_open (htyp : m.typ = 0x10) (hsid : m.sid = 0) :
    exec (.openSession peer bytes) s = .next (s.openSession peer m) := by
  refine (receive_of_served hlisten hstore hm htyp).trans ?_
  unfold handleMsg
  rw [if_pos htyp, if_pos hsid]
  rfl

theorem exec_confirm_of_confirm (htyp : m.typ = 0x12) : exec (.confirm peer bytes) s = .next (s.confirmSession peer m) := by
  refine (receive_of_served hlisten hstore hm htyp).trans ?_
  unfold handleMsg
  rw [htyp]
  rfl

theorem exec_close_of_close (htyp : m.typ = 0x13) :
    exec (.close peer bytes) s = .next (if (s.accept m false).2.isSome then (s.accept m false).1.closeSession m.sid else (s.accept m false).1) := by
  refine (receive_of_served hlisten hstore hm htyp).trans ?_
  unfold handleMsg
  rw [htyp]
  rcases s.accept m false with ⟨t, _ | r⟩ <;> rfl

end

section
variable {s : State} {peer : Peer} {m : Msg} (hlen : m.body.length = 128) (hlevel : s.rng.level = 2)
include hlen hlevel

theorem openSession_of_no_role (hrole : roleOf m.role = none) : s.openSession peer m = s.openFail peer m.mseq 0x0103 0 := by
  unfold State.openSession
  rw [if_neg fun h => h hlen, if_neg (by rw [hlevel]; decide), hrole]

theorem openSession_of_unauthorised {role : Role} (hrole : roleOf m.role = some role)
    (hkey : s.keyMay role (BitVec.ofNat 256 (beNat (slice m.body 0 32))) = false) :
    s.openSession peer m = s.openFail peer m.mseq 0x0103 0 := by
  unfold State.openSession
  rw [if_neg fun h => h hlen, if_neg (by rw [hlevel]; decide), hrole]
  exact if_pos (by rw [hkey]; rfl)

theorem openSession_of_full {role : Role} (hrole : roleOf m.role = some role)
    (hkey : s.keyMay role (BitVec.ofNat 256 (beNat (slice m.body 0 32))) = true) (hfull : 16 ≤ s.rng.sessions.length) :
    s.openSession peer m = s.openFail peer m.mseq 0x0104 0 := by
  unfold State.openSession
  rw [if_neg fun h => h hlen, if_neg (by rw [hlevel]; decide), hrole]
  exact (if_neg (by rw [hkey]; exact Bool.false_ne_true)).trans (if_pos hfull)

theorem openSession_of_free {role : Role} (hrole : roleOf m.role = some role)
    (hkey : s.keyMay role (BitVec.ofNat 256 (beNat (slice m.body 0 32))) = true) (hroom : s.rng.sessions.length < 16) :
    ∃ n reply, s.openSession peer m =
        ({ s.draw with rng := { s.draw.rng with sessions := s.rng.sessions ++ [n] } } : State).sendPlain peer portKpp 0x11 m.mseq reply ∧
      n.sid = s.newSid ∧ n.role = role ∧ n.keyId = BitVec.ofNat 256 (beNat (slice m.body 0 32)) ∧ n.peer = peer ∧ n.confirmed = false ∧
      n.bw = none := by
  unfold State.openSession
  rw [if_neg fun h => h hlen, if_neg (by rw [hlevel]; decide), hrole]
  exact ⟨_, _, (if_neg (by rw [hkey]; exact Bool.false_ne_true)).trans (if_neg (Nat.not_le.mpr hroom)), rfl, rfl, rfl, rfl, rfl, rfl⟩

end

/-- The numbers 1 to 17, of which fewer than 17 sessions leave one free. -/
def smallSids : List W32 := (List.range' 1 17).map fun i => BitVec.ofNat 32 i

theorem smallSid_free {s : State} (hroom : s.rng.sessions.length < 16) : ∃ n ∈ smallSids, s.sessionOf n = none := by
  by_contra hnone
  have hsub : smallSids ⊆ s.rng.sessions.map (·.sid) := fun n hn => by
    have hsome : s.sessionOf n ≠ none := fun h => hnone ⟨n, hn, h⟩
    obtain ⟨k, hk⟩ := Option.ne_none_iff_exists'.mp hsome
    have hsid : k.sid = n := of_decide_eq_true (List.find?_some (p := fun k : Session => decide (k.sid = n)) hk)
    exact List.mem_map.mpr ⟨k, List.mem_of_find?_eq_some hk, hsid⟩
  have hle := (List.subperm_of_subset (by decide : smallSids.Nodup) hsub).length_le
  rw [List.length_map, show smallSids.length = 17 from rfl] at hle
  omega

theorem smallSid_ne_zero {n : W32} (hn : n ∈ smallSids) : n ≠ 0 := by
  obtain ⟨i, hi, rfl⟩ := List.mem_map.mp hn
  rw [List.mem_range'_1] at hi
  intro h
  have hnat : i % 2 ^ 32 = 0 := (BitVec.toNat_ofNat i 32).symm.trans (congrArg BitVec.toNat h)
  omega

/-- A new session number is not 0, and no session has it. -/
theorem newSid_free {s : State} (hroom : s.rng.sessions.length < 16) : s.newSid ≠ 0 ∧ s.sessionOf s.newSid = none := by
  have hfree : ∀ n : W32, (decide (n ≠ 0) && (s.sessionOf n).isNone) = true → n ≠ 0 ∧ s.sessionOf n = none := fun n h => by
    rwa [Bool.and_eq_true, decide_eq_true_eq, Option.isNone_iff_eq_none] at h
  unfold newSid
  dsimp only
  split
  · next h => exact hfree _ h
  · obtain ⟨n, hn, hnone⟩ := smallSid_free hroom
    have hn0 : n ≠ 0 := smallSid_ne_zero hn
    obtain ⟨i, hi, rfl⟩ := List.mem_map.mp hn
    rw [List.mem_range'_1] at hi
    have hmem : BitVec.ofNat 32 i ∈ (List.range 18).map fun i => BitVec.ofNat 32 i :=
      List.mem_map.mpr ⟨i, List.mem_range.mpr (by omega), rfl⟩
    have hsome : (((List.range 18).map fun i => BitVec.ofNat 32 i).find? fun n => decide (n ≠ 0) && (s.sessionOf n).isNone).isSome = true :=
      List.find?_isSome.mpr ⟨_, hmem, by rw [decide_eq_true hn0, hnone]; rfl⟩
    obtain ⟨k, hk⟩ := Option.isSome_iff_exists.mp hsome
    rw [hk]
    exact hfree k (List.find?_some (p := fun n : W32 => decide (n ≠ 0) && (s.sessionOf n).isNone) hk)

/-! ## Closing a session -/

theorem closeSession_sessionOf_same (s : State) (sid : W32) : (s.closeSession sid).sessionOf sid = none := by
  refine List.find?_eq_none.mpr fun k hk => ?_
  have hne := (List.mem_filter.mp hk).2
  rw [decide_eq_true_eq] at hne ⊢
  exact hne

theorem closeSession_sessionOf_other (s : State) {sid n : W32} (hn : n ≠ sid) : (s.closeSession sid).sessionOf n = s.sessionOf n := by
  unfold sessionOf closeSession
  dsimp only
  rw [List.find?_filter]
  congr 1
  funext k
  by_cases hk : k.sid = n
  · simp [hk, hn]
  · simp [hk]

theorem setSession_sessionOf_other (s : State) (k : Session) {n : W32} (hn : n ≠ k.sid) : (s.setSession k).sessionOf n = s.sessionOf n := by
  have hsame : ((fun x : Session => decide (x.sid = n)) ∘ fun x : Session => if x.sid = k.sid then k else x) =
      fun x => decide (x.sid = n) := by
    funext x
    by_cases hx : x.sid = k.sid
    · simp [hx]
    · simp [hx]
  unfold sessionOf setSession
  dsimp only
  rw [List.find?_map, hsame]
  rcases hfound : s.rng.sessions.find? fun x => decide (x.sid = n) with _ | x
  · rw [hfound]
    rfl
  · rw [hfound]
    have hx : x.sid = n := of_decide_eq_true (List.find?_some (p := fun x : Session => decide (x.sid = n)) hfound)
    exact congrArg some (if_neg (hx ▸ hn))

/-! ## A message in a session -/

section
variable {s : State} {m : Msg} {k : Session} (hk : s.sessionOf m.sid = some k) (hconf : k.confirmed = true)
include hk hconf

theorem accept_of_unauthentic (hbody : openBody k m = none) : s.accept m false = (s.authFailed, none) := by
  unfold accept
  rw [hk]
  dsimp only
  rw [if_neg (by rw [hconf]; exact Bool.false_ne_true), hbody]

theorem accept_of_repeated {b : List Byte} (hbody : openBody k m = some b) (hfresh : seqFresh k.rxHigh k.rxSeen m.mseq.toNat = false) :
    s.accept m false = (s.authFailed, none) := by
  unfold accept
  rw [hk]
  dsimp only
  rw [if_neg (by rw [hconf]; exact Bool.false_ne_true), hbody]
  exact if_pos (by rw [if_neg Bool.false_ne_true, hfresh]; rfl)

theorem accept_of_fresh {b : List Byte} (hbody : openBody k m = some b) (hfresh : seqFresh k.rxHigh k.rxSeen m.mseq.toNat = true) :
    ∃ k' : Session, s.accept m false = (s.setSession k', some (k', b)) ∧ k'.sid = k.sid := by
  unfold accept
  rw [hk]
  dsimp only
  rw [if_neg (by rw [hconf]; exact Bool.false_ne_true), hbody]
  simp only [Bool.false_eq_true, if_false, hfresh, Bool.not_true]
  exact ⟨_, rfl, rfl⟩

end

theorem sid_of_sessionOf {s : State} {n : W32} {k : Session} (h : s.sessionOf n = some k) : k.sid = n :=
  of_decide_eq_true (List.find?_some (p := fun x : Session => decide (x.sid = n)) h)

/-- Settles O47: a session opens, is confirmed, closes and expires as its messages say, and no other session changes. -/
theorem sessionsComeAndGo : Obligations.SessionsComeAndGo := by
  intro s peer bytes m role k keyId signed hlisten hstore hm
  refine ⟨fun htyp hsid hlen hlevel => ?_, fun htyp hk hconf => ?_, fun htyp hk hconf => ⟨fun hbody => ?_, fun b hbody hfresh => ?_,
    fun b hbody hfresh => ?_⟩, fun hk hdue => ?_, fun hk hwait => ?_⟩
  · have hexec := exec_openSession_of_open (peer := peer) hlisten hstore hm htyp hsid
    refine ⟨fun hrole => ?_, fun hrole hkey => ?_, fun hrole hkey hfull => ?_, fun hrole hkey hroom => ?_⟩
    · rw [hexec, openSession_of_no_role hlen hlevel hrole]
    · rw [hexec, openSession_of_unauthorised hlen hlevel hrole hkey]
    · rw [hexec, openSession_of_full hlen hlevel hrole hkey hfull]
    · obtain ⟨n, reply, hopen, hn, hnrole, hkeyId, hpeer, hconf, hbw⟩ := openSession_of_free (peer := peer) hlen hlevel hrole hkey hroom
      obtain ⟨hne, hnew⟩ := newSid_free hroom
      exact ⟨_, n, _, _, hexec.trans (congrArg Host.Outcome.next hopen), rfl, hn ▸ hne, hn ▸ hnew, hnrole, hkeyId, hpeer, hconf, hbw, rfl⟩
  · have hexec := exec_confirm_of_confirm (peer := peer) hlisten hstore hm htyp
    refine ⟨fun hlen hsigned => hexec.trans (congrArg Host.Outcome.next ?_), fun hsigned => hexec.trans (congrArg Host.Outcome.next ?_)⟩
    · unfold confirmSession
      rw [hk]
      exact (if_neg (by rw [hconf]; exact Bool.false_ne_true)).trans (if_pos ⟨hlen, hsigned⟩)
    · unfold confirmSession
      rw [hk]
      exact (if_neg (by rw [hconf]; exact Bool.false_ne_true)).trans (if_neg fun h => Bool.false_ne_true (hsigned.symm.trans h.2))
  · rw [exec_close_of_close hlisten hstore hm htyp, accept_of_unauthentic hk hconf hbody]
    rfl
  · rw [exec_close_of_close hlisten hstore hm htyp, accept_of_repeated hk hconf hbody hfresh]
    rfl
  · obtain ⟨k', haccept, hsid⟩ := accept_of_fresh hk hconf hbody hfresh
    refine ⟨(s.setSession k').closeSession m.sid, ?_, closeSession_sessionOf_same _ _, fun n hn => ?_, rfl⟩
    · rw [exec_close_of_close hlisten hstore hm htyp, haccept]
      rfl
    · exact (closeSession_sessionOf_other _ hn).trans (setSession_sessionOf_other _ _ ((hsid.trans (sid_of_sessionOf hk)).symm ▸ hn))
  · change execSessionIdleTimeout k.sid s = _
    unfold execSessionIdleTimeout
    rw [hk]
    exact if_pos hdue
  · change execSessionIdleTimeout k.sid s = _
    unfold execSessionIdleTimeout
    rw [hk]
    exact if_neg (Nat.not_le.mpr hwait)

end Sys2Proof.Machine

end

section
/-! PROOFS. Writes of single entries: their checks, their effects, and the stores that they begin. -/

namespace Sys2Proof.Machine
open State

/-! ## The rows that write an entry (O48) -/

theorem exec_of_entryWrite {i : Instr} {s : State} {index : W16} {o : OpReq} {h : Holdup} (hi : entryWrite i = some (index, o, h)) :
    exec i s = s.single (s.writeOp index o) h := by
  unfold entryWrite at hi
  split at hi
  case h_21 =>
    split at hi
    · cases hi
    · next hrange =>
      cases hi
      exact if_neg hrange
  case h_22 =>
    split at hi
    · cases hi
    · cases hi
      rfl
  case h_23 => cases hi
  all_goals
    cases hi
    rfl

theorem wholeOp_cases : ∀ whole : Bool, (if whole then opWrite else opSegWrite) = opWrite ∨ (if whole then opWrite else opSegWrite) = opSegWrite
  | true => .inl rfl
  | false => .inr rfl

theorem writeOp_op (s : State) (index : W16) (o : OpReq) : (s.writeOp index o).op = opWrite ∨ (s.writeOp index o).op = opSegWrite :=
  wholeOp_cases _

theorem writeOp_of_whole {s : State} {index : W16} {o : OpReq} {e : DEntry} (he : s.entry (index.toNat * 256 + o.sub.toNat) = some e)
    (hwhole : e.size = some o.data.length ∨ e.typ ≠ tBlob) : s.writeOp index o = writeOf index o := by
  have hbool : (decide (e.typ ≠ tBlob) || decide (e.size = some o.data.length)) = true := by
    rw [Bool.or_eq_true, decide_eq_true_eq, decide_eq_true_eq]
    exact hwhole.symm
  unfold writeOp writeOf
  rw [he]
  dsimp only
  rw [if_pos hbool]

theorem writeOp_of_part {s : State} {index : W16} {o : OpReq} {e : DEntry} (he : s.entry (index.toNat * 256 + o.sub.toNat) = some e)
    (hsize : e.size ≠ some o.data.length) (htyp : e.typ = tBlob) : s.writeOp index o = { op := opSegWrite, index, o } := by
  have hbool : ¬(decide (e.typ ≠ tBlob) || decide (e.size = some o.data.length)) = true := by
    rw [Bool.or_eq_true, decide_eq_true_eq, decide_eq_true_eq]
    exact fun h => h.elim (fun h => h htyp) hsize
  unfold writeOp
  rw [he]
  dsimp only
  rw [if_neg hbool]

section
variable {s : State} {x : Op} {e : DEntry} {w : Nat} {h : Holdup} (hop : x.op = opWrite ∨ x.op = opSegWrite)
include hop

theorem checkAccess_of_write (hacc : e.acc = .rw ∨ e.acc = .rws ∨ e.acc = .wo) : s.checkAccess x e = none := by
  unfold checkAccess
  rw [Op.reads_of_write hop, if_neg Bool.false_ne_true, if_neg (Op.not_command_of_write hop)]
  rcases hacc with h | h | h <;> rw [h] <;> rfl

theorem checkBundle_of_write (hopen : s.openBundle x = none) : s.checkBundle x e = none := by
  unfold checkBundle
  rw [hopen]
  exact if_neg fun h => Op.not_command_of_write hop h.1

theorem doOp_of_write (himage : isImageKey x.key = false) (hopen : s.openBundle x = none) : s.doOp x e h = s.putWrite x e h := by
  unfold doOp
  rw [Op.reads_of_write hop, if_neg Bool.false_ne_true, if_neg (Op.not_command_of_write hop), himage, if_neg Bool.false_ne_true, hopen]
  exact if_neg fun h => Bool.false_ne_true h.1

end

theorem openBundle_of_serves {s : State} {x : Op} {w : Nat} (hserves : s.serves x.o w) : (s.touch x.o).openBundle x = none := by
  obtain ⟨k, hk, -, -, -, hbw⟩ := hserves.2.2.2.2.2.2.2
  unfold openBundle
  rw [sessionOf_touch hk]
  exact hbw

theorem refuseOp_of_no_bundle {s : State} {x : Op} {e : DEntry} {code : W16} (hopen : s.openBundle x = none) :
    s.refuseOp x e code = { s, status := code } := by
  have hkept : s.failHeld x code = s := by
    unfold openBundle at hopen
    unfold failHeld
    rcases hk : s.sessionOf x.o.sid with _ | k
    · rfl
    · rw [hk] at hopen
      dsimp only
      rw [show k.bw = none from hopen]
  unfold refuseOp
  rw [hkept, ite_self]

/-- What a served write of an entry comes to: the code of its form, or what it does. -/
theorem single_of_write {s : State} {x : Op} {e : DEntry} {h : Holdup} (hop : x.op = opWrite ∨ x.op = opSegWrite) (hserves : s.serves x.o e.wr)
    (hindex : x.index < 0xF000) (hentry : s.entry x.key = some e) (hacc : e.acc = .rw ∨ e.acc = .rws ∨ e.acc = .wo)
    (himage : isImageKey x.key = false) (hform : checkForm x e = none) : s.single x h = .next (afterOp x ((s.touch x.o).putWrite x e h)) := by
  have hopen := openBundle_of_serves hserves
  have hrole : (s.touch x.o).checkRole x e = none :=
    checkRole_of_serves hserves (by rw [Op.reads_of_write hop, if_neg Bool.false_ne_true])
  have hchecked : (s.touch x.o).checkOp x e = none := by
    rw [checkOp_of_bundle (checkAccess_of_write hop hacc) hrole hform]
    exact checkBundle_of_write hop hopen
  refine single_of_serves hserves h ?_
  rw [runOp_of_checked h (checkReady_of_serves hserves) hindex ((touch_entry ..).trans hentry) hchecked,
    doOp_of_write hop himage hopen]

theorem single_of_bad_form {s : State} {x : Op} {e : DEntry} {h : Holdup} (hop : x.op = opWrite ∨ x.op = opSegWrite) (hserves : s.serves x.o e.wr)
    (hindex : x.index < 0xF000) (hentry : s.entry x.key = some e) (hacc : e.acc = .rw ∨ e.acc = .rws ∨ e.acc = .wo)
    {code : W16} (hform : checkForm x e = some code) : s.single x h = .next ((s.touch x.o).answered x.o code []) := by
  have hrole : (s.touch x.o).checkRole x e = none :=
    checkRole_of_serves hserves (by rw [Op.reads_of_write hop, if_neg Bool.false_ne_true])
  refine single_of_status hserves ?_
  rw [runOp_of_refused (checkReady_of_serves hserves) hindex ((touch_entry ..).trans hentry)
    (checkOp_of_form (checkAccess_of_write hop hacc) hrole hform), refuseOp_of_no_bundle (openBundle_of_serves hserves)]

/-! ## What a write of an entry does -/

/-- The value that the checks see: of GL_ROUTE, the part of it that a segment brings, at its place. -/
def State.placedValue (s : State) (x : Op) (e : DEntry) : List Byte :=
  if x.key = 0x501000 ∧ x.op = opSegWrite then List.replicate x.o.offset.toNat 0 ++ x.o.data else s.wholeValue x e

section
variable {s : State} {x : Op} {e : DEntry} {h : Holdup}

theorem putWrite_of_refused {code : W16} (hcheck : s.checkWrite x.key (s.placedValue x e) = some code) :
    s.putWrite x e h = { s, status := code } := by
  unfold putWrite
  dsimp only
  rw [show s.checkWrite x.key (if x.key = 0x501000 ∧ x.op = opSegWrite then List.replicate x.o.offset.toNat 0 ++ x.o.data
    else s.wholeValue x e) = some code from hcheck]

variable (hcheck : s.checkWrite x.key (s.placedValue x e) = none)
include hcheck

theorem putWrite_of_checked :
    s.putWrite x e h =
      if x.key = 0x700300 then s.storing h needParam (.enrol (enrolKey (s.wholeValue x e)))
      else if x.key = 0x704000 then { s := s.attest (s.wholeValue x e) }
      else if e.acc = .rws then
        if s.storedOf x.key = s.wholeValue x e then { s } else s.storing h needParam (.entry x.key (s.wholeValue x e))
      else { s := s.applyWrite x.key (s.wholeValue x e),
             data := if x.key = 0x604100 then (s.ringRecord (leNat (s.wholeValue x e))).getD [] else [] } := by
  unfold putWrite
  dsimp only
  rw [show s.checkWrite x.key (if x.key = 0x501000 ∧ x.op = opSegWrite then List.replicate x.o.offset.toNat 0 ++ x.o.data
    else s.wholeValue x e) = none from hcheck]

end

/-- The entries whose access sets them apart. -/
theorem acc_of_special {s : State} {key : Nat} {e : DEntry} (he : s.entry key = some e) :
    (key = 0x700300 ∨ key = 0x704000 → e.acc = .wo) ∧ (key = 0x604100 → e.acc = .rw) ∧ (isImageKey key = true → e.size = none) := by
  refine ⟨?_, ?_, fun himage => ?_⟩
  · rintro (rfl | rfl) <;> cases he <;> rfl
  · rintro rfl
    cases he
    rfl
  · have hkeys : key = 0x705000 ∨ key = 0x800000 ∨ key = 0x801100 ∨ key = 0x801200 := by
      simpa [isImageKey] using himage
    rcases hkeys with rfl | rfl | rfl | rfl <;> cases he <;> rfl

/-! ## What a write of an entry leaves of the sessions' end

An enrolment alone sets the mark that every session closes with the answer (R448); no other write of an entry does. -/

section
variable (s : State)

theorem replyTo_closeDue (r : Req) (status : W16) (seq : W64) (retry : Nat) : (s.replyTo r status seq retry).rng.closeDue = s.rng.closeDue :=
  show (s.replyTo r status seq retry).besidesReplies.rng.closeDue = s.besidesReplies.rng.closeDue by rw [replyTo_besidesReplies]

theorem portFlit_closeDue (p : Nat) (h : FHead) (ps : List Parcel) : (s.portFlit p h ps).rng.closeDue = s.rng.closeDue :=
  show (s.portFlit p h ps).besidesReplies.rng.closeDue = s.besidesReplies.rng.closeDue by rw [portFlit_besidesReplies]

theorem putPkt_closeDue (k avail : Nat) (p : Pkt) : (s.putPkt k avail p).rng.closeDue = s.rng.closeDue :=
  show (s.putPkt k avail p).besidesSlices.rng.closeDue = s.besidesSlices.rng.closeDue by rw [putPkt_besidesSlices]

theorem alert_closeDue (a : AlertSrc) : (s.alert a).rng.closeDue = s.rng.closeDue :=
  show (s.alert a).besidesAlerts.rng.closeDue = s.besidesAlerts.rng.closeDue by rw [alert_besidesAlerts]

theorem fromEdge_closeDue (port plane : Nat) (p : Pkt) : (s.fromEdge port plane p).rng.closeDue = s.rng.closeDue := by
  unfold fromEdge
  split
  · split
    · exact portFlit_closeDue ..
    · exact putPkt_closeDue ..
  · exact putPkt_closeDue ..

theorem sendAway_of_dpk {h : FHead} (hd : h.dpk = true) (plane router input avail : Nat) (p : Parcel) :
    s.sendAway plane router input avail h p = match s.dpkExit (globalKey h.dmod h.addr) with
      | none => s.countUnroutable
      | some _ => s.injectDpk plane router input
          { dest := globalKey h.dmod h.addr, into := false, core := h.core, id := 0, i := 0, avail, ask := false, head := some h, parcel := p } :=
  if_pos hd

theorem sendAway_closeDue (plane router input avail : Nat) (h : FHead) (p : Parcel) :
    (s.sendAway plane router input avail h p).rng.closeDue = s.rng.closeDue := by
  by_cases hd : h.dpk = true
  · rw [sendAway_of_dpk s hd]
    cases s.dpkExit (globalKey h.dmod h.addr) <;> rfl
  · unfold sendAway
    rw [if_neg hd]
    split
    · split
      · exact fromEdge_closeDue ..
      · rfl
    · exact putPkt_closeDue ..

theorem putParcelFor_closeDue (who : Requester) (a : Nat) (p : Parcel) : (s.putParcelFor who a p).rng.closeDue = s.rng.closeDue := by
  unfold putParcelFor
  dsimp only
  split
  · rfl
  · split
    · rfl
    · unfold storeParcel
      split
      · rfl
      · unfold markAcc
        split <;> rfl

theorem slotPut_closeDue (ch : BitVec 4) (a : Nat) (d : BitVec 256) : (s.slotPut ch a d).1.rng.closeDue = s.rng.closeDue := by
  unfold slotPut
  dsimp only
  split
  · rfl
  · split
    · exact putParcelFor_closeDue ..
    · exact putPkt_closeDue ..

theorem admitReq_closeDue (a : Adm) (seq : W64) : (s.admitReq a seq).rng.closeDue = s.rng.closeDue :=
  (replyTo_closeDue ..).trans rfl

theorem headerPut_closeDue (a : Adm) (seq : W64) (ch : BitVec 4) (slot : Nat) (d : BitVec 256) :
    (if (s.slotPut ch slot d).2 then (s.slotPut ch slot d).1.admitReq a seq else (s.slotPut ch slot d).1).rng.closeDue = s.rng.closeDue := by
  split
  · exact (admitReq_closeDue ..).trans (slotPut_closeDue ..)
  · exact slotPut_closeDue ..

theorem sendHeader_closeDue (a : Adm) : (s.sendHeader a).rng.closeDue = s.rng.closeDue := by
  unfold sendHeader
  split
  · rfl
  · dsimp only
    refine (headerPut_closeDue ..).trans ?_
    split
    · exact (alert_closeDue ..).trans rfl
    · rfl

theorem slotLanded_closeDue (ch : Nat) : (s.slotLanded ch).rng.closeDue = s.rng.closeDue := by
  unfold slotLanded
  split
  · rfl
  · split
    · exact admitReq_closeDue ..
    · dsimp only
      split
      · exact (sendHeader_closeDue ..).trans rfl
      · rfl

theorem wrote_closeDue (who : Requester) : (s.wrote who).rng.closeDue = s.rng.closeDue := by
  unfold wrote
  split
  · rfl
  · rfl
  · exact slotLanded_closeDue ..
  · split
    · rfl
    · split
      · exact (sendAway_closeDue ..).trans rfl
      · rfl
  · rfl

theorem storeReq_closeDue (m : MReq) : (s.storeReq m).rng.closeDue = s.rng.closeDue := by
  unfold storeReq
  split
  · rfl
  · split
    · split <;> rfl
    · refine foldl_keeps (fun t : State => t.rng.closeDue) (fun _ _ t => ?_) s
      dsimp only
      split <;> rfl

theorem flushSlice_closeDue (k : Nat) : (s.flushSlice k).rng.closeDue = s.rng.closeDue := by
  unfold flushSlice
  dsimp only
  have hstored : ∀ (l : List MReq) (t : State), (l.foldl (fun s m => s.storeReq m) t).rng.closeDue = t.rng.closeDue := fun l t =>
    foldl_keeps (fun t : State => t.rng.closeDue) (fun m _ t => storeReq_closeDue t m) t
  refine (foldl_keeps (fun t : State => t.rng.closeDue) (fun r _ t => ?_) _).trans
    ((foldl_keeps (fun t : State => t.rng.closeDue) (fun x _ t => ?_) _).trans (hstored _ _))
  · split
    · rfl
    · split
      · exact (wrote_closeDue ..).trans rfl
      · exact wrote_closeDue ..
  · refine foldl_keeps (fun t : State => t.rng.closeDue) (fun p _ t => ?_) t
    split <;> rfl

end

theorem retarget_closeDue (s : State) (x : Nat) : (s.retarget x).rng.closeDue = s.rng.closeDue := by
  have hrng : (s.retarget x).rng = s.rng := rng_of_besidesSettings (retarget_besidesSettings (s := s) x)
  rw [hrng]

theorem enablePorts_closeDue (s : State) (old new : Nat) : (s.enablePorts old new).rng.closeDue = s.rng.closeDue := by
  have hframe := enablePorts_besidesLinks (s := s) old new
  exact show (s.enablePorts old new).besidesLinks.rng.closeDue = s.besidesLinks.rng.closeDue by rw [hframe]

theorem flushSlices_closeDue (s : State) : s.flushSlices.rng.closeDue = s.rng.closeDue :=
  foldl_keeps (fun t : State => t.rng.closeDue) (fun x _ t => flushSlice_closeDue t x.1) s

theorem applyWrite_closeDue (s : State) (key : Nat) (v : List Byte) : (s.applyWrite key v).rng.closeDue = s.rng.closeDue := by
  unfold applyWrite
  dsimp only
  split
  case h_4 => exact (retarget_closeDue ..).trans rfl
  case h_5 => exact (flushSlices_closeDue ..).trans rfl
  case h_9 => exact (enablePorts_closeDue ..).trans rfl
  case h_10 => split <;> rfl
  case h_13 => split <;> rfl
  all_goals rfl

section
variable {s : State} {h : Holdup} {need : Nat}

theorem holdCheck_of_refused {code : W16} (hold : holdCode h need = some code) :
    (s.holdCheck h need).2 = some code ∧ (s.holdCheck h need).1.rng.holdRefusals = s.rng.holdRefusals + 1 := by
  unfold holdCheck
  rw [hold]
  exact ⟨rfl, rfl⟩

theorem holdCheck_kept : (s.holdCheck h need).1.rng.store = s.rng.store ∧ (s.holdCheck h need).1.rng.sessions = s.rng.sessions ∧
    (s.holdCheck h need).1.rng.closeDue = s.rng.closeDue := by
  unfold holdCheck
  dsimp only
  split <;> exact ⟨rfl, rfl, rfl⟩

theorem storing_of_refused (j : StoreJob) {code : W16} (hold : holdCode h need = some code) :
    s.storing h need j = { s := (s.holdCheck h need).1, status := code } := by
  have hcheck := (holdCheck_of_refused (s := s) hold).1
  unfold storing
  rcases hr : s.holdCheck h need with ⟨t, c⟩
  rw [hr] at hcheck
  rw [show c = some code from hcheck]

end

theorem touch_store {s : State} (o : OpReq) : (s.touch o).rng.store = s.rng.store := by
  rw [touch_eq]

theorem touch_holdRefusals {s : State} (o : OpReq) : (s.touch o).rng.holdRefusals = s.rng.holdRefusals := by
  rw [touch_eq]

/-- A store that a served operation begins: what it asks for, and what it leaves as it is. -/
theorem beginStore_facts {s : State} {o : OpReq} {h : Holdup} (j : StoreJob) (who : StoreFor)
    {t : State} (ht : ((s.touch o).holdCheck h needParam).1.beginStore j who = t) :
    t.rng.store = some (j, who) ∧ t.dict = s.dict ∧ t.out = s.out ∧ t.pace = s.pace ∧ t.rng.sessions = (s.touch o).rng.sessions ∧
      t.log = s.log := by
  obtain ⟨hdict, hout⟩ := beginStore_touch_frame s o h needParam j who
  subst ht
  refine ⟨rfl, hdict, hout, ?_, (holdCheck_kept (s := s.touch o)).2.1, ?_⟩
  · rw [holdCheck_eq, touch_eq]
    rfl
  · rw [holdCheck_eq, touch_eq]
    rfl

theorem entryWrites : Claim.EntryWrites := by
  intro i s index o h e key u x v placed old hi hserves hentry hsize hindex hacc
  have hexec := exec_of_entryWrite (s := s) hi
  have hop : x.op = opWrite ∨ x.op = opSegWrite := writeOp_op ..
  obtain ⟨hspecial, hfetch, himages⟩ := acc_of_special (s := s) hentry
  have himage : isImageKey x.key = false := by
    refine Bool.eq_false_iff.mpr fun himage => ?_
    rw [himages himage] at hsize
    exact Bool.false_ne_true hsize
  have hdue : u.rng.closeDue = false := (touch_closeDue o).trans hserves.2.2.2.2.1
  have hwrote : checkForm x e = none → exec i s = .next (afterOp x (u.putWrite x e h)) := fun hform =>
    hexec.trans (single_of_write hop hserves hindex hentry hacc himage hform)
  have hplain : e.acc ≠ .wo → x.key ≠ 0x700300 ∧ x.key ≠ 0x704000 := fun hwo =>
    ⟨fun hk => hwo (hspecial (.inl hk)), fun hk => hwo (hspecial (.inr hk))⟩
  refine ⟨fun hwhole => ?_, fun hpart htyp => ?_, fun code hform => ?_, fun hform => ⟨fun code hcheck => ?_, fun hcheck => ⟨fun hrw hkey => ?_,
    fun hkey r hring hfits => ?_, fun hkey => ?_, fun hrws hsame => ?_, fun hrws hchanged hold => ?_, fun hkey hold => ?_,
    fun code hwhy hold => ?_⟩⟩⟩
  · have hx : x = writeOf index o := writeOp_of_whole hentry hwhole
    exact ⟨hx, (congrArg (fun y => u.wholeValue y e) hx).trans rfl⟩
  · have hx : x = { op := opSegWrite, index, o } := writeOp_of_part hentry hpart htyp
    exact (congrArg (fun y => u.wholeValue y e) hx).trans rfl
  · exact hexec.trans (single_of_bad_form hop hserves hindex hentry hacc hform)
  · rw [hwrote hform, putWrite_of_refused (show u.checkWrite x.key (u.placedValue x e) = some code from hcheck)]
    exact congrArg Host.Outcome.next (afterOp_of_status _ _ _ hdue)
  all_goals rw [hwrote hform, putWrite_of_checked (show u.checkWrite x.key (u.placedValue x e) = none from hcheck)]
  · obtain ⟨henrol, hattest⟩ := hplain (by rw [hrw]; decide)
    rw [if_neg henrol, if_neg hattest, if_neg (by rw [hrw]; decide), if_neg (show x.key ≠ 0x604100 from hkey)]
    exact congrArg Host.Outcome.next (afterOp_of_data (s := u.applyWrite key v) ((applyWrite_closeDue ..).trans hdue) (Nat.zero_le _))
  · have hrw : e.acc = .rw := hfetch hkey
    obtain ⟨henrol, hattest⟩ := hplain (by rw [hrw]; decide)
    have hput : u.applyWrite x.key (u.wholeValue x e) = u.putVal key v := by
      rw [show x.key = 0x604100 from hkey, hkey]
      rfl
    rw [if_neg henrol, if_neg hattest, if_neg (by rw [hrw]; decide), if_pos (show x.key = 0x604100 from hkey), hput, show u.ringRecord (leNat (u.wholeValue x e)) = some r from hring]
    exact congrArg Host.Outcome.next (afterOp_of_data (s := u.putVal key v) (data := r) hdue hfits)
  · rw [if_neg (by rw [show x.key = 0x704000 from hkey]; decide), if_pos (show x.key = 0x704000 from hkey)]
    exact congrArg Host.Outcome.next (afterOp_of_status _ (u.attest v) 0 hdue)
  · obtain ⟨henrol, hattest⟩ := hplain (by rw [hrws]; decide)
    rw [if_neg henrol, if_neg hattest, if_pos hrws, if_pos (show u.storedOf x.key = u.wholeValue x e from hsame)]
    exact congrArg Host.Outcome.next (afterOp_of_status _ u 0 hdue)
  · obtain ⟨henrol, hattest⟩ := hplain (by rw [hrws]; decide)
    rw [if_neg henrol, if_neg hattest, if_pos hrws, if_neg (show u.storedOf x.key ≠ u.wholeValue x e from hchanged), storing_of_holdCode_none (need := needParam) _ hold]
    exact ⟨_, rfl, beginStore_facts (.entry key v) (.single x) rfl⟩
  · rw [if_pos (show x.key = 0x700300 from hkey), storing_of_holdCode_none (need := needParam) _ hold]
    obtain ⟨hstored, hdict, hout, -⟩ := beginStore_facts (s := s) (o := o) (h := h) (.enrol (enrolKey v)) (.single x) rfl
    exact ⟨_, rfl, hstored, hdict, hout⟩
  · have hstoring : (if x.key = 0x700300 then u.storing h needParam (.enrol (enrolKey (u.wholeValue x e)))
        else if x.key = 0x704000 then { s := u.attest (u.wholeValue x e) }
        else if e.acc = .rws then
          if u.storedOf x.key = u.wholeValue x e then { s := u } else u.storing h needParam (.entry x.key (u.wholeValue x e))
        else { s := u.applyWrite x.key (u.wholeValue x e),
               data := if x.key = 0x604100 then (u.ringRecord (leNat (u.wholeValue x e))).getD [] else [] } : Ans) =
        { s := (u.holdCheck h needParam).1, status := code } := by
      rcases hwhy with ⟨hrws, hchanged⟩ | hkey
      · obtain ⟨henrol, hattest⟩ := hplain (by rw [hrws]; decide)
        rw [if_neg henrol, if_neg hattest, if_pos hrws, if_neg (show u.storedOf x.key ≠ u.wholeValue x e from hchanged), storing_of_refused (need := needParam) _ hold]
      · rw [if_pos (show x.key = 0x700300 from hkey), storing_of_refused (need := needParam) _ hold]
    rw [hstoring]
    obtain ⟨hstored, -, hheldDue⟩ := holdCheck_kept (s := u) (h := h) (need := needParam)
    refine ⟨_, congrArg Host.Outcome.next (afterOp_of_status _ (u.holdCheck h needParam).1 code (hheldDue.trans hdue)), ?_, ?_, ?_, ?_⟩
    · exact hstored.trans ((touch_store o).trans (Option.not_isSome_iff_eq_none.mp (by rw [show s.rng.store.isSome = false from hserves.2.1]; exact Bool.false_ne_true)))
    · refine (holdCheck_of_refused (s := u) hold).2.trans ?_
      rw [show u.rng.holdRefusals = s.rng.holdRefusals from touch_holdRefusals o]
    · exact (beginStore_touch_frame s o h needParam .defaults .message).1
    · exact congrArg (· ++ _) (beginStore_touch_frame s o h needParam .defaults .message).2

/-! ## The effects of the writes -/

theorem applyWrite_of_cal {s : State} {key : Nat} (h : isCalKey key = true) (v : List Byte) :
    s.applyWrite key v = { s with dict := { s.dict with staged := Sparse.set [] s.dict.staged key v } } := by
  unfold applyWrite
  dsimp only
  split
  case h_13 => exact if_pos h
  all_goals exact absurd h (by decide)

/-- A port whose enable bit has changed goes to electrical idle, or dark. -/
def State.switchPort (s : State) (old new p : Nat) : State := if bitOf old p = bitOf new p then s else s.portIdle p

theorem switchPort_other (s : State) {old new q p : Nat} (h : q ≠ p) : (s.switchPort old new q).gport p = s.gport p := by
  unfold switchPort
  split
  · rfl
  · exact setPort_gport_other _ _ _ h

theorem switchPort_same (s : State) (old new p : Nat) :
    (s.switchPort old new p).gport p = if bitOf old p = bitOf new p then s.gport p
      else { GPort.reset with state := if s.portEnabled p then 1 else 0, delay := (s.gport p).delay } := by
  unfold switchPort
  split
  · rfl
  · exact setPort_gport_same _ _ _

theorem switchPort_portEnabled (s : State) (old new q p : Nat) : (s.switchPort old new q).portEnabled p = s.portEnabled p := by
  unfold switchPort
  split <;> rfl

theorem switchPorts_gport {old new p : Nat} : ∀ (l : List Nat) (s : State), l.Nodup → p ∈ l →
    (l.foldl (fun t q => t.switchPort old new q) s).gport p = if bitOf old p = bitOf new p then s.gport p
      else { GPort.reset with state := if s.portEnabled p then 1 else 0, delay := (s.gport p).delay } := by
  intro l
  induction l with
  | nil => exact fun s _ hp => absurd hp List.not_mem_nil
  | cons q l ih =>
    intro s hnodup hp
    obtain ⟨hq, hnodup⟩ := List.nodup_cons.mp hnodup
    rw [List.foldl_cons]
    by_cases hqp : q = p
    · subst hqp
      exact (foldl_keeps (fun t : State => t.gport q) (fun r hr t => switchPort_other t fun h => hq (h ▸ hr)) _).trans (switchPort_same ..)
    · rw [ih _ hnodup ((List.mem_cons.mp hp).resolve_left (Ne.symm hqp)), switchPort_other _ hqp, switchPort_portEnabled]

theorem enablePorts_gport {s : State} {old new p : Nat} (hp : p < 12) :
    (s.enablePorts old new).gport p = if bitOf old p = bitOf new p then s.gport p
      else { GPort.reset with state := if s.portEnabled p then 1 else 0, delay := (s.gport p).delay } :=
  switchPorts_gport (List.range 12) s List.nodup_range (List.mem_range.mpr hp)

theorem effectsOfWrites : Claim.EffectsOfWrites := by
  intro s v key
  refine ⟨fun hgl hrun => ?_, fun hgl => ?_, rfl, fun hcal => ?_, rfl, ?_, ⟨_, rfl, ?_, ?_, fun k => ?_⟩, fun p hp => ?_, fun hzero k hk => ?_, ?_⟩
  · exact (if_neg (by rw [show (s.putVal 0x200100 v).glRun = false from hgl]; exact Bool.false_ne_true)).trans (if_pos hrun)
  · exact if_pos hgl
  · exact ⟨_, applyWrite_of_cal hcal v, rfl, rfl, rfl, Sparse.get_set_same _ _ _ _, fun k hk => Sparse.get_set_other _ _ _ (Ne.symm hk)⟩
  · exact congrArg (fun dst => s.whistleSend 4 { typ := 7, src := 0, dst, bridge := false, body := [0, BitVec.ofNat 32 (leNat v), 0] })
      (BitVec.ofNat_toNat 11 s.dict.coreSelect)
  · rfl
  · exact bitsOf_eq _ 12 8
  · rcases get_map_values Slice.reset (fun y => { y with lines := [] }) (s.putVal 0x301000 v).flushSlices.slices k with h | ⟨h, -⟩
    · exact congrArg Slice.lines h
    · exact congrArg Slice.lines h
  · refine (enablePorts_gport (s := s.putVal 0x501200 v) hp).trans ?_
    exact if_congr eq_comm rfl rfl
  · have hclosed : s.applyWrite 0x702000 v = (s.putVal 0x702000 v).closeVendor := if_pos hzero
    rw [hclosed] at hk
    exact of_decide_eq_true (List.mem_filter.mp hk).2
  · rintro (rfl | rfl | rfl) <;> rfl

/-- Settles O48: a write of an entry passes its checks, takes effect or begins its store, and reaches no more than it says. -/
theorem entriesAreWritten : Obligations.EntriesAreWritten := ⟨entryWrites, effectsOfWrites⟩

end Sys2Proof.Machine

end

section
/-! PROOFS. The end of a parameter store, the read of a control block register by register, and bundle writes. -/

namespace Sys2Proof.Machine
open State

/-! ## What a stored entry's write leaves unchanged (O49) -/

theorem rwsKeys_eq : rwsKeys = restoredKeys ++ enrolKeys := by decide

theorem mem_rwsKeys {key : Nat} (h : key ∈ rwsKeys) : key ∈ restoredKeys ∨ key ∈ enrolKeys := by
  rw [rwsKeys_eq] at h
  exact List.mem_append.mp h

/-- The state without what the write of a stored entry reaches: settings and sessions. -/
def State.besidesStored (s : State) : State := { s.besidesSettings with rng := { s.rng with sessions := [] } }

theorem besidesStored_of_settings {s t : State} (h : t.besidesSettings = s.besidesSettings) : t.besidesStored = s.besidesStored :=
  show ({ t.besidesSettings with rng := { t.besidesSettings.rng with sessions := [] } } : State) = _ by rw [h]; rfl

/-- Of the owner's entries a withdrawn consent alone does more than hold its value: it ends Vendor sessions. -/
theorem applyWrite_of_owner {s : State} {key : Nat} (h : key ∈ enrolKeys) (v : List Byte) :
    s.applyWrite key v = s.putVal key v ∨ s.applyWrite key v = (s.putVal key v).closeVendor := by
  by_cases hconsent : key = 0x702000
  · subst hconsent
    exact (ite_eq_or_eq (leNat v = 0) (s.putVal 0x702000 v).closeVendor (s.putVal 0x702000 v)).symm
  · refine .inl ?_
    have hkeys : (0x701001 ≤ key ∧ key ≤ 0x701008) ∧ isCalKey key = false := by
      revert key
      decide
    unfold applyWrite
    dsimp only
    split
    case h_10 => exact absurd rfl hconsent
    case h_13 => exact if_neg (by rw [hkeys.2]; exact Bool.false_ne_true)
    all_goals omega

section
variable {s : State} {key : Nat} (hkey : key ∈ rwsKeys) (v : List Byte)
include hkey

theorem applyWrite_besidesStored : (s.applyWrite key v).besidesStored = s.besidesStored := by
  rcases mem_rwsKeys hkey with h | h
  · exact besidesStored_of_settings (applyWrite_besidesSettings_of_restored h v)
  · rcases applyWrite_of_owner (s := s) h v with he | he <;> (rw [he]; rfl)

theorem applyWrite_dict_of_rws (hreset : key ∉ resetKeys) : (s.applyWrite key v).dict = (s.putVal key v).dict := by
  rcases mem_rwsKeys hkey with h | h
  · exact applyWrite_dict_of_restored h v hreset
  · rcases applyWrite_of_owner (s := s) h v with he | he
    · rw [he]
    · rw [he]
      rfl

theorem applyWrite_stored_of_rws : (s.applyWrite key v).dict.stored = s.dict.stored := by
  by_cases hreset : key ∈ resetKeys
  · rw [applyWrite_of_reset hreset]
  · rw [applyWrite_dict_of_rws hkey v hreset]
    rfl

end

/-! ## The store of one entry -/

section
variable (s : State) (key : Nat) (v : List Byte)

theorem storeEntry_dict : (s.storeEntry key v).dict = (s.putStored key v).dict := by
  unfold storeEntry
  split <;> rfl

theorem storeEntry_rng : (s.storeEntry key v).rng = s.rng := by
  unfold storeEntry
  split <;> rfl

theorem storeEntry_mem : (s.storeEntry key v).mem = s.mem := by
  unfold storeEntry
  split <;> rfl

theorem storeEntry_of_logOn (h : s.turnsLogOn v = true) : s.storeEntry 0x602000 v = (s.putStored 0x602000 v).newEpoch := if_pos ⟨rfl, h⟩

end

/-! ## What the end of a store comes to -/

theorem exec_storeDone_of_done {s t : State} {h : Holdup} {x : Op} {j : StoreJob} (hstore : s.rng.store = some (j, .single x))
    (hread : ∀ c left got n seg, j ≠ .coreRead c left got n seg) (ht : s.storeEnded.completeJob j = t) (hempty : t.rng.rxq = [])
    (hdue : t.rng.closeDue = false) : exec (.parameterStoreDone h) s = .next (t.answered x.o 0 []) := by
  have hfinish : s.finishStore h = t.answerWaiter h (.single x) [] := by
    rw [← ht]
    cases j with
    | coreRead c left got n seg => exact absurd rfl (hread c left got n seg)
    | _ =>
      simp only [finishStore, hstore]
      rfl
  change outcome (s.finishStore h) = _
  rw [hfinish, answerWaiter_single h x hempty hdue]
  rfl

/-- An entry whose store is done: its value is stored and then written, and its write is answered. -/
def State.entryStored (s : State) (key : Nat) (v : List Byte) : State := (s.storeEnded.storeEntry key v).applyWrite key v

section
variable {s : State} {key : Nat} (hkey : key ∈ rwsKeys) (v : List Byte)
include hkey

theorem entryStored_besidesStored : (s.entryStored key v).besidesStored = (s.storeEnded.storeEntry key v).besidesStored :=
  applyWrite_besidesStored hkey v

theorem entryStored_rxq : (s.entryStored key v).rng.rxq = s.rng.rxq :=
  (show (s.entryStored key v).besidesStored.rng.rxq = (s.storeEnded.storeEntry key v).besidesStored.rng.rxq by
    rw [entryStored_besidesStored hkey]).trans (congrArg Ranger.rxq (storeEntry_rng s.storeEnded key v) :)

omit hkey in
theorem entryStored_closeDue : (s.entryStored key v).rng.closeDue = s.rng.closeDue :=
  (applyWrite_closeDue ..).trans (congrArg Ranger.closeDue (storeEntry_rng s.storeEnded key v) :)

theorem entryStored_store : (s.entryStored key v).rng.store = none :=
  (show (s.entryStored key v).besidesStored.rng.store = (s.storeEnded.storeEntry key v).besidesStored.rng.store by
    rw [entryStored_besidesStored hkey]).trans (congrArg Ranger.store (storeEntry_rng s.storeEnded key v) :)

theorem entryStored_mem : (s.entryStored key v).mem = s.mem :=
  (show (s.entryStored key v).besidesStored.mem = (s.storeEnded.storeEntry key v).besidesStored.mem by
    rw [entryStored_besidesStored hkey]).trans (storeEntry_mem s.storeEnded key v)

theorem entryStored_stored : (s.entryStored key v).dict.stored = Sparse.set [] s.dict.stored key v :=
  (applyWrite_stored_of_rws hkey v).trans (congrArg Dict.stored (storeEntry_dict s.storeEnded key v))

theorem entryStored_val (hreset : key ∉ resetKeys) : (s.entryStored key v).dict.val = Sparse.set [] s.dict.val key v := by
  refine (congrArg Dict.val (applyWrite_dict_of_rws hkey v hreset)).trans ?_
  exact (congrArg (fun d : Dict => Sparse.set [] d.val key v) (storeEntry_dict s.storeEnded key v) :)

theorem exec_storeDone_entry {h : Holdup} {x : Op} (hstore : s.rng.store = some (.entry key v, .single x)) (hempty : s.rng.rxq = [])
    (hdue : s.rng.closeDue = false) : exec (.parameterStoreDone h) s = .next ((s.entryStored key v).answered x.o 0 []) :=
  exec_storeDone_of_done hstore (fun _ _ _ _ _ => StoreJob.noConfusion) rfl ((entryStored_rxq hkey v).trans hempty)
    ((entryStored_closeDue v).trans hdue)

end

theorem entryStored_val_of_reset {s : State} {key : Nat} (hreset : key ∈ resetKeys) (v : List Byte) :
    (s.entryStored key v).dict.val = s.dict.val := by
  unfold entryStored
  rw [applyWrite_of_reset hreset, storeEntry_dict]
  rfl

theorem storeEnded_turnsLogOn (s : State) (v : List Byte) : s.storeEnded.turnsLogOn v = s.turnsLogOn v := rfl

theorem entryStored_log {s : State} {v : List Byte} (h : s.turnsLogOn v = true) :
    (s.entryStored 0x602000 v).log.epoch = s.log.epoch + 1 ∧ (s.entryStored 0x602000 v).log.count = 0 := by
  have hframe := entryStored_besidesStored (s := s) (key := 0x602000) (by decide) v
  rw [storeEntry_of_logOn s.storeEnded v ((storeEnded_turnsLogOn s v).trans h)] at hframe
  generalize s.entryStored 0x602000 v = t at hframe ⊢
  have hlog : t.besidesStored.log = (s.storeEnded.putStored 0x602000 v).newEpoch.besidesStored.log := congrArg State.log hframe
  exact ⟨congrArg (·.epoch) hlog, congrArg (·.count) hlog⟩

/-! ## The store of an owner's key -/

/-- What the owner has set is stored at its default. -/
def State.ownerCleared (s : State) : State := enrolKeys.foldl (fun t k => t.putStored k (t.entryDefault k)) s

theorem ownerCleared_besidesSettings (s : State) : s.ownerCleared.besidesSettings = s.besidesSettings :=
  foldl_keeps besidesSettings (f := fun (t : State) k => t.putStored k (t.entryDefault k)) (fun _ _ _ => rfl) s

theorem completeJob_enrol (s : State) (n : BitVec 256) :
    s.completeJob (.enrol n) = ({ s.ownerCleared with dict := { s.ownerCleared.dict with ownerKey := n } } : State).enrolled := rfl

theorem exec_storeDone_enrol {s : State} {h : Holdup} {x : Op} {n : BitVec 256} (hstore : s.rng.store = some (.enrol n, .single x))
    (hempty : s.rng.rxq = []) : exec (.parameterStoreDone h) s =
      .next ((s.storeEnded.completeJob (.enrol n)).emit (.result x.o 0 0 [])).closeAll := by
  obtain ⟨u, hu⟩ : ∃ u, s.storeEnded.completeJob (.enrol n) = u := ⟨_, rfl⟩
  have hrxq : u.rng.rxq = [] := by
    rw [← hu, completeJob_enrol]
    exact (congrArg Ranger.rxq (rng_of_besidesSettings (ownerCleared_besidesSettings s.storeEnded)) :).trans hempty
  have hfinish : s.finishStore h = u.answerWaiter h (.single x) [] := by
    rw [← hu]
    simp only [finishStore, hstore]
    rfl
  have hclosed : ((u.emit (.result x.o 0 0 [])).closeAll).rng.rxq = [] := by
    unfold closeAll
    dsimp only
    split <;> exact hrxq
  change outcome (s.finishStore h) = _
  rw [hfinish, hu]
  unfold answerWaiter
  dsimp only
  rw [drainRx_of_empty h hclosed]
  rfl

theorem enrol_done {s : State} {n : BitVec 256} {x : Op} {t : State}
    (ht : ((s.storeEnded.completeJob (.enrol n)).emit (.result x.o 0 0 [])).closeAll = t) :
    t.dict.ownerKey = n ∧ t.rng.sessions = [] ∧ t.pack.state = .none ∧ t.pack.installed = [] ∧ t.wimg.hash = 0 ∧ t.wimg.state = 0 ∧
      t.out = s.out ++ [.result x.o 0 0 []] := by
  have hframe := ownerCleared_besidesSettings s.storeEnded
  rw [completeJob_enrol] at ht
  generalize s.storeEnded.ownerCleared = v at ht hframe
  have hout : v.out = s.out := show v.besidesSettings.out = s.storeEnded.besidesSettings.out by rw [hframe]
  subst ht
  exact ⟨rfl, rfl, rfl, rfl, rfl, rfl, congrArg (fun l : List Out => l ++ [.result x.o 0 0 []]) hout⟩

/-! ## The end of a store, and of the read of a control block -/

/-- The answers of control blocks have left the bridge. -/
def State.bridgeRead (s : State) : State := { s with whistle := { s.whistle with bridge := s.whistle.bridge.filter fun y => y.typ ≠ 8 } }

section
variable {s : State} {h : Holdup} {c : CoreId} {off : Nat} {got : List Byte} {n : Nat} {seg : Option Nat} {who : StoreFor} {m : WMsg}
  (hreply : s.coreReply c off = some m)
include hreply

theorem finishCoreRead_last : s.finishCoreRead h c [off] got n seg who =
    s.bridgeRead.storeEnded.answerWaiter h who (cutRead seg (got ++ leBytes n ((m.body.getD 1 0).toNat + (m.body.getD 2 0).toNat * 2 ^ 32))) := by
  unfold finishCoreRead
  dsimp only
  rw [hreply]
  rfl

theorem finishCoreRead_next (next : Nat) (rest : List Nat) : s.finishCoreRead h c (off :: next :: rest) got n seg who =
    some (({ s.bridgeRead with rng := { s.rng with
      store := some (.coreRead c (next :: rest) (got ++ leBytes n ((m.body.getD 1 0).toNat + (m.body.getD 2 0).toNat * 2 ^ 32)) n seg, who) } } : State).askCore c next) := by
  unfold finishCoreRead
  dsimp only
  rw [hreply]
  rfl

end

theorem storesComplete : Claim.StoresComplete := by
  intro s h x hempty hdue
  refine ⟨fun hnone => ?_, fun key v hstore hkey => ?_, fun n hstore => ?_, fun hstore => ?_, fun c off left got n seg hstore => ?_, fun hstore => ?_⟩
  · change outcome (s.finishStore h) = _
    unfold finishStore
    rw [hnone]
    rfl
  · refine ⟨_, exec_storeDone_entry hkey v hstore hempty hdue, entryStored_store hkey v, List.getLast?_concat, ?_, fun k hk => ?_,
      fun h1 h2 h3 => ?_, fun hreset => ?_, fun hlog hon => ?_, entryStored_mem hkey v⟩
    · exact (congrArg (Sparse.get [] · key) (entryStored_stored hkey v)).trans (Sparse.get_set_same _ _ _ _)
    · exact (congrArg (Sparse.get [] · k) (entryStored_stored hkey v)).trans (Sparse.get_set_other _ _ _ (Ne.symm hk))
    · have hreset : key ∉ resetKeys := by simp [resetKeys, h1, h2, h3]
      exact (congrArg (Sparse.get [] · key) (entryStored_val hkey v hreset)).trans (Sparse.get_set_same _ _ _ _)
    · exact entryStored_val_of_reset (by simpa [resetKeys] using hreset) v
    · subst hlog
      exact entryStored_log hon
  · exact ⟨_, exec_storeDone_enrol hstore hempty, enrol_done rfl⟩
  · exact ⟨_, exec_storeDone_of_done (t := s.storeEnded.putJob .cal) hstore (fun _ _ _ _ _ => StoreJob.noConfusion) rfl hempty hdue, rfl, rfl, rfl⟩
  · have hread : s.finishStore h = s.finishCoreRead h c (off :: left) got n seg (.single x) := by
      unfold finishStore
      rw [hstore]
    refine ⟨fun hnone => ?_, fun m hreply => ⟨fun hleft => ?_, fun next rest hleft => ?_⟩⟩
    · change outcome (s.finishStore h) = _
      rw [hread]
      unfold finishCoreRead
      dsimp only
      rw [hnone]
      rfl
    · subst hleft
      exact ⟨_, congrArg outcome (hread.trans ((finishCoreRead_last hreply).trans
        (answerWaiter_single (s := s.bridgeRead.storeEnded) h x hempty hdue _))), rfl, rfl, rfl, rfl, rfl⟩
    · subst hleft
      exact congrArg outcome (hread.trans (finishCoreRead_next hreply next rest))
  · refine ⟨_, (congrArg outcome (show s.finishStore h = some (s.storeEnded.newEpoch.unalert .epochWait) from ?_)).trans rfl, rfl, rfl, rfl, fun hmem => ?_⟩
    · refine (show s.finishStore h = (s.storeEnded.newEpoch.unalert .epochWait).answerWaiter h .nobody [] from ?_).trans ?_
      · unfold finishStore
        rw [hstore]
        rfl
      · exact drainRx_of_empty h hempty
    · exact of_decide_eq_true (List.mem_filter.mp hmem).2 rfl

/-! ## Commands on entries of the dictionary -/

section
variable {s : State} {x : Op} {e : DEntry} {w : Nat} {b : Option BWrite}

/-- A command without a fault of form in a session with its role is refused, if at all, for the bundle that is open. -/
theorem checkOp_of_served_command (hserves : s.servesIn x.o w b) (hop : x.op = opCommand) (hacc : e.acc = .cmd) (hrole : e.wr ≤ w)
    (htyp : x.o.typ = 0 ∨ x.o.typ = e.typ) (hsize : e.size = some x.o.data.length) : (s.touch x.o).checkOp x e = (s.touch x.o).checkBundle x e := by
  have hreads := Op.reads_of_command hop
  have haccess : (s.touch x.o).checkAccess x e = none := by
    unfold checkAccess
    rw [hreads, if_neg Bool.false_ne_true, if_pos hop, if_pos hacc]
  have hrole' : (s.touch x.o).checkRole x e = none :=
    checkRole_of_serves hserves (by rw [hreads, if_neg Bool.false_ne_true]; exact hrole)
  have hform : checkForm x e = none := by
    have hok : ¬((x.o.typ ≠ 0 ∧ x.o.typ ≠ e.typ) ∨ ((x.op = opSegWrite ∨ x.op = opSegRead) ∧ e.typ ≠ tBlob)) := by
      rintro (⟨h0, he⟩ | ⟨hs, -⟩)
      · exact htyp.elim h0 he
      · rw [hop] at hs
        exact absurd hs (by decide)
    unfold checkForm
    dsimp only
    rw [if_neg hok, hreads, if_neg Bool.false_ne_true, if_pos hop, if_pos hsize.symm]
  exact checkOp_of_bundle haccess hrole' hform

/-- A served command that its bundle does not bar is done at once, and answered or its store begun. -/
theorem single_of_command {h : Holdup} (hserves : s.servesIn x.o w b) (hop : x.op = opCommand) (hindex : x.index < 0xF000)
    (hentry : s.entry x.key = some e) (hacc : e.acc = .cmd) (hrole : e.wr ≤ w) (htyp : x.o.typ = 0 ∨ x.o.typ = e.typ)
    (hsize : e.size = some x.o.data.length) (hbundle : (s.touch x.o).checkBundle x e = none) :
    s.single x h = .next (afterOp x ((s.touch x.o).commandOp x h)) := by
  refine single_of_serves hserves h ?_
  rw [runOp_of_checked h (checkReady_of_serves hserves) hindex ((touch_entry ..).trans hentry)
    ((checkOp_of_served_command hserves hop hacc hrole htyp hsize).trans hbundle), doOp_of_command hop]

theorem openBundle_of_servesIn (hserves : s.servesIn x.o w b) : (s.touch x.o).openBundle x = b := by
  obtain ⟨-, -, -, -, -, -, -, k, hk, -, -, -, hbw⟩ := hserves
  unfold openBundle
  rw [sessionOf_touch hk]
  exact hbw

theorem checkBundle_of_no_bundle (hserves : s.serves x.o w) (hcommit : x.key ≠ 0xB00200) (habort : x.key ≠ 0xB00300) :
    (s.touch x.o).checkBundle x e = none := by
  unfold checkBundle
  rw [openBundle_of_servesIn hserves]
  exact if_neg fun h => h.2.elim hcommit habort

end

/-! ## Bundle writes -/

section
variable {s : State} {o : OpReq} {k : Session}

theorem sid_of_session (hk : s.sessionOf o.sid = some k) : k.sid = o.sid := of_decide_eq_true (List.find?_some hk :)

theorem setSession_setSession {k k' : Session} (h : k'.sid = k.sid) (s : State) : (s.setSession k).setSession k' = s.setSession k' := by
  have hmap : ((fun y : Session => if y.sid = k'.sid then k' else y) ∘ fun y : Session => if y.sid = k.sid then k else y) =
      fun y => if y.sid = k'.sid then k' else y := by
    funext y
    by_cases hy : y.sid = k.sid <;> simp [h, hy]
  unfold setSession
  simp only [List.map_map, hmap]

/-- The session as an operation leaves it open. -/
def Session.kept (k : Session) (o : OpReq) (now : Nat) : Session := { k with enc := o.enc, last := now }

theorem touch_of_session (hk : s.sessionOf o.sid = some k) : s.touch o = s.setSession (Session.kept k o s.nowMs) := by
  unfold touch
  rw [hk]
  rfl

theorem touch_setSession (hk : s.sessionOf o.sid = some k) {k' : Session} (hsid : k'.sid = k.sid) :
    (s.touch o).setSession k' = s.setSession k' := by
  rw [touch_of_session hk]
  exact setSession_setSession (k := Session.kept k o s.nowMs) hsid s

theorem commandOp_of_bundle {x : Op} {h : Holdup} (hkey : x.key = 0xB00100 ∨ x.key = 0xB00200 ∨ x.key = 0xB00300) :
    s.commandOp x h = s.bundleCommand x h := by
  unfold commandOp
  rcases hkey with hkey | hkey | hkey <;> (rw [hkey]; rfl)

section
variable {x : Op} {h : Holdup} (hk : s.sessionOf x.o.sid = some k)
include hk

theorem bundleCommand_open (hkey : x.key = 0xB00100) :
    s.bundleCommand x h = { s := s.setSession { k with bw := some { members := [], failed := false } } } := by
  unfold bundleCommand
  rw [hk]
  exact if_pos hkey

theorem bundleCommand_commit {b : BWrite} (hkey : x.key = 0xB00200) (hbw : k.bw = some b) : s.bundleCommand x h = s.commit k b h := by
  unfold bundleCommand
  rw [hk]
  dsimp only
  rw [if_neg (by rw [hkey]; decide), hbw]
  exact if_pos hkey

theorem bundleCommand_abort {b : BWrite} (hkey : x.key = 0xB00300) (hbw : k.bw = some b) :
    s.bundleCommand x h = { s := s.setSession { k with bw := none } } := by
  unfold bundleCommand
  rw [hk]
  dsimp only
  rw [if_neg (by rw [hkey]; decide), hbw]
  exact if_neg (by rw [hkey]; decide)

end

section
variable {b : BWrite} {h : Holdup}

theorem commit_of_failed (hfailed : b.failed = true) : s.commit k b h = { s := s.setSession { k with bw := none }, status := 0x0610 } := if_pos hfailed

variable (hgood : b.failed = false) (hcheck : s.recheck b.members = none)
include hgood hcheck

theorem commit_of_recheck : s.commit k b h =
    if b.members.any fun m => s.isRws m.1 then
      match s.holdCheck h needParam with
      | (s, some code) => { s := s.setSession { k with bw := none, bwResult := BitVec.ofNat 32 (code.toNat * 65536 + 0xFF % 256) }, status := 0x0610 }
      | (s, none) => { s := s.setSession { k with bw := none }, job := some (.bundle k.sid b.members) }
    else { s := b.members.foldl (fun s m => s.applyWrite m.1 m.2) (s.setSession { k with bw := none }) } := by
  unfold commit
  dsimp only
  rw [if_neg (by rw [hgood]; exact Bool.false_ne_true), hcheck] <;> rfl

theorem commit_of_rw (hrw : ∀ m ∈ b.members, s.isRws m.1 = false) :
    s.commit k b h = { s := b.members.foldl (fun s m => s.applyWrite m.1 m.2) (s.setSession { k with bw := none }) } := by
  have hnone : ¬(b.members.any fun m => s.isRws m.1) = true := by
    rw [List.any_eq_true]
    rintro ⟨m, hm, hrws⟩
    rw [hrw m hm] at hrws
    exact Bool.false_ne_true hrws
  rw [commit_of_recheck hgood hcheck, if_neg hnone]

theorem commit_of_rws (hrws : ∃ m ∈ b.members, s.isRws m.1 = true) (hold : holdCode h needParam = none) :
    s.commit k b h = { s := (s.holdCheck h needParam).1.setSession { k with bw := none }, job := some (.bundle k.sid b.members) } := by
  have hok : (s.holdCheck h needParam).2 = none := by
    unfold holdCheck
    rw [hold]
  rw [commit_of_recheck hgood hcheck, if_pos (List.any_eq_true.mpr hrws)]
  rcases hr : s.holdCheck h needParam with ⟨t, c⟩
  rw [hr] at hok
  rw [show c = none from hok]

end

/-- A write of an RW or RWS entry in a bundle that has room passes the checks of R439. -/
theorem checkBundle_of_held {x : Op} {e : DEntry} {b : BWrite} (hopen : s.openBundle x = some b) (hop : x.op = opWrite)
    (hacc : e.acc = .rw ∨ e.acc = .rws) (hlen : b.members.length < 16) (hheld : heldBytes b x.key x.o.data.length ≤ 4096) :
    s.checkBundle x e = none := by
  have hcmd : e.acc ≠ .cmd := by rcases hacc with h | h <;> rw [h] <;> decide
  have hroom : ¬((!(b.members.any fun m => decide (m.1 = x.key)) && decide (16 ≤ b.members.length)) || decide (4096 < heldBytes b x.key x.o.data.length)) =
      true := by
    rw [decide_eq_false (Nat.not_le.mpr hlen), decide_eq_false (Nat.not_lt.mpr hheld), Bool.and_false]
    exact Bool.false_ne_true
  unfold checkBundle
  rw [hopen]
  dsimp only
  rw [Op.reads_of_write (.inl hop), if_neg Bool.false_ne_true, if_neg (Op.not_command_of_write (.inl hop)),
    if_neg fun h => h.elim (fun h => absurd (hop.symm.trans h) (by decide)) hcmd, if_pos hacc]
  exact if_neg hroom

theorem holdWrite_of_checked {x : Op} {b : BWrite} (hk : s.sessionOf x.o.sid = some k) (hbw : k.bw = some b)
    (hstate : s.stateCheck x.key x.o.data = none) (hvalue : s.valueCheck x.key x.o.data = none) :
    s.holdWrite x = { s := s.setSession { k with bw := some { b with members := putMember x.key x.o.data b.members } } } := by
  unfold holdWrite
  dsimp only
  rw [hstate, hvalue, hk]
  dsimp only
  rw [hbw]
  rfl

end

theorem checkForm_of_whole {x : Op} {e : DEntry} (hop : x.op = opWrite) (htyp : x.o.typ = 0) (hcmd : e.acc ≠ .cmd)
    (himage : isImageKey x.key = false) (hsize : e.size = some x.o.data.length) : checkForm x e = none := by
  have hok : ¬((x.o.typ ≠ 0 ∧ x.o.typ ≠ e.typ) ∨ ((x.op = opSegWrite ∨ x.op = opSegRead) ∧ e.typ ≠ tBlob)) := by
    rintro (⟨h0, -⟩ | ⟨hs, -⟩)
    · exact h0 htyp
    · rw [hop] at hs
      exact absurd hs (by decide)
  unfold checkForm
  dsimp only
  rw [if_neg hok, Op.reads_of_write (.inl hop), if_neg Bool.false_ne_true, if_neg (Op.not_command_of_write (.inl hop)), if_pos hop,
    if_neg hcmd, himage, if_neg Bool.false_ne_true, hsize]
  exact if_pos rfl

/-- The command entries of bundle writes (R440). -/
def bundleEntry : DEntry := wrE 0 (some 0) .cmd 1

theorem entry_of_bundleKey {s : State} {key : Nat} (h : key = 0xB00100 ∨ key = 0xB00200 ∨ key = 0xB00300) :
    s.entry key = some bundleEntry := by
  have htable : s.entry key = entryAB key := by
    unfold entry entryAt
    rw [if_neg (by omega), if_neg (by omega), if_neg (by omega), if_neg (by omega)]
  rw [htable]
  unfold entryAB bundleEntry
  rcases h with rfl | rfl | rfl <;> rfl

section
variable {s : State} {o : OpReq} {b : Option BWrite} {index : W16} {h : Holdup}

theorem commandOf_key (hsub : o.sub = 0) : (commandOf index o).key = index.toNat * 256 := by
  unfold Op.key commandOf
  rw [hsub]
  exact Nat.add_zero _

variable (hindex : index < 0xF000)
  (hkey : (commandOf index o).key = 0xB00100 ∨ (commandOf index o).key = 0xB00200 ∨ (commandOf index o).key = 0xB00300)
  (hserves : s.servesIn o 1 b) (htyp : o.typ = 0) (hdata : o.data = [])
include hindex hkey hserves htyp hdata

omit hindex hserves htyp in
theorem bundleCommand_entry : s.entry (commandOf index o).key = some bundleEntry ∧ bundleEntry.size = some (commandOf index o).o.data.length := by
  refine ⟨entry_of_bundleKey hkey, ?_⟩
  show bundleEntry.size = some o.data.length
  rw [hdata]
  rfl

theorem single_of_bundle (hbundle : (s.touch o).checkBundle (commandOf index o) bundleEntry = none) :
    s.single (commandOf index o) h = .next (afterOp (commandOf index o) ((s.touch o).bundleCommand (commandOf index o) h)) := by
  obtain ⟨hentry, hsize⟩ := bundleCommand_entry (s := s) hkey hdata
  refine (single_of_command (x := commandOf index o) hserves rfl hindex hentry rfl (le_refl 1) (.inl htyp) hsize hbundle).trans ?_
  rw [commandOp_of_bundle hkey]
  rfl

theorem single_of_barred {code : W16} (hbundle : (s.touch o).checkBundle (commandOf index o) bundleEntry = some code) :
    s.single (commandOf index o) h = .next ((s.touch o).answered o code []) := by
  obtain ⟨hentry, hsize⟩ := bundleCommand_entry (s := s) hkey hdata
  have hop : (commandOf index o).op ≠ opWrite := (by decide : opCommand ≠ opWrite)
  exact single_of_refused (x := commandOf index o) hop hserves hindex hentry
    ((checkOp_of_served_command (x := commandOf index o) hserves rfl rfl (le_refl 1) (.inl htyp) hsize).trans hbundle)

end

theorem bundleWrites : Claim.BundleWrites := by
  intro s o h k b k' closed hk htyp
  have hsid := sid_of_session hk
  have hk' : (s.touch o).sessionOf o.sid = some k' := sessionOf_touch hk
  have hkept : ∀ bw, (s.touch o).setSession { k' with bw } = s.setSession { k' with bw } := fun _ => touch_setSession hk rfl
  refine ⟨fun hserves hdata hsub => ?_, fun hserves hdata hsub => ?_, fun index e hserves hindex hentry hacc hsize hheld hlen hstate hvalue => ?_⟩
  · have hdue : s.rng.closeDue = false := hserves.2.2.2.2.1
    have hkey := fun index : W16 => commandOf_key (index := index) hsub
    have hopen : ∀ index : W16, (s.touch o).openBundle (commandOf index o) = none := fun index => openBundle_of_servesIn (x := commandOf index o) hserves
    refine ⟨?_, ?_, ?_⟩
    · refine (single_of_bundle (by decide) (.inl (hkey 0xB001)) hserves htyp hdata
        (checkBundle_of_no_bundle (x := commandOf 0xB001 o) hserves (by rw [hkey]; decide) (by rw [hkey]; decide))).trans ?_
      rw [bundleCommand_open (x := commandOf 0xB001 o) hk' (hkey 0xB001), hkept]
      exact congrArg Host.Outcome.next (afterOp_of_status _ _ 0 hdue)
    · refine single_of_barred (by decide) (.inr (.inl (hkey 0xB002))) hserves htyp hdata ?_
      unfold checkBundle
      rw [hopen]
      exact if_pos ⟨rfl, .inl (hkey 0xB002)⟩
    · refine single_of_barred (by decide) (.inr (.inr (hkey 0xB003))) hserves htyp hdata ?_
      unfold checkBundle
      rw [hopen]
      exact if_pos ⟨rfl, .inr (hkey 0xB003)⟩
  · have hdue : s.rng.closeDue = false := hserves.2.2.2.2.1
    have hkey := fun index : W16 => commandOf_key (index := index) hsub
    have hbundle : ∀ index : W16, (s.touch o).openBundle (commandOf index o) = some b := fun index => openBundle_of_servesIn (x := commandOf index o) hserves
    have hbw : k'.bw = some b := by
      have hopen : ((s.touch o).sessionOf o.sid).bind (·.bw) = some b := hbundle 0xB001
      rw [hk'] at hopen
      exact hopen
    have hpass : ∀ index : W16, index = 0xB002 ∨ index = 0xB003 → (s.touch o).checkBundle (commandOf index o) bundleEntry = none := by
      intro index hindex
      have hends : (commandOf index o).key = 0xB00200 ∨ (commandOf index o).key = 0xB00300 := by
        rw [hkey]
        rcases hindex with h | h <;> subst h <;> decide
      unfold checkBundle
      rw [hbundle]
      dsimp only
      rw [Op.reads_of_command (x := commandOf index o) rfl, if_neg Bool.false_ne_true, if_pos (show (commandOf index o).op = opCommand from rfl),
        if_neg (by rcases hends with h | h <;> rw [h] <;> decide), if_pos hends]
    have hcommit : exec (.bwCommit o h) s = .next (afterOp (commandOf 0xB002 o) ((s.touch o).commit k' b h)) :=
      (single_of_bundle (by decide) (.inr (.inl (hkey 0xB002))) hserves htyp hdata (hpass _ (.inl rfl))).trans (by
        rw [bundleCommand_commit (x := commandOf 0xB002 o) hk' (hkey 0xB002) hbw])
    have hisRws : (s.touch o).isRws = s.isRws := by
      rw [touch_eq]
      rfl
    refine ⟨?_, ?_, fun hfailed => ?_, fun hgood hcheck hrw => ?_, fun hgood hcheck hrws hold => ?_⟩
    · refine (single_of_bundle (by decide) (.inr (.inr (hkey 0xB003))) hserves htyp hdata (hpass _ (.inr rfl))).trans ?_
      rw [bundleCommand_abort (x := commandOf 0xB003 o) hk' (hkey 0xB003) hbw, hkept]
      exact congrArg Host.Outcome.next (afterOp_of_status _ _ 0 hdue)
    · refine single_of_barred (by decide) (.inl (hkey 0xB001)) hserves htyp hdata ?_
      unfold checkBundle
      rw [hbundle]
      dsimp only
      rw [Op.reads_of_command (x := commandOf 0xB001 o) rfl, if_neg Bool.false_ne_true, if_pos (show (commandOf 0xB001 o).op = opCommand from rfl)]
      exact if_pos (hkey 0xB001)
    · rw [hcommit, commit_of_failed hfailed, hkept]
      exact congrArg Host.Outcome.next (afterOp_of_status _ _ _ hdue)
    · rw [hcommit, commit_of_rw hgood hcheck (by rw [hisRws]; exact hrw), hkept]
      refine congrArg Host.Outcome.next (afterOp_of_status _ _ 0 ?_)
      exact (foldl_keeps (fun t : State => t.rng.closeDue) (fun m _ t => applyWrite_closeDue t m.1 m.2) _).trans hdue
    · rw [hcommit, commit_of_rws hgood hcheck (by rw [hisRws]; exact hrws) hold]
      obtain ⟨hdict, hout⟩ := beginStore_touch_frame s o h needParam (.bundle k'.sid b.members) (.single (commandOf 0xB002 o))
      refine ⟨_, rfl, ?_, hdict, hout⟩
      exact congrArg (fun sid => some (StoreJob.bundle sid b.members, StoreFor.single (commandOf 0xB002 o))) hsid
  · have hdue : s.rng.closeDue = false := hserves.2.2.2.2.1
    obtain ⟨hspecial, -, himages⟩ := acc_of_special (s := s) hentry
    have hcmd : e.acc ≠ .cmd := by rcases hacc with h | h <;> rw [h] <;> decide
    have hopen : (s.touch o).openBundle (writeOf index o) = some b := openBundle_of_servesIn (x := writeOf index o) hserves
    have hbw : k'.bw = some b := by
      have hopen : ((s.touch o).sessionOf o.sid).bind (·.bw) = some b := hopen
      rw [hk'] at hopen
      exact hopen
    have himage : isImageKey (writeOf index o).key = false := by
      refine Bool.eq_false_iff.mpr fun himage => ?_
      rw [himages himage] at hsize
      cases hsize
    have hrole : (s.touch o).checkRole (writeOf index o) e = none :=
      checkRole_of_serves (x := writeOf index o) hserves (by rw [Op.reads_of_write (.inl rfl), if_neg Bool.false_ne_true])
    have hchecked : (s.touch o).checkOp (writeOf index o) e = none := by
      rw [checkOp_of_bundle (checkAccess_of_write (.inl rfl) (hacc.elim .inl fun h => .inr (.inl h))) hrole
        (checkForm_of_whole rfl htyp hcmd himage hsize)]
      exact checkBundle_of_held hopen rfl hacc hlen hheld
    have hdo : (s.touch o).doOp (writeOf index o) e h = (s.touch o).holdWrite (writeOf index o) := by
      unfold doOp
      rw [Op.reads_of_write (.inl rfl), if_neg Bool.false_ne_true, if_neg (Op.not_command_of_write (.inl rfl)), himage, if_neg Bool.false_ne_true]
      exact if_pos ⟨by rw [hopen]; rfl, hacc⟩
    change s.single (s.writeOp index o) h = _
    rw [writeOp_of_whole hentry (.inl hsize)]
    refine (single_of_serves (x := writeOf index o) hserves h (runOp_of_checked h (checkReady_of_serves hserves) hindex
      ((touch_entry ..).trans hentry) hchecked)).trans ?_
    refine (congrArg (fun a => Host.Outcome.next (afterOp (writeOf index o) a)) hdo).trans ?_
    rw [holdWrite_of_checked (x := writeOf index o) hk' hbw hstate hvalue, hkept]
    exact congrArg Host.Outcome.next (afterOp_of_status _ _ 0 hdue)

/-- Settles O49: a store that ends puts its value in force and is answered, and a bundle of writes takes effect as one. -/
theorem storesAndBundles : Obligations.StoresAndBundles := ⟨storesComplete, bundleWrites⟩

end Sys2Proof.Machine

end

section
/-! PROOFS. Segments of images, the load path of the weight image, and its hash. -/

namespace Sys2Proof.Machine
open State

/-! ## The rows that take a segment of an image (O52) -/

theorem exec_of_imageRow {i : Instr} {s : State} {index : W16} {o : OpReq} (hi : imageRow i = some (index, o)) :
    exec i s = s.single { op := opSegWrite, index, o } noHoldup := by
  unfold imageRow at hi
  split at hi
  case h_5 => cases hi
  all_goals
    cases hi
    rfl

theorem segment_key {op : Byte} {index : W16} {o : OpReq} (hsub : o.sub = 0) : ({ op, index, o } : Op).key = index.toNat * 256 := by
  unfold Op.key
  rw [hsub]
  exact Nat.add_zero _

/-- An image entry takes segments of any length in an Owner's session. -/
def imageEntry : DEntry := wrE tBlob none .wo 2

theorem entry_of_entry78 {s : State} {key : Nat} (h : 0x700000 ≤ key ∧ key < 0x900000) : s.entry key = entry78 s.owned key := by
  unfold entry entryAt
  rw [if_neg (by omega), if_neg (by omega), if_pos h.2]

theorem entry_of_image {s : State} {key : Nat} (h : isImageKey key = true) : s.entry key = some imageEntry := by
  have hkeys : key = 0x705000 ∨ key = 0x800000 ∨ key = 0x801100 ∨ key = 0x801200 := by simpa [isImageKey] using h
  rw [entry_of_entry78 (by omega)]
  unfold entry78 imageEntry
  rcases hkeys with rfl | rfl | rfl | rfl <;> rfl

section
variable {s : State} {index : W16} {o : OpReq} {h : Holdup} (hserves : s.serves o 2) (hlen : o.data.length ≤ 1024) (htyp : o.typ = 0 ∨ o.typ = 0x09)
  (hindex : index < 0xF000) (himage : isImageKey ({ op := opSegWrite, index, o } : Op).key = true)
include hserves hlen htyp hindex himage

theorem single_of_segment : s.single { op := opSegWrite, index, o } h =
    .next (afterOp { op := opSegWrite, index, o } ((s.touch o).imageWrite { op := opSegWrite, index, o })) := by
  have hop : ({ op := opSegWrite, index, o } : Op).op = opSegWrite := rfl
  have hreads := Op.reads_of_write (.inr hop)
  have hcommand := Op.not_command_of_write (.inr hop)
  have hnocode : ¬((o.typ ≠ 0 ∧ o.typ ≠ tBlob) ∨ ((opSegWrite = opSegWrite ∨ opSegWrite = opSegRead) ∧ tBlob ≠ tBlob)) := by
    rintro (⟨h0, h9⟩ | ⟨-, hblob⟩)
    · exact htyp.elim h0 h9
    · exact hblob rfl
  have hform : checkForm { op := opSegWrite, index, o } imageEntry = none := by
    unfold checkForm
    dsimp only
    rw [hreads, if_neg Bool.false_ne_true]
    exact (if_neg hnocode).trans ((if_neg hcommand).trans ((if_neg (by decide : opSegWrite ≠ opWrite)).trans (if_neg (Nat.not_lt.mpr hlen))))
  have hrole : (s.touch o).checkRole { op := opSegWrite, index, o } imageEntry = none :=
    checkRole_of_serves (x := { op := opSegWrite, index, o }) hserves (by rw [hreads, if_neg Bool.false_ne_true]; exact le_refl 2)
  have hchecked : (s.touch o).checkOp { op := opSegWrite, index, o } imageEntry = none := by
    rw [checkOp_of_bundle (checkAccess_of_write (.inr hop) (.inr (.inr rfl))) hrole hform]
    exact checkBundle_of_write (.inr hop) (openBundle_of_serves (x := { op := opSegWrite, index, o }) hserves)
  refine single_of_serves (x := { op := opSegWrite, index, o }) hserves h ?_
  refine (runOp_of_checked h (checkReady_of_serves (x := { op := opSegWrite, index, o }) hserves) hindex ((touch_entry ..).trans (entry_of_image himage)) hchecked).trans ?_
  unfold doOp
  rw [hreads, if_neg Bool.false_ne_true, if_neg hcommand, if_pos himage]

/-- What a segment does is its answer, where no session ends with it. -/
theorem single_of_segment_answered {t : State} {code : W16} (ht : (s.touch o).imageWrite { op := opSegWrite, index, o } = .of (t, code))
    (hdue : t.rng.closeDue = false) : s.single { op := opSegWrite, index, o } h = .next (t.answered o code []) := by
  rw [single_of_segment hserves hlen htyp hindex himage, ht]
  exact congrArg Host.Outcome.next (afterOp_of_status _ t code hdue)

end

section
variable {s : State} {index : W16} {o : OpReq} (hsub : o.sub = 0)
include hsub

theorem imageWrite_of_pack (h : index = 0x8000) :
    s.imageWrite { op := opSegWrite, index, o } = .of (s.packSegment o.offset.toNat o.data) := by
  have hkey := (segment_key (op := opSegWrite) (index := index) hsub)
  subst h
  exact if_pos hkey

theorem imageWrite_of_manifest (h : index = 0x8011) :
    s.imageWrite { op := opSegWrite, index, o } = .of (s.manifestSegment o.offset.toNat o.data) := by
  have hkey := (segment_key (op := opSegWrite) (index := index) hsub)
  subst h
  exact (if_neg (by rw [hkey]; decide)).trans (if_pos hkey)

theorem imageWrite_of_data (h : index = 0x8012) :
    s.imageWrite { op := opSegWrite, index, o } = .of (s.imageSegment o.offset.toNat o.data) := by
  have hkey := (segment_key (op := opSegWrite) (index := index) hsub)
  subst h
  exact (if_neg (by rw [hkey]; decide)).trans ((if_neg (by rw [hkey]; decide)).trans (if_pos hkey))

theorem imageWrite_of_firmware (h : index = 0x7050) :
    s.imageWrite { op := opSegWrite, index, o } = .of (s.fwSegment o.offset.toNat o.data) := by
  have hkey := (segment_key (op := opSegWrite) (index := index) hsub)
  subst h
  exact (if_neg (by rw [hkey]; decide)).trans ((if_neg (by rw [hkey]; decide)).trans (if_neg (by rw [hkey]; decide)))

theorem image_of_index (h : index = 0x8000 ∨ index = 0x7050 ∨ index = 0x8011 ∨ index = 0x8012) :
    index < 0xF000 ∧ isImageKey ({ op := opSegWrite, index, o } : Op).key = true := by
  rw [segment_key hsub]
  rcases h with rfl | rfl | rfl | rfl <;> decide

end

theorem segmentOf_zero (image : List Byte) (begun : Bool) (data : List Byte) : segmentOf image begun 0 data = some data := if_pos rfl

theorem segmentOf_elsewhere {image : List Byte} {begun : Bool} {offset : Nat} (hoffset : offset ≠ 0) (h : begun = false ∨ offset ≠ image.length)
    (data : List Byte) : segmentOf image begun offset data = none := by
  refine (if_neg hoffset).trans (if_neg fun hboth => ?_)
  rcases h with h | h
  · rw [h] at hboth
    exact Bool.false_ne_true hboth.1
  · exact h hboth.2

theorem imageSegments : Claim.ImageSegments := by
  intro i s index o image u at_ hi hsub hserves hlen htyp
  have hexec := exec_of_imageRow (s := s) hi
  have hdue : u.rng.closeDue = false := (touch_closeDue o).trans hserves.2.2.2.2.1
  have hpack : u.pack = s.pack := by rw [show u = s.touch o from rfl, touch_eq]
  have hfw : u.fw = s.fw := by rw [show u = s.touch o from rfl, touch_eq]
  have hbusy : u.fwBusy = false := by
    rw [show u = s.touch o from rfl, touch_eq]
    exact hserves.2.2.2.1
  have hwimg : u.wimg = s.wimg := by rw [show u = s.touch o from rfl, touch_eq]
  have hrunning : u.isRunning = s.isRunning := by
    rw [show u = s.touch o from rfl, touch_eq]
    rfl
  have hanswer : ∀ {t : State} {code : W16}, index = 0x8000 ∨ index = 0x7050 ∨ index = 0x8011 ∨ index = 0x8012 →
      u.imageWrite { op := opSegWrite, index, o } = .of (t, code) → t.rng.closeDue = false → exec i s = .next (t.answered o code []) :=
    fun hindex ht hdue => by
      obtain ⟨hrange, himage⟩ := image_of_index hsub hindex
      exact hexec.trans (single_of_segment_answered hserves hlen htyp hrange himage ht hdue)
  refine ⟨fun hindex hseg hfits => ?_, fun hindex hzero hend => ?_, fun hindex hseg hfits => ?_, fun hindex hseg hstopped => ?_,
    fun hindex hzero hrun => ?_⟩
  · refine hanswer (.inl hindex) ((imageWrite_of_pack hsub hindex).trans (congrArg Ans.of ?_)) hdue
    unfold packSegment
    rw [hpack, show segmentOf s.pack.image true o.offset.toNat o.data = some image from hseg]
    exact if_neg (Nat.not_lt.mpr hfits)
  · refine hanswer (.inl hindex) ((imageWrite_of_pack hsub hindex).trans (congrArg Ans.of ?_)) hdue
    unfold packSegment
    rw [hpack, segmentOf_elsewhere hzero (.inr hend)]
  · refine hanswer (.inr (.inl hindex)) ((imageWrite_of_firmware hsub hindex).trans (congrArg Ans.of ?_)) hdue
    unfold fwSegment
    rw [hfw, show segmentOf s.fw.staging (s.fw.state = 1 || s.fw.state = 2) o.offset.toNat o.data = some image from hseg, hbusy]
    exact (if_neg Bool.false_ne_true).trans (if_neg (Nat.not_lt.mpr hfits))
  · refine hanswer (.inr (.inr (.inl hindex))) ((imageWrite_of_manifest hsub hindex).trans (congrArg Ans.of ?_)) hdue
    unfold manifestSegment
    rw [hwimg, show segmentOf s.wimg.manifest true o.offset.toNat o.data = some image from hseg, hrunning, hstopped]
    exact if_neg Bool.false_ne_true
  · rcases hindex with hindex | hindex
    · refine hanswer (.inr (.inr (.inl hindex))) ((imageWrite_of_manifest hsub hindex).trans (congrArg Ans.of ?_)) hdue
      unfold manifestSegment
      rw [show o.offset.toNat = 0 from hzero, segmentOf_zero, hrunning, hrun]
      exact if_pos rfl
    · refine hanswer (.inr (.inr (.inr hindex))) ((imageWrite_of_data hsub hindex).trans (congrArg Ans.of ?_)) hdue
      unfold imageSegment
      rw [show o.offset.toNat = 0 from hzero, segmentOf_zero, hrunning, hrun]
      exact if_pos rfl

/-! ## What the load path leaves of the sessions' end -/

theorem wroteAt_closeDue (s : State) (r : SReq) (old : Parcel) : (s.wroteAt r old).rng.closeDue = s.rng.closeDue := by
  have hcount : (if mergeFails old r.addr r.mask then s.countFor r.who else s).rng.closeDue = s.rng.closeDue := by
    split
    · unfold countFor
      split <;> rfl
    · rfl
  exact (wrote_closeDue ..).trans hcount

theorem chanReq_closeDue (s : State) (m : MReq) : (s.chanReq m).rng.closeDue = s.rng.closeDue :=
  show (s.chanReq m).besidesSlices.rng.closeDue = s.besidesSlices.rng.closeDue by rw [chanReq_besidesSlices]

theorem chanLine_closeDue (s : State) (k line cls : Nat) (wr : Bool) (ps : List Parcel) :
    (s.chanLine k line cls wr ps).rng.closeDue = s.rng.closeDue :=
  show (s.chanLine k line cls wr ps).besidesSlices.rng.closeDue = s.besidesSlices.rng.closeDue by rw [chanLine_besidesSlices]

theorem allocLine_closeDue (s : State) (k line : Nat) (ps : List Parcel) : (s.allocLine k line ps).rng.closeDue = s.rng.closeDue :=
  show (s.allocLine k line ps).besidesSlices.rng.closeDue = s.besidesSlices.rng.closeDue by rw [allocLine_besidesSlices]

section
variable {r : SReq} (hwr : r.wr = true)
include hwr

theorem serveLine_closeDue (s : State) (k w avail : Nat) : (s.serveLine k w avail r).rng.closeDue = s.rng.closeDue := by
  unfold serveLine
  dsimp only
  rw [if_pos hwr]
  exact (wroteAt_closeDue ..).trans rfl

theorem sliceOne_closeDue (s : State) (k : Nat) (wholes : List Nat) : (s.sliceOne k wholes r).1.rng.closeDue = s.rng.closeDue := by
  unfold sliceOne
  dsimp only
  split
  · exact wrote_closeDue ..
  · split
    · exact (wroteAt_closeDue ..).trans rfl
    · split
      · exact (wrote_closeDue ..).trans (chanReq_closeDue ..)
      · split
        · exact serveLine_closeDue hwr ..
        · split
          · rfl
          · split
            · split
              · exact (serveLine_closeDue hwr ..).trans ((allocLine_closeDue ..).trans rfl)
              · exact (allocLine_closeDue ..).trans rfl
            · split
              · exact (chanLine_closeDue ..).trans rfl
              · rfl

theorem loadWrite_closeDue (s : State) (wholes : List Nat) : (s.loadWrite wholes r).rng.closeDue = s.rng.closeDue := by
  unfold loadWrite
  dsimp only
  split
  · exact sliceOne_closeDue hwr ..
  · exact (sliceOne_closeDue hwr ..).trans ((allocLine_closeDue ..).trans rfl)

end

theorem loadBytes_closeDue (s : State) (chLocal : Bool) (a : Nat) (bs : List Byte) : (s.loadBytes chLocal a bs).rng.closeDue = s.rng.closeDue := by
  unfold loadBytes
  dsimp only
  split
  · refine foldl_keeps (fun t : State => t.rng.closeDue) (fun r hr t => loadWrite_closeDue ?_ t _) s
    obtain ⟨x, -, rfl⟩ := List.mem_map.mp hr
    rfl
  · refine foldl_keeps (fun t : State => t.rng.closeDue) (fun x _ t => ?_) s
    split <;> rfl

theorem loadSegment_closeDue (s : State) (off : Nat) (bs : List Byte) : (s.loadSegment off bs).rng.closeDue = s.rng.closeDue :=
  foldl_keeps (fun t : State => t.rng.closeDue) (fun _ _ t => loadBytes_closeDue t ..) s

/-! ## A whole parcel of the image -/

section
variable {w : State} {r : Nat × Nat} {rest : List (Nat × Nat)} {off : Nat} {d : BitVec 256}

/-- A parcel that lies in the first region of the manifest goes there. -/
theorem loadSegment_of_first (hlist : wmList w.wimg.cur = r :: rest) (hoff : off + 32 ≤ r.2) :
    w.loadSegment off (parcelBytes d) = w.loadBytes (wmMap w.wimg.cur) (r.1 + off) (parcelBytes d) := by
  have hlen := parcelBytes_length d
  have hplaces : wmPlaces (wmList w.wimg.cur) off 32 = [(r.1 + off, 32, 32)] := by
    rw [hlist, wmPlaces, if_neg (by omega)]
    dsimp only
    rw [Nat.min_eq_left (by omega : 32 ≤ r.2 - off)]
    rfl
  unfold loadSegment
  rw [hlen, hplaces]
  show w.loadBytes _ _ (((parcelBytes d).drop 0).take 32) = _
  rw [List.drop_zero, List.take_of_length_le hlen.le]

theorem slice_parcelBytes (d : BitVec 256) : slice (parcelBytes d) 0 32 = parcelBytes d := by
  have hlen := parcelBytes_length d
  unfold slice
  dsimp only
  rw [List.drop_zero, List.take_of_length_le hlen.le, hlen]
  exact List.append_nil _

theorem leNat_parcelBytes (d : BitVec 256) : leNat (parcelBytes d) = d.toNat := by
  rw [parcelBytes, leNat_leBytes]
  exact Nat.mod_eq_of_lt d.isLt

/-- One write is no whole line. -/
theorem wholeLines_single (q : SReq) : wholeLines [q] = [] := by
  unfold wholeLines
  dsimp only
  refine List.filter_eq_nil_iff.mpr fun l _ hall => ?_
  have hsame : ∀ i < 8, q.addr = l * 256 + 32 * i := fun i hi => by
    obtain ⟨y, hy, haddr⟩ := List.any_eq_true.mp (List.all_eq_true.mp hall i (List.mem_range.mpr hi))
    rw [← List.mem_singleton.mp (List.mem_of_mem_filter hy)]
    exact of_decide_eq_true haddr
  have h0 := hsame 0 (by decide)
  have h1 := hsame 1 (by decide)
  omega

variable {a : Nat} (ha : a % 32 = 0)
include ha

/-- An aligned parcel is one piece. -/
theorem loadBytes_of_parcel (chLocal : Bool) : w.loadBytes chLocal a (parcelBytes d) =
    if w.mm.map = chLocal then w.loadWrite []
      { wr := true, addr := a, mask := 2 ^ 64 - 1, data := d.toNat, poison := false, cclass := 0, check := none, who := .nobody }
    else match lpddrAt chLocal a with
      | some (ch, o) => w.setMem (w.mem.setParcel (ch * 0x80000000 + o) a
          (mergeParcel (w.mem.parcel (ch * 0x80000000 + o) a) a 0 (parcelBytes d) false))
      | none => w := by
  have hlen := parcelBytes_length d
  have hat : 32 * (a / 32 + 0) = a := by omega
  have hcut : slice (parcelBytes d) 0 (min (a + 32) (a + 32) - a) = parcelBytes d := by
    rw [Nat.min_self, Nat.add_sub_cancel_left, slice_parcelBytes]
  unfold loadBytes
  dsimp only
  rw [hlen, ha]
  simp only [Nat.zero_add, show (32 + 31) / 32 = 1 from rfl, List.range_one, List.map_cons, List.map_nil, hat, hcut, Nat.max_self, Nat.sub_self, hlen,
    leNat_parcelBytes, List.foldl_cons, List.foldl_nil, Nat.mul_zero, Nat.pow_zero, Nat.mul_one, wholeLines_single] <;> rfl

end

theorem mergeParcel_whole (old : Parcel) (a : Nat) (d : BitVec 256) :
    (mergeParcel old a 0 (parcelBytes d) false).poison = false ∧ (mergeParcel old a 0 (parcelBytes d) false).data = d := by
  have hlen := parcelBytes_length d
  have hshort : ¬(parcelBytes d).length < 32 := by omega
  have hclean : ¬(false || (old.poison && decide ((parcelBytes d).length < 32))) = true := by
    rw [decide_eq_false hshort, Bool.and_false]
    exact Bool.false_ne_true
  unfold mergeParcel
  dsimp only
  rw [if_neg hshort, if_neg hclean]
  refine ⟨rfl, ?_⟩
  show bytesParcel ((parcelBytes old.data).take 0 ++ parcelBytes d ++ (parcelBytes old.data).drop (0 + (parcelBytes d).length)) = d
  rw [List.drop_of_length_le (by rw [hlen, parcelBytes_length]), List.append_nil]
  exact bytesParcel_parcelBytes d

/-! ## The weight image -/

section
variable {s : State} {o : OpReq} {h : Holdup}

/-- The commands that end an image or install one, in an Owner's session. -/
def installEntry : DEntry := wrE 0 (some 0) .cmd 2

theorem entry_of_install {key : Nat} (h : key = 0x705100 ∨ key = 0x800100 ∨ key = 0x801300) : s.entry key = some installEntry := by
  rw [entry_of_entry78 (by omega)]
  unfold entry78 installEntry
  rcases h with rfl | rfl | rfl <;> rfl

theorem single_of_install {index : W16} (hserves : s.serves o 2) (hsub : o.sub = 0) (htyp : o.typ = 0) (hdata : o.data = [])
    (hindex : index = 0x7051 ∨ index = 0x8001 ∨ index = 0x8013) :
    s.single (commandOf index o) h = .next (afterOp (commandOf index o) ((s.touch o).commandOp (commandOf index o) h)) := by
  have hkey := commandOf_key (index := index) hsub
  have hkeys : (commandOf index o).key = 0x705100 ∨ (commandOf index o).key = 0x800100 ∨ (commandOf index o).key = 0x801300 := by
    rw [hkey]
    rcases hindex with rfl | rfl | rfl <;> decide
  have hrange : (commandOf index o).index < 0xF000 := by
    show index < 0xF000
    rcases hindex with rfl | rfl | rfl <;> decide
  have hsize : installEntry.size = some (commandOf index o).o.data.length := by
    show installEntry.size = some o.data.length
    rw [hdata]
    rfl
  refine single_of_command (x := commandOf index o) hserves rfl hrange (entry_of_install hkeys) rfl (le_refl 2) (.inl htyp) hsize
    (checkBundle_of_no_bundle (x := commandOf index o) hserves ?_ ?_)
  all_goals
    rcases hkeys with h | h | h <;> rw [h] <;> decide

end

theorem weightImages : Claim.WeightImages := by
  intro s w o d ch at_ off r rest u m a
  have hwimg : u.wimg = s.wimg := by rw [show u = s.touch o from rfl, touch_eq]
  have howner : u.dict = s.dict := by rw [show u = s.touch o from rfl, touch_eq]
  have hrunning : u.isRunning = s.isRunning := by
    rw [show u = s.touch o from rfl, touch_eq]
    rfl
  refine ⟨fun hserves hsub htyp hlen hstopped => ?_, fun hlist hoff ha => ?_, fun hserves hsub htyp hdata => ?_, fun hstate hlen => ?_, fun hstate => ?_⟩
  · have hdue : u.rng.closeDue = false := (touch_closeDue o).trans hserves.2.2.2.2.1
    obtain ⟨hrange, himage⟩ := image_of_index (index := 0x8012) hsub (.inr (.inr (.inr rfl)))
    have hanswer : ∀ {t : State} {code : W16}, u.imageSegment o.offset.toNat o.data = (t, code) → t.rng.closeDue = false →
        exec (.wimgData o) s = .next (t.answered o code []) := fun ht hdue =>
      single_of_segment_answered hserves hlen htyp hrange himage ((imageWrite_of_data hsub rfl).trans (congrArg Ans.of ht)) hdue
    refine ⟨fun hzero code hcheck => hanswer ?_ hdue, fun hzero hcheck => hanswer ?_ ((loadSegment_closeDue ..).trans hdue),
      fun hzero hreceiving hend => hanswer ?_ ((loadSegment_closeDue ..).trans hdue), fun hzero hwhy => hanswer ?_ hdue⟩
    · unfold imageSegment
      rw [show o.offset.toNat = 0 by rw [hzero]; rfl, segmentOf_zero, hrunning, hstopped, hwimg, howner]
      dsimp only
      rw [if_neg Bool.false_ne_true, if_pos rfl, show wmCheck s.dict.ownerKey s.wimg.manifest = some code from hcheck]
    · unfold imageSegment
      rw [show o.offset.toNat = 0 by rw [hzero]; rfl, segmentOf_zero, hrunning, hstopped, hwimg, howner]
      dsimp only
      rw [if_neg Bool.false_ne_true, if_pos rfl, show wmCheck s.dict.ownerKey s.wimg.manifest = none from hcheck]
    · have hoffset : o.offset.toNat ≠ 0 := fun h => hzero (BitVec.eq_of_toNat_eq h)
      have hseg : segmentOf s.wimg.data (s.wimg.state = 1) o.offset.toNat o.data = some (s.wimg.data ++ o.data) :=
        (if_neg hoffset).trans (if_pos ⟨decide_eq_true hreceiving, hend⟩)
      unfold imageSegment
      rw [hrunning, hstopped, hwimg, howner, hseg]
      dsimp only
      rw [if_neg Bool.false_ne_true, if_neg hoffset]
    · have hoffset : o.offset.toNat ≠ 0 := fun h => hzero (BitVec.eq_of_toNat_eq h)
      unfold imageSegment
      rw [hwimg, segmentOf_elsewhere hoffset (hwhy.imp_left fun h => decide_eq_false h)]
  · rw [loadSegment_of_first hlist hoff, loadBytes_of_parcel ha]
    refine ⟨fun hmap => if_pos hmap, fun hmap hplace => ⟨_, rfl, ?_⟩⟩
    rw [if_neg hmap, show lpddrAt (wmMap w.wimg.cur) (r.1 + off) = some (ch, at_) from hplace]
    obtain ⟨hclean, hdata⟩ := mergeParcel_whole (w.mem.parcel (ch * 0x80000000 + at_) a) a d
    refine ⟨rfl, fun i hi => ?_, fun x hx => Memory.setParcel_byte_other _ _ _ _ _ hx⟩
    exact (setParcel_byte_same _ _ _ hclean hi).trans (congrArg (fun v : BitVec 256 => v.extractLsb' (8 * i) 8) hdata)
  · have hdue : u.rng.closeDue = false := (touch_closeDue o).trans hserves.2.2.2.2.1
    have hexec : exec (.wimgLoad o) s = .next (afterOp (commandOf 0x8013 o) (.of u.imageLoad)) := by
      refine (single_of_install hserves hsub htyp hdata (.inr (.inr rfl))).trans ?_
      have hkey : (commandOf 0x8013 o).key = 0x801300 := commandOf_key hsub
      unfold commandOp
      rw [hkey]
      rfl
    have hanswer : ∀ {t : State} {code : W16}, u.imageLoad = (t, code) → t.rng.closeDue = false →
        exec (.wimgLoad o) s = .next (t.answered o code []) := fun ht hdue => by
      rw [hexec, ht]
      exact congrArg Host.Outcome.next (afterOp_of_status _ _ _ hdue)
    refine ⟨fun hrun => hanswer (if_pos (hrunning.trans hrun)) hdue, fun hstopped hwhy => hanswer ?_ hdue, fun hstopped hstate hlen => hanswer ?_ hdue⟩
    · refine (if_neg (by rw [hrunning, hstopped]; exact Bool.false_ne_true)).trans (if_pos ?_)
      rw [hwimg]
      exact hwhy
    · refine (if_neg (by rw [hrunning, hstopped]; exact Bool.false_ne_true)).trans (if_neg ?_)
      rw [hwimg]
      exact fun h => h.elim (fun h => h hstate) fun h => h hlen
  · have hgo : ¬(s.wimg.state ≠ 2 ∨ s.wimg.data.length ≠ wmLen s.wimg.cur) := fun h => h.elim (fun h => h hstate) fun h => h hlen
    exact ⟨fun hhash => (if_neg hgo).trans (if_pos hhash), fun hhash => (if_neg hgo).trans (if_neg hhash)⟩
  · exact if_pos (.inl hstate)

/-- Settles O52: segments build their image in order, and the weight image goes to its homes and to its hash. -/
theorem imagesArrive : Obligations.ImagesArrive := ⟨imageSegments, weightImages⟩

end Sys2Proof.Machine

end

section
/-! PROOFS. What a reset of the module keeps, the firmware update, and the recovery loader. -/

namespace Sys2Proof.Machine
open State

/-! ## What a job leaves in the flash, and what a reset keeps -/

/-- The state without what a stored job reaches: the dictionary and the Logbook. -/
def State.besidesJobs (s : State) : State := { s with dict := State.reset.dict, log := State.reset.log }

theorem storeEntry_besidesJobs (s : State) (key : Nat) (v : List Byte) : (s.storeEntry key v).besidesJobs = s.besidesJobs := by
  unfold storeEntry
  split <;> rfl

theorem storeMember_besidesJobs (s : State) (m : Nat × List Byte) : (s.storeMember m).besidesJobs = s.besidesJobs := by
  unfold storeMember
  split
  · exact storeEntry_besidesJobs ..
  · rfl

theorem putDefaults_besidesJobs (l : List Nat) (s : State) :
    (l.foldl (fun t k => t.putStored k (t.entryDefault k)) s).besidesJobs = s.besidesJobs :=
  foldl_keeps besidesJobs (f := fun (t : State) k => t.putStored k (t.entryDefault k)) (fun _ _ _ => rfl) s

theorem putJob_besidesJobs (s : State) (j : StoreJob) : (s.putJob j).besidesJobs = s.besidesJobs := by
  unfold putJob
  split
  · exact storeEntry_besidesJobs ..
  · exact putDefaults_besidesJobs _ s
  · exact foldl_keeps besidesJobs (fun m _ t => storeMember_besidesJobs t m) s
  · have hframe := putDefaults_besidesJobs enrolKeys s
    generalize enrolKeys.foldl (fun (t : State) k => t.putStored k (t.entryDefault k)) s = v at hframe ⊢
    exact hframe
  all_goals rfl

/-- Once the store in progress has landed, or been given up. -/
theorem landStore_besidesJobs (s : State) :
    s.landStore.besidesJobs = { s.besidesJobs with rng := s.landStore.rng } := by
  unfold landStore
  split
  · next j who hstore =>
    have hframe := putJob_besidesJobs ({ s with rng := { s.rng with store := none, cur := none } } : State) j
    generalize ({ s with rng := { s.rng with store := none, cur := none } } : State).putJob j = t at hframe ⊢
    have hrng : t.rng = { s.rng with store := none, cur := none } := congrArg State.rng hframe
    rw [hrng]
    exact hframe
  · rfl

theorem landStore_of_none {s : State} (h : s.rng.store = none) : s.landStore = s := by
  unfold landStore
  rw [h]

theorem landStore_fw (s : State) : s.landStore.fw = s.fw :=
  show s.landStore.besidesJobs.fw = s.fw by rw [landStore_besidesJobs]; rfl

theorem landStore_out (s : State) : s.landStore.out = s.out :=
  show s.landStore.besidesJobs.out = s.out by rw [landStore_besidesJobs]; rfl

theorem landStore_wimg (s : State) : s.landStore.wimg = s.wimg :=
  show s.landStore.besidesJobs.wimg = s.wimg by rw [landStore_besidesJobs]; rfl

/-- The state in which the timeline begins, but for the links. -/
def State.timelineBegun (s : State) : State :=
  ({ s with pwr := { s.pwr with phase := .good, goodAt := s.nowMs }, pace := { s.pace with running := true },
            rng := { s.rng with boot := .rom } } : State).setDomains 0 0 2

theorem startTimeline_besidesLinks (s : State) : s.startTimeline.besidesLinks = s.timelineBegun.besidesLinks :=
  foldl_keeps besidesLinks (f := fun (t : State) p => t.portIdle p) (fun _ _ _ => rfl) _

section
variable (s : State)

theorem startTimeline_rng : s.startTimeline.rng = { s.rng with boot := .rom } :=
  (congrArg State.rng (startTimeline_besidesLinks s) :)

theorem startTimeline_fw : s.startTimeline.fw = s.fw := (congrArg State.fw (startTimeline_besidesLinks s) :)

theorem startTimeline_out : s.startTimeline.out = s.out := (congrArg State.out (startTimeline_besidesLinks s) :)

theorem startTimeline_pack : s.startTimeline.pack = s.pack := (congrArg State.pack (startTimeline_besidesLinks s) :)

theorem startTimeline_wimg : s.startTimeline.wimg = s.wimg := (congrArg State.wimg (startTimeline_besidesLinks s) :)

theorem startTimeline_pwr : s.startTimeline.pwr =
    { s.pwr with phase := .good, goodAt := s.nowMs,
                 domains := (enumFrom0 s.pwr.domains).map fun x => if 0 ≤ x.1 ∧ x.1 ≤ 0 then 2 else x.2 } :=
  (congrArg State.pwr (startTimeline_besidesLinks s) :)

variable (straps : Straps)

theorem moduleReset_flash : (s.moduleReset straps).fw.flash = s.fw.flash :=
  (congrArg Fw.flash (startTimeline_fw _)).trans ((congrArg Fw.flash (landStore_fw s) :) : (s.moduleLost straps).fw.flash = s.fw.flash)

theorem moduleReset_out : (s.moduleReset straps).out = s.out :=
  (startTimeline_out _).trans (landStore_out s : (s.moduleLost straps).out = s.out)

theorem moduleReset_rng : (s.moduleReset straps).rng.boot = .rom ∧ (s.moduleReset straps).rng.sessions = [] := by
  have hrng := startTimeline_rng (s.moduleLost straps)
  exact ⟨congrArg Ranger.boot hrng, (congrArg Ranger.sessions hrng).trans rfl⟩

theorem moduleReset_straps : (s.moduleReset straps).pwr.straps = straps :=
  (congrArg (·.straps) (startTimeline_pwr (s.moduleLost straps)) :)

theorem moduleReset_pack : (s.moduleReset straps).pack.state = .none :=
  (congrArg (·.state) (startTimeline_pack (s.moduleLost straps))).trans rfl

theorem moduleReset_wimg_hash : (s.moduleReset straps).wimg.hash = s.wimg.hash :=
  (congrArg Wimg.hash (startTimeline_wimg (s.moduleLost straps))).trans ((congrArg Wimg.hash (landStore_wimg s) :) :
    (s.moduleLost straps).wimg.hash = s.wimg.hash)

end

/-! ## The hold-up check -/

/-- What a hold-up check shows: the capacitance, the energy, and the refusals so far. -/
def State.held (s : State) (c e n : Nat) : State := { s with rng := { s.rng with holdC := c, holdE := e, holdRefusals := n } }

section
variable {s : State} {h : Holdup} {need : Nat}

theorem holdCheck_passed (hold : holdCode h need = none) : ∃ c e, s.holdCheck h need = (s.held c e s.rng.holdRefusals, none) := by
  unfold holdCheck
  rw [hold]
  exact ⟨_, _, rfl⟩

theorem holdCheck_refused {code : W16} (hold : holdCode h need = some code) :
    ∃ c e, s.holdCheck h need = (s.held c e (s.rng.holdRefusals + 1), some code) := by
  unfold holdCheck
  rw [hold]
  exact ⟨_, _, rfl⟩

end

/-! ## The firmware update begins (O53) -/

/-- An image that fails its checks stays in the staging area. -/
def State.staged (s : State) : State := { s with fw := { s.fw with state := 2 } }

/-- Block 0 is erased, and the blocks follow from the first of the others. -/
def State.updating (s : State) : State :=
  let t := (s.putBlock 0 []).unalert .fwAbandoned
  { t with fw := { t.fw with state := 3, block := if fwBlocks t.fw.staging = 1 then 0 else 1, refused := 0 } }

section
variable {s : State} {h : Holdup} (hstopped : s.isRunning = false)
include hstopped

theorem fwBegin_of_other (hstate : s.fw.state = 0) : s.fwBegin h = (s, 0x030A) := by
  unfold fwBegin
  dsimp only
  rw [hstopped, if_neg Bool.false_ne_true, hstate]
  exact if_pos rfl

variable (hstate : s.fw.state = 1 ∨ s.fw.state = 2 ∨ s.fw.state = 5)
include hstate

theorem fwBegin_of_staged : s.fwBegin h =
    match (if s.fw.staging.length ≠ fwLen s.fw.staging then some 0x0710 else fwCheck s.fw.counter s.fw.staging) with
    | some c => (s.staged, c)
    | none => match s.holdCheck h needBlock with
      | (s, some c) => (s.staged, c)
      | (s, none) => (s.updating, 0) := by
  have hgo : ¬(!(decide (s.fw.state = 1) || decide (s.fw.state = 2) || decide (s.fw.state = 5))) = true := by
    rcases hstate with h | h | h <;> rw [h] <;> decide
  unfold fwBegin
  dsimp only
  rw [hstopped, if_neg Bool.false_ne_true, if_neg hgo] <;> rfl

theorem fwBegin_of_short (hlen : s.fw.staging.length ≠ fwLen s.fw.staging) : s.fwBegin h = (s.staged, 0x0710) := by
  rw [fwBegin_of_staged hstopped hstate, if_pos hlen]

variable (hlen : s.fw.staging.length = fwLen s.fw.staging)
include hlen

theorem fwBegin_of_fault {code : W16} (hcheck : fwCheck s.fw.counter s.fw.staging = some code) : s.fwBegin h = (s.staged, code) := by
  rw [fwBegin_of_staged hstopped hstate, if_neg (not_not_intro hlen), hcheck]

variable (hcheck : fwCheck s.fw.counter s.fw.staging = none)
include hcheck

theorem fwBegin_of_passed (hold : holdCode h needBlock = none) :
    ∃ c e, s.fwBegin h = ((s.held c e s.rng.holdRefusals).updating, 0) := by
  obtain ⟨c, e, hr⟩ := holdCheck_passed (s := s) hold
  rw [fwBegin_of_staged hstopped hstate, if_neg (not_not_intro hlen), hcheck, hr]
  exact ⟨c, e, rfl⟩

theorem fwBegin_of_bank {code : W16} (hold : holdCode h needBlock = some code) :
    ∃ c e, s.fwBegin h = ((s.held c e (s.rng.holdRefusals + 1)).staged, code) := by
  obtain ⟨c, e, hr⟩ := holdCheck_refused (s := s) hold
  rw [fwBegin_of_staged hstopped hstate, if_neg (not_not_intro hlen), hcheck, hr]
  exact ⟨c, e, rfl⟩

end

theorem firmwareInstall : Claim.FirmwareInstall := by
  intro s o h u p hserves hsub htyp hdata
  have hdue : u.rng.closeDue = false := (touch_closeDue o).trans hserves.2.2.2.2.1
  have hfw : u.fw = s.fw := by rw [show u = s.touch o from rfl, touch_eq]
  have hout : u.out = s.out := by rw [show u = s.touch o from rfl, touch_eq]
  have hrefusals : u.rng.holdRefusals = s.rng.holdRefusals := touch_holdRefusals o
  have hrunning : u.isRunning = s.isRunning := by
    rw [show u = s.touch o from rfl, touch_eq]
    rfl
  have hexec : exec (.fwInstall o h) s = .next (afterOp (commandOf 0x7051 o) (.of (u.fwBegin h))) := by
    refine (single_of_install hserves hsub htyp hdata (.inl rfl)).trans ?_
    have hkey : (commandOf 0x7051 o).key = 0x705100 := commandOf_key hsub
    unfold commandOp
    rw [hkey]
    rfl
  have hanswer : ∀ {t : State} {code : W16}, u.fwBegin h = (t, code) → t.rng.closeDue = false →
      exec (.fwInstall o h) s = .next (t.answered o code []) := fun ht hdue => by
    rw [hexec, ht]
    exact congrArg Host.Outcome.next (afterOp_of_status _ _ _ hdue)
  clear_value u
  refine ⟨fun hrun => hanswer (if_pos (hrunning.trans hrun)) hdue, fun hstopped hstate =>
    hanswer (fwBegin_of_other (hrunning.trans hstopped) ((congrArg Fw.state hfw).trans hstate)) hdue, fun hstopped hstate => ?_⟩
  have hstopped' := hrunning.trans hstopped
  have hstate' : u.fw.state = 1 ∨ u.fw.state = 2 ∨ u.fw.state = 5 := by
    rw [hfw]
    exact hstate
  have hlen' : ∀ {q : Prop}, (s.fw.staging.length = fwLen s.fw.staging → q) → (u.fw.staging.length = fwLen u.fw.staging → q) := fun hq => by
    rw [hfw]
    exact hq
  refine ⟨fun hlen => ?_, fun code hlen hcheck => ?_, fun hlen hcheck hold => ?_, fun code hlen hcheck hold => ?_⟩
  · exact hanswer (fwBegin_of_short hstopped' hstate' (by rw [hfw]; exact hlen)) hdue
  · exact hanswer (fwBegin_of_fault hstopped' hstate' (by rw [hfw]; exact hlen) (by rw [hfw]; exact hcheck)) hdue
  · obtain ⟨c, e, ht⟩ := fwBegin_of_passed hstopped' hstate' (by rw [hfw]; exact hlen) (by rw [hfw]; exact hcheck) (hold : holdCode h needBlock = none)
    refine ⟨_, hanswer ht hdue, rfl, ?_, rfl, Sparse.get_set_same ([] : List Byte) [] u.fw.flash 0, fun b hb => ?_, ?_⟩
    · show (if fwBlocks u.fw.staging = 1 then 0 else 1) = _
      rw [hfw]
    · refine (Sparse.get_set_other ([] : List Byte) [] u.fw.flash (Ne.symm hb)).trans ?_
      show Sparse.get [] u.fw.flash b = _
      rw [hfw]
    · exact congrArg (fun l : List Out => l ++ [.result o 0 0 []]) hout
  · obtain ⟨c, e, ht⟩ := fwBegin_of_bank hstopped' hstate' (by rw [hfw]; exact hlen) (by rw [hfw]; exact hcheck) (hold : holdCode h needBlock = some code)
    refine ⟨_, hanswer ht hdue, ?_, ?_, congrArg (fun l : List Out => l ++ [.result o code 0 []]) hout⟩
    · exact congrArg (fun f : Fw => { f with state := 2 }) hfw
    · exact congrArg (· + 1) hrefusals

/-! ## The blocks of an update -/

/-- The block in turn is written, and the next is in turn. -/
def State.blockPut (s : State) : State :=
  let t := s.putBlock s.fw.block (imageBlock s.fw.staging s.fw.block)
  { t with fw := { t.fw with block := if s.fw.block + 1 < fwBlocks t.fw.staging then s.fw.block + 1 else 0, refused := 0 } }

/-- The block in turn is refused once more. -/
def State.blockRefused (s : State) : State :=
  if 10 ≤ s.fw.refused + 1 then ({ s with fw := { s.fw with state := 5, refused := s.fw.refused + 1 } } : State).alert .fwAbandoned
  else { s with fw := { s.fw with refused := s.fw.refused + 1, retryAt := s.nowMs + 1000 } }

section
variable {s : State} {h : Holdup} {straps : Straps}

theorem updateBlock_passed (hold : holdCode h needBlock = none) : ∃ c e, s.updateBlock ⟨h, straps⟩ =
    if s.fw.block = 0 then (s.held c e s.rng.holdRefusals).blockPut.moduleReset straps else (s.held c e s.rng.holdRefusals).blockPut := by
  obtain ⟨c, e, hr⟩ := holdCheck_passed (s := s) hold
  have hblock : s.fwBlock h = ((s.held c e s.rng.holdRefusals).blockPut, decide (s.fw.block = 0)) := by
    unfold fwBlock
    rw [hr]
    rfl
  refine ⟨c, e, ?_⟩
  unfold updateBlock
  dsimp only
  rw [hblock]
  by_cases hb : s.fw.block = 0
  · rw [if_pos hb, decide_eq_true hb]
  · rw [if_neg hb, decide_eq_false hb]

theorem updateBlock_refused {code : W16} (hold : holdCode h needBlock = some code) : ∃ c e, s.updateBlock ⟨h, straps⟩ =
    (s.held c e (s.rng.holdRefusals + 1)).blockRefused := by
  obtain ⟨c, e, hr⟩ := holdCheck_refused (s := s) hold
  have hblock : s.fwBlock h = ((s.held c e (s.rng.holdRefusals + 1)).blockRefused, false) := by
    unfold fwBlock blockRefused
    rw [hr]
    dsimp only
    split <;> rfl
  refine ⟨c, e, ?_⟩
  unfold updateBlock
  dsimp only
  rw [hblock]

theorem exec_fwBlock (hstate : s.fw.state = 3) (hstore : s.rng.store = none) (hboot : s.rng.boot = .running) (hrestart : s.rng.restarting = false)
    {c : Instr} (hc : c = .fwBlockWrite ⟨h, straps⟩ ∧ s.fw.refused = 0 ∨ c = .fwBlockRetry ⟨h, straps⟩ ∧ 0 < s.fw.refused ∧ s.fw.retryAt ≤ s.nowMs) :
    exec c s = .next (s.updateBlock ⟨h, straps⟩) := by
  have hnone : s.rng.store.isNone = true := Option.isNone_iff_eq_none.mpr hstore
  rcases hc with ⟨rfl, hrefused⟩ | ⟨rfl, hrefused, hdue⟩
  · exact if_pos ⟨hstate, hrefused, hnone, hboot, hrestart⟩
  · exact if_pos ⟨hstate, hrefused, hdue, hnone, hboot, hrestart⟩

end

theorem firmwareBlocks : Claim.FirmwareBlocks := by
  intro s h straps b bytes hstate hstore hboot hrestart
  refine ⟨fun c hc => ?_, fun hrefused => if_neg fun hall => hrefused hall.2.1, fun hearly => if_neg fun hall => Nat.not_le.mpr hearly hall.2.2.1⟩
  have hexec := exec_fwBlock hstate hstore hboot hrestart hc
  refine ⟨fun hold hb => ?_, fun hold hb => ?_, fun code hold hfew => ?_, fun code hold hnine => ?_⟩
  · obtain ⟨n, e, ht⟩ := updateBlock_passed (s := s) (straps := straps) (hold : holdCode h needBlock = none)
    rw [if_neg hb] at ht
    exact ⟨_, hexec.trans (congrArg Host.Outcome.next ht), Sparse.get_set_same _ _ _ _, fun x hx => Sparse.get_set_other _ _ _ (Ne.symm hx), rfl, rfl,
      hstate, rfl, rfl⟩
  · obtain ⟨n, e, ht⟩ := updateBlock_passed (s := s) (straps := straps) (hold : holdCode h needBlock = none)
    rw [if_pos hb] at ht
    have hflash := moduleReset_flash (s.held n e s.rng.holdRefusals).blockPut straps
    have hput : (s.held n e s.rng.holdRefusals).blockPut.fw.flash = Sparse.set [] s.fw.flash 0 bytes :=
      congrArg (fun k => Sparse.set [] s.fw.flash k bytes) hb
    obtain ⟨hrom, hsessions⟩ := moduleReset_rng (s.held n e s.rng.holdRefusals).blockPut straps
    rw [hput] at hflash
    refine ⟨_, hexec.trans (congrArg Host.Outcome.next ht), ?_, fun x hx => ?_, hrom, hsessions, moduleReset_pack .., moduleReset_wimg_hash ..⟩
    · rw [hflash]
      exact Sparse.get_set_same _ _ _ _
    · rw [hflash]
      exact Sparse.get_set_other _ _ _ (Ne.symm hx)
  · obtain ⟨n, e, ht⟩ := updateBlock_refused (s := s) (straps := straps) (hold : holdCode h needBlock = some code)
    have hlow : ¬10 ≤ s.fw.refused + 1 := by omega
    rw [show (s.held n e (s.rng.holdRefusals + 1)).blockRefused = _ from if_neg hlow] at ht
    exact ⟨_, hexec.trans (congrArg Host.Outcome.next ht), rfl, rfl, rfl, hstate⟩
  · obtain ⟨n, e, ht⟩ := updateBlock_refused (s := s) (straps := straps) (hold : holdCode h needBlock = some code)
    have hhigh : 10 ≤ s.fw.refused + 1 := by omega
    rw [show (s.held n e (s.rng.holdRefusals + 1)).blockRefused = _ from if_pos hhigh] at ht
    have hfw : ∀ t : State, (t.alert .fwAbandoned).fw = t.fw := fun t =>
      show (t.alert .fwAbandoned).besidesAlerts.fw = t.besidesAlerts.fw by rw [alert_besidesAlerts]
    exact ⟨_, hexec.trans (congrArg Host.Outcome.next ht), (congrArg Fw.state (hfw _)).trans rfl, (congrArg Fw.flash (hfw _)).trans rfl, mem_alert_self ..⟩

/-! ## The recovery loader -/

section
variable {s : State} {peer : Peer} {bytes : List Byte} {w : FlashTry}

theorem exec_recoveryData_of_other (hboot : s.rng.boot ≠ .recovery) : exec (.recoveryData peer bytes w) s = .next s := by
  refine if_pos ?_
  rw [decide_eq_true hboot, Bool.true_or]

/-- The bytes of the block so far, with those of a message. -/
def State.recoveryBytes (s : State) (bytes : List Byte) : List Byte := s.fw.recBuf ++ slice bytes 16 (fieldAt bytes 12 2)

/-- How long the block in turn is. -/
def State.recoverySize (s : State) (bytes : List Byte) : Nat :=
  recoveryLen (if s.fw.recBlock = 0 then s.recoveryBytes bytes else s.fw.recZero) s.fw.recBlock

/-- The message's bytes have joined their block. -/
def State.gathered (s : State) (bytes : List Byte) : State := { s with fw := { s.fw with recBuf := s.recoveryBytes bytes } }

variable (hboot : s.rng.boot = .recovery) (hok : recoveryOk bytes 0x01 = true)
include hboot hok

theorem exec_recoveryData_eq : exec (.recoveryData peer bytes w) s =
    if fieldAt bytes 4 2 ≠ s.fw.recBlock ∨ fieldAt bytes 8 4 ≠ s.fw.recBuf.length ∨ s.recoverySize bytes < (s.recoveryBytes bytes).length then
      .next (s.recoverySay peer 0x0710 0)
    else .next (if (s.recoveryBytes bytes).length = s.recoverySize bytes then (s.gathered bytes).recoveryBlock peer w
      else (s.gathered bytes).recoverySay peer 0 0) := by
  refine if_neg ?_
  rw [hboot, hok]
  decide

variable (hnext : fieldAt bytes 4 2 = s.fw.recBlock ∧ fieldAt bytes 8 4 = s.fw.recBuf.length)
include hnext

theorem exec_recoveryData_of_more (hmore : (s.recoveryBytes bytes).length < s.recoverySize bytes) :
    exec (.recoveryData peer bytes w) s = .next ((s.gathered bytes).recoverySay peer 0 0) := by
  rw [exec_recoveryData_eq hboot hok, if_neg, if_neg (Nat.ne_of_lt hmore)]
  rintro (h | h | h)
  · exact h hnext.1
  · exact h hnext.2
  · omega

theorem exec_recoveryData_of_whole (hwhole : (s.recoveryBytes bytes).length = s.recoverySize bytes) :
    exec (.recoveryData peer bytes w) s = .next ((s.gathered bytes).recoveryBlock peer w) := by
  rw [exec_recoveryData_eq hboot hok, if_neg, if_pos hwhole]
  rintro (h | h | h)
  · exact h hnext.1
  · exact h hnext.2
  · omega

end

section
variable {s : State} {peer : Peer} {h : Holdup} {straps : Straps}

theorem recoveryBlock_of_header {code : W16} (hb : s.fw.recBlock = 0) (hcheck : fwHeaderCheck s.fw.counter s.fw.recBuf = some code) :
    s.recoveryBlock peer ⟨h, straps⟩ = s.recoveryAnew.recoverySay peer code 0 := by
  unfold recoveryBlock
  dsimp only
  rw [if_pos hb, hcheck]

theorem recoveryBlock_of_first (hb : s.fw.recBlock = 0) (hcheck : fwHeaderCheck s.fw.counter s.fw.recBuf = none) (hmany : fwBlocks s.fw.recBuf ≠ 1) :
    s.recoveryBlock peer ⟨h, straps⟩ =
      (({ s with fw := { s.fw with recBlock := 1, recBuf := [], recZero := s.fw.recBuf } } : State).putBlock 0 []).recoverySay peer 0 0 := by
  unfold recoveryBlock
  dsimp only
  rw [if_pos hb, hcheck]
  dsimp only
  rw [if_neg hmany]

variable (hb : s.fw.recBlock ≠ 0)
include hb

theorem recoveryBlock_of_refused {code : W16} (hold : holdCode h needBlock = some code) : ∃ c e, s.recoveryBlock peer ⟨h, straps⟩ =
    ({ s.held c e (s.rng.holdRefusals + 1) with fw := { s.fw with recBuf := [] } } : State).recoverySay peer 0x0401 1000 := by
  obtain ⟨c, e, hr⟩ := holdCheck_refused (s := s) hold
  refine ⟨c, e, ?_⟩
  unfold recoveryBlock
  dsimp only
  rw [if_neg hb, hr]
  rfl

theorem recoveryBlock_of_passed (hold : holdCode h needBlock = none) : ∃ c e, s.recoveryBlock peer ⟨h, straps⟩ =
    let t := (s.held c e s.rng.holdRefusals).putBlock s.fw.recBlock s.fw.recBuf
    if s.fw.recBlock + 1 < fwBlocks s.fw.recZero then
      ({ t with fw := { t.fw with recBlock := s.fw.recBlock + 1, recBuf := [] } } : State).recoverySay peer 0 0
    else t.recoveryEnd peer straps := by
  obtain ⟨c, e, hr⟩ := holdCheck_passed (s := s) hold
  refine ⟨c, e, ?_⟩
  unfold recoveryBlock
  dsimp only
  rw [if_neg hb, hr]
  rfl

end

section
variable {s : State} {peer : Peer} {straps : Straps}

theorem recoveryEnd_of_good (h : fwBodyOk (s.putBlock 0 s.fw.recZero).flashImage = true) :
    s.recoveryEnd peer straps = ((s.putBlock 0 s.fw.recZero).recoverySay peer 0 0).moduleReset straps := if_pos h

theorem recoveryEnd_of_bad (h : fwBodyOk (s.putBlock 0 s.fw.recZero).flashImage = false) :
    s.recoveryEnd peer straps = s.recoveryAnew.recoverySay peer 0x0714 0 := by
  refine if_neg ?_
  rw [h]
  exact Bool.false_ne_true

end

/-- The flash image is what the flash holds. -/
theorem flashImage_congr {s t : State} (h : t.fw.flash = s.fw.flash) : t.flashImage = s.flashImage := by
  have hblock : t.flashBlock = s.flashBlock := by
    funext b
    unfold flashBlock
    rw [h]
  unfold flashImage
  rw [hblock]

theorem recoveryLoader : Claim.RecoveryLoader := by
  intro s peer bytes h straps b n buf len next
  refine ⟨fun hboot => ⟨?_, exec_recoveryData_of_other hboot⟩, fun hboot hok => ?_, fun hboot hok => ⟨fun hwhy => ?_, fun hnext hmore => ?_,
    fun hnext hwhole hb hold hmore => ?_, fun hnext hwhole hb ⟨code, hold⟩ => ?_, fun hnext hwhole hb hold hlast => ?_,
    fun hnext hwhole hb hcheck hmany => ?_, fun code hnext hwhole hb hcheck => ?_⟩⟩
  · refine if_pos ?_
    rw [decide_eq_true hboot, Bool.true_or]
  · refine if_neg ?_
    rw [hboot, hok]
    decide
  · refine (exec_recoveryData_eq hboot hok).trans (if_pos ?_)
    rcases hwhy with hwhy | hwhy
    · rcases not_and_or.mp hwhy with h | h
      · exact .inl h
      · exact .inr (.inl h)
    · exact .inr (.inr hwhy)
  · exact exec_recoveryData_of_more hboot hok hnext hmore
  all_goals have hexec := exec_recoveryData_of_whole (peer := peer) (w := ⟨h, straps⟩) hboot hok hnext hwhole
  · obtain ⟨c, e, ht⟩ := recoveryBlock_of_passed (s := s.gathered bytes) (peer := peer) (straps := straps) hb (hold : holdCode h needBlock = none)
    dsimp only at ht
    rw [if_pos (show (s.gathered bytes).fw.recBlock + 1 < fwBlocks (s.gathered bytes).fw.recZero from hmore)] at ht
    exact ⟨_, hexec.trans (congrArg Host.Outcome.next ht), Sparse.get_set_same _ _ _ _, rfl, rfl, hboot, rfl⟩
  · obtain ⟨c, e, ht⟩ := recoveryBlock_of_refused (s := s.gathered bytes) (peer := peer) (straps := straps) hb (hold : holdCode h needBlock = some code)
    exact ⟨_, hexec.trans (congrArg Host.Outcome.next ht), rfl, rfl, rfl, rfl⟩
  · obtain ⟨c, e, ht⟩ := recoveryBlock_of_passed (s := s.gathered bytes) (peer := peer) (straps := straps) hb (hold : holdCode h needBlock = none)
    dsimp only at ht
    rw [if_neg (show ¬(s.gathered bytes).fw.recBlock + 1 < fwBlocks (s.gathered bytes).fw.recZero from Nat.not_lt.mpr hlast)] at ht
    generalize hu : ((s.gathered bytes).held c e (s.gathered bytes).rng.holdRefusals).putBlock (s.gathered bytes).fw.recBlock (s.gathered bytes).fw.recBuf = v at ht
    have hzero : v.fw.recZero = s.fw.recZero := by rw [← hu]; rfl
    have hflash : v.fw.flash = Sparse.set [] s.fw.flash b buf := by rw [← hu]; rfl
    have hblock : v.fw.recBlock = b := by rw [← hu]; rfl
    have hbuf : v.fw.recBuf = buf := by rw [← hu]; rfl
    have hout : v.out = s.out := by rw [← hu]; rfl
    have hboot' : v.rng.boot = .recovery := by rw [← hu]; exact hboot
    have himage : (v.putBlock 0 v.fw.recZero).flashImage = ((s.putBlock b buf).putBlock 0 s.fw.recZero).flashImage := by
      refine flashImage_congr ?_
      show Sparse.set [] v.fw.flash 0 v.fw.recZero = Sparse.set [] (Sparse.set [] s.fw.flash b buf) 0 s.fw.recZero
      rw [hflash, hzero]
    by_cases hgood : fwBodyOk ((s.putBlock b buf).putBlock 0 s.fw.recZero).flashImage = true
    · rw [recoveryEnd_of_good (by rw [himage]; exact hgood)] at ht
      have hafter : (v.recoveryEnd peer straps).fw.flash = Sparse.set [] (Sparse.set [] s.fw.flash b buf) 0 s.fw.recZero := by
        rw [recoveryEnd_of_good (by rw [himage]; exact hgood)]
        refine (moduleReset_flash ..).trans ?_
        show Sparse.set [] v.fw.flash 0 v.fw.recZero = _
        rw [hflash, hzero]
      rw [recoveryEnd_of_good (by rw [himage]; exact hgood)] at hafter
      refine ⟨_, hexec.trans (congrArg Host.Outcome.next ht), ?_, fun _ => ⟨?_, (moduleReset_rng ..).1, moduleReset_straps .., ?_⟩, fun hbad => ?_⟩
      · rw [hafter, Sparse.get_set_other _ _ _ (Ne.symm hb)]
        exact Sparse.get_set_same _ _ _ _
      · rw [hafter]
        exact Sparse.get_set_same _ _ _ _
      · refine (moduleReset_out ..).trans ?_
        show v.out ++ [.recovery peer (recoveryReply v.fw.recBlock v.fw.recBuf.length 0 0)] = _
        rw [hout, hblock, hbuf]
      · rw [hgood] at hbad
        exact absurd hbad.symm Bool.false_ne_true
    · have hbad := Bool.eq_false_iff.mpr hgood
      rw [recoveryEnd_of_bad (by rw [himage]; exact hbad)] at ht
      refine ⟨_, hexec.trans (congrArg Host.Outcome.next ht), ?_, fun h => absurd h hgood, fun _ => ⟨?_, hboot', rfl, rfl, ?_⟩⟩
      · show Sparse.get [] v.fw.flash b = buf
        rw [hflash]
        exact Sparse.get_set_same _ _ _ _
      · show Sparse.get [] v.fw.flash 0 = _
        rw [hflash]
        exact Sparse.get_set_other _ _ _ hb
      · exact congrArg (fun l : List Out => l ++ [.recovery peer (recoveryReply 0 0 0x0714 0)]) hout
  · have ht := recoveryBlock_of_first (s := s.gathered bytes) (peer := peer) (h := h) (straps := straps) hb hcheck hmany
    exact ⟨_, hexec.trans (congrArg Host.Outcome.next ht), Sparse.get_set_same ([] : List Byte) [] s.fw.flash 0, rfl, rfl, rfl, hboot, rfl⟩
  · have ht := recoveryBlock_of_header (s := s.gathered bytes) (peer := peer) (h := h) (straps := straps) hb hcheck
    exact ⟨_, hexec.trans (congrArg Host.Outcome.next ht), rfl, rfl, rfl, rfl⟩

/-- Settles O53: an update checks its image and writes its blocks, each after its hold-up check, and the recovery loader gathers its own. -/
theorem firmwareUpdates : Obligations.FirmwareUpdates := ⟨firmwareInstall, firmwareBlocks, recoveryLoader⟩

end Sys2Proof.Machine

end

section
/-! PROOFS. The flush of the slices, and the halt of a pack: what each leaves as it is. -/

namespace Sys2Proof.Machine
open State

/-! ## What a write that has landed reaches

A slice's write tells the one who made it: an engine, a transfer, another module, or the front end, whose admission goes on. -/

/-- The state without engines, memory, networks and links. -/
def State.besidesDevices (s : State) : State :=
  { s with
    cores := { s.cores with eng := [], dpk := [] }, mem := State.reset.mem, slices := [], sliceWb := 0, mm := State.reset.mm, trail := .reset,
    gl := .reset, sums := {} }

/-- The state without those and without what the service reaches: requests, results, sessions and the alert of the epochs' end. -/
def State.besidesService (s : State) : State :=
  { s.besidesDevices with
    cores := { s.besidesDevices.cores with acc := [] }, holdq := [], out := [], log := State.reset.log, svc := State.reset.svc,
    rng := { s.rng with sessions := [], alerts := s.rng.alerts.filter (· ≠ .epochEnd) } }

theorem besidesService_of_devices {s t : State} (h : t.besidesDevices = s.besidesDevices) : t.besidesService = s.besidesService := by
  have hrng : t.rng = s.rng := show t.besidesDevices.rng = s.besidesDevices.rng from congrArg State.rng h
  unfold besidesService
  rw [h, hrng]

section
variable (s : State)

theorem verifyFlit_besidesDevices (h : FHead) (ps : List Parcel) : (s.verifyFlit h ps).1.besidesDevices = s.besidesDevices := by
  unfold verifyFlit
  refine foldl_keeps (fun x : State × List Parcel => x.1.besidesDevices) (fun _ _ _ => ?_) (s, [])
  dsimp only
  split <;> rfl

theorem queueFlit_besidesDevices (p : Nat) (h : FHead) (ps : List Parcel) : (s.queueFlit p h ps).besidesDevices = s.besidesDevices :=
  (show (s.queueFlit p h ps).besidesDevices = (s.verifyFlit h ps).1.besidesDevices from rfl).trans (verifyFlit_besidesDevices ..)

theorem portFlit_besidesDevices (p : Nat) (h : FHead) (ps : List Parcel) : (s.portFlit p h ps).besidesDevices = s.besidesDevices := by
  unfold portFlit
  split
  · rfl
  · refine (queueFlit_besidesDevices ..).trans ?_
    unfold flushEdge
    split
    · exact (queueFlit_besidesDevices ..).trans rfl
    · rfl

theorem putPkt_besidesDevices (k avail : Nat) (p : Pkt) : (s.putPkt k avail p).besidesDevices = s.besidesDevices := by
  unfold putPkt
  split <;> rfl

theorem fromEdge_besidesDevices (port plane : Nat) (p : Pkt) : (s.fromEdge port plane p).besidesDevices = s.besidesDevices := by
  unfold fromEdge
  split
  · split
    · exact portFlit_besidesDevices ..
    · exact putPkt_besidesDevices ..
  · exact putPkt_besidesDevices ..

theorem sendAway_besidesDevices (plane router input avail : Nat) (h : FHead) (p : Parcel) :
    (s.sendAway plane router input avail h p).besidesDevices = s.besidesDevices := by
  by_cases hd : h.dpk = true
  · rw [sendAway_of_dpk s hd]
    cases s.dpkExit (globalKey h.dmod h.addr) <;> rfl
  · unfold sendAway
    rw [if_neg hd]
    split
    · split
      · exact fromEdge_besidesDevices ..
      · rfl
    · exact putPkt_besidesDevices ..

theorem replyTo_besidesService (r : Req) (status : W16) (seq : W64) (retry : Nat) :
    (s.replyTo r status seq retry).besidesService = s.besidesService := by
  have hframe := s.replyTo_besidesReplies r status seq retry
  generalize s.replyTo r status seq retry = t at hframe ⊢
  have hrng : ({ t.rng with sessions := [] } : Ranger) = { s.rng with sessions := [] } := congrArg State.rng hframe
  have halerts : t.rng.alerts = s.rng.alerts := (congrArg Ranger.alerts hrng :)
  have hall : (t.besidesReplies.besidesService = s.besidesReplies.besidesService) := by rw [hframe]
  exact hall

theorem admitReq_besidesService (a : Adm) (seq : W64) : (s.admitReq a seq).besidesService = s.besidesService :=
  (replyTo_besidesService ..).trans rfl

theorem storeParcel_besidesService (who : Requester) (k a : Nat) (p : Parcel) : (s.storeParcel who k a p).besidesService = s.besidesService := by
  unfold storeParcel
  split
  · rfl
  · unfold markAcc
    split <;> rfl

theorem putParcelFor_besidesService (who : Requester) (a : Nat) (p : Parcel) : (s.putParcelFor who a p).besidesService = s.besidesService := by
  unfold putParcelFor
  dsimp only
  split
  · rfl
  · split
    · rfl
    · exact storeParcel_besidesService ..

theorem slotPut_besidesService (ch : BitVec 4) (a : Nat) (d : BitVec 256) : (s.slotPut ch a d).1.besidesService = s.besidesService := by
  unfold slotPut
  dsimp only
  split
  · rfl
  · split
    · exact putParcelFor_besidesService ..
    · exact besidesService_of_devices (putPkt_besidesDevices ..)

theorem alert_epochEnd_besidesService : (s.alert .epochEnd).besidesService = s.besidesService := by
  unfold alert
  split
  · rfl
  · have hfilter : (s.rng.alerts ++ [AlertSrc.epochEnd]).filter (· ≠ .epochEnd) = s.rng.alerts.filter (· ≠ .epochEnd) := by
      rw [List.filter_append]
      exact List.append_nil _
    exact congrArg (fun l => ({ s.besidesService with rng := { s.besidesService.rng with alerts := l } } : State)) hfilter

theorem headerPut_besidesService (a : Adm) (seq : W64) (ch : BitVec 4) (slot : Nat) (d : BitVec 256) :
    (if (s.slotPut ch slot d).2 then (s.slotPut ch slot d).1.admitReq a seq else (s.slotPut ch slot d).1).besidesService = s.besidesService := by
  split
  · exact (admitReq_besidesService ..).trans (slotPut_besidesService ..)
  · exact slotPut_besidesService ..

theorem sendHeader_besidesService (a : Adm) : (s.sendHeader a).besidesService = s.besidesService := by
  unfold sendHeader
  split
  · rfl
  · dsimp only
    refine (headerPut_besidesService ..).trans ?_
    split
    · exact (alert_epochEnd_besidesService ..).trans rfl
    · rfl

theorem slotLanded_besidesService (ch : Nat) : (s.slotLanded ch).besidesService = s.besidesService := by
  unfold slotLanded
  split
  · rfl
  · split
    · exact admitReq_besidesService ..
    · dsimp only
      split
      · exact (sendHeader_besidesService ..).trans rfl
      · rfl

theorem slotLanded_of_idle {s : State} (h : s.svc.adm = []) (ch : Nat) : s.slotLanded ch = s := by
  unfold slotLanded
  rw [h]
  rfl

/-- A landed write reaches devices alone, but for one of the front end. -/
theorem wrote_besidesDevices (who : Requester) (h : ∀ ch, who ≠ .slotW ch) : (s.wrote who).besidesDevices = s.besidesDevices := by
  unfold wrote
  split
  · rfl
  · rfl
  · next ch => exact absurd rfl (h ch)
  · split
    · rfl
    · split
      · exact (sendAway_besidesDevices ..).trans rfl
      · rfl
  · rfl

theorem wrote_besidesService (who : Requester) : (s.wrote who).besidesService = s.besidesService := by
  by_cases h : ∃ ch, who = .slotW ch
  · obtain ⟨ch, rfl⟩ := h
    exact slotLanded_besidesService ..
  · exact besidesService_of_devices (wrote_besidesDevices s who fun ch he => h ⟨ch, he⟩)

theorem wrote_besidesDevices_of_idle (who : Requester) (hidle : s.svc.adm = []) : (s.wrote who).besidesDevices = s.besidesDevices := by
  by_cases h : ∃ ch, who = .slotW ch
  · obtain ⟨ch, rfl⟩ := h
    exact congrArg besidesDevices (slotLanded_of_idle hidle ch)
  · exact wrote_besidesDevices s who fun ch he => h ⟨ch, he⟩

/-! ## The flush of the slices -/

theorem storeReq_besidesDevices (m : MReq) : (s.storeReq m).besidesDevices = s.besidesDevices := by
  unfold storeReq
  split
  · rfl
  · split
    · split <;> rfl
    · refine foldl_keeps besidesDevices (fun _ _ t => ?_) s
      dsimp only
      split <;> rfl

/-- What a slice has written back: its writes under way and its dirty lines. -/
def State.writtenBack (s : State) (sl : Slice) : State :=
  (sl.lines.filter fun x => x.2.dirty).foldl (fun s x => (enumFrom0 x.2.ps).foldl (fun s p =>
    match s.keyOf (x.2.tag * 256 + 32 * p.1) with
    | some key => s.chanStore key (x.2.tag * 256 + 32 * p.1) p.2 0
    | none => s) s) (sl.wb.foldl (fun s m => s.storeReq m) s)

theorem writtenBack_besidesDevices (sl : Slice) : (s.writtenBack sl).besidesDevices = s.besidesDevices := by
  refine (foldl_keeps besidesDevices (fun x _ t => ?_) _).trans (foldl_keeps besidesDevices (fun m _ t => storeReq_besidesDevices t m) s)
  refine foldl_keeps besidesDevices (fun p _ t => ?_) t
  split <;> rfl

/-- A write that waits at a slice lands. -/
def State.landedAt (s : State) (r : SReq) : State :=
  if !r.wr then s
  else match s.keyOf r.addr with
    | some key => (s.chanStore key r.addr (r.apply (s.mem.parcel key r.addr)) 0).wrote r.who
    | none => s.wrote r.who

theorem landedAt_besidesService (r : SReq) : (s.landedAt r).besidesService = s.besidesService := by
  unfold landedAt
  split
  · rfl
  · split
    · exact (wrote_besidesService ..).trans rfl
    · exact wrote_besidesService ..

theorem landedAt_besidesDevices (r : SReq) (hidle : s.svc.adm = []) : (s.landedAt r).besidesDevices = s.besidesDevices := by
  unfold landedAt
  split
  · rfl
  · split
    · refine (wrote_besidesDevices_of_idle _ _ ?_).trans rfl
      exact hidle
    · exact wrote_besidesDevices_of_idle _ _ hidle

theorem svc_of_besidesDevices {s t : State} (h : t.besidesDevices = s.besidesDevices) : t.svc = s.svc :=
  show t.besidesDevices.svc = s.besidesDevices.svc from congrArg State.svc h

theorem flushSlice_eq (k : Nat) : ∃ sw sl, s.flushSlice k =
    ({ ((s.sliceAt k).waiting ++ (s.sliceAt k).inq).foldl landedAt (s.writtenBack (s.sliceAt k)) with sliceWb := sw } : State).setSlice k sl :=
  ⟨_, _, rfl⟩

theorem flushSlice_besidesService (k : Nat) : (s.flushSlice k).besidesService = s.besidesService := by
  obtain ⟨sw, sl, he⟩ := flushSlice_eq s k
  rw [he]
  exact (show _ = (((s.sliceAt k).waiting ++ (s.sliceAt k).inq).foldl landedAt (s.writtenBack (s.sliceAt k))).besidesService from rfl).trans
    ((foldl_keeps besidesService (fun r _ t => landedAt_besidesService t r) _).trans (besidesService_of_devices (writtenBack_besidesDevices ..)))

theorem flushSlice_besidesDevices (k : Nat) (hidle : s.svc.adm = []) : (s.flushSlice k).besidesDevices = s.besidesDevices := by
  obtain ⟨sw, sl, he⟩ := flushSlice_eq s k
  have hback := writtenBack_besidesDevices s (s.sliceAt k)
  rw [he]
  refine (show _ = (((s.sliceAt k).waiting ++ (s.sliceAt k).inq).foldl landedAt (s.writtenBack (s.sliceAt k))).besidesDevices from rfl).trans ?_
  refine List.foldlRecOn _ landedAt (motive := fun t => t.besidesDevices = s.besidesDevices) hback fun t ht r _ => ?_
  exact (landedAt_besidesDevices t r (by rw [svc_of_besidesDevices ht]; exact hidle)).trans ht

theorem flushSlices_besidesService : s.flushSlices.besidesService = s.besidesService :=
  foldl_keeps besidesService (fun x _ t => flushSlice_besidesService t x.1) s

/-- With no admission under way the flush reaches devices alone. -/
theorem flushSlices_besidesDevices (hidle : s.svc.adm = []) : s.flushSlices.besidesDevices = s.besidesDevices :=
  List.foldlRecOn s.slices (fun (t : State) x => t.flushSlice x.1) (motive := fun t => t.besidesDevices = s.besidesDevices) rfl
    fun t ht x _ => (flushSlice_besidesDevices t x.1 (by rw [svc_of_besidesDevices ht]; exact hidle)).trans ht

end

/-! ## The cores stop -/

/-- A core that runs or waits stops, its bundle closed. -/
def State.stopCore (s : State) (x : Nat × Seq) : State :=
  if x.2.st = 1 ∨ x.2.st = 2 then (s.setBnd x.1 (s.bnd x.1).closed).setSeq x.1 { x.2 with st := 4, wait := .none } else s

def State.stopEng (s : State) (x : Nat × Eng) : State := s.setEng (x.1 / 8) (x.1 % 8) (Eng.stopAtEntry x.2)

theorem stopCores_eq (s : State) : s.stopCores = (s.cores.seq.foldl stopCore s).cores.eng.foldl stopEng (s.cores.seq.foldl stopCore s) := rfl

/-- The state without its cores. -/
def State.besidesCores (s : State) : State := { s with cores := State.reset.cores }

theorem stopCore_besidesCores (s : State) (x : Nat × Seq) : (s.stopCore x).besidesCores = s.besidesCores := by
  unfold stopCore
  split <;> rfl

theorem stopCores_besidesCores (s : State) : s.stopCores.besidesCores = s.besidesCores := by
  rw [stopCores_eq]
  exact (foldl_keeps besidesCores (f := stopEng) (fun _ _ _ => rfl) _).trans
    (foldl_keeps besidesCores (fun x _ t => stopCore_besidesCores t x) s)

theorem stopCore_seq (s : State) (x : Nat × Seq) (c : Nat) (h : (s.seq c).st = 4) : ((s.stopCore x).seq c).st = 4 := by
  unfold stopCore
  split
  · by_cases hx : x.1 = c
    · rw [← hx, setSeq_seq_same]
    · rw [setSeq_seq_other _ _ _ hx]
      exact h
  · exact h

theorem stopSeqs_stopped {c : Nat} : ∀ (l : List (Nat × Seq)) (s : State),
    ((s.seq c).st = 4 ∨ (Sparse.get Seq.reset l c).st = 1 ∨ (Sparse.get Seq.reset l c).st = 2) → ((l.foldl stopCore s).seq c).st = 4 := by
  intro l
  induction l with
  | nil =>
    rintro s (h | h | h)
    · exact h
    · exact absurd (show Seq.reset.st = 1 from h) (by decide)
    · exact absurd (show Seq.reset.st = 2 from h) (by decide)
  | cons x l ih =>
    obtain ⟨k, q⟩ := x
    intro s h
    refine ih _ ?_
    rcases h with h | h
    · exact .inl (stopCore_seq s _ c h)
    · by_cases hk : k = c
      · subst hk
        have hq : q.st = 1 ∨ q.st = 2 := by simpa [Sparse.get] using h
        refine .inl ?_
        show ((State.stopCore s (k, q)).seq k).st = 4
        unfold stopCore
        rw [if_pos hq, setSeq_seq_same]
      · refine .inr ?_
        simpa [Sparse.get, hk] using h

/-- Every core that ran, or waited, has stopped. -/
theorem stopCores_seq {s : State} {c : Nat} (h : (s.seq c).st = 1 ∨ (s.seq c).st = 2) : (s.stopCores.seq c).st = 4 := by
  rw [stopCores_eq]
  refine (congrArg Seq.st (foldl_keeps (fun t : State => t.seq c) (f := stopEng) (fun _ _ _ => rfl) _)).trans ?_
  exact stopSeqs_stopped s.cores.seq s (.inr h)

/-! ## The halt of a pack -/

/-- The pack's cores stopped, the slices written back, and no child of the start tree ready. -/
def State.stopped (s : State) : State := s.stopCores.flushSlices.unready

theorem haltPack_eq (s : State) : s.haltPack =
    ({ s.stopped with pack := { s.stopped.pack with state := .halted }, rng := { s.stopped.rng with packFatalAt := none } } : State).discardOpen := rfl

/-- The state without what a halt reaches, of which the cores are a part. -/
def State.besidesHalt (s : State) : State := { s.besidesService with cores := State.reset.cores }

theorem stopped_besidesHalt (s : State) : s.stopped.besidesHalt = s.besidesHalt := by
  have hflush : s.stopCores.flushSlices.besidesService = s.stopCores.besidesService := flushSlices_besidesService _
  have hstop : s.stopCores.besidesCores.besidesHalt = s.besidesCores.besidesHalt := by rw [stopCores_besidesCores]
  exact (show s.stopped.besidesHalt = s.stopCores.flushSlices.besidesHalt from rfl).trans
    ((congrArg (fun t : State => ({ t with cores := State.reset.cores } : State)) hflush).trans hstop)

theorem discardOpen_besidesService (s : State) : s.discardOpen.besidesService = s.besidesService := by
  have hframe := discardOpen_besidesResults (s := s)
  generalize s.discardOpen = t at hframe ⊢
  have hall : t.besidesResults.besidesService = s.besidesResults.besidesService := by rw [hframe]
  exact hall

/-- A halt sets the pack's state, and reaches what it reaches. -/
theorem haltPack_besidesHalt (s : State) : s.haltPack.besidesHalt =
    { s.besidesHalt with pack := { s.pack with state := .halted }, rng := { s.besidesHalt.rng with packFatalAt := none } } := by
  have hframe := stopped_besidesHalt s
  rw [haltPack_eq]
  generalize s.stopped = t at hframe ⊢
  have hpack : t.pack = s.pack := show t.besidesHalt.pack = s.besidesHalt.pack from congrArg State.pack hframe
  refine (congrArg (fun u : State => ({ u with cores := State.reset.cores } : State)) (discardOpen_besidesService _)).trans ?_
  refine (show _ = ({ t.besidesHalt with pack := { t.pack with state := .halted }, rng := { t.besidesHalt.rng with packFatalAt := none } } : State) from rfl).trans ?_
  rw [hframe, hpack]

theorem haltPack_pack (s : State) : s.haltPack.pack = { s.pack with state := .halted } := by
  have hframe := haltPack_besidesHalt s
  generalize s.haltPack = t at hframe ⊢
  exact (congrArg State.pack hframe :)

/-- Every open result, and every request that waits, has its answer. -/
def State.discarded (s : State) : State :=
  let s := s.log.open_.foldl (fun s p =>
    match p.2 with
    | some o => s.resultTo o.req o.seq 0x0602 [] []
    | none => s) s
  let s := s.svc.waiting.foldl (fun s r => s.replyTo r 0x0303 0 0) s
  let s := s.svc.adm.foldl (fun s a => s.replyTo a.req 0x0303 0 0) s
  s.svc.taking.foldl (fun s t => s.resultTo t.kept.req t.kept.seq 0x0602 [] []) s

/-- No result is open, and no request waits. -/
def State.cleared (s : State) : State :=
  { s with log := { s.log with open_ := [], leaves := [] }, svc := { s.svc with waiting := [], adm := [], taking := [], table := [] } }

theorem discardOpen_eq (s : State) : s.discardOpen = s.discarded.cleared := rfl

theorem haltPack_open (s : State) : s.haltPack.log.open_ = [] ∧ s.haltPack.svc.waiting = [] := by
  rw [haltPack_eq, discardOpen_eq]
  exact ⟨rfl, rfl⟩

theorem haltPack_seq {s : State} {c : Nat} (h : (s.seq c).st = 1 ∨ (s.seq c).st = 2) : (s.haltPack.seq c).st = 4 := by
  have hcores : s.haltPack.cores = s.stopped.cores := by
    rw [haltPack_eq, discardOpen_cores]
  have hflush := congrArg (fun t : State => t.cores.seq) (flushSlices_besidesService s.stopCores)
  have hseq : s.haltPack.cores.seq = s.stopCores.cores.seq := (congrArg (·.seq) hcores).trans hflush
  have hstop := stopCores_seq h
  unfold State.seq at hstop ⊢
  rw [hseq]
  exact hstop

/-- With no result open and no request waiting, nothing is sent. -/
theorem discardOpen_out {s : State} (hopen : s.log.open_ = []) (hwait : s.svc.waiting = []) (hadm : s.svc.adm = []) (htaking : s.svc.taking = []) :
    s.discardOpen.out = s.out := by
  unfold discardOpen
  rw [hopen]
  dsimp only [List.foldl_nil]
  rw [hwait]
  dsimp only [List.foldl_nil]
  rw [hadm]
  dsimp only [List.foldl_nil]
  rw [htaking]
  rfl

theorem haltPack_out {s : State} (hopen : s.log.open_ = []) (hwait : s.svc.waiting = []) (hadm : s.svc.adm = []) (htaking : s.svc.taking = []) :
    s.haltPack.out = s.out := by
  have hstop := stopCores_besidesCores s
  have hsvc : s.stopCores.svc = s.svc := show s.stopCores.besidesCores.svc = s.besidesCores.svc from congrArg State.svc hstop
  have hlog : s.stopCores.log = s.log := show s.stopCores.besidesCores.log = s.besidesCores.log from congrArg State.log hstop
  have hout : s.stopCores.out = s.out := show s.stopCores.besidesCores.out = s.besidesCores.out from congrArg State.out hstop
  have hflush := flushSlices_besidesDevices s.stopCores (by rw [hsvc]; exact hadm)
  have hsvc' : s.stopped.svc = s.svc := (svc_of_besidesDevices hflush).trans hsvc
  have hlog' : s.stopped.log = s.log := (show s.stopCores.flushSlices.besidesDevices.log = s.stopCores.besidesDevices.log from congrArg State.log hflush).trans hlog
  have hout' : s.stopped.out = s.out := (show s.stopCores.flushSlices.besidesDevices.out = s.stopCores.besidesDevices.out from congrArg State.out hflush).trans hout
  rw [haltPack_eq]
  refine (discardOpen_out ?_ ?_ ?_ ?_).trans hout'
  · exact (congrArg (·.open_) hlog').trans hopen
  · exact (congrArg (·.waiting) hsvc').trans hwait
  · exact (congrArg (·.adm) hsvc').trans hadm
  · exact (congrArg (·.taking) hsvc').trans htaking

end Sys2Proof.Machine

end

section
/-! PROOFS. Power sequencing, the reset of the module, the timeline after it, and the restarts of the two processors. -/

namespace Sys2Proof.Machine
open State

/-! ## The timeline's beginning -/

section
variable (s : State)

theorem startTimeline_dict : s.startTimeline.dict = s.dict := (congrArg State.dict (startTimeline_besidesLinks s) :)

theorem startTimeline_pace : s.startTimeline.pace = { s.pace with running := true } := (congrArg State.pace (startTimeline_besidesLinks s) :)

theorem portIdle_state (p : Nat) : ((s.portIdle p).gport p).state = if s.portEnabled p then 1 else 0 :=
  congrArg GPort.state (setPort_gport_same _ _ _)

theorem portIdles_state {p : Nat} : ∀ (l : List Nat) (s : State),
    ((s.gport p).state = (if s.portEnabled p then 1 else 0) ∨ p ∈ l) →
    ((l.foldl (fun t q => t.portIdle q) s).gport p).state = if s.portEnabled p then 1 else 0 := by
  intro l
  induction l with
  | nil => exact fun s h => h.resolve_right List.not_mem_nil
  | cons q l ih =>
    intro s h
    refine (ih (s.portIdle q) ?_).trans rfl
    by_cases hq : q = p
    · subst hq
      exact .inl (portIdle_state s q)
    · refine h.imp (fun h => ?_) fun h => (List.mem_cons.mp h).resolve_left (Ne.symm hq)
      exact (congrArg GPort.state (setPort_gport_other _ _ _ hq)).trans h

theorem startTimeline_gport {p : Nat} (hp : p < 12) :
    (s.startTimeline.gport p).state = if s.startTimeline.portEnabled p then 1 else 0 := by
  have hdict : s.startTimeline.portEnabled p = s.timelineBegun.portEnabled p :=
    show s.startTimeline.besidesLinks.portEnabled p = s.timelineBegun.besidesLinks.portEnabled p by rw [startTimeline_besidesLinks]
  rw [hdict]
  exact portIdles_state (List.range 12) s.timelineBegun (.inr (List.mem_range.mpr hp))

/-- Domain D0 alone is on where the timeline begins with all off. -/
theorem startTimeline_domains (h : s.pwr.domains = List.replicate 44 0) :
    s.startTimeline.pwr.domains.getD 0 0 = 2 ∧ ∀ d, 1 ≤ d → s.startTimeline.pwr.domains.getD d 0 = 0 := by
  rw [startTimeline_pwr]
  dsimp only
  rw [h]
  have hget := getD_enumFrom0_map (List.replicate 44 0) (fun i => 0 ≤ i ∧ i ≤ 0) 2
  refine ⟨(hget 0).trans (if_pos ?_), fun d hd => (hget d).trans ((if_neg fun hboth => ?_).trans ?_)⟩
  · exact ⟨⟨le_refl 0, le_refl 0⟩, by rw [List.length_replicate]; decide⟩
  · omega
  · rw [List.getD_eq_getElem?_getD, List.getElem?_replicate]
    split <;> rfl

end

/-! ## Power comes and goes (O58) -/

/-- A cold start: what a reset leaves, the straps sampled, and the timeline. -/
def State.coldStart (s : State) (straps : Straps) : State :=
  ({ s.base with tap := State.reset.tap, pwr := { s.base.pwr with straps } } : State).startTimeline

/-- Ranger is held, and the pacers stand still. -/
def State.rangerHeld (s : State) : State := { s with rng := { s.rng with boot := .held }, pace := { s.pace with running := false } }

theorem coldStart_facts {s : State} {straps : Straps} {t : State} (ht : s.coldStart straps = t) :
    t.pwr.phase = .good ∧ t.pwr.goodAt = s.nowMs ∧ t.pwr.straps = straps ∧ t.pwr.domains.getD 0 0 = 2 ∧
      (∀ d, 1 ≤ d → t.pwr.domains.getD d 0 = 0) ∧ t.mem.bytes = [] ∧ t.mem.side = [] ∧ t.dict.stored = s.dict.stored ∧
      t.dict.val = s.dict.stored ∧ t.rng.sessions = [] ∧ t.pack.state = .none ∧ t.wimg.hash = 0 ∧ t.fw.flash = s.fw.flash ∧
      (∀ p < 12, (t.gport p).state = if t.portEnabled p then 1 else 0) ∧ t.rng.boot = .rom ∧ t.pace.running = true ∧
      t.pwr.modResetLow = s.pwr.modResetLow := by
  obtain ⟨b, hb⟩ : ∃ b : State, b = { s.base with tap := State.reset.tap, pwr := { s.base.pwr with straps } } := ⟨_, rfl⟩
  have htime : t = b.startTimeline := by
    rw [hb]
    exact ht.symm
  obtain ⟨hd0, hd⟩ := startTimeline_domains b (by rw [hb]; rfl)
  rw [htime]
  refine ⟨?_, ?_, ?_, hd0, hd, ?_, ?_, ?_, ?_, ?_, ?_, ?_, ?_, fun p hp => startTimeline_gport b hp, ?_, ?_, ?_⟩
  · rw [startTimeline_pwr]
  · rw [startTimeline_pwr, hb]
    rfl
  · rw [startTimeline_pwr, hb]
  · rw [startTimeline_mem, hb]
    rfl
  · rw [startTimeline_mem, hb]
    rfl
  · rw [startTimeline_dict, hb]
    rfl
  · rw [startTimeline_dict, hb]
    rfl
  · rw [startTimeline_rng, hb]
    rfl
  · rw [startTimeline_pack, hb]
    rfl
  · rw [startTimeline_wimg, hb]
    rfl
  · rw [startTimeline_fw, hb]
    rfl
  · rw [startTimeline_rng]
  · rw [startTimeline_pace]
  · rw [startTimeline_pwr, hb]
    rfl

theorem exec_pwrGoodRise_of_charging {s : State} {straps : Straps} (hphase : s.pwr.phase = .charging) (hsoon : s.nowMs ≤ s.pwr.chargeAt + 100) :
    exec (.pwrGoodRise straps) s =
      .next (if (s.coldStart straps).pwr.modResetLow then (s.coldStart straps).rangerHeld else s.coldStart straps) :=
  if_neg fun h => h.elim (fun h => h hphase) fun h => Nat.not_lt.mpr hsoon h

/-- A power-down of a module with no store in progress. -/
theorem powerDown_of_idle {s : State} (h : s.rng.store = none) : s.powerDown =
    { s.base with pwr := { s.base.pwr with phase := .down, downAt := s.nowMs, modResetLow := s.pwr.modResetLow } } := by
  unfold powerDown
  rw [landStore_of_none h]

theorem powerComesAndGoes : Claim.PowerComesAndGoes := by
  intro s straps charged
  refine ⟨fun hphase hin => ?_, fun hphase hin => ?_, fun hphase hen => ?_, fun hphase hen => ?_, fun hphase hdue => ?_,
    fun hphase hsoon => ?_, fun hphase hstore => ?_, fun hphase => ?_, fun hphase hdue hen => ?_,
    fun _ hearly => if_neg fun h => Nat.not_le.mpr hearly h.2⟩
  · exact congrArg Host.Outcome.next (if_pos ⟨hphase, rfl, hin⟩)
  · exact congrArg Host.Outcome.next (if_neg fun h => Bool.false_ne_true (hin.symm.trans h.2.2))
  · exact congrArg Host.Outcome.next (if_pos ⟨hphase, hen, rfl⟩)
  · exact congrArg Host.Outcome.next (if_neg fun h => Bool.false_ne_true (hen.symm.trans h.2.1))
  · have hcharged : charged = { s.pwr with chargeAt := s.nowMs } :=
      congrArg (fun phase => ({ s.pwr with phase, chargeAt := s.nowMs } : Power)) hphase.symm
    rw [hcharged]
    exact if_pos ⟨hphase, hdue⟩
  · have hexec := exec_pwrGoodRise_of_charging (straps := straps) hphase hsoon
    obtain ⟨u, hu⟩ : ∃ u, s.coldStart straps = u := ⟨_, rfl⟩
    obtain ⟨h1, h2, h3, h4, h5, h6, h7, h8, h9, h10, h11, h12, h13, h14, hrom, hpace, hlow⟩ := coldStart_facts hu
    rw [hu, hlow] at hexec
    rcases hreset : s.pwr.modResetLow with _ | _
    · rw [hreset, if_neg Bool.false_ne_true] at hexec
      exact ⟨u, hexec, h1, h2, h3, h4, h5, h6, h7, h8, h9, h10, h11, h12, h13, h14, fun _ => ⟨hrom, hpace⟩, fun h => absurd h Bool.false_ne_true⟩
    · rw [hreset, if_pos rfl] at hexec
      exact ⟨u.rangerHeld, hexec, h1, h2, h3, h4, h5, h6, h7, h8, h9, h10, h11, h12, h13, h14,
        fun h => absurd h.symm Bool.false_ne_true, fun _ => ⟨rfl, rfl⟩⟩
  · have hfall : exec .pwrEnFall s = .next ({ s with pwr := { s.pwr with pwrEn := false } } : State).powerDown := by
      change execPwrEnFall s = _
      unfold execPwrEnFall
      dsimp only
      rw [hphase]
    have htrip : s.inputTrip = ({ s with pwr := { s.pwr with inRange := false } } : State).powerDown := by
      unfold inputTrip
      dsimp only
      rw [hphase]
    rw [powerDown_of_idle (s := { s with pwr := { s.pwr with pwrEn := false } }) hstore] at hfall
    rw [powerDown_of_idle (s := { s with pwr := { s.pwr with inRange := false } }) hstore] at htrip
    refine ⟨_, _, _, hfall, congrArg Host.Outcome.next htrip, congrArg Host.Outcome.next htrip, rfl, rfl, rfl, fun t ht => ?_⟩
    rcases List.mem_pair.mp ht with rfl | rfl <;> exact ⟨rfl, rfl, rfl, rfl, rfl, rfl, rfl, rfl⟩
  · change execPwrEnFall s = _
    unfold execPwrEnFall
    dsimp only
    rw [hphase]
  · refine (if_pos ⟨hphase, hdue⟩).trans ?_
    exact congrArg Host.Outcome.next (if_neg fun h => Bool.false_ne_true (hen.symm.trans h.2.1))

/-! ## MOD_RESET_N -/

theorem moduleLost_of_idle {s : State} {straps : Straps} (h : s.rng.store = none) : s.moduleLost straps =
    { s.base with
      mem := s.mem.wipe 0x8000000000 0x40000000000, wimg := { s.wimg with manifest := [], data := [] },
      tap := { s.tap with traceEn := false, active := false, denied := false },
      pwr := { s.base.pwr with straps, thermTrip := s.pwr.thermTrip, tripReset := s.pwr.tripReset, warm := s.pwr.warm },
      cool := { State.reset.cool with hotspot := s.cool.hotspot } } := by
  unfold moduleLost
  rw [landStore_of_none h]

/-- The module as MOD_RESET_N holds it. -/
def State.resetHeld (s : State) : State :=
  { s with
    rng := { s.rng with boot := .held },
    pwr := { s.pwr with domains := 2 :: List.replicate 43 0, goodAt := s.nowMs, tripReset := true, thermTrip := s.pwr.thermTrip && s.pwr.warm } }

theorem moduleResetKeepsTheImage : Claim.ModuleResetKeepsTheImage := by
  intro s straps hphase hstore
  refine ⟨?_, fun hheld => ?_, fun hother => if_neg fun h => hother h.2⟩
  · obtain ⟨u, hu⟩ : ∃ u : State, u = { s with pwr := { s.pwr with modResetLow := true } } := ⟨_, rfl⟩
    have hexec : exec (.modResetNFall straps) s = .next (u.moduleLost straps).resetHeld := by
      rw [hu]
      exact if_neg (not_not_intro hphase)
    rw [moduleLost_of_idle (s := u) (by rw [hu]; exact hstore), hu] at hexec
    refine ⟨_, hexec, rfl, rfl, rfl, rfl, rfl, rfl, rfl, rfl, rfl, rfl, rfl, rfl, rfl, rfl, rfl, fun x hx => ?_, fun x hlo hhi => ?_, rfl, rfl, rfl, rfl⟩
    · exact (Memory.wipe_byte _ _ _ _).trans (if_neg fun h => Nat.not_lt.mpr h.1 hx)
    · exact (Memory.wipe_byte _ _ _ _).trans (if_pos ⟨hlo, hhi⟩)
  · obtain ⟨u, hu⟩ : ∃ u : State, u = { s with pwr := { s.pwr with modResetLow := false } } := ⟨_, rfl⟩
    have hexec : exec .modResetNRise s = .next u.startTimeline := by
      rw [hu]
      exact if_pos ⟨hphase, hheld⟩
    refine ⟨_, hexec, ?_, ?_, ?_, ?_, ?_⟩
    · rw [startTimeline_rng]
    · rw [startTimeline_pwr, hu]
    · rw [startTimeline_pwr, hu]
    · rw [startTimeline_pace]
    · rw [startTimeline_mem, hu]

/-- Settles O58: power is sequenced by its pins, and a module reset keeps the image, its hash and the flash. -/
theorem powerSequences : Obligations.PowerSequences := ⟨powerComesAndGoes, moduleResetKeepsTheImage⟩

/-! ## The timeline (O59) -/

theorem putRepairs_keeps {γ : Type} (p : State → γ) (hp : ∀ (t : State) c q, p (t.setArr c q) = p t) (s : State) (cs : List Nat) :
    p (s.putRepairs cs) = p s :=
  foldl_keeps p (fun c _ t => hp t c _) s

theorem setDomains_getD (s : State) (lo hi v d : Nat) : (s.setDomains lo hi v).pwr.domains.getD d 0 =
    if (lo ≤ d ∧ d ≤ hi) ∧ d < s.pwr.domains.length then v else s.pwr.domains.getD d 0 :=
  getD_enumFrom0_map s.pwr.domains (fun i => lo ≤ i ∧ i ≤ hi) v d

theorem setDomains_length (s : State) (lo hi v : Nat) : (s.setDomains lo hi v).pwr.domains.length = s.pwr.domains.length := by
  simp only [setDomains, enumFrom0, List.length_map, List.length_zip, List.length_range, Nat.min_self]

/-- A domain that is put off reads so, listed or not. -/
theorem setDomains_off {s : State} {lo hi d : Nat} (h : lo ≤ d ∧ d ≤ hi) : (s.setDomains lo hi 0).pwr.domains.getD d 0 = 0 := by
  rw [setDomains_getD]
  split
  · rfl
  · next hno => exact List.getD_eq_default _ _ (Nat.not_lt.mp fun hlt => hno ⟨h, hlt⟩)

theorem timelineGoesOn : Claim.TimelineGoesOn := by
  intro s d
  refine ⟨fun hrom hdue => ⟨fun hcheck => ?_, fun code hcheck => ?_⟩, fun hearly => if_pos (.inr hearly),
    fun hrun hlevel hdue => if_pos ⟨hrun, hlevel, hdue⟩, fun hmay => ?_, fun hearly => ?_, fun hlevel hdue htrained => ?_,
    fun hlevel hd1 hdue => if_pos ⟨hlevel, hd1, hdue⟩, fun hwhy => ?_⟩
  · have hgo : ¬(s.rng.boot ≠ .rom ∨ s.nowMs < s.pwr.goodAt + 40) := fun h => h.elim (fun h => h hrom) fun h => Nat.not_lt.mpr hdue h
    change execFirmwareBootCheck s = _
    unfold execFirmwareBootCheck
    rw [if_neg hgo]
    dsimp only
    rw [hcheck]
  · have hgo : ¬(s.rng.boot ≠ .rom ∨ s.nowMs < s.pwr.goodAt + 40) := fun h => h.elim (fun h => h hrom) fun h => Nat.not_lt.mpr hdue h
    change execFirmwareBootCheck s = _
    unfold execFirmwareBootCheck
    rw [if_neg hgo]
    dsimp only
    rw [hcheck]
  · obtain ⟨u, hu⟩ : ∃ u, s.setDomains d.val d.val 2 = u := ⟨_, rfl⟩
    have hexec : exec (.domainRamp d) s = .next (if 2 ≤ d.val ∧ d.val ≤ 33 then
        u.putRepairs ((List.range 2048).filter fun c => State.blockOf c = d.val - 2) else u) := by
      rw [← hu]
      exact if_pos hmay
    generalize (List.range 2048).filter (fun c => State.blockOf c = d.val - 2) = cs at hexec
    have hkeep : ∀ {γ : Type} (p : State → γ), (∀ (t : State) c q, p (t.setArr c q) = p t) →
        p (if 2 ≤ d.val ∧ d.val ≤ 33 then u.putRepairs cs else u) = p u := fun p hp => by
      split
      · exact putRepairs_keeps p hp u cs
      · rfl
    have hpwr := hkeep State.pwr fun _ _ _ => rfl
    refine ⟨_, hexec, fun hlen => ?_, fun x hx => ?_, ?_, ?_⟩
    · rw [hpwr, ← hu, setDomains_getD, if_pos ⟨⟨le_refl _, le_refl _⟩, by rw [hlen]; exact d.isLt⟩]
    · rw [hpwr, ← hu, setDomains_getD, if_neg fun h => hx (Nat.le_antisymm h.1.2 h.1.1)]
    · refine (hkeep State.mem fun _ _ _ => rfl).trans ?_
      rw [← hu]
      rfl
    · refine (hkeep (fun t => t.cores.seq) fun _ _ _ => rfl).trans ?_
      rw [← hu]
      rfl
  · refine if_neg fun hmay => ?_
    unfold mayRamp at hmay
    simp only [Bool.and_eq_true, decide_eq_true_eq] at hmay
    obtain ⟨⟨⟨⟨⟨⟨-, -, -, hdue⟩, -⟩, -⟩, -⟩, -⟩, -⟩ := hmay
    exact Nat.not_lt.mpr hdue hearly
  · refine if_pos ⟨hlevel, .inl (List.all_eq_true.mpr fun k hk => ?_), hdue⟩
    rw [Bool.or_eq_true]
    exact htrained k (List.mem_range.mp hk)
  · refine if_neg fun h => ?_
    obtain ⟨hlevel, -, hdue⟩ := h
    exact hwhy.elim (fun h => h hlevel) fun h => Nat.not_lt.mpr hdue h

/-! ## Restarts -/

/-- Ranger as its restart leaves it, with the restarts of the last ten minutes. -/
def State.restarted (s : State) (recent : List Nat) : State :=
  { s with
    rng := { s.rng with
      restarting := true, restarts := recent ++ [s.nowMs], restartCount := s.rng.restartCount + 1,
      sessions := [], cur := none, store := none, rxq := [], closeDue := false },
    dict := { s.dict with selfCal := none, diag := none },
    cool := if s.trayValve then s.cool else { s.cool with duty := 100000 } }

theorem exec_rangerRestart_of_running {s : State} {cause : RestartCause} {recent : List Nat}
    (hrecent : (s.rng.restarts.filter fun t => s.nowMs < t + 600000) = recent) (hrun : s.rng.boot = .running) (hup : s.rng.restarting = false) :
    exec (.rangerRestart cause) s = .next (if 3 ≤ recent.length then
      (((s.restarted recent).alert .rangerRestarts).moduleFatal .ranger).degrade else s.restarted recent) := by
  rw [← hrecent]
  exact if_neg fun h => h.elim (fun h => h hrun) fun h => Bool.false_ne_true (hup.symm.trans h)

/-! ## With no session open nothing is sent to a client -/

section
variable (s : State)

theorem sendFlit_besidesDevices (h : FHead) (ps : List Parcel) : (s.sendFlit h ps).besidesDevices = s.besidesDevices := by
  unfold sendFlit
  split
  · rfl
  · exact portFlit_besidesDevices ..

theorem sendServicePieces_besidesDevices (dmod kind : Nat) (reqId : W64) (origin : Nat) (svc : Byte) (seq : W64) (status : W16) (total off : Nat)
    (data : List Byte) : (s.sendServicePieces dmod kind reqId origin svc seq status total off data).besidesDevices = s.besidesDevices := by
  unfold sendServicePieces
  exact foldl_keeps besidesDevices (fun _ _ t => sendFlit_besidesDevices t ..) s

theorem sendServiceFlits_besidesDevices (dmod kind : Nat) (reqId : W64) (origin : Nat) (svc : Byte) (seq : W64) (status : W16)
    (data record : List Byte) : (s.sendServiceFlits dmod kind reqId origin svc seq status data record).besidesDevices = s.besidesDevices := by
  unfold sendServiceFlits
  dsimp only
  split
  · exact sendServicePieces_besidesDevices ..
  · exact (sendServicePieces_besidesDevices ..).trans (sendServicePieces_besidesDevices ..)

end

theorem rng_of_besidesDevices {s t : State} (h : t.besidesDevices = s.besidesDevices) : t.rng = s.rng :=
  show t.besidesDevices.rng = s.besidesDevices.rng from congrArg State.rng h

section
variable {s : State} (hclosed : s.rng.sessions = [])
include hclosed

theorem sendService_of_closed (sid : W32) (peer : Peer) (typ : Byte) (body : List Byte) : s.sendService sid peer typ body = s := by
  have hnone : s.sessionOf sid = none := by
    unfold sessionOf
    rw [hclosed]
    rfl
  unfold sendService
  rw [hnone]

theorem replyTo_of_closed (r : Req) (status : W16) (seq : W64) (retry : Nat) : (s.replyTo r status seq retry).rng = s.rng := by
  unfold replyTo
  split
  · rw [sendService_of_closed hclosed]
  · exact rng_of_besidesDevices (sendServiceFlits_besidesDevices ..)

theorem resultTo_of_closed (r : Req) (seq : W64) (status : W16) (data record : List Byte) : (s.resultTo r seq status data record).rng = s.rng := by
  unfold resultTo
  split
  · refine List.foldlRecOn _ _ (motive := fun t : State => t.rng = s.rng) rfl fun t ht i _ => ?_
    rw [sendService_of_closed (by rw [ht]; exact hclosed)]
    exact ht
  · exact rng_of_besidesDevices (sendServiceFlits_besidesDevices ..)

/-- A run of answers leaves Ranger as it is. -/
theorem foldl_rng_of_closed {α : Type} {f : State → α → State} (hf : ∀ t x, t.rng.sessions = [] → (f t x).rng = t.rng) (l : List α) :
    (l.foldl f s).rng = s.rng :=
  List.foldlRecOn l f (motive := fun t : State => t.rng = s.rng) rfl fun t ht x _ => (hf t x (by rw [ht]; exact hclosed)).trans ht

theorem discardOpen_of_closed : s.discardOpen.rng = s.rng := by
  have hopen : (s.log.open_.foldl (fun (s : State) p =>
      match p.2 with
      | some o => s.resultTo o.req o.seq 0x0602 [] []
      | none => s) s).rng = s.rng := by
    refine foldl_rng_of_closed hclosed (fun t x ht => ?_) _
    split
    · exact resultTo_of_closed ht ..
    · rfl
  unfold discardOpen
  generalize s.log.open_.foldl _ s = a at hopen ⊢
  have ha : a.rng.sessions = [] := by
    rw [hopen]
    exact hclosed
  have hwait := foldl_rng_of_closed ha (f := fun (t : State) r => t.replyTo r 0x0303 0 0) (fun t r ht => replyTo_of_closed ht ..) a.svc.waiting
  dsimp only
  generalize a.svc.waiting.foldl _ a = b at hwait ⊢
  have hb : b.rng.sessions = [] := by
    rw [hwait]
    exact ha
  have hadm := foldl_rng_of_closed hb (f := fun (t : State) (a : Adm) => t.replyTo a.req 0x0303 0 0) (fun t r ht => replyTo_of_closed ht ..) b.svc.adm
  generalize b.svc.adm.foldl _ b = c at hadm ⊢
  have hc : c.rng.sessions = [] := by
    rw [hadm]
    exact hb
  have htaking := foldl_rng_of_closed hc (f := fun (t : State) (x : Taking) => t.resultTo x.kept.req x.kept.seq 0x0602 [] [])
    (fun t r ht => resultTo_of_closed ht ..) c.svc.taking
  exact htaking.trans (hadm.trans (hwait.trans hopen))

end

theorem reask_rng (s : State) : s.reask.rng = s.rng := by
  unfold reask
  split <;> rfl

theorem reask_log (s : State) : s.reask.log = s.log := by
  unfold reask
  split <;> rfl

theorem fabricLost_rng (s : State) : s.fabricLost.rng = s.rng := reask_rng _

theorem fabricLost_log (s : State) : s.fabricLost.log = s.log := reask_log _

theorem alert_log (s : State) (a : AlertSrc) : (s.alert a).log = s.log :=
  show (s.alert a).besidesAlerts.log = s.besidesAlerts.log by rw [alert_besidesAlerts]

theorem alert_sessions (s : State) (a : AlertSrc) : (s.alert a).rng.sessions = s.rng.sessions :=
  show (s.alert a).besidesAlerts.rng.sessions = s.besidesAlerts.rng.sessions by rw [alert_besidesAlerts]

theorem degrade_sessions (s : State) : s.degrade.rng.sessions = s.rng.sessions := alert_sessions (s.setDomains 2 41 0) .degraded

theorem degrade_log (s : State) : s.degrade.log = s.log := alert_log (s.setDomains 2 41 0) .degraded

theorem degrade_domains (s : State) {d : Nat} (hlo : 2 ≤ d) (hhi : d ≤ 41) : s.degrade.pwr.domains.getD d 0 = 0 := by
  have hpwr : s.degrade.pwr = (s.setDomains 2 41 0).pwr :=
    show ((s.setDomains 2 41 0).alert .degraded).besidesAlerts.pwr = (s.setDomains 2 41 0).besidesAlerts.pwr by rw [alert_besidesAlerts]
  rw [hpwr]
  exact setDomains_off ⟨hlo, hhi⟩

/-- With no session open a module-fatal error leaves none open, keeps every alert, and no result stays open. -/
theorem moduleFatal_of_closed {s : State} (hclosed : s.rng.sessions = []) (cause : Fatal) :
    (s.moduleFatal cause).rng.sessions = [] ∧ (∀ a ∈ s.rng.alerts, a ∈ (s.moduleFatal cause).rng.alerts) ∧
      (s.moduleFatal cause).log.open_ = [] := by
  have hrng : s.discardOpen.fabricLost.rng = s.rng := (fabricLost_rng _).trans (discardOpen_of_closed hclosed)
  have hopen : s.discardOpen.fabricLost.log.open_ = [] := by
    rw [fabricLost_log, discardOpen_eq]
    rfl
  have hsessions : (s.discardOpen.fabricLost.alert .moduleFatal).rng.sessions = [] := by
    rw [alert_sessions, hrng]
    exact hclosed
  have halerts : ∀ a ∈ s.rng.alerts, a ∈ (s.discardOpen.fabricLost.alert .moduleFatal).rng.alerts := fun a ha =>
    mem_alert_of_mem (by rw [hrng]; exact ha)
  have hopen' : (s.discardOpen.fabricLost.alert .moduleFatal).log.open_ = [] := by
    rw [alert_log]
    exact hopen
  unfold moduleFatal
  dsimp only
  generalize s.discardOpen.fabricLost.alert .moduleFatal = t at hsessions halerts hopen' ⊢
  split
  · refine ⟨(degrade_sessions _).trans hsessions, fun a ha => mem_degrade_alerts_of_mem (halerts a ha), ?_⟩
    rw [degrade_log]
    exact hopen'
  · exact ⟨hsessions, halerts, hopen'⟩

/-! ## The heartbeats of Basecamp -/

theorem exec_basecampHeartbeatMiss_of_running {s : State} (hrun : s.rng.boot = .running) (hup : s.rng.restarting = false)
    (hd1 : s.pwr.domains.getD 1 0 = 2) {t : State} (ht : (if s.loseOpen.isRunning then (s.loseOpen.alert .packFatal).haltPack else s.loseOpen) = t) :
    exec .basecampHeartbeatMiss s = .next { t with rng := { t.rng with baseReady := false, baseRestarts := t.rng.baseRestarts + 1 } } := by
  rw [← ht]
  refine if_neg fun h => ?_
  rcases h with h | h | h
  · exact h hrun
  · exact Bool.false_ne_true (hup.symm.trans h)
  · exact h hd1

theorem haltPack_baseRestarts (s : State) : s.haltPack.rng.baseRestarts = s.rng.baseRestarts := by
  have hframe := haltPack_besidesHalt s
  generalize s.haltPack = t at hframe ⊢
  exact (congrArg (fun u : State => u.rng.baseRestarts) hframe :)

theorem restartsOfTheProcessors : Claim.RestartsOfTheProcessors := by
  intro s cause recent
  refine ⟨fun hrun hup => ⟨fun hfew => ?_, fun hmany => ?_⟩, rfl, fun hrun hup hd1 => ?_⟩
  · have hexec := exec_rangerRestart_of_running (cause := cause) (recent := recent) rfl hrun hup
    rw [if_neg (Nat.not_le.mpr hfew)] at hexec
    refine ⟨_, hexec, rfl, rfl, rfl, rfl, rfl, rfl, rfl, rfl, rfl, rfl, fun howner => ?_⟩
    have htray : ¬s.trayValve = true := fun h => howner (of_decide_eq_true h)
    exact congrArg Cool.duty (if_neg htray)
  · have hexec := exec_rangerRestart_of_running (cause := cause) (recent := recent) rfl hrun hup
    rw [if_pos hmany] at hexec
    have hclosed : ((s.restarted recent).alert .rangerRestarts).rng.sessions = [] := alert_sessions ..
    obtain ⟨hsessions, halerts, hopen⟩ := moduleFatal_of_closed hclosed .ranger
    exact ⟨_, hexec, degrade_degraded _, (degrade_sessions _).trans hsessions, mem_degrade_alerts_of_mem (halerts _ (mem_alert_self ..)),
      (congrArg (·.open_) (degrade_log _)).trans hopen, fun d hlo hhi => degrade_domains _ hlo hhi⟩
  · by_cases hpack : s.pack.state = .running
    · have hexec := exec_basecampHeartbeatMiss_of_running hrun hup hd1 (if_pos (decide_eq_true hpack : s.loseOpen.isRunning = true))
      obtain ⟨u, hu⟩ : ∃ u, s.loseOpen.alert .packFatal = u := ⟨_, rfl⟩
      rw [hu] at hexec
      have hframe : u.besidesAlerts = s.loseOpen.besidesAlerts := by rw [← hu, alert_besidesAlerts]
      have hlog : u.log = s.loseOpen.log := show u.besidesAlerts.log = s.loseOpen.besidesAlerts.log by rw [hframe]
      have hsvc : u.svc = s.loseOpen.svc := show u.besidesAlerts.svc = s.loseOpen.besidesAlerts.svc by rw [hframe]
      have hout : u.out = s.out := show u.besidesAlerts.out = s.loseOpen.besidesAlerts.out by rw [hframe]
      have hrestarts : u.rng.baseRestarts = s.rng.baseRestarts :=
        show u.besidesAlerts.rng.baseRestarts = s.loseOpen.besidesAlerts.rng.baseRestarts by rw [hframe]
      have hopen := (haltPack_open u).1
      have hbase := (haltPack_baseRestarts u).trans hrestarts
      have hsent := (haltPack_out (s := u) (by rw [hlog]; rfl) (by rw [hsvc]; rfl) (by rw [hsvc]; rfl) (by rw [hsvc]; rfl)).trans hout
      have hhalted := congrArg (·.state) (haltPack_pack u)
      generalize u.haltPack = v at hexec hopen hbase hsent hhalted
      exact ⟨_, hexec, rfl, congrArg (· + 1) hbase, hopen, hsent, fun _ => hhalted, fun hno => absurd hpack hno⟩
    · have hno : ¬s.loseOpen.isRunning = true := fun h => hpack (of_decide_eq_true h)
      exact ⟨_, exec_basecampHeartbeatMiss_of_running hrun hup hd1 (if_neg hno), rfl, rfl, rfl, rfl, fun h => absurd h hpack, fun _ => ⟨rfl, rfl, rfl⟩⟩

/-- Settles O59: the timeline goes on by its times, and a restart of either processor loses what is its own. -/
theorem timelineAndRestarts : Obligations.TimelineAndRestarts := ⟨timelineGoesOn, restartsOfTheProcessors⟩

end Sys2Proof.Machine

end

section
/-! PROOFS. The fabric reset, calibration, and the array diagnostic. -/

namespace Sys2Proof.Machine
open State

/-! ## Commands in a session with no bundle begun -/

section
variable {s : State} {o : OpReq} {h : Holdup} {index : W16}

theorem single_of_plainCommand {w : Nat} {typ : Byte} (hserves : s.serves o w) (hsub : o.sub = 0) (hindex : index < 0xF000)
    (hplain : index ≠ 0xB002 ∧ index ≠ 0xB003) (hentry : s.entry (index.toNat * 256) = some (wrE typ (some o.data.length) .cmd w))
    (htyp : o.typ = 0 ∨ o.typ = typ) :
    s.single (commandOf index o) h = .next (afterOp (commandOf index o) ((s.touch o).commandOp (commandOf index o) h)) := by
  have hkey := commandOf_key (index := index) hsub
  have hother : ∀ i : W16, index ≠ i → (commandOf index o).key ≠ i.toNat * 256 := fun i hne he => by
    rw [hkey] at he
    exact hne (BitVec.eq_of_toNat_eq (Nat.eq_of_mul_eq_mul_right (by decide) he))
  refine single_of_command (x := commandOf index o) (e := wrE typ (some o.data.length) .cmd w) hserves rfl hindex
    (by rw [hkey]; exact hentry) rfl (le_refl w) htyp rfl
    (checkBundle_of_no_bundle (x := commandOf index o) hserves ?_ ?_)
  · exact hother 0xB002 hplain.1
  · exact hother 0xB003 hplain.2

theorem entry_of_fabricReset (s : State) : s.entry 0x300100 = some (wrE 0 (some 0) .cmd 2) := by
  unfold entry entryAt
  rw [if_neg (by decide), if_pos (by decide)]
  rfl

theorem entry_of_calibration {s : State} {key : Nat} (h : key = 0xA01000 ∨ key = 0xA01100) : s.entry key = some (wrE 0x02 (some 1) .cmd 2) := by
  unfold entry entryAt
  rw [if_neg (by omega), if_neg (by omega), if_neg (by omega), if_neg (by omega)]
  unfold entryAB
  rcases h with rfl | rfl <;> rfl

theorem entry_of_arrayDiag (s : State) : s.entry 0x909000 = some (wrE 0x03 (some 2) .cmd 1) := by
  unfold entry entryAt
  rw [if_neg (by decide), if_neg (by decide), if_neg (by decide), if_pos (by decide)]
  rfl

theorem afterOp_ok {x : Op} {t : State} (hdue : t.rng.closeDue = false) : afterOp x { s := t } = t.answered x.o 0 [] :=
  afterOp_of_status x t 0 hdue

theorem touch_isRunning : (s.touch o).isRunning = s.isRunning := by
  rw [touch_eq]
  rfl

end

/-! ## The fabric reset begins -/

theorem reask_besidesWhistle (s : State) : s.reask.besidesWhistle = s.besidesWhistle := by
  unfold reask
  split <;> rfl

/-- What the fabric loses, and what it keeps. -/
theorem fabricLost_facts {s t : State} (h : s.fabricLost = t) :
    t.cores.eng = [] ∧ t.slices = [] ∧ t.ctrs = [] ∧ t.cairn = [] ∧ t.pwr = s.pwr ∧ t.pack = s.pack ∧ t.dict = s.dict ∧ t.wimg = s.wimg ∧
      t.rng = s.rng := by
  obtain ⟨u, hu, hcores, hslices, hctrs, hcairn, hpwr, hpack, hdict, hwimg, hrng⟩ : ∃ u : State, s.fabricLost = u.reask ∧
      u.cores.eng = [] ∧ u.slices = [] ∧ u.ctrs = [] ∧ u.cairn = [] ∧ u.pwr = s.pwr ∧ u.pack = s.pack ∧ u.dict = s.dict ∧ u.wimg = s.wimg ∧
      u.rng = s.rng := ⟨_, rfl, rfl, rfl, rfl, rfl, rfl, rfl, rfl, rfl, rfl⟩
  have hframe : t.besidesWhistle = u.besidesWhistle := by rw [← h, hu, reask_besidesWhistle]
  exact ⟨(congrArg (·.cores.eng) hframe).trans hcores, (congrArg State.slices hframe).trans hslices, (congrArg State.ctrs hframe).trans hctrs,
    (congrArg State.cairn hframe).trans hcairn, (congrArg State.pwr hframe).trans hpwr, (congrArg State.pack hframe).trans hpack,
    (congrArg State.dict hframe).trans hdict, (congrArg State.wimg hframe).trans hwimg, (congrArg State.rng hframe).trans hrng⟩

/-- The fabric's lines written back, with a pack halted where one runs. -/
def State.settled (s : State) : State := if s.isRunning then s.haltPack else s.flushSlices

theorem settled_besidesHalt (s : State) : s.settled.pwr = s.pwr ∧ s.settled.dict = s.dict ∧ s.settled.wimg = s.wimg ∧
    s.settled.rng.closeDue = s.rng.closeDue := by
  unfold settled
  split
  · have hframe := haltPack_besidesHalt s
    generalize s.haltPack = t at hframe ⊢
    exact ⟨(congrArg State.pwr hframe :), (congrArg State.dict hframe :), (congrArg State.wimg hframe :), (congrArg (·.rng.closeDue) hframe :)⟩
  · have hframe := flushSlices_besidesService s
    generalize s.flushSlices = t at hframe ⊢
    exact ⟨(congrArg State.pwr hframe :), (congrArg State.dict hframe :), (congrArg State.wimg hframe :), (congrArg (·.rng.closeDue) hframe :)⟩

theorem settled_of_running {s : State} (h : s.isRunning = true) : s.settled.pack.state = .halted := by
  unfold settled
  rw [if_pos h]
  exact congrArg (·.state) (haltPack_pack s)

theorem settled_of_stopped {s : State} (h : s.isRunning = false) : s.settled.pack = s.pack := by
  unfold settled
  rw [if_neg (by rw [h]; exact Bool.false_ne_true)]
  exact (congrArg State.pack (flushSlices_besidesService s) :)

/-- The fabric's domains as its reset leaves them. -/
theorem fabricDomains_of_complete {s : State} (hlen : s.pwr.domains.length = 44) :
    (∀ d, 2 ≤ d → d ≤ 37 → ((s.setDomains 2 37 0).setDomains 38 41 1).pwr.domains.getD d 0 = 0) ∧
      ∀ d, 38 ≤ d → d ≤ 41 → ((s.setDomains 2 37 0).setDomains 38 41 1).pwr.domains.getD d 0 = 1 := by
  refine ⟨fun d hlo hhi => ?_, fun d hlo hhi => ?_⟩
  · rw [setDomains_getD, if_neg (by omega)]
    exact setDomains_off ⟨hlo, hhi⟩
  · rw [setDomains_getD, setDomains_length, if_pos ⟨⟨hlo, hhi⟩, by omega⟩]

theorem beginFabricReset_facts {s t : State} (h : s.beginFabricReset = t) (hlen : s.pwr.domains.length = 44) :
    t.rng.fabReset = true ∧ (∀ d, 2 ≤ d → d ≤ 37 → t.pwr.domains.getD d 0 = 0) ∧ (∀ d, 38 ≤ d → d ≤ 41 → t.pwr.domains.getD d 0 = 1) ∧
      (s.isRunning = true → t.pack.state = .halted) ∧ (s.isRunning = false → t.pack = s.pack) ∧ t.cores.eng = [] ∧ t.slices = [] ∧
      t.ctrs = [] ∧ t.cairn = [] ∧ t.dict.stored = s.dict.stored ∧ t.wimg = s.wimg ∧ t.rng.closeDue = s.rng.closeDue := by
  obtain ⟨u, hu⟩ : ∃ u, s.settled.fabricLost = u := ⟨_, rfl⟩
  have ht : t = { (u.setDomains 2 37 0).setDomains 38 41 1 with
      rng := { u.rng with fabReset := true, packFatalAt := none },
      gl := { u.gl with placed := false, sentReady := false, tStart := none }, dict := { u.dict with diag := none } } := by
    rw [← h, ← hu]
    rfl
  obtain ⟨hcores, hslices, hctrs, hcairn, hpwr, hpack, hdict, hwimg, hrng⟩ := fabricLost_facts hu
  obtain ⟨hpwr', hdict', hwimg', hdue⟩ := settled_besidesHalt s
  obtain ⟨hoff, hkept⟩ := fabricDomains_of_complete (s := u) (by rw [hpwr, hpwr', hlen])
  rw [ht]
  refine ⟨rfl, hoff, hkept, fun hrun => ?_, fun hstop => ?_, hcores, hslices, hctrs, hcairn, ?_, hwimg.trans hwimg', ?_⟩
  · exact (congrArg (·.state) hpack).trans (settled_of_running hrun)
  · exact hpack.trans (settled_of_stopped hstop)
  · exact congrArg (·.stored) (hdict.trans hdict')
  · exact (congrArg (·.closeDue) hrng).trans hdue

/-! ## The fabric reset ends -/

theorem isolateCore_keeps {γ : Type} (p : State → γ) (hseq : ∀ (t : State) c q, p (t.setSeq c q) = p t)
    (hstored : ∀ (t : State) k v, p (t.putStored k v) = p t) (s : State) (c : Nat) : p (s.isolateCore c) = p s := by
  unfold isolateCore
  dsimp only
  split
  · exact hseq ..
  · exact (hstored ..).trans (hseq ..)

theorem applyRepairs_keeps {γ : Type} (p : State → γ) (hseq : ∀ (t : State) c q, p (t.setSeq c q) = p t)
    (hstored : ∀ (t : State) k v, p (t.putStored k v) = p t) (hval : ∀ (t : State) k v, p (t.putVal k v) = p t)
    (harr : ∀ (t : State) c q, p (t.setArr c q) = p t) (s : State) : p s.applyRepairs = p s := by
  unfold applyRepairs
  refine (putRepairs_keeps p harr ..).trans ((hval ..).trans ((hval ..).trans ?_))
  exact foldl_keeps p (fun c _ t => isolateCore_keeps p hseq hstored t c) s

theorem recheckPack_keeps {γ : Type} (p : State → γ) (hpack : ∀ (t : State) k, p { t with pack := k } = p t) (s : State) :
    p s.recheckPack = p s := by
  unfold recheckPack
  split
  · split
    · exact hpack ..
    · exact hpack ..
  · rfl

theorem exec_fabricResetComplete_of_resetting {s u : State} {seedsOk defaultOk : Bool} (h : s.resetting = true)
    (hu : ({ s with rng := { s.rng with fabReset := false } } : State).retrain seedsOk defaultOk = u) :
    exec (.fabricResetComplete seedsOk defaultOk) s =
      if u.rng.degraded then .next u else .next (((u.setDomains 2 41 2).applyRepairs).recheckPack) := by
  rw [← hu]
  refine if_neg ?_
  rw [h]
  exact Bool.false_ne_true

theorem retrain_of_sound {s : State} (h : s.channelFailed = false) (seedsOk defaultOk : Bool) : s.retrain seedsOk defaultOk = s :=
  if_pos (by rw [h]; rfl)

theorem retrain_of_failed {s : State} (h : s.channelFailed = true) : s.retrain false false = s.degrade :=
  (if_neg (by rw [h]; exact Bool.false_ne_true)).trans (if_neg Bool.false_ne_true)

theorem degrade_byte (s : State) {x : Nat} (h : x < 0x8000000000) : s.degrade.mem.byte x = 0 :=
  (Memory.wipe_byte _ _ _ _).trans (if_pos ⟨Nat.zero_le x, h⟩)

theorem fabricResets : Claim.FabricResets := by
  intro s o seeds deflt u
  refine ⟨fun hserves hsub htyp hdata => ?_, fun hno => if_pos (by rw [hno]; rfl), fun hreset hsound hwhole hlen => ?_, fun hreset hfailed => ?_⟩
  · have hdue : u.rng.closeDue = false := (touch_closeDue o).trans hserves.2.2.2.2.1
    have hdegraded : u.rng.degraded = s.rng.degraded ∧ u.resetting = s.resetting ∧ u.pwr = s.pwr ∧ u.isRunning = s.isRunning ∧
        u.pack = s.pack ∧ u.dict = s.dict ∧ u.wimg = s.wimg := by
      rw [show u = s.touch o from rfl, touch_eq]
      exact ⟨rfl, rfl, rfl, rfl, rfl, rfl, rfl⟩
    have hexec : exec (.fabricReset o) s = .next (afterOp (commandOf 0x3001 o) u.fabricResetCommand) := by
      refine (single_of_plainCommand (h := noHoldup) (index := 0x3001) (typ := 0) hserves hsub (by decide) (by decide) ?_ (.inl htyp)).trans ?_
      · rw [hdata]
        exact entry_of_fabricReset s
      · have hkey : (commandOf 0x3001 o).key = 0x300100 := commandOf_key hsub
        unfold commandOp
        rw [hkey]
        rfl
    clear_value u
    obtain ⟨hdeg, hres, hpwr, hrun, hpack, hdict, hwimg⟩ := hdegraded
    have hcommand : ∀ {a : Ans}, u.fabricResetCommand = a → exec (.fabricReset o) s = .next (afterOp (commandOf 0x3001 o) a) := fun ha => by
      rw [hexec, ha]
    refine ⟨fun hd => ?_, fun hd hwhy => ?_, fun hd hr ht hlen => ?_⟩
    · exact (hcommand (if_pos (hdeg.trans hd))).trans (congrArg Host.Outcome.next (afterOp_of_status _ _ _ hdue))
    · have hbusy : (u.resetting || u.pwr.thermTrip) = true := by
        rw [hres, hpwr, Bool.or_eq_true]
        exact hwhy
      exact (hcommand ((if_neg (by rw [hdeg, hd]; exact Bool.false_ne_true)).trans (if_pos hbusy))).trans
        (congrArg Host.Outcome.next (afterOp_of_status _ _ _ hdue))
    · have hidle : ¬(u.resetting || u.pwr.thermTrip) = true := by
        rw [hres, hpwr, hr, ht]
        exact Bool.false_ne_true
      have hbegin := hcommand ((if_neg (by rw [hdeg, hd]; exact Bool.false_ne_true)).trans (if_neg hidle))
      obtain ⟨v, hv⟩ : ∃ v, u.beginFabricReset = v := ⟨_, rfl⟩
      obtain ⟨h1, h2, h3, h4, h5, h6, h7, h8, h9, h10, h11, h12⟩ := beginFabricReset_facts hv (by rw [hpwr, hlen])
      rw [hv, afterOp_ok (h12.trans hdue)] at hbegin
      exact ⟨_, hbegin, h1, h2, h3, fun h => h4 (hrun.trans h), fun h => (h5 (hrun.trans h)).trans hpack, h6, h7, h8, h9,
        h10.trans (congrArg (·.stored) hdict), h11.trans hwimg⟩
  · have hexec := exec_fabricResetComplete_of_resetting (seedsOk := seeds) (defaultOk := deflt) hreset (retrain_of_sound (s := { s with rng := { s.rng with fabReset := false } }) hsound ..)
    rw [if_neg (by rw [hwhole]; exact Bool.false_ne_true)] at hexec
    have hkeep : ∀ {γ : Type} (p : State → γ) (v : State), (∀ (t : State) c q, p (t.setSeq c q) = p t) → (∀ (t : State) k x, p (t.putStored k x) = p t) →
        (∀ (t : State) k x, p (t.putVal k x) = p t) → (∀ (t : State) c q, p (t.setArr c q) = p t) → (∀ (t : State) k, p { t with pack := k } = p t) →
        p v.applyRepairs.recheckPack = p v := fun p v h1 h2 h3 h4 h5 =>
      (recheckPack_keeps p h5 _).trans (applyRepairs_keeps p h1 h2 h3 h4 v)
    refine ⟨_, hexec, ?_, ?_, fun d hlo hhi => ?_⟩
    · exact congrArg (·.fabReset) (hkeep State.rng _ (fun _ _ _ => rfl) (fun _ _ _ => rfl) (fun _ _ _ => rfl) (fun _ _ _ => rfl) fun _ _ => rfl)
    · exact hkeep State.mem _ (fun _ _ _ => rfl) (fun _ _ _ => rfl) (fun _ _ _ => rfl) (fun _ _ _ => rfl) fun _ _ => rfl
    · refine (congrArg (fun p : Power => p.domains.getD d 0) (hkeep State.pwr _ (fun _ _ _ => rfl) (fun _ _ _ => rfl) (fun _ _ _ => rfl)
        (fun _ _ _ => rfl) fun _ _ => rfl)).trans ?_
      rw [setDomains_getD]
      exact if_pos ⟨⟨hlo, hhi⟩, by rw [hlen]; omega⟩
  · have hexec := exec_fabricResetComplete_of_resetting hreset (retrain_of_failed (s := { s with rng := { s.rng with fabReset := false } }) hfailed)
    rw [if_pos (degrade_degraded _)] at hexec
    exact ⟨_, hexec, degrade_degraded _, rfl, fun d hlo hhi => degrade_domains _ hlo hhi, rfl, fun x hx => degrade_byte _ hx⟩

/-! ## Calibration and the array diagnostic -/

/-- The staged calibration as a self-calibration leaves it. -/
theorem selfCalValues_staged (s : State) (arg : Byte) (h : Holdup) :
    ∃ st : List (Nat × List Byte), (s.selfCalValues arg h).dict =
      { s.dict with
        staged := if arg.getLsbD 2 then Sparse.set [] st 0xA00300 (leBytes 4 (200000000 / h.dvUv)) else st, selfCal := none } :=
  ⟨_, rfl⟩

theorem selfCalValues_of_nothing (s : State) (h : Holdup) : (s.selfCalValues 0 h).dict.staged = s.dict.staged := rfl

theorem stageTraining_of_nothing (s : State) : (s.stageTraining 0).dict.staged = s.dict.staged := rfl

theorem calStoreCommand_of_stored {s : State} {arg : Byte} {h : Holdup} (hstop : s.isRunning = false) (harg : arg ≤ 3)
    (hold : holdCode h needCal = none) : s.calStoreCommand arg h = { s := ((s.holdCheck h needCal).1).stageTraining arg, job := some .cal } := by
  have hlow : ¬3 < arg := BitVec.not_lt.mpr harg
  unfold calStoreCommand
  rw [hstop, if_neg Bool.false_ne_true, if_neg hlow, storing_of_holdCode_none _ hold]
  rfl

theorem diagBytes_nil (c : Nat) : diagBytes c [] = leBytes 2 c ++ [0, 0xFF, 0xFF, 0xFF, 0xFF] ++ List.replicate 9 0 := by
  show leBytes 2 c ++ leBytes 1 0 ++ [0xFF, 0xFF] ++ [0xFF, 0xFF] ++ List.replicate 9 0 = _
  simp only [List.append_assoc]
  rfl

theorem not_overfull {fails : List (Nat × Nat)} (h : ∀ x ∈ fails, x.1 ≤ 64 ∧ x.2 ≤ 64) :
    ¬(fails.any fun x => decide (64 < x.1 ∨ 64 < x.2)) = true := by
  rw [List.any_eq_true]
  rintro ⟨x, hx, hfar⟩
  have := h x hx
  have := of_decide_eq_true hfar
  omega

theorem calibrationAndDiagnostics : Claim.CalibrationAndDiagnostics := by
  intro s o h arg c fails u hsub
  have hsame : u.isRunning = s.isRunning ∧ u.dict = s.dict ∧ u.out = s.out := by
    rw [show u = s.touch o from rfl, touch_eq]
    exact ⟨rfl, rfl, rfl⟩
  have hdue : u.rng.closeDue = s.rng.closeDue := touch_closeDue o
  have hcal : ∀ {index : W16}, index = 0xA010 ∨ index = 0xA011 → s.serves o 2 → (o.typ = 0 ∨ o.typ = 0x02) → o.data = [arg] →
      ∀ h : Holdup, s.single (commandOf index o) h = .next (afterOp (commandOf index o) (u.commandOp (commandOf index o) h)) := by
    intro index hindex hserves htyp hdata h
    refine single_of_plainCommand (typ := 0x02) hserves hsub ?_ ?_ ?_ htyp
    · rcases hindex with rfl | rfl <;> decide
    · rcases hindex with rfl | rfl <;> decide
    · rw [hdata]
      rcases hindex with rfl | rfl
      · exact entry_of_calibration (.inl rfl)
      · exact entry_of_calibration (.inr rfl)
  have hstoreExec : s.serves o 2 → (o.typ = 0 ∨ o.typ = 0x02) → o.data = [arg] →
      exec (.calStore o h) s = .next (afterOp (commandOf 0xA010 o) (u.calStoreCommand arg h)) := fun hserves htyp hdata => by
    refine (hcal (.inl rfl) hserves htyp hdata h).trans ?_
    have hkey : (commandOf 0xA010 o).key = 0xA01000 := commandOf_key hsub
    unfold commandOp
    rw [hkey, show (commandOf 0xA010 o).o.data = [arg] from hdata]
    rfl
  have hselfExec : s.serves o 2 → (o.typ = 0 ∨ o.typ = 0x02) → o.data = [arg] →
      exec (.selfCal o) s = .next (afterOp (commandOf 0xA011 o) (u.selfCalCommand arg)) := fun hserves htyp hdata => by
    refine (hcal (.inr rfl) hserves htyp hdata noHoldup).trans ?_
    have hkey : (commandOf 0xA011 o).key = 0xA01100 := commandOf_key hsub
    unfold commandOp
    rw [hkey, show (commandOf 0xA011 o).o.data = [arg] from hdata]
    rfl
  have hdiagExec : s.serves o 1 → (o.typ = 0 ∨ o.typ = 0x03) → o.data.length = 2 →
      exec (.arrayDiag o) s = .next (afterOp (commandOf 0x9090 o) (u.diagCommand (leNat o.data))) := fun hserves htyp hlen => by
    refine (single_of_plainCommand (h := noHoldup) (index := 0x9090) (typ := 0x03) hserves hsub (by decide) (by decide) ?_ htyp).trans ?_
    · rw [hlen]
      exact entry_of_arrayDiag s
    · have hkey : (commandOf 0x9090 o).key = 0x909000 := commandOf_key hsub
      unfold commandOp
      rw [hkey]
      rfl
  clear_value u
  obtain ⟨hrun, hdict, hout⟩ := hsame
  have hstatus : ∀ {x : Op} (code : W16), s.rng.closeDue = false →
      (Host.Outcome.next (afterOp x { s := u, status := code }) : Host.Outcome State Fault Refusal) = .next (u.answered x.o code []) := fun code hd =>
    congrArg Host.Outcome.next (afterOp_of_status _ _ code (hdue.trans hd))
  have hstopped : ∀ {α : Type} {a b : α}, s.isRunning = false → (if u.isRunning then a else b) = b := fun hs =>
    if_neg (by rw [hrun, hs]; exact Bool.false_ne_true)
  refine ⟨fun hserves htyp hdata => ?_, fun hserves htyp hlen => ?_, fun hserves htyp hlen hstop hnone => ?_, fun hsome => ?_, fun hnone => ?_,
    fun hfit hsome => ?_, diagBytes_nil c, fun hnone hfit => ?_, fun hbad => ?_⟩
  · have hclosed : s.rng.closeDue = false := hserves.2.2.2.2.1
    have hstore := hstoreExec hserves htyp hdata
    have hself := hselfExec hserves htyp hdata
    refine ⟨fun hr => ⟨?_, ?_⟩, fun hs harg hold => ?_, fun hs harg => ?_, fun hs hnone harg => ?_, fun hs hnone harg => ?_⟩
    · rw [hstore, show u.calStoreCommand arg h = { s := u, status := 0x0305 } from if_pos (hrun.trans hr), hstatus _ hclosed]
      rfl
    · rw [hself, show u.selfCalCommand arg = { s := u, status := 0x0305 } from if_pos (hrun.trans hr), hstatus _ hclosed]
      rfl
    · rw [hstore, calStoreCommand_of_stored (hrun.trans hs) harg hold, afterOp_of_job _ rfl]
      obtain ⟨v, hv⟩ : ∃ v, (u.holdCheck h needCal).1 = v := ⟨_, rfl⟩
      have hvdict : v.dict = s.dict := by
        rw [← hv, holdCheck_eq]
        exact hdict
      have hvout : v.out = s.out := by
        rw [← hv, holdCheck_eq]
        exact hout
      rw [hv]
      refine ⟨_, rfl, rfl, congrArg (·.cal) hvdict, congrArg (·.calStored) hvdict, fun hzero => ?_, hvout⟩
      rw [hzero]
      exact (stageTraining_of_nothing v).trans (congrArg (·.staged) hvdict)
    · rw [hstore, show u.calStoreCommand arg h = { s := u, status := 0x0206 } from (hstopped hs).trans (if_pos harg), hstatus _ hclosed]
      rfl
    · have hidle : ¬u.dict.selfCal.isSome = true := by
        rw [hdict, hnone]
        exact Bool.false_ne_true
      rw [hself, show u.selfCalCommand arg = { s := { u with dict := { u.dict with selfCal := some arg } } } from
        (hstopped hs).trans ((if_neg hidle).trans (if_neg (BitVec.not_lt.mpr harg)))]
      exact congrArg Host.Outcome.next (afterOp_ok (hdue.trans hclosed))
    · have hidle : ¬u.dict.selfCal.isSome = true := by
        rw [hdict, hnone]
        exact Bool.false_ne_true
      rw [hself, show u.selfCalCommand arg = { s := u, status := 0x0206 } from (hstopped hs).trans ((if_neg hidle).trans (if_pos harg)),
        hstatus _ hclosed]
      rfl
  · have hclosed : s.rng.closeDue = false := hserves.2.2.2.2.1
    refine ⟨fun hr => ?_, fun hs hsome => ?_⟩
    · rw [hdiagExec hserves htyp hlen, show u.diagCommand (leNat o.data) = { s := u, status := 0x0305 } from if_pos (hrun.trans hr), hstatus _ hclosed]
      rfl
    · have hbusy : u.dict.diag.isSome = true := by
        rw [hdict]
        exact Option.isSome_iff_ne_none.mpr hsome
      rw [hdiagExec hserves htyp hlen, show u.diagCommand (leNat o.data) = { s := u, status := 0x030A } from (hstopped hs).trans (if_pos hbusy),
        hstatus _ hclosed]
      rfl
  · have hclosed : s.rng.closeDue = false := hserves.2.2.2.2.1
    have hidle : ¬u.dict.diag.isSome = true := by
      rw [hdict, hnone]
      exact Bool.false_ne_true
    refine ⟨fun hfew => ?_, fun hmany => ?_⟩
    · rw [hdiagExec hserves htyp hlen, show u.diagCommand (leNat o.data) = { s := { u with dict := { u.dict with diag := some (leNat o.data) } } } from
        (hstopped hstop).trans ((if_neg hidle).trans (if_neg (Nat.not_lt.mpr hfew)))]
      exact congrArg Host.Outcome.next (afterOp_ok (hdue.trans hclosed))
    · rw [hdiagExec hserves htyp hlen, show u.diagCommand (leNat o.data) = { s := u, status := 0x0205 } from
        (hstopped hstop).trans ((if_neg hidle).trans (if_pos hmany)), hstatus _ hclosed]
      rfl
  · have hexec : exec (.selfCalDone h) s = .next (s.selfCalValues arg h) := by
      change execSelfCalDone h s = _
      unfold execSelfCalDone
      rw [hsome]
    obtain ⟨st, hst⟩ := selfCalValues_staged s arg h
    refine ⟨_, hexec, congrArg (·.selfCal) hst, congrArg (·.cal) hst, congrArg (·.calStored) hst, fun hbit hfit => ?_, fun hzero => ?_⟩
    · rw [hst]
      dsimp only
      rw [if_pos hbit, Sparse.get_set_same, leNat_leBytes]
      exact Nat.mod_eq_of_lt hfit
    · rw [hzero]
      exact selfCalValues_of_nothing s h
  · change execSelfCalDone h s = _
    unfold execSelfCalDone
    rw [hnone]
  · change execArrayDiagDone fails s = _
    unfold execArrayDiagDone
    rw [if_neg (not_overfull hfit), hsome]
  · change execArrayDiagDone fails s = _
    unfold execArrayDiagDone
    rw [if_neg (not_overfull hfit), hnone]
  · refine if_pos (List.any_eq_true.mpr ?_)
    obtain ⟨x, hx, hfar⟩ := hbad
    exact ⟨x, hx, decide_eq_true hfar⟩

/-- Settles O55: the fabric's reset begins and ends, and calibration and the array diagnostic run while no pack does. -/
theorem resetsAndCalibration : Obligations.ResetsAndCalibration := ⟨fabricResets, calibrationAndDiagnostics⟩

end Sys2Proof.Machine

end

section
/-! PROOFS. Packs: installed, placed and started, and halted. -/

namespace Sys2Proof.Sparse

variable {α : Type} [DecidableEq α]

/-- A function written out over a list of keys reads back at each of them. -/
theorem get_setAll_graph (d : α) (f : Nat → α) (c : Nat) : ∀ (l : List Nat) (m : SMap α), (c ∈ l ∨ get d m c = f c) →
    get d (setAll d m (l.map fun i => (i, f i))) c = f c := by
  intro l
  induction l with
  | nil => exact fun m h => h.resolve_left List.not_mem_nil
  | cons i l ih =>
    intro m h
    refine ih (set d m i (f i)) ?_
    by_cases hi : i = c
    · subst hi
      exact .inr (get_set_same ..)
    · rw [get_set_other d _ m hi]
      exact h.imp_left fun h => (List.mem_cons.mp h).resolve_left (Ne.symm hi)

theorem get_of_mem {d : α} {m : SMap α} {k : Nat} {v : α} (h : wf d m = true) (hmem : (k, v) ∈ m) : get d m k = v := by
  induction m with
  | nil => exact absurd hmem List.not_mem_nil
  | cons p r ih =>
    obtain ⟨k', v'⟩ := p
    obtain ⟨-, hrest, hwf⟩ := (wf_cons ..).1 h
    rcases List.mem_cons.mp hmem with he | hr
    · obtain ⟨rfl, rfl⟩ := Prod.mk.inj he
      exact if_pos rfl
    · exact (if_neg (Nat.ne_of_lt (hrest _ hr))).trans (ih hwf hr)

omit [DecidableEq α] in
theorem mem_of_get {d : α} {m : SMap α} {k : Nat} (h : get d m k ≠ d) : ∃ p ∈ m, p.1 = k := by
  induction m with
  | nil => exact absurd rfl h
  | cons p r ih =>
    obtain ⟨k', v'⟩ := p
    by_cases hk : k' = k
    · exact ⟨_, List.mem_cons_self, hk⟩
    · obtain ⟨q, hq, he⟩ := ih fun hr => h ((if_neg hk).trans hr)
      exact ⟨q, List.mem_cons_of_mem _ hq, he⟩

end Sys2Proof.Sparse

namespace Sys2Proof.Machine
open State

/-! ## The installation -/

theorem packsInstall : Claim.PacksInstall := by
  intro s o u p
  refine ⟨fun hserves hsub htyp hdata => ?_, fun hstate => ⟨fun hpass => ?_, fun r hfail => ?_⟩, fun hstate => if_neg hstate⟩
  · have hdue : u.rng.closeDue = false := (touch_closeDue o).trans hserves.2.2.2.2.1
    have hsame : u.installCheck = s.installCheck ∧ u.pack = s.pack ∧ u.out = s.out ∧ u.mem = s.mem ∧ u.cores = s.cores ∧
        u.compatAsked = s.compatAsked := by
      rw [show u = s.touch o from rfl, touch_eq]
      exact ⟨rfl, rfl, rfl, rfl, rfl, rfl⟩
    have hexec : exec (.packInstall o) s = .next (afterOp (commandOf 0x8001 o) u.installCommand) := by
      refine (single_of_install (h := noHoldup) hserves hsub htyp hdata (.inr (.inl rfl))).trans ?_
      have hkey : (commandOf 0x8001 o).key = 0x800100 := commandOf_key hsub
      unfold commandOp
      rw [hkey]
      rfl
    clear_value u
    obtain ⟨hcheck, hpack, hout, hmem, hcores, hcompat⟩ := hsame
    refine ⟨fun code hcode => ?_, fun hnone => ?_, fun hrun => if_pos hrun⟩
    · have hcommand : u.installCommand = { s := u, status := code } := by
        unfold installCommand
        rw [hcheck, hcode]
      rw [hexec, hcommand]
      exact congrArg Host.Outcome.next (afterOp_of_status _ _ _ hdue)
    · have hcommand : u.installCommand = { s := u.beginInstall } := by
        unfold installCommand
        rw [hcheck, hnone]
      rw [hexec, hcommand, afterOp_ok (t := u.beginInstall) hdue]
      exact ⟨_, rfl, rfl, rfl, rfl, congrArg (·.image) hpack, hcompat, rfl, congrArg (· ++ _) hout, hmem, hcores⟩
  · refine (if_pos hstate).trans (congrArg Host.Outcome.next ?_)
    unfold finishInstall
    dsimp only
    rw [show loaderChecks s s.pack.image = none from hpass]
  · refine (if_pos hstate).trans (congrArg Host.Outcome.next ?_)
    unfold finishInstall
    dsimp only
    rw [show loaderChecks s s.pack.image = some r from hfail]

/-! ## What placing a pack leaves as it is -/

/-- What placing a pack reaches no more once the cores are set up: the cores, Ranger, the pacers, the pack and its state. -/
def State.besidesPlacing (s : State) : State :=
  { State.reset with
    cores := s.cores, rng := s.rng, pace := s.pace, pack := { State.reset.pack with installed := s.pack.installed, state := s.pack.state },
    ctrs := s.ctrs }

section
variable (s : State)

theorem placeBytes_besidesPlacing (a : Nat) (bs : List Byte) : (s.placeBytes a bs).besidesPlacing = s.besidesPlacing := by
  unfold placeBytes
  refine foldl_keeps besidesPlacing (fun i _ t => ?_) s
  dsimp only
  split <;> rfl

theorem placeWords_besidesPlacing (c : Nat) (ws : List W64) : (s.placeWords c ws).besidesPlacing = s.besidesPlacing :=
  (placeBytes_besidesPlacing ..).trans rfl

theorem placeData_besidesPlacing (p : List Byte) : (s.placeData p).besidesPlacing = s.besidesPlacing :=
  (foldl_keeps besidesPlacing (fun _ _ t => placeBytes_besidesPlacing t ..) _).trans
    (foldl_keeps besidesPlacing (fun _ _ t => placeBytes_besidesPlacing t ..) s)

theorem placeRoutes_besidesPlacing (p : List Byte) : (s.placeRoutes p).besidesPlacing = s.besidesPlacing :=
  foldl_keeps besidesPlacing (fun _ _ t => placeBytes_besidesPlacing t ..) s

theorem placePinned_besidesPlacing (p : List Byte) : (s.placePinned p).besidesPlacing = s.besidesPlacing := by
  unfold placePinned
  refine foldl_keeps besidesPlacing (fun b _ t => ?_) s
  refine foldl_keeps besidesPlacing (fun i _ t => ?_) t
  dsimp only
  split <;> rfl

theorem placeCompat_besidesPlacing (p : List Byte) : (s.placeCompat p).besidesPlacing = s.besidesPlacing := by
  unfold placeCompat
  refine foldl_keeps besidesPlacing (fun b _ t => ?_) s
  exact (placeBytes_besidesPlacing ..).trans (placeBytes_besidesPlacing ..)

/-- The instruction regions of all cores. -/
def State.placeAllWords (s : State) (p : List Byte) : State :=
  (List.range 2048).foldl (fun s c => s.placeWords c (packWords p c)) s

theorem placeAllWords_besidesPlacing (p : List Byte) : (s.placeAllWords p).besidesPlacing = s.besidesPlacing :=
  foldl_keeps besidesPlacing (fun _ _ t => placeWords_besidesPlacing t ..) s

/-- A pack placed up to its pinned operands. -/
def State.placedData (s : State) (p : List Byte) : State :=
  let m := sectBytes p 1
  let s := (((((s.startCores p).clearStores).putLayout m).placeAllWords p).placeData p).placeRoutes p
  let s := (s.putVal 0x401000 (leBytes 4 (maniSplit m))).putVal 0x301000 (leBytes 4 (maniPartition m))
  (((s.loadTables p).loadCairn p).prepareSlices).placePinned p

theorem clearStores_besidesPlacing : s.clearStores.besidesPlacing = s.besidesPlacing := rfl

theorem putLayout_besidesPlacing (m : List Byte) : (s.putLayout m).besidesPlacing = s.besidesPlacing := rfl

theorem putVal_besidesPlacing (key : Nat) (v : List Byte) : (s.putVal key v).besidesPlacing = s.besidesPlacing := rfl

theorem loadTables_besidesPlacing (p : List Byte) : (s.loadTables p).besidesPlacing = s.besidesPlacing := rfl

theorem loadCairn_besidesPlacing (p : List Byte) : (s.loadCairn p).besidesPlacing = s.besidesPlacing := rfl

theorem prepareSlices_besidesPlacing : s.prepareSlices.besidesPlacing = s.besidesPlacing := by
  unfold prepareSlices
  generalize (List.range 256).foldl _ s.mem = m
  rfl

theorem placedData_besidesPlacing (p : List Byte) : (s.placedData p).besidesPlacing = (s.startCores p).besidesPlacing := by
  unfold placedData
  simp only [placePinned_besidesPlacing, prepareSlices_besidesPlacing, loadCairn_besidesPlacing, loadTables_besidesPlacing, putVal_besidesPlacing,
    placeRoutes_besidesPlacing, placeData_besidesPlacing, placeAllWords_besidesPlacing, putLayout_besidesPlacing, clearStores_besidesPlacing]

/-- A pack placed up to its ownership tables. -/
def State.placedTables (s : State) (p : List Byte) : State :=
  let s := { (s.placedData p).loadScout p with ctrs := [] }
  let s := s.putVal 0x303100 (List.replicate 32 0)
  ({ s with pack := { s.pack with strict := decide (leNat (s.valueOf 0x600200) = 1) } } : State).placeCompat p

theorem placedTables_besidesPlacing (p : List Byte) :
    (s.placedTables p).besidesPlacing = { (s.startCores p).besidesPlacing with ctrs := [] } := by
  unfold placedTables
  refine (placeCompat_besidesPlacing ..).trans ?_
  exact congrArg (fun t : State => ({ t with ctrs := [] } : State)) (placedData_besidesPlacing s p)

theorem placePack_eq (p : List Byte) : ∃ (ranges : List (Nat × Nat)) (table : Nat) (log : Logbook) (gl : Guyline) (svc : Svc),
    s.placePack p = { s.flushSlices.placedTables p with
      pack := { (s.flushSlices.placedTables p).pack with descTable := table, ranges }, log, gl, svc } ∧ log.open_ = [] ∧
      gl.usesGl = !(portsUsed p).isEmpty :=
  ⟨_, _, _, _, _, rfl, rfl, rfl⟩

end

/-! ## The cores of a pack -/

theorem startCores_seqs (s : State) (p : List Byte) :
    (s.startCores p).cores.seq = Sparse.setAll Seq.reset [] ((List.range 2048).map fun c => (c, startSeq p c (s.seq c))) := by
  unfold startCores
  generalize List.range 2048 = ids
  rfl

theorem startCores_besidesCores (s : State) (p : List Byte) :
    (s.startCores p).rng = s.rng ∧ (s.startCores p).pack = s.pack ∧ (s.startCores p).pace = s.pace := by
  unfold startCores
  generalize List.range 2048 = ids
  exact ⟨rfl, rfl, rfl⟩

theorem mem_packCores {p : List Byte} {c : Nat} (h : c ∈ packCores p) : c ∈ List.range 2048 := by
  unfold packCores at h
  exact (List.mem_filter.mp h).1

theorem startSeq_inPack {p : List Byte} {c : Nat} (h : c ∈ packCores p) (q : Seq) : (startSeq p c q).inPack = true := by
  unfold startSeq
  dsimp only
  rw [List.contains_iff_mem]
  exact h

/-- The pack placed, with no halt of an earlier one pending. -/
def State.packPlaced (u : State) : State :=
  let s := ((u.unalert .packFatal).unalert .moduleFatal).placePack u.pack.installed
  { s with rng := { s.rng with packFatalAt := none } }

theorem startPack_of_alone {u : State} (h : u.packPlaced.gl.usesGl = false) : u.startPack = u.packPlaced.releaseCores :=
  if_neg (ne_true_of_eq_false h)

theorem startPack_of_system {u : State} (h : u.packPlaced.gl.usesGl = true) :
    u.startPack = ({ u.packPlaced with gl := { u.packPlaced.gl with placed := true } } : State).progressStart := if_pos h

/-- What a placed pack has, before it is released. -/
theorem packPlaced_facts {u t : State} {p : List Byte} (hp : u.pack.installed = p) (ht : u.packPlaced = t) :
    t.cores.seq = Sparse.setAll Seq.reset [] ((List.range 2048).map fun c => (c, startSeq p c (u.seq c))) ∧ t.ctrs = [] ∧ t.log.open_ = [] ∧
      t.pack.installed = p ∧ t.pack.state = u.pack.state ∧ t.gl.usesGl = !(portsUsed p).isEmpty ∧ t.now = u.now ∧
      AlertSrc.packFatal ∉ t.rng.alerts ∧ t.rng.closeDue = u.rng.closeDue := by
  obtain ⟨v, hv⟩ : ∃ v, (u.unalert .packFatal).unalert .moduleFatal = v := ⟨_, rfl⟩
  obtain ⟨w, hw⟩ : ∃ w, v.flushSlices = w := ⟨_, rfl⟩
  obtain ⟨ranges, table, log, gl, svc, hplace, hopen, huses⟩ := placePack_eq v p
  have hflush : w.besidesService = v.besidesService := by
    rw [← hw]
    exact flushSlices_besidesService v
  have hframe := placedTables_besidesPlacing w p
  rw [hw] at hplace
  generalize w.placedTables p = x at hplace hframe
  obtain ⟨hyrng, hypack, hypace⟩ := startCores_besidesCores w p
  have hyseqs := startCores_seqs w p
  generalize w.startCores p = y at hframe hyrng hypack hypace hyseqs
  have hpack : y.pack = u.pack := by
    refine hypack.trans ((congrArg State.pack hflush :).trans ?_)
    rw [← hv]
    rfl
  have hrng : x.rng = w.rng := (congrArg State.rng hframe :).trans hyrng
  have hte : t = { x with pack := { x.pack with descTable := table, ranges }, log, gl, svc, rng := { x.rng with packFatalAt := none } } := by
    rw [← ht]
    unfold packPlaced
    rw [hp, hv, hplace]
  have hseqs : w.cores.seq = u.cores.seq := by
    refine (congrArg (·.cores.seq) hflush :).trans ?_
    rw [← hv]
    rfl
  have hcores : x.cores.seq = y.cores.seq := (congrArg (·.cores.seq) hframe :)
  have hpace : y.pace = u.pace := by
    refine hypace.trans ((congrArg State.pace hflush :).trans ?_)
    rw [← hv]
    rfl
  rw [hte]
  refine ⟨?_, (congrArg State.ctrs hframe :), hopen, ?_, ?_, huses, ?_, fun hmem => ?_, ?_⟩
  · refine hcores.trans (hyseqs.trans ?_)
    rw [show w.seq = u.seq from funext fun c => congrArg (fun l => Sparse.get Seq.reset l c) hseqs]
  · exact ((congrArg (·.pack.installed) hframe :).trans (congrArg (·.installed) hpack)).trans hp
  · exact (congrArg (·.pack.state) hframe :).trans (congrArg (·.state) hpack)
  · exact congrArg (·.step) ((congrArg State.pace hframe :).trans hpace)
  · have hw' : AlertSrc.packFatal ∈ w.rng.alerts := by
      rw [← hrng]
      exact hmem
    have hfilter : w.rng.alerts.filter (· ≠ .epochEnd) = v.rng.alerts.filter (· ≠ .epochEnd) := (congrArg (·.rng.alerts) hflush :)
    have hv' : AlertSrc.packFatal ∈ v.rng.alerts := by
      refine List.mem_of_mem_filter (p := fun a => decide (a ≠ AlertSrc.epochEnd)) ?_
      rw [← hfilter]
      exact List.mem_filter.mpr ⟨hw', by decide⟩
    rw [← hv] at hv'
    exact (mem_unalert.mp (mem_unalert.mp hv').1).2 rfl
  · refine (congrArg (·.closeDue) hrng).trans ((congrArg (·.rng.closeDue) hflush :).trans ?_)
    rw [← hv]
    rfl

/-! ## The start of a pack -/

/-- The state without what the start of a system reaches. -/
def State.besidesStart (s : State) : State := { s.besidesSyms with gl := { s.besidesSyms.gl with tStart := none, sentReady := false } }

theorem sendStart_besidesStart (s : State) (tStart hops master target : Nat) :
    (s.sendStart tStart hops master target).besidesStart = s.besidesStart := by
  unfold besidesStart
  rw [sendStart_besidesSyms]

theorem progressStart_besidesStart (s : State) : s.progressStart.besidesStart = s.besidesStart := by
  unfold progressStart
  split
  · rfl
  · split
    · exact (sendStart_besidesStart ..).trans rfl
    · split
      · rfl
      · split
        · rfl
        · rfl

/-- A release reaches the cores, the pack's state, the phase and the ports alone. -/
theorem releaseCores_facts (s : State) : s.releaseCores.pack = { s.pack with state := .running } ∧ s.releaseCores.now = s.now ∧
    s.releaseCores.ctrs = s.ctrs ∧ s.releaseCores.log = s.log ∧ s.releaseCores.gl.usesGl = s.gl.usesGl ∧ s.releaseCores.rng = s.rng := by
  have hkeep : ∀ {γ : Type} (f : State → γ), (∀ (t : State) c q, f (t.setSeq c q) = f t) → f (s.cores.seq.foldl releaseSeq s) = f s := fun f hf =>
    foldl_keeps f (fun x _ t => by
      unfold releaseSeq
      split
      · exact hf ..
      · rfl) s
  exact ⟨congrArg (fun k : Pack => { k with state := .running }) (hkeep State.pack fun _ _ _ => rfl), releaseSeqs_now s _,
    hkeep State.ctrs fun _ _ _ => rfl, hkeep State.log fun _ _ _ => rfl, hkeep (·.gl.usesGl) fun _ _ _ => rfl, hkeep State.rng fun _ _ _ => rfl⟩

theorem releaseCores_started {s : State} {p : List Byte} {c : Nat} {f : Nat → Seq}
    (hseqs : s.cores.seq = Sparse.setAll Seq.reset [] ((List.range 2048).map fun c => (c, startSeq p c (f c)))) (hc : c ∈ packCores p) :
    s.releaseCores.seq c = { startSeq p c (f c) with st := 1, nextIssue := s.now } := by
  have hwf : Sparse.wf Seq.reset s.cores.seq = true := by
    rw [hseqs]
    exact Sparse.wf_setAll _ _ _ rfl
  have hget : Sparse.get Seq.reset s.cores.seq c = startSeq p c (f c) := by
    rw [hseqs]
    exact Sparse.get_setAll_graph Seq.reset (fun c => startSeq p c (f c)) c _ _ (.inl (mem_packCores hc))
  have hin := startSeq_inPack hc (f c)
  rw [releaseCores_seq]
  refine releaseSeqs_placed hin _ _ rfl (fun z hz hzc => ?_) (.inr ?_)
  · rw [← hget, ← hzc]
    exact (Sparse.get_of_mem hwf hz).symm
  · refine Sparse.mem_of_get (d := Seq.reset) fun he => ?_
    rw [← hget, he] at hin
    exact Bool.false_ne_true hin

theorem startPack_closeDue (u : State) : u.startPack.rng.closeDue = u.rng.closeDue := by
  obtain ⟨t, ht⟩ : ∃ t, u.packPlaced = t := ⟨_, rfl⟩
  obtain ⟨-, -, -, -, -, -, -, -, hdue⟩ := packPlaced_facts rfl ht
  rcases huses : u.packPlaced.gl.usesGl with _ | _
  · obtain ⟨-, -, -, -, -, hrng⟩ := releaseCores_facts u.packPlaced
    rw [startPack_of_alone huses, hrng, ht]
    exact hdue
  · rw [startPack_of_system huses, ht]
    exact (congrArg (·.rng.closeDue) (progressStart_besidesStart { t with gl := { t.gl with placed := true } }) :).trans hdue

theorem entry_of_startHalt {s : State} {key : Nat} (h : key = 0x800600 ∨ key = 0x800700) : s.entry key = some (wrE 0 (some 0) .cmd 1) := by
  rw [entry_of_entry78 (by omega)]
  unfold entry78
  rcases h with rfl | rfl <;> rfl

theorem single_of_startHalt {s : State} {o : OpReq} {h : Holdup} {index : W16} (hserves : s.serves o 1) (hsub : o.sub = 0) (htyp : o.typ = 0)
    (hdata : o.data = []) (hindex : index = 0x8006 ∨ index = 0x8007) :
    s.single (commandOf index o) h = .next (afterOp (commandOf index o) ((s.touch o).commandOp (commandOf index o) h)) := by
  refine single_of_plainCommand (typ := 0) hserves hsub ?_ ?_ ?_ (.inl htyp)
  · rcases hindex with rfl | rfl <;> decide
  · rcases hindex with rfl | rfl <;> decide
  · rw [hdata]
    rcases hindex with rfl | rfl
    · exact entry_of_startHalt (.inl rfl)
    · exact entry_of_startHalt (.inr rfl)

theorem startRefused_of_other {u : State} {code : W16} (h : code ≠ 0x0504) : u.startRefused code = u := if_neg h

theorem startRefused_closeDue (u : State) (code : W16) : (u.startRefused code).rng.closeDue = u.rng.closeDue := by
  unfold startRefused
  split <;> rfl

theorem startSeq_of_live (p : List Byte) (c : Nat) {q : Seq} (h : q.st ≠ 5) : (startSeq p c q).st = 0 ∧ (startSeq p c q).pc = 0 := by
  unfold startSeq
  dsimp only
  rw [if_neg h]
  exact ⟨rfl, rfl⟩

theorem startSeq_pc (p : List Byte) (c : Nat) (q : Seq) : (startSeq p c q).pc = 0 := by
  unfold startSeq
  rfl

theorem packsStart : Claim.PacksStart := by
  intro s o h u p hserves hsub htyp hdata
  have hdue : u.rng.closeDue = false := (touch_closeDue o).trans hserves.2.2.2.2.1
  have hsame : u.startCheck = s.startCheck ∧ u.pack = s.pack ∧ u.out = s.out ∧ u.cores = s.cores ∧ u.now = s.now ∧
      u.valueOf 0x602000 = s.valueOf 0x602000 := by
    rw [show u = s.touch o from rfl, touch_eq]
    exact ⟨rfl, rfl, rfl, rfl, rfl, rfl⟩
  have hexec : exec (.packStart o h) s = .next (afterOp (commandOf 0x8006 o) (u.startCommand h)) := by
    refine (single_of_startHalt hserves hsub htyp hdata (.inl rfl)).trans ?_
    have hkey : (commandOf 0x8006 o).key = 0x800600 := commandOf_key hsub
    unfold commandOp
    rw [hkey]
    rfl
  clear_value u
  obtain ⟨hcheck, hpack, hout, hcores, hnow, hepoch⟩ := hsame
  have hp : u.pack.installed = p := congrArg (·.installed) hpack
  have hseq : ∀ c, u.seq c = s.seq c := fun c => congrArg (fun k : Cores => Sparse.get Seq.reset k.seq c) hcores
  obtain ⟨t, ht⟩ : ∃ t, u.packPlaced = t := ⟨_, rfl⟩
  obtain ⟨hseqs, hctrs, hopen, hinst, hstate, huses, htnow, halert, -⟩ := packPlaced_facts hp ht
  refine ⟨fun code hcode => ?_, fun code hcode => startRefused_of_other hcode, if_pos rfl, fun hok hoff => ?_, fun hnone => ?_, fun hsome => ?_,
    fun hok hon hold => ?_, fun hrun hwhole => ?_⟩
  · have hcommand : u.startCommand h = { s := u.startRefused code, status := code } := by
      unfold startCommand
      rw [hcheck, hcode]
    rw [hexec, hcommand]
    exact congrArg Host.Outcome.next (afterOp_of_status _ _ _ ((startRefused_closeDue ..).trans hdue))
  · have hcommand : u.startCommand h = { s := u.startPack } := by
      unfold startCommand
      rw [hcheck, hok]
      exact if_pos ((congrArg leNat hepoch).trans hoff)
    rw [hexec, hcommand, afterOp_ok ((startPack_closeDue u).trans hdue)]
    rfl
  · have halone : t.gl.usesGl = false := by
      rw [huses, hnone]
      rfl
    obtain ⟨hrpack, hrnow, hrctrs, hrlog, hruses, hrrng⟩ := releaseCores_facts t
    have hstart : t.releaseCores = u.startPack := by
      rw [startPack_of_alone (by rw [ht]; exact halone), ht]
    refine ⟨_, hstart, congrArg (·.state) hrpack, (hrnow.trans htnow).trans hnow, hrctrs.trans hctrs, (congrArg (·.open_) hrlog).trans hopen,
      (congrArg (·.installed) hrpack).trans hinst, hruses.trans halone, ?_, fun c hc => ?_⟩
    · rw [hrrng]
      exact halert
    · rw [releaseCores_started hseqs hc]
      exact ⟨rfl, startSeq_pc p c (u.seq c), htnow.trans hnow⟩
  · have hsystem : t.gl.usesGl = true := by
      rw [huses, Bool.not_eq_true', List.isEmpty_eq_false_iff]
      exact hsome
    obtain ⟨v, hv⟩ : ∃ v : State, v = { t with gl := { t.gl with placed := true } } := ⟨_, rfl⟩
    have hstart : v.progressStart = u.startPack := by
      rw [startPack_of_system (by rw [ht]; exact hsystem), ht, hv]
    have hframe := progressStart_besidesStart v
    generalize v.progressStart = w at hstart hframe
    rw [hv] at hframe
    refine ⟨w, hstart, (congrArg (·.gl.usesGl) hframe :).trans hsystem, (congrArg (·.gl.placed) hframe :), ?_, fun c hc hlive => ?_,
      (congrArg State.ctrs hframe :).trans hctrs⟩
    · exact (congrArg (·.pack.state) hframe :).trans (hstate.trans (congrArg (·.state) hpack))
    · have hwseq : w.seq c = startSeq p c (s.seq c) := by
        refine (congrArg (fun k : State => Sparse.get Seq.reset k.cores.seq c) hframe :).trans ?_
        refine (congrArg (fun l => Sparse.get Seq.reset l c) hseqs).trans ?_
        rw [Sparse.get_setAll_graph Seq.reset (fun c => startSeq p c (u.seq c)) c _ _ (.inl (mem_packCores hc)), hseq]
      rw [hwseq]
      exact startSeq_of_live p c hlive
  · have hcommand : u.startCommand h = { s := (u.holdCheck h needParam).1, job := some .epochStart } := by
      unfold startCommand
      rw [hcheck, hok]
      exact (if_neg fun he => hon ((congrArg leNat hepoch).symm.trans he)).trans (storing_of_holdCode_none _ hold)
    rw [hexec, hcommand, afterOp_of_job _ rfl]
    refine ⟨_, rfl, rfl, ?_, ?_, ?_⟩
    · rw [holdCheck_eq]
      exact hpack
    · rw [holdCheck_eq]
      exact hcores
    · rw [holdCheck_eq]
      exact hout
  · exact (if_neg (by rw [hwhole]; exact Bool.false_ne_true)).trans (if_pos hrun)

/-! ## The halt of a pack -/

theorem packsHalt : Claim.PacksHalt := by
  intro s o u
  refine ⟨fun hserves hsub htyp hdata => ?_, ⟨congrArg (·.state) (haltPack_pack s), (haltPack_open s).1, (haltPack_open s).2,
    fun c hc => haltPack_seq hc⟩, fun at_ hat hrun hdue => ?_, fun at_ hat hearly hgoing => ?_, fun hnone => ?_⟩
  · have hdue : u.rng.closeDue = false := (touch_closeDue o).trans hserves.2.2.2.2.1
    have hrunning : u.isRunning = s.isRunning := touch_isRunning
    have hexec : exec (.packHalt o) s = .next (afterOp (commandOf 0x8007 o) u.haltCommand) := by
      refine (single_of_startHalt (h := noHoldup) hserves hsub htyp hdata (.inr rfl)).trans ?_
      have hkey : (commandOf 0x8007 o).key = 0x800700 := commandOf_key hsub
      unfold commandOp
      rw [hkey]
      rfl
    clear_value u
    refine ⟨fun hrun => ?_, fun hstop => ?_⟩
    · have hrun' := hrunning.trans hrun
      obtain ⟨-, -, -, hkept⟩ := settled_besidesHalt u
      rw [show u.settled = u.haltPack from if_pos hrun'] at hkept
      rw [hexec, show u.haltCommand = { s := u.haltPack } from if_pos hrun', afterOp_ok (hkept.trans hdue)]
      rfl
    · rw [hexec, show u.haltCommand = { s := u, status := 0x030A } from if_neg (ne_true_of_eq_false (hrunning.trans hstop))]
      exact congrArg Host.Outcome.next (afterOp_of_status _ _ _ hdue)
  · change execPackFatalHalt s = _
    unfold execPackFatalHalt
    rw [hat]
    dsimp only
    rw [decide_eq_true hdue, hrun]
    rfl
  · change execPackFatalHalt s = _
    unfold execPackFatalHalt
    rw [hat]
    dsimp only
    rw [decide_eq_false (Nat.not_le.mpr hearly), hgoing]
    rfl
  · change execPackFatalHalt s = _
    unfold execPackFatalHalt
    rw [hnone]

/-- Settles O54: a pack is installed after its checks, placed and started, and halted. -/
theorem packsRun : Obligations.PacksRun := ⟨packsInstall, packsStart, packsHalt⟩

end Sys2Proof.Machine

end

section
/-! PROOFS. The test port, and the management port below UDP. -/

namespace Sys2Proof.Machine
open State

/-! ## The test port -/

section
variable {s : State}

theorem tapLoad_of_good (h : s.pwr.phase = .good) (i : Byte) : s.tapLoad i = { s with tap := { s.tap with ir := i } } := if_pos h

theorem tapLoad_of_off (h : s.pwr.phase ≠ .good) (i : Byte) : s.tapLoad i = s := if_neg h

theorem tapActs_of_extest (h : s.tap.ir = tapExtest) : s.tapActs = if s.pwr.modResetLow then tapExtest else tapSample := if_pos h

theorem tapActs_of_clamp (h : s.tap.ir = tapClamp) : s.tapActs = if s.pwr.modResetLow then tapClamp else tapBypass :=
  (if_neg (by rw [h]; decide)).trans (if_pos h)

theorem tapActs_of_plain (h : s.tap.ir = tapIdcode ∨ s.tap.ir = tapSample ∨ s.tap.ir = tapTrace) : s.tapActs = s.tap.ir := by
  have hother : s.tap.ir ≠ tapExtest ∧ s.tap.ir ≠ tapClamp := by
    rcases h with h | h | h <;> rw [h] <;> decide
  exact (if_neg hother.1).trans ((if_neg hother.2).trans (if_pos h))

theorem tapActs_of_none (hextest : s.tap.ir ≠ tapExtest) (hclamp : s.tap.ir ≠ tapClamp)
    (h : ¬(s.tap.ir = tapIdcode ∨ s.tap.ir = tapSample ∨ s.tap.ir = tapTrace)) : s.tapActs = tapBypass :=
  (if_neg hextest).trans ((if_neg hclamp).trans (if_neg h))

/-- What an instruction acts as besides itself: EXTEST and CLAMP with MOD_RESET_N high, and codes of no instruction. -/
theorem tapActs_cases : (s.tapActs = s.tap.ir ∧ (s.tapDrives = true → s.pwr.modResetLow = true)) ∨
    (s.tap.ir ≠ tapTrace ∧ (s.tapActs = tapSample ∨ s.tapActs = tapBypass)) := by
  by_cases hextest : s.tap.ir = tapExtest
  · have hacts := tapActs_of_extest hextest
    by_cases hlow : s.pwr.modResetLow = true
    · exact .inl ⟨(hacts.trans (if_pos hlow)).trans hextest.symm, fun _ => hlow⟩
    · exact .inr ⟨by rw [hextest]; decide, .inl (hacts.trans (if_neg hlow))⟩
  · by_cases hclamp : s.tap.ir = tapClamp
    · have hacts := tapActs_of_clamp hclamp
      by_cases hlow : s.pwr.modResetLow = true
      · exact .inl ⟨(hacts.trans (if_pos hlow)).trans hclamp.symm, fun _ => hlow⟩
      · exact .inr ⟨by rw [hclamp]; decide, .inr (hacts.trans (if_neg hlow))⟩
    · by_cases hplain : s.tap.ir = tapIdcode ∨ s.tap.ir = tapSample ∨ s.tap.ir = tapTrace
      · have hacts := tapActs_of_plain hplain
        refine .inl ⟨hacts, fun hdrives => ?_⟩
        unfold tapDrives at hdrives
        rw [hacts, Bool.or_eq_true, decide_eq_true_eq, decide_eq_true_eq] at hdrives
        exact absurd hdrives (not_or.mpr ⟨hextest, hclamp⟩)
      · exact .inr ⟨fun h => hplain (.inr (.inr h)), .inr (tapActs_of_none hextest hclamp hplain)⟩

theorem tapActs_trace_iff : s.tapActs = tapTrace ↔ s.tap.ir = tapTrace := by
  rcases tapActs_cases (s := s) with ⟨hacts, -⟩ | ⟨hother, hacts | hacts⟩
  · rw [hacts]
  · exact iff_of_false (by rw [hacts]; decide) hother
  · exact iff_of_false (by rw [hacts]; decide) hother

theorem modResetLow_of_tapDrives (h : s.tapDrives = true) : s.pwr.modResetLow = true := by
  rcases tapActs_cases (s := s) with ⟨-, hlow⟩ | ⟨-, hacts | hacts⟩
  · exact hlow h
  · unfold tapDrives at h
    rw [hacts] at h
    exact absurd h (by decide)
  · unfold tapDrives at h
    rw [hacts] at h
    exact absurd h (by decide)

theorem tapReg_trace_iff : s.tapReg = .trace ↔ s.tap.ir = tapTrace := by
  rw [← tapActs_trace_iff]
  unfold tapReg
  refine ⟨fun h => ?_, fun h => ?_⟩
  · by_contra hno
    simp only [if_neg hno] at h
    split at h
    · cases h
    · split at h <;> cases h
  · rw [h]
    rfl

theorem exec_traceEnWrite_of_trace (h : s.pwr.phase = .good) (hir : s.tap.ir = tapTrace) (v : Byte) :
    exec (.traceEnWrite v) s = if v.getLsbD 0 then
        .next { s with tap := { s.tap with traceEn := true, active := s.trayValve, denied := s.tap.denied || !s.trayValve } }
      else .next { s with tap := { s.tap with traceEn := false, active := false, denied := false } } :=
  if_neg fun hno => hno.elim (fun hoff => hoff h) fun hreg => hreg (tapReg_trace_iff.mpr hir)

end

theorem testPort : Claim.TestPort := by
  intro s cells v put
  refine ⟨fun hgood => ?_, fun hoff => ?_, rfl, tapActs_of_extest, tapActs_of_clamp, modResetLow_of_tapDrives⟩
  · have hload : ∀ i, (Host.Outcome.next (s.tapLoad i) : Host.Outcome State Fault Refusal) = .next (put i) := fun i =>
      congrArg Host.Outcome.next (tapLoad_of_good hgood i)
    refine ⟨hload _, hload _, hload _, hload _, hload _, ?_, fun hir hbit hown => ?_, fun hir hbit hown => ?_, fun hir hbit => ?_, fun hir => ?_⟩
    · refine congrArg Host.Outcome.next ((if_pos hgood).trans ?_)
      rw [tapLoad_of_good hgood]
      rfl
    · rw [exec_traceEnWrite_of_trace hgood hir, if_pos hbit, hown, Bool.not_true, Bool.or_false]
    · rw [exec_traceEnWrite_of_trace hgood hir, if_pos hbit, hown, Bool.not_false, Bool.or_true]
    · rw [exec_traceEnWrite_of_trace hgood hir, if_neg (ne_true_of_eq_false hbit)]
    · exact if_pos (.inr fun hreg => hir (tapReg_trace_iff.mp hreg))
  · have hload : ∀ i, (Host.Outcome.next (s.tapLoad i) : Host.Outcome State Fault Refusal) = .next s := fun i =>
      congrArg Host.Outcome.next (tapLoad_of_off hoff i)
    exact ⟨hload _, hload _, hload _, hload _, hload _, (congrArg Host.Outcome.next (if_neg hoff)).trans (hload _), if_pos (.inl hoff)⟩

/-! ## The management port below UDP -/

section
variable {s : State} {own : Bool} {o : Out}

theorem reply_of_own (hanswers : s.answers = true) (hown : own = true) :
    (Host.Outcome.next (if s.answers && own then s.emit o else s) : Host.Outcome State Fault Refusal) = .next (s.emit o) :=
  congrArg Host.Outcome.next (if_pos (by rw [hanswers, hown]; rfl))

theorem silent_of_other (h : s.answers = false ∨ own = false) :
    (Host.Outcome.next (if s.answers && own then s.emit o else s) : Host.Outcome State Fault Refusal) = .next s := by
  refine congrArg Host.Outcome.next (if_neg fun hboth => ?_)
  obtain ⟨hanswers, hown⟩ := Bool.and_eq_true_iff.mp hboth
  exact h.elim (fun h => Bool.false_ne_true (h.symm.trans hanswers)) fun h => Bool.false_ne_true (h.symm.trans hown)

end

theorem portAnswers : Claim.PortAnswers := by
  intro s peer cr v6 a4 a6 data
  refine ⟨fun hgood => congrArg Host.Outcome.next (if_pos hgood), fun hoff => congrArg Host.Outcome.next (if_neg hoff), rfl,
    fun hanswers => ⟨reply_of_own hanswers, fun hown => ⟨reply_of_own hanswers hown, reply_of_own hanswers hown⟩, reply_of_own hanswers⟩,
    fun hsilent => ⟨silent_of_other (.inl hsilent), silent_of_other (.inl hsilent), silent_of_other (.inl hsilent)⟩,
    fun hother => silent_of_other (.inr hother), fun hother => ⟨silent_of_other (.inr hother), silent_of_other (.inr hother)⟩,
    fun hother => silent_of_other (.inr hother), fun hgood hboot hlevel => ?_⟩
  unfold answers
  rw [decide_eq_true hgood, decide_eq_true hboot, decide_eq_true hlevel, Bool.true_and, Bool.true_and, Bool.or_true]

/-- Settles O60: the test port takes its instructions, and the management port answers for its own addresses. -/
theorem pinsAndPort : Obligations.PinsAndPort := ⟨testPort, portAnswers⟩

end Sys2Proof.Machine

end

section
/-! PROOFS. Service requests: gathered from their fragments, forwarded, and answered. -/

namespace Sys2Proof.Machine
open State

/-! ## Traffic that leaves by a port -/

/-- The state without its links. -/
def State.besidesTraffic (s : State) : State := { s with gl := .reset, sums := {} }

section
variable (s : State)

theorem verifyFlit_besidesTraffic (h : FHead) (ps : List Parcel) : (s.verifyFlit h ps).1.besidesTraffic = s.besidesTraffic := by
  unfold verifyFlit
  refine foldl_keeps (fun x : State × List Parcel => x.1.besidesTraffic) (fun _ _ _ => ?_) (s, [])
  dsimp only
  split <;> rfl

theorem queueFlit_besidesTraffic (p : Nat) (h : FHead) (ps : List Parcel) : (s.queueFlit p h ps).besidesTraffic = s.besidesTraffic :=
  (show (s.queueFlit p h ps).besidesTraffic = (s.verifyFlit h ps).1.besidesTraffic from rfl).trans (verifyFlit_besidesTraffic ..)

theorem portFlit_besidesTraffic (p : Nat) (h : FHead) (ps : List Parcel) : (s.portFlit p h ps).besidesTraffic = s.besidesTraffic := by
  unfold portFlit
  split
  · rfl
  · refine (queueFlit_besidesTraffic ..).trans ?_
    unfold flushEdge
    split
    · exact (queueFlit_besidesTraffic ..).trans rfl
    · rfl

theorem sendServicePieces_besidesTraffic (dmod kind : Nat) (reqId : W64) (origin : Nat) (svc : Byte) (seq : W64) (status : W16) (total off : Nat)
    (data : List Byte) : (s.sendServicePieces dmod kind reqId origin svc seq status total off data).besidesTraffic = s.besidesTraffic := by
  unfold sendServicePieces
  refine foldl_keeps besidesTraffic (fun _ _ t => ?_) s
  dsimp only
  unfold sendFlit
  split
  · rfl
  · exact portFlit_besidesTraffic ..

end

/-! ## A request is gathered -/

section
variable {s : State} {r : Req} {off : Nat} {frag : List Byte}

theorem assemble_of_whole (h : frag.length = r.total) : assemble r.total [(0, frag)] 1 [] = some frag := by
  unfold assemble
  split
  · next hzero =>
    have hnil : frag = [] := List.eq_nil_of_length_eq_zero (by rw [h]; exact Nat.le_zero.mp hzero)
    rw [hnil, List.take_nil]
  · next hsome =>
    have hfirst : [(0, frag)].find? (fun p : Nat × List Byte => decide (p.1 ≤ ([] : List Byte).length ∧ ([] : List Byte).length < p.1 + p.2.length)) =
        some (0, frag) := List.find?_cons_of_pos (decide_eq_true ⟨Nat.zero_le _, by simp only [List.length_nil] at hsome ⊢; omega⟩)
    rw [hfirst]
    unfold assemble
    simp only [List.length_nil, Nat.sub_self, List.drop_zero, List.nil_append]
    rw [if_pos (by omega), ← h, List.take_length]

theorem assemble_of_part (h : frag.length < r.total) : assemble r.total [(off, frag)] 1 [] = none := by
  have hmore : ¬r.total ≤ ([] : List Byte).length := by simp only [List.length_nil]; omega
  unfold assemble
  rw [if_neg hmore]
  split
  · rfl
  · next p hp =>
    obtain rfl : (off, frag) = p := (List.mem_singleton.mp (List.mem_of_find?_eq_some hp)).symm
    unfold assemble
    refine if_neg ?_
    simp only [List.nil_append, List.length_drop]
    omega

theorem gatherReq_of_first (hnew : ∀ g ∈ s.svc.frags, r.same g.req = false) : s.gatherReq r off frag =
    match assemble r.total [(off, frag)] 1 [] with
    | some data => { s with svc := { s.svc with waiting := s.svc.waiting ++ [{ r with data }] } }
    | none => { s with svc := { s.svc with frags := s.svc.frags ++ [{ req := r, got := [(off, frag)] }] } } := by
  have hfind : s.svc.frags.find? (fun g => r.same g.req) = none := List.find?_eq_none.mpr fun g hg => ne_true_of_eq_false (hnew g hg)
  have hrest : s.svc.frags.filter (fun g => !r.same g.req) = s.svc.frags := List.filter_eq_self.mpr fun g hg => by rw [hnew g hg]; rfl
  unfold gatherReq
  rw [hfind, hrest] <;> rfl

theorem submitHere_of_whole (hok : s.submitCheck r = none) (hnew : ∀ g ∈ s.svc.frags, r.same g.req = false) (hoff : off = 0)
    (hlen : frag.length = r.total) :
    s.submitHere r off frag = { s with svc := { s.svc with waiting := s.svc.waiting ++ [{ r with data := frag }] } } := by
  unfold submitHere
  rw [hok]
  dsimp only
  rw [gatherReq_of_first hnew, hoff, assemble_of_whole hlen]

theorem submitHere_of_part (hok : s.submitCheck r = none) (hnew : ∀ g ∈ s.svc.frags, r.same g.req = false) (hlen : frag.length < r.total) :
    s.submitHere r off frag = { s with svc := { s.svc with frags := s.svc.frags ++ [{ req := r, got := [(off, frag)] }] } } := by
  unfold submitHere
  rw [hok]
  dsimp only
  rw [gatherReq_of_first hnew, assemble_of_part hlen]

theorem submitHere_of_refused {code : W16} (hcode : s.submitCheck r = some code) (hbusy : code ≠ 0x0302) :
    s.submitHere r off frag = s.replyTo r code 0 0 := by
  unfold submitHere
  rw [hcode]
  exact if_neg hbusy

end

/-! ## A message of the service -/

/-- An accepted message leaves its session's numbers alone behind. -/
theorem accept_some {s u : State} {m : Msg} {k : Session} {body : List Byte} (h : s.accept m true = (u, some (k, body))) :
    u = s.setSession k := by
  unfold accept at h
  split at h
  · cases h
  · next k' _ =>
    split at h
    · cases h
    · split at h
      · cases h
      · dsimp only at h
        rw [if_pos rfl] at h
        by_cases hfresh : seqFresh k'.svcHigh k'.svcSeen m.mseq.toNat = true
        · rw [if_neg (by rw [hfresh]; exact Bool.false_ne_true)] at h
          obtain ⟨hu, hk⟩ := Prod.mk.inj h
          obtain ⟨hk, -⟩ := Prod.mk.inj (Option.some.inj hk)
          rw [← hu, ← hk]
        · rw [if_pos (by rw [eq_false_of_ne_true hfresh]; rfl)] at h
          cases h

section
variable {s u : State} {peer : Peer} {m : Msg} {k : Session} {body : List Byte}

theorem serviceIn_of_served (hready : s.rng.baseReady = true) (haccept : s.accept m true = (u, some (k, body))) (hrole : k.role ≠ .vendor)
    (henc : s.encRequired = true → m.enc = true) : s.serviceIn peer m = (u, some (k, body)) := by
  have hsealed : ¬(u.encRequired = true ∧ m.enc = false) := fun ⟨hreq, hplain⟩ => by
    rw [accept_some haccept] at hreq
    exact Bool.false_ne_true (hplain.symm.trans (henc hreq))
  unfold serviceIn
  dsimp only
  rw [if_neg (by rw [hready]; exact Bool.false_ne_true), haccept]
  dsimp only
  rw [if_neg hrole, if_neg hsealed]

theorem serviceIn_of_starting (hready : s.rng.baseReady = false) (haccept : s.accept m true = (u, none)) : ∃ id,
    s.serviceIn peer m = (u.sendPlain peer portService 0x21 m.mseq (submitReplyBody id 0x0301 0 (s.retryUntil 6000)), none) := by
  refine ⟨BitVec.ofNat 64 (fieldAt m.body 0 8), ?_⟩
  unfold serviceIn
  dsimp only
  rw [if_pos (by rw [hready]; rfl), haccept]

end

theorem exec_submit_of_parsed {s u : State} {peer : Peer} {bytes : List Byte} {m : Msg} {k : Session} {body : List Byte} {q : SubmitMsg} {r : Req}
    (hmsg : s.serviceMsg 0x20 bytes = some m) (hin : s.serviceIn peer m = (u, some (k, body))) (hparse : parseSubmit body = some q)
    (hr : r = { sid := k.sid, peer, reqId := q.reqId, svc := q.svc, total := q.total, data := [],
                origin := BitVec.ofNat 14 u.ownId, since := u.nowMs }) :
    exec (.submit peer bytes) s =
      .next (if q.target = 0xFFFF ∨ q.target = u.ownId then u.submitHere r q.off q.frag else u.submitForward r q) := by
  change execSubmit peer bytes s = _
  unfold execSubmit
  rw [hmsg]
  dsimp only
  rw [hin]
  dsimp only
  rw [hparse, hr]

/-- A request for another module is remembered, and goes on. -/
theorem submitForward_facts {u t : State} {r : Req} {q : SubmitMsg} (ht : u.submitForward r q = t) (hfw : u.fwBusy = false)
    (hpending : u.reqPending r = false) :
    t.svc = { u.svc with fwd := u.svc.fwd ++ [(r, true)] } ∧ t.mem = u.mem ∧ t.cores = u.cores := by
  have hnew : (u.svc.fwd.any fun x => x.2 && r.same x.1) = false := by
    unfold reqPending at hpending
    simp only [Bool.or_eq_false_iff] at hpending
    obtain ⟨⟨⟨-, hfwd⟩, -⟩, -⟩ := hpending
    exact hfwd
  obtain ⟨v, hv⟩ : ∃ v : State, v = { u with svc := { u.svc with fwd := u.svc.fwd ++ [(r, true)] } } := ⟨_, rfl⟩
  have hsend : t = v.sendServicePieces (q.target % 16384) 1 q.reqId v.ownId q.svc 0 0 q.total q.off q.frag := by
    rw [← ht, hv]
    unfold submitForward
    dsimp only
    rw [if_neg (ne_true_of_eq_false hfw), hnew, hpending, if_neg (by decide), if_neg Bool.false_ne_true]
  have hframe := sendServicePieces_besidesTraffic v (q.target % 16384) 1 q.reqId v.ownId q.svc 0 0 q.total q.off q.frag
  rw [← hsend] at hframe
  have hsvc : t.svc = v.svc := (congrArg State.svc hframe :)
  have hmem : t.mem = v.mem := (congrArg State.mem hframe :)
  have hcores : t.cores = v.cores := (congrArg State.cores hframe :)
  rw [hv] at hsvc hmem hcores
  exact ⟨hsvc, hmem, hcores⟩

theorem submitsGather : Claim.SubmitsGather := by
  intro s u peer bytes m k body q r own
  refine ⟨fun hmsg hready haccept hrole henc hparse => ?_, fun hmsg hready haccept => ?_, fun hnone => ?_, fun sid id => ⟨_, rfl, rfl, fun g hg => ?_⟩⟩
  · have hu := accept_some haccept
    have hr : r = { sid := k.sid, peer, reqId := q.reqId, svc := q.svc, total := q.total, data := [],
                    origin := BitVec.ofNat 14 u.ownId, since := u.nowMs } := by
      rw [hu]
      rfl
    have hown : (q.target = 0xFFFF ∨ q.target = u.ownId) ↔ own := by
      rw [hu]
      exact Iff.rfl
    have hsame : u.svc = s.svc ∧ u.mem = s.mem ∧ u.cores = s.cores ∧ u.fwBusy = s.fwBusy := by
      rw [hu]
      exact ⟨rfl, rfl, rfl, rfl⟩
    have hexec := exec_submit_of_parsed hmsg (serviceIn_of_served hready haccept hrole henc) hparse hr
    clear_value r own
    obtain ⟨hsvc, hmem, hcores, hfw⟩ := hsame
    have hfrags : u.svc.frags = s.svc.frags := congrArg (·.frags) hsvc
    have htotal : r.total = q.total := by rw [hr]
    refine ⟨fun hmine hok hnew => ⟨fun hoff hlen => ?_, fun hlen => ?_⟩, fun code hmine hcode hbusy => ?_, fun hother hidle hpending => ?_⟩
    · rw [hexec, if_pos (hown.mpr hmine), submitHere_of_whole hok (by rw [hfrags]; exact hnew) hoff (hlen.trans htotal.symm)]
    · rw [hexec, if_pos (hown.mpr hmine), submitHere_of_part hok (by rw [hfrags]; exact hnew) (by rw [htotal]; exact hlen)]
    · rw [hexec, if_pos (hown.mpr hmine), submitHere_of_refused hcode hbusy]
    · rw [if_neg fun h => hother (hown.mp h)] at hexec
      obtain ⟨h1, h2, h3⟩ := submitForward_facts (q := q) rfl (hfw.trans hidle) hpending
      refine ⟨_, hexec, ?_, h2.trans hmem, h3.trans hcores⟩
      rw [h1, hsvc]
  · obtain ⟨id, hin⟩ := serviceIn_of_starting (peer := peer) hready haccept
    refine ⟨id, ?_⟩
    change execSubmit peer bytes s = _
    unfold execSubmit
    rw [hmsg]
    dsimp only
    rw [hin]
  · change execSubmit peer bytes s = _
    unfold execSubmit
    rw [hnone]
  · simp only [List.mem_filter, hg, true_and, Bool.not_eq_true', Bool.and_eq_false_iff, decide_eq_false_iff_not]
    tauto

/-! ## Requests and results of other modules -/

section
variable {u : State} {c : Req} {live : Bool} {kind : Nat} {head frag : List Byte}

theorem serviceBack_of_unknown (h : ∀ x ∈ u.svc.fwd, x.1.reqId ≠ BitVec.ofNat 64 (fieldAt head 1 8)) : u.serviceBack kind head frag = u := by
  have hnil : u.svc.fwd.filter (fun x => x.1.reqId = BitVec.ofNat 64 (fieldAt head 1 8)) = [] :=
    List.filter_eq_nil_iff.mpr fun x hx he => h x hx (of_decide_eq_true he)
  unfold serviceBack
  dsimp only
  rw [hnil]
  rfl

/-- What returns to the client of a forwarded request. -/
theorem serviceBack_of_known (h : (u.svc.fwd.filter fun x => x.1.reqId = BitVec.ofNat 64 (fieldAt head 1 8)).head? = some (c, live)) :
    u.serviceBack kind head frag =
      if kind = 3 then
        (if BitVec.ofNat 16 (fieldAt head 28 2) = (0 : W16) then u
          else { u with svc := { u.svc with fwd := u.svc.fwd.filter fun x => !c.same x.1 } }).sendService c.sid c.peer 0x21
          (submitReplyBody (BitVec.ofNat 64 (fieldAt head 1 8)) (BitVec.ofNat 16 (fieldAt head 28 2)) (BitVec.ofNat 64 (fieldAt head 20 8)) 0)
      else
        (if decide (fieldAt head 12 4 ≤ fieldAt head 16 4 + frag.length) = true
          then { u with svc := { u.svc with fwd := (u.svc.fwd.filter fun x => !c.same x.1) ++ [(c, false)] } } else u).sendService c.sid c.peer 0x22
          (resultBody (BitVec.ofNat 64 (fieldAt head 1 8)) (BitVec.ofNat 64 (fieldAt head 20 8)) (BitVec.ofNat 16 (fieldAt head 28 2))
            (fieldAt head 12 4) (fieldAt head 16 4) frag) := by
  unfold serviceBack
  dsimp only
  rw [h]

end

theorem forwardedRequests : Claim.ForwardedRequests := by
  intro s p f rest c live h u ps head kind id total off left frag seq status r others ends
  have hexec : (s.gport p.val).edge = f :: rest → h.ftype = 6 → exec (.service p) s =
      if !u.rng.baseReady then .next u
      else if kind = 1 then .next (u.submitHere r off frag)
      else if kind = 2 ∨ kind = 3 then .next (u.serviceBack kind head frag)
      else .next u := fun hedge htype => by
    change execService p s = _
    unfold execService
    rw [takeFlit_of_type hedge htype]
    rfl
  have hnothing : ∀ {q : Prop}, (q → s.takeFlit p.val 6 = none) → q → exec (.service p) s = .next s := fun hq h => by
    change execService p s = _
    unfold execService
    rw [hq h]
  have hbase : u.rng.baseReady = s.rng.baseReady := rfl
  have hsvc : u.svc = s.svc := rfl
  refine ⟨hnothing fun hedge => takeFlit_of_none (f := f) (rest := rest) (.inl hedge),
    fun hedge htype => hnothing (fun htype => takeFlit_of_none (.inr ⟨hedge, htype⟩)) htype, fun hedge htype hready => ?_, fun hedge htype hready => ?_⟩
  · rw [hexec hedge htype, if_pos (by rw [hbase, hready]; rfl)]
  · have hgo := (hexec hedge htype).trans (if_neg (by rw [hbase, hready]; exact Bool.false_ne_true))
    have hback : kind = 2 ∨ kind = 3 → exec (.service p) s = .next (u.serviceBack kind head frag) := fun hkind =>
      hgo.trans ((if_neg (by omega)).trans (if_pos hkind))
    refine ⟨fun hkind hok hnew => ⟨fun hoff hlen => ?_, fun hlen => ?_⟩, fun code hkind hcode hbusy => ?_, fun hknown => ⟨fun hkind hstatus => ?_,
      fun hkind hstatus => ?_, fun hkind hlast => ?_, fun hkind hmore => ?_⟩, fun hkind hunknown => ?_, fun h1 h2 h3 => ?_⟩
    · rw [hgo, if_pos hkind, submitHere_of_whole hok hnew hoff hlen]
    · rw [hgo, if_pos hkind, submitHere_of_part hok hnew hlen]
    · rw [hgo, if_pos hkind, submitHere_of_refused hcode hbusy]
    · rw [hback (.inr hkind), serviceBack_of_known (u := u) hknown, if_pos hkind, if_neg hstatus]
      rfl
    · rw [hback (.inr hkind), serviceBack_of_known (u := u) hknown, if_pos hkind, if_pos hstatus, show BitVec.ofNat 16 (fieldAt head 28 2) = 0 from hstatus]
    · rw [hback (.inl hkind), serviceBack_of_known (u := u) hknown, if_neg (by omega), if_pos (decide_eq_true hlast)]
      rfl
    · rw [hback (.inl hkind), serviceBack_of_known (u := u) hknown, if_neg (by omega), if_neg (ne_true_of_eq_false (decide_eq_false (Nat.not_le.mpr hmore)))]
    · rw [hback hkind, serviceBack_of_unknown (u := u) hunknown]
    · exact hgo.trans ((if_neg h1).trans (if_neg fun h => h.elim h2 h3))

/-- Settles O56: a request is gathered from its fragments, or goes on to its module, and what returns goes to its client. -/
theorem requestsAreGathered : Obligations.RequestsAreGathered := ⟨submitsGather, forwardedRequests⟩

end Sys2Proof.Machine

end

section
/-! PROOFS. Admission: the request's data and header on their way to the input slot, and its open result. -/

namespace Sys2Proof.Machine
open State

/-! ## A parcel on its way to a slot of the service -/

/-- The write of one parcel that the front end asks for. -/
def slotReq (ch : BitVec 4) (a : Nat) (d : BitVec 256) : SReq :=
  { wr := true, addr := a, mask := fullMask, data := d.toNat, poison := false, cclass := 0, check := some (madeParcel d 0 a).check,
    who := .slotW ch.toNat, sees := none, src := some slotKey }

/-- That write as it waits at the edge router of port 0. -/
def State.slotBeat (s : State) (ch : BitVec 4) (a : Nat) (d : BitVec 256) : QBeat :=
  { avail := s.now, taken := false,
    beat := mkBeat ((placeExit a).getD 0) [{ flow := .request (slotReq ch a d), addr := a, parcel := madeParcel d 0 a }] }

/-- Beats added where the front end's beats wait. -/
def State.queuedSlots (s : State) (qs : List QBeat) : State :=
  { s with trail := { s.trail with srcq := Sparse.set [] s.trail.srcq slotKey (s.srcAt slotKey ++ qs) } }

/-- A place that takes the front end's parcel over the Trail. -/
def State.takesSlot (s : State) (x : Nat) : Prop := s.writable x = true ∧ s.inListRange x = false ∧ (State.placeExit x).isSome = true

section
variable {s : State} {ch : BitVec 4} {a : Nat} {d : BitVec 256}

theorem queuedSlots_append (qs rs : List QBeat) : (s.queuedSlots qs).queuedSlots rs = s.queuedSlots (qs ++ rs) := by
  unfold queuedSlots srcAt
  dsimp only
  rw [Sparse.get_set_same, Sparse.set_set, List.append_assoc]

theorem slotPut_of_takes (h : s.takesSlot a) : s.slotPut ch a d = (s.queuedSlots [s.slotBeat ch a d], false) := by
  obtain ⟨hwritable, hlist, hexit⟩ := h
  obtain ⟨x, hx⟩ := Option.isSome_iff_exists.mp hexit
  have hpkt : s.pktExit { flow := .request (slotReq ch a d), addr := a, parcel := madeParcel d 0 a } = some x := hx
  have hbeat : s.slotBeat ch a d =
      { avail := s.now, taken := false, beat := mkBeat x [{ flow := .request (slotReq ch a d), addr := a, parcel := madeParcel d 0 a }] } := by
    unfold slotBeat
    rw [hx]
    rfl
  unfold slotPut
  dsimp only
  rw [if_neg (by rw [hwritable]; exact Bool.false_ne_true), if_neg (by rw [hlist]; exact Bool.false_ne_true), hbeat]
  exact congrArg (·, false) (putPkt_of_exit hpkt slotKey s.now)

theorem mkBeat_slotReq (x : Nat) : mkBeat x [{ flow := .request (slotReq ch a d), addr := a, parcel := madeParcel d 0 a }] =
    { kind := 0, vmask := 1, hdr := BitVec.ofNat 58 (a % 2 ^ 42), ps := [madeParcel d 0 a], integer := false, sat := false,
      pkts := [{ flow := .request (slotReq ch a d), addr := a, parcel := madeParcel d 0 a }], dst := x } := rfl

/-- What the beat of a parcel for a slot is. -/
theorem slotBeat_facts (h : (placeExit a).isSome = true) : (s.slotBeat ch a d).avail = s.now ∧ (s.slotBeat ch a d).taken = false ∧
    placeExit a = some (s.slotBeat ch a d).beat.dst ∧ (s.slotBeat ch a d).beat.kind = 0 ∧ (s.slotBeat ch a d).beat.vmask = 1 ∧
    (s.slotBeat ch a d).beat.hdr = BitVec.ofNat 58 (a % 2 ^ 42) ∧ (s.slotBeat ch a d).beat.ps = [madeParcel d 0 a] := by
  obtain ⟨x, hx⟩ := Option.isSome_iff_exists.mp h
  unfold slotBeat
  rw [mkBeat_slotReq, hx]
  exact ⟨rfl, rfl, rfl, rfl, rfl, rfl, rfl⟩

end

/-! ## The data of a request -/

/-- The step of an admission that puts one parcel. -/
def slotStep (v : SvcRec) (x : State × Nat) (p : Nat × BitVec 256) : State × Nat :=
  let q := x.1.slotPut v.ch (v.input + 32 + 32 * p.1) p.2
  (q.1, if q.2 then x.2 else x.2 + 1)

theorem slotSteps_of_takes {s : State} {v : SvcRec} : ∀ (ps : List (Nat × BitVec 256)) (done : List QBeat) (n : Nat),
    (∀ p ∈ ps, s.takesSlot (v.input + 32 + 32 * p.1)) →
    ps.foldl (slotStep v) (s.queuedSlots done, n) =
      (s.queuedSlots (done ++ ps.map fun p => s.slotBeat v.ch (v.input + 32 + 32 * p.1) p.2), n + ps.length) := by
  intro ps
  induction ps with
  | nil =>
    intro done n _
    rw [List.map_nil, List.append_nil]
    rfl
  | cons p ps ih =>
    intro done n hall
    have hput : slotStep v (s.queuedSlots done, n) p = (s.queuedSlots (done ++ [s.slotBeat v.ch (v.input + 32 + 32 * p.1) p.2]), n + 1) := by
      have htakes : (s.queuedSlots done).takesSlot (v.input + 32 + 32 * p.1) := hall p List.mem_cons_self
      unfold slotStep
      dsimp only
      rw [slotPut_of_takes htakes, queuedSlots_append]
      rfl
    rw [List.foldl_cons, hput, ih _ _ fun q hq => hall q (List.mem_cons_of_mem _ hq), List.map_cons, List.append_assoc, List.length_cons]
    exact Prod.ext rfl (Nat.add_right_comm n 1 ps.length)

/-- The parcels of a request's data, with their places. -/
def dataParcels (r : Req) : List (Nat × BitVec 256) := (List.range ((r.data.length + 31) / 32)).zip (toParcels r.data)

theorem dataParcels_eq (r : Req) :
    dataParcels r = (List.range ((r.data.length + 31) / 32)).map fun i => (i, bytesParcel (slice r.data (32 * i) 32)) := by
  unfold dataParcels toParcels
  generalize List.range _ = l
  induction l with
  | nil => rfl
  | cons i l ih => rw [List.map_cons, List.zip_cons_cons, ih, List.map_cons]

/-- The admission whose data is on its way. -/
def admOf (r : Req) (v : SvcRec) (left : Nat) : Adm := { ch := v.ch, req := r, slot := v.input, left, seq := none }

/-- The request waits no longer, and its channel admits it. -/
def State.admitting (s : State) (r : Req) (a : Adm) : State :=
  { s with svc := { s.svc with waiting := s.svc.waiting.erase r, adm := s.svc.adm ++ [a] } }

theorem beginAdmission_eq (s : State) (r : Req) (v : SvcRec) : s.beginAdmission r v =
    if ((dataParcels r).foldl (slotStep v) (s, 0)).2 = 0 then
      (((dataParcels r).foldl (slotStep v) (s, 0)).1.admitting r (admOf r v ((dataParcels r).foldl (slotStep v) (s, 0)).2)).sendHeader
        (admOf r v ((dataParcels r).foldl (slotStep v) (s, 0)).2)
    else ((dataParcels r).foldl (slotStep v) (s, 0)).1.admitting r (admOf r v ((dataParcels r).foldl (slotStep v) (s, 0)).2) := rfl

/-- The beats of a request's data. -/
def State.dataBeats (s : State) (r : Req) (v : SvcRec) : List QBeat :=
  (dataParcels r).map fun p => s.slotBeat v.ch (v.input + 32 + 32 * p.1) p.2

section
variable {s : State} {r : Req} {v : SvcRec}

theorem dataParcels_length : (dataParcels r).length = (r.data.length + 31) / 32 := by
  rw [dataParcels_eq, List.length_map, List.length_range]

theorem slotSteps_of_data (hsome : 0 < (r.data.length + 31) / 32) (hall : ∀ i < (r.data.length + 31) / 32, s.takesSlot (v.input + 32 + 32 * i)) :
    (dataParcels r).foldl (slotStep v) (s, 0) = (s.queuedSlots (s.dataBeats r v), (r.data.length + 31) / 32) := by
  have htakes : ∀ p ∈ dataParcels r, s.takesSlot (v.input + 32 + 32 * p.1) := fun p hp => by
    rw [dataParcels_eq] at hp
    obtain ⟨i, hi, rfl⟩ := List.mem_map.mp hp
    exact hall i (List.mem_range.mp hi)
  have hlen := dataParcels_length (r := r)
  unfold dataBeats
  generalize dataParcels r = ps at htakes hlen ⊢
  cases ps with
  | nil => exact absurd hlen (Nat.ne_of_lt hsome)
  | cons p ps =>
    have hput : slotStep v (s, 0) p = (s.queuedSlots [s.slotBeat v.ch (v.input + 32 + 32 * p.1) p.2], 1) := by
      unfold slotStep
      dsimp only
      rw [slotPut_of_takes (htakes p List.mem_cons_self)]
      rfl
    rw [List.foldl_cons, hput, slotSteps_of_takes _ _ _ fun q hq => htakes q (List.mem_cons_of_mem _ hq), List.map_cons, ← hlen, List.length_cons]
    exact Prod.ext rfl (Nat.add_comm 1 ps.length)

theorem beginAdmission_of_data (hsome : 0 < (r.data.length + 31) / 32)
    (hall : ∀ i < (r.data.length + 31) / 32, s.takesSlot (v.input + 32 + 32 * i)) :
    s.beginAdmission r v = (s.queuedSlots (s.dataBeats r v)).admitting r (admOf r v ((r.data.length + 31) / 32)) := by
  rw [beginAdmission_eq, slotSteps_of_data hsome hall]
  exact if_neg (Nat.ne_of_gt hsome)

theorem beginAdmission_of_empty (hnone : (r.data.length + 31) / 32 = 0) :
    s.beginAdmission r v = (s.admitting r (admOf r v 0)).sendHeader (admOf r v 0) := by
  have hnil : dataParcels r = [] := by
    rw [dataParcels_eq, hnone]
    rfl
  rw [beginAdmission_eq, hnil]
  rfl

theorem dataBeats_getElem {i : Nat} {b : QBeat} (h : (s.dataBeats r v)[i]? = some b) :
    i < (r.data.length + 31) / 32 ∧ b = s.slotBeat v.ch (v.input + 32 + 32 * i) (bytesParcel (slice r.data (32 * i) 32)) := by
  have hlt : i < (r.data.length + 31) / 32 := by
    obtain ⟨hlt, -⟩ := List.getElem?_eq_some_iff.mp h
    unfold dataBeats at hlt
    rw [List.length_map, dataParcels_length] at hlt
    exact hlt
  refine ⟨hlt, ?_⟩
  unfold dataBeats at h
  rw [dataParcels_eq, List.map_map, List.getElem?_map, List.getElem?_range hlt] at h
  exact (Option.some.inj h).symm

end

/-! ## The header of a request -/

/-- The number of the next request. -/
def State.nextNumber (s : State) : W64 := BitVec.ofNat 64 (s.log.epoch * 2 ^ 40 + s.log.count)

/-- The number is taken, before the header is put. -/
def State.numbered (s : State) (a : Adm) : State :=
  let s' : State := { s with
    log := { s.log with count := s.log.count + 1 },
    svc := { s.svc with adm := s.svc.adm.map fun (x : Adm) => if x.ch = a.ch then { a with seq := some s.nextNumber } else x } }
  if countEnd ≤ s.log.count + 1 ∧ epochLast ≤ s.log.epoch then s'.alert .epochEnd else s'

theorem sendHeader_of_room {s : State} (a : Adm) (h : s.log.count < 2 ^ 40) : s.sendHeader a =
    if ((s.numbered a).slotPut a.ch a.slot (inputHeader s.nextNumber a.req)).2 then
      ((s.numbered a).slotPut a.ch a.slot (inputHeader s.nextNumber a.req)).1.admitReq { a with seq := some s.nextNumber } s.nextNumber
    else ((s.numbered a).slotPut a.ch a.slot (inputHeader s.nextNumber a.req)).1 := if_neg (Nat.not_le.mpr h)

theorem numbered_besidesAlerts (s : State) (a : Adm) : (s.numbered a).besidesAlerts = { s.besidesAlerts with
    log := { s.log with count := s.log.count + 1 },
    svc := { s.svc with adm := s.svc.adm.map fun (x : Adm) => if x.ch = a.ch then { a with seq := some s.nextNumber } else x } } := by
  unfold numbered
  dsimp only
  split
  · exact (alert_besidesAlerts ..).trans rfl
  · rfl

/-- A header on its way: its beat, the number taken, and nothing else of the memory, the cores and what is sent. -/
theorem sendHeader_facts {s t : State} {a : Adm} (ht : s.sendHeader a = t) (hcount : s.log.count < 2 ^ 40) (htakes : s.takesSlot a.slot) :
    t.trail = (s.queuedSlots [s.slotBeat a.ch a.slot (inputHeader s.nextNumber a.req)]).trail ∧
      t.log = { s.log with count := s.log.count + 1 } ∧ t.mem = s.mem ∧ t.cores = s.cores ∧ t.out = s.out ∧
      t.svc = { s.svc with adm := s.svc.adm.map fun (x : Adm) => if x.ch = a.ch then { a with seq := some s.nextNumber } else x } := by
  have hframe := numbered_besidesAlerts s a
  have hsend := sendHeader_of_room a hcount
  rw [ht] at hsend
  generalize s.numbered a = u at hframe hsend
  have hslot : u.takesSlot a.slot := (show u.takesSlot a.slot = s.takesSlot a.slot from (congrArg (fun w : State => w.takesSlot a.slot) hframe :)).mpr htakes
  rw [slotPut_of_takes hslot, if_neg Bool.false_ne_true] at hsend
  have htrail : u.trail = s.trail := (congrArg State.trail hframe :)
  have hnow : u.now = s.now := (congrArg State.now hframe :)
  have hsrc : u.srcAt slotKey = s.srcAt slotKey := (congrArg (fun w : State => w.srcAt slotKey) hframe :)
  refine ⟨?_, ?_, ?_, ?_, ?_, ?_⟩
  · rw [hsend]
    unfold queuedSlots slotBeat
    dsimp only
    rw [htrail, hnow, hsrc]
  · rw [hsend]
    exact (congrArg State.log hframe :)
  · rw [hsend]
    exact (congrArg State.mem hframe :)
  · rw [hsend]
    exact (congrArg State.cores hframe :)
  · rw [hsend]
    exact (congrArg State.out hframe :)
  · rw [hsend]
    exact (congrArg State.svc hframe :)

/-! ## The admission -/

/-- The open result that an admission begins. -/
def State.opened (s : State) (a : Adm) (seq : W64) : OpenRes :=
  { req := a.req, seq, admitted := s.now, settings := s.settingsHash, train := s.log.train, input := inputDigest a.req.data,
    devs := s.log.stepDevs, mode := s.logMode,
    scout := (scoutLayers (sectBytes s.pack.installed 1)).foldl (fun m l => Sparse.set [] m l.1 (s.thresholdOf l.1)) [],
    scoutDis := BitVec.ofNat 256 (leNat s.scoutBits) }

theorem scout_of_layer (f : Nat → List Byte) {n : Nat} : ∀ (l : List (Nat × Nat × W32)) (m : List (Nat × List Byte)),
    ((∃ x ∈ l, x.1 = n) ∨ Sparse.get [] m n = f n) →
    Sparse.get [] (l.foldl (fun (m : List (Nat × List Byte)) x => Sparse.set [] m x.1 (f x.1)) m) n = f n := by
  intro l
  induction l with
  | nil =>
    rintro m (⟨x, hx, -⟩ | h)
    · exact absurd hx List.not_mem_nil
    · exact h
  | cons y l ih =>
    intro m h
    refine ih _ ?_
    by_cases hy : y.1 = n
    · subst hy
      exact .inr (Sparse.get_set_same ..)
    · refine h.imp (fun ⟨x, hx, hxn⟩ => ?_) fun h => (Sparse.get_set_other _ _ _ hy).trans h
      exact ⟨x, (List.mem_cons.mp hx).resolve_left fun he => hy (by rw [← he, hxn]), hxn⟩

theorem admitReq_facts {s t : State} {a : Adm} {seq : W64} (ht : s.admitReq a seq = t) :
    t.log.lastSeq = seq ∧ Sparse.get none t.log.open_ a.ch.toNat = some (s.opened a seq) ∧
      (∀ c : Nat, c ≠ a.ch.toNat → Sparse.get none t.log.open_ c = Sparse.get none s.log.open_ c) ∧
      t.svc.adm = s.svc.adm.filter (fun x => x.ch ≠ a.ch) ∧ t.svc.scoutDis = (s.opened a seq).scoutDis ∧ t.log.count = s.log.count ∧
      t.mem = s.mem ∧ t.cores = s.cores := by
  obtain ⟨u, hu, hlast, hopen, hadm, hdis, hcount, hmem, hcores⟩ : ∃ u : State, s.admitReq a seq = u.replyTo a.req 0 seq 0 ∧
      u.log.lastSeq = seq ∧ u.log.open_ = Sparse.set none s.log.open_ a.ch.toNat (some (s.opened a seq)) ∧
      u.svc.adm = s.svc.adm.filter (fun x => x.ch ≠ a.ch) ∧ u.svc.scoutDis = (s.opened a seq).scoutDis ∧ u.log.count = s.log.count ∧
      u.mem = s.mem ∧ u.cores = s.cores := ⟨_, rfl, rfl, rfl, rfl, rfl, rfl, rfl, rfl⟩
  have hframe := u.replyTo_besidesReplies a.req 0 seq 0
  rw [← hu, ht] at hframe
  have hlog : t.log = u.log := (congrArg State.log hframe :)
  have hsvc : t.svc = u.svc := (congrArg State.svc hframe :)
  rw [hlog, hsvc, hopen]
  exact ⟨hlast, Sparse.get_set_same .., fun c hc => Sparse.get_set_other _ _ _ (Ne.symm hc), hadm, hdis, hcount,
    (congrArg State.mem hframe :).trans hmem, (congrArg State.cores hframe :).trans hcores⟩

section
variable {s : State} {ch : BitVec 4} {r : Req} {v : SvcRec} {a : Adm}

theorem ch_of_nextFor (h : s.nextFor ch = some (r, v)) : v.ch = ch := by
  obtain ⟨x, -, hx⟩ := List.exists_of_findSome?_eq_some h
  split at hx
  · split at hx
    · next hch =>
      obtain ⟨-, rfl⟩ := Prod.mk.inj (Option.some.inj hx)
      exact hch
    · cases hx
  · cases hx

theorem exec_admission_of_free (h : ∀ x ∈ s.svc.adm, x.ch ≠ ch) : exec (.admission ch) s =
    match s.nextFor ch with
    | none => .next s
    | some (r, v) =>
      if s.mayAdmit ch && decide (s.log.count < countEnd) && s.slotRoom r v then .next (s.beginAdmission r v) else .next s := by
  have hnone : s.svc.adm.find? (fun a => decide (a.ch = ch)) = none :=
    List.find?_eq_none.mpr fun x hx => ne_true_of_eq_false (decide_eq_false (h x hx))
  change execAdmission ch s = _
  unfold execAdmission
  rw [hnone] <;> rfl

theorem exec_admission_of_waiting (h : ∀ x ∈ s.svc.adm, x.ch ≠ ch) (hnext : s.nextFor ch = some (r, v)) : exec (.admission ch) s =
    if s.mayAdmit ch && decide (s.log.count < countEnd) && s.slotRoom r v then .next (s.beginAdmission r v) else .next s := by
  rw [exec_admission_of_free h, hnext]

theorem exec_admission_of_begun (h : s.svc.adm.find? (fun x => x.ch = ch) = some a) : exec (.admission ch) s =
    if a.seq.isNone && decide (a.left = 0) then .next (s.sendHeader a) else .next s := by
  change execAdmission ch s = _
  unfold execAdmission
  rw [h]

theorem ch_of_adm (h : s.svc.adm.find? (fun x => x.ch = ch) = some a) : a.ch = ch := of_decide_eq_true (List.find?_some h :)

theorem slotLanded_of_adm (h : s.svc.adm.find? (fun x => x.ch = ch) = some a) : s.slotLanded ch.toNat =
    match a.seq with
    | some seq => s.admitReq a seq
    | none =>
      if a.left - 1 = 0 then ({ s with svc := { s.svc with adm := s.svc.adm.map fun (x : Adm) => if x.ch = a.ch then { a with left := a.left - 1 } else x } } : State).sendHeader { a with left := a.left - 1 }
      else { s with svc := { s.svc with adm := s.svc.adm.map fun (x : Adm) => if x.ch = a.ch then { a with left := a.left - 1 } else x } } := by
  have hfind : s.svc.adm.find? (fun x => decide (x.ch.toNat = ch.toNat)) = some a := by
    rw [← h]
    refine congrArg (fun p : Adm → Bool => s.svc.adm.find? p) (funext fun x => ?_)
    exact decide_eq_decide.mpr ⟨fun he => BitVec.eq_of_toNat_eq he, fun he => congrArg BitVec.toNat he⟩
  unfold slotLanded
  rw [hfind] <;> rfl

theorem epochRollover_of_due (hwait : s.epochWaits = true) (hepoch : s.log.epoch < 0xFFFFFF) (hretry : s.log.retryAt ≤ s.nowMs)
    (hlisten : s.listening = true) (hstore : s.rng.store = none) (h : Holdup) : exec (.epochRollover h) s =
    match (s.alert .epochWait).holdCheck h needParam with
    | (t, some _) => .next { t with log := { t.log with retryAt := t.nowMs + 1000 } }
    | (t, none) => .next (t.beginStore .epochRoll .nobody) := by
  have hdue : (s.epochWaits && decide (s.log.epoch < epochLast ∧ s.log.retryAt ≤ s.nowMs) && s.listening && s.rng.store.isNone) = true := by
    rw [hwait, hlisten, hstore, decide_eq_true ⟨hepoch, hretry⟩]
    rfl
  change execEpochRollover h s = _
  unfold execEpochRollover
  rw [if_pos hdue] <;> rfl

end

/-- An entry that a list does not have yet is replaced at its end. -/
theorem map_of_last {l : List Adm} {ch : BitVec 4} (h : ∀ x ∈ l, x.ch ≠ ch) {a : Adm} (ha : a.ch = ch) (b : Adm) :
    (l ++ [a]).map (fun x => if x.ch = ch then b else x) = l ++ [b] := by
  have hkeep : l.map (fun x => if x.ch = ch then b else x) = l :=
    (List.map_congr_left fun x hx => if_neg (h x hx)).trans (List.map_id' l)
  rw [List.map_append, hkeep]
  exact congrArg (fun x => l ++ [x]) (if_pos ha)

theorem admissionTakesTheNextNumber : Claim.AdmissionTakesTheNextNumber := by
  intro s ch r v a h n number ok put queued header free mine
  refine ⟨fun hfree hmay hcount hroom hinput hdata => ?_, fun hfree hwhy => ?_, fun hfree hnone => ?_, fun hmine hseq hleft hcount hslot => ?_,
    fun hmine hwhy => ?_, fun hmine hseq hleft => ?_, fun hmine seq hseq => ?_, fun hwait hepoch hretry hlisten hstore => ?_, fun hwhy => ?_⟩
  · obtain ⟨hnone, hnext⟩ := hfree
    obtain rfl := ch_of_nextFor hnext
    have hexec := exec_admission_of_waiting hnone hnext
    rw [if_pos (by rw [hmay, hroom, decide_eq_true (show s.log.count < countEnd from hcount)]; rfl)] at hexec
    refine ⟨fun hsome => ?_, fun hzero => ?_⟩
    · rw [beginAdmission_of_data hsome hdata] at hexec
      refine ⟨s.dataBeats r v, ?_, fun i b hb => ?_, hexec⟩
      · exact (List.length_map _).trans dataParcels_length
      · obtain ⟨hi, rfl⟩ := dataBeats_getElem hb
        exact slotBeat_facts (hdata i hi).2.2
    · rw [beginAdmission_of_empty hzero] at hexec
      obtain ⟨htrail, hlog, hmem, hcores, hout, hsvc⟩ := sendHeader_facts (s := s.admitting r (admOf r v 0)) (a := admOf r v 0) rfl hcount hinput
      refine ⟨_, hexec, ⟨_, slotBeat_facts hinput.2.2, htrail, hlog, hmem, hcores, hout⟩, hsvc.trans ?_⟩
      exact congrArg (fun l => ({ s.svc with waiting := s.svc.waiting.erase r, adm := l } : Svc)) (map_of_last hnone (a := admOf r v 0) rfl _)
  · obtain ⟨hnone, hnext⟩ := hfree
    rw [exec_admission_of_waiting hnone hnext]
    refine if_neg fun hgo => ?_
    rw [Bool.and_eq_true, Bool.and_eq_true, decide_eq_true_eq] at hgo
    obtain ⟨⟨hmay, hcount⟩, hroom⟩ := hgo
    rcases hwhy with hno | hend | hfull
    · exact Bool.false_ne_true (hno.symm.trans hmay)
    · exact Nat.not_le.mpr hcount hend
    · exact Bool.false_ne_true (hfull.symm.trans hroom)
  · rw [exec_admission_of_free hfree, hnone]
  · obtain rfl := ch_of_adm hmine
    have hexec := exec_admission_of_begun hmine
    rw [if_pos (by rw [hseq, hleft]; rfl)] at hexec
    obtain ⟨htrail, hlog, hmem, hcores, hout, hsvc⟩ := sendHeader_facts (a := a) rfl hcount hslot
    exact ⟨_, hexec, ⟨_, slotBeat_facts hslot.2.2, htrail, hlog, hmem, hcores, hout⟩, hsvc⟩
  · rw [exec_admission_of_begun hmine]
    by_cases hgo : (a.seq.isNone && decide (a.left = 0)) = true
    · rw [if_pos hgo]
      rw [Bool.and_eq_true, decide_eq_true_eq] at hgo
      obtain ⟨hnone, hleft⟩ := hgo
      rcases hwhy with hseq | hmore | hend
      · exact absurd (Option.isNone_iff_eq_none.mp hnone) hseq
      · exact absurd hleft hmore
      · exact congrArg Host.Outcome.next (if_pos hend)
    · exact if_neg hgo
  · refine (slotLanded_of_adm hmine).trans ?_
    rw [hseq, ch_of_adm hmine]
    exact if_neg (by omega)
  · have hch := ch_of_adm hmine
    have hland : s.wrote (.slotW ch.toNat) = s.admitReq a seq := by
      refine (slotLanded_of_adm hmine).trans ?_
      rw [hseq]
    obtain ⟨hlast, hopen, hothers, hadm, hdis, hnum, hmem, hcores⟩ := admitReq_facts (s := s) (a := a) (seq := seq) rfl
    rw [hch] at hopen hothers hadm
    refine ⟨_, _, hland.symm, hlast, hopen, rfl, rfl, rfl, rfl, rfl, rfl, rfl, rfl, rfl, fun l hl => ?_, hothers, hadm, hdis, hnum, hmem, hcores⟩
    exact scout_of_layer s.thresholdOf _ [] (.inl ⟨l, hl, rfl⟩)
  · have halert := mem_alert_self s .epochWait
    have hframe := alert_besidesAlerts s .epochWait
    have hexec := epochRollover_of_due hwait hepoch hretry hlisten hstore h
    generalize s.alert .epochWait = u at halert hframe hexec
    have hlog : u.log = s.log := (congrArg State.log hframe :)
    have hnow : u.nowMs = s.nowMs := (congrArg State.nowMs hframe :)
    have hidle : u.rng.store = none := (congrArg (·.rng.store) hframe :).trans hstore
    refine ⟨fun hold => ?_, fun ⟨code, hold⟩ => ?_⟩
    · obtain ⟨c, e, hcheck⟩ := holdCheck_passed (s := u) (need := needParam) hold
      rw [hcheck] at hexec
      exact ⟨_, hexec, rfl, halert, hlog⟩
    · obtain ⟨c, e, hcheck⟩ := holdCheck_refused (s := u) (need := needParam) hold
      rw [hcheck] at hexec
      refine ⟨_, hexec, hidle, ?_, halert⟩
      show ({ u.log with retryAt := u.nowMs + 1000 } : Logbook) = _
      rw [hlog, hnow]
  · refine if_neg fun hgo => ?_
    rw [Bool.and_eq_true, Bool.and_eq_true, Bool.and_eq_true, decide_eq_true_eq] at hgo
    obtain ⟨⟨⟨hwait, hepoch, hretry⟩, hlisten⟩, hstore⟩ := hgo
    rcases hwhy with hno | hend | hearly | hdeaf | hbusy
    · exact Bool.false_ne_true (hno.symm.trans hwait)
    · exact Nat.not_le.mpr hepoch hend
    · exact Nat.not_le.mpr hearly hretry
    · exact Bool.false_ne_true (hdeaf.symm.trans hlisten)
    · exact hbusy (Option.isNone_iff_eq_none.mp hstore)

end Sys2Proof.Machine

end

section
/-! PROOFS. Results: the output header and data that close them, the signature of their records, and FETCH. -/

namespace Sys2Proof.Machine
open State

/-! ## A read of a slot of the service -/

/-- The read of one parcel that the front end asks for. -/
def slotRead (ch : BitVec 4) (i : Nat) (seq : W64) (a : Nat) : SReq :=
  { wr := false, addr := a, mask := 0, data := 0, poison := false, cclass := 0, check := none,
    who := .slotR ch.toNat i seq.toNat, sees := none, src := some slotKey }

section
variable {s : State} {ch : BitVec 4} {i : Nat} {seq : W64} {a : Nat}

theorem slotAsk_of_exit {x : Nat} (hx : placeExit a = some x) : s.slotAsk ch i seq a =
    s.queuedSlots [{ avail := s.now, taken := false, beat := mkBeat x [{ flow := .request (slotRead ch i seq a), addr := a, parcel := {} }] }] := by
  have hpkt : s.pktExit { flow := .request (slotRead ch i seq a), addr := a, parcel := {} } = some x := hx
  exact putPkt_of_exit hpkt slotKey s.now

theorem slotAsk_besidesDevices : (s.slotAsk ch i seq a).besidesDevices = s.besidesDevices := putPkt_besidesDevices ..

theorem mkBeat_slotRead (x : Nat) : mkBeat x [{ flow := .request (slotRead ch i seq a), addr := a, parcel := {} }] =
    { kind := 1, vmask := 0, hdr := BitVec.ofNat 58 (a % 2 ^ 42), ps := [], integer := false, sat := false,
      pkts := [{ flow := .request (slotRead ch i seq a), addr := a, parcel := {} }], dst := x } := by
  have haddr : 0 * 2 ^ 55 + 0 * 2 ^ 44 + a % 2 ^ 42 = a % 2 ^ 42 := by omega
  rw [← haddr]
  rfl

theorem slotHdr_place (a : Nat) : (BitVec.ofNat 58 (a % 2 ^ 42)).toNat % 2 ^ 42 = a % 2 ^ 42 := by
  rw [BitVec.toNat_ofNat]
  omega

end

/-! ## A result goes out -/

/-- The result of data that has been read. -/
def finishedKept (t : Taking) : Kept :=
  { t.kept with
    status := if t.got.any (fun x => x.2.poison) then 0x0600 else t.kept.status,
    data := ((List.range ((t.len + 31) / 32)).flatMap fun i =>
      match t.got.find? fun x => x.1 = i + 1 with
      | some x => if x.2.poison then List.replicate 32 0 else parcelBytes x.2.data
      | none => List.replicate 32 0).take t.len }

/-- The ring of records with one more, of which it keeps the newest 65,536. -/
def ringWith (ring : List (List Byte)) (record : List Byte) : List (List Byte) :=
  let r := if record = [] then ring else ring ++ [record]
  r.drop (r.length - 65536)

theorem ringWith_getLast {ring : List (List Byte)} {record : List Byte} (h : record ≠ []) : (ringWith ring record).getLast? = some record := by
  have hkeep : ¬(ring ++ [record]).length ≤ (ring ++ [record]).length - 65536 := by
    rw [List.length_append, List.length_singleton]
    omega
  unfold ringWith
  rw [if_neg h]
  dsimp only
  rw [List.getLast?_drop, if_neg hkeep, List.getLast?_concat]

section
variable {s t : State} {k : Kept} {y : Taking}

theorem sendResult_facts (h : s.sendResult k = t) :
    t.svc = { s.svc with kept := if k.req.origin.toNat = s.ownId then s.svc.kept ++ [k] else s.svc.kept } ∧ t.free = s.free ∧
      ∃ ring, t.log = { s.log with ring } ∧ (k.record ≠ [] → ring.getLast? = some k.record) := by
  obtain ⟨u, hu⟩ : ∃ u, s.resultTo k.req k.seq k.status k.data k.record = u := ⟨_, rfl⟩
  have hframe := s.resultTo_besidesReplies k.req k.seq k.status k.data k.record
  have ht : t = { u with
      log := { u.log with ring := ringWith u.log.ring k.record },
      svc := { u.svc with kept := if k.req.origin.toNat = u.ownId then u.svc.kept ++ [k] else u.svc.kept } } := by
    rw [← h, ← hu]
    rfl
  rw [hu] at hframe
  have hlog : u.log = s.log := (congrArg State.log hframe :)
  have hsvc : u.svc = s.svc := (congrArg State.svc hframe :)
  have hown : u.ownId = s.ownId := (congrArg State.ownId hframe :)
  have hfree : u.free = s.free := (congrArg State.free hframe :)
  rw [ht, hlog, hsvc, hown]
  refine ⟨rfl, hfree, _, rfl, fun hrecord => ?_⟩
  exact ringWith_getLast hrecord

theorem finishTaking_of_signed (h : y.mode = 2) : s.finishTaking y =
    { s with svc := { s.svc with taking := s.svc.taking.filter fun x => !(x.ch = y.ch && x.kept.seq = y.kept.seq) },
             log := { s.log with signq := s.log.signq ++ [{ record := y.kept.record, kept := finishedKept y }] } } := if_pos h

theorem finishTaking_of_plain (h : y.mode ≠ 2) : s.finishTaking y =
    ({ s with svc := { s.svc with taking := s.svc.taking.filter fun x => !(x.ch = y.ch && x.kept.seq = y.kept.seq) } } : State).sendResult
      (finishedKept y) := if_neg h

theorem finishTaking_taking : (s.finishTaking y).svc.taking = s.svc.taking.filter fun x => !(x.ch = y.ch && x.kept.seq = y.kept.seq) := by
  by_cases h : y.mode = 2
  · rw [finishTaking_of_signed h]
  · obtain ⟨hsvc, -⟩ := sendResult_facts (finishTaking_of_plain (s := s) h).symm
    exact congrArg (·.taking) hsvc

theorem finishTaking_open : (s.finishTaking y).log.open_ = s.log.open_ := by
  by_cases h : y.mode = 2
  · rw [finishTaking_of_signed h]
  · obtain ⟨-, -, ring, hlog, -⟩ := sendResult_facts (finishTaking_of_plain (s := s) h).symm
    exact congrArg (·.open_) hlog

theorem finishTaking_kept (h : y.mode ≠ 2) (hown : y.kept.req.origin.toNat = s.ownId) :
    (s.finishTaking y).svc.kept = s.svc.kept ++ [finishedKept y] := by
  obtain ⟨hsvc, -⟩ := sendResult_facts (finishTaking_of_plain (s := s) h).symm
  exact (congrArg (·.kept) hsvc).trans (if_pos hown)

end

/-! ## The data of a result -/

/-- The pieces of one length, read at a place of their run. -/
theorem getElem?_flatMap_range {α : Type} {g : Nat → List α} {w : Nat} (hw : ∀ i, (g i).length = w) {j : Nat} :
    ∀ n, j < n * w → ((List.range n).flatMap g)[j]? = (g (j / w))[j % w]? := by
  intro n
  induction n with
  | zero =>
    intro h
    rw [Nat.zero_mul] at h
    exact absurd h (Nat.not_lt_zero j)
  | succ n ih =>
    intro h
    have hlen : ((List.range n).flatMap g).length = n * w := by
      rw [List.length_flatMap, List.map_congr_left fun i _ => hw i, List.map_const', List.length_range, List.sum_replicate_nat]
    rw [List.range_succ, List.flatMap_append, List.flatMap_singleton]
    by_cases hlow : j < n * w
    · rw [List.getElem?_append_left (by rw [hlen]; exact hlow)]
      exact ih hlow
    · rw [List.getElem?_append_right (by rw [hlen]; exact Nat.not_lt.mp hlow), hlen]
      have hdiv : j / w = n := Nat.div_eq_of_lt_le (Nat.not_lt.mp hlow) h
      have hmod : j - n * w = j % w := by
        have := Nat.div_add_mod j w
        rw [hdiv, Nat.mul_comm] at this
        omega
      rw [hdiv, hmod]

/-- The bytes of one parcel of a result's data. -/
def gotBytes (got : List (Nat × Parcel)) (i : Nat) : List Byte :=
  match got.find? fun x => x.1 = i + 1 with
  | some x => if x.2.poison then List.replicate 32 0 else parcelBytes x.2.data
  | none => List.replicate 32 0

theorem gotBytes_length (got : List (Nat × Parcel)) (i : Nat) : (gotBytes got i).length = 32 := by
  unfold gotBytes
  split
  · split
    · exact List.length_replicate
    · exact parcelBytes_length _
  · exact List.length_replicate

theorem gotBytes_getElem {got : List (Nat × Parcel)} {i j : Nat} {x : Nat × Parcel} (h : got.find? (fun x => x.1 = i + 1) = some x) (hj : j < 32) :
    (gotBytes got i)[j]? = some (if x.2.poison then 0 else x.2.data.extractLsb' (8 * j) 8) := by
  unfold gotBytes
  rw [h]
  dsimp only
  split
  · exact (List.getElem?_replicate ..).trans (if_pos hj)
  · rw [← parcelBytes_getD x.2.data hj, List.getD_eq_getElem?_getD]
    obtain ⟨v, hv⟩ : ∃ v, (parcelBytes x.2.data)[j]? = some v := ⟨_, List.getElem?_eq_getElem (by rw [parcelBytes_length]; exact hj)⟩
    rw [hv]
    rfl

theorem finishedKept_data (t : Taking) : (finishedKept t).data = ((List.range ((t.len + 31) / 32)).flatMap (gotBytes t.got)).take t.len := rfl

theorem finishedKept_length (t : Taking) : (finishedKept t).data.length = t.len := by
  rw [finishedKept_data, List.length_take, List.length_flatMap, List.map_congr_left fun i _ => gotBytes_length t.got i, List.map_const',
    List.length_range, List.sum_replicate_nat]
  omega

theorem finishedKept_getElem {t : Taking} {j : Nat} {x : Nat × Parcel} (hj : j < t.len) (h : t.got.find? (fun x => x.1 = j / 32 + 1) = some x) :
    (finishedKept t).data[j]? = some (if x.2.poison then 0 else x.2.data.extractLsb' (8 * (j % 32)) 8) := by
  rw [finishedKept_data, List.getElem?_take_of_lt hj, getElem?_flatMap_range (gotBytes_length t.got) _ (by omega)]
  exact gotBytes_getElem h (Nat.mod_lt j (by decide))

/-! ## The close of a result -/

/-- A closed result whose data is to be read. -/
def State.takingOf (s : State) (ch : BitVec 4) (o : OpenRes) (status : W16) (slot len : Nat) : Taking :=
  { ch, mode := o.mode, slot, len, got := [],
    kept := { req := o.req, seq := o.seq, status, data := [],
              record := if o.mode = 0 then [] else s.recordOf o ch ((Sparse.get [] s.log.leaves ch.toNat).filter fun l => l.at_ < s.now),
              closed := s.nowMs } }

theorem closeResult_eq (s : State) (ch : BitVec 4) (o : OpenRes) (status : W16) (slot len : Nat) : ∃ (c : State),
    s.closeResult ch o status slot len = (if len = 0 then c.finishTaking (s.takingOf ch o status slot len)
      else (List.range ((len + 31) / 32)).foldl (fun c i => c.slotAsk ch (i + 1) o.seq (slot + 32 + 32 * i)) c) ∧
    c.log.open_ = Sparse.set none s.log.open_ ch.toNat none ∧ c.svc = { s.svc with taking := s.svc.taking ++ [s.takingOf ch o status slot len] } ∧
    c.out = s.out ∧ c.log.signq = s.log.signq ∧ c.ownId = s.ownId := ⟨_, rfl, rfl, rfl, rfl, rfl, rfl⟩

section
variable {s t : State} {ch : BitVec 4} {o : OpenRes} {status : W16} {slot len : Nat}

theorem closeResult_open : Sparse.get none (s.closeResult ch o status slot len).log.open_ ch.toNat = none := by
  obtain ⟨c, hc, hopen, -⟩ := closeResult_eq s ch o status slot len
  have hkept : (s.closeResult ch o status slot len).log.open_ = c.log.open_ := by
    rw [hc]
    split
    · exact finishTaking_open
    · exact congrArg (·.log.open_) (foldl_keeps besidesDevices (fun _ _ _ => slotAsk_besidesDevices) c :)
  rw [hkept, hopen, Sparse.get_set_same]

theorem closeResult_of_unsigned (hlen : len = 0) (hmode : o.mode = 0) (hown : o.req.origin.toNat = s.ownId) :
    (s.closeResult ch o status slot len).svc.kept =
      s.svc.kept ++ [{ req := o.req, seq := o.seq, status, data := [], record := [], closed := s.nowMs }] := by
  obtain ⟨c, hc, -, hsvc, -, -, hid⟩ := closeResult_eq s ch o status slot len
  have hplain : (s.takingOf ch o status slot len).mode ≠ 2 := fun h => absurd (hmode.symm.trans h) (by decide)
  rw [hc, if_pos hlen, finishTaking_kept hplain (by rw [hid]; exact hown), hsvc]
  have hkept : finishedKept (s.takingOf ch o status slot len) = { req := o.req, seq := o.seq, status, data := [], record := [], closed := s.nowMs } := by
    unfold finishedKept takingOf
    dsimp only
    rw [hlen, hmode]
    rfl
  rw [hkept]

theorem closeResult_of_signed (hlen : len = 0) (hmode : o.mode = 2) :
    (s.closeResult ch o status slot len).out = s.out ∧ (s.closeResult ch o status slot len).svc.kept = s.svc.kept ∧
      ∃ w, (s.closeResult ch o status slot len).log.signq = s.log.signq ++ [w] ∧ w.kept.seq = o.seq ∧ w.kept.status = status ∧ w.kept.data = [] := by
  obtain ⟨c, hc, -, hsvc, hout, hsign, -⟩ := closeResult_eq s ch o status slot len
  rw [hc, if_pos hlen, finishTaking_of_signed hmode]
  refine ⟨hout, congrArg (·.kept) hsvc, _, congrArg (· ++ _) hsign, rfl, rfl, ?_⟩
  exact List.eq_nil_of_length_eq_zero ((finishedKept_length _).trans hlen)

theorem closeResult_of_data (hlen : 0 < len) :
    (s.closeResult ch o status slot len).out = s.out ∧ (s.closeResult ch o status slot len).log.signq = s.log.signq ∧
      (s.closeResult ch o status slot len).svc.taking = s.svc.taking ++ [s.takingOf ch o status slot len] := by
  obtain ⟨c, hc, -, hsvc, hout, hsign, -⟩ := closeResult_eq s ch o status slot len
  have hframe := foldl_keeps besidesDevices (f := fun (c : State) i => c.slotAsk ch (i + 1) o.seq (slot + 32 + 32 * i))
    (fun _ _ _ => slotAsk_besidesDevices) c (l := List.range ((len + 31) / 32))
  rw [if_neg (Nat.ne_of_gt hlen)] at hc
  rw [← hc] at hframe
  generalize s.closeResult ch o status slot len = t at hframe
  exact ⟨(congrArg State.out hframe :).trans hout, (congrArg (·.log.signq) hframe :).trans hsign,
    (congrArg (·.svc.taking) hframe :).trans (congrArg (·.taking) hsvc)⟩

end

/-! ## A parcel that a slot's read gives -/

theorem ofNat_channel (ch : BitVec 4) : BitVec.ofNat 4 ch.toNat = ch := (BitVec.ofNat_toNat 4 ch).trans (BitVec.setWidth_eq ch)

section
variable {s : State} {ch : BitVec 4} {q : SReq} {p : Parcel} {i seq : Nat}

theorem slotGot_of_verified (hwho : q.who = .slotR ch.toNat i seq) (hgood : ¬verifies p q.addr = false) :
    s.slotGot q p = if i = 0 then s.headerGot ch seq p else s.dataGot ch i seq p := by
  have hconsume : consume p q.addr = (p, false) := if_pos (eq_true_of_ne_false hgood)
  unfold slotGot
  rw [hwho]
  dsimp only
  rw [hconsume, ofNat_channel]
  rfl

theorem slotGot_of_unverified (hwho : q.who = .slotR ch.toNat i seq) (hbad : verifies p q.addr = false) :
    s.slotGot q p = if i = 0 then s.countEdgePoison.headerGot ch seq (poisonedParcel q.addr)
      else s.countEdgePoison.dataGot ch i seq (poisonedParcel q.addr) := by
  have hconsume : consume p q.addr = (poisonedParcel q.addr, true) := if_neg (ne_true_of_eq_false hbad)
  unfold slotGot
  rw [hwho]
  dsimp only
  rw [hconsume, ofNat_channel]
  rfl

theorem headerGot_of_open {o : OpenRes} {v : SvcRec} (hopen : Sparse.get none s.log.open_ ch.toNat = some o) (hsvc : s.serviceAt o.req.svc = some v) :
    s.headerGot ch o.seq.toNat p =
      if p.poison then s.closeResult ch o 0x0601 v.output 0
      else if fieldAt (parcelBytes p.data) 0 8 ≠ o.seq.toNat then s
      else s.closeResult ch o (BitVec.ofNat 16 (fieldAt (parcelBytes p.data) 8 2)) v.output (min (fieldAt (parcelBytes p.data) 10 4) v.outMax) := by
  unfold headerGot
  rw [hopen]
  dsimp only
  rw [hsvc]
  exact if_neg (not_not_intro rfl)

/-- The last parcel of a result's data ends its reading. -/
theorem dataGot_of_last {y : Taking}
    (hfind : s.svc.taking.find? (fun t => t.ch = ch && decide (t.kept.seq.toNat = y.kept.seq.toNat)) = some y)
    (hlen : (y.got ++ [(i, p)]).length = (y.len + 31) / 32) : ∃ u : State, s.dataGot ch i y.kept.seq.toNat p =
      u.finishTaking { y with got := y.got ++ [(i, p)] } ∧ u.ownId = s.ownId ∧ u.svc.kept = s.svc.kept ∧ u.out = s.out ∧
      u.log.signq = s.log.signq := by
  refine ⟨{ s with svc := { s.svc with taking := s.svc.taking.map fun x => if x = y then { y with got := y.got ++ [(i, p)] } else x } },
    ?_, rfl, rfl, rfl, rfl⟩
  unfold dataGot
  rw [hfind]
  exact if_pos (Nat.le_of_eq hlen.symm)

end

/-! ## The signature of records -/

/-- The lowest of the records that wait. -/
theorem lowest_of_signq : ∀ (l : List Unsigned) (u : Unsigned),
    l.foldl lowerSeq u ∈ u :: l ∧ ∀ w ∈ u :: l, (l.foldl lowerSeq u).kept.seq ≤ w.kept.seq := by
  intro l
  induction l with
  | nil =>
    refine fun u => ⟨List.mem_singleton.mpr rfl, fun w hw => ?_⟩
    rw [List.mem_singleton.mp hw]
    exact BitVec.le_refl _
  | cons x l ih =>
    intro u
    obtain ⟨hmem, hle⟩ := ih (lowerSeq u x)
    have hcases : lowerSeq u x = u ∨ lowerSeq u x = x := by
      unfold lowerSeq
      split
      · exact .inr rfl
      · exact .inl rfl
    have hboth : (lowerSeq u x).kept.seq ≤ u.kept.seq ∧ (lowerSeq u x).kept.seq ≤ x.kept.seq := by
      unfold lowerSeq
      split
      · next h => exact ⟨BitVec.le_of_lt h, BitVec.le_refl _⟩
      · next h => exact ⟨BitVec.le_refl _, BitVec.not_lt.mp h⟩
    have hfirst := hle _ List.mem_cons_self
    refine ⟨?_, fun w hw => ?_⟩
    · rcases List.mem_cons.mp hmem with he | hin
      · rw [List.foldl_cons, he]
        rcases hcases with h | h <;> rw [h]
        · exact List.mem_cons_self
        · exact List.mem_cons_of_mem _ List.mem_cons_self
      · exact List.mem_cons_of_mem _ (List.mem_cons_of_mem _ hin)
    · rcases List.mem_cons.mp hw with rfl | hw
      · exact BitVec.le_trans hfirst hboth.1
      · rcases List.mem_cons.mp hw with rfl | hw
        · exact BitVec.le_trans hfirst hboth.2
        · exact hle w (List.mem_cons_of_mem _ hw)

/-- A record with its signature. -/
def State.signedRecord (s : State) (u : Unsigned) : List Byte :=
  u.record.take 0x100 ++ beBytes 64 (Config.sm2Sign 1 (u.record.take 0x100) s.free).toNat

theorem signedRecord_ne_nil (s : State) (u : Unsigned) : s.signedRecord u ≠ [] := by
  refine List.ne_nil_of_length_pos ?_
  unfold signedRecord beBytes
  rw [List.length_append, List.length_reverse, leBytes_length]
  omega

theorem exec_recordSign_of_first {s : State} {x : Unsigned} {rest : List Unsigned} (h : s.log.signq = x :: rest) : exec .recordSign s =
    .next ((({ s with log := { s.log with signq := s.log.signq.erase (rest.foldl lowerSeq x) } } : State).draw).sendResult
      { (rest.foldl lowerSeq x).kept with record := s.signedRecord (rest.foldl lowerSeq x) }) := by
  change execRecordSign s = _
  unfold execRecordSign
  rw [h]
  rfl

theorem resultsClose : Claim.ResultsClose := by
  intro s ch o v q i p y b isOpen got bad
  refine ⟨fun hnone => ?_, fun hstep => ?_, fun hopen hstep d hd => ?_, fun hopen hwho => ⟨fun hbad => ?_, fun hgood hpoison => ?_,
    fun hgood hclean hseq => ?_, fun hgood hclean hseq => ?_⟩, fun status slot len => ⟨closeResult_open, closeResult_of_unsigned,
    closeResult_of_signed, fun hlen => ?_⟩, fun hwho hi hgood hfind hlen => ?_, fun hsome => ?_, fun hnil => ?_⟩
  · change execOutputHeaderPoll ch s = _
    unfold execOutputHeaderPoll
    rw [hnone]
  · change execOutputHeaderPoll ch s = _
    unfold execOutputHeaderPoll
    split
    · rfl
    · split
      · rfl
      · exact if_pos hstep
  · obtain ⟨hres, hsvc⟩ := hopen
    have hexec : exec (.outputHeaderPoll ch) s = .next (s.slotAsk ch 0 o.seq v.output) := by
      change execOutputHeaderPoll ch s = _
      unfold execOutputHeaderPoll
      rw [hres]
      dsimp only
      rw [hsvc]
      exact if_neg (not_not_intro hstep)
    rw [slotAsk_of_exit hd, mkBeat_slotRead] at hexec
    exact ⟨_, rfl, rfl, rfl, rfl, rfl, rfl, slotHdr_place v.output, hexec⟩
  · obtain ⟨hres, hsvc⟩ := hopen
    rw [slotGot_of_unverified hwho hbad, if_pos rfl, headerGot_of_open (s := s.countEdgePoison) hres hsvc]
    exact if_pos rfl
  · obtain ⟨hres, hsvc⟩ := hopen
    rw [slotGot_of_verified hwho hgood, if_pos rfl, headerGot_of_open hres hsvc, if_pos hpoison]
  · obtain ⟨hres, hsvc⟩ := hopen
    rw [slotGot_of_verified hwho hgood, if_pos rfl, headerGot_of_open hres hsvc, if_neg (ne_true_of_eq_false hclean), if_pos hseq]
  · obtain ⟨hres, hsvc⟩ := hopen
    rw [slotGot_of_verified hwho hgood, if_pos rfl, headerGot_of_open hres hsvc, if_neg (ne_true_of_eq_false hclean), if_neg (not_not_intro hseq)]
  · obtain ⟨hout, hsign, htaking⟩ := closeResult_of_data (s := s) (ch := ch) (o := o) (status := status) (slot := slot) hlen
    exact ⟨hout, hsign, _, htaking, rfl, rfl, rfl, rfl, rfl, rfl, rfl⟩
  · obtain ⟨u, hu, hid, hkept, hout, hsign⟩ := dataGot_of_last (i := i) (p := p) hfind hlen
    have hgot := (slotGot_of_verified (s := s) hwho hgood).trans ((if_neg hi).trans hu)
    obtain ⟨t, ht⟩ : ∃ t, s.slotGot q p = t := ⟨_, rfl⟩
    have hch : y.ch = ch := by
      have hy := List.find?_some hfind
      rw [Bool.and_eq_true, decide_eq_true_eq] at hy
      exact hy.1
    rw [ht] at hgot
    show (∀ x ∈ (s.slotGot q p).svc.taking, _) ∧ _
    rw [ht]
    refine ⟨fun x hx hsame => ?_, fun hmode hown => ?_, fun hmode => ?_⟩
    · rw [hgot, finishTaking_taking] at hx
      obtain ⟨-, hother⟩ := List.mem_filter.mp hx
      rw [decide_eq_true (show x.ch = y.ch from hsame.1.trans hch.symm), decide_eq_true hsame.2] at hother
      exact Bool.false_ne_true hother
    · refine ⟨finishedKept { y with got := got }, ?_, rfl, rfl, rfl, rfl, finishedKept_length _, fun j hj x hx => finishedKept_getElem hj hx⟩
      rw [hgot, finishTaking_kept (y := { y with got := y.got ++ [(i, p)] }) hmode (by rw [hid]; exact hown), hkept]
    · rw [hgot, finishTaking_of_signed (y := { y with got := y.got ++ [(i, p)] }) hmode]
      refine ⟨hkept, hout, ?_⟩
      rw [List.length_append, hsign]
      rfl
  · obtain ⟨x, rest, hlist⟩ := List.exists_cons_of_ne_nil hsome
    have hexec := exec_recordSign_of_first hlist
    obtain ⟨hmem, hle⟩ := lowest_of_signq rest x
    rw [← hlist] at hmem hle
    generalize rest.foldl lowerSeq x = u at hexec hmem hle
    obtain ⟨-, hfree, ring, hlog, hring⟩ := sendResult_facts
      (s := ({ s with log := { s.log with signq := s.log.signq.erase u } } : State).draw) (k := { u.kept with record := s.signedRecord u }) rfl
    exact ⟨_, u, hexec, hmem, hle, congrArg (·.signq) hlog, hfree,
      (congrArg (fun l : Logbook => l.ring.getLast?) hlog).trans (hring (signedRecord_ne_nil s u))⟩
  · change execRecordSign s = _
    unfold execRecordSign
    rw [hnil]

/-! ## FETCH -/

theorem exec_fetch_of_served {s u : State} {peer : Peer} {bytes : List Byte} {m : Msg} {k : Session} {body : List Byte} {r : Req}
    (hmsg : s.serviceMsg 0x23 bytes = some m) (hin : s.serviceIn peer m = (u, some (k, body))) (hlen : 8 ≤ body.length)
    (hr : r = { sid := k.sid, peer, reqId := BitVec.ofNat 64 (fieldAt body 0 8), svc := 0, total := 0, data := [],
                origin := BitVec.ofNat 14 u.ownId, since := 0 }) :
    exec (.fetch peer bytes) s =
      match u.svc.kept.find? fun x => r.same x.req && decide (u.nowMs < x.closed + 10000) with
      | some x => .next (u.resultTo { x.req with peer } x.seq x.status x.data x.record)
      | none => .next (if u.reqPending r then u else u.replyTo r 0x0303 0 0) := by
  change execFetch peer bytes s = _
  unfold execFetch
  rw [hmsg]
  dsimp only
  rw [hin]
  dsimp only
  rw [if_neg (Nat.not_lt.mpr hlen), hr] <;> rfl

theorem fetchWithinTenSeconds : Claim.FetchWithinTenSeconds := by
  intro s u peer bytes m k body x r
  refine ⟨fun hmsg hready haccept hrole henc hlen => ?_, fun hnone => ?_, fun sid id => ⟨_, rfl, rfl, fun y hy => ?_⟩⟩
  · have hu := accept_some haccept
    have hr : r = { sid := k.sid, peer, reqId := BitVec.ofNat 64 (fieldAt body 0 8), svc := 0, total := 0, data := [],
                    origin := BitVec.ofNat 14 u.ownId, since := 0 } := by
      rw [hu]
      rfl
    have hsame : u.svc = s.svc ∧ u.nowMs = s.nowMs := by
      rw [hu]
      exact ⟨rfl, rfl⟩
    have hexec := exec_fetch_of_served hmsg (serviceIn_of_served hready haccept hrole henc) hlen hr
    rw [hsame.1, hsame.2] at hexec
    clear_value r
    have hnone : (∀ y ∈ s.svc.kept, r.same y.req = true → y.closed + 10000 ≤ s.nowMs) →
        s.svc.kept.find? (fun y => r.same y.req && decide (s.nowMs < y.closed + 10000)) = none := fun hold =>
      List.find?_eq_none.mpr fun y hy hfound => by
        rw [Bool.and_eq_true, decide_eq_true_eq] at hfound
        exact Nat.not_le.mpr hfound.2 (hold y hy hfound.1)
    refine ⟨fun hfind => ?_, fun hold hpending => ?_, fun hold hpending => ?_⟩
    · rw [hexec, hfind]
    · rw [hexec, hnone hold]
      exact congrArg Host.Outcome.next (if_neg (ne_true_of_eq_false hpending))
    · rw [hexec, hnone hold]
      exact congrArg Host.Outcome.next (if_pos hpending)
  · change execFetch peer bytes s = _
    unfold execFetch
    rw [hnone]
  · simp only [List.mem_filter, hy, true_and, Bool.not_eq_true', Bool.and_eq_false_iff, decide_eq_false_iff_not]
    tauto

/-- Settles O57: a free channel admits its next request, a header with its number closes a result, and FETCH sends a kept one again. -/
theorem resultsAreServed : Obligations.ResultsAreServed := ⟨admissionTakesTheNextNumber, resultsClose, fetchWithinTenSeconds⟩

end Sys2Proof.Machine

end
